-- ==== Sys2Proof/Word.lean ====
section
/-! DEFINITION. The words of the part (R3): a word is 256 bits, every stored word carries 32 check bits (R208). -/
namespace Sys2Proof

/-- A byte. -/
abbrev Byte := BitVec 8

/-- A word of the part: 256 bits, bit 0 least significant (R3). -/
abbrev Word := BitVec 256

/-- The 32-bit check value carried with every word (R208). -/
abbrev Check := BitVec 32

/-- A word as a store holds it: its data and the check value stored beside it (R208, R209). -/
structure Stored where
  data  : Word
  check : Check
deriving DecidableEq, Repr

/-- A plan descriptor or a host descriptor: 64 bytes, read as one little-endian number (R107, R136). -/
abbrev Desc := BitVec 512

end Sys2Proof
end

