-- ==== Sys2Proof/Syntax.lean ====
section
/-! DEFINITION. The commands the block takes: one constructor for each row of the table of operations and events.
The operands carry what comes from outside (bytes a host holds, symbols on a link, a sensor's reading) and name the unit
that acts; what the part itself holds (a queue head, a ring's current entry, a received packet) is read from State. -/
namespace Sys2Proof

/-- A PCIe function: its port, and 0 for PF0 or i + 1 for VF i (R398, R401). -/
structure FnId where
  port : Fin 2
  fn   : Fin 129
deriving DecidableEq, Repr

/-- Where a host descriptor comes from: a function's intake ring, or a core's internal intake (R134, R172). -/
inductive Src where
  | ring (f : FnId)
  | core (k : Fin 20)
deriving DecidableEq, Repr

/-- How a dictionary request reaches the management core: it is the head of its queue (R439), or it is a frame of
the management port, which has no row of its own (R428), executed as it arrives. -/
inductive Via where
  | head
  | frame (mac : BitVec 48) (bytes : List Byte)
deriving DecidableEq, Repr

/-- Who executes an extension instruction: the routine of a slot, in user mode, or firmware, in machine mode (R161, R168). -/
inductive CkMode where
  | user (slot : Fin 16)
  | machine
deriving DecidableEq, Repr

/-- What a routine did wrong (R166); the pc is that of the routine. -/
inductive RoutineFault where
  | access
  | illegal
  | ecall
  | ebreak
deriving DecidableEq, Repr

/-- A region that is being cleared (R214): a block, a pseudo-channel, an allocation or a kerb or pool frame's range. -/
inductive Region where
  | block (b : Fin 256)
  | channel (c : Fin 256)
  | alloc (i : Fin 4096)
deriving DecidableEq, Repr

/-- A register access of a BAR0 page (R402, R427): byte offset, width in bytes, and the value of a write. -/
structure Access where
  offset : BitVec 16
  width  : Nat
  value  : Option (BitVec 64)
deriving DecidableEq, Repr

/-- An access of the device window (R405): a read of n bytes, or a write of the given bytes. -/
inductive WindowOp where
  | read (n : Nat)
  | write (bytes : List Byte)
deriving DecidableEq, Repr

/-- PCIe errors (R411). -/
inductive PcieError where
  | correctable
  | nonfatal
  | timeout
  | urOrCa
  | poisonedRead
  | poisonedWrite
deriving DecidableEq, Repr

/-- The operation a PCIe error meets (R411): none, a ring fetch, the entry a source is processing, or a mover's tier-3 access. -/
inductive PcieVictim where
  | none
  | fetch (f : FnId)
  | entry (src : Src)
  | mover (b : Fin 256)
deriving DecidableEq, Repr

/-- What a received RoCEv2 packet is (R416, R419). The queue pair number is the destination's; `bad` is a bad ICRC, a bad FCS or a fragment. -/
inductive RocePacket where
  | bad
  | response (qpn : Nat) (psn : BitVec 24) (marked : Bool) (payload : List Byte)
  | ack (qpn : Nat) (psn : BitVec 24)
  | nakSequence (qpn : Nat) (psn : BitVec 24)
  | nakFatal (qpn : Nat) (psn : BitVec 24)
  | badResponse (qpn : Nat)
  | request (qpn : Nat)
deriving DecidableEq, Repr

/-- A temperature sensor: a district's or an HBM stack's (R506). -/
inductive Sensor where
  | district (d : Fin 16)
  | stack (k : Fin 8)
deriving DecidableEq, Repr

/-- What wakes a PARKED part (R504). -/
inductive WakeTrigger where
  | command (via : Via)
  | hostDescriptor
  | packet
  | expiry
  | activate
deriving DecidableEq, Repr

/-- A firmware image as the card holds it (R474): the fields, and whether its fixed and zero fields hold. -/
structure FirmwareImage where
  formatOk : Bool
  svn      : BitVec 16
  version  : BitVec 32
  header   : List Byte
  vendorPk : List Byte
  sig      : List Byte
  body     : List Byte
deriving DecidableEq, Repr

/-- The state codes of a firmware slot (R472). -/
inductive SlotState where
  | empty
  | unchecked
  | valid
  | bad
deriving DecidableEq, Repr

/-- A firmware slot: its state, its image when one is complete, the bytes of a write in progress, and the digest of its last verification (R472, R477). -/
structure CardSlot where
  state   : SlotState
  image   : Option FirmwareImage
  writing : List Byte
  digest  : List Byte
deriving DecidableEq, Repr

/-- The persistent dictionary store (R473): retirements, soft repairs taken, and object values by key. -/
structure Store where
  generation : BitVec 32
  retired    : List Nat
  repaired   : List Nat
  values     : List (Nat × List Byte)
deriving DecidableEq, Repr

/-- A firmware card (R471): the header in force, the slots, the option block's bytes and the store in force. -/
structure CardImage where
  generation : BitVec 32
  active     : Fin 2
  slotA      : CardSlot
  slotB      : CardSlot
  options    : List Byte
  store      : Store
deriving DecidableEq, Repr

/-- What a start meets outside the part (R466, R468, R414): the straps, whether the references hold, the blocks and
pseudo-channels that fail the self-test, the CXL capacities found, and the durations spent. -/
structure StartEnv where
  straps       : BitVec 32
  refsOk       : Bool
  badBlocks    : List (Fin 256)
  badChannels  : List (Fin 256)
  cxlCapacity  : List Nat
  cxlDevice    : List (BitVec 32)
  micros       : Nat
deriving DecidableEq, Repr


/-- The commands of the part: one constructor for each row of the table of operations and events. -/
inductive Instr where
  /-- MMA (R71). A matrix descriptor issues and accumulates A·Bᵀ, or its negation, into a long-accumulator bank that it starts or continues. -/
  | mma (b : Fin 256)
  /-- ACC_START (R72). Starts a long-accumulator bank: every entry is zeroed and the anchor is recorded. -/
  | accStart (b : Fin 256)
  /-- ACC_LOAD (R73). Starts a bank and loads its entries from a wide-partial buffer after the header checks. -/
  | accLoad (b : Fin 256)
  /-- FOLD (R40). At the end of a block period the short sum of one scaling block is folded into its long-accumulator entry. -/
  | fold (b : Fin 256)
  /-- MATRIX_COMPLETION (R74). A matrix operation completes: its last fold is written, the bank tag is set unless a later writer has issued, and its place in flight is freed. -/
  | matrixCompletion (b : Fin 256)
  /-- READOUT (R86). Reads a bank or wide-partial buffer, applies the optional column scale and bias, and rounds once. -/
  | readout (b : Fin 256)
  /-- EXPORT (R88). Exports a bank to a wide-partial buffer by R54. -/
  | exportBank (b : Fin 256)
  /-- WPADD (R89). Forms the exact wide add of two or three wide-partial buffers. -/
  | wpadd (b : Fin 256)
  /-- CVT (R85). Converts elements to another format, rounding once. -/
  | cvt (b : Fin 256)
  /-- ADD (R85). Element-wise addition, rounded once. -/
  | add (b : Fin 256)
  /-- SUB (R85). Element-wise subtraction, rounded once. -/
  | sub (b : Fin 256)
  /-- MUL (R85). Element-wise multiplication, rounded once. -/
  | mul (b : Fin 256)
  /-- FMA (R85). Element-wise fused multiply-add, rounded once. -/
  | fma (b : Fin 256)
  /-- MAX (R85). Element-wise maximum in the order of R85. -/
  | max (b : Fin 256)
  /-- MIN (R85). Element-wise minimum in the order of R85. -/
  | min (b : Fin 256)
  /-- TRANS_EXP2 (R93). TRANS with SUBOP 0 evaluates exp2 by the table algorithm. -/
  | transExp2 (b : Fin 256)
  /-- TRANS_LOG2 (R93). TRANS with SUBOP 1 evaluates log2 by the table or series path. -/
  | transLog2 (b : Fin 256)
  /-- TRANS_RECIPROCAL (R93). TRANS with SUBOP 2 evaluates the reciprocal. -/
  | transReciprocal (b : Fin 256)
  /-- TRANS_RECIPROCAL_SQUARE_ROOT (R93). TRANS with SUBOP 3 evaluates the reciprocal square root. -/
  | transReciprocalSquareRoot (b : Fin 256)
  /-- TRANS_TANH (R93). TRANS with SUBOP 4 evaluates tanh by the table or series path. -/
  | transTanh (b : Fin 256)
  /-- REDUCE_SUM (R90). Sums each row exactly after truncating each element into the window. -/
  | reduceSum (b : Fin 256)
  /-- REDUCE_SUMSQ (R90). Sums the exact squares of each row exactly after truncation into the window. -/
  | reduceSumsq (b : Fin 256)
  /-- REDUCE_MAX (R90). Gives the greatest element of each row. -/
  | reduceMax (b : Fin 256)
  /-- REDUCE_MIN (R90). Gives the least element of each row. -/
  | reduceMin (b : Fin 256)
  /-- REDUCE_ARGMAX (R90). Gives the index of the first maximal element of each row. -/
  | reduceArgmax (b : Fin 256)
  /-- REDUCE_ARGMIN (R90). Gives the index of the first minimal element of each row. -/
  | reduceArgmin (b : Fin 256)
  /-- EXPSUM (R97). Computes exp2 against the row maxima, writes the values and writes the exact row sums as a wide partial. -/
  | expsum (b : Fin 256)
  /-- NORMSCALE (R98). Applies row statistics and an affine transform, rounding once. -/
  | normscale (b : Fin 256)
  /-- SAMPLE (R99). Draws one element per row by Gumbel-max with Philox draws. -/
  | sample (b : Fin 256)
  /-- SAMPLE_MERGE (R101). SAMPLE with MERGE set chooses the greatest-key pair of each row among partial draws. -/
  | sampleMerge (b : Fin 256)
  /-- VECTOR_COMPLETION (R102). A vector operation completes: its last word is written, destination tags and flag are set and any summary is formed, unless the completion is held for room for records. -/
  | vectorCompletion (b : Fin 256)
  /-- SUMMARY_HOLD_RELEASE (R106). A completion held because four records were waiting takes place when a place for a record comes free. -/
  | summaryHoldRelease (b : Fin 256)
  /-- SUMMARY_DELIVERY (R170). A waiting summary record enters its lead core's mailbox queue once the queue has room, forwarded over the control path. -/
  | summaryDelivery (b : Fin 256)
  /-- NOP (R112). Does nothing beyond waiting on flags and setting one at completion one cycle later. -/
  | nop (b : Fin 256)
  /-- NOTE (R112). Posts a summary record carrying a user word two cycles after issue. -/
  | note (b : Fin 256)
  /-- COPY (R193). Copies whole words between two handles on a street or to or from a tier. -/
  | copy (b : Fin 256)
  /-- WSTREAM (R202). Streams a weight pack from a tier through the decompressor into block memory. -/
  | wstream (b : Fin 256)
  /-- DECOMPRESS_BLOCK (R203). The decompressor expands one pack block once its packed words have arrived, writing the raw words through the landing port. -/
  | decompressBlock (b : Fin 256)
  /-- GATHER (R238). Gathers KV words from pages through the page directories into block memory at fixed cost. -/
  | gather (b : Fin 256)
  /-- SCATTER (R238). Writes KV words from block memory to pages at the bound requests' token positions. -/
  | scatter (b : Fin 256)
  /-- FILL (R195). Writes one given word to every word of a destination extent. -/
  | fill (b : Fin 256)
  /-- MOVER_COMPLETION (R195). A mover transfer completes when its last unit or word is written, setting the destination tag. -/
  | moverCompletion (b : Fin 256)
  /-- STREET_WORD_DELIVERY (R20). The delivery equaliser writes an in-district word at its logical cycle. -/
  | streetWordDelivery (b : Fin 256)
  /-- LANDING_WRITE (R26). A cross-district or tier word is written by the landing port in the first unclaimed bank cycle after it arrives. -/
  | landingWrite (b : Fin 256)
  /-- HBM_UNIT_SLOT (R185). A pseudo-channel slot begins and carries the next presented plan unit of its stream, a service unit, or nothing. -/
  | hbmUnitSlot (c : Fin 256)
  /-- HBM_REFRESH_WINDOW (R181). Slots 240 to 255 of each frame refresh every bank and carry no unit. -/
  | hbmRefreshWindow (c : Fin 256)
  /-- SEND (R340). Sends words as DATA packets over a plan flow to a receive buffer on another part. -/
  | send (b : Fin 256)
  /-- CSUM (R352). Starts an exact sum of wide partials across the parts of a job along the chosen dimensions. -/
  | csum (b : Fin 256)
  /-- CMAX (R353). Starts the element-wise maximum across the parts of a job. -/
  | cmax (b : Fin 256)
  /-- CMIN (R353). Starts the element-wise minimum across the parts of a job. -/
  | cmin (b : Fin 256)
  /-- COLLECTIVE_COMPLETION (R355). A collective completes when its last result word is written, setting its tag and flag. -/
  | collectiveCompletion (b : Fin 256)
  /-- BARRIER (R350). Joins the descriptor barrier of the current step. -/
  | barrier (b : Fin 256)
  /-- BIND_SEEDREC (R235). Writes one seed record per slot through the serving port. -/
  | bindSeedrec (b : Fin 256)
  /-- BIND_SLOTINFO (R236). Writes one SLOTINFO word per slot through the serving port. -/
  | bindSlotinfo (b : Fin 256)
  /-- BIND_INPUT (R235). Writes each slot's input chunk through the serving port. -/
  | bindInput (b : Fin 256)
  /-- ROUTE (R257). Masks invisible experts to −∞ and writes the top k visible experts of each row. -/
  | route (b : Fin 256)
  /-- KVAPPEND (R240). Commits the step's stored tokens for the bound slots, applied at DONE. -/
  | kvappend (b : Fin 256)
  /-- EMIT (R241). Reads one sampled pair per slot and records each bound request's token for delivery at DONE. -/
  | emit (b : Fin 256)
  /-- DIGEST (R264). Marks the bound slots' stored tokens for absorption into their provenance state at DONE. -/
  | digest (b : Fin 256)
  /-- SERVING_COMPLETION (R237). A serving descriptor completes after its transfer on the partition's serving port, setting its tags. -/
  | servingCompletion (p : Fin 64)
  /-- ISSUE_CHECK (R120). At the check cycle of a queue head the dispatcher checks its waited flags and source tags, freezing the partition if any is not visible. -/
  | issueCheck (b : Fin 256) (queue : Fin 4)
  /-- FREEZE_RESUME (R148). Once every cause of a freeze is resolved and one further cycle has passed, the partition's counters resume. -/
  | freezeResume (p : Fin 64)
  /-- DESCRIPTOR_PREFETCH (R129). The prefetcher delivers STREAMED descriptors from the plan area into the queue store. -/
  | descriptorPrefetch (b : Fin 256) (queue : Fin 4)
  /-- GRIDLOCK_DETECTOR_RUN (R153). Every 4,096 lead-district cycles the detector examines a frozen partition's held heads and declares gridlock on an unsettable wait. -/
  | gridlockDetectorRun (p : Fin 64)
  /-- STEP (R133). A host STEP ticket is checked and accepted or refused for its partition. -/
  | step (src : Src)
  /-- BATCH_RESOLUTION (R232). The serving unit resolves the batch named by a ticket, binding prepared requests to slots. -/
  | batchResolution (p : Fin 64)
  /-- STEP_BARRIER_JOIN (R349). A WAITING partition whose holds have ended joins its job's step barrier. -/
  | stepBarrierJoin (p : Fin 64)
  /-- BARRIER_RELEASE (R348). A part's town clock reaches T_rel of a barrier instance and it releases that instance. -/
  | barrierRelease (p : Fin 64)
  /-- SEGMENT_END (R131). The lead district reaches a segment's end cycle Z and the partition freezes if a CHOOSE choice is missing. -/
  | segmentEnd (p : Fin 64)
  /-- SEGMENT_ENTRY (R131). The successor segment is entered 64 logical cycles after Z. -/
  | segmentEntry (p : Fin 64)
  /-- STEP_END (R131). An END segment's Z has been reached and every operation of the step has completed; the step is DONE and its completion record written. -/
  | stepEnd (p : Fin 64)
  /-- SERVING_DONE (R514). The serving unit observes a step's DONE, applies the held request changes and forms its request completions before the STEP completion. -/
  | servingDone (p : Fin 64)
  /-- CHOICE_LIMIT_EXPIRY (R174). A partition frozen on a segment or summary wait for more than CHOICE_LIMIT cycles fails its step. -/
  | choiceLimitExpiry (p : Fin 64)
  /-- ROUTINE_ENTRY (R165). A choice routine is entered at its first instruction in the first slice of its slot after a step start. -/
  | routineEntry (p : Fin 64)
  /-- SLICE_END (R163). A routine still running at the end of its slice is suspended until its next slice. -/
  | sliceEnd (p : Fin 64)
  /-- CK_MBCNT (R167). Returns the number of records waiting in a queue. -/
  | ckMbcnt (k : Fin 20) (m : CkMode) (rd rs1 : Fin 32)
  /-- CK_MBPOP (R167). Pops the head record of a queue into data memory. -/
  | ckMbpop (k : Fin 20) (m : CkMode) (rd rs1 rs2 : Fin 32)
  /-- CK_CHOOSE (R171). Registers a successor segment for the current CHOOSE segment and returns a status. -/
  | ckChoose (k : Fin 20) (m : CkMode) (rd rs1 : Fin 32)
  /-- CK_TKT (R167). Copies the current step's ticket into data memory. -/
  | ckTkt (k : Fin 20) (m : CkMode) (rd rs1 : Fin 32)
  /-- CK_POST (R172). Posts a host-format descriptor to the core's internal intake. -/
  | ckPost (k : Fin 20) (m : CkMode) (rd rs1 : Fin 32)
  /-- CK_WAIT (R168). Waits until an event of the mask holds and returns the events that hold. -/
  | ckWait (k : Fin 20) (m : CkMode) (rd rs1 : Fin 32)
  /-- CK_DONE (R165). Ends the routine for this step. -/
  | ckDone (k : Fin 20) (m : CkMode)
  /-- ROUTINE_FAULT (R166). A routine's access fault, illegal instruction, ECALL or EBREAK fails its partition's step with SEGMENT. -/
  | routineFault (p : Fin 64) (cause : RoutineFault)
  /-- CKWDOG (R175). A firmware write of the watchdog CSR restarts its interval. -/
  | ckwdog (k : Fin 20)
  /-- WATCHDOG_WARNING (R175). After 0.9 ms without a watchdog write, interrupt cause 20 is raised. -/
  | watchdogWarning (k : Fin 20)
  /-- WATCHDOG_EXPIRY (R175). After 1 ms without a write the core is reset, its partitions fenced and its firmware reloaded. -/
  | watchdogExpiry (k : Fin 20)
  /-- CORE_FAULT (R160). An uncorrectable word in a core memory resets the core. -/
  | coreFault (k : Fin 20)
  /-- TIMER_INTERRUPT (R176). The town clock reaches mtimecmp and the machine timer interrupt is raised. -/
  | timerInterrupt (k : Fin 20)
  /-- REPAIR_QUEUE_WRITEBACK (R215). The scrubber rereads a mended word from the repair queue and rewrites it in an unclaimed bank cycle. -/
  | repairQueueWriteback (b : Fin 256)
  /-- SCRUB_WORD (R216). The scrubber examines one word and rewrites it if mendable. -/
  | scrubWord (a : BitVec 51)
  /-- CLEAR_DONE (R214). Clearing of a region ends when its last word is written and the region may be reached again. -/
  | clearDone (r : Region)
  /-- ADMIT (R226). A REQUEST with OP ADMIT is checked and fills a free resident or parked entry. -/
  | admitRequest (src : Src)
  /-- APPEND (R226). A REQUEST with OP APPEND starts a new turn of a PAUSED request or recalls a KERBED one. -/
  | append (src : Src)
  /-- PAUSE (R226). A REQUEST with OP PAUSE pauses an ACTIVE request or holds a pause on an ADMITTED one. -/
  | pause (src : Src)
  /-- CANCEL (R226). A REQUEST with OP CANCEL sets CANCEL, taking effect by R224. -/
  | cancel (src : Src)
  /-- PARK_ENTRY (R227). Sequencer 0 moves a resident entry to the parked table while fewer than 256 resident entries are free. -/
  | parkEntry
  /-- UNPARK_ENTRY (R227). Sequencer 0 moves a parked entry back to the resident table while more than 512 are free. -/
  | unparkEntry
  /-- REQUEST_PREPARE (R231). Sequencer 1 stages a candidate request's chunk and pages so it is prepared for binding. -/
  | requestPrepare (r : Nat)
  /-- KERBING_BEGIN (R247). A PAUSED request enters KERBING after KERB_AFTER or when pool frames fall below KERB_LOW. -/
  | kerbingBegin (p : Fin 64)
  /-- KERB_FRAME_COPY (R248). One frame is copied to a kerb frame, re-encrypted, and its directory entry rewritten. -/
  | kerbFrameCopy (r : Nat)
  /-- KERB_TICKET (R250). Sequencer 2 issues a kerb ticket that starts a summary step when the partition is DONE or IDLE. -/
  | kerbTicket (p : Fin 64)
  /-- REQUEST_EXPIRY (R253). A KERBED request whose EXPIRY has passed becomes FREE with an EXPIRED completion. -/
  | requestExpiry (r : Nat)
  /-- RECALL_FRAME_COPY (R254). A kerb frame is copied into a pool frame and its directory entry rewritten. -/
  | recallFrameCopy (r : Nat)
  /-- SWITCH (R259). Command that switches admission to a spare generation slot at the next step boundary. -/
  | switch (via : Via)
  /-- CUT_DRAINING (R258). Command that cuts every request of the DRAINING slot at the next step boundary. -/
  | cutDraining (via : Via)
  /-- ROOT_SIGN (R267). Within 1 s after a UTC second with leaves ends, sequencer 3 builds its Merkle tree and signs the root. -/
  | rootSign (p : Fin 64)
  /-- CREATE (R270). Command that creates a partition from a block map, owner and flags. -/
  | create (via : Via)
  /-- DESTROY (R272). Command that destroys an IDLE partition, unloading its plans and clearing its blocks. -/
  | destroy (via : Via)
  /-- ADMITTED_WRITE (R276). A write of a partition's ADMITTED set, checked at the step boundary for removed tenants. -/
  | admittedWrite (via : Via)
  /-- QUOTE_NONCE (R289). Command that starts a quote over a nonce. -/
  | quoteNonce (via : Via)
  /-- QUOTE_FORMED (R289). Within 5 ms the signed quote is formed and published. -/
  | quoteFormed (p : Fin 64)
  /-- ENROL (R273). Command that makes a FREE tenant LIVE. -/
  | enrol (via : Via)
  /-- VF_MAP_WRITE (R274). A write of a tenant's VF map, refused for VFs of another tenant, stopping unmapped VFs' rings. -/
  | vfMapWrite (via : Via)
  /-- KEY_LOAD (R280). Command that unwraps a tenant key and installs it in the key table. -/
  | keyLoad (via : Via)
  /-- KEY_ERASE (R281). Command that erases a key at the next step boundaries of the tenant's partitions. -/
  | keyErase (via : Via)
  /-- TEARDOWN (R290). Command that starts a tenant's teardown. -/
  | teardown (via : Via)
  /-- ALLOC_ADD (R278). Command that adds an allocation entry for a tenant. -/
  | allocAdd (via : Via)
  /-- ALLOC_FREE (R278). Command that frees an allocation, which is CLEARING until cleared. -/
  | allocFree (via : Via)
  /-- PC_OWNER_WRITE (R206). A write of a pseudo-channel's owner while both owners are IDLE, clearing freed memory. -/
  | pcOwnerWrite (via : Via)
  /-- BUCKET_REFILL (R285). Every 1 µs each tenant bucket rises by its rate, releasing waiting service units. -/
  | bucketRefill
  /-- NOTICE_RECEIVE (R381). A part receives a fault notice, starts the window timer, fences or holds its partition and forwards it. -/
  | noticeReceive
  /-- COORDINATOR_DECIDE (R383). 1,000 µs after its first notice the coordinator decides REPLAY or RESTART and floods a DECIDE. -/
  | coordinatorDecide (p : Fin 64)
  /-- DECIDE_RECEIVE (R385). A member accepts or discards a DECIDE and objects with unaccounted notices. -/
  | decideReceive
  /-- FAULT_COMMIT (R385). 500 µs without a higher round, a member commits the accepted DECIDE and carries out replay or restart. -/
  | faultCommit (p : Fin 64)
  /-- SPARE_EXCHANGE (R393). At the later of commit and HELD a replaced partition exchanges resources with its spare and the mirror starts the restore. -/
  | spareExchange (p : Fin 64)
  /-- CHECKPOINT_SEND (R389). Once a protected partition is WAITING, the fault agent copies the checkpoint list to its mirror. -/
  | checkpointSend (p : Fin 64)
  /-- CKPT_DATA (R389). The mirror receives a checkpoint packet and writes it into its MIRROR_AREA half. -/
  | ckptData
  /-- CKPT_SEAL (R389). The protected part receives the seal, ending the hold on its barrier join. -/
  | ckptSeal
  /-- RESTORE_DATA (R393). The spare's part receives restored checkpoint words into the new handles. -/
  | restoreData
  /-- RESTORE_DONE (R393). The restore is complete and the replaced partition may join the replay barrier. -/
  | restoreDone
  /-- CODEWORD_RECEIVE (R298). The receiver decodes a codeword, entering SKIP if uncorrectable and losing lock after 32 of 64. -/
  | codewordReceive (n : Fin 6) (symbols : List (BitVec 9))
  /-- PACKET_RECEIVE (R306). A sequenced packet passing CRC and epoch checks is delivered, held, or dropped by its sequence distance. -/
  | packetReceive (n : Fin 6)
  /-- LINK_CTRL (R308). A received LINK_CTRL's ACK and NACK fields free replay entries and trigger retransmissions. -/
  | linkCtrl (n : Fin 6)
  /-- LINK_CTRL_TIMER (R309). The sender emits a LINK_CTRL after its queue empties, every 1 µs when idle, or for an ACK within 128 ns. -/
  | linkCtrlTimer (n : Fin 6)
  /-- GAP_REREQUEST (R307). A gap still open 1 µs after its last request is requested again. -/
  | gapRerequest (n : Fin 6)
  /-- STALLED_ACK_RETRANSMIT (R308). U unchanged for 2 µs, then each 8 µs, makes the sender retransmit every unacknowledged packet. -/
  | stalledAckRetransmit (n : Fin 6)
  /-- EGRESS_SLOT (R334). At the start of each slot an avenue port sends a link-layer packet, a claimed plan packet, a service packet or idles. -/
  | egressSlot (n : Fin 6)
  /-- DOWN_WAIT_EXPIRY (R313). After 10 µs in DOWN the port enters TRAINING. -/
  | downWaitExpiry (n : Fin 6)
  /-- TRAINING_LOCKED (R313). 64 consecutive clean codewords on all link lanes take the port to LOCKED and advance TX_EPOCH. -/
  | trainingLocked (n : Fin 6)
  /-- TRAINING_TIMEOUT (R313). A fast retrain not locked in 3 ms or a full training in 150 ms takes the port DOWN. -/
  | trainingTimeout (n : Fin 6)
  /-- TRAIN_SEND (R313). A LOCKED port sends a TRAIN every 1 µs. -/
  | trainSend (n : Fin 6)
  /-- TRAIN (R313). A received TRAIN takes a LOCKED port UP when it echoes this port, or an UP port DOWN. -/
  | train (n : Fin 6)
  /-- LOCKED_TIMEOUT (R313). 1 ms in LOCKED without UP takes the port DOWN. -/
  | lockedTimeout (n : Fin 6)
  /-- UP_TIMEOUT (R313). 64 µs without a good packet, with U stuck, or with a gap open takes the port DOWN. -/
  | upTimeout (n : Fin 6)
  /-- RETRAIN (R313). Command that takes the port DOWN for retraining. -/
  | retrain (via : Via)
  /-- LINK_ENABLE_WRITE (R313). A write of LINK_ENABLE disables the port or starts its training. -/
  | linkEnableWrite (via : Via)
  /-- RESP_TIMEOUT (R319). A service request with no response for RESP_TIMEOUT ends with a synthetic FAULT completion. -/
  | respTimeout (rtag : BitVec 16)
  /-- PACKET_ROUTE (R328). The crossroads routes an arriving packet by dimension order, delivering, forwarding or dropping it. -/
  | packetRoute (port : Fin 7) (service : Bool) (vc : Fin 2)
  /-- AGED_DISCARD (R331). A packet waiting 1 ms in a crossroads input buffer is discarded. -/
  | agedDiscard (port : Fin 7) (service : Bool) (vc : Fin 2)
  /-- DATA (R341). A DATA packet arriving at its destination is written or dropped, and sets the receive tag on LAST. -/
  | data
  /-- BARRIER_JOIN (R347). A received JOIN is recorded; when all children have joined the part joins its parent, or the root sets T_rel and sends the release. -/
  | barrierJoin
  /-- BARRIER_RELEASE_PACKET (R348). A received release is forwarded to children and schedules the local release at T_rel. -/
  | barrierReleasePacket
  /-- JOIN_REPEAT (R348). A part repeats its JOIN every 10 µs until the release arrives. -/
  | joinRepeat (p : Fin 64)
  /-- BARRIER_TIMEOUT (R348). An instance without release within BARRIER_TIMEOUT raises a fault notice. -/
  | barrierTimeout (p : Fin 64)
  /-- COLL_UP (R352). The collective engine adds its operand to an arriving up-wave packet and forwards or turns it. -/
  | collUp
  /-- COLL_DOWN (R352). A down-wave result packet is written and forwarded to lower positions. -/
  | collDown
  /-- OPEN (R344). Command that opens a job slot, setting bollards within 1 ms. -/
  | openJob (via : Via)
  /-- CLOSE (R346). Command that puts a job slot in CLOSING, discarding its packets and unbinding the partition. -/
  | close (via : Via)
  /-- CLOSE_EXPIRY (R346). 250 ms after CLOSE the slot becomes CLOSED and the tag may be reused. -/
  | closeExpiry (j : Fin 64)
  /-- TIME_PULSE (R363). Every 1 µs the central unit pulses the hubs and each district slews its copy and recalibrates. -/
  | timePulse
  /-- STAMPED_CODEWORD (R366). A port stamps a codeword whose index is a multiple of 2^15 and sends a timestamp record. -/
  | stampedCodeword (n : Fin 6)
  /-- TIMESTAMP (R368). A received timestamp record gives the offset θ that the follower slews or steps away and advances the time state. -/
  | timestamp
  /-- TIME_PARENT_WRITE (R369). A write of TIME_PARENT moves the part to FREE, ROOT or ACQUIRING. -/
  | timeParentWrite (via : Via)
  /-- HOLDOVER_ENTRY (R369). Parent port down or four missing records take a LOCKED part to HOLDOVER. -/
  | holdoverEntry
  /-- HOLDOVER_LIMIT_EXPIRY (R369). HOLDOVER lasting HOLDOVER_LIMIT takes the part to ACQUIRING. -/
  | holdoverLimitExpiry
  /-- TIME_STEP (R370). Once every partition is IDLE, an offset above 1 µs is removed by stepping town time. -/
  | timeStep
  /-- UTC_SET (R373). Command that sets the building-time correspondence. -/
  | utcSet (via : Via)
  /-- DROOP (R359). A sensor reports a droop and the district oscillator moves to a slower setting within two cycles. -/
  | droop (d : Fin 16) (setting : Fin 16)
  /-- OSCILLATOR_RECOVERY (R359). Every 32 district cycles after the margin returns the oscillator moves back one setting. -/
  | oscillatorRecovery (d : Fin 16)
  /-- INTAKE_TAIL (R135). The host writes the intake doorbell with its producer index. -/
  | intakeTail (f : FnId) (value : BitVec 64)
  /-- INTAKE_FETCH (R135). The part reserves a completion slot and fetches and processes the next intake entry. -/
  | intakeFetch (src : Src) (entry : Desc)
  /-- COMPL_HEAD (R135). The host writes its completion consumer index, freeing completion slots. -/
  | complHead (f : FnId) (value : BitVec 64)
  /-- QUEUED_COMPLETION_WRITE (R135). A queued record that answers no intake entry is written once its ring has a free slot. -/
  | queuedCompletionWrite (f : FnId)
  /-- RING_RESET (R134). Writing RESET discards pending intake entries and clears HALTED and OVERRUN. -/
  | ringReset (f : FnId) (value : BitVec 64)
  /-- RING_ENABLE (R134). Writing ENABLE starts or stops consumption of the ring. -/
  | ringEnable (f : FnId) (value : BitVec 64)
  /-- IRQ_ARM (R134). Writing IRQ_ARM requests one MSI-X message on the next completion. -/
  | irqArm (f : FnId) (value : BitVec 64)
  /-- LOAD_PLAN (R128). A host descriptor loads a plan image into a slot after staged checks. -/
  | loadPlan (src : Src) (image : List Byte)
  /-- UNLOAD_PLAN (R128). A host descriptor unloads a plan, effective after the last step naming it. -/
  | unloadPlan (src : Src)
  /-- LOAD_HANDLES (R407). A host descriptor loads handle-table entries, effective at the next step boundary. -/
  | loadHandles (src : Src) (entries : List (BitVec 128))
  /-- PATCH (R407). A host descriptor replaces one handle-table entry. -/
  | patch (src : Src)
  /-- DMA_IN (R408). A host descriptor copies host memory to a device end. -/
  | dmaIn (src : Src) (data : List Word)
  /-- DMA_OUT (R408). A host descriptor copies a device end to host memory. -/
  | dmaOut (src : Src)
  /-- PERST_N (R400). An assertion of PERST_N or a link loss acts on every function of the port as an FLR. -/
  | perstN (h : Fin 2)
  /-- FLR (R400). A function level reset disables the function's rings and discards its pending work and completions. -/
  | flr (f : FnId)
  /-- BAR_MISUSE (R402). A register access of wrong width, alignment, offset or a forbidden write is discarded or reads all ones. -/
  | barMisuse (f : FnId) (a : Access)
  /-- WINDOW_ACCESS (R405). A BAR2 access is served or refused as a whole according to its target. -/
  | windowAccess (h : Fin 2) (offset : BitVec 36) (a : WindowOp)
  /-- PCIE_ERROR (R411). A PCIe error, timeout or poisoned completion is counted and fails the operation concerned. -/
  | pcieError (h : Fin 2) (err : PcieError) (hit : PcieVictim)
  /-- CXL_LINK_DROP (R415). A CXL port link drop sets FAILED and fails its accesses with FAULT. -/
  | cxlLinkDrop (n : Fin 4)
  /-- ROCE_PACKET (R419). A received RoCEv2 packet is accepted as a response, dropped, or puts its queue pair in ERROR. -/
  | rocePacket (e : Fin 2) (pkt : RocePacket)
  /-- QP_ACK_TIMEOUT (R419). A queue pair's local ACK timeout retries, or moves it to ERROR when retries are exhausted. -/
  | qpAckTimeout (q : Fin 1024)
  /-- QP_STATE_WRITE (R418). A write of QP_STATE moves a queue pair to RTS or RESET. -/
  | qpStateWrite (via : Via)
  /-- FETCH_START (R421). Command that checks the manifest and starts all its entries or refuses them all. -/
  | fetchStart (via : Via)
  /-- FETCH_ENTRY_END (R422). A fetch entry ends when its digest is checked or it fails, clearing the range on failure and notifying the peer. -/
  | fetchEntryEnd (entry : Fin 256)
  /-- WRITE (R431). A CDP WRITE of an object without a row of its own is checked and applied now or at the step boundary. -/
  | write (via : Via)
  /-- WRITE_BLOCK (R433). A WRITE_BLOCK chunk is staged, and the chunk with LAST commits the whole value. -/
  | writeBlock (via : Via)
  /-- STAGING_TIMEOUT (R433). A staging with no chunk for 10 s is discarded. -/
  | stagingTimeout (sid : Fin 65536)
  /-- MB_ACK (R427). A write of MB_ACK acknowledges a reply or NOTIFY and clears the sticky bits. -/
  | mbAck (f : FnId) (value : BitVec 64)
  /-- NOTIFY (R441). A NOTIFY message is sent to its sessions or received from a link partner, without reply. -/
  | notify (received : Bool)
  /-- SESSION_OPEN (R435). Command that opens a session from OPEN_REQ and derives its key. -/
  | sessionOpen (via : Via)
  /-- SESSION_CLOSE (R438). Command that closes the requesting session after its reply. -/
  | sessionClose (via : Via)
  /-- SESSION_IDLE_TIMEOUT (R438). 300 s without an accepted request closes a session. -/
  | sessionIdleTimeout (sid : Fin 65536)
  /-- RELAY (R442). Command that carries a tagged CDP message unchanged to another part. -/
  | relay (via : Via)
  /-- RELAY_REPLY (R442). A remote reply to a relayed message returns as a RELAY_REPLY NOTIFY. -/
  | relayReply
  /-- LOG_WINDOW (R458). A READ of LOG_WINDOW returns up to 14 records and advances LOG_SELECT. -/
  | logWindow (via : Via)
  /-- LOG_CLEAR (R457). Command that empties the event log and zeroes LOG_SUPPRESSED. -/
  | logClear (via : Via)
  /-- CLEAR (R151). Command that zeroes a partition's slip counters at the next step boundary. -/
  | clear (via : Via)
  /-- POWER_ON (R461). The core rail rising through its threshold with RAILS_OK high begins a cold start. -/
  | powerOn
  /-- RESET_N (R462). An accepted RESET_N assertion runs the prelude and leads to a warm start or restarts a cold start. -/
  | resetN
  /-- COLD_START (R466). The cold start runs phases 1 to 9 and ends with every partition IDLE. -/
  | coldStart (env : StartEnv)
  /-- WARM_START (R466). At the later of RESET_N deassertion and prelude end, the warm start runs its phases. -/
  | warmStart (env : StartEnv)
  /-- RESET_CAUSE_WRITE (R464). Writing 1 to a RESET_CAUSE bit clears it. -/
  | resetCauseWrite (via : Via)
  /-- BLOCK_RESET (R465). Command that returns the control state of the named blocks to reset within 10 µs. -/
  | blockReset (via : Via)
  /-- CORE_RESET (R465). Command that resets the named cores as a watchdog expiry does. -/
  | coreReset (via : Via)
  /-- ACTIVATE (R478). Command that boots the pending firmware slot by a warm start, or resumes a cold start in RECOVERY. -/
  | activate (via : Via)
  /-- ACTIVATE_PAUSE (R478). When no step is RUNNING, issue pauses, the request table is checkpointed and the warm start into the pending image begins. -/
  | activatePause
  /-- FIRMWARE_SLOT_WRITE (R477). A chunk written to a slot image object goes to the card and makes the slot UNCHECKED. -/
  | firmwareSlotWrite (via : Via)
  /-- PERSIST (R477). Command that records an object's current value in the persistent store. -/
  | persist (via : Via)
  /-- UNPERSIST (R477). Command that removes an object's record from the store. -/
  | unpersist (via : Via)
  /-- CLEAR_RETIRED (R477). Command that removes the retirement records of the named blocks. -/
  | clearRetired (via : Via)
  /-- STORE_WRITE (R473). A store commit rewrites the copy not in force, waiting for a card if absent. -/
  | storeWrite
  /-- CARD_INSERT (R480). A card inserted while running is read, its store updated and PENDING_SLOT set. -/
  | cardInsert (card : CardImage)
  /-- CARD_REMOVE (R480). A card removed while running is detected within 100 ms. -/
  | cardRemove
  /-- RAILS_OK_FALL (R502). A fall of RAILS_OK stops every dispatcher and tristates the outputs as a loss of power. -/
  | railsOkFall
  /-- AVS_UPDATE (R501). Every 100 µs the part computes a new core voltage target and writes it over AVSBus. -/
  | avsUpdate (millivolts : Nat) (sensed : Nat)
  /-- RAIL_FAULT (R501). A sensed voltage 30 mV below target for 1 ms raises a rail fault. -/
  | railFault (r : Fin 7) (millivolts : Nat)
  /-- POWER_LIMIT_UPDATE (R505). Every 1 ms the clock floor is raised or lowered by one against POWER_LIMIT. -/
  | powerLimitUpdate (watts : Nat)
  /-- THERMAL_WARNING (R506). A sensor at the warning threshold asserts ALERT_N. -/
  | thermalWarning (which : Sensor) (tenths : Int)
  /-- THROTTLE_BEGIN (R506). A sensor at the throttle threshold sets the floor to setting 8. -/
  | throttleBegin (which : Sensor) (tenths : Int)
  /-- THROTTLE_END (R506). Every sensor 5 °C below its threshold releases the throttle. -/
  | throttleEnd
  /-- THERMTRIP (R506). A sensor at the trip threshold asserts THERMTRIP_N and stops every clock within 10 µs. -/
  | thermtrip (which : Sensor) (tenths : Int)
  /-- PARK (R504). Command that puts an IDLE part into PARKED. -/
  | park (via : Via)
  /-- WAKE (R504). Command or trigger that wakes a PARKED part within 2 ms. -/
  | wake (w : WakeTrigger)
  /-- FREEZE_N (R481). An accepted FREEZE_N assertion freezes the whole part. -/
  | freezeN
  /-- FREEZE (R481). Command that freezes the part now. -/
  | freeze (via : Via)
  /-- FREEZE_AT (R481). Command that schedules a freeze at town time T. -/
  | freezeAt (via : Via)
  /-- FREEZE_AT_TRIGGER (R482). Each district's town time reaches T and the part begins to freeze. -/
  | freezeAtTrigger
  /-- UNFREEZE (R487). Command that resumes a frozen part. -/
  | unfreeze (via : Via)
  /-- FREEZE_N_DEASSERT (R487). Deassertion of FREEZE_N resumes the part. -/
  | freezeNDeassert
  /-- CLOCK_RESTART (R487). At the first town-clock pulse 1 µs after resume every district clock restarts and the part is RUNNING. -/
  | clockRestart
  /-- EXTEST (R485). JTAG instruction that drives the lands from the boundary register. -/
  | extest
  /-- IDCODE (R485). JTAG instruction that selects the 32-bit IDCODE register. -/
  | idcode
  /-- SAMPLE_PRELOAD (R485). JTAG instruction that samples or preloads the boundary register. -/
  | samplePreload
  /-- FRZ_SELECT (R485). JTAG instruction that selects a district and scan chain while frozen. -/
  | frzSelect (value : BitVec 16)
  /-- FRZ_SCAN (R486). JTAG instruction that shifts the selected chain non-destructively. -/
  | frzScan (bits : List Bool)
  /-- FRZ_MEM_READ (R486). FRZ_MEM with the write bit clear reads a tier-0 word and its check value unmended. -/
  | frzMemRead (command : BitVec 64)
  /-- FRZ_MEM_WRITE (R486). FRZ_MEM with the write bit set stores a word and check value exactly as given. -/
  | frzMemWrite (command : BitVec 64) (word : Word) (check : Check)
  /-- FRZ_RESUME (R485). JTAG instruction whose update with 1 acts as UNFREEZE. -/
  | frzResume (value : Bool)
  /-- BYPASS (R485). JTAG instruction that selects the 1-bit bypass register. -/
  | bypass
  /-- SNAPSHOT (R492). Command that schedules a copy of every counter at town time T. -/
  | snapshot (via : Via)
  /-- SNAPSHOT_COPY (R492). Each unit copies its live counters to shadows when its town time reaches T, and SHADOW_TIME is updated. -/
  | snapshotCopy
  /-- SWEEPER_SLICE (R494). An eligible block begins a sweeper slice of tests, march and scrub. -/
  | sweeperSlice (b : Fin 256)
  /-- SWEEPER_SLICE_END (R496). A slice ends after 2,048 cycles, retiring the block if a test failed twice. -/
  | sweeperSliceEnd (b : Fin 256) (failed : Bool)
  /-- MB_DOORBELL (R427). A write of MB_DOORBELL submits the message in REQ and sets REQ_BUSY, or, while REQ_BUSY is set, is discarded and sets OVERRUN. -/
  | mbDoorbell (f : FnId) (value : BitVec 64)
  /-- THERMAL_STATUS_READ (R506). A read of THERMAL_STATUS deasserts ALERT_N. -/
  | thermalStatusRead (via : Via)
  /-- PCIE_LINK_UP (R399). A PCIe port's link finishes training, setting PCIE_STATE, PCIE_RATE and PCIE_WIDTH, and releasing waiting DMAs, completion writes and tier-3 accesses once the rate is 16 GT/s or more. -/
  | pcieLinkUp (h : Fin 2) (rate width : Nat)
  /-- ETH_LINK_UP (R416). A storage Ethernet port's link completes auto-negotiation and training and ETH_STATE becomes UP. -/
  | ethLinkUp (e : Fin 2)
  /-- ETH_LINK_DOWN (R416). A storage Ethernet port loses its link and ETH_STATE becomes DOWN. -/
  | ethLinkDown (e : Fin 2)
  /-- DMA_COMPLETION (R408). A host DMA_IN or DMA_OUT ends when its last data is moved or it fails; its completion, with the bytes moved, is then written and the ring moves on. -/
  | dmaCompletion (src : Src)
  /-- SLICE_BEGIN (R163). A routine slot's slice of the core calendar begins, and a routine suspended at the end of its previous slice resumes with its registers intact. -/
  | sliceBegin (p : Fin 64)
  /-- TEST_LOGIC_RESET (R485). The JTAG TAP enters Test-Logic-Reset by TRST_N or TMS, and IDCODE is selected. -/
  | testLogicReset
deriving DecidableEq, Repr

end Sys2Proof
end

