-- ==== Sys2Proof/Machine/Bits.lean ====
section
/-! DEFINITION. Bit fields, byte order and signed numbers: multi-byte values are little-endian (R3). -/
namespace Sys2Proof.Machine

/-- Bits [lo + len - 1 : lo] of a bit vector, as a number. -/
def field {n : Nat} (w : BitVec n) (lo len : Nat) : Nat := (w.toNat >>> lo) % 2 ^ len

/-- One bit. -/
def bitAt {n : Nat} (w : BitVec n) (i : Nat) : Bool := w.getLsbD i

/-- The number a list of bytes spells, least significant byte first (R3). -/
def leNat : List Byte → Nat
  | [] => 0
  | b :: bs => b.toNat + 256 * leNat bs

/-- The first n bytes of a number, least significant first (R3). -/
def natBytes : Nat → Nat → List Byte
  | 0, _ => []
  | n + 1, v => BitVec.ofNat 8 v :: natBytes n (v / 256)

/-- The two's-complement value of the low w bits of a number. -/
def signed (w : Nat) (v : Nat) : Int :=
  let m := v % 2 ^ w
  if m < 2 ^ (w - 1) then (m : Int) else (m : Int) - (2 ^ w : Nat)

/-- The low w bits of an integer, two's complement. -/
def unsigned (w : Nat) (v : Int) : Nat := (v % (2 ^ w : Nat)).toNat

/-- Bytes from, count of them, of a list; zero beyond its end. -/
def slice (l : List Byte) (start n : Nat) : List Byte := (l.drop start).take n

/-- A little-endian number from bytes start to start + n - 1. -/
def leAt (l : List Byte) (start n : Nat) : Nat := leNat (slice l start n)

/-- The bytes of a word (R3). -/
def wordBytes (w : Word) : List Byte := natBytes 32 w.toNat

/-- The word of 32 bytes, or fewer with zeros above. -/
def bytesWord (l : List Byte) : Word := BitVec.ofNat 256 (leNat (l.take 32))

/-- Cut bytes into n words, the last padded with zeros. -/
def bytesWords : Nat → List Byte → List Word
  | 0, _ => []
  | n + 1, l => bytesWord l :: bytesWords n (l.drop 32)

/-- The bytes of words in order. -/
def wordsBytes : List Word → List Byte
  | [] => []
  | w :: ws => wordBytes w ++ wordsBytes ws

/-- Quotient rounded up. -/
def ceilDiv (a b : Nat) : Nat := (a + b - 1) / b

/-- A number whose field [lo + len - 1 : lo] is v. -/
def place (lo len v : Nat) : Nat := (v % 2 ^ len) <<< lo

/-- The number of bits set among the low n. -/
def popcount : Nat → Nat → Nat
  | 0, _ => 0
  | n + 1, v => v % 2 + popcount n (v / 2)

/-- The position of the highest bit set, for v below 2^n; 0 for v = 0. -/
def log2 (v : Nat) : Nat := Nat.log2 v

/-- The XOR of the bits of the low n bits of v. -/
def parity (n v : Nat) : Nat := popcount n v % 2

/-- n copies of a byte. -/
def zeros (n : Nat) : List Byte := List.replicate n 0#8

/-- ASCII text as bytes. -/
def ascii (s : String) : List Byte := s.toList.map (fun c => BitVec.ofNat 8 c.toNat)

/-- The first index of a list whose element satisfies a test. -/
def firstIdx {α : Type} (f : α → Bool) (l : List α) : Option Nat := l.findIdx? f

/-- Replace element i of a list. -/
def setAt {α : Type} : List α → Nat → α → List α
  | [], _, _ => []
  | _ :: xs, 0, v => v :: xs
  | x :: xs, n + 1, v => x :: setAt xs n v

/-- Half-range order of sequence numbers: x precedes y when (y - x) mod 2^w lies in 1 to 2^(w-1) - 1 (R305). -/
def precedes (w x y : Nat) : Bool :=
  let d := (y + 2 ^ w - x % 2 ^ w) % 2 ^ w
  decide (1 ≤ d ∧ d < 2 ^ (w - 1))

end Sys2Proof.Machine
end

