-- ==== Sys2Proof/Machine/Numbers.lean ====
section
/-! DEFINITION. Number formats: the elements of R29 to R31 and R79, block scales (R32), and single rounding (R48 to R50).
Every finite value is carried exactly as a sign, a magnitude and an exponent of two. -/
namespace Sys2Proof.Machine

/-- A value as an element holds it: not a number, an infinity, or (-1)^neg · mag · 2^exp. -/
inductive Num where
  | nan
  | inf (neg : Bool)
  | fin (neg : Bool) (mag : Nat) (exp : Int)
deriving DecidableEq, Repr

/-- A floating-point format: exponent bits, mantissa bits, bias; whether it has infinities and NaN as IEEE 754 has, or (E4M3)
only the all-ones NaN, or none of them. -/
structure Fmt where
  ebits : Nat
  mbits : Nat
  bias  : Int
  ieee  : Bool
  nanOne : Bool
deriving DecidableEq, Repr

def fmtE4M3 : Fmt := ⟨4, 3, 7, false, true⟩
def fmtE5M2 : Fmt := ⟨5, 2, 15, true, false⟩
def fmtE3M2 : Fmt := ⟨3, 2, 3, false, false⟩
def fmtE2M3 : Fmt := ⟨2, 3, 1, false, false⟩
def fmtE2M1 : Fmt := ⟨2, 1, 1, false, false⟩
def fmtBF16 : Fmt := ⟨8, 7, 127, true, false⟩
def fmtFP16 : Fmt := ⟨5, 10, 15, true, false⟩
def fmtFP32 : Fmt := ⟨8, 23, 127, true, false⟩

/-- The floating-point format of a code of R62 or R79; none for the integer codes. -/
def fmtOf (code : Nat) : Option Fmt :=
  match code with
  | 1 => some fmtE4M3 | 2 => some fmtE5M2 | 3 => some fmtE3M2 | 4 => some fmtE2M3 | 5 => some fmtE2M1
  | 8 => some fmtBF16 | 9 => some fmtFP16 | 10 => some fmtFP32 | _ => none

/-- Width in bits of an element of a code (R29, R79). -/
def codeWidth (code : Nat) : Nat :=
  match code with
  | 1 => 8 | 2 => 8 | 3 => 6 | 4 => 6 | 5 => 4 | 6 => 8 | 7 => 4 | 8 => 16 | 9 => 16 | 10 => 32 | 11 => 32 | _ => 0

/-- Decode a floating-point element (R29, R30): N and u of the rule, with the sign. -/
def Fmt.decode (f : Fmt) (bits : Nat) : Num :=
  let m := bits % 2 ^ f.mbits
  let e := bits / 2 ^ f.mbits % 2 ^ f.ebits
  let neg := decide (bits / 2 ^ (f.mbits + f.ebits) % 2 = 1)
  if f.ieee ∧ e = 2 ^ f.ebits - 1 then (if m = 0 then .inf neg else .nan)
  else if f.nanOne ∧ e = 2 ^ f.ebits - 1 ∧ m = 2 ^ f.mbits - 1 then .nan
  else
    let u : Int := 1 - f.bias - f.mbits
    if e = 0 then .fin neg m u else .fin neg (2 ^ f.mbits + m) (u + (e - 1 : Nat))

/-- Decode an element of a code; integers are two's complement of their width (R29). -/
def decodeElem (code bits : Nat) : Num :=
  match fmtOf code with
  | some f => f.decode bits
  | none =>
    let v := signed (codeWidth code) bits
    .fin (decide (v < 0)) v.natAbs 0

/-- The signed integer of a finite value in units of its exponent. -/
def Num.int : Num → Int
  | .fin neg m _ => if neg then -(m : Int) else m
  | _ => 0

/-- The exponent of a finite value. -/
def Num.exp : Num → Int
  | .fin _ _ e => e
  | _ => 0

def Num.isFinite : Num → Bool
  | .fin _ _ _ => true
  | _ => false

/-- A finite value from a signed integer. -/
def Num.ofInt (v e : Int) : Num := .fin (decide (v < 0)) v.natAbs e

/-- Element i of a packed run of elements of a given width, in bytes (R31 below 8 bits, little-endian above). -/
def elemBits (width : Nat) (l : List Byte) (i : Nat) : Nat :=
  if width = 6 then leAt l (3 * (i / 4)) 3 / 2 ^ (6 * (i % 4)) % 64
  else if width = 4 then leAt l (i / 2) 1 / 2 ^ (4 * (i % 2)) % 16
  else leAt l (i * (width / 8)) (width / 8)

/-- Pack element codes of a width into bytes (R31). -/
def packElems (width : Nat) (codes : List Nat) : List Byte :=
  let v := codes.foldr (fun c acc => c % 2 ^ width + 2 ^ width * acc) 0
  natBytes (ceilDiv (codes.length * width) 8) v

/-- An E8M0 block scale: its exponent, or none for NaN (R32). -/
def scaleExp (x : Nat) : Option Int := if x = 0xFF then none else some ((x : Int) - 127)

/-! ## Rounding (R48, R49) -/

/-- Divide a by 2^n, to nearest with ties to even. -/
def shiftRNE (a n : Nat) : Nat :=
  if n = 0 then a else
  let q := a / 2 ^ n
  let r := a % 2 ^ n
  let h := 2 ^ (n - 1)
  if h < r ∨ (r = h ∧ q % 2 = 1) then q + 1 else q

/-- The number of bits of a magnitude. -/
def bitLen (m : Nat) : Nat := if m = 0 then 0 else Nat.log2 m + 1

/-- Round a magnitude m · 2^e to p significand bits with least normal exponent emin: the significand k and its exponent q.
`sticky` says that the true magnitude lies a little above m · 2^e, by less than 2^e. -/
def roundSig (p : Nat) (emin : Int) (m : Nat) (e : Int) (sticky : Bool) : Nat × Int :=
  let m' := if sticky then 2 * m + 1 else 2 * m
  let e' := e - 1
  let q := max (e' + bitLen m' - p) (emin - p + 1)
  if q ≤ e' then (m' * 2 ^ (e' - q).toNat, q)
  else
    let k := shiftRNE m' (q - e').toNat
    if k = 2 ^ p then (2 ^ (p - 1), q + 1) else (k, q)

/-- The largest finite code of a format, without sign. -/
def Fmt.maxCode (f : Fmt) : Nat :=
  if f.ieee then (2 ^ f.ebits - 1) * 2 ^ f.mbits - 1
  else if f.nanOne then 2 ^ (f.ebits + f.mbits) - 2
  else 2 ^ (f.ebits + f.mbits) - 1

/-- The canonical NaN (R49). -/
def Fmt.nanCode (f : Fmt) : Nat :=
  if f.ieee then (if f.mbits = 2 then 0x7F else (2 ^ f.ebits - 1) * 2 ^ f.mbits + 2 ^ (f.mbits - 1))
  else 2 ^ (f.ebits + f.mbits) - 1

/-- The sign bit of a format. -/
def Fmt.sign (f : Fmt) (neg : Bool) : Nat := if neg then 2 ^ (f.ebits + f.mbits) else 0

/-- The code of an infinity; E4M3 has none and gives NaN (R49). -/
def Fmt.infCode (f : Fmt) (neg : Bool) : Nat :=
  if f.ieee then f.sign neg + (2 ^ f.ebits - 1) * 2 ^ f.mbits else f.nanCode

/-- What an output code comes with: the code, and whether the value was above the largest finite value. -/
structure Rounded where
  code     : Nat
  overflow : Bool := false
  nan      : Bool := false
deriving DecidableEq, Repr

/-- Encode a significand and exponent that roundSig gave, as a code without sign, which may pass the largest. -/
def Fmt.codeOf (f : Fmt) (k : Nat) (q : Int) : Nat :=
  if k < 2 ^ f.mbits then k
  else ((q + f.mbits + f.bias).toNat) * 2 ^ f.mbits + (k - 2 ^ f.mbits)

/-- Round a finite magnitude to a format. A magnitude above the largest finite value gives an infinity, or the largest value of a
format without one (R49), or the largest value where the format is saturated (R50). -/
def Fmt.round (f : Fmt) (saturate : Bool) (neg : Bool) (m : Nat) (e : Int) (sticky : Bool) : Rounded :=
  if m = 0 ∧ sticky = false then ⟨f.sign neg, false, false⟩ else
  let r := roundSig (f.mbits + 1) (1 - f.bias) m e sticky
  let c := f.codeOf r.1 r.2
  if c ≤ f.maxCode then ⟨f.sign neg + c, false, false⟩
  else if saturate ∨ ¬ f.ieee then ⟨f.sign neg + f.maxCode, true, false⟩
  else ⟨f.infCode neg, true, false⟩

/-- Round any value to a format (R48, R49). -/
def Fmt.encode (f : Fmt) : Num → Rounded
  | .nan => ⟨f.nanCode, false, true⟩
  | .inf neg => ⟨f.infCode neg, false, !f.ieee⟩
  | .fin neg m e => f.round false neg m e false

/-! ## Comparing and adding exact values -/

/-- Two finite values brought to the lesser exponent: both integers and that exponent. -/
def align (a b : Num) : Int × Int × Int :=
  let e := min a.exp b.exp
  (a.int * 2 ^ (a.exp - e).toNat, b.int * 2 ^ (b.exp - e).toNat, e)

/-- Scale a value by a power of two. -/
def Num.scale (x : Num) (k : Int) : Num :=
  match x with
  | .fin n m e => .fin n m (e + k)
  | y => y

/-- The floor of the base-2 logarithm of a non-zero magnitude m · 2^e. -/
def log2Mag (m : Nat) (e : Int) : Int := (Nat.log2 m : Int) + e

/-- The block scale of a run of finite values (R50): emax of the format, the greatest log2 of a magnitude; 127 when all are zero. -/
def mxScale (emax : Int) (vals : List Num) : Nat :=
  let logs := vals.filterMap (fun v => match v with
    | .fin _ m e => if m = 0 then none else some (log2Mag m e)
    | _ => none)
  match logs with
  | [] => 127
  | l :: ls => (max 0 (min 254 ((ls.foldl max l) - emax + 127))).toNat

/-- emax of a narrow floating format in MX (R50). -/
def mxEmax (code : Nat) : Int :=
  match code with
  | 1 => 8 | 2 => 15 | 3 => 4 | _ => 2

end Sys2Proof.Machine
end

