-- ==== Sys2Proof/Config.lean ====
section
/-! DEFINITION. What an implementation fixes, and the free values: constants with no body, of which no proof can see a value. -/
namespace Sys2Proof.Config

/-- A value the spec leaves open, drawn with a number of its own each time (the argument is a counter of State).
Used for nonces of the part (R435), and for a result the spec does not state. -/
opaque freeValue : Nat → (w : Nat) → BitVec w

/-- The random seeds of the transport key pair of the given start, 64 bytes (R280: drawn afresh at each cold start). -/
opaque transportSeed : Nat → Nat

/-- The fused secret from which the attestation key is derived, 32 bytes (R282). -/
opaque attestSeed : Nat

/-- The random bytes of a signature of the part over a message, which the standard leaves to the signer (R267, R289). -/
opaque attestRandom : List Byte → Nat

/-- ATTEST_CERT, read from the firmware card (R282). -/
opaque attestCert : List Byte

/-- SHA3-512 of the vendor key that the part accepts, held in fuses (R475). -/
opaque vendorKeyDigest : List Byte

/-- The contents of the scan chains, whose cells only a vendor file lists (R485): in the freeze of a FREEZE_TIME, a district's chain, and a bit. -/
opaque chainBit : Nat → Nat → Nat → Nat → Bool

/-- How many cells a district's scan chain has (R485). -/
opaque chainLength : Nat → Nat → Nat

/-- The value of a vendor object, which the spec leaves open (R460). -/
opaque vendorObject : Nat → List Byte

/-- The stepping of the part: true for B0, false for A1 (R451 STEPPING, "per part"; log 13). -/
opaque steppingB0 : Bool

/-- SERIAL and FUSE_MAP_DIGEST (R451, "per part"; log 13). -/
opaque serial : List Byte
opaque fuseMapDigest : List Byte

/-- The slot of a district that its fuses disable, and whether slot 16 passed test (R9, "per part"; log 6). -/
opaque fusedSlot : Nat → Fin 17
opaque slot16Good : Nat → Bool

/-- The fuses name slot 16 as a district's disabled slot and it passed test (R13, R14 SPARE_GOOD). -/
def spareGood (d : Nat) : Bool := (fusedSlot d).val == 16 && slot16Good d

/-- ETH_MAC of a port and MGMT_MAC (R423, R444, "per part"; log 13). -/
opaque ethMac : Nat → BitVec 48
opaque mgmtMac : BitVec 48

/-- MIN_SVN as the fuses hold it (R477, "fuses"; log 13). -/
opaque minSvn : BitVec 16

/-- The nominal increment of the central time unit per 6.4 ns, 10.24 ticks in units of 2^-32 tick, to the nearest (R362).
DESIGN CHOICE, log 5: R362 gives the increment as 10.24 and 32 fraction bits, which cannot hold it exactly. -/
def nominalIncrement : Nat := 43980465111

/-- The longest an entry of the operation tables below may take: blocks, districts, partitions and tenants of the part (R2). -/
def blocks : Nat := 256
def districts : Nat := 16
def partitions : Nat := 64
def tenants : Nat := 256

/-- Words of one block's memory (R16). -/
def blockWords : Nat := 393216

/-- Ticks of town time in a microsecond and in a millisecond (R361). -/
def ticksPerUs : Nat := 1600
def ticksPerMs : Nat := 1600000
def ticksPerSecond : Nat := 1600000000

/-- The firmware of a core within the body of an image, as it lies in instruction memory from address 0 (R474 does not give the body's layout; log 10). -/
opaque coreCode : List Byte → Nat → List Byte

/-- The core, of 20, to which the management core delivers a request on an object index, if it delivers it to one (R176 does not say which; log 92). -/
opaque cdpCore : Nat → Option Nat

end Sys2Proof.Config
end

