-- ==== Sys2Proof/Machine/Crypto.lean ====
section
/-! DEFINITION. CRCs of the spec, and the standard algorithms it names: SHA3-512 and KMAC256 (FIPS 202, SP 800-185), AES-256-XTS
(FIPS 197, IEEE 1619). PRESUMED, log 12: the spec names the standards and gives no part of them. -/
namespace Sys2Proof.Machine

/-! ## CRCs -/

/-- One byte of the CRC of R108: polynomial 0x1021, most significant bit first. -/
def crc16Byte (c : Nat) (b : Byte) : Nat :=
  let go := fun (x : Nat) => if x &&& 0x8000 = 0 then (x <<< 1) &&& 0xFFFF else ((x <<< 1) ^^^ 0x1021) &&& 0xFFFF
  go (go (go (go (go (go (go (go (c ^^^ (b.toNat <<< 8)))))))))

/-- The CRC of R108 over bytes in order, from 0xFFFF. -/
def crc16 (l : List Byte) : Nat := l.foldl crc16Byte 0xFFFF

/-- One byte of CRC-32C, reflected (R301). -/
def crc32cByte (c : Nat) (b : Byte) : Nat :=
  let go := fun (x : Nat) => if x &&& 1 = 0 then x >>> 1 else (x >>> 1) ^^^ 0x82F63B78
  go (go (go (go (go (go (go (go (c ^^^ b.toNat))))))))

/-- CRC-32C (Castagnoli), initial value and final XOR all ones (R301). -/
def crc32c (l : List Byte) : Nat := (l.foldl crc32cByte 0xFFFFFFFF) ^^^ 0xFFFFFFFF

/-! ## SHA-3 -/

/-- Rotate a 64-bit lane left. -/
def rotl64 (x n : Nat) : Nat := ((x <<< n) ||| (x >>> (64 - n))) % 2 ^ 64

/-- Element i of a list of numbers. -/
def lane (a : List Nat) (i : Nat) : Nat := a.getD i 0

/-- The rotation offsets of Keccak, lane 5y + x. -/
def keccakRot : List Nat := [0, 1, 62, 28, 27, 36, 44, 6, 55, 20, 3, 10, 43, 25, 39, 41, 45, 15, 21, 8, 18, 2, 61, 56, 14]

/-- The round constants of Keccak-f[1600]. -/
def keccakRC : List Nat :=
  [0x1, 0x8082, 0x800000000000808A, 0x8000000080008000, 0x808B, 0x80000001, 0x8000000080008081, 0x8000000000008009,
   0x8A, 0x88, 0x80008009, 0x8000000A, 0x8000808B, 0x800000000000008B, 0x8000000000008089, 0x8000000000008003,
   0x8000000000008002, 0x8000000000000080, 0x800A, 0x800000008000000A, 0x8000000080008081, 0x8000000000008080,
   0x80000001, 0x8000000080008008]

/-- One round of Keccak-f[1600] on 25 lanes. -/
def keccakRound (a : List Nat) (rc : Nat) : List Nat :=
  let c := (List.range 5).map (fun x => lane a x ^^^ lane a (x + 5) ^^^ lane a (x + 10) ^^^ lane a (x + 15) ^^^ lane a (x + 20))
  let d := (List.range 5).map (fun x => lane c ((x + 4) % 5) ^^^ rotl64 (lane c ((x + 1) % 5)) 1)
  let th := (List.range 25).map (fun i => lane a i ^^^ lane d (i % 5))
  let b := (List.range 25).map (fun i =>
    let x' := i % 5
    let y' := i / 5
    let y := x'
    let x := (x' + 3 * y') % 5
    rotl64 (lane th (5 * y + x)) (lane keccakRot (5 * y + x)))
  let r := (List.range 25).map (fun i =>
    let x := i % 5
    let y := i / 5
    lane b i ^^^ ((lane b (5 * y + (x + 1) % 5) ^^^ (2 ^ 64 - 1)) &&& lane b (5 * y + (x + 2) % 5)))
  match r with
  | [] => []
  | h :: t => (h ^^^ rc) :: t

/-- Keccak-f[1600]. -/
def keccakF (a : List Nat) : List Nat := keccakRC.foldl keccakRound a

/-- XOR a block of bytes into the state, and permute. -/
def absorb (a : List Nat) (block : List Byte) : List Nat :=
  keccakF ((List.range 25).map (fun i => lane a i ^^^ leAt block (8 * i) 8))

/-- Absorb n blocks of `rate` bytes. -/
def absorbAll (rate : Nat) : Nat → List Nat → List Byte → List Nat
  | 0, a, _ => a
  | n + 1, a, l => absorbAll rate n (absorb a (l.take rate)) (l.drop rate)

/-- The message padded with a domain byte and the final bit. -/
def keccakPad (rate dom : Nat) (m : List Byte) : List Byte :=
  let n := rate - m.length % rate
  if n = 1 then m ++ [BitVec.ofNat 8 (dom ||| 0x80)]
  else m ++ BitVec.ofNat 8 dom :: zeros (n - 2) ++ [0x80#8]

/-- The sponge: rate, domain byte, message, bytes out (at most the rate). -/
def sponge (rate dom : Nat) (m : List Byte) (out : Nat) : List Byte :=
  let p := keccakPad rate dom m
  let a := absorbAll rate (p.length / rate) (List.replicate 25 0) p
  ((List.range 25).flatMap (fun i => natBytes 8 (lane a i))).take out

/-- SHA3-512. -/
def sha3 (m : List Byte) : List Byte := sponge 72 0x06 m 64

/-- Big-endian bytes of a number without leading zeros, at least one. -/
def beBytes : Nat → Nat → List Byte
  | 0, _ => []
  | n + 1, v => if v < 256 then [BitVec.ofNat 8 v] else beBytes n (v / 256) ++ [BitVec.ofNat 8 (v % 256)]

def leftEncode (v : Nat) : List Byte := let b := beBytes 9 v; BitVec.ofNat 8 b.length :: b
def rightEncode (v : Nat) : List Byte := let b := beBytes 9 v; b ++ [BitVec.ofNat 8 b.length]
def encodeString (s : List Byte) : List Byte := leftEncode (8 * s.length) ++ s
def bytepad (x : List Byte) (w : Nat) : List Byte :=
  let y := leftEncode w ++ x
  y ++ zeros ((w - y.length % w) % w)

/-- KMAC256: key, message, output bits, customisation (R280, R435). -/
def kmac256 (key msg : List Byte) (bits : Nat) (custom : List Byte) : List Byte :=
  let pre := bytepad (encodeString (ascii "KMAC") ++ encodeString custom) 136
  sponge 136 0x04 (pre ++ bytepad (encodeString key) 136 ++ msg ++ rightEncode bits) (bits / 8)

/-! ## AES-256-XTS -/

/-- Multiply by x in the field of AES. -/
def xtime (a : Nat) : Nat := if a &&& 0x80 = 0 then a <<< 1 else ((a <<< 1) ^^^ 0x11B)

/-- The product in the field of AES, over the low n bits of b. -/
def gmul : Nat → Nat → Nat → Nat
  | 0, _, _ => 0
  | n + 1, a, b => (if b % 2 = 1 then a else 0) ^^^ gmul n (xtime a) (b / 2)

/-- The inverse in the field of AES, a^254; 0 for 0. -/
def ginv (a : Nat) : Nat :=
  let m := gmul 8
  let a2 := m a a
  let a3 := m a2 a
  let a6 := m a3 a3
  let a7 := m a6 a
  let a14 := m a7 a7
  let a15 := m a14 a
  let a30 := m a15 a15
  let a31 := m a30 a
  let a62 := m a31 a31
  let a63 := m a62 a
  let a126 := m a63 a63
  let a127 := m a126 a
  m a127 a127

/-- Rotate a byte left. -/
def rotl8 (a n : Nat) : Nat := ((a <<< n) ||| (a >>> (8 - n))) % 256

/-- The S-box of AES. -/
def sbox (a : Nat) : Nat :=
  let b := ginv a
  b ^^^ rotl8 b 1 ^^^ rotl8 b 2 ^^^ rotl8 b 3 ^^^ rotl8 b 4 ^^^ 0x63

/-- The inverse S-box of AES. -/
def invSbox (a : Nat) : Nat := ginv (rotl8 a 1 ^^^ rotl8 a 3 ^^^ rotl8 a 6 ^^^ 0x05)

/-- The key expansion of AES-256: words of 4 bytes, newest first, until 60. -/
def keyExpand : Nat → List (List Nat) → List (List Nat)
  | 0, ws => ws
  | n + 1, ws =>
    let i := ws.length
    let t := ws.headD []
    let t' :=
      if i % 8 = 0 then
        let r := (t.drop 1 ++ t.take 1).map sbox
        match r with
        | h :: tl => (h ^^^ (1 <<< (i / 8 - 1))) :: tl
        | [] => []
      else if i % 8 = 4 then t.map sbox else t
    keyExpand n (List.zipWith (· ^^^ ·) (ws.getD 7 []) t' :: ws)

/-- The words of a list of bytes, four at a time, newest first. -/
def keyWords : Nat → List Nat → List (List Nat) → List (List Nat)
  | 0, _, acc => acc
  | n + 1, l, acc => keyWords n (l.drop 4) (l.take 4 :: acc)

/-- The 15 round keys of a 32-byte key, 16 bytes each. -/
def roundKeys (key : List Byte) : List (List Nat) :=
  let ws := (keyExpand 52 (keyWords 8 (key.map BitVec.toNat) [])).reverse
  (List.range 15).map (fun r => (List.range 4).flatMap (fun j => ws.getD (4 * r + j) []))

def addKey (s k : List Nat) : List Nat := List.zipWith (· ^^^ ·) s k
def shiftRows (s : List Nat) : List Nat := (List.range 16).map (fun i => lane s ((i + 4 * (i % 4)) % 16))
def invShiftRows (s : List Nat) : List Nat := (List.range 16).map (fun i => lane s ((i + 16 - 4 * (i % 4)) % 16))

/-- Multiply each column by a circulant of four coefficients. -/
def mixWith (c0 c1 c2 c3 : Nat) (s : List Nat) : List Nat :=
  (List.range 16).map (fun i =>
    let base := 4 * (i / 4)
    let r := i % 4
    gmul 8 (lane s (base + r)) c0 ^^^ gmul 8 (lane s (base + (r + 1) % 4)) c1
      ^^^ gmul 8 (lane s (base + (r + 2) % 4)) c2 ^^^ gmul 8 (lane s (base + (r + 3) % 4)) c3)

/-- AES-256 on one block. -/
def aesEncrypt (key : List Byte) (block : List Byte) : List Byte :=
  match roundKeys key with
  | [] => []
  | k0 :: ks =>
    let s := (ks.take 13).foldl (fun s k => addKey (mixWith 2 3 1 1 (shiftRows (s.map sbox))) k) (addKey (block.map BitVec.toNat) k0)
    (addKey (shiftRows (s.map sbox)) (ks.getD 13 [])).map (BitVec.ofNat 8)

/-- AES-256 inverse on one block. -/
def aesDecrypt (key : List Byte) (block : List Byte) : List Byte :=
  match (roundKeys key).reverse with
  | [] => []
  | k14 :: ks =>
    let s := (ks.take 13).foldl (fun s k => mixWith 14 11 13 9 (addKey ((invShiftRows s).map invSbox) k))
      (addKey (block.map BitVec.toNat) k14)
    (addKey ((invShiftRows s).map invSbox) (ks.getD 13 [])).map (BitVec.ofNat 8)

/-- Multiply a tweak, a 128-bit little-endian value, by the primitive element (IEEE 1619). -/
def tweakNext (t : Nat) : Nat := ((t <<< 1) % 2 ^ 128) ^^^ (if t >>> 127 = 1 then 0x87 else 0)

/-- XOR of a number into 16 bytes. -/
def xor16 (l : List Byte) (t : Nat) : List Byte := natBytes 16 (leNat (l.take 16) ^^^ t)

/-- AES-256-XTS of one word: 64 bytes of key material, the data unit number DPA[55:5], two AES blocks (R188). -/
def xts (enc : Bool) (key : List Byte) (unit : Nat) (w : Word) : Word :=
  let t0 := leNat (aesEncrypt (key.drop 32) (natBytes 16 unit))
  let t1 := tweakNext t0
  let f := fun (t : Nat) (b : List Byte) =>
    xor16 ((if enc then aesEncrypt else aesDecrypt) (key.take 32) (xor16 b t)) t
  let l := wordBytes w
  bytesWord (f t0 (l.take 16) ++ f t1 (l.drop 16))

end Sys2Proof.Machine
end

