-- ==== Sys2Proof/Machine/Lattice.lean ====
section
/-! DEFINITION. The two lattice standards the spec names (R2): ML-KEM-1024 (FIPS 203) and ML-DSA-87 (FIPS 204). PRESUMED, log 12:
the spec names the standards and gives no part of them. A polynomial is the list of its 256 coefficients, each below the modulus. -/
namespace Sys2Proof.Machine

/-! ## The hash functions and the packing of both standards -/

/-- n blocks of a sponge's output, from its state. -/
def squeeze (rate : Nat) : Nat → List Nat → List Byte
  | 0, _ => []
  | n + 1, a => ((List.range 25).flatMap (fun i => natBytes 8 (lane a i))).take rate ++ squeeze rate n (keccakF a)

/-- The sponge with an output of any length. -/
def xof (rate : Nat) (m : List Byte) (out : Nat) : List Byte :=
  let p := keccakPad rate 0x1F m
  (squeeze rate (ceilDiv out rate) (absorbAll rate (p.length / rate) (List.replicate 25 0) p)).take out

/-- SHA3-256. -/
def sha3short (m : List Byte) : List Byte := sponge 136 0x06 m 32
/-- SHAKE128 and SHAKE256. -/
def shake128 (m : List Byte) (out : Nat) : List Byte := xof 168 m out
def shake256 (m : List Byte) (out : Nat) : List Byte := xof 136 m out

/-- Numbers of w bits each, the first in the lowest bits, as bytes. -/
def packBits (w : Nat) (l : List Nat) : List Byte := natBytes (l.length * w / 8) (l.foldr (fun x acc => x % 2 ^ w + acc <<< w) 0)

/-- n numbers of w bits each from a number. -/
def unpackNat (w : Nat) : Nat → Nat → List Nat
  | 0, _ => []
  | n + 1, v => v % 2 ^ w :: unpackNat w n (v >>> w)

/-- 256 numbers of w bits each from bytes. -/
def unpackBits (w : Nat) (l : List Byte) : List Nat := unpackNat w 256 (leNat (l.take (32 * w)))

/-- n parts of a list, of size each. -/
def parts {α : Type} (size : Nat) : Nat → List α → List (List α)
  | 0, _ => []
  | n + 1, l => l.take size :: parts size n (l.drop size)

/-- The bits of a number in reverse, n of them. -/
def bitRev : Nat → Nat → Nat
  | 0, _ => 0
  | n + 1, v => (v % 2) * 2 ^ n + bitRev n (v / 2)

/-- The first n powers of z modulo q, times x. -/
def powersOf (q z : Nat) : Nat → Nat → List Nat
  | 0, _ => []
  | n + 1, x => x :: powersOf q z n (x * z % q)

/-- A power modulo q, over the low n bits of the exponent. -/
def powMod (q : Nat) : Nat → Nat → Nat → Nat
  | 0, _, _ => 1
  | n + 1, b, e => (if e % 2 = 1 then b else 1) * powMod q n (b * b % q) (e / 2) % q

/-- Sum of products modulo q. -/
def dotMod (q : Nat) (a b : List Nat) : Nat := (List.zipWith (· * ·) a b).foldl (· + ·) 0 % q

/-- Sum and difference of polynomials modulo q. -/
def ringAdd (q : Nat) (a b : List Nat) : List Nat := List.zipWith (fun x y => (x + y) % q) a b
def ringSub (q : Nat) (a b : List Nat) : List Nat := List.zipWith (fun x y => (x + q - y) % q) a b
/-- The sum of polynomials. -/
def ringSum (q : Nat) (l : List (List Nat)) : List Nat := l.foldl (ringAdd q) (List.replicate 256 0)

/-- Half a list: the elements at even places, and those at odd places. -/
def evens : List Nat → List Nat
  | [] => []
  | [a] => [a]
  | a :: _ :: l => a :: evens l
def odds (l : List Nat) : List Nat := evens (l.drop 1)
/-- Two lists in turn. -/
def braid (a b : List Nat) : List Nat := (List.zipWith (fun x y => [x, y]) a b).flatten

/-! ## ML-KEM-1024 (FIPS 203: k = 4, both noise parameters 2, du = 11, dv = 5) -/

def kemQ : Nat := 3329

/-- The roots of the transform's factors X^2 - root, in its order. -/
def kemRoots : List Nat := (List.range 128).map (fun i => powMod kemQ 8 17 (2 * bitRev 7 i + 1))

/-- The transform: the remainders modulo the 128 factors. -/
def kemNtt (f : List Nat) : List Nat :=
  let e := evens f
  let o := odds f
  kemRoots.flatMap (fun z => let p := powersOf kemQ z 128 1; [dotMod kemQ e p, dotMod kemQ o p])

/-- The inverse transform; 3303 is the inverse of 128. -/
def kemInv (f : List Nat) : List Nat :=
  let e := evens f
  let o := odds f
  let cols := (List.range 128).map (fun j => kemRoots.map (fun z => powMod kemQ 12 z ((kemQ - 1 - j) % (kemQ - 1))))
  cols.flatMap (fun c => [dotMod kemQ e c * 3303 % kemQ, dotMod kemQ o c * 3303 % kemQ])

/-- The product of two transforms. -/
def kemMul (f g : List Nat) : List Nat :=
  let a := List.zip (evens f) (odds f)
  let b := List.zip (evens g) (odds g)
  (List.zipWith (fun z (x : (Nat × Nat) × (Nat × Nat)) =>
    [(x.1.1 * x.2.1 + x.1.2 * x.2.2 % kemQ * z) % kemQ, (x.1.1 * x.2.2 + x.1.2 * x.2.1) % kemQ]) kemRoots (List.zip a b)).flatten

/-- Rejection sampling below q from three bytes at a time. -/
def kemReject : Nat → List Byte → List Nat
  | 0, _ => []
  | n + 1, l =>
    let c := leNat (l.take 3)
    [c % 4096, c / 4096].filter (fun x => decide (x < kemQ)) ++ kemReject n (l.drop 3)

/-- A polynomial from a seed: 16 blocks of the stream, which hold 256 coefficients but for a chance below 2^-1000. -/
def kemSample (seed : List Byte) : List Nat := (kemReject 896 (shake128 seed 2688)).take 256

/-- Noise from 128 bytes: in each 4 bits the difference of two sums of two. -/
def kemNoise (key : List Byte) (n : Nat) : List Nat :=
  (unpackBits 4 (shake256 (key ++ natBytes 1 n) 128)).map (fun x => (x % 2 + x / 2 % 2 + kemQ - x / 4 % 2 - x / 8) % kemQ)

def kemCompress (d : Nat) (f : List Nat) : List Nat := f.map (fun x => (2 ^ (d + 1) * x + kemQ) / (2 * kemQ) % 2 ^ d)
def kemExpand (d : Nat) (f : List Nat) : List Nat := f.map (fun y => (2 * kemQ * y + 2 ^ d) / 2 ^ (d + 1))

/-- Row i, column j of the matrix of a seed. -/
def kemMatrix (rho : List Byte) (i j : Nat) : List Nat := kemSample (rho ++ natBytes 1 j ++ natBytes 1 i)

/-- The product of two rows of four transforms. -/
def kemDot (a b : List (List Nat)) : List Nat := ringSum kemQ (List.zipWith kemMul a b)

/-- The encryption of 32 bytes under a key, with the randomness r. -/
def kemEncrypt (ek m r : List Byte) : List Byte :=
  let t := (parts 384 4 ek).map (unpackBits 12)
  let rho := ek.drop 1536
  let y := (List.range 4).map (fun n => kemNtt (kemNoise r n))
  let u := (List.range 4).map (fun i =>
    ringAdd kemQ (kemInv (kemDot ((List.range 4).map (fun j => kemMatrix rho j i)) y)) (kemNoise r (4 + i)))
  let v := ringAdd kemQ (ringAdd kemQ (kemInv (kemDot t y)) (kemNoise r 8)) (kemExpand 1 (unpackBits 1 m))
  u.flatMap (fun f => packBits 11 (kemCompress 11 f)) ++ packBits 5 (kemCompress 5 v)

/-- The decryption of a ciphertext. -/
def kemDecrypt (dk c : List Byte) : List Byte :=
  let u := (parts 352 4 c).map (fun l => kemExpand 11 (unpackBits 11 l))
  let v := kemExpand 5 (unpackBits 5 (c.drop 1408))
  let s := (parts 384 4 dk).map (unpackBits 12)
  packBits 1 (kemCompress 1 (ringSub kemQ v (kemInv (kemDot s (u.map kemNtt)))))

/-- Encapsulation key (1,568 bytes) and decapsulation key (3,168 bytes) of two seeds of 32 bytes. -/
def kemKeys (d z : List Byte) : List Byte × List Byte :=
  let g := sha3 (d ++ natBytes 1 4)
  let rho := g.take 32
  let sigma := g.drop 32
  let s := (List.range 4).map (fun n => kemNtt (kemNoise sigma n))
  let t := (List.range 4).map (fun i =>
    ringAdd kemQ (kemDot ((List.range 4).map (fun j => kemMatrix rho i j)) s) (kemNtt (kemNoise sigma (4 + i))))
  let ek := t.flatMap (packBits 12) ++ rho
  (ek, s.flatMap (packBits 12) ++ ek ++ sha3short ek ++ z)

/-- ML-KEM-1024 decapsulation: the 32-byte shared secret. -/
def kemDecaps (dk c : List Byte) : List Byte :=
  let ek := slice dk 1536 1568
  let m := kemDecrypt (dk.take 1536) c
  let g := sha3 (m ++ slice dk 3104 32)
  if kemEncrypt ek m (g.drop 32) = c then g.take 32 else shake256 (dk.drop 3136 ++ c) 32

/-- The transport key pair of a start: "drawn afresh at each cold start" (R280), so of free seeds. -/
@[irreducible] def transportKeys (start : Nat) : List Byte × List Byte :=
  kemKeys (natBytes 32 (Config.transportSeed start)) (natBytes 32 (Config.transportSeed start >>> 256))

/-- TRANSPORT_EK of a start (R282). -/
def transportEk (start : Nat) : List Byte := (transportKeys start).1

/-- The secret that a ciphertext carries to the part under the transport key of a start (R280, R435). -/
@[irreducible] def mlKemDecaps (start : Nat) (c : List Byte) : List Byte := kemDecaps (transportKeys start).2 c

/-! ## ML-DSA-87 (FIPS 204: k = 8, l = 7, eta = 2, tau = 60, gamma1 = 2^19, gamma2 = (q - 1) / 32, omega = 75) -/

def dsaQ : Nat := 8380417
def dsaG1 : Nat := 524288
def dsaG2 : Nat := 261888

/-- The points at which the transform evaluates a polynomial, in its order. -/
def dsaRoots : List Nat := (List.range 256).map (fun i => powMod dsaQ 9 1753 (2 * bitRev 8 i + 1))

/-- The transform: the values at the 256 points. -/
def dsaNtt (f : List Nat) : List Nat := dsaRoots.map (fun z => f.foldr (fun x acc => (x + acc * z) % dsaQ) 0)

/-- The inverse transform; 8347681 is the inverse of 256. -/
def dsaInv (f : List Nat) : List Nat :=
  (List.range 256).map (fun j => dotMod dsaQ f (dsaRoots.map (fun z => powMod dsaQ 23 z ((dsaQ - 1 - j) % (dsaQ - 1)))) * 8347681 % dsaQ)

/-- The product of two transforms. -/
def dsaMul (f g : List Nat) : List Nat := List.zipWith (fun x y => x * y % dsaQ) f g

/-- Three bytes at a time, 23 bits each, below q. -/
def dsaReject : Nat → List Byte → List Nat
  | 0, _ => []
  | n + 1, l => [leNat (l.take 3) % 2 ^ 23].filter (fun x => decide (x < dsaQ)) ++ dsaReject n (l.drop 3)

/-- Row r, column s of the matrix of a seed: 8 blocks of the stream. -/
def dsaMatrix (rho : List Byte) (r s : Nat) : List Nat :=
  (dsaReject 448 (shake128 (rho ++ natBytes 1 s ++ natBytes 1 r) 1344)).take 256

/-- A matrix of 8 rows by a vector of 7, in the transform. -/
def dsaApply (rho : List Byte) (v : List (List Nat)) : List (List Nat) :=
  (List.range 8).map (fun r => ringSum dsaQ ((List.range 7).map (fun s => dsaMul (dsaMatrix rho r s) (v.getD s []))))

/-- A secret polynomial with coefficients of at most 2: two of each byte, 4 bits each, below 15. -/
def dsaSecret (seed : List Byte) (n : Nat) : List Nat :=
  (((unpackNat 4 1088 (leNat (shake256 (seed ++ natBytes 2 n) 544))).filter (fun b => decide (b < 15))).map
    (fun b => (dsaQ + 2 - b % 5) % dsaQ)).take 256

/-- The challenge's 60 places from i on, each with a sign bit: the rest of the stream gives a place not above i. -/
def dsaPlaces : List Byte → Nat → Nat → List Nat → List Nat
  | [], _, _, c => c
  | b :: l, i, signs, c =>
    if i < 256 then
      (if b.toNat ≤ i then dsaPlaces l (i + 1) (signs / 2)
        ((c.set i (lane c b.toNat)).set b.toNat (if signs % 2 = 1 then dsaQ - 1 else 1))
      else dsaPlaces l i signs c)
    else c

/-- The challenge polynomial of a hash: 60 coefficients of 1 or -1. -/
def dsaBall (h : List Byte) : List Nat :=
  let s := shake256 h 1088
  dsaPlaces (s.drop 8) 196 (leAt s 0 8) (List.replicate 256 0)

/-- The magnitude of a coefficient, read between -q/2 and q/2. -/
def dsaAbs (x : Nat) : Nat := if x ≤ dsaQ / 2 then x else dsaQ - x

/-- The largest magnitude among polynomials is below a bound. -/
def dsaBelow (bound : Nat) (v : List (List Nat)) : Bool := v.all (fun f => f.all (fun x => decide (dsaAbs x < bound)))

/-- The low part of a coefficient, between -gamma2 and gamma2, modulo q. -/
def dsaLow (x : Nat) : Nat :=
  let r := x % (2 * dsaG2)
  let r := if r ≤ dsaG2 then r else r + dsaQ - 2 * dsaG2
  if (x + dsaQ - r) % dsaQ = dsaQ - 1 then (r + dsaQ - 1) % dsaQ else r

/-- The high part, 0 to 15. -/
def dsaHigh (x : Nat) : Nat :=
  let r := x % (2 * dsaG2)
  let up := if r ≤ dsaG2 then x - r else x - r + 2 * dsaG2
  if up = dsaQ - 1 then 0 else up / (2 * dsaG2)

/-- The high part a hint mends. -/
def dsaMend (h : Bool) (x : Nat) : Nat :=
  let r1 := dsaHigh x
  let r0 := dsaLow x
  if h then (if 0 < r0 ∧ r0 ≤ dsaQ / 2 then (r1 + 1) % 16 else (r1 + 15) % 16) else r1

/-- The hints of a signature, one list of places a row: places rise within a row, the counts rise, and what is left over is 0. -/
def dsaHints : List Nat → Nat → List Nat → Option (List (List Nat))
  | [], at_, y => if (y.drop at_).all (· == 0) then some [] else none
  | c :: l, at_, y =>
    let row := (y.take c).drop at_
    if at_ ≤ c ∧ c ≤ 75 ∧ (List.zipWith (fun a b => decide (a < b)) row (row.drop 1)).all id then
      (dsaHints l c y).map (fun r => row :: r)
    else none

/-- SHAKE256 to 64 bytes. -/
def shake64 (m : List Byte) : List Byte := shake256 m 64

/-- The digest a signature is made over: an empty context string, the message as it is. -/
def dsaDigest (pk m : List Byte) : List Byte := shake64 (shake64 pk ++ zeros 2 ++ m)

/-- ML-DSA-87 verification: public key (2,592 bytes), message, signature (4,627 bytes). -/
@[irreducible] def mlDsaVerify (pk m sig : List Byte) : Bool :=
  if pk.length = 2592 ∧ sig.length = 4627 then
    let rho := pk.take 32
    let t1 := (parts 320 8 (pk.drop 32)).map (fun l => dsaNtt ((unpackBits 10 l).map (fun x => x * 8192 % dsaQ)))
    let c := sig.take 64
    let z := (parts 640 7 (sig.drop 64)).map (fun l => (unpackBits 20 l).map (fun x => (dsaQ + dsaG1 - x) % dsaQ))
    let y := (sig.drop 4544).map BitVec.toNat
    match dsaHints (y.drop 75) 0 (y.take 75) with
    | none => false
    | some h =>
      let ch := dsaNtt (dsaBall c)
      let w := List.zipWith (fun a t => dsaInv (ringSub dsaQ a (dsaMul ch t))) (dsaApply rho (z.map dsaNtt)) t1
      let w1 := List.zipWith (fun f row => (List.range 256).map (fun j => dsaMend (row.contains j) (lane f j))) w h
      dsaBelow (dsaG1 - 120) z && shake64 (dsaDigest pk m ++ w1.flatMap (packBits 4)) == c
  else false

/-- The secret parts of a seed: matrix seed, signing key, the two secret vectors, and the sum they make. -/
def dsaExpand (seed : List Byte) : List Byte × List Byte × List (List Nat) × List (List Nat) × List (List Nat) :=
  let g := shake256 (seed ++ [8#8, 7#8]) 128
  let rho := g.take 32
  let s1 := (List.range 7).map (fun n => dsaSecret (slice g 32 64) n)
  let s2 := (List.range 8).map (fun n => dsaSecret (slice g 32 64) (7 + n))
  (rho, g.drop 96, s1, s2, List.zipWith (fun f e => ringAdd dsaQ (dsaInv f) e) (dsaApply rho (s1.map dsaNtt)) s2)

/-- The high part of a coefficient of that sum, of 10 bits. -/
def dsaTop (x : Nat) : Nat := (x + 4095) / 8192

/-- The public key of the sum. -/
def dsaPublic (rho : List Byte) (t : List (List Nat)) : List Byte := rho ++ t.flatMap (fun f => packBits 10 (f.map dsaTop))

/-- One attempt at a signature, or none where the standard has it rejected. -/
def dsaAttempt (rho mu key : List Byte) (s1 s2 t : List (List Nat)) (kappa : Nat) : Option (List Byte) :=
  let y := (List.range 7).map (fun n => (unpackBits 20 (shake256 (key ++ natBytes 2 (kappa + n)) 640)).map (fun x => (dsaQ + dsaG1 - x) % dsaQ))
  let w := (dsaApply rho (y.map dsaNtt)).map dsaInv
  let c := shake64 (mu ++ w.flatMap (fun f => packBits 4 (f.map dsaHigh)))
  let ch := dsaNtt (dsaBall c)
  let times := fun (f : List Nat) => dsaInv (dsaMul ch (dsaNtt f))
  let z := List.zipWith (fun a s => ringAdd dsaQ a (times s)) y s1
  let r := List.zipWith (fun a s => ringSub dsaQ a (times s)) w s2
  let t0 := t.map (fun f => times (f.map (fun x => (x + dsaQ - dsaTop x * 8192 % dsaQ) % dsaQ)))
  let full := List.zipWith (ringAdd dsaQ) r t0
  let rows := List.zipWith (fun f g => (List.range 256).filter (fun j => dsaHigh (lane f j) != dsaHigh (lane g j))) full r
  let flat := rows.flatten
  if dsaBelow (dsaG1 - 120) z && dsaBelow (dsaG2 - 120) (r.map (fun f => f.map dsaLow)) && dsaBelow dsaG2 t0 && decide (flat.length ≤ 75) then
    some (c ++ z.flatMap (fun f => packBits 20 (f.map (fun x => (dsaQ + dsaG1 - x) % dsaQ)))
      ++ (flat ++ List.replicate (75 - flat.length) 0 ++ (List.range 8).map (fun i => (rows.take (i + 1)).flatten.length)).map (BitVec.ofNat 8))
  else none

/-- The first attempt that is not rejected, among n: the standard lets an implementation stop after 814. -/
def dsaTry (attempt : Nat → Option (List Byte)) : Nat → Nat → List Byte
  | 0, _ => zeros 4627
  | n + 1, kappa => match attempt kappa with
    | some s => s
    | none => dsaTry attempt n (kappa + 7)

/-- ML-DSA-87 signature of a message under the key of a seed, with 32 random bytes. -/
def dsaSign (seed rnd m : List Byte) : List Byte :=
  let k := dsaExpand seed
  let mu := dsaDigest (dsaPublic k.1 k.2.2.2.2) m
  dsaTry (dsaAttempt k.1 mu (shake64 (k.2.1 ++ rnd ++ mu)) k.2.2.1 k.2.2.2.1 k.2.2.2.2) 814 0

/-- ATTEST_PK: of the key "derived at every cold start from a fused secret and so constant for the part" (R282); the secret is free. -/
@[irreducible] def attestPk : List Byte :=
  let k := dsaExpand (natBytes 32 Config.attestSeed)
  dsaPublic k.1 k.2.2.2.2

/-- A signature under the part's attestation key (R267, R289), with randomness that the standard leaves to the signer. -/
@[irreducible] def attestSign (m : List Byte) : List Byte := dsaSign (natBytes 32 Config.attestSeed) (natBytes 32 (Config.attestRandom m)) m

end Sys2Proof.Machine
end

