-- ==== Sys2Proof/Machine/Catalogue.lean ====
section
/-! DEFINITION. The object catalogue (R449 and the object tables of every chapter): every object's place, type, access kind,
length where it is fixed, and default value. Kept chapter by chapter. -/
namespace Sys2Proof.Machine

/-- The value types of R430. -/
inductive ObjType where
  | u8 | u16 | u32 | u64 | s8 | s16 | s32 | s64 | bool | bits32 | bits64 | enum | time64 | str | blob | digest512
deriving DecidableEq, Repr

/-- The TYPE code of R430. -/
def ObjType.code : ObjType → Nat
  | .u8 => 1 | .u16 => 2 | .u32 => 3 | .u64 => 4 | .s8 => 5 | .s16 => 6 | .s32 => 7 | .s64 => 8 | .bool => 9
  | .bits32 => 10 | .bits64 => 11 | .enum => 12 | .time64 => 13 | .str => 14 | .blob => 15 | .digest512 => 16

/-- The access kinds of R431. -/
inductive ObjAccess where
  | r | w | rw | rwb | x
deriving DecidableEq, Repr

/-- An object or a family of objects: indices base to base + count - 1, subs sub to sub + subs - 1; fixed length, or 0. -/
structure ObjEntry where
  base   : Nat
  count  : Nat
  sub    : Nat
  subs   : Nat
  name   : String
  type   : ObjType
  access : ObjAccess
  fixed  : Nat
  dflt   : List Byte
deriving DecidableEq, Repr

/-- The key of an object: index × 256 + subindex. -/
def objKey (index sub : Nat) : Nat := index * 256 + sub

/-- The objects of R14. -/
def catalogue01 : List ObjEntry :=
  [ ⟨0x1010, 1, 0x01, 1, "BLOCKS_ENABLED", .u16, .r, 2, natBytes 2 256⟩
  , ⟨0x1010, 1, 0x02, 1, "RETIRED_MAP", .blob, .r, 0, zeros 32⟩
  , ⟨0x1010, 1, 0x03, 1, "SPARE_GOOD", .bits32, .r, 4,
      natBytes 4 (((List.range 16).filter Config.spareGood).foldl (fun a d => a + 2 ^ d) 0)⟩
  , ⟨0x1010, 1, 0x04, 1, "SOFT_REPAIR_ENABLE", .bool, .rw, 1, natBytes 1 1⟩ ]

/-- The objects of R45. -/
def catalogue02 : List ObjEntry :=
  [ ⟨0x4000, 64, 0x0D, 1, "ACC_OVERFLOW_POLICY", .enum, .rwb, 1, natBytes 1 0⟩ ]

/-- The objects of R142, R151, R155. -/
def catalogue06 : List ObjEntry :=
  [ ⟨0x1000, 1, 0x07, 1, "SUPPORTED_PROFILES", .bits32, .r, 4, natBytes 4 (if Config.steppingB0 then 3 else 1)⟩
  , ⟨0x1000, 1, 0x08, 1, "ALLOW_SLOWER", .bool, .rw, 1, natBytes 1 0⟩
  , ⟨0x9100, 64, 0x01, 1, "SLIP_TOTAL", .u64, .r, 8, natBytes 8 0⟩
  , ⟨0x9100, 64, 0x02, 1, "SLIP_FLAG", .u64, .r, 8, natBytes 8 0⟩
  , ⟨0x9100, 64, 0x03, 1, "SLIP_TAG", .u64, .r, 8, natBytes 8 0⟩
  , ⟨0x9100, 64, 0x04, 1, "SLIP_BANK", .u64, .r, 8, natBytes 8 0⟩
  , ⟨0x9100, 64, 0x05, 1, "SLIP_STREET", .u64, .r, 8, natBytes 8 0⟩
  , ⟨0x9100, 64, 0x06, 1, "SLIP_MATRIX", .u64, .r, 8, natBytes 8 0⟩
  , ⟨0x9100, 64, 0x07, 1, "SLIP_VECTOR", .u64, .r, 8, natBytes 8 0⟩
  , ⟨0x9100, 64, 0x08, 1, "SLIP_MOVER", .u64, .r, 8, natBytes 8 0⟩
  , ⟨0x9100, 64, 0x09, 1, "SLIP_SUMMARY", .u64, .r, 8, natBytes 8 0⟩
  , ⟨0x9100, 64, 0x0A, 1, "SLIP_INFLIGHT", .u64, .r, 8, natBytes 8 0⟩
  , ⟨0x9100, 64, 0x0B, 1, "SLIP_QUEUE", .u64, .r, 8, natBytes 8 0⟩
  , ⟨0x9100, 64, 0x0C, 1, "SLIP_SEGMENT", .u64, .r, 8, natBytes 8 0⟩
  , ⟨0x9100, 64, 0x0D, 1, "PACE", .u64, .r, 8, natBytes 8 0⟩
  , ⟨0x9100, 64, 0x0E, 1, "CREDIT_WAIT", .u64, .r, 8, natBytes 8 0⟩
  , ⟨0x9100, 64, 0x0F, 1, "PROFILE_LATE", .u64, .r, 8, natBytes 8 0⟩
  , ⟨0x9100, 64, 0x10, 1, "FREEZES", .u64, .r, 8, natBytes 8 0⟩
  , ⟨0x9100, 64, 0x11, 1, "MAX_FREEZE", .u64, .r, 8, natBytes 8 0⟩
  , ⟨0x9100, 64, 0x12, 1, "LAST_STEP_SLIP", .u64, .r, 8, natBytes 8 0⟩
  , ⟨0x9100, 64, 0x20, 1, "CLEAR", .bool, .x, 1, []⟩
  , ⟨0x4000, 64, 0x10, 1, "GRIDLOCK_REPORT", .blob, .r, 0, zeros 128⟩ ]

/-- The objects of R164. -/
def catalogue07 : List ObjEntry :=
  [ ⟨0x4000, 64, 0x18, 1, "CHOICE_CODE", .blob, .rwb, 0, []⟩
  , ⟨0x4000, 64, 0x19, 1, "CHOICE_DIGEST", .digest512, .r, 64, zeros 64⟩
  , ⟨0x4000, 64, 0x1A, 1, "CHOICE_LIMIT", .u32, .rw, 4, natBytes 4 1048576⟩
  , ⟨0x4000, 64, 0x1B, 1, "CHOICE_FAULT", .u64, .r, 8, natBytes 8 0⟩ ]

/-- The objects of R206, R207. -/
def catalogue08 : List ObjEntry :=
  [ ⟨0x6000, 1, 0x01, 1, "HBM_BYTES", .u64, .r, 8, natBytes 8 687194767360⟩
  , ⟨0x6000, 1, 0x02, 1, "HBM_FW_BYTES", .u64, .r, 8, natBytes 8 17179869184⟩
  , ⟨0x6000, 1, 0x03, 1, "HBM_PIN_RATE", .u16, .r, 2, natBytes 2 8000⟩
  , ⟨0x6000, 1, 0x04, 1, "SLOT_NS", .u8, .r, 1, natBytes 1 4⟩
  , ⟨0x6000, 1, 0x05, 1, "REFRESH_SLOTS", .u8, .r, 1, natBytes 1 16⟩
  , ⟨0x6000, 1, 0x10, 4, "CXL_DATA_BYTES", .u64, .r, 8, natBytes 8 0⟩
  , ⟨0x6000, 1, 0x18, 2, "HOST_DATA_BYTES", .u64, .rw, 8, natBytes 8 0⟩
  , ⟨0x6100, 256, 0x01, 1, "PC_OWNER", .u8, .rw, 1, natBytes 1 255⟩
  , ⟨0x9200, 256, 0x01, 1, "SLOTS_PLAN", .u64, .r, 8, natBytes 8 0⟩
  , ⟨0x9200, 256, 0x02, 1, "SLOTS_SERVICE", .u64, .r, 8, natBytes 8 0⟩
  , ⟨0x9200, 256, 0x03, 1, "SLOTS_IDLE", .u64, .r, 8, natBytes 8 0⟩
  , ⟨0x9200, 256, 0x04, 1, "DEFERS", .u64, .r, 8, natBytes 8 0⟩
  , ⟨0x9200, 256, 0x05, 1, "SERVICE_WAIT", .u64, .r, 8, natBytes 8 0⟩
  , ⟨0x9200, 256, 0x06, 1, "PACK_ERRORS", .u64, .r, 8, natBytes 8 0⟩ ]

/-- The objects of R219, R220. -/
def catalogue09 : List ObjEntry :=
  [ ⟨0x4000, 64, 0x11, 1, "DATA_ERROR_REPORT", .blob, .r, 0, zeros 32⟩
  , ⟨0x9400, 1, 0x01, 1, "MENDS_TIER0", .u64, .r, 8, natBytes 8 0⟩
  , ⟨0x9400, 1, 0x02, 1, "MENDS_TIER1", .u64, .r, 8, natBytes 8 0⟩
  , ⟨0x9400, 1, 0x03, 1, "MENDS_TIER23", .u64, .r, 8, natBytes 8 0⟩
  , ⟨0x9400, 1, 0x04, 1, "UNCORRECTABLE", .u64, .r, 8, natBytes 8 0⟩
  , ⟨0x9400, 1, 0x05, 1, "UNWRITTEN", .u64, .r, 8, natBytes 8 0⟩
  , ⟨0x9400, 1, 0x06, 1, "SCRUB_WORDS", .u64, .r, 8, natBytes 8 0⟩
  , ⟨0x9400, 1, 0x07, 1, "SCRUB_MENDED", .u64, .r, 8, natBytes 8 0⟩
  , ⟨0x9400, 1, 0x08, 1, "SCRUB_BAD", .u64, .r, 8, natBytes 8 0⟩
  , ⟨0x9400, 1, 0x09, 1, "CLEAR_WORDS", .u64, .r, 8, natBytes 8 0⟩ ]

/-- The objects of R243, R244. -/
def catalogue10 : List ObjEntry :=
  [ ⟨0x5000, 1, 0x01, 1, "RT_RESIDENT", .u16, .r, 2, natBytes 2 0⟩
  , ⟨0x5000, 1, 0x02, 1, "RT_PARKED", .u32, .r, 4, natBytes 4 0⟩
  , ⟨0x5000, 1, 0x03, 1, "DIR_CACHE_TOTAL", .u32, .r, 4, natBytes 4 8388608⟩
  , ⟨0x5000, 1, 0x04, 1, "STAGE_BYTES", .u32, .r, 4, natBytes 4 16777216⟩
  , ⟨0x5300, 64, 0x01, 1, "BATCH_SLOTS", .u16, .rwb, 2, natBytes 2 0⟩
  , ⟨0x5300, 64, 0x02, 1, "KV_PAGE_TOKENS", .u16, .rwb, 2, natBytes 2 16⟩
  , ⟨0x5300, 64, 0x03, 1, "KV_GROUP_PAGES", .u16, .rwb, 2, natBytes 2 1⟩
  , ⟨0x5300, 64, 0x04, 1, "KV_PC_FIRST", .u8, .rwb, 1, natBytes 1 0⟩
  , ⟨0x5300, 64, 0x05, 1, "KV_PCS", .u8, .rwb, 1, natBytes 1 0⟩
  , ⟨0x5300, 64, 0x06, 1, "KV_BASE", .u32, .rwb, 4, natBytes 4 0⟩
  , ⟨0x5300, 64, 0x07, 1, "KV_FRAMES", .u32, .rwb, 4, natBytes 4 0⟩
  , ⟨0x5300, 64, 0x08, 1, "DIR_CACHE", .u32, .rwb, 4, natBytes 4 0⟩
  , ⟨0x5300, 64, 0x09, 1, "PREFILL_CHUNK", .u16, .rwb, 2, natBytes 2 64⟩
  , ⟨0x5300, 64, 0x0A, 1, "STOP_TOKENS", .blob, .rwb, 0, []⟩
  , ⟨0x5300, 64, 0x0B, 1, "BIND_LIST", .blob, .rwb, 0, []⟩
  , ⟨0x9500, 64, 0x01, 1, "SLOTS_BOUND", .u64, .r, 8, natBytes 8 0⟩
  , ⟨0x9500, 64, 0x02, 1, "SLOTS_MASKED", .u64, .r, 8, natBytes 8 0⟩
  , ⟨0x9500, 64, 0x03, 1, "UNPREPARED", .u64, .r, 8, natBytes 8 0⟩
  , ⟨0x9500, 64, 0x04, 1, "FRAME_SHORT", .u64, .r, 8, natBytes 8 0⟩
  , ⟨0x9500, 64, 0x05, 1, "DEADLINE_MISSED", .u64, .r, 8, natBytes 8 0⟩
  , ⟨0x9500, 64, 0x06, 1, "ADMITS", .u64, .r, 8, natBytes 8 0⟩
  , ⟨0x9500, 64, 0x07, 1, "TURNS", .u64, .r, 8, natBytes 8 0⟩ ]

/-- The objects of R245, R256, R258, R267, R268. -/
def catalogue11 : List ObjEntry :=
  [ ⟨0x5100, 64, 0x01, 1, "KERB_DEFAULT", .enum, .rwb, 1, natBytes 1 1⟩
  , ⟨0x5100, 64, 0x02, 1, "KERB_OVERRIDE", .bool, .rwb, 1, natBytes 1 0⟩
  , ⟨0x5100, 64, 0x03, 1, "TTL_DEFAULT", .u32, .rwb, 4, natBytes 4 600000⟩
  , ⟨0x5100, 64, 0x04, 1, "KERB_AFTER", .u32, .rwb, 4, natBytes 4 5000⟩
  , ⟨0x5100, 64, 0x05, 1, "KERB_LOW", .u32, .rwb, 4, natBytes 4 0⟩
  , ⟨0x5100, 64, 0x06, 1, "KERB2_BASE", .u64, .rwb, 8, natBytes 8 0⟩
  , ⟨0x5100, 64, 0x07, 1, "KERB2_FRAMES", .u32, .rwb, 4, natBytes 4 0⟩
  , ⟨0x5100, 64, 0x08, 1, "KERB3_BASE", .u64, .rwb, 8, natBytes 8 0⟩
  , ⟨0x5100, 64, 0x09, 1, "KERB3_FRAMES", .u32, .rwb, 4, natBytes 4 0⟩
  , ⟨0x5100, 64, 0x0A, 1, "SUMMARY_PLAN", .u8, .rwb, 1, natBytes 1 255⟩
  , ⟨0x5100, 64, 0x0B, 1, "SUMMARY_SEGMENT", .u16, .rwb, 2, natBytes 2 0⟩
  , ⟨0x5100, 64, 0x0C, 1, "SUMMARY_TOKENS", .u16, .rwb, 2, natBytes 2 0⟩
  , ⟨0x5100, 64, 0x0D, 1, "SUMMARY_EVERY", .u16, .rwb, 2, natBytes 2 16⟩
  , ⟨0x5400, 64, 0x01, 1, "EXPERTS", .u16, .rwb, 2, natBytes 2 0⟩
  , ⟨0x5400, 64, 0x02, 1, "EXPERT_OWNERS", .blob, .rwb, 2048, List.replicate 2048 0xFF#8⟩
  , ⟨0x5200, 64, 0x01, 1, "GEN_DIGEST_0", .digest512, .rw, 64, zeros 64⟩
  , ⟨0x5200, 64, 0x02, 1, "GEN_DIGEST_1", .digest512, .rw, 64, zeros 64⟩
  , ⟨0x5200, 64, 0x03, 1, "PRIV_DIGESTS_0", .blob, .rw, 16384, zeros 16384⟩
  , ⟨0x5200, 64, 0x04, 1, "PRIV_DIGESTS_1", .blob, .rw, 16384, zeros 16384⟩
  , ⟨0x5200, 64, 0x05, 1, "GEN_STATE", .bits32, .r, 4, natBytes 4 1⟩
  , ⟨0x5200, 64, 0x06, 1, "GEN_HANDLE_FIRST", .u16, .rwb, 2, natBytes 2 4096⟩
  , ⟨0x5200, 64, 0x07, 1, "SWITCH_POLICY", .enum, .rwb, 1, natBytes 1 0⟩
  , ⟨0x5200, 64, 0x08, 1, "SWITCH", .u8, .x, 1, []⟩
  , ⟨0x5200, 64, 0x09, 1, "CUT_DRAINING", .bool, .x, 1, []⟩
  , ⟨0x5200, 64, 0x10, 1, "SIGN_ROOTS", .bool, .rw, 1, natBytes 1 0⟩
  , ⟨0x5200, 64, 0x11, 1, "ROOT_SELECT", .u32, .rw, 4, natBytes 4 0⟩
  , ⟨0x5200, 64, 0x12, 1, "ROOT_RECORD", .blob, .r, 0, []⟩
  , ⟨0x9500, 64, 0x08, 1, "KERBS_TIER", .u64, .r, 8, natBytes 8 0⟩
  , ⟨0x9500, 64, 0x09, 1, "KERBS_SUMMARY", .u64, .r, 8, natBytes 8 0⟩
  , ⟨0x9500, 64, 0x0A, 1, "RECALLS", .u64, .r, 8, natBytes 8 0⟩
  , ⟨0x9500, 64, 0x0B, 1, "EXPIRIES", .u64, .r, 8, natBytes 8 0⟩
  , ⟨0x9500, 64, 0x0C, 1, "KERB_FULL", .u64, .r, 8, natBytes 8 0⟩
  , ⟨0x9500, 64, 0x0D, 1, "RECALL_WAIT", .u64, .r, 8, natBytes 8 0⟩
  , ⟨0x9500, 64, 0x0E, 1, "CUTS", .u64, .r, 8, natBytes 8 0⟩
  , ⟨0x9500, 64, 0x0F, 1, "SUMMARY_STEPS", .u64, .r, 8, natBytes 8 0⟩ ]

/-- The objects of R269, R273, R282. -/
def catalogue12 : List ObjEntry :=
  [ ⟨0x4000, 64, 0x01, 1, "PART_STATE", .enum, .r, 1, natBytes 1 0⟩
  , ⟨0x4000, 64, 0x02, 1, "BLOCK_MAP", .blob, .r, 0, zeros 32⟩
  , ⟨0x4000, 64, 0x03, 1, "OWNER", .u8, .r, 1, natBytes 1 0⟩
  , ⟨0x4000, 64, 0x04, 1, "ADMITTED", .blob, .rwb, 32, zeros 32⟩
  , ⟨0x4000, 64, 0x05, 1, "CREATE", .blob, .x, 34, []⟩
  , ⟨0x4000, 64, 0x06, 1, "DESTROY", .bool, .x, 1, []⟩
  , ⟨0x4000, 64, 0x07, 1, "PART_FLAGS", .bits32, .r, 4, natBytes 4 0⟩
  , ⟨0x4000, 64, 0x08, 1, "LEAD_DISTRICT", .u8, .r, 1, natBytes 1 255⟩
  , ⟨0x4000, 64, 0x09, 1, "MEASUREMENT", .digest512, .r, 64, zeros 64⟩
  , ⟨0x4000, 64, 0x0A, 1, "QUOTE_NONCE", .blob, .x, 64, []⟩
  , ⟨0x4000, 64, 0x0B, 1, "QUOTE", .blob, .r, 0, []⟩
  , ⟨0x4100, 256, 0x01, 1, "TENANT_STATE", .enum, .r, 1, natBytes 1 0⟩
  , ⟨0x4100, 256, 0x02, 1, "ENROL", .bool, .x, 1, []⟩
  , ⟨0x4100, 256, 0x03, 1, "VF_MAP", .blob, .rw, 32, zeros 32⟩
  , ⟨0x4100, 256, 0x04, 1, "KV_KEY", .u16, .rw, 2, natBytes 2 0⟩
  , ⟨0x4100, 256, 0x05, 1, "DMA_KEY", .u16, .rw, 2, natBytes 2 0⟩
  , ⟨0x4100, 256, 0x06, 1, "KEY_LOAD", .blob, .x, 1668, []⟩
  , ⟨0x4100, 256, 0x07, 1, "KEY_ERASE", .u16, .x, 2, []⟩
  , ⟨0x4100, 256, 0x08, 1, "TEARDOWN", .bool, .x, 1, []⟩
  , ⟨0x4100, 256, 0x10, 1, "ALLOC_ADD", .blob, .x, 32, []⟩
  , ⟨0x4100, 256, 0x11, 1, "ALLOC_FREE", .u16, .x, 2, []⟩
  , ⟨0x4100, 256, 0x12, 1, "ALLOC_LIST", .blob, .r, 0, []⟩
  , ⟨0x4100, 256, 0x20, 4, "BUCKET_RATE", .u32, .rw, 4, natBytes 4 0⟩
  , ⟨0x4100, 256, 0x24, 4, "BUCKET_BURST", .u32, .rw, 4, natBytes 4 64⟩
  , ⟨0x9600, 256, 0x01, 4, "BUCKET_WAIT", .u64, .r, 8, natBytes 8 0⟩
  , ⟨0xC000, 1, 0x01, 1, "ATTEST_PK", .blob, .r, 0, attestPk⟩
  , ⟨0xC000, 1, 0x02, 1, "ATTEST_CERT", .blob, .r, 0, Config.attestCert⟩
  , ⟨0xC000, 1, 0x03, 1, "TRANSPORT_EK", .blob, .r, 0, []⟩ ]

/-- The objects of R323, R324. -/
def catalogue13 : List ObjEntry :=
  [ ⟨0x7100, 6, 0x01, 1, "LINK_STATE", .enum, .r, 1, natBytes 1 0⟩
  , ⟨0x7100, 6, 0x02, 1, "LINK_ENABLE", .bool, .rw, 1, natBytes 1 1⟩
  , ⟨0x7100, 6, 0x03, 1, "RETRAIN", .bool, .x, 1, []⟩
  , ⟨0x7100, 6, 0x04, 1, "TX_EPOCH", .u8, .r, 1, natBytes 1 0⟩
  , ⟨0x7100, 6, 0x05, 1, "RX_EPOCH", .u8, .r, 1, natBytes 1 0⟩
  , ⟨0x7100, 6, 0x06, 1, "PARTNER", .bits32, .r, 4, natBytes 4 16777215⟩
  , ⟨0x7100, 6, 0x07, 1, "DOWN_CAUSE", .enum, .r, 1, natBytes 1 0⟩
  , ⟨0x7100, 6, 0x08, 1, "LINK_TIMEOUT", .u32, .r, 4, natBytes 4 64⟩
  , ⟨0x7100, 6, 0x09, 1, "RESP_TIMEOUT", .u32, .rw, 4, natBytes 4 1000⟩
  , ⟨0x7100, 6, 0x0A, 1, "FULL_TRAIN", .bool, .rw, 1, natBytes 1 0⟩
  , ⟨0x9700, 6, 0x01, 1, "PKTS_TX", .u64, .r, 8, natBytes 8 0⟩
  , ⟨0x9700, 6, 0x02, 1, "PKTS_RX", .u64, .r, 8, natBytes 8 0⟩
  , ⟨0x9700, 6, 0x03, 1, "FEC_CORRECTED", .u64, .r, 8, natBytes 8 0⟩
  , ⟨0x9700, 6, 0x04, 1, "FEC_UNCORR", .u64, .r, 8, natBytes 8 0⟩
  , ⟨0x9700, 6, 0x05, 1, "CRC_ERRORS", .u64, .r, 8, natBytes 8 0⟩
  , ⟨0x9700, 6, 0x06, 1, "FRAMING", .u64, .r, 8, natBytes 8 0⟩
  , ⟨0x9700, 6, 0x07, 1, "NACKS_TX", .u64, .r, 8, natBytes 8 0⟩
  , ⟨0x9700, 6, 0x08, 1, "RETRANSMITS", .u64, .r, 8, natBytes 8 0⟩
  , ⟨0x9700, 6, 0x09, 1, "DUPLICATES", .u64, .r, 8, natBytes 8 0⟩
  , ⟨0x9700, 6, 0x0A, 1, "SEQ_VIOLATION", .u64, .r, 8, natBytes 8 0⟩
  , ⟨0x9700, 6, 0x0B, 1, "DROP_EPOCH", .u64, .r, 8, natBytes 8 0⟩
  , ⟨0x9700, 6, 0x0C, 1, "DROP_TYPE", .u64, .r, 8, natBytes 8 0⟩
  , ⟨0x9700, 6, 0x0D, 1, "DROP_OVERSIZE", .u64, .r, 8, natBytes 8 0⟩
  , ⟨0x9700, 6, 0x0E, 1, "DROP_JOB", .u64, .r, 8, natBytes 8 0⟩
  , ⟨0x9700, 6, 0x0F, 1, "WINDOW_STALL", .u64, .r, 8, natBytes 8 0⟩
  , ⟨0x9700, 6, 0x10, 1, "LINK_DOWNS", .u64, .r, 8, natBytes 8 0⟩
  , ⟨0x9700, 6, 0x11, 1, "DROPPED_DOWN", .u64, .r, 8, natBytes 8 0⟩
  , ⟨0x9700, 6, 0x12, 1, "SYNTH_COMPLETIONS", .u64, .r, 8, natBytes 8 0⟩
  , ⟨0x9700, 6, 0x13, 1, "STALE_RESPONSES", .u64, .r, 8, natBytes 8 0⟩ ]

/-- The objects of R356, R357. -/
def catalogue14 : List ObjEntry :=
  [ ⟨0x7000, 1, 0x01, 1, "ENDPOINT", .u16, .rw, 2, natBytes 2 65535⟩
  , ⟨0x7000, 1, 0x02, 1, "COORD", .bits32, .rw, 4, natBytes 4 0⟩
  , ⟨0x7000, 1, 0x03, 1, "TORUS_DIMS", .bits32, .rw, 4, natBytes 4 0⟩
  , ⟨0x7000, 1, 0x04, 1, "ROUTE_TABLE", .blob, .rw, 262144, zeros 262144⟩
  , ⟨0x7000, 1, 0x05, 1, "FABRIC_DIGEST", .digest512, .r, 64, zeros 64⟩
  , ⟨0x7200, 64, 0x01, 1, "JOB_STATE", .enum, .r, 1, natBytes 1 0⟩
  , ⟨0x7200, 64, 0x02, 1, "JOB_TAG", .u16, .rw, 2, natBytes 2 0⟩
  , ⟨0x7200, 64, 0x03, 1, "PARTITION", .u8, .rw, 1, natBytes 1 255⟩
  , ⟨0x7200, 64, 0x04, 1, "BOX", .blob, .rw, 8, zeros 8⟩
  , ⟨0x7200, 64, 0x05, 1, "SETUP_DIGEST", .digest512, .rw, 64, zeros 64⟩
  , ⟨0x7200, 64, 0x06, 1, "OPEN", .bool, .x, 1, []⟩
  , ⟨0x7200, 64, 0x07, 1, "CLOSE", .bool, .x, 1, []⟩
  , ⟨0x7200, 64, 0x08, 1, "RELEASE_MARGIN", .u32, .rw, 4, natBytes 4 0⟩
  , ⟨0x7200, 64, 0x09, 1, "BARRIER_TIMEOUT", .u32, .rw, 4, natBytes 4 100000⟩
  , ⟨0x9800, 1, 0x01, 1, "ROUTED", .u64, .r, 8, natBytes 8 0⟩
  , ⟨0x9800, 1, 0x02, 1, "DROP_BOLLARD", .u64, .r, 8, natBytes 8 0⟩
  , ⟨0x9800, 1, 0x03, 1, "DROP_JOB", .u64, .r, 8, natBytes 8 0⟩
  , ⟨0x9800, 1, 0x04, 1, "ROUTE_ERR", .u64, .r, 8, natBytes 8 0⟩
  , ⟨0x9800, 1, 0x05, 1, "AGED", .u64, .r, 8, natBytes 8 0⟩
  , ⟨0x9800, 1, 0x06, 1, "RX_IDLE", .u64, .r, 8, natBytes 8 0⟩
  , ⟨0x9800, 1, 0x07, 1, "STALE_STEP", .u64, .r, 8, natBytes 8 0⟩
  , ⟨0x9800, 1, 0x08, 1, "RX_REFUSED", .u64, .r, 8, natBytes 8 0⟩
  , ⟨0x9800, 1, 0x09, 1, "SVC_BACKPRESSURE", .u64, .r, 8, natBytes 8 0⟩
  , ⟨0x9800, 1, 0x0A, 1, "BARRIER_LATE", .u64, .r, 8, natBytes 8 0⟩
  , ⟨0x9800, 1, 0x0B, 1, "COLL_PACKETS", .u64, .r, 8, natBytes 8 0⟩ ]

/-- The objects of R375, R376. -/
def catalogue15 : List ObjEntry :=
  [ ⟨0x3000, 1, 0x01, 1, "TOWN_TIME", .u64, .r, 8, zeros 8⟩
  , ⟨0x3000, 1, 0x02, 1, "TIME_STATE", .enum, .r, 1, natBytes 1 0⟩
  , ⟨0x3000, 1, 0x03, 1, "TIME_PARENT", .u8, .rw, 1, natBytes 1 255⟩
  , ⟨0x3000, 1, 0x04, 1, "HOLDOVER_LIMIT", .u32, .rw, 4, natBytes 4 500⟩
  , ⟨0x3000, 1, 0x05, 1, "FREQ_ADJ", .s32, .r, 4, natBytes 4 0⟩
  , ⟨0x3000, 1, 0x06, 1, "UTC_SET", .u64, .x, 8, []⟩
  , ⟨0x3000, 1, 0x07, 1, "UTC_NOW", .u64, .r, 8, natBytes 8 0⟩
  , ⟨0x3000, 1, 0x08, 1, "BUILDING_VALID", .bool, .r, 1, natBytes 1 0⟩
  , ⟨0x3010, 16, 0x01, 1, "OSC_SETTING", .u8, .r, 1, natBytes 1 0⟩
  , ⟨0x3100, 6, 0x01, 1, "ASYM_CORR", .s16, .rw, 2, natBytes 2 0⟩
  , ⟨0x3100, 6, 0x02, 1, "PORT_OFFSET", .s64, .r, 8, natBytes 8 0⟩
  , ⟨0x9900, 16, 0x01, 1, "DROOP_EVENTS", .u64, .r, 8, natBytes 8 0⟩
  , ⟨0x9900, 16, 0x02, 1, "SLOW_CYCLES", .u64, .r, 8, natBytes 8 0⟩
  , ⟨0x9A00, 1, 0x01, 1, "TIME_STEPS", .u64, .r, 8, natBytes 8 0⟩
  , ⟨0x9A00, 1, 0x02, 1, "TIME_REJECTS", .u64, .r, 8, natBytes 8 0⟩
  , ⟨0x9A00, 1, 0x03, 1, "HOLDOVERS", .u64, .r, 8, natBytes 8 0⟩
  , ⟨0x9A00, 1, 0x04, 1, "TIME_HOLDS", .u64, .r, 8, natBytes 8 0⟩
  , ⟨0x9A00, 1, 0x05, 1, "DEADLINES_IGNORED", .u64, .r, 8, natBytes 8 0⟩ ]

/-- The objects of R387, R397. -/
def catalogue16 : List ObjEntry :=
  [ ⟨0x4000, 64, 0x0C, 1, "REPLAY_PROTECTED", .bool, .rwb, 1, natBytes 1 0⟩
  , ⟨0x4000, 64, 0x0E, 1, "MIRROR_PARTNER", .bits32, .rwb, 4, natBytes 4 65535⟩
  , ⟨0x4000, 64, 0x0F, 1, "SPARE_PARTITION", .u8, .rwb, 1, natBytes 1 255⟩
  , ⟨0x4000, 64, 0x12, 1, "CKPT_LIST_0", .blob, .rwb, 0, []⟩
  , ⟨0x4000, 64, 0x13, 1, "CKPT_LIST_1", .blob, .rwb, 0, []⟩
  , ⟨0x4000, 64, 0x14, 1, "MIRROR_FOR", .bits32, .rwb, 4, natBytes 4 65535⟩
  , ⟨0x4000, 64, 0x15, 1, "MIRROR_AREA", .blob, .rwb, 16, zeros 16⟩
  , ⟨0x4000, 64, 0x16, 1, "SPARE_FOR", .u8, .rwb, 1, natBytes 1 255⟩
  , ⟨0x4000, 64, 0x17, 1, "FAULT_REPORT", .blob, .r, 0, zeros 64⟩
  , ⟨0x4000, 64, 0x1C, 1, "SPARE_READY", .bool, .r, 1, natBytes 1 0⟩
  , ⟨0x7200, 64, 0x0A, 1, "REPLAY", .bool, .rw, 1, natBytes 1 0⟩
  , ⟨0x9B00, 1, 0x01, 1, "NOTICES_ORIGINATED", .u64, .r, 8, natBytes 8 0⟩
  , ⟨0x9B00, 1, 0x02, 1, "NOTICES_FORWARDED", .u64, .r, 8, natBytes 8 0⟩
  , ⟨0x9B00, 1, 0x03, 1, "EPISODES", .u64, .r, 8, natBytes 8 0⟩
  , ⟨0x9B00, 1, 0x04, 1, "REPLAYS", .u64, .r, 8, natBytes 8 0⟩
  , ⟨0x9B00, 1, 0x05, 1, "RESTARTS", .u64, .r, 8, natBytes 8 0⟩
  , ⟨0x9B00, 1, 0x06, 1, "EXTRA_ROUNDS", .u64, .r, 8, natBytes 8 0⟩
  , ⟨0x9B00, 1, 0x07, 1, "SPARES_USED", .u64, .r, 8, natBytes 8 0⟩
  , ⟨0x9100, 64, 0x13, 1, "CKPT_WAIT", .u64, .r, 8, natBytes 8 0⟩ ]

/-- The objects of R423, R424. -/
def catalogue17 : List ObjEntry :=
  [ ⟨0x6000, 1, 0x1A, 2, "HOST_BASE", .u64, .rw, 8, natBytes 8 0⟩
  , ⟨0x8000, 2, 0x01, 1, "PCIE_STATE", .enum, .r, 1, natBytes 1 0⟩
  , ⟨0x8000, 2, 0x02, 1, "PCIE_RATE", .u8, .r, 1, natBytes 1 0⟩
  , ⟨0x8000, 2, 0x03, 1, "PCIE_WIDTH", .u8, .r, 1, natBytes 1 0⟩
  , ⟨0x8000, 2, 0x04, 1, "VFS_ENABLED", .u16, .r, 2, natBytes 2 0⟩
  , ⟨0x8020, 4, 0x01, 1, "CXL_STATE", .enum, .r, 1, natBytes 1 0⟩
  , ⟨0x8020, 4, 0x02, 1, "CXL_CAPACITY", .u64, .r, 8, natBytes 8 0⟩
  , ⟨0x8020, 4, 0x03, 1, "CXL_DEVICE", .bits32, .r, 4, natBytes 4 0⟩
  , ⟨0x8040, 2, 0x01, 1, "ETH_STATE", .enum, .r, 1, natBytes 1 0⟩
  , ⟨0x8040, 1, 0x02, 1, "ETH_MAC", .u64, .rw, 8, natBytes 8 (Config.ethMac 0).toNat⟩
  , ⟨0x8041, 1, 0x02, 1, "ETH_MAC", .u64, .rw, 8, natBytes 8 (Config.ethMac 1).toNat⟩
  , ⟨0x8040, 2, 0x03, 1, "ETH_IP", .blob, .rw, 16, zeros 16⟩
  , ⟨0x8040, 2, 0x04, 1, "ETH_VLAN", .u16, .rw, 2, natBytes 2 65535⟩
  , ⟨0x8040, 2, 0x05, 1, "ETH_PFC", .u8, .rw, 1, natBytes 1 255⟩
  , ⟨0x8100, 1, 0x01, 1, "FETCH_MANIFEST", .blob, .rw, 0, []⟩
  , ⟨0x8100, 1, 0x02, 1, "FETCH_START", .bool, .x, 1, []⟩
  , ⟨0x8100, 1, 0x03, 1, "FETCH_STATUS", .blob, .r, 0, []⟩
  , ⟨0x8400, 1024, 0x01, 1, "QP_STATE", .enum, .rw, 1, natBytes 1 0⟩
  , ⟨0x8400, 1024, 0x02, 1, "QP_CONFIG", .blob, .rw, 64, zeros 64⟩
  , ⟨0x8400, 1024, 0x03, 1, "QP_ERROR", .u8, .r, 1, natBytes 1 0⟩
  , ⟨0x9C00, 2, 0x01, 1, "PCIE_CORR", .u64, .r, 8, natBytes 8 0⟩
  , ⟨0x9C00, 2, 0x02, 1, "PCIE_NONFATAL", .u64, .r, 8, natBytes 8 0⟩
  , ⟨0x9C00, 2, 0x03, 1, "PCIE_CPL_ERR", .u64, .r, 8, natBytes 8 0⟩
  , ⟨0x9C00, 2, 0x04, 1, "PCIE_POISON", .u64, .r, 8, natBytes 8 0⟩
  , ⟨0x9C00, 2, 0x05, 1, "BAR_MISUSE", .u64, .r, 8, natBytes 8 0⟩
  , ⟨0x9C00, 2, 0x06, 1, "PCIE_SLOW", .u64, .r, 8, natBytes 8 0⟩
  , ⟨0x9C10, 4, 0x01, 1, "CXL_POISON", .u64, .r, 8, natBytes 8 0⟩
  , ⟨0x9C10, 4, 0x02, 1, "CXL_FAULTS", .u64, .r, 8, natBytes 8 0⟩
  , ⟨0x9C20, 2, 0x01, 1, "RX_DROPPED", .u64, .r, 8, natBytes 8 0⟩
  , ⟨0x9C20, 2, 0x02, 1, "QP_ERRORS", .u64, .r, 8, natBytes 8 0⟩
  , ⟨0x9C20, 2, 0x03, 1, "CNP_SENT", .u64, .r, 8, natBytes 8 0⟩
  , ⟨0x9C20, 2, 0x04, 1, "FETCH_BYTES", .u64, .r, 8, natBytes 8 0⟩
  , ⟨0x9C20, 2, 0x05, 1, "FETCH_FAILED", .u64, .r, 8, natBytes 8 0⟩ ]

/-- The objects of R444, R445. -/
def catalogue18 : List ObjEntry :=
  [ ⟨0xC000, 1, 0x04, 1, "OPERATOR_PK", .blob, .rw, 2592, []⟩
  , ⟨0xC000, 1, 0x05, 1, "FABRIC_PK", .blob, .rw, 2592, []⟩
  , ⟨0xC000, 1, 0x06, 1, "LINK_KEY", .blob, .w, 32, []⟩
  , ⟨0xC000, 1, 0x07, 1, "VENDOR_PK", .blob, .r, 0, []⟩
  , ⟨0xC020, 1, 0x01, 1, "SESSION_OPEN", .bool, .x, 1, []⟩
  , ⟨0xC020, 1, 0x02, 1, "OPEN_REQ", .blob, .w, 0, []⟩
  , ⟨0xC020, 1, 0x03, 1, "SESSION_CLOSE", .bool, .x, 1, []⟩
  , ⟨0xC020, 1, 0x04, 1, "SUBSCRIBE", .bits32, .rw, 4, natBytes 4 0⟩
  , ⟨0xC020, 1, 0x05, 1, "RELAY", .blob, .x, 0, []⟩
  , ⟨0x8080, 1, 0x01, 1, "MGMT_MAC", .u64, .rw, 8, natBytes 8 Config.mgmtMac.toNat⟩
  , ⟨0x8080, 1, 0x02, 1, "MGMT_PLCA_ID", .u8, .rw, 1, [0#8]⟩
  , ⟨0x9D00, 1, 0x01, 1, "CDP_REQUESTS", .u64, .r, 8, natBytes 8 0⟩
  , ⟨0x9D00, 1, 0x02, 1, "CDP_MALFORMED", .u64, .r, 8, natBytes 8 0⟩
  , ⟨0x9D00, 1, 0x03, 1, "CDP_AUTH_FAIL", .u64, .r, 8, natBytes 8 0⟩
  , ⟨0x9D00, 1, 0x04, 1, "CDP_REFUSED", .u64, .r, 8, natBytes 8 0⟩
  , ⟨0x9D00, 1, 0x05, 1, "CDP_SESSIONS", .u64, .r, 8, natBytes 8 0⟩ ]

/-- The objects of R451, R453, R457. -/
def catalogue19 : List ObjEntry :=
  [ ⟨0x1000, 1, 0x01, 1, "PART_NUMBER", .str, .r, 0, ascii "AKN-C256-LQ"⟩
  , ⟨0x1000, 1, 0x02, 1, "STEPPING", .enum, .r, 1, [if Config.steppingB0 then 2#8 else 1#8]⟩
  , ⟨0x1000, 1, 0x03, 1, "DETERMINISM_CLASS", .u8, .r, 1, natBytes 1 1⟩
  , ⟨0x1000, 1, 0x04, 1, "SERIAL", .str, .r, 0, Config.serial⟩
  , ⟨0x1000, 1, 0x05, 1, "FUSE_MAP_DIGEST", .digest512, .r, 64, Config.fuseMapDigest⟩
  , ⟨0x1000, 1, 0x06, 1, "MEMBER_SHAPE", .bits32, .r, 4, natBytes 4 138412288⟩
  , ⟨0x1000, 1, 0x07, 1, "SUPPORTED_PROFILES", .bits32, .r, 4, natBytes 4 (if Config.steppingB0 then 3 else 1)⟩
  , ⟨0x1000, 1, 0x08, 1, "ALLOW_SLOWER", .bool, .rw, 1, natBytes 1 0⟩
  , ⟨0x1000, 1, 0x09, 1, "VENDOR_NAME", .str, .r, 0, ascii "Askinaun Microsystems"⟩
  , ⟨0x1000, 1, 0x0A, 1, "DICTIONARY_VERSION", .u16, .r, 2, natBytes 2 1⟩
  , ⟨0x9000, 1, 0x01, 1, "COUNTER_DIRECTORY", .blob, .r, 0, []⟩
  , ⟨0x9000, 1, 0x02, 1, "COUNTER_VIEW", .enum, .rw, 1, natBytes 1 0⟩
  , ⟨0x9000, 1, 0x03, 1, "SHADOW_TIME", .time64, .r, 8, natBytes 8 0⟩
  , ⟨0x9000, 1, 0x04, 1, "COUNTER_BITS", .u8, .r, 1, natBytes 1 48⟩
  , ⟨0xA000, 1, 0x01, 1, "LOG_FIRST", .u32, .r, 4, natBytes 4 0⟩
  , ⟨0xA000, 1, 0x02, 1, "LOG_NEXT", .u32, .r, 4, natBytes 4 0⟩
  , ⟨0xA000, 1, 0x03, 1, "LOG_SELECT", .u32, .rw, 4, natBytes 4 0⟩
  , ⟨0xA000, 1, 0x04, 1, "LOG_WINDOW", .blob, .r, 0, []⟩
  , ⟨0xA000, 1, 0x05, 1, "LOG_SUPPRESSED", .u64, .r, 8, natBytes 8 0⟩
  , ⟨0xA000, 1, 0x06, 1, "LOG_CLEAR", .bool, .x, 1, []⟩ ]

/-- The objects of R464, R477. -/
def catalogue20 : List ObjEntry :=
  [ ⟨0x2000, 1, 0x01, 1, "RESET_CAUSE", .bits32, .rw, 4, natBytes 4 1⟩
  , ⟨0x2000, 1, 0x02, 1, "START_KIND", .enum, .r, 1, natBytes 1 0⟩
  , ⟨0x2000, 1, 0x03, 1, "START_PHASE", .u8, .r, 1, natBytes 1 9⟩
  , ⟨0x2000, 1, 0x04, 1, "START_US", .u32, .r, 4, natBytes 4 0⟩
  , ⟨0x2000, 1, 0x05, 1, "STRAPS", .bits32, .r, 4, natBytes 4 0⟩
  , ⟨0x2010, 1, 0x01, 1, "BLOCK_RESET", .blob, .x, 32, []⟩
  , ⟨0x2010, 1, 0x02, 1, "BLOCK_RESET_BUSY", .blob, .r, 0, zeros 32⟩
  , ⟨0x2010, 1, 0x03, 1, "CORE_RESET", .bits32, .x, 4, []⟩
  , ⟨0x2100, 1, 0x01, 1, "SLOT_STATE", .bits32, .r, 4, natBytes 4 0⟩
  , ⟨0x2100, 1, 0x02, 1, "RUNNING_VERSION", .u32, .r, 4, natBytes 4 0⟩
  , ⟨0x2100, 1, 0x03, 1, "PENDING_SLOT", .u8, .rw, 1, natBytes 1 255⟩
  , ⟨0x2100, 1, 0x04, 1, "ACTIVATE", .bool, .x, 1, []⟩
  , ⟨0x2100, 1, 0x05, 1, "RUNNING_DIGEST", .digest512, .r, 64, zeros 64⟩
  , ⟨0x2100, 1, 0x06, 1, "MIN_SVN", .u16, .r, 2, natBytes 2 Config.minSvn.toNat⟩
  , ⟨0x2100, 1, 0x10, 1, "SLOT_A_IMAGE", .blob, .w, 0, []⟩
  , ⟨0x2100, 1, 0x11, 1, "SLOT_B_IMAGE", .blob, .w, 0, []⟩
  , ⟨0x2200, 1, 0x01, 1, "OPTION_BLOCK", .blob, .rw, 0, []⟩
  , ⟨0x2300, 1, 0x01, 1, "PERSIST", .blob, .x, 0, []⟩
  , ⟨0x2300, 1, 0x02, 1, "UNPERSIST", .blob, .x, 0, []⟩
  , ⟨0x2300, 1, 0x03, 1, "STORE_LIST", .blob, .r, 0, []⟩
  , ⟨0x2300, 1, 0x04, 1, "CLEAR_RETIRED", .blob, .x, 32, []⟩ ]

/-- The objects of R490, R492, R498. -/
def catalogue21 : List ObjEntry :=
  [ ⟨0xB100, 1, 0x01, 1, "FREEZE", .bool, .x, 1, []⟩
  , ⟨0xB100, 1, 0x02, 1, "FREEZE_AT", .time64, .x, 8, []⟩
  , ⟨0xB100, 1, 0x03, 1, "UNFREEZE", .bool, .x, 1, []⟩
  , ⟨0xB100, 1, 0x04, 1, "FREEZE_STATE", .enum, .r, 1, natBytes 1 0⟩
  , ⟨0xB100, 1, 0x05, 1, "FREEZE_CAUSE", .enum, .r, 1, natBytes 1 0⟩
  , ⟨0xB100, 1, 0x06, 1, "FREEZE_TIME", .time64, .r, 8, natBytes 8 0⟩
  , ⟨0xB100, 1, 0x07, 1, "DEBUG_ENABLE", .bool, .rw, 1, natBytes 1 0⟩
  , ⟨0x9F00, 1, 0x01, 1, "SNAPSHOT", .time64, .x, 8, []⟩
  , ⟨0x9F00, 1, 0x02, 1, "SNAPSHOT_STATE", .enum, .r, 1, natBytes 1 0⟩
  , ⟨0xB000, 1, 0x01, 1, "SWEEP_ENABLE", .bool, .rw, 1, natBytes 1 1⟩
  , ⟨0xB000, 1, 0x02, 1, "SLICE_INTERVAL", .u32, .rw, 4, natBytes 4 1000⟩
  , ⟨0xB000, 1, 0x03, 1, "SWEEP_TARGET", .u32, .rw, 4, natBytes 4 21600⟩
  , ⟨0xB000, 1, 0x04, 1, "PASS_AGE", .blob, .r, 0, List.replicate 1024 0xFF#8⟩
  , ⟨0x9E00, 1, 0x01, 1, "SLICES", .u64, .r, 8, natBytes 8 0⟩
  , ⟨0x9E00, 1, 0x02, 1, "SLICES_ABANDONED", .u64, .r, 8, natBytes 8 0⟩
  , ⟨0x9E00, 1, 0x03, 1, "WINDOWS_RETRIED", .u64, .r, 8, natBytes 8 0⟩
  , ⟨0x9E00, 1, 0x04, 1, "SLICE_FAILURES", .u64, .r, 8, natBytes 8 0⟩
  , ⟨0x9E00, 1, 0x05, 1, "PASSES", .u64, .r, 8, natBytes 8 0⟩
  , ⟨0x9E00, 1, 0x06, 1, "PASS_LATE", .u64, .r, 8, natBytes 8 0⟩
  , ⟨0x9E10, 1, 0x01, 1, "FREEZES", .u64, .r, 8, natBytes 8 0⟩
  , ⟨0x9E10, 1, 0x02, 1, "FROZEN_US", .u64, .r, 8, natBytes 8 0⟩ ]

/-- The objects of R512, R513. -/
def catalogue22 : List ObjEntry :=
  [ ⟨0x3200, 1, 0x01, 1, "POWER_STATE", .enum, .r, 1, natBytes 1 0⟩
  , ⟨0x3200, 1, 0x02, 1, "PARK", .bool, .x, 1, []⟩
  , ⟨0x3200, 1, 0x03, 1, "WAKE", .bool, .x, 1, []⟩
  , ⟨0x3200, 1, 0x04, 1, "POWER_LIMIT", .u16, .rw, 2, natBytes 2 2400⟩
  , ⟨0x3200, 1, 0x05, 1, "PACKAGE_POWER", .u16, .r, 2, natBytes 2 0⟩
  , ⟨0x3200, 1, 0x06, 1, "CLOCK_FLOOR", .u8, .r, 1, natBytes 1 0⟩
  , ⟨0x3210, 16, 0x01, 1, "DISTRICT_TEMP", .s16, .r, 2, natBytes 2 0⟩
  , ⟨0x3220, 8, 0x01, 1, "STACK_TEMP", .s16, .r, 2, natBytes 2 0⟩
  , ⟨0x3230, 1, 0x01, 1, "THERMAL_STATUS", .bits32, .r, 4, natBytes 4 0⟩
  , ⟨0x3300, 7, 0x01, 1, "RAIL_MV", .u16, .r, 2, natBytes 2 0⟩
  , ⟨0x3300, 1, 0x02, 1, "AVS_TARGET", .u16, .r, 2, natBytes 2 750⟩
  , ⟨0x9E20, 1, 0x01, 1, "THROTTLE_US", .u64, .r, 8, natBytes 8 0⟩
  , ⟨0x9E20, 1, 0x02, 1, "LIMIT_US", .u64, .r, 8, natBytes 8 0⟩
  , ⟨0x9E20, 1, 0x03, 1, "RAIL_FAULTS", .u64, .r, 8, natBytes 8 0⟩
  , ⟨0x9E20, 1, 0x04, 1, "PARK_ENTRIES", .u64, .r, 8, natBytes 8 0⟩ ]

/-- Every object of the dictionary outside the vendor range, with the state of the key-table entries (R279); index 0xC020 names the session objects,
and reading 0xC020:01 in a session gives the state of key 16 (DEDUCED, log 36). -/
def catalogue : List ObjEntry :=
  catalogue01 ++ catalogue02 ++ catalogue06 ++ catalogue07 ++ catalogue08 ++ catalogue09 ++ catalogue10 ++ catalogue11 ++ catalogue12 ++ catalogue13 ++ catalogue14 ++ catalogue15 ++ catalogue16 ++ catalogue17 ++ catalogue18 ++ catalogue19 ++ catalogue20 ++ catalogue21 ++ catalogue22 ++
  [⟨0xC011, 4095, 0x01, 1, "KEY_STATE", .bits32, .r, 4, natBytes 4 0⟩]

/-- The entry of an index and subindex. -/
def objFind (index sub : Nat) : Option ObjEntry :=
  catalogue.find? (fun e => decide (e.base ≤ index ∧ index < e.base + e.count ∧ e.sub ≤ sub ∧ sub < e.sub + e.subs))

end Sys2Proof.Machine
end

