-- ==== Sys2Proof/Machine/Table.lean ====
section
/-! DEFINITION. Finite tables keyed by a number, kept sorted by key: sparse data as plain data. -/
namespace Sys2Proof.Machine

/-- A finite table: pairs of key and value, keys strictly rising. -/
abbrev Table (α : Type) := List (Nat × α)

/-- The value listed under a key. -/
def Table.find? {α : Type} : Table α → Nat → Option α
  | [], _ => none
  | (k, v) :: t, i => if i = k then some v else Table.find? t i

/-- The value under a key, or a default where none is listed. -/
def Table.get {α : Type} (d : α) (t : Table α) (i : Nat) : α := (t.find? i).getD d

/-- The table with a value placed under a key, in its place. -/
def Table.put {α : Type} : Table α → Nat → α → Table α
  | [], i, v => [(i, v)]
  | (k, w) :: t, i, v =>
    if i = k then (i, v) :: t
    else if i < k then (i, v) :: (k, w) :: t
    else (k, w) :: Table.put t i v

/-- The table without the entry of a key. -/
def Table.del {α : Type} : Table α → Nat → Table α
  | [], _ => []
  | (k, w) :: t, i => if i = k then t else (k, w) :: Table.del t i

/-- Every key is above `lo` and the keys strictly rise. -/
def Table.above {α : Type} : Nat → Table α → Bool
  | _, [] => true
  | lo, (k, _) :: t => decide (lo ≤ k) && Table.above (k + 1) t

/-- The keys strictly rise. -/
def Table.sorted {α : Type} (t : Table α) : Bool := Table.above 0 t

/-- The values of a table, in key order. -/
def Table.values {α : Type} (t : Table α) : List α := t.map Prod.snd

/-- The keys of a table, in order. -/
def Table.keys {α : Type} (t : Table α) : List Nat := t.map Prod.fst

/-- Apply a function to every value. -/
def Table.mapVals {α β : Type} (f : Nat → α → β) (t : Table α) : Table β := t.map (fun e => (e.1, f e.1 e.2))

end Sys2Proof.Machine
end

