-- ==== Sys2Proof/Machine/State.lean ====
section
/-! DEFINITION. The state of the part: everything the spec gives it, as plain data, with the queue of waiting commands;
the ways a command can stop; and the state after reset. Default field values are the reset values (INVENTORY.md, State). -/
namespace Sys2Proof.Machine

/-- Why a command stops the model. -/
inductive Fault where
  /-- Raised by no command: with operands that no event of the part has (WellFormed.lean), a command goes on too (DESIGN CHOICE, log 14). Safe: nothing is
  claimed of it. -/
  | illFormed (mnemonic : String)
deriving DecidableEq, Repr

/-- Why a command has no meaning here. -/
inductive Refusal where
  /-- Raised by an arm of exec whose command has no meaning yet, and there is none. Safe: nothing is claimed of it. -/
  | notModelled (mnemonic : String)
deriving DecidableEq, Repr

/-- The status codes of R137, in the order of its table, which is the cause order of R124 after BOUNDS. -/
inductive Status where
  | ok | badCrc | malformed | rights | bounds | anchorMismatch | accOverflow | uncorrectable | unwritten
  | flagTwice | flagUndeclared | gridlock | segment | stepOrder | plan | profile | fault | stepFailed
deriving DecidableEq, Repr

/-- What leaves the part, as the model records it, newest first. -/
inductive Output where
  /-- A completion record of 128 bytes, written to a slot of a function's completion ring (R137). -/
  | completion (f : FnId) (slot : Nat) (bytes : List Byte)
  /-- A posted write to host memory: the data of a DMA_OUT at a host address (R408). -/
  | hostWrite (address : Nat) (words : List Word)
  /-- An MSI-X message of a function (R134, R401). -/
  | msix (f : FnId) (vector : Nat)
  /-- Read data returned to the host over PCIe (R402, R405). -/
  | readData (bytes : List Byte)
  /-- A read answered to the host with Completer Abort (R405). -/
  | abort
  /-- A packet sent by an avenue port (R299). -/
  | packet (port : Nat) (bytes : List Byte)
  /-- A dictionary reply or message sent by the management port to an Ethernet address (R428). -/
  | frame (mac : Nat) (bytes : List Byte)
  /-- A dictionary reply or NOTIFY placed in a function's mailbox (R427). -/
  | mailbox (f : FnId) (bytes : List Byte)
  /-- A RoCE packet sent by a storage port (R419): queue pair, sequence number, kind, bytes. -/
  | roce (qp : Nat) (psn : Nat) (kind : Nat) (bytes : List Byte)
  /-- The level of a land (R508). -/
  | land (name : String) (level : Bool)
  /-- A voltage commanded over AVSBus, in millivolts (R501). -/
  | avs (rail : Nat) (millivolts : Nat)
  /-- Bits shifted out of a JTAG data register, first bit first (R485, R486). -/
  | scan (bits : List Bool)
  /-- A write of a firmware card, or a command to it (R473, R477). -/
  | cardWrite (what : String)
deriving DecidableEq, Repr

/-- What the part as a whole is doing (R461, R466, R476, R481, R504). -/
inductive PartMode where
  | off | starting | recovery | running | frozen | parked
deriving DecidableEq, Repr

/-! ## Memory -/

/-- The stored words of the 56-bit device physical address space (R177), by word address DPA[55:5]: the words listed,
and the sorted disjoint ranges (first, count) that clearing has written (R214). -/
structure Memory where
  cells   : Table Stored := []
  cleared : List (Nat × Nat) := []
deriving DecidableEq, Repr

/-! ## Districts and time -/

/-- A district: its clock, its channel-slot counter and its copy of town time (R24, R359, R363); and of each of its outgoing channels and each partition
(64 × neighbour + partition), the wall cycle of the slot that the partition filled last, and how many words went in it (R24). -/
structure District where
  setting     : Nat := 0
  recover     : Nat := 0
  phase       : Nat := 0
  cycles      : Nat := 0
  slotCounter : Nat := 0
  copy        : Nat := 0
  roads       : Table (Nat × Nat) := []
deriving DecidableEq, Repr

/-- The time states (R369). -/
inductive TimeMode where
  | free | root | acquiring | locked | holdover
deriving DecidableEq, Repr

/-- The central time unit (R361 to R375). Times are in units of 2^-32 tick where named `central`. -/
structure TimeUnit where
  central     : Nat := 0
  refPhase    : Nat := 0
  slewLeft    : Int := 0
  adjust      : Int := 0
  utc         : Option (Nat × Int) := none
  mode        : TimeMode := .free
  acqRun      : Nat := 0
  offRun      : Nat := 0
  lastRecord  : Nat := 0
  lastOffset  : Int := 0
  holdSince   : Nat := 0
  stepDue     : Option Int := none
  lastPulse   : Nat := 0
deriving DecidableEq, Repr

/-! ## Blocks -/

/-- A long-accumulator entry (R38): the 128-bit accumulator value, the wide-exponent part and the sticky state bits. -/
structure AccEntry where
  acc  : Int := 0
  w    : Int := 0
  fovp : Bool := false
  fovn : Bool := false
  nan  : Bool := false
  infp : Bool := false
  infn : Bool := false
deriving DecidableEq, Repr

/-- A change visible later elsewhere: a ready tag or a flag (R116, R119): the value set last, with the wall cycle `at_` and the district `home` of
that change; the changes before it that some district may not see yet, newest first, each with its cycle; and the value before them all. -/
structure Mark where
  set    : Bool := true
  before : Bool := true
  older  : List (Bool × Nat) := []
  at_    : Nat := 0
  home   : Nat := 0
  writer : Nat := 0
deriving DecidableEq, Repr

/-- A long-accumulator bank (R38, R46): entries written, state word, ready tag (R74). A bank not started holds the fill (R213). -/
structure Bank where
  started : Bool := false
  anchor  : Int := 0
  loss    : Bool := false
  ksteps  : Nat := 0
  entries : Table AccEntry := []
  tag     : Mark := {}
deriving DecidableEq, Repr

/-- A word on its way into a block: where, what, when due, the operation it belongs to, and whether it comes over the district mesh or from the
block's own decompressor (R20, R26, R203). -/
structure Delivery where
  addr    : Nat
  word    : Stored
  due     : Nat
  source  : Nat
  index   : Nat
  opBlock : Nat
  opId    : Nat
  mesh    : Bool := true
deriving DecidableEq, Repr

/-- What a WSTREAM has read and expanded so far (R202, R203): the words read, by offset in the source buffer; how many were asked
for and how many came; the stage (0 header asked for, 1 tables and directory, 2 blocks); the next block to expand; the wall cycle
of the last raw word; how many words are still to be written; and whether the word after those asked for lies beyond the source buffer. -/
structure StreamState where
  words   : Table Word := []
  asked   : Nat := 0
  come    : Nat := 0
  stage   : Nat := 0
  next    : Nat := 0
  lastRaw : Nat := 0
  left    : Nat := 0
  beyond  : Bool := false
deriving DecidableEq, Repr

/-- What an operation in flight still does. -/
inductive Work where
  /-- Nothing beyond completing (NOP, NOTE, ACC_START). -/
  | plain
  /-- An MMA: the words staged of K-blocks not yet folded, oldest first, the words read so far of the K-block being read, how many K-blocks were
  staged, and how many folds were made (R69, R40, R71). -/
  | matrix (staged : List (List Word)) (part : List Word) (read done : Nat)
  /-- An ACC_LOAD: its element type and the words read so far (R72, R73). -/
  | load (wp64 : Bool) (part : List Word)
  /-- A vector operation: the words it writes at completion, and the summary record it posts (R102, R106). -/
  | vector (writes : List (Nat × Word)) (record : Option Word)
  /-- A transfer: words still to be written or sent (R195). -/
  | transfer (left : Nat)
  /-- A transfer that its port has returned: words still to be written through the landing port (R27, R195). -/
  | landing (left : Nat)
  /-- A weight stream (R202). -/
  | stream (state : StreamState)
  /-- A serving descriptor: the words written at completion (R237). -/
  | serving (writes : List (Nat × Word))
  /-- A collective of the part's engine, under the operation's own number (R351). -/
  | collective
  /-- A descriptor barrier joined, by its number in the step (R350). -/
  | barrier (seq : Nat)
deriving DecidableEq, Repr

/-- An operation in flight (R121): its number in issue order, queue, descriptor, the cycle of issue and the cycle of completion by its block's
clock (State.cyclesOf), what it still does, and the cycle before which its engine makes no access, since a bank delays it in a freeze (R17). -/
structure Op where
  id     : Nat
  queue  : Nat
  desc   : Desc
  start  : Nat
  doneAt : Nat
  work   : Work
  heldRecord : Bool := false
  late   : Bool := false
  stall  : Nat := 0
deriving DecidableEq, Repr

/-- A dispatcher queue of the current segment (R110, R120, R129): the descriptors left, how many of them the store holds,
whether the head's check has passed, and the logical cycle in which the one before it issued. -/
structure Queue where
  descs     : List Desc := []
  delivered : Nat := 0
  checked   : Bool := false
  prevIssue : Nat := 0
deriving DecidableEq, Repr

/-- A block (R15): its engines with their short accumulators (R59), dispatcher, equaliser, the words in the channels towards it, its landing buffer,
the banks that its plan writes and its other clients used in this cycle, repair queue and sweeper; the word that the scrubber has read and
writes in the next cycle (R215), with that cycle; and whether it leaves service at the next step boundary (R12). -/
structure Block where
  retired     : Bool := false
  retiring    : Bool := false
  primary     : Table Int := []
  shadow      : Table Int := []
  matrixFree  : Nat := 0
  matrixTau   : Nat := 0
  vectorFree  : Nat := 0
  moverFree   : Nat := 0
  bank0       : Bank := {}
  bank1       : Bank := {}
  queues      : Table Queue := []
  inflight    : List Op := []
  summaries   : List (Word × Nat) := []
  repair      : List Nat := []
  equaliser   : List Delivery := []
  arriving    : List Delivery := []
  landing     : List Delivery := []
  bankUse     : Table Nat := []
  bankOther   : List Nat := []
  reread      : Option (Nat × Nat) := none
  eqWrites    : Nat := 0
  clearUntil  : Nat := 0
  clearing    : Bool := false
  clearedBy   : Option Nat := none
  slice       : Option Nat := none
  sliceStep   : Nat := 0
  sliceSince  : Option Nat := none
  retried     : Bool := false
  passAt      : Nat := 0
  passLate    : Bool := false
deriving DecidableEq, Repr

/-! ## Partitions -/

/-- The step states of R132. -/
inductive StepState where
  | idle | waiting | running | done | fenced | held
deriving DecidableEq, Repr

/-- A step ticket accepted: the 64 bytes of its host descriptor, where it came from, whether it is a kerb ticket (R250), whether its
completion is to be discarded (R400), the plan slot, and the generation slot it runs under. -/
structure Ticket where
  desc : Desc
  src  : Src
  kerb : Bool := false
  dropped : Bool := false
  slot : Nat := 0
  gen  : Nat := 0
deriving DecidableEq, Repr

/-- The descriptors of one queue of one block in one segment, whether the stream is STREAMED, and how many of them the queue store holds (R129). -/
structure Stream where
  descs    : List Desc
  streamed : Bool := false
  held     : Nat := 0
deriving DecidableEq, Repr

/-- A segment of a plan (R127); streams by 4 × plan-relative block + queue. -/
structure Segment where
  entry   : Nat
  length  : Nat
  next    : Nat
  choices : List Nat
  fixed   : Nat
  streams : Table Stream
deriving DecidableEq, Repr

/-- A resident plan (R125 to R129): header fields, flag declarations, HBM calendar records (R183), avenue calendars (R333). -/
structure Plan where
  digest   : List Byte
  profile  : Nat
  blocks   : Nat
  segments : List Segment
  flags    : List (BitVec 16)
  hbm      : List (List Byte)
  avenue   : List (Nat × List Byte) := []
  unloading : Bool := false
  size     : Nat := 0
deriving DecidableEq, Repr

/-- The causes of a freeze, in the attribution order of R148 and R151. -/
inductive HoldCause where
  | flag | tag | bank | street | matrix | vector | mover | summary | inflight | queue | segment
deriving DecidableEq, Repr

/-- One cause holding a partition frozen: what it is, and the queue head it is about (block, queue). -/
structure Hold where
  cause : HoldCause
  block : Nat
  queue : Nat
deriving DecidableEq, Repr

/-- A freeze of a partition (R146, R148): its causes, the district cycle it began, its length so far, and for how long it has
been frozen on segment or summary waits alone (R174), and whether the one further cycle has passed (R120). -/
structure PartFreeze where
  holds : List Hold
  since : Nat
  lcycle : Nat
  length : Nat := 0
  waitLen : Nat := 0
  done    : Bool := false
deriving DecidableEq, Repr

/-- The reported failure of a step (R124, R137): cause, failing head, the wall cycle, the logical cycle and the cycle of the lead district of the
failure, its class (R377; 0 for a fence that a notice caused), whether it has been reported, the port of a LINK fault, and whether logical time
stood. -/
structure Failure where
  cause  : Status
  block  : Nat
  queue  : Nat
  opcode : Nat
  stamp  : Nat
  at_    : Nat
  lcycle : Nat
  cls    : Nat
  closed : Bool := false
  port   : Nat := 0xFF
  frozen : Bool := false
  leadAt : Nat := 0
deriving DecidableEq, Repr

/-- A waiting write of a read-write-at-boundary object (R431): key index × 256 + sub, and the bytes. -/
structure Waiting where
  key   : Nat
  bytes : List Byte
deriving DecidableEq, Repr

/-- The state of a choice routine (R163 to R166). -/
inductive RoutineMode where
  | idle | entering | running | suspended
deriving DecidableEq, Repr

/-- A choice routine's slot (R164, R165): mode, program counter, integer registers, the summary queue of R170, whether a step start waits for its entry, with that
step's number, its entry segment and the lead district's cycle at which it fell, the core cycles that the last instruction still takes, the present one among them (R159), and the
reservation of its load-reserved. -/
structure Routine where
  mode    : RoutineMode := .idle
  pc      : BitVec 64 := 0
  regs    : Table (BitVec 64) := []
  code    : List Byte := []
  mailbox : List Word := []
  started : Bool := false
  stepNo  : Nat := 0
  segment : Nat := 0
  since   : Nat := 0
  busy    : Nat := 0
  reserved : Option Nat := none
deriving DecidableEq, Repr

/-- What a partition's fault agent holds during an episode (R378 to R396): the notices known, in order of arrival; the town time of the
first; whether this part has decided as coordinator; the DECIDE accepted and when. -/
structure Episode where
  notices    : List Word := []
  since      : Option Nat := none
  decided    : Bool := false
  accepted   : Option (Word × Word) := none
  acceptedAt : Nat := 0
deriving DecidableEq, Repr

/-- Words that a mirror holds of a checkpoint (R389): handle, word offset within it, and how many, in the order stored. -/
abbrev Extent := Nat × Nat × Nat

/-- Bindings of a step: slot to request (R232). -/
abbrev Binding := Table Nat

/-- A partition (R269, R130 to R138, R117 to R119, R258). Its dictionary objects with values of their own are in `objects`. `clocks` are its
operations' clocks by district: they advance with the logical cycles, and in a freeze with the cycles of each district (R145, R146). `detected` is the
last period of the detector that has run (R153), `fetched` the descriptors that the prefetcher has read and not yet put in a queue (R129). -/
structure Part where
  partState  : Nat := 0
  blockMap   : BitVec 256 := 0
  owner      : Nat := 0
  exclusive  : Bool := false
  stepState  : StepState := .idle
  tickets    : List Ticket := []
  kerbTicket : Option Ticket := none
  running    : Option Ticket := none
  lastStep   : BitVec 64 := 0
  anyStep    : Bool := true
  stepCount  : Nat := 0
  plans      : Table Plan := []
  handles    : Table (BitVec 128) := []
  newHandles : List (Nat × BitVec 128) := []
  newObjects : List Waiting := []
  tags       : Table Mark := []
  flags      : Table Mark := []
  lcycle     : Nat := 0
  clocks     : Table Nat := []
  detected   : Nat := 0
  fetched    : Nat := 0
  segment    : Nat := 0
  segsIn     : Nat := 0
  path       : List Nat := []
  choice     : Option Nat := none
  ended      : Bool := false
  freeze     : Option PartFreeze := none
  extraBank  : Nat := 0
  extraStreet : Nat := 0
  charged    : Bool := false
  failure    : Option Failure := none
  slipAtStart : Nat := 0
  servingFree : Nat := 0
  joined     : Bool := false
  timeHeld   : Bool := false
  barriers   : Nat := 0
  startedAt  : Nat := 0
  runGen     : Nat := 0
  runKerb    : Bool := false
  gen0       : Nat := 1
  gen1       : Nat := 0
  lastGen    : Nat := 1
  binding    : Binding := []
  lastBinding0 : Binding := []
  lastBinding1 : Binding := []
  committed  : List (Nat × Nat) := []
  digested   : List Nat := []
  emitted    : List (Nat × Nat) := []
  nextIsKerb : Bool := false
  resolving  : Bool := false
  resolveBegan : Nat := 0
  frameRestart : Option Nat := none
  sinceSummary : Nat := 0
  switchTo   : Option Nat := none
  cutDrain   : Bool := false
  clearSlip  : Bool := false
  eraseKeys  : List Nat := []
  removeTenants : List Nat := []
  nonce      : Option (List Byte) := none
  quote      : List Byte := []
  measured   : List Byte := List.replicate 64 0#8
  channels   : List (Nat × Nat) := []
  routine    : Routine := {}
  episode    : Episode := {}
  outcome    : Nat := 0
  resumeStep : Nat := 0
  replay     : Option Ticket := none
  silent     : Bool := false
  replayed   : Bool := false
  lastTicket : Option Ticket := none
  exchange   : Bool := false
  restoring  : Bool := false
  takenOut   : Option Nat := none
  changedAt  : Nat := 0
  destroyWait : Bool := false
  ckptSent   : Bool := false
  ckptSealed : Bool := false
  ckptSince  : Nat := 0
  stepSealed : Bool := false
  mirror0    : List Extent := []
  mirror1    : List Extent := []
  mirrorBad  : Bool := false
  mirrorOpen : Bool := false
  stepDone   : Bool := false
  doneDesc   : Option Ticket := none
deriving DecidableEq, Repr

/-! ## Control cores -/

/-- A core (R158): firmware's integer registers, program counter, machine CSRs and PMP entries (configuration bytes and addresses), the core cycles that its last
instruction still takes, the instructions completed (R169) and the reservation of its load-reserved; instruction memory as firmware was loaded into it (a routine's slots hold the
routine's own image, R162), data memory, the post-completion queue 0x40, the internal intake (R172; each descriptor with the tenant it is judged by, none for
firmware), the watchdog (R175) and until when the core is down after a reset. -/
structure Core where
  regs     : Table (BitVec 64) := []
  pc       : BitVec 64 := 0
  ckpsel   : BitVec 64 := 0
  mie      : BitVec 64 := 0
  mip      : BitVec 64 := 0
  mtimecmp : BitVec 64 := 0
  mstatus  : BitVec 64 := 0
  mtvec    : BitVec 64 := 0
  mepc     : BitVec 64 := 0
  mcause   : BitVec 64 := 0
  mtval    : BitVec 64 := 0
  mscratch : BitVec 64 := 0
  pmpcfg   : Table (BitVec 8) := []
  pmpaddr  : Table (BitVec 64) := []
  busy     : Nat := 0
  retired  : Nat := 0
  reserved : Option Nat := none
  imem     : List Byte := []
  dmem     : Table Byte := []
  posts    : List (List Byte) := []
  intake   : List (Option Nat × Desc) := []
  current  : Option (Option Nat × Desc) := none
  moved    : Option (Nat × Status) := none
  wdogAt   : Nat := 0
  warned   : Bool := false
  downTo   : Nat := 0
deriving DecidableEq, Repr

/-! ## Tier 1 -/

/-- A unit presented to a pseudo-channel (R179, R185): its stream, the word addresses it covers, the words written (none for a
read), where each word read goes (block and word address; none for a WSTREAM, which keeps them), the operation it belongs to, the
wall cycle at which it is presented, the key index, whether a frame is behind it (R239), and whether it has been deferred (R186). -/
structure HbmUnit where
  stream   : Nat
  addr     : Nat
  count    : Nat
  write    : Option (List Word) := none
  dests    : List (Nat × Nat) := []
  opBlock  : Nat
  opId     : Nat
  present  : Nat
  key      : Nat := 0
  backed   : Bool := true
  deferred : Bool := false
deriving DecidableEq, Repr

/-- A pseudo-channel (R183 to R187): the record in force (empty: slots 0 to 239 unclaimed), the wall cycle in which its frames
began, how many slots have been served since, the plan units in the order presented, the service units waiting (word address of the
first, number left), the slot of the last access of each bank, and whether it is being cleared. -/
structure Channel where
  record    : List Byte := []
  frameAt   : Nat := 0
  served    : Nat := 0
  units     : List HbmUnit := []
  service   : List (Nat × Nat) := []
  bankSlot  : Table Nat := []
  clearTo   : Nat := 0
  clearing  : Bool := false
deriving DecidableEq, Repr

/-! ## Host functions and the dictionary -/

/-- A PCIe function's doorbell page and mailbox (R134, R135, R427): ring registers, the entry being processed, how many
completion slots are reserved, the records waiting for a slot, and the mailbox. -/
structure Fn where
  intakeBase : Nat := 0
  intakeCfg  : Nat := 6
  tail       : Nat := 0
  head       : Nat := 0
  complBase  : Nat := 0
  complCfg   : Nat := 6
  complHead  : Nat := 0
  written    : Nat := 0
  enable     : Bool := false
  irqArm     : Bool := false
  halted     : Bool := false
  overrun    : Bool := false
  current    : Option Desc := none
  moved      : Option (Nat × Status) := none
  reserved   : Nat := 0
  queued     : List (Bool × List Byte) := []
  resetDue   : Bool := false
  dropNext   : Bool := false
  req        : Table Byte := []
  resp       : List Byte := []
  notes      : List (List Byte) := []
  reqBusy    : Bool := false
  respReady  : Bool := false
  noteLost   : Bool := false
  mbOverrun  : Bool := false
deriving DecidableEq, Repr

/-- The window page of a port's PF0 (R404): WIN_BASE and WIN_REFUSED. -/
structure Window where
  base    : BitVec 64 := 0
  refused : Nat := 0
deriving DecidableEq, Repr

/-- A PCIe port (R399, R423). -/
structure PciePort where
  up     : Bool := false
  rate   : Nat := 0
  width  : Nat := 0
  numVfs : Nat := 0
deriving DecidableEq, Repr

/-- Where a dictionary request came from (R427 to R429). -/
inductive Source where
  | mailbox (f : FnId)
  | frame (mac : Nat)
  | avenue (port : Nat) (endpoint : Nat) (rtag : Nat) (epoch : Nat)
deriving DecidableEq, Repr

/-- A staging buffer of a session (R433): the object's key, the bytes, and when the last chunk came. -/
structure Staging where
  key   : Nat
  bytes : List Byte
  at_   : Nat
deriving DecidableEq, Repr

/-- An open session (R435 to R438, R447). Roles: 1 Operator, 2 Fabric manager, 3 Tenant, 4 Vendor. -/
structure Session where
  source    : Source
  role      : Nat
  tenant    : Nat
  key       : List Byte
  lastCount : Nat := 0
  outCount  : Nat := 0
  replies   : List (Nat × Nat × List Byte) := []
  authFails : Nat := 0
  lastAt    : Nat := 0
  second    : Nat := 0
  inSecond  : Nat := 0
  staging   : Option Staging := none
  subscribe : Nat := 0
  view      : Nat := 0
  logSelect : Nat := 0
deriving DecidableEq, Repr

/-- A message waiting to go to a session (R441): the session, the kind, the body, its STATUS and its TID. -/
structure Note where
  session : Nat
  kind    : Nat
  body    : List Byte
  status  : Nat := 0
  tid     : Nat := 0
deriving DecidableEq, Repr

/-- The management core's protocol state: the queue of accepted requests with their sources, the sessions, what each source
has written to OPEN_REQ, the last second of session 0 by source, the messages waiting, the sessions closed that are still to be told
(R441), and of each link session the key and the count sent. -/
structure Cdp where
  queue    : List (Source × List Byte) := []
  sessions : Table Session := []
  openReqs : List (Source × List Byte) := []
  stage0   : List (Source × Staging) := []
  rate0    : List (Source × Nat × Nat) := []
  auth0    : List (Source × Nat) := []
  notes    : List Note := []
  closing  : List (Session × Nat) := []
  links    : Table (List Byte) := []
  linkOut  : Table Nat := []
deriving DecidableEq, Repr

/-- The event log and its rate limit (R455, R499): records by sequence number, the bounds, when each kind was last written,
how many of each kind were withheld since, the kinds withheld without a count, and the second and count of the overall limit. -/
structure EventLog where
  records : Table (BitVec 256) := []
  first   : Nat := 0
  next    : Nat := 0
  lastAt  : Table Nat := []
  held    : Table Nat := []
  lost    : List Nat := []
  mendAt  : Table Nat := []
  second  : Nat := 0
  inSecond : Nat := 0
deriving DecidableEq, Repr

/-! ## Serving -/

/-- The states of a request (R222). -/
inductive ReqState where
  | free | admitted | active | paused | kerbing | kerbed | recalling
deriving DecidableEq, Repr

/-- A request-table entry (R221) with what the serving unit keeps beside it: its directories (directory index to frame), the
prepared chunk (R231), when it was paused (R247), its kerbing (R248 to R252), its provenance record (R264), and the syndrome of an
uncorrectable word of its stored entry (R211; 0: none). -/
structure Request where
  seed       : BitVec 64 := 0
  stepCtr    : BitVec 64 := 0
  deadline   : Nat := 0
  expiry     : Nat := 0
  tokens     : Nat := 0
  limit      : Nat := 0
  turnTokens : Nat := 0
  admitTime  : Nat := 0
  reqId      : Nat := 0
  ttl        : Nat := 0
  prefill    : Nat := 0
  parkIndex  : Nat := 0
  input      : Nat := 0
  lastToken  : Nat := 0
  parked     : Bool := false
  origin     : FnId := ⟨0, 0⟩
  slot       : Nat := 0xFFF
  tenant     : Nat := 0
  partition  : Nat := 0
  priority   : Nat := 0
  missed     : Bool := false
  cancel     : Bool := false
  kerbMode   : Nat := 0
  gen        : Nat := 0
  pauseHeld  : Bool := false
  state      : ReqState := .free
  dir        : Table Nat := []
  shadow     : Table Nat := []
  newFrames  : Table Nat := []
  chunk      : List Nat := []
  prepared   : Bool := false
  pausedAt   : Nat := 0
  kerbOrder  : Nat := 0
  kerbSum    : Bool := false
  summarised : Bool := false
  kerbDir    : Table Nat := []
  kerbWaited : Bool := false
  recallWaited : Bool := false
  absorbed   : List Byte := []
  complete   : Bool := true
  pauseWaits : Bool := false
  joinLast   : Bool := false
  cut        : Bool := false
  silent     : Bool := false
  fault      : Check := 0
  dirRoot    : BitVec 56 := 0
  digestRef  : BitVec 32 := 0
deriving DecidableEq, Repr

/-- What the serving unit holds beside the entries: who last held each pool frame and kerb frame and which are clear, the
order counter of kerbing, the provenance leaves by partition and second, and the root records (R229, R248, R267). -/
structure Serving where
  holders   : Table Nat := []
  kerbHolders : Table Nat := []
  order     : Nat := 0
  leaves    : List (Nat × Nat × List (List Byte)) := []
  roots     : List (Nat × Nat × List Byte) := []
deriving DecidableEq, Repr

/-! ## Storage -/

/-- A READ that a queue pair has outstanding (R422): the first PSN, how many response packets it takes, the fetch entry, and the
offset and length of its bytes; and how many responses have come. -/
structure ReadRequest where
  psn    : Nat
  count  : Nat
  entry  : Nat
  offset : Nat
  length : Nat
  come   : Nat := 0
deriving DecidableEq, Repr

/-- A queue pair (R417 to R419): the next PSN, the READs outstanding, oldest first, the PSNs of SENDs not yet acknowledged, how many
retries were made, when the last acknowledgement came, and when it last sent a CNP. -/
structure QueuePair where
  psn     : Nat := 0
  reads   : List ReadRequest := []
  sends   : List (Nat × List Byte) := []
  retries : Nat := 0
  lastAt  : Nat := 0
  cnpAt   : Option Nat := none
deriving DecidableEq, Repr

/-- An entry of the fetch that runs or ran last (R420 to R423): its 128 bytes, bytes asked for and received, its state (0 waiting,
1 running, 2 OK, 3 failed), its cause, and the plaintext that the digest unit has taken. -/
structure FetchEntry where
  bytes  : List Byte
  asked  : Nat := 0
  got    : Nat := 0
  state  : Nat := 0
  cause  : Nat := 0
  data   : List Byte := []
deriving DecidableEq, Repr

/-! ## Tenants -/

/-- A tenant (R273): 0 FREE, 1 LIVE, 2 TEARDOWN; the rate and the size in force of its service buckets, their levels, and the class and the bytes of
the units waiting in each, in order (R285). -/
structure Tenant where
  state   : Nat := 0
  vfMap   : BitVec 256 := 0
  terms   : Table (Nat × Nat) := []
  levels  : Table Nat := []
  waiting : List (Nat × Nat) := []
deriving DecidableEq, Repr

/-- An allocation (R277): 1 LIVE, 2 CLEARING, and the ticks at which its clearing can end. -/
structure Alloc where
  state     : Nat
  partition : Nat
  tenant    : Nat
  size      : Nat
  base      : Nat
  clearTo   : Nat := 0
deriving DecidableEq, Repr

/-- A key-table entry (R279). -/
structure Key where
  valid    : Bool := false
  tenant   : Nat := 0
  material : List Byte := []
deriving DecidableEq, Repr

/-! ## The fabric -/

/-- A packet: its header (R300) and its payload words with their check values (R299, R322). -/
structure Packet where
  header  : BitVec 256
  payload : List Stored := []
deriving DecidableEq, Repr

/-- An entry of a replay buffer (R305): the number, the packet, and when it was last retransmitted. -/
structure Sent where
  seq   : Nat
  pkt   : Packet
  again : Option Nat := none
deriving DecidableEq, Repr

/-- A gap in a sequence (R307): its first and last number, since when it is open, and when it was last requested. -/
structure Gap where
  first : Nat
  last  : Nat
  since : Nat
  asked : Option Nat := none
deriving DecidableEq, Repr

/-- An avenue port (R291 to R324). LINK_STATE and when it was entered; whether its next training is full; when it last entered LOCKED;
the epochs, PARTNER and DOWN_CAUSE; the receiver: codewords in order without an uncorrectable one (TRAINING), codewords received since LOCKED,
the last 64 verdicts, the stream bytes not yet parsed and the stream position of the first (while in SKIP, of the next sync codeword), and
packets parsed and not yet taken, each with the cycle in which its codeword came; the sender: the packets of its stream's last intervals, each with
its position (R297), U, N, the replay buffer, when U last moved, when a stalled ACK last retransmitted, and the
numbers to retransmit; the receiver's sequence state: E, the reorder buffer, the SEQ of the last LINK_CTRL, the gaps, and the last ACK sent;
when a packet was last sent and received; when a TRAIN was last sent; whether a LINK_CTRL is due; credits held and owed by 2 × class +
virtual channel; the next slot; the stamped codewords (R366); and whether a TRAIN has been taken since LOCKED. -/
structure Port where
  link      : Nat := 2
  since     : Nat := 0
  full      : Bool := true
  lockedAt  : Nat := 0
  txEpoch   : Nat := 0
  rxEpoch   : Nat := 0
  partner   : Nat := 0x00FFFFFF
  downCause : Nat := 0
  clean     : Nat := 0
  codewords : Nat := 0
  verdicts  : List Bool := []
  bytes     : List Byte := []
  offset    : Nat := 0
  rx        : List (Nat × Packet) := []
  stream    : List (Nat × List Byte) := []
  una       : Nat := 0
  next      : Nat := 0
  replay    : List Sent := []
  unaSince  : Nat := 0
  stalledAt : Option Nat := none
  resend    : List Nat := []
  expect    : Nat := 0
  held      : Table Packet := []
  ctrlSeq   : Nat := 0
  gaps      : List Gap := []
  acked     : Nat := 0
  sentAt    : Nat := 0
  goodAt    : Nat := 0
  trainAt   : Nat := 0
  ctrlDue   : Bool := false
  credits   : Table Nat := []
  owed      : Table Nat := []
  slot      : Nat := 0
  txStamp   : Option (Nat × Nat) := none
  rxStamp   : Option (Nat × Nat) := none
  met       : Bool := false
deriving DecidableEq, Repr

/-- A packet in an input buffer of the crossroads (R330): when it arrived, the egress port it has been routed to, the operation that
sent it, and the tenant whose bucket admits it (R337). -/
structure Queued where
  pkt    : Packet
  at_    : Nat
  out    : Option Nat := none
  op     : Option (Nat × Nat) := none
  tenant : Option Nat := none
deriving DecidableEq, Repr

/-- A barrier instance (R347, R348): its kind (0 step, 1 descriptor) and number, whether this part has joined and when, the children whose
JOIN has come, whether the JOIN has gone to the parent and when last, T_rel, and whether it has been released. -/
structure Barrier where
  kind     : Nat
  seq      : Nat
  joined   : Bool := false
  joinedAt : Nat := 0
  children : List Nat := []
  sentAt   : Option Nat := none
  release  : Option Nat := none
  released : Bool := false
  failed   : Bool := false
deriving DecidableEq, Repr

/-- A job slot (R343 to R346): JOB_STATE, when CLOSE was accepted, and its barrier instances. -/
structure Job where
  state    : Nat := 0
  closedAt : Nat := 0
  barriers : List Barrier := []
deriving DecidableEq, Repr

/-- A request outstanding (R319): its egress port, that port's TX_EPOCH at issue, when it was issued, and the session it serves. -/
structure Outstanding where
  port    : Nat
  epoch   : Nat
  at_     : Nat
  session : Nat
  tid     : Nat
deriving DecidableEq, Repr

/-- A collective of the part (R351 to R355), under the number of its operation: its partition, block and job tag; what it does (0 SUM, 1 MAX,
2 MIN), COLL_SEQ and base flow; the element count and the word address of its destination; the dimensions still to do (0 X, 1 Y, 2 Z); the
header word and the elements of its operand in the present dimension, as an up-wave carries them; the elements and the header received in
the present wave; whether the up-wave has passed this part; and whether the last result word is written. -/
structure Coll where
  part    : Nat
  block   : Nat
  job     : Nat
  op      : Nat
  seq     : Nat
  flow    : Nat
  count   : Nat
  dst     : Nat
  dims    : List Nat
  header  : Word
  elems   : List Nat
  got     : List Nat := []
  gotHead : Option Word := none
  upDone  : Bool := false
  done    : Bool := false
deriving DecidableEq, Repr

/-! ## Starts, freezes and power -/

/-- The start and the firmware (R461 to R480): the kind of the warm start
that is due or under way (1 by RESET_N, 2 by ACTIVATE), whether a cold start is due, how many cold starts there were (which names
the transport key), the image in force, whether an ACTIVATE is under way, the slot it boots, whether step issue is paused,
the checkpoint of the resident request table, whether a store write waits, and the records that the persistent store is to hold: object values, retired blocks, soft repairs. -/
structure Startup where
  warm       : Option Nat := none
  coldDue    : Bool := false
  starts     : Nat := 1
  image      : Option FirmwareImage := none
  activating : Bool := false
  bootSlot   : Option Nat := none
  paused     : Bool := false
  checkpoint : Table Request := []
  storeDue   : Bool := false
  values     : List (Nat × List Byte) := []
  retired    : List Nat := []
  repaired   : List Nat := []
deriving DecidableEq, Repr

/-- The freeze of the whole part (R481 to R490): FREEZE_STATE, FREEZE_CAUSE, t0 or u0 in ticks, FREEZE_TIME, whether FREEZE_N is low,
the time of a FREEZE_AT, whether an UNFREEZE waits until the part is FROZEN, a trigger that came while RESUMING (its cause), and
whether resume returns the part to PARKED. -/
structure FreezeUnit where
  state  : Nat := 0
  cause  : Nat := 0
  at_    : Nat := 0
  time   : Nat := 0
  pin    : Bool := false
  timed  : Option Nat := none
  resume : Bool := false
  again  : Nat := 0
  parked : Bool := false
deriving DecidableEq, Repr

/-- The JTAG controller (R485, R486): the instruction register, the district and chain selected, and how far the chain has been rotated. -/
structure Jtag where
  ir       : Nat := 1
  district : Nat := 0
  chain    : Nat := 0
  rotated  : Nat := 0
deriving DecidableEq, Repr

/-- Power and temperature (R501 to R513): the sensors in 0.1 °C (districts 0 to 15, stacks 16 to 23), the floor of the power limit,
whether the throttle is in force, the rail fault, the target and the rails in mV, the power of the last ms, and whether
ALERT_N and THERMTRIP_N are asserted. -/
structure Power where
  temps      : Table Int := []
  limitFloor : Nat := 0
  throttle   : Bool := false
  railFault  : Bool := false
  target     : Nat := 750
  rails      : Table Nat := []
  watts      : Nat := 0
  alert      : Bool := false
  tripped    : Bool := false
deriving DecidableEq, Repr

/-- A snapshot (R492): the time it was asked for while it is pending, and SHADOW_TIME. -/
structure Snapshot where
  due  : Option Nat := none
  time : Nat := 0
deriving DecidableEq, Repr

/-- The part. `flaws` holds, of the stored words that have no address in `mem` (accumulators, queue stores, handle-table copies, the plan area, the
summary mailboxes and core memories), the syndrome of each whose check bits are not those of its data (R211); absent: none. -/
structure State where
  mode      : PartMode := .running
  pending   : List Instr := []
  out       : List Output := []
  draws     : Nat := 0
  now       : Nat := 0
  mem       : Memory := {}
  districts : Table District := []
  time      : TimeUnit := {}
  blocks    : Table Block := []
  parts     : Table Part := []
  cores     : Table Core := []
  channels  : Table Channel := []
  opCount   : Nat := 0
  fns       : Table Fn := []
  pcie      : Table PciePort := []
  windows   : Table Window := []
  cdp       : Cdp := {}
  log       : EventLog := {}
  requests  : Table Request := []
  serving   : Serving := {}
  qps       : Table QueuePair := []
  fetch     : List FetchEntry := []
  tenants   : Table Tenant := []
  allocs    : Table Alloc := []
  keys      : Table Key := []
  objects   : Table (List Byte) := []
  versions  : Table Nat := []
  counters  : Table Nat := []
  shadows   : Table Nat := []
  start     : Startup := {}
  card      : Option CardImage := none
  freeze    : FreezeUnit := {}
  jtag      : Jtag := {}
  power     : Power := {}
  snapshot  : Snapshot := {}
  ports     : Table Port := []
  crossroads : Table (List Queued) := []
  arrived   : List (Nat × Packet) := []
  jobs      : Table Job := []
  outstanding : Table Outstanding := []
  rtag      : Nat := 0
  colls     : Table Coll := []
  seenNotices : List Nat := []
  refilled  : Nat := 0
  flaws     : Table Check := []
deriving DecidableEq, Repr

/-- The part after reset: just after a cold start that completed with no card and every object at its default (DESIGN CHOICE, log 33). -/
def State.reset : State := {}

end Sys2Proof.Machine
end

