-- ==== Sys2Proof/Machine/Ops.lean ====
section
/-! DEFINITION. The named operations over the state: its tables, the counters, the objects, memory and the check code, the event
log, flags and ready tags, and the reading of handles. -/
namespace Sys2Proof.Machine

/-! ## Object versions (R432) -/

/-- Advance an object's OBJ_VERSION: a change the part itself makes, or an accepted command (R432). -/
def State.bump (s : State) (index sub : Nat) : State :=
  { s with versions := s.versions.put (objKey index sub) ((s.versions.get 0 (objKey index sub) + 1) % 2 ^ 32) }

/-- Advance the OBJ_VERSION of the objects whose value has changed. -/
def State.bumpWhere (s : State) : List (Bool × Nat × Nat) → State
  | [] => s
  | (c, index, sub) :: t => (if c then s.bump index sub else s).bumpWhere t

/-! ## The tables of the state -/

/-- A partition is neither active nor about to be: FREE, or IDLE (R503). -/
def Part.quiet (x : Part) : Bool := x.partState == 0 || x.stepState == .idle

/-- The objects formed from a partition whose values differ (R258, R269). -/
def Part.changes (p : Nat) (x y : Part) : List (Bool × Nat × Nat) :=
  [(x.partState != y.partState, 0x4000 + p, 0x01), (x.blockMap != y.blockMap, 0x4000 + p, 0x02), (x.owner != y.owner, 0x4000 + p, 0x03),
   (x.exclusive != y.exclusive, 0x4000 + p, 0x07), (x.blockMap != y.blockMap, 0x4000 + p, 0x08), (x.measured != y.measured, 0x4000 + p, 0x09),
   (x.quote != y.quote, 0x4000 + p, 0x0B), (x.gen0 != y.gen0 || x.gen1 != y.gen1, 0x5200 + p, 0x05)]

def State.block (s : State) (b : Nat) : Block := s.blocks.get {} b
def State.setBlock (s : State) (b : Nat) (x : Block) : State := { s with blocks := s.blocks.put b x }
def State.part (s : State) (p : Nat) : Part := s.parts.get {} p

/-- Change a partition. POWER_STATE changes with the first partition that leaves quiet, and the last that returns (R503). -/
def State.setPart (s : State) (p : Nat) (x : Part) : State :=
  let y := s.part p
  let others := x.quiet != y.quiet && s.parts.all (fun e => e.1 == p || e.2.quiet)
  ({ s with parts := s.parts.put p x } : State).bumpWhere ((others, 0x3200, 0x01) :: y.changes p x)

def State.district (s : State) (d : Nat) : District := s.districts.get {} d
def State.setDistrict (s : State) (d : Nat) (x : District) : State := { s with districts := s.districts.put d x }
def State.core (s : State) (k : Nat) : Core := s.cores.get {} k
def State.setCore (s : State) (k : Nat) (x : Core) : State := { s with cores := s.cores.put k x }
def State.channel (s : State) (c : Nat) : Channel := s.channels.get {} c
def State.setChannel (s : State) (c : Nat) (x : Channel) : State := { s with channels := s.channels.put c x }
def State.request (s : State) (r : Nat) : Request := s.requests.get {} r

/-- Change an entry of the request table, with the counts of R243. -/
def State.setRequest (s : State) (r : Nat) (x : Request) : State :=
  ({ s with requests := s.requests.put r x } : State).bumpWhere
    [((x.state == .free) != ((s.request r).state == .free), 0x5000, if r < 8192 then 0x01 else 0x02)]

def State.tenant (s : State) (t : Nat) : Tenant := s.tenants.get {} t

/-- Change a tenant (R273). -/
def State.setTenant (s : State) (t : Nat) (x : Tenant) : State :=
  ({ s with tenants := s.tenants.put t x } : State).bumpWhere
    [(x.state != (s.tenant t).state, 0x4100 + t, 0x01)]

def State.key (s : State) (i : Nat) : Key := s.keys.get {} i

/-- Change a key-table entry (R279). -/
def State.setKey (s : State) (i : Nat) (x : Key) : State :=
  ({ s with keys := s.keys.put i x } : State).bumpWhere [(x.valid != (s.key i).valid || x.tenant != (s.key i).tenant, 0xC010 + i, 0x01)]

/-- The number of a function in the table of functions (R398: 129 functions on each port). -/
def fnIndex (f : FnId) : Nat := f.port.val * 129 + f.fn.val
def State.fn (s : State) (f : FnId) : Fn := s.fns.get {} (fnIndex f)
def State.setFn (s : State) (f : FnId) (x : Fn) : State := { s with fns := s.fns.put (fnIndex f) x }

/-- The window page of port h's PF0 (R404). -/
def State.window (s : State) (h : Nat) : Window := s.windows.get {} h
def State.setWindow (s : State) (h : Nat) (x : Window) : State := { s with windows := s.windows.put h x }

/-- Record something leaving the part. -/
def State.emit (s : State) (o : Output) : State := { s with out := o :: s.out }

/-- Draw a fresh free value of w bits, and advance the counter of draws. -/
def State.draw (s : State) (w : Nat) : BitVec w × State := (Config.freeValue s.draws w, { s with draws := s.draws + 1 })

/-- The part is started and neither frozen nor parked: its units act. -/
def State.live (s : State) : Bool := s.mode == .running

/-! ## Counters and objects -/

/-- A counter's live value (R452). -/
def State.counter (s : State) (index sub : Nat) : Nat := s.counters.get 0 (objKey index sub)

/-- Add to a counter; it holds 48 bits and wraps (R452). -/
def State.count (s : State) (index sub n : Nat) : State :=
  ({ s with counters := s.counters.put (objKey index sub) ((s.counter index sub + n) % 2 ^ 48) } : State).bumpWhere [(n != 0, index, sub)]

/-- Set a counter. -/
def State.setCounter (s : State) (index sub n : Nat) : State :=
  ({ s with counters := s.counters.put (objKey index sub) (n % 2 ^ 48) } : State).bumpWhere [(n % 2 ^ 48 != s.counter index sub, index, sub)]

/-- The value an object holds where it is kept as a value of its own: what was written, or its default. -/
def State.obj (s : State) (index sub : Nat) : List Byte :=
  match s.objects.find? (objKey index sub) with
  | some v => v
  | none => match objFind index sub with
    | some e => e.dflt
    | none => []

/-- The same as a number (R430: little-endian). -/
def State.objNat (s : State) (index sub : Nat) : Nat := leNat (s.obj index sub)

/-- Change an object's value, and its OBJ_VERSION with it (R432). -/
def State.setObj (s : State) (index sub : Nat) (v : List Byte) : State :=
  ({ s with objects := s.objects.put (objKey index sub) v } : State).bumpWhere [(v != s.obj index sub, index, sub)]

/-- Return an object to its default. -/
def State.resetObj (s : State) (index sub : Nat) : State :=
  let t : State := { s with objects := s.objects.del (objKey index sub) }
  t.bumpWhere [(t.obj index sub != s.obj index sub, index, sub)]

/-! ## Town time -/

/-- Whole ticks of the central count (R361, R375). -/
def State.town (s : State) : Nat := s.time.central / 2 ^ 32 % 2 ^ 64

/-- The building time of a town time in µs since 1970, where a correspondence is in force (R373). -/
def State.utcOf (s : State) (t : Nat) : Option Nat :=
  s.time.utc.map (fun (u0, ta) => ((u0 : Int) + ((t : Int) - (ta : Int)) / 1600).toNat)

/-! ## The event log -/

/-- An event as the log records it (R455). -/
structure Event where
  cls     : Nat
  counter : Nat := 0
  sub     : Nat := 0
  code    : Nat := 0
  status  : Nat := 0
  part    : Nat := 0xFF
  tenant  : Option Nat := none
  inst    : Nat := 0
  detail  : Nat := 0
deriving DecidableEq, Repr

/-- The kind of an event (R499). -/
def Event.kind (e : Event) : Nat := ((e.cls * 65536 + e.counter) * 256 + e.sub) * 256 + e.code

/-- The 256-bit record of an event (R455). -/
def Event.record (e : Event) (town seq suppressed : Nat) : BitVec 256 :=
  BitVec.ofNat 256 (place 192 64 town ||| place 160 32 seq ||| place 96 64 e.detail ||| place 80 16 e.counter
    ||| place 72 8 e.sub ||| place 64 8 (if e.counter = 0 then e.code else 0) ||| place 56 8 e.cls
    ||| place 48 8 e.status ||| place 40 8 e.part ||| place 32 8 (e.tenant.getD 0)
    ||| place 16 16 (min suppressed 0xFFFF) ||| place 8 8 e.inst ||| (if e.tenant.isSome then 1 else 0))

/-- Whether a session is told of a record (R459). -/
def Session.sees (x : Session) (e : Event) : Bool :=
  bitAt (BitVec.ofNat 32 x.subscribe) e.cls && (x.role ≠ 3 || e.tenant = some x.tenant)

/-- Log an event, or withhold it under the rate limit (R455, R459, R499): one record of a kind per 10 ms, 2,000 a second in all;
classes 0, 6, 12 and 13 exempt. Withheld counts are kept for 256 kinds. -/
def State.logEvent (s : State) (e : Event) : State :=
  let l := s.log
  let t := s.town
  let exempt := e.cls == 0 || e.cls == 6 || e.cls == 12 || e.cls == 13
  let inSec := if t / Config.ticksPerSecond = l.second then l.inSecond else 0
  let recent := match l.lastAt.find? e.kind with
    | some t0 => decide (t < t0 + 10 * Config.ticksPerMs)
    | none => false
  if !exempt && (recent || decide (2000 ≤ inSec)) then
    let tracked := l.held.find? e.kind ≠ none ∨ l.held.length < 256
    let held := if tracked then l.held.put e.kind (l.held.get 0 e.kind + 1) else l.held
    let lost := if tracked ∨ l.lost.contains e.kind then l.lost else l.lost ++ [e.kind]
    { s with log := { l with held := held, lost := lost, second := t / Config.ticksPerSecond, inSecond := inSec } }.count 0xA000 0x05 1
  else
    let sup := if l.lost.contains e.kind then 0xFFFF else l.held.get 0 e.kind
    let r := e.record t l.next sup
    let records := l.records.put l.next r
    let full := 4096 ≤ l.next - l.first
    let notes := s.cdp.sessions.filterMap (fun (i, x) => if x.sees e then some { session := i, kind := 1, body := wordBytes r } else none)
    ({ s with
      log := { records := if full then records.del l.first else records,
               first := if full then l.first + 1 else l.first, next := l.next + 1,
               lastAt := l.lastAt.put e.kind t, held := l.held.del e.kind, lost := l.lost.erase e.kind, mendAt := l.mendAt,
               second := t / Config.ticksPerSecond, inSecond := inSec + 1 },
      cdp := { s.cdp with notes := s.cdp.notes ++ notes } } : State).bumpWhere [(full, 0xA000, 0x01), (true, 0xA000, 0x02)]

/-- Count an event and log it by its counter (R455). -/
def State.countLog (s : State) (e : Event) : State := (s.count e.counter e.sub 1).logEvent e

/-! ## The check code (R208, R209) -/

/-- COL: the XOR of the sixteen rows. -/
def colChecks (w : Nat) : Nat := (List.range 16).foldl (fun a r => a ^^^ ((w >>> (16 * r)) % 65536)) 0

/-- ROW: bit r is the inverse of the XOR of row r. -/
def rowChecks (w : Nat) : Nat :=
  (List.range 16).foldl (fun a r => a ||| ((1 - parity 16 ((w >>> (16 * r)) % 65536)) <<< r)) 0

/-- The check value of a word (R208). -/
def checkOf (w : Word) : Check := BitVec.ofNat 32 ((colChecks w.toNat <<< 16) ||| rowChecks w.toNat)

/-- A word encoded afresh (R212). -/
def encodeWord (w : Word) : Stored := ⟨w, checkOf w⟩

/-- The fill of a cold start (R213). -/
def fillWord : Stored := ⟨0, 0xFFFF0000⟩

/-- What clearing writes (R214). -/
def clearedWord : Stored := ⟨0, 0x0000FFFF⟩

/-- What a reader makes of a stored word (R209). -/
inductive Decoded where
  | clean (w : Word)
  | mended (w : Word)
  | failing (cause : Status) (syndrome : Check)
deriving DecidableEq, Repr

/-- The class of a word by its syndrome (R209). -/
def decodeStored (x : Stored) : Decoded :=
  let sy := x.check ^^^ checkOf x.data
  let rho := popcount 16 (sy.toNat % 65536)
  let kappa := popcount 16 (sy.toNat / 65536)
  if sy = 0 then .clean x.data
  else if rho + kappa = 1 then .mended x.data
  else if rho = 1 ∧ kappa = 1 then
    let r := Nat.log2 (sy.toNat % 65536)
    let c := Nat.log2 (sy.toNat / 65536)
    .mended (x.data ^^^ BitVec.ofNat 256 (1 <<< (16 * r + c)))
  else if rho ≤ 3 ∧ kappa ≤ 3 then .failing .uncorrectable sy
  else .failing .unwritten sy

/-! ## Memory (R16, R177) -/

/-- Whether a word address lies in one of the cleared ranges. -/
def inRanges : List (Nat × Nat) → Nat → Bool
  | [], _ => false
  | (a, n) :: t, x => (decide (a ≤ x ∧ x < a + n)) || inRanges t x

/-- What an unlisted word reads as: the clearing's zero word where clearing has passed (R214), else the fill (R213). In tiers 2
and 3, which are never filled, the fill is a DESIGN CHOICE, log 4. -/
def Memory.rest (m : Memory) (a : Nat) : Stored := if inRanges m.cleared a then clearedWord else fillWord

/-- The stored word at a word address. -/
def Memory.read (m : Memory) (a : Nat) : Stored :=
  match m.cells.find? a with
  | some x => x
  | none => m.rest a

/-- Store a word; a value that an unlisted word would read as is not listed. -/
def Memory.write (m : Memory) (a : Nat) (x : Stored) : Memory :=
  if x = m.rest a then { m with cells := m.cells.del a } else { m with cells := m.cells.put a x }

/-- Put a range into a sorted list of disjoint ranges, joining those it touches. -/
def addRange : List (Nat × Nat) → Nat → Nat → List (Nat × Nat)
  | [], a, n => if n = 0 then [] else [(a, n)]
  | (b, k) :: t, a, n =>
    if n = 0 then (b, k) :: t
    else if a + n < b then (a, n) :: (b, k) :: t
    else if b + k < a then (b, k) :: addRange t a n
    else addRange t (min a b) (max (a + n) (b + k) - min a b)

/-- Clear a range of words: each is written as zeros with check value 0x0000FFFF (R214). -/
def Memory.clear (m : Memory) (a n : Nat) : Memory :=
  { cells := m.cells.filter (fun e => !(decide (a ≤ e.1 ∧ e.1 < a + n))), cleared := addRange m.cleared a n }

/-- The memory with nothing listed or cleared below an address. -/
def Memory.above (m : Memory) (lo : Nat) : Memory :=
  { cells := m.cells.filter (fun e => decide (lo ≤ e.1)),
    cleared := m.cleared.filterMap (fun r => if r.1 + r.2 ≤ lo then none else some (max r.1 lo, r.1 + r.2 - max r.1 lo)) }

/-- The ranges are not empty, rise, and do not touch; the first begins at or above lo. -/
def rangesOk : Nat → List (Nat × Nat) → Bool
  | _, [] => true
  | lo, (a, n) :: t => decide (lo ≤ a ∧ 0 < n) && rangesOk (a + n + 1) t

/-- The canonical form: the cells are listed once each in rising order, none reads as an unlisted word would, and the cleared
ranges are in order. -/
def Memory.wf (m : Memory) : Bool := m.cells.sorted && m.cells.all (fun e => e.2 != m.rest e.1) && rangesOk 0 m.cleared

/-- The word address (DPA[55:5]) of word a of block memory b (R177). -/
def tier0 (b a : Nat) : Nat := b * 2 ^ 19 + a

/-- The tier of a word address. -/
def tierOf (a : Nat) : Nat := a / 2 ^ 49 % 4

def State.readWord (s : State) (a : Nat) : Stored := s.mem.read a
def State.writeWord (s : State) (a : Nat) (x : Stored) : State := { s with mem := s.mem.write a x }

/-- Write words, each encoded afresh (R212). -/
def State.writeWords (s : State) : List (Nat × Word) → State
  | [] => s
  | (a, w) :: t => (s.writeWord a (encodeWord w)).writeWords t

/-! ## Districts (R4, R6, R7) -/

/-- The district of a logical block. -/
def districtOf (b : Nat) : Nat := b / 16 % 16

/-- The distance of two numbers. -/
def absDiff (a b : Nat) : Nat := (a - b) + (b - a)

/-- Channel crossings between two districts (R7). -/
def hops (d e : Nat) : Nat := absDiff (d % 4) (e % 4) + absDiff (d / 4) (e / 4)

/-- The districts of the x-then-y route from d to e, ends included (R7). -/
def route (d e : Nat) : List Nat :=
  let line := fun (a b : Nat) => (List.range (absDiff a b + 1)).map (fun i => if a ≤ b then a + i else a - i)
  (line (d % 4) (e % 4)).map (fun x => x + 4 * (d / 4)) ++ ((line (d / 4) (e / 4)).drop 1).map (fun y => e % 4 + 4 * y)

/-- The floor of R505 and R506 in force. -/
def Power.floor (x : Power) : Nat := max x.limitFloor (if x.throttle then 8 else 0)

/-- The setting a district runs at (R505). -/
def State.settingOf (s : State) (d : Nat) : Nat := max (s.district d).setting s.power.floor

/-- Every district of the route runs at setting 0 (R116, R505). -/
def State.routeNominal (s : State) (d e : Nat) : Bool := (route d e).all (fun x => s.settingOf x == 0)

/-- How long after a change in district `home` it is seen in district d (R116, R119): 1 cycle in the same district; 2 + 5h where
the route runs at nominal clock; else an open figure from 2 + 5h to 40 (a free value, log 66). -/
def State.seenAfter (s : State) (home d at_ : Nat) : Nat :=
  let h := hops home d
  if home = d then 1
  else if s.routeNominal home d then 2 + 5 * h
  else 2 + 5 * h + (Config.freeValue (at_ * 256 + home * 16 + d) 6).toNat % (39 - 5 * h)

/-- The value of a mark that a check in district d sees now: that of the last change visible there. -/
def State.seen (s : State) (m : Mark) (d : Nat) : Bool :=
  if m.at_ + s.seenAfter m.home d m.at_ ≤ s.now then m.set
  else match m.older.find? (fun e => decide (e.2 + s.seenAfter m.home d e.2 ≤ s.now)) with
    | some e => e.1
    | none => m.before

/-- The changes of a list, newest first, that may still be seen: no older one than the first that every district sees by now (R116). -/
def stillSeen (now : Nat) : List (Bool × Nat) → List (Bool × Nat)
  | [] => []
  | e :: t => if e.2 + 40 ≤ now then [e] else e :: stillSeen now t

/-- A changed mark: the earlier values are still seen until the change is visible. -/
def Mark.change (m : Mark) (v : Bool) (now home writer : Nat) : Mark :=
  { set := v, before := m.before, older := stillSeen now ((m.set, m.at_) :: m.older), at_ := now, home := home, writer := writer }

/-! ## Partitions and their blocks -/

/-- The logical blocks of a map, ascending. -/
def mapBlocks (m : BitVec 256) : List Nat := (List.range 256).filter (fun b => bitAt m b)

/-- The LIVE or DESTROYING partition that a block belongs to. -/
def State.partOf (s : State) (b : Nat) : Option Nat :=
  (List.find? (fun e => e.2.partState != 0 && bitAt e.2.blockMap b) s.parts).map Prod.fst

/-- The districts of a map, ascending. -/
def mapDistricts (m : BitVec 256) : List Nat :=
  (List.range 16).filter (fun d => field m (16 * d) 16 ≠ 0)

/-- The lead district of a partition (R148); 0xFF where it has no block. -/
def Part.lead (x : Part) : Nat := (mapDistricts x.blockMap).headD 0xFF

/-- Plan-relative block i of a partition (R126). -/
def Part.block (x : Part) (i : Nat) : Option Nat := (mapBlocks x.blockMap)[i]?

/-- The plan-relative number of a block of a partition (R126). -/
def Part.rel (x : Part) (b : Nat) : Nat := popcount b (x.blockMap.toNat)

/-- The plan the running step runs. -/
def Part.plan (x : Part) : Option Plan :=
  match x.running with
  | some t => x.plans.find? t.slot
  | none => none

/-- The current segment. -/
def Part.seg (x : Part) : Option Segment :=
  match x.plan with
  | some pl => pl.segments[x.segment]?
  | none => none

/-- The block's queue q (R110). -/
def Block.queue (x : Block) (q : Nat) : Queue := x.queues.get {} q
def Block.setQueue (x : Block) (q : Nat) (v : Queue) : Block := { x with queues := x.queues.put q v }

/-! ## Descriptor fields (R107, R109) -/

def opcode (d : Desc) : Nat := field d 0 8
def variant (d : Desc) : Nat := field d 8 8
def formatOf (d : Desc) : Nat := field d 16 8
def modeOf (d : Desc) : Nat := field d 24 8
def stamp (d : Desc) : Nat := field d 32 32
def waitMask (d : Desc) : Nat := field d 124 4
def waitFlag (d : Desc) (i : Nat) : Nat := field d (64 + 12 * i) 12
def setFlag (d : Desc) : Nat := field d 112 12
/-- Bits [len-1:0] of the byte range from byte i of the descriptor. -/
def descBytes (d : Desc) (i n : Nat) : Nat := field d (8 * i) (8 * n)
/-- The 62 bytes that the CRC covers (R108). -/
def descBody (d : Desc) : List Byte := natBytes 62 d.toNat
def descCrcOk (d : Desc) : Bool := crc16 (descBody d) == field d 496 16

/-- Operand reference i (R109). -/
def opnd (d : Desc) (i : Nat) : Nat := field d (128 + 64 * i) 64
def opHandle (r : Nat) : Nat := r % 65536
def opOffset (r : Nat) : Nat := r / 65536 % 2 ^ 32
def opShape (r : Nat) : Nat := r / 2 ^ 48 % 65536
/-- A reference whose 64 bits are zero is absent (R109). -/
def opAbsent (r : Nat) : Bool := r == 0

/-- The flags a descriptor waits on (R107, R120). -/
def waits (d : Desc) : List Nat :=
  (List.range 4).filterMap (fun i => if waitMask d >>> i % 2 = 1 then some (waitFlag d i) else none)

/-! ## Handles (R117 to R119, R258) -/

/-- The first generation handle of a partition (R258). -/
def State.genFirst (s : State) (p : Nat) : Nat := s.objNat (0x5200 + p) 0x06

/-- The key under which a handle's entry and tag stand: generation handles have one copy for each slot. -/
def State.handleKey (s : State) (p h : Nat) : Nat :=
  if s.genFirst p ≤ h then 4096 + 4096 * (s.part p).runGen + h else h

/-- The entry of a handle in force; KIND 0x00 where none is loaded. -/
def State.handle (s : State) (p h : Nat) : BitVec 128 := (s.part p).handles.get 0 (s.handleKey p h)

def hKind (e : BitVec 128) : Nat := field e 120 8
def hWrite (e : BitVec 128) : Bool := bitAt e 113
def hRead (e : BitVec 128) : Bool := bitAt e 112
def hOwner (e : BitVec 128) : Nat := field e 96 16
def hSize (e : BitVec 128) : Nat := field e 64 32
def hBase (e : BitVec 128) : Nat := field e 0 56
def hBlock (e : BitVec 128) : Nat := field e 19 8
def hWord (e : BitVec 128) : Nat := field e 0 19

/-- The handle's buffer lies in block memory. -/
def hOnBlock (e : BitVec 128) : Bool := hKind e == 1 || hKind e == 3

/-- The word address (DPA[55:5]) of word i of a handle's buffer. -/
def hAddr (e : BitVec 128) (i : Nat) : Nat :=
  if hOnBlock e then tier0 (hBlock e) (hWord e + i) else hBase e / 32 + i

/-- The district that keeps a handle's tag (R119). -/
def State.tagHome (s : State) (p : Nat) (e : BitVec 128) : Nat :=
  if hOnBlock e then districtOf (hBlock e) else (s.part p).lead

/-- The ready tag of a handle (R119). -/
def State.tag (s : State) (p h : Nat) : Mark := (s.part p).tags.get {} (s.handleKey p h)

/-- Change the ready tag of a handle now. -/
def State.markTag (s : State) (p h : Nat) (v : Bool) (writer : Nat) : State :=
  let x := s.part p
  let k := s.handleKey p h
  let m := (x.tags.get {} k).change v s.now (s.tagHome p (s.handle p h)) writer
  s.setPart p { x with tags := x.tags.put k m }

end Sys2Proof.Machine
end

