-- ==== Sys2Proof/Machine/LongAcc.lean ====
section
/-! DEFINITION. The long accumulators (R38 to R46), wide partials (R51 to R54) and their sums (R55). -/
namespace Sys2Proof.Machine

/-- The key of entry (i, j) of a bank. -/
def cell (i j : Nat) : Nat := i * 128 + j

/-- An entry of a started bank; a start leaves every entry zero (R39). -/
def Bank.entry (k : Bank) (c : Nat) : AccEntry := k.entries.get {} c

def Block.bank (x : Block) (n : Nat) : Bank := if n = 0 then x.bank0 else x.bank1
def Block.setBank (x : Block) (n : Nat) (k : Bank) : Block := if n = 0 then { x with bank0 := k } else { x with bank1 := k }

/-- One fold of an exact sum s · 2^e into an entry (R40); the second component is the bank's loss. -/
def foldEntry (x : AccEntry) (anchor s e : Int) : AccEntry × Bool :=
  let d := e - (anchor - 64)
  let f := if 0 ≤ d then s * 2 ^ d.toNat else s / 2 ^ (-d).toNat
  let loss := if 0 ≤ d then false else decide (f * 2 ^ (-d).toNat ≠ s)
  if 2 ^ 127 ≤ f then ({ x with fovp := true }, loss)
  else if f < -(2 ^ 127) then ({ x with fovn := true }, loss)
  else
    let t := x.acc + f
    if 2 ^ 127 ≤ t then ({ x with acc := t - 2 ^ 128, w := x.w + 1 }, loss)
    else if t < -(2 ^ 127) then ({ x with acc := t + 2 ^ 128, w := x.w - 1 }, loss)
    else ({ x with acc := t }, loss)

/-- An entry is special (R43). -/
def AccEntry.special (x : AccEntry) : Bool := x.nan || x.infp || x.infn
/-- An entry is overflowed (R43). -/
def AccEntry.overflowed (x : AccEntry) : Bool := !x.special && (x.fovp || x.fovn || x.w != 0)

/-- What a special entry reads as (R49). -/
def AccEntry.specialNum (x : AccEntry) : Num :=
  if x.nan || (x.infp && x.infn) then .nan else .inf x.infn

/-- SAT of R44. -/
def satUnits : Int := 2 ^ 127 - 2

/-- The saturated reading of an overflowed entry in units (R44); none for NaN. -/
def AccEntry.saturated (x : AccEntry) : Option Int :=
  if x.fovp && !x.fovn then some satUnits
  else if x.fovn && !x.fovp then some (-satUnits)
  else if x.fovp && x.fovn then none
  else if 0 < x.w then some satUnits else some (-satUnits)

/-- The number of bits of ACC that differ from its sign, counted from the top difference (R46 TOP of one entry). -/
def AccEntry.top (x : AccEntry) : Nat :=
  bitLen (if 0 ≤ x.acc then x.acc.toNat else (-x.acc - 1).toNat)

/-- The bank state word (R46). -/
def Bank.word (k : Bank) : Nat :=
  let es := k.entries.values
  let top := es.foldl (fun t x => if x.special || x.overflowed then t else max t x.top) 0
  place 48 16 (unsigned 16 k.anchor)
  ||| place 42 1 (if es.any AccEntry.overflowed then 1 else 0)
  ||| place 41 1 (if k.loss then 1 else 0)
  ||| place 40 1 (if es.any (fun x => x.nan || (x.infp && x.infn)) then 1 else 0)
  ||| place 39 1 (if es.any (fun x => x.infp || x.infn) then 1 else 0)
  ||| place 32 7 top ||| place 0 25 k.ksteps

/-- A bank as a start leaves it (R39, R46). -/
def Bank.start (k : Bank) (anchor : Int) : Bank :=
  { k with started := true, anchor := anchor, loss := false, ksteps := 0, entries := [] }

/-! ## Wide partials -/

/-- A wide-partial buffer as read: the header's fields and the elements (R51). -/
structure Wide where
  wp64   : Bool
  anchor : Int
  count  : Nat
  inf    : Bool := false
  nan    : Bool := false
  ovf    : Bool := false
  loss   : Bool := false
  elems  : List Num := []
deriving DecidableEq, Repr

/-- Bits of an element (R51). -/
def wideBits (wp64 : Bool) : Nat := if wp64 then 64 else 128

/-- The header word of a buffer (R51). -/
def Wide.header (x : Wide) : Word :=
  let b := fun (c : Bool) => if c then 1 else 0
  BitVec.ofNat 256 (place 56 8 (if x.wp64 then 2 else 1) ||| place 32 16 (unsigned 16 x.anchor)
    ||| place 16 14 (x.count - 1) ||| place 3 1 (b x.inf) ||| place 2 1 (b x.nan) ||| place 1 1 (b x.ovf) ||| b x.loss)

/-- The code of an element: its integer in units, or a reserved code (R52, R53). -/
def wideCode (wp64 : Bool) : Num → Nat
  | .nan => 2 ^ (wideBits wp64 - 1)
  | .inf false => 2 ^ (wideBits wp64 - 1) - 1
  | .inf true => 2 ^ (wideBits wp64 - 1) + 1
  | .fin n m _ => unsigned (wideBits wp64) (if n then -(m : Int) else m)

/-- An element from its code, in units (exponent 0) (R52, R53). -/
def wideElem (wp64 : Bool) (c : Nat) : Num :=
  let w := wideBits wp64
  if c = 2 ^ (w - 1) then .nan
  else if c = 2 ^ (w - 1) - 1 then .inf false
  else if c = 2 ^ (w - 1) + 1 then .inf true
  else Num.ofInt (signed w c) 0

/-- The words of a buffer after its header: elements, then zeros to the word's end (R51). -/
def Wide.words (x : Wide) : List Word :=
  let w := wideBits x.wp64
  let bytes := x.elems.flatMap (fun e => natBytes (w / 8) (wideCode x.wp64 e))
  x.header :: bytesWords (ceilDiv x.elems.length (256 / w)) bytes

/-- The number of words of a buffer of n elements (R51). -/
def wideWords (wp64 : Bool) (n : Nat) : Nat := 1 + ceilDiv n (256 / wideBits wp64)

/-- Whether a header's FORMAT is one of R51's. -/
def headerFormat (h : Word) : Option Bool :=
  match field h 56 8 with
  | 1 => some false
  | 2 => some true
  | _ => none

def headerAnchor (h : Word) : Int := signed 16 (field h 32 16)
def headerCount (h : Word) : Nat := field h 16 14 + 1

/-- A buffer read back from its header and element words (R51). -/
def wideOf (wp64 : Bool) (h : Word) (ws : List Word) : Wide :=
  let l := wordsBytes ws
  let n := headerCount h
  { wp64 := wp64, anchor := headerAnchor h, count := n,
    inf := bitAt h 3, nan := bitAt h 2, ovf := bitAt h 1, loss := bitAt h 0,
    elems := (List.range n).map (fun i => wideElem wp64 (leAt l (i * (wideBits wp64 / 8)) (wideBits wp64 / 8))) }

/-- The greatest finite magnitude of an element (R52, R53). -/
def wideLimit (wp64 : Bool) : Int := 2 ^ (wideBits wp64 - 1) - 2

/-- An integer brought into the finite range: the element under SATURATE, and whether it was outside (R44). -/
def wideClip (wp64 : Bool) (v : Int) : Num × Bool :=
  if wideLimit wp64 < v then (Num.ofInt (wideLimit wp64) 0, true)
  else if v < -(wideLimit wp64) then (Num.ofInt (-(wideLimit wp64)) 0, true)
  else (Num.ofInt v 0, false)

/-- One exported element: its value, whether it overflowed, whether bits were lost (R54). -/
def exportEntry (wp64 : Bool) (x : AccEntry) : Num × Bool × Bool :=
  if x.special then (x.specialNum, false, false)
  else if x.overflowed then
    match x.saturated with
    | none => (.nan, true, false)
    | some v => (Num.ofInt (if 0 < v then wideLimit wp64 else -(wideLimit wp64)) 0, true, false)
  else
    let v := if wp64 then x.acc / 2 ^ 32 else x.acc
    let lost := wp64 && decide (x.acc % 2 ^ 32 ≠ 0)
    let r := wideClip wp64 v
    (r.1, r.2, lost)

/-- The export of an M × N corner of a bank (R54); the flag says that some element overflowed (R44). An entry that reads NaN because both infinities
entered it sets NAN and not INF in the header, though R51 names an infinity that entered its formation (R54 step 1, R88; DEDUCED, log 89). -/
def Bank.export (k : Bank) (wp64 : Bool) (m n : Nat) : Wide × Bool :=
  let xs := (List.range (m * n)).map (fun i => k.entry (cell (i / n) (i % n)))
  let es := xs.map (exportEntry wp64)
  ({ wp64 := wp64, anchor := k.anchor, count := m * n,
     nan := es.any (fun e => e.1 == .nan),
     inf := es.any (fun e => match e.1 with | .inf _ => true | _ => false),
     ovf := es.any (fun e => e.2.1), loss := k.loss || es.any (fun e => e.2.2),
     elems := es.map Prod.fst }, es.any (fun e => e.2.1))

/-- The sum of elements at one place (R55): the value, new NaN, and whether the sum left the finite range. -/
def sumElems (wp64 : Bool) (xs : List Num) : Num × Bool :=
  if xs.any (fun x => x == .nan) || (xs.any (fun x => x == .inf false) && xs.any (fun x => x == .inf true)) then (.nan, false)
  else if xs.any (fun x => x == .inf false) then (.inf false, false)
  else if xs.any (fun x => x == .inf true) then (.inf true, false)
  else wideClip wp64 (xs.foldl (fun a x => a + x.int) 0)

/-- The wide add of buffers of one FORMAT, ANCHOR and COUNT (R55); the flag says that some sum overflowed. -/
def wideAdd (a : Wide) (rest : List Wide) : Wide × Bool :=
  let all := a :: rest
  let es := (List.range a.count).map (fun i => sumElems a.wp64 (all.map (fun x => x.elems.getD i .nan)))
  ({ a with
     elems := es.map Prod.fst,
     loss := all.any Wide.loss, inf := all.any Wide.inf,
     ovf := all.any Wide.ovf || es.any Prod.snd,
     nan := all.any Wide.nan || es.any (fun e => e.1 == .nan) }, es.any Prod.snd)

/-- Whether buffers carry the same FORMAT, ANCHOR and COUNT (R55). -/
def wideMatch (a : Wide) (rest : List Wide) : Bool :=
  rest.all (fun x => x.wp64 == a.wp64 && x.anchor == a.anchor && x.count == a.count)

end Sys2Proof.Machine
end

