-- ==== Sys2Proof/Machine/Flags.lean ====
section
/-! DEFINITION. The flags of a partition (R115, R116, R120): which are set, which are visible where, and the flag that a descriptor
sets at completion. -/
namespace Sys2Proof.Machine

/-- A flag of the running step; clear at step start (R115). -/
def Part.flag (x : Part) (f : Nat) : Mark := x.flags.get { set := false, before := false } f

/-- Whether every flag a descriptor waits on is visible in a district (R120). -/
def State.flagsSeen (s : State) (p : Nat) (d : Desc) (dist : Nat) : Bool :=
  (waits d).all (fun f => s.seen ((s.part p).flag f) dist)

/-- The flag a descriptor sets at completion, by the rules of R115: the failing cause, or the partition with the flag set. -/
def setFlagOf (x : Part) (now b q : Nat) (d : Desc) : Except Status Part :=
  let f := setFlag d
  if f = 0xFFF then .ok x
  else
    let declared := match x.plan with
      | some pl => match pl.flags[f]? with
        | some w => bitAt w 15 && field w 13 2 == q && x.block (field w 0 8) == some b
        | none => false
      | none => false
    if !declared then .error .flagUndeclared
    else if (x.flag f).set then .error .flagTwice
    else .ok { x with flags := x.flags.put f ((x.flag f).change true now (districtOf b) 0) }

end Sys2Proof.Machine
end

