-- ==== Sys2Proof/Machine/Steps.lean ====
section
/-! DEFINITION. Completion records and their rings (R134 to R138), the failure and fence of a step (R124, R217 to R219, R377), reads
with the check code (R209, R215, R220), and the completion of an operation (R115, R119, R121). -/
namespace Sys2Proof.Machine

/-- The code of a status (R137). -/
def Status.code : Status → Nat
  | .ok => 0 | .badCrc => 1 | .malformed => 2 | .rights => 3 | .bounds => 4 | .anchorMismatch => 5 | .accOverflow => 6
  | .uncorrectable => 7 | .unwritten => 8 | .flagTwice => 9 | .flagUndeclared => 10 | .gridlock => 11 | .segment => 12
  | .stepOrder => 13 | .plan => 14 | .profile => 15 | .fault => 16 | .stepFailed => 17

/-- The first of a list of causes in the cause order of R124, which is the order of the codes. -/
def firstCause : List Status → Option Status
  | [] => none
  | c :: t => match firstCause t with
    | none => some c
    | some d => if c.code ≤ d.code then some c else some d

/-! ## Completion records -/

/-- The fields of a completion record (R137); `body` holds bits [1023:256]. -/
structure Record where
  kind   : Nat
  status : Nat
  cause  : Nat
  tag    : Nat := 0
  part   : Nat := 0
  stepNo : Nat := 0
  block  : Nat := 0xFFFF
  queue  : Nat := 0
  opcode : Nat := 0
  stamp  : Nat := 0
  body   : Nat := 0
deriving DecidableEq, Repr

/-- The record's 128 bytes, with PHASE clear (R137). -/
def Record.bytes (r : Record) (town : Nat) : List Byte :=
  natBytes 128 (place 256 768 r.body ||| place 224 32 r.stamp ||| place 216 8 r.opcode ||| place 208 8 r.queue
    ||| place 192 16 r.block ||| place 128 64 town ||| place 64 64 r.stepNo ||| place 48 8 r.part ||| place 32 16 r.tag
    ||| place 16 8 r.cause ||| place 8 8 r.status ||| place 0 8 r.kind)

/-- The number of slots of a completion ring. -/
def Fn.slots (x : Fn) : Nat := 2 ^ x.complCfg

/-- Completions written and not consumed. -/
def Fn.unread (x : Fn) : Nat := (x.written + 2 ^ 32 - x.complHead % 2 ^ 32) % 2 ^ 32

/-- A slot is neither written and unconsumed nor reserved (R135). -/
def Fn.hasRoom (x : Fn) : Bool := decide (x.unread + x.reserved < x.slots)

/-- A port can carry DMA and completion writes (R399). -/
def State.portFast (s : State) (h : Nat) : Bool :=
  let p := s.pcie.get {} h
  p.up && decide (16 ≤ p.rate)

/-- Write a record into the next slot of a function's completion ring, with its PHASE, and send the armed message (R134, R137). -/
def State.writeRecord (s : State) (f : FnId) (bytes : List Byte) : State :=
  let x := s.fn f
  let slot := x.written % x.slots
  let phase := (x.written / x.slots + 1) % 2
  let b := natBytes 128 (leNat bytes ||| place 24 1 phase)
  let s := (s.setFn f { x with written := (x.written + 1) % 2 ^ 32, irqArm := false }).emit (.completion f slot b)
  if x.irqArm then s.emit (.msix f 0) else s

/-- Write a record in a slot reserved for it, or queue it while the port cannot write (R135, R399). After an FLR the completion of
an entry accepted before it is discarded (R400). -/
def State.writeReserved (s : State) (f : FnId) (bytes : List Byte) : State :=
  let x := s.fn f
  if x.reserved = 0 then s
  else if s.portFast f.port.val && x.queued.isEmpty then (s.setFn f { x with reserved := x.reserved - 1 }).writeRecord f bytes
  else (s.setFn f { x with queued := x.queued ++ [(true, bytes)] }).count (0x9C00 + f.port.val) 0x06 1

/-- Queue a record that answers no intake entry (R135). -/
def State.queueRecord (s : State) (f : FnId) (bytes : List Byte) : State :=
  let x := s.fn f
  s.setFn f { x with queued := x.queued ++ [(false, bytes)] }

/-- Raise a local interrupt cause of a core (R176). -/
def State.raise (s : State) (k cause : Nat) : State :=
  let c := s.core k
  s.setCore k { c with mip := c.mip ||| BitVec.ofNat 64 (1 <<< cause) }

/-- What is loaded into a core's instruction memory from the verified image in force (R161, R175). -/
def State.firmwareOf (s : State) (k : Nat) : List Byte :=
  match s.start.image with
  | some i => Config.coreCode i.body k
  | none => []

/-- The management core delivers a dictionary request to a core (R176). -/
def State.deliverCdp (s : State) (index : Nat) : State :=
  { s with cores := match Config.cdpCore index with
      | some k => (s.raise (k % 20) 19).cores
      | none => s.cores }

/-- Answer an intake entry: the completion goes to its source's ring, or to its core's queue 0x40 (R135, R172). -/
def State.answer (s : State) (src : Src) (r : Record) : State :=
  let b := r.bytes s.town
  match src with
  | .ring f => s.writeReserved f b
  | .core k =>
    let c := s.core k.val
    let s := (s.setCore k.val { c with posts := c.posts ++ [b] }).raise k.val 18
    if c.posts.isEmpty then s.raise k.val 16 else s

/-- The lead core of a partition. -/
def State.leadCore (s : State) (p : Nat) : Nat := (s.part p).lead % 16

/-! ## Failing a step -/

/-- The class of a step failure by its cause (R377). -/
def Status.faultClass (c : Status) : Nat :=
  match c with
  | .uncorrectable => 2
  | .fault => 7
  | _ => 1

/-- The step number a partition is concerned with: that of the running ticket (a kerb ticket carries 0). -/
def Part.stepNo (x : Part) : Nat :=
  match x.running with
  | some t => if t.kerb then 0 else field t.desc 128 64
  | none => 0

/-- Whether one failure comes before another in the order of R124. -/
def Failure.precedes (a b : Failure) : Bool :=
  if a.block ≠ b.block then decide (a.block < b.block)
  else if a.queue ≠ b.queue then decide (a.queue < b.queue)
  else decide (a.cause.code < b.cause.code)

/-- The cycles of a partition's lead district. -/
def State.leadCycles (s : State) (p : Nat) : Nat := (s.district ((s.part p).lead % 16)).cycles

/-- The cycle in which the first failure of a step fell is still the present one: the same logical cycle, and of a partition that stood frozen
the same cycle of its lead district (R124). -/
def State.competes (s : State) (p : Nat) (g : Failure) : Bool :=
  !g.closed && g.lcycle == (s.part p).lcycle && (!g.frozen || g.leadAt == s.leadCycles p)

/-- The freeze of a partition ends; its length may be the longest (R151). -/
def State.endFreeze (s : State) (p : Nat) : State :=
  match (s.part p).freeze with
  | none => s
  | some z => s.setCounter (0x9100 + p) 0x11 (max (s.counter (0x9100 + p) 0x11) z.length)

/-- Fail the running step of a partition (R124): it is fenced, and the failure is the one reported unless one of the same cycle
precedes it. A failure of a later cycle changes nothing. -/
def State.fence (s : State) (p : Nat) (f : Failure) : State :=
  let x := s.part p
  match x.stepState, x.failure with
  | .running, _ =>
    let g := { f with frozen := x.freeze.isSome || x.extraBank != 0 || x.extraStreet != 0, leadAt := s.leadCycles p }
    (((s.endFreeze p).setPart p { x with stepState := .fenced, failure := some g, freeze := none, extraBank := 0, extraStreet := 0 }).raise
      (s.leadCore p) 17).logEvent { cls := 1, code := 1, status := f.cause.code, part := p, tenant := some x.owner, detail := x.stepNo }
  | .fenced, some g =>
    if s.competes p g && f.precedes g then s.setPart p { x with failure := some { f with frozen := g.frozen, leadAt := g.leadAt } } else s
  | _, _ => s

/-- Fail a step by a descriptor (R124). -/
def State.failDesc (s : State) (p : Nat) (cause : Status) (b q : Nat) (d : Desc) : State :=
  s.fence p { cause := cause, block := b, queue := q, opcode := opcode d, stamp := stamp d, at_ := s.now,
              lcycle := (s.part p).lcycle, cls := cause.faultClass }

/-- Fail a step for a reason no descriptor has: the FAIL fields stay empty (R138). -/
def State.failStep (s : State) (p : Nat) (cause : Status) (cls : Nat) : State :=
  s.fence p { cause := cause, block := 0xFFFF, queue := 0, opcode := 0, stamp := 0, at_ := s.now,
              lcycle := (s.part p).lcycle, cls := cls }

/-- DATA_ERROR_REPORT (R219). -/
def dataReport (town step : Nat) (cause : Status) (reader dpa : Nat) (syndrome : Check) : List Byte :=
  natBytes 32 (place 192 64 town ||| place 128 64 step ||| place 120 8 (if cause = .uncorrectable then 1 else 2) ||| place 112 8 reader ||| place 32 56 dpa ||| syndrome.toNat)

/-- A failed read (R219, R220): counted and logged, and reported in the partition's DATA_ERROR_REPORT while its step is running or
fails in this cycle (R124). The readers are numbered as R219 gives. -/
def State.readFailed (s : State) (p reader dpa : Nat) (cause : Status) (syndrome : Check) : State :=
  let x := s.part p
  let sub := if cause = .uncorrectable then 4 else 5
  let s := s.countLog { cls := 3, counter := 0x9400, sub := sub, status := cause.code, part := p, tenant := some x.owner, detail := dpa }
  let live := match x.stepState, x.failure with
    | .running, _ => true
    | .fenced, some g => s.competes p g
    | _, _ => false
  if live then
    s.setObj (0x4000 + p) 0x11 (dataReport s.town x.stepNo cause reader dpa syndrome)
  else s

/-- A failed read of service traffic (R219, R220): counted and logged, and the report of the partition that the word belongs to is written, though no step
fails (R211). -/
def State.serviceFailed (s : State) (p : Option Nat) (tenant dpa : Nat) (cause : Status) (syndrome : Check) : State :=
  let s := s.countLog { cls := 3, counter := 0x9400, sub := if cause = .uncorrectable then 4 else 5, status := cause.code, part := p.getD 0xFF, tenant := some tenant, detail := dpa }
  match p with
  | some p => s.setObj (0x4000 + p) 0x11 (dataReport s.town (s.part p).stepNo cause 6 dpa syndrome)
  | none => s

/-- The DPA field for a word of a bank, which has no address: 0 to 8,191 accumulator words, 8,192 + k side words, 10,240 the
bank state word (R219). -/
def accDpa (b bank word : Nat) : Nat := 2 ^ 53 + place 24 8 b + place 23 1 bank + word

/-- A read of a bank that has not been started: the fill decodes as never written, with every syndrome bit set (R87, R213). -/
def State.readUnstarted (s : State) (p reader b bank word : Nat) : State :=
  s.readFailed p reader (accDpa b bank word) .unwritten 0xFFFFFFFF

/-! ## Reads -/

/-- A run of reads: the words before the first failing one, the addresses mended, and the failure with its address. -/
structure ReadRun where
  words  : List Word := []
  mended : List Nat := []
  failed : Option (Nat × Status × Check) := none
deriving DecidableEq, Repr

/-- Read words in order, stopping at the first of a failing class (R209, R217). -/
def readRun (m : Memory) : List Nat → ReadRun
  | [] => {}
  | a :: t =>
    match decodeStored (m.read a) with
    | .clean w => let r := readRun m t; { r with words := w :: r.words }
    | .mended w => let r := readRun m t; { r with words := w :: r.words, mended := a :: r.mended }
    | .failing c sy => { failed := some (a, c, sy) }

/-! ## Words that have no address (R211, R219) -/

/-- The numbers under which the syndromes of such words stand: of a bank by R219, of the head of a queue in the queue store, of a partition's plan area
and summary mailbox, of a handle-table copy, and of a core's data memory. -/
def flawQueue (b q : Nat) : Nat := 2 ^ 54 + 4 * b + q
def flawPlan (p : Nat) : Nat := 2 ^ 54 + 2 ^ 20 + p
def flawMail (p : Nat) : Nat := 2 ^ 54 + 2 ^ 21 + p
def flawHandle (p h : Nat) : Nat := 2 ^ 54 + 2 ^ 30 + 65536 * p + h
def flawCore (k word : Nat) : Nat := 2 ^ 54 + 2 ^ 40 + 2 ^ 20 * k + word

/-- The class of a word by its syndrome alone (R209). -/
def syndromeClass (sy : Check) : Decoded := decodeStored ⟨0, checkOf 0 ^^^ sy⟩

/-- A word is read: the cause and the syndrome of its failure. -/
def State.flawFails (s : State) (k : Nat) : Option (Status × Check) :=
  match syndromeClass (s.flaws.get 0 k) with
  | .failing c sy => some (c, sy)
  | _ => none

/-- Words are written, or mended and written: their check bits are those of their data (R212). -/
def State.wipe (s : State) (l : List Nat) : State := { s with flaws := l.foldl (fun t k => t.del k) s.flaws }

/-- The first failing word of a list, with the mended ones before it. -/
def State.flawRun (s : State) : List Nat → List Nat × Option (Nat × Status × Check)
  | [] => ([], none)
  | k :: t => match syndromeClass (s.flaws.get 0 k) with
    | .clean _ => s.flawRun t
    | .mended _ => let r := s.flawRun t; (k :: r.1, r.2)
    | .failing c sy => ([], some (k, c, sy))

/-- A word of a bank that reading a corner of m by n entries takes in: an accumulator word of two entries, a side word of eight, or the state word (R211). -/
def accTouched (m n w : Nat) : Bool :=
  if w < 8192 then decide (2 * w / 128 < m ∧ 2 * w % 128 < n) else if w < 10240 then decide ((w - 8192) / 16 < m ∧ 8 * ((w - 8192) % 16) < n) else w == 10240

/-- The words of a bank whose check bits are not those of their data and which reading a corner takes in, in order. -/
def State.accFlaws (s : State) (b bank m n : Nat) : List Nat :=
  (s.flaws.keys.filter (fun k => decide (accDpa b bank 0 ≤ k ∧ k < accDpa b bank 0 + 2 ^ 23) && accTouched m n (k - accDpa b bank 0)))

/-- A bank's words are all written (R211). -/
def State.wipeBank (s : State) (b bank : Nat) : State :=
  s.wipe (s.flaws.keys.filter (fun k => decide (accDpa b bank 0 ≤ k ∧ k < accDpa b bank 0 + 2 ^ 23)))

/-- Fail a step by a word of a queue store, the plan area or a handle-table copy: the queue is named, its descriptor is not known (R211). -/
def State.failStore (s : State) (p : Nat) (b q : Nat) (c : Status) (sy : Check) : State :=
  (s.readFailed p 3 0 c sy).fence p { cause := c, block := b, queue := q, opcode := 0xFF, stamp := 0, at_ := s.now, lcycle := (s.part p).lcycle, cls := c.faultClass }

/-- Consecutive word addresses. -/
def addrs (a n : Nat) : List Nat := (List.range n).map (fun i => a + i)

/-- Place addresses in a block's repair queue; a full queue drops the newest (R215). -/
def Block.repairAll (x : Block) (l : List Nat) : Block := { x with repair := (x.repair ++ l).take 16 }

/-- Count and log mended words of tier 0 (R28, R220: logged at most once a second for each block). -/
def State.countMends (s : State) (l : List Nat) : State :=
  match l with
  | [] => s
  | a :: _ =>
    let b := a / 2 ^ 19 % 256
    let s := s.count 0x9400 0x01 l.length
    match s.log.mendAt.find? b with
    | some t => if s.town < t + Config.ticksPerSecond then s
                else ({ s with log := { s.log with mendAt := s.log.mendAt.put b s.town } }).logEvent
                  { cls := 3, counter := 0x9400, sub := 1, inst := b, detail := a * 32 }
    | none => ({ s with log := { s.log with mendAt := s.log.mendAt.put b s.town } }).logEvent
                  { cls := 3, counter := 0x9400, sub := 1, inst := b, detail := a * 32 }

/-- Mended reads of tier 0 words: counted, and their repair queued (R215). -/
def State.mended0 (s : State) (l : List Nat) : State :=
  match l with
  | [] => s
  | a :: _ => (s.setBlock (a / 2 ^ 19 % 256) ((s.block (a / 2 ^ 19 % 256)).repairAll l)).countMends l

/-! ## Completing an operation -/

/-- Free an operation's place (R121). -/
def Block.drop (x : Block) (id : Nat) : Block := { x with inflight := x.inflight.filter (fun o => o.id != id) }

/-- Replace an operation in flight. -/
def Block.putOp (x : Block) (o : Op) : Block := { x with inflight := x.inflight.map (fun y => if y.id = o.id then o else y) }

/-- Every operation that a partition has in flight, with its block. -/
def State.opsOf (s : State) (p : Nat) : List (Nat × Op) :=
  (mapBlocks (s.part p).blockMap).flatMap (fun b => (s.block b).inflight.map (fun o => (b, o)))

/-- A fenced step that has been reported and has nothing in flight is HELD (R132). -/
def State.settle (s : State) (p : Nat) : State :=
  let x := s.part p
  match x.stepState, x.failure with
  | .fenced, some f => if f.closed && (s.opsOf p).isEmpty then s.setPart p { x with stepState := .held } else s
  | _, _ => s

/-- Set a destination tag at completion unless a later writer of the handle has issued (R119). -/
def State.doneTag (s : State) (p h : Nat) (o : Op) : State :=
  if (s.tag p h).writer = o.id then s.markTag p h true o.id else s

/-- Complete an operation: its place is freed, its flag is set, its destination tags are set, and a late profile is counted
(R115, R119, R121, R141). A completion that breaks R115 fails the step and sets nothing. -/
def State.completeOp (s : State) (p b : Nat) (o : Op) (dests : List Nat) : State :=
  let s := s.setBlock b ((s.block b).drop o.id)
  let s := if o.late then s.count (0x9100 + p) 0x0F 1 else s
  match setFlagOf (s.part p) s.now b o.queue o.desc with
  | .error c => (s.failDesc p c b o.queue o.desc).settle p
  | .ok x => (dests.foldl (fun s h => s.doneTag p h o) (s.setPart p x)).settle p

/-- An operation that fails: its place is freed and nothing is set (R217). -/
def State.failOp (s : State) (p b : Nat) (o : Op) (cause : Status) : State :=
  ((s.setBlock b ((s.block b).drop o.id)).failDesc p cause b o.queue o.desc).settle p

end Sys2Proof.Machine
end

