-- ==== Sys2Proof/Machine/Operands.lean ====
section
/-! DEFINITION. Every operand form of the plan descriptors: the decode rules of each family (R63 to R65, R80 to R83, R107 to R112,
R191, R192, R235, R238, R240, R257, R264, R340, R350, R351), the words each operand covers, and the checks at issue (R122). -/
namespace Sys2Proof.Machine

/-! ## Shared decode rules -/

/-- Bytes i to i + n - 1 are zero. -/
def zeroAt (d : Desc) (i n : Nat) : Bool := descBytes d i n == 0

/-- An operand reference is absent or names a handle of 1 to 4,095 (R109, R117). -/
def refOk (r : Nat) : Bool := r == 0 || (decide (1 ≤ opHandle r) && decide (opHandle r < 4096))

/-- The wait fields: an unused one is zero and no flag 0xFFF is waited on (R107, R115). -/
def waitsOk (d : Desc) : Bool :=
  (List.range 4).all (fun i => if waitMask d >>> i % 2 = 1 then waitFlag d i != 0xFFF else waitFlag d i == 0)

def layoutOf (r : Nat) : Nat := opShape r / 4096
def strideOf (r : Nat) : Nat := opShape r % 4096

/-- A present reference of a layout with no stride field. -/
def plainRef (r lay : Nat) : Bool := r != 0 && opShape r == lay * 4096

/-! ## Matrix (R61 to R68) -/

def isNarrow (code : Nat) : Bool := decide (1 ≤ code ∧ code ≤ 7)

def mmaA (d : Desc) : Nat := formatOf d / 16
def mmaB (d : Desc) : Nat := formatOf d % 16
def mmaK (d : Desc) : Nat := descBytes d 48 3 + 1
def mmaM (d : Desc) : Nat := descBytes d 52 1 % 128 + 1
def mmaN (d : Desc) : Nat := descBytes d 53 1 % 128 + 1
def mmaG (d : Desc) : Nat := ceilDiv (mmaK d) 32
def anchorOf (d : Desc) : Int := signed 16 (descBytes d 56 2)
def startBit (d : Desc) : Bool := variant d % 2 == 1
def bankBit (d : Desc) : Nat := variant d / 2 % 2

/-- Bytes of a row block (R66). -/
def rowBytes (code : Nat) : Nat := codeWidth code * 4

/-- Packed words of a K-block of h rows (R66), and of its scales (R67). -/
def panelWords (code h : Nat) : Nat := ceilDiv (h * rowBytes code) 32
def scaleWords (h : Nat) : Nat := ceilDiv h 32

/-- The block period τ of a pairing (R58). -/
def tauOf (a b : Nat) : Nat :=
  if (a = 5 ∨ a = 7) ∧ (b = 5 ∨ b = 7) then 16
  else if a = 8 ∨ a = 9 then 128
  else if a = 2 ∨ b = 2 then 64
  else 32

/-- The stride in force: the packed size where STRIDE is 0 (R65). -/
def strideIn (r packed : Nat) : Nat := if strideOf r = 0 then packed else strideOf r

def strideOk (r lay packed : Nat) : Bool :=
  r != 0 && layoutOf r == lay && (strideOf r == 0 || decide (packed ≤ strideOf r))

/-- The decode rules of MMA (R33, R62 to R65). -/
def mmaOk (d : Desc) : Bool :=
  let a := mmaA d
  let b := mmaB d
  let sa := descBytes d 58 1
  let sb := descBytes d 59 1
  decide (variant d < 4) && decide (modeOf d < 2) && zeroAt d 51 1 && decide (descBytes d 52 1 < 128) && decide (descBytes d 53 1 < 128)
  && zeroAt d 54 2 && zeroAt d 60 2
  && ((isNarrow a && isNarrow b) || (a == b && (a == 8 || a == 9)))
  && decide (sa ≤ 1) && decide (sb ≤ 1) && (sa == 0 || isNarrow a) && (sb == 0 || isNarrow b)
  && strideOk (opnd d 0) 1 (panelWords a (mmaM d)) && strideOk (opnd d 1) 1 (panelWords b (mmaN d))
  && (if sa = 1 then strideOk (opnd d 2) 2 (scaleWords (mmaM d)) else opnd d 2 == 0)
  && (if sb = 1 then strideOk (opnd d 3) 2 (scaleWords (mmaN d)) else opnd d 3 == 0)

/-- The decode rules of ACC_START and ACC_LOAD (R63). -/
def accStartOk (d : Desc) : Bool :=
  startBit d && decide (variant d < 4) && zeroAt d 2 2 && zeroAt d 16 40 && zeroAt d 58 4
def accLoadOk (d : Desc) : Bool :=
  startBit d && decide (variant d < 4) && zeroAt d 2 2 && plainRef (opnd d 0) 3 && zeroAt d 24 28
  && decide (descBytes d 52 1 < 128) && decide (descBytes d 53 1 < 128) && zeroAt d 54 2 && zeroAt d 58 4

/-! ## Vector (R79 to R84) -/

def vecIn (d : Desc) : Nat := formatOf d / 16
def vecOutCode (d : Desc) : Nat := formatOf d % 16
def vecSrc (d : Desc) : Bool := variant d % 2 == 1
def vecWp64 (d : Desc) : Bool := variant d / 4 % 2 == 1
def vecWpOut (d : Desc) : Bool := variant d / 8 % 2 == 1
def vecMerge (d : Desc) : Bool := variant d / 16 % 2 == 1
def vecPost (d : Desc) : Bool := modeOf d % 2 == 1
def vecMX (d : Desc) : Bool := modeOf d / 2 % 2 == 1
def vecCount (d : Desc) : Nat := descBytes d 48 2 % 16384 + 1
def vecRow (d : Desc) : Nat := descBytes d 50 2 % 16384 + 1
def vecRows (d : Desc) : Nat := vecCount d / vecRow d
def vecSub (d : Desc) : Nat := descBytes d 52 1
def userTag (d : Desc) : Nat := descBytes d 54 2

def inputCode (c : Nat) : Bool := c == 1 || c == 2 || c == 6 || c == 8 || c == 9 || c == 10
def floatCode (c : Nat) : Bool := c == 1 || c == 2 || c == 8 || c == 9 || c == 10

/-- An output code of R81. -/
def outputCode (d : Desc) : Bool :=
  if vecMX d then decide (1 ≤ vecOutCode d ∧ vecOutCode d ≤ 5) else floatCode (vecOutCode d)

/-- VARIANT holds only the bits of a mask. -/
def variantIn (d : Desc) (mask : Nat) : Bool := variant d &&& mask == variant d

/-- A dense, scalar, row or column operand of an element-wise operation (R82). -/
def elementRef (r : Nat) : Bool := r != 0 && strideOf r == 0 && decide (4 ≤ layoutOf r ∧ layoutOf r ≤ 7)

/-- The fields every vector descriptor shares (R80, R83). -/
def vecCommonOk (d : Desc) (mxAllowed anchored subop : Bool) : Bool :=
  decide (modeOf d < 4) && (mxAllowed || !vecMX d) && decide (descBytes d 48 2 < 16384) && decide (descBytes d 50 2 < 16384)
  && zeroAt d 53 1 && zeroAt d 58 4 && (anchored || zeroAt d 56 2) && (subop || zeroAt d 52 1) && vecCount d % vecRow d == 0

/-- The corner of a bank fits the array (R83). -/
def bankShapeOk (d : Desc) : Bool := decide (vecRow d ≤ 128) && decide (vecRows d ≤ 128)

/-- The decode rules of each vector opcode (R79 to R83). A field that only another form of the opcode uses is one that the opcode does not use, and is
zero: BASE64 of a SAMPLE with MERGE, BANK with SRC = 1, WPFMT of a READOUT with SRC = 0 or of a REDUCE without WPOUT (R80; DEDUCED, log 89). -/
def vecOk (d : Desc) : Bool :=
  match opcode d with
  | 0x20 =>
    vecCommonOk d true false false && variantIn d (if vecSrc d then 0b101 else 0b010) && outputCode d
    && plainRef (opnd d 0) 4 && (if vecSrc d then plainRef (opnd d 1) 3 else opnd d 1 == 0 && bankShapeOk d)
    && (opnd d 2 == 0 || plainRef (opnd d 2) 7) && (opnd d 3 == 0 || plainRef (opnd d 3) 7)
    && (if opnd d 2 = 0 ∧ opnd d 3 = 0 then vecIn d == 0 else inputCode (vecIn d))
  | 0x21 =>
    vecCommonOk d false false false && variantIn d 0b110 && formatOf d == 0 && bankShapeOk d && plainRef (opnd d 0) 3 && zeroAt d 24 24
  | 0x22 =>
    vecCommonOk d false false false && variantIn d 0b100 && formatOf d == 0 && plainRef (opnd d 0) 3 && plainRef (opnd d 1) 3
    && plainRef (opnd d 2) 3 && (opnd d 3 == 0 || plainRef (opnd d 3) 3)
  | 0x24 =>
    vecCommonOk d true false false && variant d == 0 && inputCode (vecIn d) && outputCode d && plainRef (opnd d 0) 4
    && plainRef (opnd d 1) 4 && zeroAt d 32 16
  | 0x30 =>
    vecCommonOk d false false true && decide (vecSub d ≤ 4) && variant d == 0 && inputCode (vecIn d) && outputCode d
    && plainRef (opnd d 0) 4 && plainRef (opnd d 1) 4 && zeroAt d 32 16
  | 0x31 =>
    let wide := vecWpOut d && decide (vecSub d ≤ 1)
    vecCommonOk d false (decide (vecSub d ≤ 1)) true && decide (vecSub d ≤ 5)
    && variantIn d (if wide then 0b1100 else 0) && inputCode (vecIn d)
    && (if wide then vecOutCode d == 0 else if 4 ≤ vecSub d then vecOutCode d == 11 else floatCode (vecOutCode d))
    && plainRef (opnd d 0) (if wide then 3 else 4) && plainRef (opnd d 1) 4 && zeroAt d 32 16
  | 0x32 =>
    vecCommonOk d false true false && variantIn d 0b100 && inputCode (vecIn d) && floatCode (vecOutCode d) && plainRef (opnd d 0) 4
    && plainRef (opnd d 1) 4 && plainRef (opnd d 2) 6 && plainRef (opnd d 3) 3
  | 0x33 =>
    vecCommonOk d false false false && variant d == 0 && inputCode (vecIn d) && floatCode (vecOutCode d) && plainRef (opnd d 0) 4
    && plainRef (opnd d 1) 4 && plainRef (opnd d 2) 6 && (opnd d 3 == 0 || plainRef (opnd d 3) 7)
  | 0x38 =>
    vecCommonOk d false (!vecMerge d) false && variantIn d 0b10000 && vecOutCode d == 11
    && (if vecMerge d then vecIn d == 0 else inputCode (vecIn d)) && plainRef (opnd d 0) 4 && plainRef (opnd d 1) 4
    && plainRef (opnd d 2) 6 && (opnd d 3 == 0 || (!vecMerge d && plainRef (opnd d 3) 6))
  | op =>
    if 0x28 ≤ op ∧ op ≤ 0x2D then
      vecCommonOk d false false false && variant d == 0 && inputCode (vecIn d) && floatCode (vecOutCode d) && plainRef (opnd d 0) 4
      && plainRef (opnd d 1) 4 && elementRef (opnd d 2) && (if op = 0x2B then elementRef (opnd d 3) else opnd d 3 == 0)
    else false

/-! ## Mover, fabric, serving and control -/

/-- RW, ROWS and n of a COPY or FILL (R191, R194). -/
def rowWords (d : Desc) : Nat := descBytes d 48 3 + 1
def rowCount (d : Desc) : Nat := descBytes d 52 2 + 1
def keyOf (d : Desc) : Nat := descBytes d 60 2
def streamOf (d : Desc) : Nat := variant d % 16

/-- A linear operand with an allowed stride (R192). -/
def linearRef (r rw : Nat) : Bool := r != 0 && layoutOf r == 8 && (strideOf r == 0 || decide (rw ≤ strideOf r))

def slot0 (d : Desc) : Nat := descBytes d 48 2 % 2048
def nslot (d : Desc) : Nat := descBytes d 50 2 % 2048 + 1
/-- The slot fields: in range, and no slot beyond 2,047 (R235). -/
def slotsOk (d : Desc) : Bool :=
  decide (descBytes d 48 2 < 2048) && decide (descBytes d 50 2 < 2048) && decide (slot0 d + nslot d ≤ 2048)

/-- GATHER and SCATTER fields (R238). -/
def pageK (d : Desc) : Nat := formatOf d
def g0na (d : Desc) : Nat := descBytes d 52 2
def gatherNG (d : Desc) : Nat := descBytes d 54 2 + 1
def scatterNA (d : Desc) : Nat := descBytes d 52 2 + 1
def woff (d : Desc) : Nat := descBytes d 56 2
def kvWords (d : Desc) : Nat := descBytes d 58 2 + 1

/-- ROUTE fields (R257). -/
def routeRps (d : Desc) : Nat := descBytes d 52 2 + 1
def routeE (d : Desc) : Nat := descBytes d 54 2 + 1
def routeK (d : Desc) : Nat := descBytes d 56 1 + 1
def routeRows (d : Desc) : Nat := nslot d * routeRps d

/-- SEND and collective fields (R340, R351). -/
def sendDst (d : Desc) : Nat := descBytes d 48 2
def sendHandle (d : Desc) : Nat := descBytes d 50 2
def sendOffset (d : Desc) : Nat := descBytes d 52 4
def sendFlow (d : Desc) : Nat := descBytes d 56 2
def sendWords (d : Desc) : Nat := descBytes d 58 2 + 1
def collDims (d : Desc) : Nat := variant d % 8
def collFlow (d : Desc) : Nat := descBytes d 50 2
def collSeq (d : Desc) : Nat := descBytes d 52 2

/-- The decode rules of the mover, fabric, serving and control opcodes; P and G are the partition's page geometry (R238). -/
def otherOk (pageTokens groupPages : Nat) (d : Desc) : Bool :=
  match opcode d with
  | 0x50 =>
    decide (variant d < 16) && zeroAt d 2 2 && linearRef (opnd d 0) (rowWords d) && linearRef (opnd d 1) (rowWords d)
    && zeroAt d 32 16 && zeroAt d 51 1 && zeroAt d 54 6
  | 0x51 =>
    decide (variant d < 16) && zeroAt d 2 2 && plainRef (opnd d 0) 8 && plainRef (opnd d 1) 8 && zeroAt d 32 16 && zeroAt d 51 1
    && decide (descBytes d 52 2 < 4096) && zeroAt d 54 6
  | 0x54 =>
    decide (variant d < 16) && zeroAt d 2 2 && linearRef (opnd d 0) (rowWords d) && plainRef (opnd d 1) 8 && zeroAt d 32 16
    && zeroAt d 51 1 && zeroAt d 54 6
  | 0x52 =>
    decide (variant d < 16) && zeroAt d 3 1 && plainRef (opnd d 0) 8 && zeroAt d 24 24 && slotsOk d && decide (descBytes d 54 2 < 4096)
    && decide (woff d < 2048 ∧ kvWords d ≤ 2048 ∧ woff d % 4 = 0 ∧ kvWords d % 4 = 0 ∧ woff d + kvWords d ≤ 2048) && zeroAt d 60 2
    && decide (pageK d < groupPages)
  | 0x53 =>
    decide (variant d < 16) && zeroAt d 3 1 && zeroAt d 16 8 && plainRef (opnd d 1) 8 && zeroAt d 32 16 && slotsOk d
    && decide (descBytes d 52 2 < 2048) && zeroAt d 54 2
    && decide (woff d < 2048 ∧ kvWords d ≤ 2048 ∧ woff d % 4 = 0 ∧ kvWords d % 4 = 0 ∧ woff d + kvWords d ≤ 2048 / pageTokens) && zeroAt d 60 2
    && decide (pageK d < groupPages)
  | 0x60 => zeroAt d 1 3 && zeroAt d 16 8 && plainRef (opnd d 1) 8 && zeroAt d 32 16 && decide (sendFlow d < 4096) && zeroAt d 60 2
  | 0x68 => zeroAt d 1 3 && zeroAt d 16 46
  | 0x70 =>
    decide (variant d ≤ 2) && zeroAt d 2 1 && (variant d == 0 || zeroAt d 3 1) && plainRef (opnd d 0) 8 && zeroAt d 24 24 && slotsOk d && zeroAt d 52 10
  | 0x71 =>
    zeroAt d 1 3 && plainRef (opnd d 0) 8 && plainRef (opnd d 1) 8 && zeroAt d 32 16 && slotsOk d && decide (descBytes d 52 2 < 2048)
    && decide (descBytes d 54 2 < 1024) && decide (descBytes d 56 1 < 16) && zeroAt d 57 5
  | 0x72 => zeroAt d 1 3 && zeroAt d 16 32 && slotsOk d && zeroAt d 52 10
  | 0x74 => zeroAt d 1 3 && zeroAt d 16 8 && plainRef (opnd d 1) 8 && zeroAt d 32 16 && slotsOk d && zeroAt d 52 10
  | 0x75 => zeroAt d 1 3 && zeroAt d 16 32 && slotsOk d && zeroAt d 52 10
  | 0x80 => zeroAt d 1 3 && zeroAt d 16 32 && zeroAt d 56 6
  | 0x81 => zeroAt d 1 3 && zeroAt d 16 32 && zeroAt d 56 6
  | op =>
    if 0x61 ≤ op ∧ op ≤ 0x63 then
      decide (variant d < 8) && collDims d != 0 && (formatOf d == 0 || (formatOf d == 10 && op != 0x61)) && zeroAt d 3 1
      && plainRef (opnd d 0) (if formatOf d = 0 then 3 else 4) && plainRef (opnd d 1) (if formatOf d = 0 then 3 else 4)
      && zeroAt d 32 16 && decide (descBytes d 48 2 < 16384) && decide (descBytes d 50 2 < 4096) && zeroAt d 54 8
    else false

/-- The queue of an opcode (R110): matrix, vector, mover, control; none for the reserved ones. -/
def queueOf (op : Nat) : Option Nat :=
  if op < 0x20 then some 0 else if op < 0x50 then some 1 else if op < 0x70 then some 2 else if op < 0x90 then some 3 else none

/-- A descriptor of a queue keeps the decode rules of R107 to R112 and of its family (R113). -/
def wellDecoded (pageTokens groupPages q : Nat) (d : Desc) : Bool :=
  queueOf (opcode d) == some q && waitsOk d && refOk (opnd d 0) && refOk (opnd d 1) && refOk (opnd d 2) && refOk (opnd d 3)
  && (match opcode d with
    | 0 => mmaOk d
    | 8 => accStartOk d
    | 9 => accLoadOk d
    | op => if op < 0x20 then false else if op < 0x50 then vecOk d else otherOk pageTokens groupPages d)

/-! ## Operand uses -/

/-- One operand of a descriptor: its reference, the words it covers from OFFSET, whether it is written, and whether its buffer
must lie in the issuing block (R122). -/
structure Use where
  ref   : Nat
  words : Nat
  write : Bool := false
  local_ : Bool := true
deriving DecidableEq, Repr

/-- Words that hold n elements of a width. -/
def elemWords (n width : Nat) : Nat := ceilDiv (n * width) 256

/-- Words of a vector operand by its layout (R82 to R84). -/
def vecWords (d : Desc) (r : Nat) : Nat :=
  match layoutOf r with
  | 4 => elemWords (vecCount d) (codeWidth (vecIn d))
  | 5 => elemWords 1 (codeWidth (vecIn d))
  | 6 => elemWords (vecRows d) 32
  | _ => elemWords (vecRow d) (codeWidth (vecIn d))

/-- Words of an output in the descriptor's format (R84). -/
def outWords (d : Desc) (n : Nat) : Nat :=
  elemWords n (codeWidth (vecOutCode d)) + (if vecMX d then ceilDiv (ceilDiv n 32) 32 else 0)

def presentUse (r words : Nat) : List Use := if r = 0 then [] else [{ ref := r, words := words }]

/-- The operands of a vector descriptor (R82, R83). -/
def vecUses (d : Desc) : List Use :=
  let n := vecCount d
  let rows := vecRows d
  let wp := wideWords (vecWp64 d)
  let o := fun i => opnd d i
  match opcode d with
  | 0x20 =>
    { ref := o 0, words := outWords d n, write := true } :: ((if vecSrc d then [{ ref := o 1, words := wp n }] else [])
      ++ presentUse (o 2) (vecWords d (o 2)) ++ presentUse (o 3) (vecWords d (o 3)))
  | 0x21 => [{ ref := o 0, words := wp n, write := true }]
  | 0x22 => { ref := o 0, words := wp n, write := true } :: { ref := o 1, words := wp n } :: { ref := o 2, words := wp n } :: presentUse (o 3) (wp n)
  | 0x31 =>
    [{ ref := o 0, words := if vecWpOut d then wp rows else outWords d rows, write := true }, { ref := o 1, words := vecWords d (o 1) }]
  | 0x32 =>
    [{ ref := o 0, words := outWords d n, write := true }, { ref := o 1, words := vecWords d (o 1) },
     { ref := o 2, words := elemWords rows 32 }, { ref := o 3, words := wp rows, write := true }]
  | 0x33 =>
    { ref := o 0, words := outWords d n, write := true } :: { ref := o 1, words := vecWords d (o 1) } :: { ref := o 2, words := elemWords rows 64 }
      :: presentUse (o 3) (elemWords (2 * vecRow d) (codeWidth (vecIn d)))
  | 0x38 =>
    { ref := o 0, words := elemWords rows 64, write := true }
      :: { ref := o 1, words := if vecMerge d then elemWords n 64 else vecWords d (o 1) } :: { ref := o 2, words := rows }
      :: presentUse (o 3) (elemWords rows 32)
  | _ =>
    { ref := o 0, words := outWords d n, write := true } :: { ref := o 1, words := vecWords d (o 1) }
      :: (presentUse (o 2) (vecWords d (o 2)) ++ presentUse (o 3) (vecWords d (o 3)))

/-- Words of a strided extent (R192). -/
def stridedWords (r rw rows : Nat) : Nat := (rows - 1) * strideIn r rw + rw

/-- The operands of the other descriptors, as far as the descriptor alone gives their extents; `chunk` is PREFILL_CHUNK (R235).
The extents of ACC_LOAD and of a wide collective are known only from their header word (R73, R351). -/
def uses (chunk : Nat) (d : Desc) : List Use :=
  let o := fun i => opnd d i
  match opcode d with
  | 0x00 =>
    let g := mmaG d - 1
    let pa := panelWords (mmaA d) (mmaM d)
    let pb := panelWords (mmaB d) (mmaN d)
    let qa := scaleWords (mmaM d)
    let qb := scaleWords (mmaN d)
    { ref := o 0, words := g * strideIn (o 0) pa + pa } :: { ref := o 1, words := g * strideIn (o 1) pb + pb }
      :: (presentUse (o 2) (g * strideIn (o 2) qa + qa) ++ presentUse (o 3) (g * strideIn (o 3) qb + qb))
  | 0x08 => []
  | 0x09 => [{ ref := o 0, words := 1 }]
  | 0x50 =>
    [{ ref := o 0, words := stridedWords (o 0) (rowWords d) (rowCount d), write := true, local_ := false },
     { ref := o 1, words := stridedWords (o 1) (rowWords d) (rowCount d), local_ := false }]
  | 0x51 => [{ ref := o 0, words := 128 * (descBytes d 52 2 + 1), write := true }, { ref := o 1, words := 1, local_ := false }]
  | 0x54 => [{ ref := o 0, words := stridedWords (o 0) (rowWords d) (rowCount d), write := true, local_ := false }, { ref := o 1, words := 1 }]
  | 0x52 => [{ ref := o 0, words := nslot d * gatherNG d * kvWords d, write := true }]
  | 0x53 => [{ ref := o 1, words := nslot d * scatterNA d * kvWords d }]
  | 0x60 => [{ ref := o 1, words := sendWords d }]
  | 0x61 => [{ ref := o 0, words := 1, write := true }, { ref := o 1, words := 1 }]
  | 0x62 => [{ ref := o 0, words := if formatOf d = 0 then 1 else elemWords (vecCount d) 32, write := true },
             { ref := o 1, words := if formatOf d = 0 then 1 else elemWords (vecCount d) 32 }]
  | 0x63 => [{ ref := o 0, words := if formatOf d = 0 then 1 else elemWords (vecCount d) 32, write := true },
             { ref := o 1, words := if formatOf d = 0 then 1 else elemWords (vecCount d) 32 }]
  | 0x70 => [{ ref := o 0, words := if variant d = 2 then nslot d * (chunk / 8) else nslot d, write := true, local_ := false }]
  | 0x71 => [{ ref := o 0, words := ceilDiv (routeRows d * routeK d) 4, write := true, local_ := false },
             { ref := o 1, words := ceilDiv (routeRows d * routeE d) 8, local_ := false }]
  | 0x74 => [{ ref := o 1, words := ceilDiv (nslot d) 4, local_ := false }]
  | op => if 0x20 ≤ op ∧ op < 0x50 then vecUses d else []

/-- The handles a descriptor reads and writes. -/
def sources (d : Desc) : List Nat := ((uses 8 d).filter (fun u => !u.write)).map (fun u => opHandle u.ref)
def dests (d : Desc) : List Nat := ((uses 8 d).filter (fun u => u.write)).map (fun u => opHandle u.ref)

/-- PREFILL_CHUNK, KV_PAGE_TOKENS and KV_GROUP_PAGES of a partition (R243). -/
def State.chunk (s : State) (p : Nat) : Nat := s.objNat (0x5300 + p) 0x09
def State.pageTokens (s : State) (p : Nat) : Nat := s.objNat (0x5300 + p) 0x02
def State.groupPages (s : State) (p : Nat) : Nat := s.objNat (0x5300 + p) 0x03

/-- The checks of R122 on one operand: the causes it breaks. A handle that is not loaded gives RIGHTS (DEDUCED, log 15). -/
def State.useCauses (s : State) (p b : Nat) (u : Use) : List Status :=
  let e := s.handle p (opHandle u.ref)
  if hKind e = 0 then [.rights]
  else
    (if (if u.write then hWrite e else hRead e) then [] else [.rights])
    ++ (if opOffset u.ref + u.words ≤ hSize e ∧ 0 < u.words then [] else [.bounds])
    ++ (if u.local_ && !(hOnBlock e && hBlock e == b) then [.bounds] else [])

/-- The handles of the checkpoint list of a parity (R387). -/
def State.ckptList (s : State) (p q : Nat) : List Nat :=
  let l := s.obj (0x4000 + p) (0x12 + q)
  (List.range (l.length / 2)).map (fun i => leAt l (2 * i) 2)

/-- In a protected partition a descriptor may not write a handle of the list of the step's parity (R388). -/
def State.ckptCauses (s : State) (p : Nat) (d : Desc) : List Status :=
  if s.objNat (0x4000 + p) 0x0C = 1 ∧ (dests d).any (fun h => (s.ckptList p ((s.part p).stepCount % 2)).contains h) then [.rights] else []

/-- The causes of R122 over every operand of a descriptor, and that of R388. -/
def State.operandCauses (s : State) (p b : Nat) (d : Desc) : List Status :=
  (uses (s.chunk p) d).flatMap (s.useCauses p b) ++ s.ckptCauses p d

/-- The word addresses of n words of an operand. -/
def State.opAddrs (s : State) (p : Nat) (r n : Nat) : List Nat := addrs (hAddr (s.handle p (opHandle r)) (opOffset r)) n

/-- The word addresses of a strided operand, in row order (R192). -/
def State.rowAddrs (s : State) (p : Nat) (r rw rows : Nat) : List Nat :=
  let a := hAddr (s.handle p (opHandle r)) (opOffset r)
  (List.range rows).flatMap (fun i => addrs (a + i * strideIn r rw) rw)

/-- Whether every source tag of a descriptor is visible in a district (R120). -/
def State.tagsSeen (s : State) (p : Nat) (d : Desc) (dist : Nat) : Bool :=
  (sources d).all (fun h => s.seen (s.tag p h) dist)

end Sys2Proof.Machine
end

