-- ==== Sys2Proof/Machine/Issue.lean ====
section
/-! DEFINITION. The dispatcher (R120 to R124): checks, holds and the freeze they cause (R146 to R148), places in flight (R121),
and the issue of a head that its engine accepts. -/
namespace Sys2Proof.Machine

/-- The head of a block's queue. -/
def State.head (s : State) (b q : Nat) : Option Desc := ((s.block b).queue q).descs.head?

/-- The logical cycle of a head's check: the latest of S − 8, the entry of its segment, and its predecessor's issue (R120). -/
def checkCycle (entry : Nat) (q : Queue) (d : Desc) : Nat := max (max (stamp d - 8) entry) q.prevIssue

/-- Dispatchers of the partition issue now: its step runs, or is fenced by a failure of this very logical cycle (R124). -/
def State.issuing (s : State) (p : Nat) : Bool :=
  match (s.part p).stepState, (s.part p).failure with
  | .running, _ => true
  | .fenced, some f => s.competes p f && !f.frozen
  | _, _ => false

/-- The partition's logical time stands still. -/
def Part.frozen (x : Part) : Bool := x.freeze.isSome || x.extraBank != 0 || x.extraStreet != 0

/-- A bank of a block that a descriptor reads: READOUT from a bank, or EXPORT (R74, R87). -/
def readsBank (d : Desc) : Option Nat :=
  if opcode d = 0x20 ∧ vecSrc d = false then some (bankBit d)
  else if opcode d = 0x21 then some (bankBit d)
  else none

/-- Every source tag of a head is visible, its bank's among them (R74, R120). -/
def State.readyTags (s : State) (p b : Nat) (d : Desc) : Bool :=
  s.tagsSeen p d (districtOf b) && (match readsBank d with
    | some k => s.seen ((s.block b).bank k).tag (districtOf b)
    | none => true)

/-- District cycles so far of a block's district. -/
def State.wallOf (s : State) (b : Nat) : Nat := (s.district (districtOf b)).cycles

/-- The clock of a block's operations: that of its partition in its district, which a pace wait does not advance (R145, R146). -/
def State.cyclesOf (s : State) (b : Nat) : Nat :=
  match s.partOf b with
  | some p => (s.part p).clocks.get 0 (districtOf b)
  | none => s.wallOf b

/-- One access more at each of the banks of some words (R16). -/
def addUse (t : Table Nat) (l : List Nat) : Table Nat := l.foldl (fun t a => t.put (a % 64) (t.get 0 (a % 64) + 1)) t

/-- The plan's accesses of the present cycle take in the words of a block's memory that are written now (R17). -/
def State.useBanks (s : State) (b : Nat) (l : List Nat) : State :=
  let x := s.block b
  s.setBlock b { x with bankUse := addUse x.bankUse l }

/-! ## What holds an issue -/

/-- Operations in flight that read a bank of the block, and that write it. -/
def Block.bankReaders (x : Block) (k : Nat) : Bool := x.inflight.any (fun o => readsBank o.desc == some k)
def Block.bankWriters (x : Block) (k : Nat) : Bool := x.inflight.any (fun o => o.queue == 0 && bankBit o.desc == k)

/-- The matrix engine does not take the descriptor now (R71, R74, R75). -/
def State.matrixHeld (s : State) (b : Nat) (d : Desc) : Bool :=
  let x := s.block b
  let tau' := if opcode d = 0 then tauOf (mmaA d) (mmaB d) else x.matrixTau
  decide (s.cyclesOf b < x.matrixFree + (x.matrixTau - tau')) || x.bankReaders (bankBit d)
    || (startBit d && x.bankWriters (bankBit d))

/-- The vector engine does not take the descriptor now (R74, R103). -/
def State.vectorHeld (s : State) (b : Nat) (d : Desc) : Bool :=
  let x := s.block b
  decide (s.cyclesOf b < x.vectorFree) || (match readsBank d with
    | some k => x.bankWriters k
    | none => false)

/-- The mover does not take the descriptor now (R194). -/
def State.moverHeld (s : State) (b : Nat) : Bool := decide (s.cyclesOf b < (s.block b).moverFree)

/-- The engine of a queue does not take its head; the control queue has no engine. -/
def State.engineHeld (s : State) (b q : Nat) (d : Desc) : Bool :=
  match q with
  | 0 => s.matrixHeld b d
  | 1 => s.vectorHeld b d
  | 2 => s.moverHeld b
  | _ => false

def engineCause (q : Nat) : HoldCause :=
  match q with
  | 0 => .matrix
  | 1 => .vector
  | _ => .mover

/-- A head is due: its check has passed and the counter has reached its stamp (R120). -/
def State.due (s : State) (p b q : Nat) : Bool :=
  match s.head b q with
  | some d => ((s.block b).queue q).checked && decide (stamp d ≤ (s.part p).lcycle)
  | none => false

/-- A free place for queue q: the queues before it in the order matrix, vector, mover, control take theirs first (R121). -/
def State.hasPlace (s : State) (p b q : Nat) : Bool :=
  let before := ((List.range q).filter (fun r => s.due p b r)).length
  decide ((s.block b).inflight.length + before < 16)

/-! ## The freeze (R146, R148) -/

/-- A cause holds the partition: a freeze begins, or the cause joins the one in progress, which the banks or the street may have begun (R148). -/
def State.hold (s : State) (p : Nat) (h : Hold) : State :=
  let x := s.part p
  if x.stepState ≠ .running then s
  else match x.freeze with
    | some z => if z.holds.contains h then s else s.setPart p { x with freeze := some { z with holds := z.holds ++ [h], done := false } }
    | none =>
      (s.setPart p { x with freeze := some { holds := [h], since := (s.district x.lead).cycles, lcycle := x.lcycle } }).count
        (0x9100 + p) 0x10 (if x.frozen then 0 else 1)

/-- The counter of a cause (R151). -/
def HoldCause.sub : HoldCause → Nat
  | .flag => 2 | .tag => 3 | .bank => 4 | .street => 5 | .matrix => 6 | .vector => 7 | .mover => 8 | .summary => 9
  | .inflight => 10 | .queue => 11 | .segment => 12

/-- A cause is resolved now (R148). -/
def State.resolved (s : State) (p : Nat) (h : Hold) : Bool :=
  match h.cause with
  | .flag => match s.head h.block h.queue with
    | some d => s.flagsSeen p d (districtOf h.block)
    | none => true
  | .tag => match s.head h.block h.queue with
    | some d => s.readyTags p h.block d
    | none => true
  | .matrix => match s.head h.block h.queue with
    | some d => !s.matrixHeld h.block d
    | none => true
  | .vector => match s.head h.block h.queue with
    | some d => !s.vectorHeld h.block d
    | none => true
  | .mover => !s.moverHeld h.block
  | .summary => !(s.block h.block).inflight.any Op.heldRecord
  | .inflight => s.hasPlace p h.block h.queue
  | .queue => decide (0 < ((s.block h.block).queue h.queue).delivered)
  | .segment => (s.part p).choice.isSome
  | .bank => true
  | .street => true

/-- A head held on a failed check that is now ready counts as checked when the freeze ends (R120). -/
def State.passHeld (s : State) (p : Nat) (h : Hold) : State :=
  if h.cause = .flag ∨ h.cause = .tag then
    match s.head h.block h.queue with
    | some d =>
      if s.flagsSeen p d (districtOf h.block) && s.readyTags p h.block d then
        let x := s.block h.block
        s.setBlock h.block (x.setQueue h.queue { x.queue h.queue with checked := true })
      else s
    | none => s
  else s

/-- The first handle of a descriptor whose entry in the handle-table copy fails its check (R211). -/
def State.handleFails (s : State) (p : Nat) (d : Desc) : Option (Status × Check) :=
  ((sources d ++ dests d).map (fun h => flawHandle p (s.handleKey p h))).findSome? s.flawFails

/-! ## Issue -/

/-- The head of a queue that may issue now, with its partition: the step issues, logical time is not frozen, the head's check has
passed and its stamp has come (R120). -/
def State.ready (s : State) (b q : Nat) : Option (Nat × Desc) :=
  match s.partOf b, s.head b q with
  | some p, some d =>
    if s.live && s.issuing p && !(s.part p).frozen && s.due p b q then some (p, d) else none
  | _, _ => none

/-- The head leaves its queue in the present logical cycle (R123). -/
def State.pop (s : State) (p b q : Nat) : State :=
  let x := s.block b
  let v := x.queue q
  (s.setBlock b (x.setQueue q { v with descs := v.descs.tail, delivered := v.delivered - 1, checked := false, prevIssue := (s.part p).lcycle })).wipe [flawQueue b q]

/-- Issue clears the tags of the handles a descriptor writes (R119). -/
def State.clearTags (s : State) (p id : Nat) (hs : List Nat) : State := hs.foldl (fun s h => s.markTag p h false id) s

/-- The operation that a head becomes when it issues now: `dur` district cycles to completion. -/
def State.newOp (s : State) (_p b q : Nat) (d : Desc) (dur : Nat) (w : Work) : Op :=
  { id := s.opCount + 1, queue := q, desc := d, start := s.cyclesOf b, doneAt := s.cyclesOf b + dur, work := w }

/-- Put an operation in flight: it takes a place, and its destination tags are cleared (R119, R121). -/
def State.launch (s : State) (p b : Nat) (o : Op) : State :=
  let x := s.block b
  (({ s with opCount := s.opCount + 1 }).setBlock b { x with inflight := x.inflight ++ [o] }).clearTags p o.id (dests o.desc)

/-- Issue the head of queue q of block b if it is one that `want` accepts (R120 to R122): held while its engine or a place is
wanting, failed on the first cause of R122 or of its own family, else started. -/
def State.issue (s : State) (b q : Nat) (want : Desc → Bool) (more : State → Nat → Desc → List Status)
    (start : State → Nat → Desc → State) : State :=
  match s.ready b q with
  | none => s
  | some (p, d) =>
    if !want d then s
    else if s.engineHeld b q d then s.hold p ⟨engineCause q, b, q⟩
    else if !s.hasPlace p b q then s.hold p ⟨.inflight, b, q⟩
    else match firstCause (s.operandCauses p b d ++ more s p d) with
      | some c => (s.pop p b q).failDesc p c b q d
      | none => start (s.pop p b q) p d

/-- The operations of a block that `want` accepts and whose completion cycle has come, in issue order. -/
def State.dueOps (s : State) (b : Nat) (want : Op → Bool) : List Op :=
  (s.block b).inflight.filter (fun o => s.live && want o && decide (o.doneAt ≤ s.cyclesOf b))

/-- The partition an operation of a block belongs to. -/
def State.ownerOf (s : State) (b : Nat) : Nat := (s.partOf b).getD 0

/-! ## Completion with a summary record (R106) -/

/-- Post a record: it waits in the block until it is delivered. -/
def State.postSummary (s : State) (b : Nat) (r : Word) : State :=
  let x := s.block b
  s.setBlock b { x with summaries := x.summaries ++ [(r, s.now)] }

/-- Complete an operation that may post a record: held while four records wait in the block, or an earlier completion is held. One
that fails posts nothing (R104). A record on its way to the lead core of another district counts among the four until it is delivered
(DEDUCED, log 89). -/
def State.completePosting (s : State) (p b : Nat) (o : Op) (record : Option Word) (finish : State → State) : State :=
  match record with
  | none => finish s
  | some r =>
    let x := s.block b
    if 4 ≤ x.summaries.length ∨ x.inflight.any (fun y => y.heldRecord && decide (y.id < o.id)) then
      (s.setBlock b (x.putOp { o with heldRecord := true })).hold p ⟨.summary, b, o.queue⟩
    else match setFlagOf (s.part p) s.now b o.queue o.desc with
      | .ok _ => (finish s).postSummary b r
      | .error _ => finish s

end Sys2Proof.Machine
end

