-- ==== Sys2Proof/Machine/Matrix.lean ====
section
/-! DEFINITION. The matrix engine (R57 to R76): MMA, its K-block reads and folds, ACC_START, ACC_LOAD, and their completion. -/
namespace Sys2Proof.Machine

/-- The word addresses of K-block g of an MMA, in the order of R69: A's panel, B's, A's scales, B's. -/
def State.mmaBlock (s : State) (p : Nat) (d : Desc) (g : Nat) : List Nat :=
  let part := fun (i packed : Nat) =>
    addrs (hAddr (s.handle p (opHandle (opnd d i))) (opOffset (opnd d i)) + g * strideIn (opnd d i) packed) packed
  part 0 (panelWords (mmaA d) (mmaM d)) ++ part 1 (panelWords (mmaB d) (mmaN d))
    ++ (if opnd d 2 = 0 then [] else part 2 (scaleWords (mmaM d))) ++ (if opnd d 3 = 0 then [] else part 3 (scaleWords (mmaN d)))

/-- A row's elements of a K-block, from the bytes of the panel (R66). -/
def panelElem (code : Nat) (l : List Byte) (r k : Nat) : Num :=
  decodeElem code (elemBits (codeWidth code) ((l.drop (r * rowBytes code)).take (rowBytes code)) k)

/-- What one product does to its cell (R34, R37, R47): a state bit to set, or an exact contribution. -/
inductive Prod where
  | nan
  | inf (neg : Bool)
  | num (v : Int) (e : Int)
deriving DecidableEq, Repr

/-- The product of two elements, negated by NEGATE (R37, R63). R37 does not name the product of two infinities: it is an infinity, signed by the
product of the signs (DEDUCED, log 89). -/
def prodOf (negate : Bool) (a b : Num) : Prod :=
  match a, b with
  | .nan, _ => .nan
  | _, .nan => .nan
  | .inf x, .inf y => .inf ((x != y) != negate)
  | .inf x, .fin y m _ => if m = 0 then .nan else .inf ((x != y) != negate)
  | .fin y m _, .inf x => if m = 0 then .nan else .inf ((x != y) != negate)
  | .fin x m e, .fin y n f => .num (if (x != y) != negate then -(m * n : Nat) else (m * n : Nat)) (e + f)

/-- Put a special product's state bit on an entry (R37). -/
def AccEntry.special_ (x : AccEntry) : Prod → AccEntry
  | .nan => { x with nan := true }
  | .inf false => { x with infp := true }
  | .inf true => { x with infn := true }
  | .num _ _ => x

/-- Fold a K-block into one entry (R34 to R37, R40, R47). A scale of NaN makes every product NaN (R32, R37). Narrow elements share one exponent: their exact products are summed and
folded once; 16-bit products are folded one by one. The second component is the loss. -/
def foldCell (wide : Bool) (anchor : Int) (scale : Option Int) (x : AccEntry) (ps : List Prod) : AccEntry × Bool :=
  let y := ps.foldl AccEntry.special_ x
  if wide then
    ps.foldl (fun (acc : AccEntry × Bool) q => match q with
      | .num v e => let r := foldEntry acc.1 anchor v e; (r.1, acc.2 || r.2)
      | _ => acc) (y, false)
  else
    match scale with
    | none => ({ x with nan := true }, false)
    | some k =>
      let e0 := ps.foldl (fun m q => match q with
        | .num _ e => min m e
        | _ => m) 0
      let sum := ps.foldl (fun t q => match q with
        | .num v e => t + v * 2 ^ (e - e0).toNat
        | _ => t) 0
      foldEntry y anchor sum (e0 + k)

/-- The scale of row r of a K-block: 2^0 where there is no stream (R32, R67). -/
def rowScale (l : List Byte) (r : Nat) : Option Int := scaleExp ((l.getD r 127#8).toNat)

/-- Fold one K-block's words into a bank (R34 to R40). -/
def foldBlock (d : Desc) (g : Nat) (ws : List Word) (k : Bank) : Bank :=
  let a := mmaA d
  let b := mmaB d
  let m := mmaM d
  let n := mmaN d
  let pa := panelWords a m
  let pb := panelWords b n
  let qa := if opnd d 2 = 0 then 0 else scaleWords m
  let bytesA := wordsBytes (ws.take pa)
  let bytesB := wordsBytes ((ws.drop pa).take pb)
  let scA := wordsBytes ((ws.drop (pa + pb)).take qa)
  let scB := wordsBytes (ws.drop (pa + pb + qa))
  let wide := a == 8 || a == 9
  let ks := min 32 (mmaK d - 32 * g)
  let rowsA := (List.range m).map (fun i => (List.range ks).map (panelElem a bytesA i))
  let rowsB := (List.range n).map (fun j => (List.range ks).map (panelElem b bytesB j))
  let negate := modeOf d % 2 == 1
  let cells := rowsA.zipIdx.flatMap (fun (ra, i) => rowsB.zipIdx.map (fun (rb, j) =>
    let scale := match rowScale scA i, rowScale scB j with
      | some x, some y => some (x + y)
      | _, _ => none
    (cell i j, foldCell wide k.anchor scale (k.entry (cell i j)) (List.zipWith (prodOf negate) ra rb))))
  { k with entries := cells.foldl (fun t c => t.put c.1 c.2.1) k.entries, loss := k.loss || cells.any (fun c => c.2.2) }

/-- The checks of an MMA that continues a started bank, at issue (R39, R42). -/
def mmaCauses (s : State) (b : Nat) (d : Desc) : List Status :=
  if startBit d then []
  else
    let k := (s.block b).bank (bankBit d)
    if !k.started then []
    else (if k.anchor = anchorOf d then [] else [.anchorMismatch]) ++ (if k.ksteps + mmaK d ≤ 2 ^ 24 then [] else [.bounds])

/-- The bank's tag is cleared at issue, with the issuing operation as its last writer (R74). -/
def Bank.clearTag (k : Bank) (now dist id : Nat) : Bank := { k with tag := k.tag.change false now dist id }

/-- MMA (R71); one that continues a bank not started, or whose state word fails its check, fails on that word (R64, R211). -/
def execMma (b : Fin 256) (s : State) : Host.Outcome State Fault Refusal :=
  .next (s.issue b.val 0 (fun d => opcode d == 0) (fun s _ d => mmaCauses s b.val d) (fun s p d =>
    if !startBit d && !((s.block b.val).bank (bankBit d)).started then
      (s.readUnstarted p 0 b.val (bankBit d) 10240).failDesc p .unwritten b.val 0 d
    else match if startBit d then none else s.flawFails (accDpa b.val (bankBit d) 10240) with
    | some (c, sy) => (s.readFailed p 0 (accDpa b.val (bankBit d) 10240) c sy).failDesc p c b.val 0 d
    | none =>
    let s := if startBit d then s.wipeBank b.val (bankBit d) else s
    let tau := tauOf (mmaA d) (mmaB d)
    let o := s.newOp p b.val 0 d ((mmaG d + 1) * tau + 12) (.matrix [] [] 0 0)
    let s := s.launch p b.val o
    let x := s.block b.val
    let k := x.bank (bankBit d)
    let k := if startBit d then k.start (anchorOf d) else k
    let k := { k.clearTag s.now (districtOf b.val) o.id with ksteps := k.ksteps + mmaK d }
    s.setBlock b.val { x.setBank (bankBit d) k with matrixFree := s.cyclesOf b.val + mmaG d * tau, matrixTau := tau }))

/-- ACC_START (R72). -/
def execAccStart (b : Fin 256) (s : State) : Host.Outcome State Fault Refusal :=
  .next (s.issue b.val 0 (fun d => opcode d == 8) (fun _ _ _ => []) (fun s p d =>
    let s := s.wipeBank b.val (bankBit d)
    let o := s.newOp p b.val 0 d 4 .plain
    let s := s.launch p b.val o
    let x := s.block b.val
    let k := ((x.bank (bankBit d)).start (anchorOf d)).clearTag s.now (districtOf b.val) o.id
    s.setBlock b.val { x.setBank (bankBit d) k with matrixFree := s.cyclesOf b.val + 4, matrixTau := 0 }))

/-- The checks of R73 on the header of ACC_LOAD, in their order: the failing cause, or the buffer's element type. -/
def accHeader (s : State) (p : Nat) (d : Desc) (h : Word) : Except Status Bool :=
  let r := opnd d 0
  let n := mmaM d * mmaN d
  match headerFormat h with
  | none => .error .anchorMismatch
  | some wp64 =>
    if hSize (s.handle p (opHandle r)) < opOffset r + wideWords wp64 n then .error .bounds
    else if headerAnchor h ≠ anchorOf d ∨ headerCount h ≠ n then .error .anchorMismatch
    else .ok wp64

/-- The entries a wide partial loads (R73). -/
def loadEntries (n : Nat) (x : Wide) : Table AccEntry :=
  x.elems.zipIdx.foldl (fun t (e, i) =>
    let y : AccEntry := match e with
      | .nan => { nan := true }
      | .inf false => { infp := true }
      | .inf true => { infn := true }
      | .fin _ _ _ => { acc := if x.wp64 then e.int * 2 ^ 32 else e.int }
    t.put (cell (i / n) (i % n)) y) []

/-- ACC_LOAD (R72 to R74): the header is read and checked at issue. The bank is started then, its tag clear; its words are read 12 a cycle from
then on, and its elements enter it with the last of them (DEDUCED, log 89). -/
def execAccLoad (b : Fin 256) (s : State) : Host.Outcome State Fault Refusal :=
  .next (s.issue b.val 0 (fun d => opcode d == 9) (fun _ _ _ => []) (fun s p d =>
    let r := readRun s.mem (s.opAddrs p (opnd d 0) 1)
    let s := s.mended0 r.mended
    match r.failed with
    | some (a, c, sy) => (s.readFailed p 0 (a * 32) c sy).failDesc p c b.val 0 d
    | none =>
      match accHeader s p d (r.words.headD 0) with
      | .error c => s.failDesc p c b.val 0 d
      | .ok wp64 =>
        let e := ceilDiv (wideWords wp64 (mmaM d * mmaN d)) 12
        let s := s.wipeBank b.val (bankBit d)
        let o := s.newOp p b.val 0 d (e + 12) (.load wp64 [])
        let s := s.launch p b.val o
        let x := s.block b.val
        let k := ((x.bank (bankBit d)).start (anchorOf d)).clearTag s.now (districtOf b.val) o.id
        s.setBlock b.val { x.setBank (bankBit d) k with matrixFree := s.cyclesOf b.val + e, matrixTau := 0 }))

/-! ## Reading operands (R69, R72) -/

/-- What a matrix operation reads now: the addresses of the K-block or the buffer in progress, the cycle in which its reading began, and how many
of its words have been read. -/
def State.reading (s : State) (p : Nat) (o : Op) : Option (List Nat × Nat × Nat) :=
  match o.work with
  | .matrix _ part n _ => if n < mmaG o.desc then some (s.mmaBlock p o.desc n, o.start + n * tauOf (mmaA o.desc) (mmaB o.desc), part.length) else none
  | .load wp64 part => some (s.opAddrs p (opnd o.desc 0) (wideWords wp64 (mmaM o.desc * mmaN o.desc)), o.start, part.length)
  | _ => none

/-- The words that a matrix operation has to read by a cycle and has not: 12 a cycle (R69, R72). -/
def State.dueReads (s : State) (p : Nat) (o : Op) (cycle : Nat) : List Nat :=
  match s.reading p o with
  | none => []
  | some (l, t, n) => (l.take (12 * (cycle - t))).drop n

/-- The elements of a wide partial that has been read enter its bank (R73). -/
def Bank.loadWide (k : Bank) (d : Desc) (wp64 : Bool) (ws : List Word) : Bank :=
  let v := wideOf wp64 (ws.headD 0) (ws.drop 1)
  { k with entries := loadEntries (mmaN d) v, loss := v.loss || v.ovf }

/-- Words that a matrix operation has read: a K-block that is complete is staged, a buffer that is complete enters its bank. -/
def State.takeReads (s : State) (p b : Nat) (o : Op) (ws : List Word) : State :=
  let x := s.block b
  match o.work with
  | .matrix staged part n done =>
    let l := part ++ ws
    s.setBlock b (x.putOp { o with work := if l.length < (s.mmaBlock p o.desc n).length then .matrix staged l n done else .matrix (staged ++ [l]) [] (n + 1) done })
  | .load wp64 part =>
    let l := part ++ ws
    if l.length < wideWords wp64 (mmaM o.desc * mmaN o.desc) then s.setBlock b (x.putOp { o with work := .load wp64 l })
    else s.setBlock b ((x.setBank (bankBit o.desc) ((x.bank (bankBit o.desc)).loadWide o.desc wp64 l)).putOp { o with work := .plain })
  | _ => s

/-- A matrix operation reads the words that are due (R69, R72). A failing word fails it, and K-blocks that it has read and not folded are dropped with it
(R68, R217; DEDUCED, log 89). -/
def State.stageOp (s : State) (b : Nat) (o : Op) : State :=
  let p := s.ownerOf b
  match s.dueReads p o (s.cyclesOf b) with
  | [] => s
  | l =>
    let r := readRun s.mem l
    let s := s.mended0 r.mended
    match r.failed with
    | some (a, c, sy) => (s.readFailed p 0 (a * 32) c sy).failOp p b o c
    | none => s.takeReads p b o r.words

/-- The matrix operations of a block read what is due. -/
def State.stageBlock (s : State) (b : Nat) : State := (s.block b).inflight.foldl (fun s o => s.stageOp b o) s

/-- The oldest MMA of a block with a staged K-block whose fold is due: g of the fold, written at t + (g + 2)τ + 12 (R59, R71). -/
def State.foldDue (s : State) (b : Nat) : Option (Op × Nat × List Word × List (List Word) × Nat) :=
  (s.block b).inflight.findSome? (fun o => match o.work with
    | .matrix (w :: ws) _ n done =>
      if o.start + (done + 2) * tauOf (mmaA o.desc) (mmaB o.desc) + 12 ≤ s.cyclesOf b then some (o, done, w, ws, n) else none
    | _ => none)

/-- What is left of an MMA's work after a fold: the K-blocks staged behind it, and the number of folds made. -/
def Work.folded (w : Work) (ws : List (List Word)) (g : Nat) : Work :=
  match w with
  | .matrix _ part n _ => .matrix ws part n g
  | w => w

/-- FOLD (R40): the next due K-block of the block's MMAs is folded into its bank. The words of the bank that it updates are read, mended and written
afresh; one that fails its check fails the MMA (R211, R212). -/
def execFold (b : Fin 256) (s : State) : Host.Outcome State Fault Refusal :=
  if !s.live then .next s
  else
    let s := s.stageBlock b.val
    match s.foldDue b.val with
    | none => .next s
    | some (o, g, w, ws, _) =>
      let p := s.ownerOf b.val
      let r := s.flawRun (s.accFlaws b.val (bankBit o.desc) (mmaM o.desc) (mmaN o.desc))
      let s := if r.1.isEmpty then s else (s.wipe r.1).count 0x9400 0x01 r.1.length
      match r.2 with
      | some (k, c, sy) => .next ((s.readFailed p 5 k c sy).failOp p b.val o c)
      | none =>
      let x := s.block b.val
      let k := foldBlock o.desc g w (x.bank (bankBit o.desc))
      .next (s.setBlock b.val ((x.setBank (bankBit o.desc) k).putOp { o with work := o.work.folded ws (g + 1) }))

/-- A matrix operation has made every fold it makes. -/
def Op.folded (o : Op) : Bool :=
  match o.work with
  | .matrix _ _ _ done => decide (mmaG o.desc ≤ done)
  | .load _ _ => false
  | _ => true

/-- MATRIX_COMPLETION (R71, R74): the oldest matrix operation whose cycle has come completes; its bank's tag is set unless a later
matrix operation on the bank has issued. -/
def execMatrixCompletion (b : Fin 256) (s : State) : Host.Outcome State Fault Refusal :=
  match s.dueOps b.val (fun o => o.queue == 0 && o.folded) with
  | [] => .next s
  | o :: _ =>
    let p := s.ownerOf b.val
    let x := s.block b.val
    let k := x.bank (bankBit o.desc)
    let s := if k.tag.writer = o.id then
        s.setBlock b.val (x.setBank (bankBit o.desc) { k with tag := k.tag.change true s.now (districtOf b.val) o.id })
      else s
    .next (s.completeOp p b.val o [])

end Sys2Proof.Machine
end

