-- ==== Sys2Proof/Machine/Trans.lean ====
section
/-! DEFINITION. The transcendental unit (R91 to R95) and the Philox draws of SAMPLE (R99). Coefficients are computed in fixed point
with 160 fraction bits and rounded by rnd48. -/
namespace Sys2Proof.Machine

/-- Fraction bits of the fixed-point arithmetic that finds coefficients. -/
def fxBits : Nat := 160
def fxOne : Int := 2 ^ fxBits
def fxMul (a b : Int) : Int := a * b / 2 ^ fxBits
def fxDiv (a b : Int) : Int := a * 2 ^ fxBits / b

/-- Sum of a power series: n more terms, term number k, the present term, a step to the next, and the sum. -/
def fxSeries : Nat → Nat → Int → (Nat → Int → Int) → Int → Int
  | 0, _, _, _, acc => acc
  | n + 1, k, t, next, acc => fxSeries n (k + 1) (next k t) next (acc + t)

/-- e^x. -/
def fxExp (x : Int) : Int := fxSeries 150 1 fxOne (fun k t => fxMul t x / k) 0

/-- The natural logarithm of x, by 2 artanh((x - 1)/(x + 1)). -/
def fxLn (x : Int) : Int :=
  let z := fxDiv (x - fxOne) (x + fxOne)
  let z2 := fxMul z z
  let r := (List.range 110).foldl (fun (acc : Int × Int) k => (acc.1 + acc.2 / (2 * k + 1 : Nat), fxMul acc.2 z2)) (0, z)
  2 * r.1

def fxLn2 : Int := fxLn (2 * fxOne)

/-- The integer square root by bits, from bit n down. -/
def isqrt : Nat → Nat → Nat → Nat
  | 0, v, r => if (r + 1) * (r + 1) ≤ v then r + 1 else r
  | n + 1, v, r => isqrt n v (if (r + 2 ^ (n + 1)) * (r + 2 ^ (n + 1)) ≤ v then r + 2 ^ (n + 1) else r)

/-- rnd48 of a fixed-point number, in units of 2^-48: nearest, ties to even (R94). -/
def rnd48 (x : Int) : Int :=
  let q := x / 2 ^ (fxBits - 48)
  let r := x % 2 ^ (fxBits - 48)
  let h : Int := 2 ^ (fxBits - 49)
  if h < r ∨ (r = h ∧ q % 2 = 1) then q + 1 else q

/-- rnd48 of a rational a / b with b positive. -/
def rnd48Rat (a b : Int) : Int :=
  let q := a * 2 ^ 48 / b
  let r := a * 2 ^ 48 % b
  if b < 2 * r ∨ (2 * r = b ∧ q % 2 = 1) then q + 1 else q

/-- The coefficients of R94 for function f at midpoint a / b, in units of 2^-48: c0, c1, c2, c3. -/
def coefficients (f : Nat) (a b : Nat) : Int × Int × Int × Int :=
  let m : Int := (a : Int) * fxOne / b
  match f with
  | 0 =>
    let e := fxExp (fxMul m fxLn2)
    let e1 := fxMul e fxLn2
    let e2 := fxMul e1 fxLn2
    let e3 := fxMul e2 fxLn2
    (rnd48 e, rnd48 e1, rnd48 (e2 / 2), rnd48 (e3 / 6))
  | 1 =>
    let c1 := fxDiv (fxDiv fxOne m) fxLn2
    let c2 := fxDiv c1 m
    let c3 := fxDiv c2 m
    (rnd48 (fxDiv (fxLn m) fxLn2), rnd48 c1, rnd48 (-(c2 / 2)), rnd48 (c3 / 3))
  | 2 =>
    let a : Int := a
    let b : Int := b
    (rnd48Rat b a, rnd48Rat (-(b * b)) (a * a), rnd48Rat (b * b * b) (a * a * a), rnd48Rat (-(b * b * b * b)) (a * a * a * a))
  | 3 =>
    let s : Int := isqrt fxBits (2 ^ (2 * fxBits) * b / a) 0
    let s3 := fxDiv s m
    let s5 := fxDiv s3 m
    let s7 := fxDiv s5 m
    (rnd48 s, rnd48 (-(s3 / 2)), rnd48 (3 * s5 / 8), rnd48 (-(5 * s7 / 16)))
  | _ =>
    let e := fxExp (2 * m)
    let t := fxDiv (e - fxOne) (e + fxOne)
    let t2 := fxMul t t
    (rnd48 t, rnd48 (fxOne - t2), rnd48 (-(fxMul t (fxOne - t2))), rnd48 (fxMul (fxOne - t2) (3 * t2 - fxOne) / 3))

/-- The polynomial of R94 at d = dn / 2^ds, in units of 2^-48, truncated after each step. -/
def cubic (c : Int × Int × Int × Int) (dn : Int) (ds : Nat) : Int :=
  let step := fun (ck q : Int) => (ck * 2 ^ ds + dn * q) / 2 ^ ds
  step c.1 (step c.2.1 (step c.2.2.1 c.2.2.2))

/-- Round a signed dyadic v · 2^e once to FP32; the flag is an overflow (R91). -/
def toFP32 (v : Int) (e : Int) : Rounded := fmtFP32.round false (decide (v < 0)) v.natAbs e false

/-- Round a rational (v · 2^e) / den once to FP32. -/
def ratFP32 (v : Int) (den : Nat) (e : Int) : Rounded :=
  let n := v.natAbs * 2 ^ 96
  fmtFP32.round false (decide (v < 0)) (n / den) (e - 96) (decide (n % den ≠ 0))

/-- The integer part and 2^-s fraction of a non-negative magnitude: floor(mag · 2^exp · 2^s). -/
def scaledFloor (v exp : Int) (s : Nat) : Int :=
  let k := exp + s
  if 0 ≤ k then v * 2 ^ k.toNat else v / 2 ^ (-k).toNat

/-- A finite non-zero magnitude as 2^n · y with y in [1, 2), y in units of 2^-23 or finer: n and y · 2^63 (R93). -/
def normalise (mag : Nat) (exp : Int) : Int × Nat :=
  let l := Nat.log2 mag
  (exp + l, mag * 2 ^ 63 / 2 ^ l)

/-- exp2 of a finite value below 128 and at least -151 (R93). -/
def exp2Path (v exp : Int) : Rounded :=
  let f := scaledFloor v exp 32
  let n := f / 2 ^ 32
  let y : Nat := (f % 2 ^ 32).toNat
  let i : Nat := y / 2 ^ 26
  let p := cubic (coefficients 0 (2 * i + 1) 128) ((y : Int) - (2 * i + 1 : Nat) * 2 ^ 25) 32
  toFP32 p (n - 48)

/-- log2 of a positive finite value (R93, R95). -/
def log2Path (mag : Nat) (exp : Int) : Rounded :=
  let inSeries := decide ((2 ^ 6 - 1 : Int) * 2 ^ 200 ≤ scaledFloor mag exp 206 ∧ scaledFloor mag exp 206 < (2 ^ 6 + 1) * 2 ^ 200)
  if inSeries then
    -- x has at most 24 bits and lies near 1, so t is a multiple of 2^-30
    let t := scaledFloor mag exp 30 - 2 ^ 30
    let u : Int := 2 ^ 30
    let l := rnd48 (fxDiv fxOne fxLn2)
    let s := 60 * t * u ^ 4 - 30 * t ^ 2 * u ^ 3 + 20 * t ^ 3 * u ^ 2 - 15 * t ^ 4 * u + 12 * t ^ 5
    ratFP32 (l * s) 60 (-48 - 150)
  else
    let ny := normalise mag exp
    let i := (ny.2 - 2 ^ 63) / 2 ^ 56
    let p := cubic (coefficients 1 (257 + 2 * i) 256) ((ny.2 : Int) - (257 + 2 * i : Nat) * 2 ^ 55) 63
    toFP32 (ny.1 * 2 ^ 48 + p) (-48)

/-- The reciprocal of a finite non-zero value (R93). -/
def recipPath (neg : Bool) (mag : Nat) (exp : Int) : Rounded :=
  let ny := normalise mag exp
  let i := (ny.2 - 2 ^ 63) / 2 ^ 56
  let p := cubic (coefficients 2 (257 + 2 * i) 256) ((ny.2 : Int) - (257 + 2 * i : Nat) * 2 ^ 55) 63
  toFP32 (if neg then -p else p) (-48 - ny.1)

/-- The reciprocal square root of a positive finite value (R93). -/
def rsqrtPath (mag : Nat) (exp : Int) : Rounded :=
  let ny := normalise mag exp
  let odd := ny.1 % 2
  let y := if odd = 1 then 2 * ny.2 else ny.2
  let n := (ny.1 - odd) / 2
  let i := (y - 2 ^ 63) / 2 ^ 57
  let p := cubic (coefficients 3 (129 + 2 * i) 128) ((y : Int) - (129 + 2 * i : Nat) * 2 ^ 56) 63
  toFP32 p (-48 - n)

/-- tanh of a finite value of magnitude below 9 (R93, R95). -/
def tanhPath (neg : Bool) (mag : Nat) (exp : Int) : Rounded :=
  let y := scaledFloor mag exp 63
  if y < 2 ^ 59 then
    let v : Int := if neg then -(mag : Int) else mag
    -- x = v · 2^exp with exp negative: the four terms over 315, in units of 2^(7 exp)
    let u : Int := 2 ^ (-exp).toNat
    let s := 315 * v * u ^ 6 - 105 * v ^ 3 * u ^ 4 + 42 * v ^ 5 * u ^ 2 - 17 * v ^ 7
    ratFP32 s 315 (7 * exp)
  else
    let i := (y / 2 ^ 57).toNat
    let p := cubic (coefficients 4 (2 * i + 1) 128) (y - (2 * i + 1 : Nat) * 2 ^ 56) 63
    toFP32 (if neg then -p else p) (-48)

/-- The function of R91 on an FP32 value: the FP32 code, with the any-overflow of R92 and the any-NaN. -/
def transcend (f : Nat) (x : Num) : Rounded :=
  let inf := fun (n : Bool) => (⟨fmtFP32.infCode n, false, false⟩ : Rounded)
  let zero := fun (n : Bool) => (⟨fmtFP32.sign n, false, false⟩ : Rounded)
  let one := fun (n : Bool) => (⟨fmtFP32.sign n + 0x3F800000, false, false⟩ : Rounded)
  let bad : Rounded := ⟨fmtFP32.nanCode, false, true⟩
  match x with
  | .nan => bad
  | .inf n =>
    match f with
    | 0 => if n then zero false else inf false
    | 1 => if n then bad else inf false
    | 2 => zero n
    | 3 => if n then bad else zero false
    | _ => one n
  | .fin n m e =>
    if m = 0 then
      match f with
      | 0 => one false
      | 1 => inf true
      | 2 => inf n
      | 3 => inf n
      | _ => zero n
    else
      match f with
      | 0 =>
        let v : Int := if n then -(m : Int) else m
        if 128 ≤ scaledFloor v e 0 then ⟨fmtFP32.infCode false, true, false⟩
        else if scaledFloor v e 0 < -151 then zero false
        else exp2Path v e
      | 1 => if n then bad else log2Path m e
      | 2 => recipPath n m e
      | 3 => if n then bad else rsqrtPath m e
      | _ => if 9 * 2 ^ 63 ≤ scaledFloor m e 63 then one n else tanhPath n m e

/-! ## Philox4x32-10 (R99) -/

structure PhiloxState where
  c0 : Nat
  c1 : Nat
  c2 : Nat
  c3 : Nat
  k0 : Nat
  k1 : Nat

/-- One round; the key advances after every round but the last. -/
def philoxRound (x : PhiloxState) : PhiloxState :=
  let p0 := 0xD2511F53 * x.c0
  let p1 := 0xCD9E8D57 * x.c2
  { c0 := (p1 / 2 ^ 32) ^^^ x.c1 ^^^ x.k0, c1 := p1 % 2 ^ 32,
    c2 := (p0 / 2 ^ 32) ^^^ x.c3 ^^^ x.k1, c3 := p0 % 2 ^ 32,
    k0 := (x.k0 + 0x9E3779B9) % 2 ^ 32, k1 := (x.k1 + 0xBB67AE85) % 2 ^ 32 }

/-- Output word `lane` for a seed, draw, step and counter. -/
def philox (seed step draw counter lane : Nat) : Nat :=
  let s0 : PhiloxState := ⟨counter % 2 ^ 32, draw % 2 ^ 32, step % 2 ^ 32, step / 2 ^ 32 % 2 ^ 32, seed % 2 ^ 32, seed / 2 ^ 32 % 2 ^ 32⟩
  let s := (List.range 10).foldl (fun x _ => philoxRound x) s0
  match lane with
  | 0 => s.c0 | 1 => s.c1 | 2 => s.c2 | _ => s.c3

end Sys2Proof.Machine
end

