-- ==== Sys2Proof/Machine/VecMath.lean ====
section
/-! DEFINITION. The arithmetic of the vector engine: exact operations on decoded elements (R85), output encodings (R48 to R50, R84),
reductions (R90), sampling (R99, R101) and summary records (R104, R105). -/
namespace Sys2Proof.Machine

/-! ## Exact operations (R85) -/

def Num.isZero : Num → Bool
  | .fin _ 0 _ => true
  | _ => false

def Num.neg : Num → Num
  | .nan => .nan
  | .inf n => .inf (!n)
  | .fin n m e => .fin (!n) m e

/-- The exact sum; an exact zero sum is +0 unless both addends are −0. -/
def numAdd (a b : Num) : Num :=
  match a, b with
  | .nan, _ => .nan
  | _, .nan => .nan
  | .inf x, .inf y => if x = y then .inf x else .nan
  | .inf x, _ => .inf x
  | _, .inf y => .inf y
  | .fin na ma ea, .fin nb mb eb =>
    if ma = 0 ∧ mb = 0 then .fin (na && nb) 0 0
    else
      let t := align (.fin na ma ea) (.fin nb mb eb)
      Num.ofInt (t.1 + t.2.1) t.2.2

/-- The exact product. -/
def numMul (a b : Num) : Num :=
  match a, b with
  | .nan, _ => .nan
  | _, .nan => .nan
  | .inf x, .inf y => .inf (x != y)
  | .inf x, .fin y m _ => if m = 0 then .nan else .inf (x != y)
  | .fin y m _, .inf x => if m = 0 then .nan else .inf (x != y)
  | .fin na ma ea, .fin nb mb eb => .fin (na != nb) (ma * mb) (ea + eb)

/-- The order of MAX and MIN: −inf, negative, −0, +0, positive, +inf. True when a comes before b. -/
def numLt (a b : Num) : Bool :=
  match a, b with
  | .nan, _ => false
  | _, .nan => false
  | .inf x, .inf y => x && !y
  | .inf x, _ => x
  | _, .inf y => !y
  | .fin na ma ea, .fin nb mb eb =>
    if ma = 0 ∧ mb = 0 then na && !nb
    else
      let t := align (.fin na ma ea) (.fin nb mb eb)
      decide (t.1 < t.2.1)

def numMax (a b : Num) : Num :=
  if a == .nan || b == .nan then .nan else if numLt a b then b else a
def numMin (a b : Num) : Num :=
  if a == .nan || b == .nan then .nan else if numLt b a then b else a

/-! ## Outputs -/

/-- What a vector operation writes and reports: the words of its destinations (word offset within OPND0 or OPND3), and the
fields of its summary record (R104, R105). -/
structure VecOut where
  dest   : List Word := []
  sums   : List Word := []
  max    : Nat := 0xFF800000
  argmax : Nat := 0xFFFFFFFF
  count  : Nat := 0
  loss   : Bool := false
  ovf    : Bool := false
  nan    : Bool := false
  policy : Bool := false
deriving DecidableEq, Repr

/-- Pack output codes into whole words (R84). -/
def packWords (width : Nat) (codes : List Nat) : List Word :=
  bytesWords (ceilDiv (codes.length * width) 256) (packElems width codes)

/-- The greatest non-NaN value of a list with its first position, from position i on (R105). -/
def maxNum : List Num → Nat → Option (Num × Nat) → Option (Num × Nat)
  | [], _, best => best
  | x :: xs, i, best =>
    let best' := match best with
      | none => if x == .nan then none else some (x, i)
      | some (y, j) => if numLt y x then some (x, i) else some (y, j)
    maxNum xs (i + 1) best'

/-- The greatest of a list of indices with its first position (R105). -/
def maxNat : List Nat → Nat → Nat × Nat → Nat × Nat
  | [], _, best => best
  | x :: xs, i, best => maxNat xs (i + 1) (if best.1 < x then (x, i) else best)

/-- Report floating-point outputs (R105). -/
def reportFloats (code : Nat) (codes : List Nat) (o : VecOut) : VecOut :=
  match fmtOf code with
  | none => o
  | some f =>
    let vals := codes.map f.decode
    let best := maxNum vals 0 none
    { o with
      max := match best with
        | some (x, _) => (fmtFP32.encode x).code
        | none => 0xFF800000,
      argmax := match best with
        | some (_, i) => i
        | none => 0xFFFFFFFF,
      count := vals.countP (fun v => !v.isZero),
      nan := o.nan || vals.any (fun v => v == .nan) }

/-- Floating-point outputs: each value rounded once (R48, R49). -/
def outFloats (code : Nat) (vals : List Num) : VecOut :=
  match fmtOf code with
  | none => {}
  | some f =>
    let rs := vals.map f.encode
    reportFloats code (rs.map Rounded.code)
      { dest := packWords (codeWidth code) (rs.map Rounded.code), ovf := rs.any Rounded.overflow }

/-- Rows of a list: chunks of n. -/
def chunks {α : Type} (n : Nat) : Nat → List α → List (List α)
  | 0, _ => []
  | k + 1, l => l.take n :: chunks n k (l.drop n)

/-- One MX run: the scale byte, the codes, and the values they hold (R50). -/
def mxRun (f : Fmt) (emax : Int) (vals : List Num) : Nat × List Nat × Bool :=
  if vals.any (fun v => !v.isFinite) then (0xFF, vals.map (fun _ => 0), false)
  else
    let x := mxScale emax vals
    let rs := vals.map (fun v => match v.scale (127 - (x : Int)) with
      | .fin n m e => f.round true n m e false
      | _ => ⟨0, false, false⟩)
    (x, rs.map Rounded.code, rs.any Rounded.overflow)

/-- MX outputs: elements packed, then scale bytes from the next whole word (R50, R84). Summary values are those of the elements
with their scales; a run with a NaN or an infinity is NaN. -/
def outMX (code : Nat) (vals : List Num) : VecOut :=
  match fmtOf code with
  | none => {}
  | some f =>
    let runs := (chunks 32 (ceilDiv vals.length 32) vals).map (mxRun f (mxEmax code))
    let codes := runs.flatMap (fun r => r.2.1)
    let scales := runs.map Prod.fst
    let shown := runs.flatMap (fun r => r.2.1.map (fun c =>
      match scaleExp r.1 with
      | none => Num.nan
      | some k => (f.decode c).scale k))
    let best := maxNum shown 0 none
    { dest := packWords (codeWidth code) codes ++ bytesWords (ceilDiv scales.length 32) (scales.map (BitVec.ofNat 8)),
      max := match best with
        | some (x, _) => (fmtFP32.encode x).code
        | none => 0xFF800000,
      argmax := match best with
        | some (_, i) => i
        | none => 0xFFFFFFFF,
      count := shown.countP (fun v => !v.isZero),
      ovf := runs.any (fun r => r.2.2), nan := shown.any (fun v => v == .nan) }

/-- Outputs in the format the descriptor names. -/
def outNums (mx : Bool) (code : Nat) (vals : List Num) : VecOut := if mx then outMX code vals else outFloats code vals

/-- U32 outputs (R105). -/
def outU32 (xs : List Nat) : VecOut :=
  match xs with
  | [] => {}
  | x :: t =>
    let b := maxNat t 1 (x, 0)
    { dest := packWords 32 xs, max := b.1, argmax := b.2, count := xs.countP (fun v => v != 0) }

/-- SAMPLE pairs: index and FP32 key (R99, R105). MAX and ARGMAX are of the indices, whatever the keys: outputs whose keys are all NaN are no
outputs that are all NaN (DEDUCED, log 89). -/
def outPairs (ps : List (Nat × Nat)) : VecOut :=
  match ps with
  | [] => {}
  | p :: t =>
    let b := maxNat (t.map Prod.fst) 1 (p.1, 0)
    let key := fun (k : Nat) => fmtFP32.decode k
    { dest := packWords 64 (ps.map (fun q => q.1 + 2 ^ 32 * q.2)), max := b.1, argmax := b.2,
      count := ps.countP (fun q => q.1 != 0 || !(key q.2).isZero), nan := ps.any (fun q => key q.2 == .nan) }

/-- A wide-partial buffer as an output (R105). -/
def outWide (x : Wide) (overflowed : Bool) : VecOut :=
  { dest := x.words, count := x.elems.countP (fun e => e != .fin false 0 0 && !e.isZero), loss := x.loss,
    ovf := overflowed, nan := x.elems.any (fun e => e == .nan), policy := overflowed }

/-! ## Reductions (R90) -/

/-- An element truncated toward minus infinity into units of 2^unit: the integer and whether bits were lost. -/
def truncUnits (unit : Int) (x : Num) : Int × Bool :=
  let d := x.exp - unit
  if 0 ≤ d then (x.int * 2 ^ d.toNat, false)
  else
    let q := x.int / 2 ^ (-d).toNat
    (q, decide (q * 2 ^ (-d).toNat ≠ x.int))

/-- The exact sum of a row in units: the element, overflow (R44), loss. A row with an infinity or NaN is that special value, and a finite element of it
out of range is no overflow (R90; DEDUCED, log 89). -/
def rowSum (wp64 : Bool) (anchor : Int) (xs : List Num) : Num × Bool × Bool :=
  let unit := anchor - (if wp64 then 32 else 64)
  let special := sumElems wp64 xs
  if xs.any (fun x => !x.isFinite) then
    (special.1, false, (xs.filter Num.isFinite).any (fun x => (truncUnits unit x).2))
  else
    let ts := xs.map (truncUnits unit)
    let total := ts.foldl (fun a t => a + t.1) 0
    let lost := ts.any Prod.snd
    let r := wideClip wp64 total
    if r.2 then (r.1, true, lost)
    else match ts.find? (fun t => (wideClip wp64 t.1).2) with
      | some t => ((wideClip wp64 t.1).1, true, lost)
      | none => (r.1, false, lost)

/-- The first index of the extreme of a row, or of its first NaN (R90). -/
def argExtreme (before : Num → Num → Bool) (xs : List Num) : Nat :=
  match xs.findIdx? (fun x => x == .nan) with
  | some i => i
  | none =>
    match xs with
    | [] => 0
    | x :: t => (t.foldl (fun (acc : Nat × Nat × Num) y =>
        if before acc.2.2 y then (acc.1 + 1, acc.1 + 1, y) else (acc.1 + 1, acc.2.1, acc.2.2)) (0, 0, x)).2.1

/-- The row sums of a list of rows, as a wide partial (R90). -/
def rowSums (wp64 : Bool) (anchor : Int) (rows : List (List Num)) : Wide × Bool :=
  let rs := rows.map (rowSum wp64 anchor)
  ({ wp64 := wp64, anchor := anchor, count := rows.length,
     inf := rows.any (fun r => r.any (fun x => match x with | .inf _ => true | _ => false)),
     nan := rs.any (fun r => r.1 == .nan), ovf := rs.any (fun r => r.2.1), loss := rs.any (fun r => r.2.2),
     elems := rs.map Prod.fst }, rs.any (fun r => r.2.1))

/-! ## Sampling (R99) -/

/-- The key of an element with logit z and draw w: z − log2(−log2 u), exact. -/
def gumbelKey (z : Num) (w : Nat) : Num :=
  let u := Num.fin false (2 * (w / 512) + 1) (-24)
  let a := fmtFP32.decode (transcend 1 u).code
  let b := fmtFP32.decode (transcend 1 a.neg).code
  numAdd z b.neg

/-- The order of the numbers: as R85, with the two zeros equal (R99). -/
def valLt (a b : Num) : Bool := numLt a b && !(a.isZero && b.isZero)

/-- The row's choice among candidates (global index, key): the greatest key, the lowest index among equals. -/
def pickBest (lt : Num → Num → Bool) : List (Nat × Num) → Option (Nat × Num) → Option (Nat × Num)
  | [], best => best
  | (g, k) :: t, best =>
    pickBest lt t (match best with
      | none => some (g, k)
      | some (h, q) => if lt q k || (!lt k q && decide (g < h)) then some (g, k) else some (h, q))

/-- The pair written for a row (R99). -/
def pairOf : Option (Nat × Num) → Nat × Nat
  | some (g, k) => (g, (fmtFP32.encode k).code)
  | none => (0xFFFFFFFF, fmtFP32.nanCode)

/-- One row of SAMPLE: record, threshold, logits. -/
def sampleRow (base : Nat) (record : Word) (threshold : Option Num) (zs : List Num) : Nat × Nat :=
  let seed := field record 0 64
  let step := field record 64 64
  let draw := field record 128 8
  let cands := zs.zipIdx.filterMap (fun (z, i) =>
    let g := base + i
    let out := z == .nan || (match threshold with
      | some t => valLt z t
      | none => false)
    if out then none else some (g % 2 ^ 32, gumbelKey z (philox seed step draw (g / 4) (g % 4))))
  pairOf (pickBest valLt cands none)

/-- One row of a merge (R101). -/
def mergeRow (ps : List (Nat × Num)) : Nat × Nat := pairOf (pickBest numLt (ps.filter (fun p => p.2 != .nan)) none)

/-! ## Summary records (R104) -/

def summaryRecord (bankstate stamp_ opcode_ block tag : Nat) (o : VecOut) : Word :=
  let b := fun (c : Bool) => if c then 1 else 0
  BitVec.ofNat 256 (place 192 64 bankstate ||| place 160 32 stamp_ ||| place 152 8 opcode_ ||| place 128 16 block
    ||| place 112 16 tag ||| place 98 1 (b o.loss) ||| place 97 1 (b o.ovf) ||| place 96 1 (b o.nan)
    ||| place 64 32 o.count ||| place 32 32 o.argmax ||| place 0 32 o.max)

end Sys2Proof.Machine
end

