-- ==== Sys2Proof/Machine/Vector.lean ====
section
/-! DEFINITION. The vector engine (R77 to R106): the results of each operation, its timing, its completion, and the delivery of
summary records. Sources are read and results formed at issue; the words are written at completion (DEDUCED, log 16). -/
namespace Sys2Proof.Machine

/-! ## Sources -/

/-- The elements of an operand in a format. -/
def elemsOf (code n : Nat) (ws : List Word) : List Num :=
  let l := wordsBytes ws
  (List.range n).map (fun i => decodeElem code (elemBits (codeWidth code) l i))

/-- The element an operand gives at each position, by its layout (R82). -/
def layOut (d : Desc) (r : Nat) (ws : List Word) : List Num :=
  let n := vecCount d
  let l := vecRow d
  match layoutOf r with
  | 4 => elemsOf (vecIn d) n ws
  | 5 => List.replicate n ((elemsOf (vecIn d) 1 ws).headD .nan)
  | 6 => let xs := elemsOf 10 (vecRows d) ws; (List.range n).map (fun i => xs.getD (i / l) .nan)
  | _ => let xs := elemsOf (vecIn d) l ws; (List.range n).map (fun i => xs.getD (i % l) .nan)

/-- The words of OPND1 to OPND3 as read, and the bank and policy in force (R44): what an operation computes from. -/
structure VecArgs where
  desc  : Desc
  one   : List Word := []
  two   : List Word := []
  three : List Word := []
  bank  : Bank := {}
deriving DecidableEq, Repr

/-- The rows of the dense source. -/
def VecArgs.rows (a : VecArgs) : List (List Num) :=
  chunks (vecRow a.desc) (vecRows a.desc) (elemsOf (vecIn a.desc) (vecCount a.desc) a.one)

/-- A float output of a list of exact values, in the descriptor's format. -/
def VecArgs.out (a : VecArgs) (vals : List Num) : VecOut := outNums (vecMX a.desc) (vecOutCode a.desc) vals

/-! ## Results -/

/-- A wide source as read; its header must show WPFMT and COUNT (R80, R86, R89). -/
def wideSource (d : Desc) (ws : List Word) : Except Status Wide :=
  match ws with
  | [] => .error .anchorMismatch
  | h :: t =>
    if headerFormat h = some (vecWp64 d) ∧ headerCount h = vecCount d then .ok (wideOf (vecWp64 d) h t) else .error .anchorMismatch

/-- What READOUT reads of an entry: its value, and whether it is overflowed (R44, R49). -/
def entryNum (anchor : Int) (x : AccEntry) : Num × Bool :=
  if x.special then (x.specialNum, false)
  else if x.overflowed then
    (match x.saturated with
      | none => .nan
      | some v => (Num.ofInt v 0).scale (anchor - 64), true)
  else ((Num.ofInt x.acc 0).scale (anchor - 64), false)

/-- The unit of a wide partial's element (R52, R53). -/
def wideUnit (wp64 : Bool) (anchor : Int) : Int := anchor - (if wp64 then 32 else 64)

/-- s_j · v + b_j, exact (R86, R98): an absent scale is 1, an absent bias +0. -/
def scaleBias (a : VecArgs) (vals : List Num) : List Num :=
  let n := vecCount a.desc
  let sc := if opnd a.desc 2 = 0 then List.replicate n (Num.fin false 1 0) else layOut a.desc (opnd a.desc 2) a.two
  let bi := if opnd a.desc 3 = 0 then List.replicate n (Num.fin false 0 0) else layOut a.desc (opnd a.desc 3) a.three
  (List.zipWith numMul sc vals).zipWith numAdd bi

/-- READOUT (R86). -/
def readoutOf (a : VecArgs) : Except Status VecOut :=
  if vecSrc a.desc then
    match wideSource a.desc a.one with
    | .error c => .error c
    | .ok x =>
      let o := a.out (scaleBias a (x.elems.map (fun v => v.scale (wideUnit x.wp64 x.anchor))))
      .ok { o with loss := x.loss }
  else
    let n := vecRow a.desc
    let xs := (List.range (vecCount a.desc)).map (fun i => a.bank.entry (cell (i / n) (i % n)))
    let es := xs.map (entryNum a.bank.anchor)
    let o := a.out (scaleBias a (es.map Prod.fst))
    .ok { o with loss := a.bank.loss, ovf := o.ovf || es.any Prod.snd, policy := es.any Prod.snd,
                 nan := o.nan || xs.any AccEntry.special }

/-- EXPORT (R88). -/
def exportOf (a : VecArgs) : Except Status VecOut :=
  let n := vecRow a.desc
  let r := a.bank.export (vecWp64 a.desc) (vecRows a.desc) n
  let o := outWide r.1 r.2
  .ok { o with nan := o.nan || r.1.nan || r.1.inf }

/-- WPADD (R89). -/
def wpaddOf (a : VecArgs) : Except Status VecOut :=
  match wideSource a.desc a.one, wideSource a.desc a.two with
  | .ok x, .ok y =>
    let rest : Except Status (List Wide) := if opnd a.desc 3 = 0 then .ok [y] else (match wideSource a.desc a.three with
      | .ok z => .ok [y, z]
      | .error c => .error c)
    match rest with
    | .error c => .error c
    | .ok l => if wideMatch x l then let r := wideAdd x l; .ok (outWide r.1 r.2) else .error .anchorMismatch
  | _, _ => .error .anchorMismatch

/-- CVT (R85): the sign of a zero is kept, as R85's rounding of a finite value keeps it (DEDUCED, log 89: R49's +0 is of entries). -/
def cvtOf (a : VecArgs) : Except Status VecOut := .ok (a.out (elemsOf (vecIn a.desc) (vecCount a.desc) a.one))

/-- An element-wise operation of two operands (R85). -/
def pairwiseOf (f : Num → Num → Num) (a : VecArgs) : Except Status VecOut :=
  .ok (a.out (List.zipWith f (elemsOf (vecIn a.desc) (vecCount a.desc) a.one) (layOut a.desc (opnd a.desc 2) a.two)))

/-- FMA: OPND1 × OPND2 + OPND3, never split (R85). -/
def fmaOf (a : VecArgs) : Except Status VecOut :=
  let xy := List.zipWith numMul (elemsOf (vecIn a.desc) (vecCount a.desc) a.one) (layOut a.desc (opnd a.desc 2) a.two)
  .ok (a.out (xy.zipWith numAdd (layOut a.desc (opnd a.desc 3) a.three)))

/-- TRANS: the FP32 value, then a further rounding where the output is narrower (R91). The truncations within the evaluation (R93, R94) set no LOSS
(R104; DEDUCED, log 89). -/
def transOf (f : Nat) (a : VecArgs) : Except Status VecOut :=
  let rs := (elemsOf (vecIn a.desc) (vecCount a.desc) a.one).map (transcend f)
  let o := a.out (rs.map (fun r => fmtFP32.decode r.code))
  .ok { o with ovf := o.ovf || rs.any Rounded.overflow }

/-- REDUCE SUM and SUMSQ (R90). -/
def sumOf (square : Bool) (a : VecArgs) : Except Status VecOut :=
  let rows := if square then a.rows.map (fun r => r.map (fun x => numMul x x)) else a.rows
  let wp64 := vecWpOut a.desc && vecWp64 a.desc
  let anchor := anchorOf a.desc
  let r := rowSums wp64 anchor rows
  if vecWpOut a.desc then .ok { outWide r.1 r.2 with loss := r.1.loss }
  else
    let o := a.out (r.1.elems.map (fun v => v.scale (wideUnit false anchor)))
    .ok { o with loss := r.1.loss, ovf := o.ovf || r.2, policy := r.2 }

/-- REDUCE MAX and MIN (R90). -/
def extremeOf (f : Num → Num → Num) (a : VecArgs) : Except Status VecOut :=
  .ok (a.out (a.rows.map (fun r => match r with
    | [] => .nan
    | x :: t => t.foldl f x)))

/-- REDUCE ARGMAX and ARGMIN (R90). -/
def argOf (before : Num → Num → Bool) (a : VecArgs) : Except Status VecOut := .ok (outU32 (a.rows.map (argExtreme before)))

/-- EXPSUM (R97): the values q, and the exact row sums of the FP32 values. -/
def expsumOf (a : VecArgs) : Except Status VecOut :=
  let ms := layOut a.desc (opnd a.desc 2) a.two
  let xs := elemsOf (vecIn a.desc) (vecCount a.desc) a.one
  let ds := List.zipWith (fun x m => fmtFP32.encode (numAdd x (Num.neg m))) xs ms
  let qs := ds.map (fun r => transcend 0 (fmtFP32.decode r.code))
  let vals := qs.map (fun r => fmtFP32.decode r.code)
  let s := rowSums (vecWp64 a.desc) (anchorOf a.desc) (chunks (vecRow a.desc) (vecRows a.desc) vals)
  let o := a.out vals
  let w := outWide s.1 s.2
  .ok { o with sums := w.dest, loss := w.loss, nan := o.nan || w.nan, policy := s.2,
               ovf := o.ovf || w.ovf || ds.any Rounded.overflow || qs.any Rounded.overflow }

/-- NORMSCALE: ((x − μ) · ρ) · g + b, exact until the last rounding (R98). -/
def normscaleOf (a : VecArgs) : Except Status VecOut :=
  let l := vecRow a.desc
  let st := elemsOf 10 (2 * vecRows a.desc) a.two
  let gb := if opnd a.desc 3 = 0 then List.replicate l (Num.fin false 1 0) ++ List.replicate l (Num.fin false 0 0)
    else elemsOf (vecIn a.desc) (2 * l) a.three
  let xs := elemsOf (vecIn a.desc) (vecCount a.desc) a.one
  .ok (a.out (xs.zipIdx.map (fun (x, i) =>
    let r := i / l
    let k := i % l
    numAdd (numMul (numMul (numAdd x (Num.neg (st.getD (2 * r) .nan))) (st.getD (2 * r + 1) .nan)) (gb.getD k .nan)) (gb.getD (l + k) .nan))))

/-- SAMPLE (R99). -/
def sampleOf (a : VecArgs) : Except Status VecOut :=
  let base := 64 * descBytes a.desc 56 2
  let th := elemsOf 10 (vecRows a.desc) a.three
  .ok (outPairs (a.rows.zipIdx.map (fun (zs, r) =>
    sampleRow base (a.two.getD r 0) (if opnd a.desc 3 = 0 then none else th[r]?) zs)))

/-- SAMPLE with MERGE (R101). -/
def mergeOf (a : VecArgs) : Except Status VecOut :=
  let l := wordsBytes a.one
  let ps := (List.range (vecCount a.desc)).map (fun i => (leAt l (8 * i) 4, fmtFP32.decode (leAt l (8 * i + 4) 4)))
  .ok (outPairs ((chunks (vecRow a.desc) (vecRows a.desc) ps).map mergeRow))

/-! ## Timing (R102) -/

/-- 16-bit mode (R77). -/
def shortMode (d : Desc) : Bool :=
  (opcode d == 0x24 || decide (0x28 ≤ opcode d ∧ opcode d ≤ 0x2D)) && decide (codeWidth (vecIn d) ≤ 16)
    && decide (codeWidth (vecOutCode d) ≤ 16) && layoutOf (opnd d 2) != 6 && layoutOf (opnd d 3) != 6

/-- Words that the operands written, or read, cover. -/
def useWords (d : Desc) (write : Bool) : Nat :=
  (((vecUses d).filter (fun u => u.write == write)).map Use.words).foldl (· + ·) 0

/-- Transcendental evaluations. -/
def evaluations (d : Desc) : Nat :=
  if opcode d = 0x30 ∨ opcode d = 0x32 then vecCount d else if opcode d = 0x38 ∧ vecMerge d = false then 2 * vecCount d else 0

/-- Busy cycles B (R102). -/
def vecBusy (d : Desc) : Nat :=
  max (max 1 (ceilDiv (vecCount d) (if shortMode d then 512 else 256)))
    (max (ceilDiv (useWords d false) 32) (max (ceilDiv (useWords d true) 16) (ceilDiv (evaluations d) 64)))

/-- P of an operation, and how many of its cycles are those that A1 adds (R102). -/
def vecLatency (d : Desc) : Nat × Nat :=
  match opcode d with
  | 0x33 => (14, 0)
  | 0x22 => (14, 0)
  | 0x20 => (16, 0)
  | 0x21 => (16, 0)
  | 0x31 => (24, 0)
  | 0x30 => (25, 1)
  | 0x32 => (35, 1)
  | 0x38 => if vecMerge d then (24, 0) else (56, 2)
  | _ => (12, 0)

/-- The profile of the running plan (R139). -/
def Part.profile (x : Part) : Nat :=
  match x.plan with
  | some pl => pl.profile
  | none => 1

/-- Whether the part runs at its own B0 figures: B0 under a B0 profile (R139, R140). -/
def atB0 (profile : Nat) : Bool := profile == 2 && Config.steppingB0

/-! ## Issue -/

/-- A destination that overlaps a source of the same handle at another offset (R83). -/
def overlapCauses (d : Desc) : List Status :=
  let us := vecUses d
  if us.any (fun u => u.write && us.any (fun v => !v.write && opHandle u.ref == opHandle v.ref && opOffset u.ref != opOffset v.ref
      && decide (opOffset u.ref < opOffset v.ref + v.words) && decide (opOffset v.ref < opOffset u.ref + u.words)))
  then [.bounds] else []

/-- The words of one operand among the uses read. -/
def wordsOf (us : List Use) (r : Nat) (ws : List Word) : List Word :=
  match us with
  | [] => []
  | u :: t => if u.ref = r then ws.take u.words else wordsOf t r (ws.drop u.words)

/-- The accumulator overflow policy of a partition: FAIL (R45). -/
def State.accFail (s : State) (p : Nat) : Bool := s.objNat (0x4000 + p) 0x0D == 0

/-- Put a computed vector operation in flight. -/
def State.launchVector (s : State) (p b : Nat) (d : Desc) (o : VecOut) : State :=
  let lat := vecLatency d
  let profile := (s.part p).profile
  let busy := vecBusy d
  let base := s.newOp p b 1 d (busy + lat.1 + (if atB0 profile then 0 else lat.2)) .plain
  let at_ := fun (i : Nat) (ws : List Word) => (s.opAddrs p (opnd d i) ws.length).zip ws
  let state := match readsBank d with
    | some k => ((s.block b).bank k).word
    | none => 0
  let record := if vecPost d then some (summaryRecord state (stamp d) (opcode d) b (userTag d) o) else none
  let op := { base with work := .vector (at_ 0 o.dest ++ at_ 3 o.sums) record, late := lat.2 != 0 && profile == 2 && !atB0 profile }
  let s := s.launch p b op
  s.setBlock b { s.block b with vectorFree := s.cyclesOf b + busy }

/-- Issue a vector descriptor that `want` accepts, its result being `f` of what it reads (R83, R87, R102, R103). A word that fails its check comes before
a header that does not match and an overflow, though R124's order has those first: they are known only from words read (DEDUCED, log 89). -/
def State.issueVector (s : State) (b : Nat) (want : Desc → Bool) (f : VecArgs → Except Status VecOut) : State :=
  s.issue b 1 want (fun _ _ d => overlapCauses d) (fun s p d =>
    let bank := (s.block b).bank (bankBit d)
    if (readsBank d).isSome && !bank.started then (s.readUnstarted p 1 b (bankBit d) 0).failDesc p .unwritten b 1 d
    else
      let us := (vecUses d).filter (fun u => !u.write)
      let r := readRun s.mem (us.flatMap (fun u => s.opAddrs p u.ref u.words))
      let s := s.mended0 r.mended
      let acc := if (readsBank d).isSome then s.flawRun (s.accFlaws b (bankBit d) (vecRows d) (vecRow d)) else ([], none)
      let s := if acc.1.isEmpty then s else s.count 0x9400 0x01 acc.1.length
      match r.failed, acc.2 with
      | some (a, c, sy), _ => (s.readFailed p 1 (a * 32) c sy).failDesc p c b 1 d
      | none, some (k, c, sy) => (s.readFailed p 1 k c sy).failDesc p c b 1 d
      | none, none =>
        match f { desc := d, one := wordsOf us (opnd d 1) r.words, two := wordsOf us (opnd d 2) r.words,
                  three := wordsOf us (opnd d 3) r.words, bank := bank } with
        | .error c => s.failDesc p c b 1 d
        | .ok o => if o.policy && s.accFail p then s.failDesc p .accOverflow b 1 d else s.launchVector p b d o)

def execReadout (b : Fin 256) (s : State) : Host.Outcome State Fault Refusal :=
  .next (s.issueVector b.val (fun d => opcode d == 0x20) readoutOf)
def execExportBank (b : Fin 256) (s : State) : Host.Outcome State Fault Refusal :=
  .next (s.issueVector b.val (fun d => opcode d == 0x21) exportOf)
def execWpadd (b : Fin 256) (s : State) : Host.Outcome State Fault Refusal :=
  .next (s.issueVector b.val (fun d => opcode d == 0x22) wpaddOf)
def execCvt (b : Fin 256) (s : State) : Host.Outcome State Fault Refusal :=
  .next (s.issueVector b.val (fun d => opcode d == 0x24) cvtOf)
def execAdd (b : Fin 256) (s : State) : Host.Outcome State Fault Refusal :=
  .next (s.issueVector b.val (fun d => opcode d == 0x28) (pairwiseOf numAdd))
def execSub (b : Fin 256) (s : State) : Host.Outcome State Fault Refusal :=
  .next (s.issueVector b.val (fun d => opcode d == 0x29) (pairwiseOf (fun x y => numAdd x y.neg)))
def execMul (b : Fin 256) (s : State) : Host.Outcome State Fault Refusal :=
  .next (s.issueVector b.val (fun d => opcode d == 0x2A) (pairwiseOf numMul))
def execFma (b : Fin 256) (s : State) : Host.Outcome State Fault Refusal :=
  .next (s.issueVector b.val (fun d => opcode d == 0x2B) fmaOf)
def execMax (b : Fin 256) (s : State) : Host.Outcome State Fault Refusal :=
  .next (s.issueVector b.val (fun d => opcode d == 0x2C) (pairwiseOf numMax))
def execMin (b : Fin 256) (s : State) : Host.Outcome State Fault Refusal :=
  .next (s.issueVector b.val (fun d => opcode d == 0x2D) (pairwiseOf numMin))

/-- TRANS with a SUBOP (R91). -/
def isTrans (f : Nat) (d : Desc) : Bool := opcode d == 0x30 && vecSub d == f

def execTransExp2 (b : Fin 256) (s : State) : Host.Outcome State Fault Refusal :=
  .next (s.issueVector b.val (isTrans 0) (transOf 0))
def execTransLog2 (b : Fin 256) (s : State) : Host.Outcome State Fault Refusal :=
  .next (s.issueVector b.val (isTrans 1) (transOf 1))
def execTransReciprocal (b : Fin 256) (s : State) : Host.Outcome State Fault Refusal :=
  .next (s.issueVector b.val (isTrans 2) (transOf 2))
def execTransReciprocalSquareRoot (b : Fin 256) (s : State) : Host.Outcome State Fault Refusal :=
  .next (s.issueVector b.val (isTrans 3) (transOf 3))
def execTransTanh (b : Fin 256) (s : State) : Host.Outcome State Fault Refusal :=
  .next (s.issueVector b.val (isTrans 4) (transOf 4))

/-- REDUCE with a SUBOP (R90). -/
def isReduce (f : Nat) (d : Desc) : Bool := opcode d == 0x31 && vecSub d == f

def execReduceSum (b : Fin 256) (s : State) : Host.Outcome State Fault Refusal :=
  .next (s.issueVector b.val (isReduce 0) (sumOf false))
def execReduceSumsq (b : Fin 256) (s : State) : Host.Outcome State Fault Refusal :=
  .next (s.issueVector b.val (isReduce 1) (sumOf true))
def execReduceMax (b : Fin 256) (s : State) : Host.Outcome State Fault Refusal :=
  .next (s.issueVector b.val (isReduce 2) (extremeOf numMax))
def execReduceMin (b : Fin 256) (s : State) : Host.Outcome State Fault Refusal :=
  .next (s.issueVector b.val (isReduce 3) (extremeOf numMin))
def execReduceArgmax (b : Fin 256) (s : State) : Host.Outcome State Fault Refusal :=
  .next (s.issueVector b.val (isReduce 4) (argOf numLt))
def execReduceArgmin (b : Fin 256) (s : State) : Host.Outcome State Fault Refusal :=
  .next (s.issueVector b.val (isReduce 5) (argOf (fun x y => numLt y x)))
def execExpsum (b : Fin 256) (s : State) : Host.Outcome State Fault Refusal :=
  .next (s.issueVector b.val (fun d => opcode d == 0x32) expsumOf)
def execNormscale (b : Fin 256) (s : State) : Host.Outcome State Fault Refusal :=
  .next (s.issueVector b.val (fun d => opcode d == 0x33) normscaleOf)
def execSample (b : Fin 256) (s : State) : Host.Outcome State Fault Refusal :=
  .next (s.issueVector b.val (fun d => opcode d == 0x38 && !vecMerge d) sampleOf)
def execSampleMerge (b : Fin 256) (s : State) : Host.Outcome State Fault Refusal :=
  .next (s.issueVector b.val (fun d => opcode d == 0x38 && vecMerge d) mergeOf)

/-! ## Completion and summaries -/

/-- The writes and the record of a vector operation. -/
def Op.vecWrites (o : Op) : List (Nat × Word) :=
  match o.work with
  | .vector ws _ => ws
  | _ => []
def Op.record (o : Op) : Option Word :=
  match o.work with
  | .vector _ r => r
  | _ => none

/-- Write an operation's words, complete it and post its record, unless the completion is held (R102, R106). The words of its last cycle take their
banks now (R77). -/
def State.finishVector (s : State) (b : Nat) (o : Op) : State :=
  let p := s.ownerOf b
  let l := o.vecWrites.map Prod.fst
  s.completePosting p b o o.record (fun s => ((s.useBanks b (l.drop (16 * (ceilDiv l.length 16 - 1)))).writeWords o.vecWrites).completeOp p b o (dests o.desc))

/-- VECTOR_COMPLETION (R102). -/
def execVectorCompletion (b : Fin 256) (s : State) : Host.Outcome State Fault Refusal :=
  match s.dueOps b.val (fun o => o.queue == 1 && !o.heldRecord) with
  | [] => .next s
  | o :: _ => .next (s.finishVector b.val o)

/-- SUMMARY_HOLD_RELEASE (R106): the oldest held completion of the block takes place once a place for its record is free. -/
def execSummaryHoldRelease (b : Fin 256) (s : State) : Host.Outcome State Fault Refusal :=
  if !s.live then .next s
  else
    match (s.block b.val).inflight.filter Op.heldRecord with
    | [] => .next s
    | o :: _ => .next (s.finishVector b.val o)

/-- Whether a block's oldest record may reach its core by now (R116, R170). -/
def State.recordThere (s : State) (b lead : Nat) : Bool :=
  match (s.block b).summaries with
  | [] => false
  | (_, t) :: _ => decide (t + s.seenAfter (districtOf b) lead t ≤ s.now)

/-- The cycle in which a block's oldest record was posted. -/
def State.postedAt (s : State) (b : Nat) : Nat :=
  match (s.block b).summaries with
  | [] => 0
  | (_, t) :: _ => t

/-- SUMMARY_DELIVERY (R106, R170): the block's oldest record enters the queue of the partition's slot at its lead core, after those that are there and were
posted earlier, or in the same cycle in a lower block. It raises interrupt cause 16 where the queue was empty. A full queue leaves it in the block. -/
def execSummaryDelivery (b : Fin 256) (s : State) : Host.Outcome State Fault Refusal :=
  if !s.live then .next s
  else
    match s.partOf b.val, (s.block b.val).summaries with
    | some p, (r, _) :: rest =>
      let x := s.part p
      let before := (mapBlocks x.blockMap).any (fun c =>
        (decide (s.postedAt c < s.postedAt b.val) || s.postedAt c == s.postedAt b.val && decide (c < b.val)) && s.recordThere c x.lead)
      if s.recordThere b.val x.lead && !before && decide (x.routine.mailbox.length < 64) then
        let s := s.setBlock b.val { s.block b.val with summaries := rest }
        let t := s.setPart p { x with routine := { x.routine with mailbox := x.routine.mailbox ++ [r] } }
        .next (if x.routine.mailbox.isEmpty then t.raise (s.leadCore p) 16 else t)
      else .next s
    | _, _ => .next s

end Sys2Proof.Machine
end

