-- ==== Sys2Proof/Machine/Banks.lean ====
section
/-! DEFINITION. The cycles of block memory's banks (R17, R18, R70, R77, R103): the accesses of the plan clients in a cycle of a block's clock, the
further cycles that they need, and the banks left for the landing port and the service clients; and the short accumulators (R58, R59). -/
namespace Sys2Proof.Machine

/-- The part of a list that is served in the cycle numbered j since its first, at a rate of words a cycle. -/
def perCycle (rate j : Nat) (l : List Nat) : List Nat := (l.drop (rate * j)).take rate

/-- The words that a matrix operation reads in a cycle: 12 of the K-block or the buffer in progress (R69, R72). -/
def State.matrixAccess (s : State) (p : Nat) (o : Op) (c : Nat) : List Nat :=
  match o.work with
  | .matrix _ _ _ _ =>
    let tau := tauOf (mmaA o.desc) (mmaB o.desc)
    if (c - o.start) / tau < mmaG o.desc then perCycle 12 ((c - o.start) % tau) (s.mmaBlock p o.desc ((c - o.start) / tau)) else []
  | .load wp64 _ => perCycle 12 (c - o.start) (s.opAddrs p (opnd o.desc 0) (wideWords wp64 (mmaM o.desc * mmaN o.desc)))
  | _ => []

/-- The words that a vector operation reads and writes in a cycle: 32 sources a cycle from issue, and 16 results a cycle, the last of them in its
completion cycle (R77; the spread is DEDUCED, log 90). Those of the completion cycle itself are counted when it completes. -/
def State.vectorAccess (s : State) (p : Nat) (o : Op) (c : Nat) : List Nat :=
  let reads := perCycle 32 (c - o.start) (((vecUses o.desc).filter (fun u => !u.write)).flatMap (fun u => s.opAddrs p u.ref u.words))
  match o.work with
  | .vector writes _ =>
    let n := ceilDiv writes.length 16
    if c < o.doneAt ∧ o.doneAt < c + n then reads ++ perCycle 16 (c + n - 1 - o.doneAt) (writes.map Prod.fst) else reads
  | _ => reads

/-- The words that a mover operation reads of its own block in a cycle: two, as it sends them (R19, R195), and a FILL its one word at issue. -/
def State.moverAccess (s : State) (p : Nat) (o : Op) (c : Nat) : List Nat :=
  let d := o.desc
  match opcode d with
  | 0x50 => if hOnBlock (s.handle p (opHandle (opnd d 1))) then perCycle 2 (c - o.start) (s.rowAddrs p (opnd d 1) (rowWords d) (rowCount d)) else []
  | 0x53 => perCycle 2 (c - o.start) (s.opAddrs p (opnd d 1) (nslot d * scatterNA d * kvWords d))
  | 0x54 => if c = o.start then s.opAddrs p (opnd d 1) 1 else []
  | 0x60 => perCycle 2 (c - o.start) (s.opAddrs p (opnd d 1) (sendWords d))
  | _ => []

/-- The accesses of a block's engines in a cycle of its clock, each with its operation, in the order in which a bank serves them: matrix, vector,
mover (R17). An operation that a bank delays makes none until it has been served. -/
def State.accesses (s : State) (p b c : Nat) : List (Op × List Nat) :=
  let ops := fun (q : Nat) => (s.block b).inflight.filter (fun o => o.queue == q && decide (o.start ≤ c) && decide (o.stall ≤ c))
  (ops 0).map (fun o => (o, s.matrixAccess p o c)) ++ (ops 1).map (fun o => (o, s.vectorAccess p o c)) ++ (ops 2).map (fun o => (o, s.moverAccess p o c))

/-- The plan's accesses at each bank of a block in the present cycle: what has been written, and what its engines read and write. -/
def State.planUse (s : State) (b : Nat) : Table Nat :=
  (s.accesses (s.ownerOf b) b (s.cyclesOf b)).foldl (fun t e => addUse t e.2) (s.block b).bankUse

/-- The further cycles that a block's banks need for the plan's accesses of this cycle (R17, R70, R103). -/
def State.bankExtra (s : State) (b : Nat) : Nat := (s.planUse b).values.foldl max 1 - 1

/-- A bank of a block is free for a word in the present cycle: no plan client claims it, and no other client has used it (R18). -/
def State.bankFree (s : State) (b a : Nat) : Bool :=
  (s.planUse b).get 0 (a % 64) == 0 && !(s.block b).bankOther.contains (a % 64)

/-- The landing port or a service client uses a bank of a block in the present cycle. -/
def State.useBank (s : State) (b a : Nat) : State :=
  let x := s.block b
  s.setBlock b { x with bankOther := x.bankOther ++ [a % 64] }

/-- A word that has landed waits for the bank of a word: the landing port is served before service clients (R18). -/
def Block.landsAt (x : Block) (a : Nat) : Bool := x.landing.any (fun v => v.addr % 64 == a % 64)

/-- A service client may use the bank of a word of block memory in the present cycle (R18). -/
def State.serviceFree (s : State) (b a : Nat) : Bool := s.bankFree b a && !(s.block b).landsAt a

/-- An operation is delayed by its banks in a freeze: it runs n cycles later, and its engine is free as much later (R17). -/
def State.delayOp (s : State) (b : Nat) (o : Op) (n : Nat) : State :=
  let x := s.block b
  let c := s.cyclesOf b
  let x := x.putOp { o with start := o.start + n, doneAt := o.doneAt + n, stall := c + n + 1 }
  s.setBlock b (match o.queue with
    | 0 => { x with matrixFree := x.matrixFree + n }
    | 1 => { x with vectorFree := x.vectorFree + n }
    | _ => { x with moverFree := x.moverFree + n })

/-- The accesses of a frozen cycle meet in the banks of a block: each bank serves them one a cycle in the priority of R17, which delays the engines
and adds no slip. -/
def State.delayBlock (s : State) (b : Nat) : State :=
  ((s.accesses (s.ownerOf b) b (s.cyclesOf b)).foldl (fun (acc : Table Nat × State) e =>
    let t := addUse acc.1 e.2
    let n := (e.2.map (fun a => t.get 0 (a % 64))).foldl max 1 - 1
    (t, if n = 0 then acc.2 else acc.2.delayOp b e.1 n)) ((s.block b).bankUse, s)).2

/-! ## Words from the channels (R15, R19, R26) -/

/-- The first delivery in the order of R20 and R22: the earliest, then source block, then word index. -/
def firstDelivery : List Delivery → Option Delivery → Option Delivery
  | [], best => best
  | v :: t, best => firstDelivery t (match best with
    | none => some v
    | some w => if v.due < w.due ∨ (v.due = w.due ∧ (v.source < w.source ∨ (v.source = w.source ∧ v.index < w.index))) then some v else some w)

/-- One word that has come enters the landing buffer, while that holds fewer than its 64 (R15, R26): over the mesh, or from the decompressor. -/
def Block.eject (x : Block) (now : Nat) (mesh : Bool) : Block :=
  if 64 ≤ x.landing.length then x
  else match firstDelivery (x.arriving.filter (fun v => v.mesh == mesh && decide (v.due ≤ now))) none with
    | none => x
    | some v => { x with arriving := x.arriving.erase v, landing := x.landing ++ [v] }

/-- What enters the landing buffer in a cycle: at most two words of the mesh (R19), and at most two of the decompressor (R203). -/
def Block.ejects (x : Block) (now : Nat) : Block := (((x.eject now true).eject now true).eject now false).eject now false

/-! ## The short accumulators (R34 to R36, R58, R59) -/

/-- The unit exponent u of a code's elements (R30). -/
def unitExp (code : Nat) : Int :=
  match fmtOf code with
  | some f => 1 - f.bias - f.mbits
  | none => 0

/-- The short accumulators of an MMA's cells after the first n products of its K-block g: the sum, or L and H of R36. -/
def shortSums (d : Desc) (g n : Nat) (ws : List Word) : Table Int × Table Int :=
  let a := mmaA d
  let b := mmaB d
  let bytesA := wordsBytes (ws.take (panelWords a (mmaM d)))
  let bytesB := wordsBytes ((ws.drop (panelWords a (mmaM d))).take (panelWords b (mmaN d)))
  let ks := min n (min 32 (mmaK d - 32 * g))
  let split := tauOf a b == 64
  let u := unitExp a + unitExp b
  let part := fun (high : Bool) (i j : Nat) => (List.range ks).foldl (fun (t : Int) k =>
    match prodOf (modeOf d % 2 == 1) (panelElem a bytesA i k) (panelElem b bytesB j k) with
    | .num v e =>
      let sh := (e - u).toNat
      if split && decide (30 ≤ sh) then (if high then t + v * 2 ^ (sh - 30) else t) else if high then t else t + v * 2 ^ sh
    | _ => t) 0
  let all := fun (high : Bool) => (List.range (mmaM d)).flatMap (fun i => (List.range (mmaN d)).map (fun j => (cell i j, part high i j)))
  let table := fun (high : Bool) => (all high).foldl (fun (t : Table Int) e => t.put e.1 e.2) []
  (table false, if split then table true else [])

/-- The short accumulators over one cycle of an MMA in flight (R59): in the period of K-block g its products enter the primary, two, one or, of an
E5 pairing, one in the first 32 cycles, into L or H; at the end of a period the sum moves to the shadow. H16 uses neither. -/
def Block.shortCycle (x : Block) (c : Nat) (o : Op) : Block :=
  match o.work with
  | .matrix staged _ _ done =>
    let d := o.desc
    let tau := tauOf (mmaA d) (mmaB d)
    let t := c - o.start
    if tau = 128 ∨ t < tau then x
    else
      let g := t / tau - 1
      let j := t % tau
      let moved := j == 0 && decide (0 < g)
      if mmaG d ≤ g then (if moved ∧ tau ≠ 64 ∧ mmaG d = g then { x with shadow := x.primary, primary := [] } else x)
      else match staged[g - done]? with
        | none => x
        | some ws =>
          let sums := shortSums d g (if tau = 16 then 2 * (j + 1) else j + 1) ws
          if tau = 64 then { x with primary := sums.1, shadow := sums.2 }
          else { x with primary := sums.1, shadow := if moved then x.primary else x.shadow }
  | _ => x

end Sys2Proof.Machine
end

