-- ==== Sys2Proof/Machine/Tiers.lean ====
section
/-! DEFINITION. Tiers 1 to 3 (R177 to R190): pseudo-channels, encryption, and reads and writes of encrypted words; service traffic and
its token buckets (R187, R285). -/
namespace Sys2Proof.Machine

/-- The pseudo-channel of a tier-1 word address, and its local word address (R177). -/
def channelOf (a : Nat) : Nat := a / 2 ^ 27 % 256
def localWord (a : Nat) : Nat := a % 2 ^ 27
/-- The word address of local word l of pseudo-channel c. -/
def tier1 (c l : Nat) : Nat := 2 ^ 49 + c * 2 ^ 27 + l
/-- Words of a pseudo-channel, and the first of its firmware region (R177, R180). -/
def channelWords : Nat := 0xA0000000 / 32
def firmwareWord : Nat := 0x9C000000 / 32

/-- The pseudo-channels that a partition owns, ascending (R182, R183). -/
def State.channelsOf (s : State) (p : Nat) : List Nat :=
  (List.range 256).filter (fun c => s.objNat (0x6100 + c) 0x01 == p)

/-- A key index names a valid key of a tenant (R188). -/
def State.keyOk (s : State) (i t : Nat) : Bool := i != 0 && (s.key i).valid && (s.key i).tenant == t

/-- A word as a tier stores it: encrypted under the key with its address as tweak, check bits over the ciphertext (R188, R189). -/
def State.sealWord (s : State) (key a : Nat) (w : Word) : Stored := encodeWord (xts true (s.key key).material a w)

/-- Where the check word of the group of data offset x lies in the backing of a window of d data bytes (R189). -/
def checkOffset (d x : Nat) : Nat := d + 32 * (x / 256)

/-- The check word of the group of a word of tier 2 or 3: slot i holds the check bits of word i of the group (R189). They stand beside the words in `mem`, so a write of
words replaces their slots and carries the others over, one write at a time. -/
def State.checkWord (s : State) (a : Nat) : Word :=
  BitVec.ofNat 256 ((List.range 8).foldl (fun v i => v ||| place (32 * i) 32 (s.readWord (a / 8 * 8 + i)).check.toNat) 0)

/-- Write words to a tier at the addresses given. -/
def State.writeTier (s : State) (key : Nat) : List (Nat × Word) → State
  | [] => s
  | (a, w) :: t => (s.writeWord a (s.sealWord key a w)).writeTier key t

/-- Count and log mended reads of a tier (R220). -/
def State.mendedTier (s : State) (l : List Nat) : State :=
  match l with
  | [] => s
  | a :: _ =>
    let sub := if tierOf a = 1 then 2 else 3
    let k := 256 + channelOf a
    let s := s.count 0x9400 sub l.length
    let recent := match s.log.mendAt.find? k with
      | some t => decide (s.town < t + Config.ticksPerSecond)
      | none => false
    if recent then s
    else ({ s with log := { s.log with mendAt := s.log.mendAt.put k s.town } }).logEvent
      { cls := 3, counter := 0x9400, sub := sub, inst := channelOf a, detail := a * 32 }

/-- Mended reads of a tier by a block: counted, and the repair of tier-1 words queued in that block (R215). -/
def State.mendedBy (s : State) (b : Nat) (l : List Nat) : State :=
  let ours := l.filter (fun a => tierOf a == 1)
  let s := if ours.isEmpty then s else s.setBlock b ((s.block b).repairAll ours)
  s.mendedTier l

/-- Read words of a tier: mended, then decrypted (R189). -/
def State.readTier (s : State) (key : Nat) (l : List Nat) : ReadRun :=
  let r := readRun s.mem l
  { r with words := List.zipWith (fun a w => xts false (s.key key).material a w) l r.words }

/-! ## The ports of tiers 2 and 3 (R190, R399, R400, R415) -/

/-- The root port of a tier-2 word address, and the host port of a tier-3 one (R177). -/
def cxlPort (a : Nat) : Nat := a / 2 ^ 35 % 4
def hostPort (a : Nat) : Nat := a / 2 ^ 35 % 2

/-- The port behind a word address is there: a CXL device that is UP, a host port whose link is up. -/
def State.tierUp (s : State) (a : Nat) : Bool :=
  match tierOf a with
  | 2 => s.objNat (0x8020 + cxlPort a) 0x01 == 1
  | 3 => (s.pcie.get {} (hostPort a)).up
  | _ => true

/-- The port behind a word address serves now: a host port must have trained at 16 GT/s or more. -/
def State.tierServes (s : State) (a : Nat) : Bool := tierOf a != 3 || s.portFast (hostPort a)

/-- An access to tier 3 waits for its port to train, which is counted. -/
def State.noteSlow (s : State) (a : Nat) : State :=
  if tierOf a = 3 && s.tierUp a && !s.tierServes a then s.count (0x9C00 + hostPort a) 0x06 1 else s

/-- An access to a port that is not there fails with FAULT; on CXL it is counted (R424). -/
def State.portFault (s : State) (a : Nat) : State :=
  if tierOf a = 2 then s.countLog { cls := 9, counter := 0x9C10 + cxlPort a, sub := 0x02, status := Status.fault.code, inst := cxlPort a, detail := a * 32 }
  else s

/-! ## Service traffic -/

/-- A tenant's bucket of a class holds no unit back (R285). -/
def State.bucketFree (s : State) (t cls : Nat) : Bool := !(s.tenant t).waiting.any (fun w => w.1 == cls)

/-- The rate and the size of a bucket in force: those of its objects at the last refill (R285); before it the objects' defaults. -/
def State.bucketTerms (s : State) (t cls : Nat) : Nat × Nat := (s.tenant t).terms.get (0, 64) cls

/-- The level of a bucket; it starts full (R285). -/
def State.bucketLevel (s : State) (t cls : Nat) : Nat := (s.tenant t).levels.get (1024 * (s.bucketTerms t cls).2) cls

/-- The bytes of one unit of a class: the 128 of R179, and of the avenues a whole packet. The unit of a port of tiers 2 and 3 is not given (DESIGN
CHOICE, log 17). -/
def bucketUnit (cls bytes : Nat) : Nat := if cls = 3 then bytes else min 128 bytes

/-- Whole units pass while a level covers them: the level after, and the bytes left waiting (R285). -/
def passUnits (cls level bytes : Nat) : Nat × Nat :=
  if bytes ≤ level then (level - bytes, 0)
  else
    let n := level / max 1 (bucketUnit cls bytes) * bucketUnit cls bytes
    (level - n, bytes - n)

/-- Charge bytes of service traffic to a tenant's bucket: units that the level does not cover, or that come behind others, wait in order (R285). A rate
of 0 takes no bytes. The data has moved by the event that is charged, and the next event of the class waits until its last units have passed
(DESIGN CHOICE, log 17). -/
def State.charge (s : State) (t cls bytes : Nat) : State :=
  if (s.bucketTerms t cls).1 = 0 then s
  else
    let x := s.tenant t
    let r := if s.bucketFree t cls then passUnits cls (s.bucketLevel t cls) bytes else (s.bucketLevel t cls, bytes)
    s.setTenant t { x with levels := x.levels.put cls r.1, waiting := if r.2 = 0 then x.waiting else x.waiting ++ [(cls, r.2)] }

/-- The bucket class of service traffic at a word address: tier 1, CXL, host (R285). -/
def classOf (a : Nat) : Nat := tierOf a - 1

/-- Put service units on a pseudo-channel for n words from a word address: aligned units of four words (R179, R187). -/
def State.serviceUnits (s : State) (a n : Nat) : State :=
  if tierOf a = 1 ∧ 0 < n then
    let x := s.channel (channelOf a)
    s.setChannel (channelOf a) { x with service := x.service ++ [(a / 4 * 4, (a + n - 1) / 4 + 1 - a / 4)] }
  else s

/-- The code of a slot of the frame (R183); slots 240 to 255 are refresh. -/
def Channel.code (x : Channel) (slot : Nat) : Nat := if 240 ≤ slot then 0xFF else (x.record.getD slot 0).toNat

/-- The eleven slots after a slot are unclaimed or refresh: a service unit may go in it (R187). -/
def Channel.clearAfter (x : Channel) (slot : Nat) : Bool := (List.range 11).all (fun i => let k := x.code ((slot + 1 + i) % 256); k == 0 || k == 0xFF)

/-- Some slot of a pseudo-channel's frame takes service units (R187, R205). -/
def Channel.opens (x : Channel) : Bool := (List.range 240).any (fun slot => x.code slot == 0 && x.clearAfter slot)

/-- The service units of earlier traffic at a word address have been carried, and its pseudo-channel has slots for more (R187, R205). -/
def State.serviceOpen (s : State) (a : Nat) : Bool := tierOf a != 1 || ((s.channel (channelOf a)).service.isEmpty && (s.channel (channelOf a)).opens)

/-- Service traffic of a tenant at a word address may go now: slots, where it has any, and the tenant's bucket (R187, R190, R285). The words of one
event move together, and its units are carried after it (DESIGN CHOICE, log 17). -/
def State.serviceReady (s : State) (t : Option Nat) (a : Nat) : Bool :=
  s.serviceOpen a && (match t with
    | some t => s.bucketFree t (classOf a)
    | none => true)

/-- Account for a service move of n words at an address on behalf of a tenant (R187, R286). -/
def State.serviceMove (s : State) (tenant : Option Nat) (a n : Nat) : State :=
  let s := s.serviceUnits a n
  match tenant with
  | some t => s.charge t (classOf a) (32 * n)
  | none => s

/-- Clear a range of words and count them (R214, R220). -/
def State.clearRange (s : State) (a n : Nat) : State := ({ s with mem := s.mem.clear a n }).count 0x9400 0x09 n

/-! ## KV frames (R228 to R230) -/

/-- Words of a KV page. -/
def frameWords : Nat := 2048

/-- The pseudo-channel of directory index j of a partition (R229). -/
def State.kvChannel (s : State) (p j : Nat) : Option Nat :=
  let pcs := s.objNat (0x5300 + p) 0x05
  if pcs = 0 then none
  else (s.channelsOf p)[s.objNat (0x5300 + p) 0x04 + (j % s.groupPages p) % pcs]?

/-- The word address of frame f of the pseudo-channel of index j. -/
def State.frameAddr (s : State) (p j f : Nat) : Option Nat :=
  (s.kvChannel p j).map (fun c => tier1 c (s.objNat (0x5300 + p) 0x06 / 32 + f * frameWords))

/-- The requests of a partition that are not FREE, by index. -/
def State.requestsOf (s : State) (p : Nat) : List (Nat × Request) :=
  s.requests.filter (fun e => e.2.partition == p && e.2.state != .free)

/-- A frame of the pseudo-channel of index j is held by a request of the partition. -/
def State.frameUsed (s : State) (p j f : Nat) : Bool :=
  (s.requestsOf p).any (fun e => (e.2.dir ++ e.2.shadow ++ e.2.newFrames).any (fun d => d.2 == f && s.kvChannel p d.1 == s.kvChannel p j))

/-- The key of a frame among the holders: where its words lie, whatever the geometry of the pool (R229). -/
def State.frameKey (s : State) (p j f : Nat) : Nat := (s.frameAddr p j f).getD 0 / frameWords

/-- A frame can be cleared now: its pseudo-channel has slots for it (R205, R229). -/
def State.clearable (s : State) (p j f : Nat) : Bool :=
  match s.frameAddr p j f with
  | some a => s.serviceOpen a
  | none => true

/-- The lowest frame for index j that tenant t may take: free, and last held by t or cleared; else the lowest free one that can be
cleared first (R229). -/
def State.pickFrame (s : State) (p t j : Nat) : Option Nat :=
  let free := (List.range (s.objNat (0x5300 + p) 0x07)).filter (fun f => !s.frameUsed p j f)
  match free.find? (fun f => let h := s.serving.holders.get 0 (s.frameKey p j f); h == 0 || h == t + 1) with
  | some f => some f
  | none => free.find? (s.clearable p j)

/-- Take a frame for index j for a tenant: one that another tenant last held is cleared first, in service slots (R229). -/
def State.takeFrame (s : State) (p t j f : Nat) : State :=
  let k := s.frameKey p j f
  let h := s.serving.holders.get 0 k
  let s := if h = t + 1 then s else match s.frameAddr p j f with
    | some a => if h = 0 then s.clearRange a frameWords else (s.clearRange a frameWords).serviceUnits a frameWords
    | none => s
  { s with serving := { s.serving with holders := s.serving.holders.put k (t + 1) } }

/-- How many pool frames of a partition are free. -/
def State.freeFrames (s : State) (p : Nat) : Nat :=
  s.objNat (0x5300 + p) 0x05 * s.objNat (0x5300 + p) 0x07
    - ((s.requestsOf p).map (fun e => e.2.dir.length + e.2.shadow.length + e.2.newFrames.length)).foldl (· + ·) 0

end Sys2Proof.Machine
end

