-- ==== Sys2Proof/Machine/Mover.lean ====
section
/-! DEFINITION. The movers, the streets and the tier calendars (R19 to R28, R181 to R207, R238, R239): COPY, FILL, WSTREAM, GATHER and
SCATTER, the words they deliver, and the slots of the pseudo-channels. -/
namespace Sys2Proof.Machine

/-! ## Deliveries (R20 to R28) -/

/-- The directed channels of the x-then-y routes between the districts of a map (R7, R270). -/
def channelsOfMap (m : BitVec 256) : List Nat :=
  let ds := mapDistricts m
  (ds.flatMap (fun d => ds.flatMap (fun e => let r := route d e; List.zipWith (fun u v => 16 * u + v) r (r.drop 1)))).eraseDups

/-- The lowest unassigned slot of a channel (R24). -/
def State.freeSlot (s : State) (c : Nat) : Option Nat :=
  (List.range 16).find? (fun k => s.parts.all (fun e => !e.2.channels.contains (c, k)))

/-- The slots of the channel from district d to its neighbour e that a partition may use (R24, R270). -/
def Part.roadSlots (x : Part) (d e : Nat) : List Nat := (x.channels.filter (fun c => c.1 == 16 * d + e)).map Prod.snd

/-- The first wall cycle from t on in which a channel's slot is one of some slots: the slot is the sending district's counter (R24), which is taken
to go on by one in a nominal cycle (DESIGN CHOICE, log 18). -/
def State.slotCycle (s : State) (d : Nat) (slots : List Nat) (t : Nat) : Nat :=
  ((addrs t 16).find? (fun c => slots.contains (((s.district d).slotCounter + (c - s.now)) % 16))).getD t

/-- A word of a partition that reaches the channel from d to e in wall cycle t: it waits for the partition's slot, behind the words sent before it,
32 to a slot (R24, R26). The cycle in which it crosses, and the state with its place taken. -/
def State.crossing (s : State) (p d e t : Nat) : Nat × State :=
  let x := s.district d
  let slots := (s.part p).roadSlots d e
  let last := x.roads.get (0, 0) (64 * e + p)
  let c := s.slotCycle d slots (max t last.1)
  let (c, n) := if c ≠ last.1 then (c, 1) else if last.2 < 32 then (c, last.2 + 1) else (s.slotCycle d slots (c + 1), 1)
  (c, s.setDistrict d { x with roads := x.roads.put (64 * e + p) (c, n) })

/-- A word of a partition on its way along a route: 15 cycles for each crossing, beside the wait for a slot at each (R26). -/
def State.travel (s : State) (p : Nat) : List Nat → Nat → Nat × State
  | d :: e :: t, at_ =>
    let r := s.crossing p d e at_
    r.2.travel p (e :: t) (r.1 + 15)
  | _, at_ => (at_, s)

/-- Put the words of a street transfer on their way from block b: by R20 inside a district, by R25 and R26 to another. -/
def State.sendWords (s : State) (p b : Nat) (o : Op) (ws : List (Nat × Stored)) : State :=
  let t := (s.part p).lcycle
  ws.zipIdx.foldl (fun s ((a, w), k) =>
    let dst := a / 2 ^ 19 % 256
    let v : Delivery := { addr := a, word := w, due := t + 24 + k / 2, source := b, index := k, opBlock := b, opId := o.id }
    if districtOf dst = districtOf b then s.setBlock dst { s.block dst with equaliser := (s.block dst).equaliser ++ [v] }
    else
      let r := s.travel p (route (districtOf b) (districtOf dst)) (s.now + 20 + k / 2)
      r.2.setBlock dst { r.2.block dst with arriving := (r.2.block dst).arriving ++ [{ v with due := r.1 }] }) s

/-- Put words on their way into a block through its landing port (R26, R27, R203): over the mesh, all due at a wall cycle, or from its decompressor,
two a cycle with the last two due then. -/
def State.landWords (s : State) (mesh : Bool) (ob id due : Nat) (ws : List (Nat × Word)) : State :=
  ws.zipIdx.foldl (fun s ((a, w), k) =>
    let dst := a / 2 ^ 19 % 256
    let x := s.block dst
    let at_ := if mesh then due else due - ((ws.length - 1) / 2 - k / 2)
    s.setBlock dst { x with arriving := x.arriving ++ [{ addr := a, word := encodeWord w, due := at_, source := ob, index := k, opBlock := ob, opId := id, mesh := mesh }] }) s

/-- One word fewer is left of the transfer that an operation in flight makes. -/
def State.wordDone (s : State) (b id : Nat) : State :=
  let x := s.block b
  s.setBlock b { x with inflight := x.inflight.map (fun o => if o.id ≠ id then o else match o.work with
    | .transfer n => { o with work := .transfer (n - 1) }
    | .landing n => { o with work := .landing (n - 1) }
    | .stream st => { o with work := .stream { st with left := st.left - 1 } }
    | _ => o) }

/-- A word written while a slice marches its window ends that march (R495). -/
def State.endMarch (s : State) (a : Nat) : State :=
  let b := a / 2 ^ 19
  let x := s.block b
  if tierOf a = 0 ∧ x.slice.isSome ∧ !x.retried ∧ a % 2 ^ 19 / 128 = x.sliceStep then (s.setBlock b { x with retried := true }).count 0x9E00 0x03 1 else s

/-- A delivered word is written: clean words as they are, mended ones afresh and counted, others as received (R28). -/
def State.writeDelivered (s : State) (v : Delivery) : State :=
  let s := match decodeStored v.word with
    | .clean _ => s.writeWord v.addr v.word
    | .mended w => (s.writeWord v.addr (encodeWord w)).countMends [v.addr]
    | .failing _ _ => s.writeWord v.addr v.word
  (s.endMarch v.addr).wordDone v.opBlock v.opId

/-! ## COPY and FILL (R191 to R195) -/

/-- The kind of an end of a mover descriptor: block memory, or a tier. -/
def endTier (e : BitVec 128) : Nat := if hOnBlock e then 0 else tierOf (hAddr e 0)

/-- An operand that must be of KIND 0x01 (R191, R193, R238). -/
def State.kindCauses (s : State) (p r : Nat) : List Status := if hKind (s.handle p (opHandle r)) = 1 then [] else [.bounds]

/-- The causes of R193 for a COPY. -/
def State.copyCauses (s : State) (b p : Nat) (d : Desc) : List Status :=
  let e0 := s.handle p (opHandle (opnd d 0))
  let e1 := s.handle p (opHandle (opnd d 1))
  (if hKind e0 = 3 then [.bounds] else [])
  ++ (if hOnBlock e1 then (if hBlock e1 = b then [] else [.bounds]) else if hOnBlock e0 then (if hBlock e0 = b then [] else [.bounds]) else [.bounds])
  ++ (if hOnBlock e0 && hOnBlock e1 then (if keyOf d = 0 then [] else [.malformed])
      else if s.keyOk (keyOf d) (hOwner (if hOnBlock e0 then e1 else e0)) then [] else [.rights])

/-- The causes of R193 for a FILL. -/
def State.fillCauses (s : State) (p : Nat) (d : Desc) : List Status :=
  let e0 := s.handle p (opHandle (opnd d 0))
  (if hKind e0 = 3 then [.bounds] else []) ++ s.kindCauses p (opnd d 1)
  ++ (if hOnBlock e0 then (if keyOf d = 0 then [] else [.malformed]) else if s.keyOk (keyOf d) (hOwner e0) then [] else [.rights])

/-- The addresses of a mover operand in row order. -/
def State.moverAddrs (s : State) (p : Nat) (d : Desc) (i : Nat) : List Nat := s.rowAddrs p (opnd d i) (rowWords d) (rowCount d)

/-- Consecutive words cut into units: runs that stay inside one 128-byte line (R179). -/
def unitRuns : List (Nat × Nat) → List (List (Nat × Nat))
  | [] => []
  | x :: t => match unitRuns t with
    | [] => [[x]]
    | [] :: r => [x] :: r
    | (y :: u) :: r => if x.1 + 1 = y.1 ∧ x.1 / 4 = y.1 / 4 then (x :: y :: u) :: r else [x] :: (y :: u) :: r

/-- Insert a unit in the order of presentation: earlier first, lower block first in one cycle (R185). -/
def Channel.present (x : Channel) (u : HbmUnit) : Channel :=
  let first := fun (v : HbmUnit) => decide (v.present < u.present) || (v.present == u.present && decide (v.opBlock ≤ u.opBlock))
  { x with units := x.units.takeWhile first ++ u :: x.units.dropWhile first }

def State.presentUnit (s : State) (u : HbmUnit) : State :=
  let c := channelOf u.addr
  s.setChannel c ((s.channel c).present u)

/-- Present units one after another. -/
def State.presentAll (s : State) (l : List HbmUnit) : State := l.foldl State.presentUnit s

/-- Present the units of a read from tier 1 (word addresses paired with where each word goes) or a write to it (R195). Unit u of a
read is presented at issue + 60 ns + floor(u/8) cycles, of a write at issue + 60 ns + 2u. -/
def State.presentReads (s : State) (b : Nat) (o : Op) (key : Nat) (ws : List (Nat × Nat)) : State :=
  s.presentAll ((unitRuns ws).zipIdx.map (fun (r, u) =>
    { stream := streamOf o.desc, addr := (r.headD (0, 0)).1, count := r.length, dests := r.map (fun e => (e.2, 0)), opBlock := b, opId := o.id,
      present := s.now + 84 + u / 8, key := key }))

def State.presentWrites (s : State) (b : Nat) (o : Op) (key : Nat) (ws : List (Nat × Word)) : State :=
  s.presentAll ((unitRuns (ws.zipIdx.map (fun (e, i) => (e.1, i)))).zipIdx.map (fun (r, u) =>
    { stream := streamOf o.desc, addr := (r.headD (0, 0)).1, count := r.length, write := some (r.map (fun e => (ws.getD e.2 (0, 0)).2)),
      opBlock := b, opId := o.id, present := s.now + 84 + 2 * u, key := key }))

/-- Read a descriptor's block-memory source; failing words fail it, with the mover as reader (R217, R219). -/
def State.readSource (s : State) (p b q reader : Nat) (d : Desc) (l : List Nat) (k : State → List Word → State) : State :=
  let r := readRun s.mem l
  let s := s.mended0 r.mended
  match r.failed with
  | some (a, c, sy) => (s.readFailed p reader (a * 32) c sy).failDesc p c b q d
  | none => k s r.words

/-- Put a mover operation in flight: the mover is free after `busy` cycles, and `left` words are to be moved. -/
def State.launchMover (s : State) (p b : Nat) (d : Desc) (busy : Nat) (w : Work) : Op × State :=
  let o := s.newOp p b 2 d 0 w
  let slow := fun (s : State) (r : Nat) => if opAbsent r || hOnBlock (s.handle p (opHandle r)) then s else s.noteSlow (hAddr (s.handle p (opHandle r)) 0)
  let s := slow (slow (s.launch p b o) (opnd d 0)) (opnd d 1)
  (o, s.setBlock b { s.block b with moverFree := s.cyclesOf b + busy })

/-- COPY (R193 to R195). The words of a street transfer go with their check bits as the source bank holds them (R28). Tier-2 and tier-3 transfers are made when the port returns: at MOVER_COMPLETION. -/
def execCopy (b : Fin 256) (s : State) : Host.Outcome State Fault Refusal :=
  .next (s.issue b.val 2 (fun d => opcode d == 0x50) (fun s p d => s.copyCauses b.val p d) (fun s p d =>
    let e0 := s.handle p (opHandle (opnd d 0))
    let e1 := s.handle p (opHandle (opnd d 1))
    let n := rowWords d * rowCount d
    let src := s.moverAddrs p d 1
    let dst := s.moverAddrs p d 0
    if hOnBlock e1 ∧ hOnBlock e0 then
      let (o, s) := s.launchMover p b.val d (ceilDiv n 2) (.transfer n)
      s.sendWords p b.val o (dst.zip (src.map s.readWord))
    else if hOnBlock e1 then
      s.readSource p b.val 2 2 d src (fun s ws =>
        let (o, s) := s.launchMover p b.val d (ceilDiv n 2) (.transfer n)
        match endTier e0 with
        | 1 => s.presentWrites b.val o (keyOf d) (dst.zip ws)
        | _ => s.setBlock b.val ((s.block b.val).putOp { o with work := .vector (dst.zip ws) none }))
    else
      let (o, s) := s.launchMover p b.val d (max 1 (ceilDiv n 32)) (.transfer n)
      if endTier e1 = 1 then s.presentReads b.val o (keyOf d) (src.zip dst) else s))

/-- FILL (R195): its one source word is read once and written over the whole destination; to block memory it goes as the source bank
holds it (R28). -/
def execFill (b : Fin 256) (s : State) : Host.Outcome State Fault Refusal :=
  .next (s.issue b.val 2 (fun d => opcode d == 0x54) (fun s p d => s.fillCauses p d) (fun s p d =>
    let n := rowWords d * rowCount d
    let dst := s.moverAddrs p d 0
    let src := s.opAddrs p (opnd d 1) 1
    let tier := endTier (s.handle p (opHandle (opnd d 0)))
    if tier = 0 then
      let (o, s) := s.launchMover p b.val d (ceilDiv n 2) (.transfer n)
      s.sendWords p b.val o (dst.map (fun a => (a, s.readWord (src.headD 0))))
    else s.readSource p b.val 2 2 d src (fun s ws =>
      let (o, s) := s.launchMover p b.val d (max 1 (ceilDiv n 32)) (.transfer n)
      let all := dst.map (fun a => (a, ws.headD 0))
      match tier with
      | 1 => s.presentWrites b.val o (keyOf d) all
      | _ => s.setBlock b.val ((s.block b.val).putOp { o with work := .vector all none }))))

/-! ## WSTREAM and the decompressor (R197 to R203) -/

/-- The source handle of a stream. -/
def State.packHandle (s : State) (p : Nat) (d : Desc) : BitVec 128 := s.handle p (opHandle (opnd d 1))

/-- The causes of R193 for a WSTREAM. -/
def State.streamCauses (s : State) (b p : Nat) (d : Desc) : List Status :=
  let e0 := s.handle p (opHandle (opnd d 0))
  let e1 := s.packHandle p d
  (if hKind e0 = 1 ∧ hBlock e0 = b then [] else [.bounds]) ++ (if hKind e1 = 2 then [] else [.bounds])
    ++ (if s.keyOk (keyOf d) (hOwner e1) then [] else [.rights])

def packFirst (d : Desc) : Nat := descBytes d 48 3
def packCount (d : Desc) : Nat := descBytes d 52 2 + 1

def packTables (h : Word) : Nat := field h 40 8
def packBlocks (h : Word) : Nat := field h 64 32
def packTail (h : Word) : Nat := field h 96 12 + 1
/-- The word offset of the directory and of the block area from the header (R197). -/
def packDir (h : Word) : Nat := 1 + 9 * packTables h
def packArea (h : Word) : Nat := packDir h + ceilDiv (packBlocks h) 4

/-- The header rules of R201. -/
def headerCause (d : Desc) (h : Word) : Option Status :=
  if field h 0 32 ≠ 0xCAE75700 ∨ field h 32 8 ≠ 1 ∨ field h 48 16 ≠ 0 ∨ field h 108 148 ≠ 0 then some .malformed
  else if packBlocks h < packFirst d + packCount d then some .bounds
  else none

/-- A code table: counts of lengths 1 to 15, and symbols (R198). -/
structure CodeTable where
  counts  : List Nat
  symbols : List Byte
deriving DecidableEq, Repr

def tableOf (l : List Byte) : CodeTable := ⟨(List.range 15).map (fun i => leAt l (2 * i) 2), l.drop 32⟩

/-- Whether the bytes of a table keep R198. -/
def tableOk (l : List Byte) : Bool :=
  let t := tableOf l
  let n := t.counts.foldl (· + ·) 0
  let used := t.symbols.take n
  let kraft := t.counts.zipIdx.foldl (fun a (c, i) => a + c * 2 ^ (14 - i)) 0
  slice l 30 2 == zeros 2 && decide (n ≤ 256) && (t.symbols.drop n).all (fun b => b == 0)
    && decide (used.eraseDups.length = used.length) && (kraft == 2 ^ 15 || t.counts == 1 :: List.replicate 14 0)

/-- Bit i of a block's stream (R200). -/
def streamBit (l : List Byte) (i : Nat) : Nat := (l.getD (i / 8) 0).toNat / 2 ^ (i % 8) % 2

/-- Decode one symbol from bit i on: lengths tried upward with the first code and the symbol base of each (R200). -/
def symbolAt (t : CodeTable) (l : List Byte) (limit : Nat) : List Nat → Nat → Nat → Nat → Nat → Option (Byte × Nat)
  | [], _, _, _, _ => none
  | c :: cs, i, v, first, base =>
    if limit ≤ i then none
    else
      let v := 2 * v + streamBit l i
      if first ≤ v ∧ v - first < c then some (t.symbols.getD (base + (v - first)) 0, i + 1)
      else symbolAt t l limit cs (i + 1) v ((first + c) * 2) (base + c)

/-- Decode n symbols; the bit after the last. -/
def symbolsAt (t : CodeTable) (l : List Byte) (limit : Nat) : Nat → Nat → Option (List Byte × Nat)
  | 0, i => some ([], i)
  | n + 1, i => match symbolAt t l limit t.counts i 0 0 0 with
    | none => none
    | some (b, j) => (symbolsAt t l limit n j).map (fun r => (b :: r.1, r.2))

/-- Directory entry j of a pack, from the words read. -/
def dirEntry (st : StreamState) (h : Word) (j : Nat) : Nat := field (st.words.get 0 (packDir h + j / 4)) (64 * (j % 4)) 64

def entryOffset (e : Nat) : Nat := e / 2 ^ 32
def entryMode (e : Nat) : Nat := e / 2 ^ 30 % 4
def entryLen (e : Nat) : Nat := e % 256

/-- Raw bytes and raw words of block j (R199). -/
def rawBytes (h : Word) (j : Nat) : Nat := if j + 1 = packBlocks h then packTail h else 4096
def rawWords (h : Word) (j : Nat) : Nat := ceilDiv (rawBytes h j) 32

/-- The rules on a directory entry (R199, R201). -/
def entryOk (h : Word) (j e : Nat) : Bool :=
  let r := rawWords h j
  e / 2 ^ 28 % 4 == 0 && e / 2 ^ 8 % 2 ^ 16 == 0
    && (match entryMode e with
      | 0 => decide (e / 2 ^ 24 % 16 < packTables h ∧ ceilDiv (2 * r) 3 ≤ entryLen e ∧ entryLen e ≤ 128)
      | 1 => e / 2 ^ 24 % 16 == 0 && entryLen e == r
      | _ => false)

def StreamState.header (st : StreamState) : Word := st.words.get 0 0
def StreamState.bytes (st : StreamState) (from_ n : Nat) : List Byte := wordsBytes ((List.range n).map (fun i => st.words.get 0 (from_ + i)))

/-- Expand block j: 128 raw words, zero beyond R (R200, R202); none where a rule of R201 is broken. -/
def expandBlock (st : StreamState) (j : Nat) : Option (List Word) :=
  let h := st.header
  let e := dirEntry st h j
  let l := st.bytes (packArea h + entryOffset e) (entryLen e)
  if entryMode e = 1 then some (bytesWords 128 (l.take (32 * rawWords h j)))
  else
    let t := tableOf (st.bytes (1 + 9 * (e / 2 ^ 24 % 16)) 9)
    let n := if j + 1 = packBlocks h then rawBytes h j else 32 * rawWords h j
    let limit := 256 * entryLen e
    match symbolsAt t l limit n 0 with
    | none => none
    | some (bs, i) => if (List.range (limit - i)).all (fun k => streamBit l (i + k) == 0) then some (bytesWords 128 bs) else none

/-- What a stream asks for once everything asked for has come (R202): the failing cause, or the next words by offset from the
header, and the next stage. -/
def StreamState.more (st : StreamState) (d : Desc) : Except Status (List Nat × Nat) :=
  let h := st.header
  match st.stage with
  | 0 => match headerCause d h with
    | some c => .error c
    | none =>
      let first := packFirst d / 4
      let last := (packFirst d + packCount d - 1) / 4
      .ok (addrs 1 (9 * packTables h) ++ addrs (packDir h + first) (last + 1 - first), 1)
  | 1 =>
    let blocks := addrs (packFirst d) (packCount d)
    if (List.range (packTables h)).all (fun i => tableOk (st.bytes (1 + 9 * i) 9)) && blocks.all (fun j => entryOk h j (dirEntry st h j)) then
      .ok (blocks.flatMap (fun j => addrs (packArea h + entryOffset (dirEntry st h j)) (entryLen (dirEntry st h j))), 2)
    else .error .malformed
  | _ => .ok ([], 2)

/-- A WSTREAM fails; a failure by R201 is counted on its pseudo-channel (R207). -/
def State.failStream (s : State) (p b : Nat) (o : Op) (c : Status) : State :=
  let a := hAddr (s.packHandle p o.desc) 0
  let s := if tierOf a = 1 then s.count (0x9200 + channelOf a) 0x06 1 else s
  s.failOp p b o c

/-- Present the reads of a stream's words: those before the first word at or beyond SIZE, which fails the WSTREAM when it is due to
be read (R202): once those before it have come. -/
def State.askStream (s : State) (p b : Nat) (o : Op) (st : StreamState) (offs : List Nat) (delay : Nat) : State :=
  let e := s.packHandle p o.desc
  let base := opOffset (opnd o.desc 1)
  let ok := offs.takeWhile (fun i => decide (base + i < hSize e))
  let at_ := hAddr e base
  let st := { st with asked := st.asked + ok.length, beyond := ok.length != offs.length }
  let s := s.setBlock b ((s.block b).putOp { o with work := .stream st })
  if ok.isEmpty ∧ st.beyond then s.failOp p b o .bounds
  else s.presentAll ((unitRuns (ok.map (fun i => (at_ + i, i)))).zipIdx.map (fun (r, u) =>
    { stream := streamOf o.desc, addr := (r.headD (0, 0)).1, count := r.length, opBlock := b, opId := o.id, present := s.now + delay + u / 8,
      key := keyOf o.desc }))

/-- WSTREAM (R202). -/
def execWstream (b : Fin 256) (s : State) : Host.Outcome State Fault Refusal :=
  .next (s.issue b.val 2 (fun d => opcode d == 0x51) (fun s p d => s.streamCauses b.val p d) (fun s p d =>
    let st : StreamState := { left := 128 * packCount d }
    let (o, s) := s.launchMover p b.val d (4 + 4 * packCount d) (.stream st)
    if endTier (s.packHandle p d) = 1 then s.askStream p b.val o st [0] 84 else s))

/-- Words of a WSTREAM have come: once all that was asked for is there, the next words are asked for (R202). -/
def State.streamCame (s : State) (p b : Nat) (o : Op) (st : StreamState) : State :=
  if st.come < st.asked then s.setBlock b ((s.block b).putOp { o with work := .stream st })
  else if st.beyond then s.failOp p b o .bounds
  else if 2 ≤ st.stage then s.setBlock b ((s.block b).putOp { o with work := .stream st })
  else match st.more o.desc with
    | .error c => s.failStream p b o c
    | .ok (offs, stage) => s.askStream p b o { st with stage := stage } offs 0

/-! ## The ports of tiers 2 and 3 in order (R190) -/

/-- The port of tiers 2 and 3 that a word address stands behind, as one number. -/
def portKey (a : Nat) : Nat := 4 * tierOf a + (if tierOf a = 2 then cxlPort a else hostPort a)

/-- The port that an operation waits for. -/
def State.portOf (s : State) (p : Nat) (o : Op) : Option Nat :=
  let e0 := s.handle p (opHandle (opnd o.desc 0))
  let e1 := s.handle p (opHandle (opnd o.desc 1))
  match o.work with
  | .vector _ _ => if o.queue = 2 then some (portKey (hAddr e0 0)) else none
  | .transfer _ => if opcode o.desc = 0x50 ∧ 2 ≤ endTier e1 then some (portKey (hAddr e1 0)) else none
  | .stream st => if 2 ≤ endTier e1 ∧ st.stage < 2 then some (portKey (hAddr e1 0)) else none
  | _ => none

/-- It is the turn of an operation at its port, which serves its requests in arrival order (R190). -/
def State.portTurn (s : State) (p : Nat) (o : Op) : Bool :=
  s.blocks.all (fun e => e.2.inflight.all (fun x => decide (o.id ≤ x.id) || s.portOf (s.ownerOf e.1) x != s.portOf p o))

/-- A port of tier 2 or 3 serves a transfer at a handle now: it is the transfer's turn, and the tenant's bucket holds back no unit (R190, R285). -/
def State.portServes (s : State) (p : Nat) (o : Op) (e : BitVec 128) : Bool :=
  s.tierServes (hAddr e 0) && s.portTurn p o && s.bucketFree (hOwner e) (classOf (hAddr e 0))

/-- The words of blocks come: read from tiers 2 and 3, whose ports keep no calendar, at the event (R190). -/
def State.readStream (s : State) (p b : Nat) (o : Op) (st : StreamState) (fuel : Nat) : State :=
  match fuel with
  | 0 => s
  | fuel + 1 =>
    let e := s.packHandle p o.desc
    let base := opOffset (opnd o.desc 1)
    let next : Except Status (List Nat × Nat) := if st.asked = 0 then .ok ([0], 0) else st.more o.desc
    match next with
    | .error c => s.failStream p b o c
    | .ok (offs, stage) =>
      if !s.tierUp (hAddr e 0) then (s.portFault (hAddr e 0)).failOp p b o .fault
      else if !s.portServes p o e then s
      else
        let ok := offs.takeWhile (fun i => decide (base + i < hSize e))
        let r := s.readTier (keyOf o.desc) (ok.map (fun i => hAddr e (base + i)))
        let s := (s.mendedBy b r.mended).charge (hOwner e) (classOf (hAddr e 0)) (32 * ok.length)
        match r.failed with
        | some (a, c, sy) => (s.readFailed p 2 (a * 32) c sy).failOp p b o c
        | none =>
          if ok.length < offs.length then s.failOp p b o .bounds
          else
          let st := { st with words := (offs.zip r.words).foldl (fun t e => t.put e.1 e.2) st.words, asked := st.asked + offs.length,
                              come := st.come + offs.length, stage := stage }
          let s := s.setBlock b ((s.block b).putOp { o with work := .stream st })
          if stage = 2 then s else s.readStream p b { o with work := .stream st } st fuel

/-- The first stream of a block in flight, in issue order. -/
def Block.stream? (x : Block) : Option (Op × StreamState) :=
  x.inflight.findSome? (fun o => match o.work with
    | .stream st => some (o, st)
    | _ => none)

/-- DECOMPRESS_BLOCK (R203): the next block of the block's WSTREAM whose packed words have all come is expanded; its raw words are
written through the landing port, the last within 24 cycles of the later of now and 64 cycles after the block before. -/
def execDecompressBlock (b : Fin 256) (s : State) : Host.Outcome State Fault Refusal :=
  if !s.live then .next s
  else
    match (s.block b.val).stream? with
    | none => .next s
    | some (o, st) =>
      let p := s.ownerOf b.val
      if st.asked = 0 ∧ endTier (s.packHandle p o.desc) ≠ 1 then .next (s.readStream p b.val o st 3)
      else
        let j := packFirst o.desc + st.next
        let h := st.header
        let e := dirEntry st h j
        let there := (addrs (packArea h + entryOffset e) (entryLen e)).all (fun i => (st.words.find? i).isSome)
        if st.stage = 2 ∧ st.next < packCount o.desc ∧ there then
          match expandBlock st j with
          | none => .next (s.failStream p b.val o .malformed)
          | some ws =>
            let due := max s.now (st.lastRaw + 64) + 24
            let dst := hAddr (s.handle p (opHandle (opnd o.desc 0))) (opOffset (opnd o.desc 0) + 128 * st.next)
            let s := s.setBlock b.val ((s.block b.val).putOp { o with work := .stream { st with next := st.next + 1, lastRaw := due } })
            .next (s.landWords false b.val o.id due ((addrs dst 128).zip ws))
        else .next s

/-! ## GATHER and SCATTER (R238, R239) -/

/-- The request a slot of the running step binds. -/
def State.bound (s : State) (p slot : Nat) : Option Request :=
  ((s.part p).binding.find? slot).bind (fun r => s.requests.find? r)

/-- Words of a token in a page: W (R228). -/
def State.tokenWords (s : State) (p : Nat) : Nat := frameWords / max 1 (s.pageTokens p)

/-- Tokens that a step stores for a request (R236, R251). -/
def State.adv (s : State) (p : Nat) (r : Request) : Nat :=
  if (s.part p).runKerb then s.objNat (0x5100 + p) 0x0C
  else if r.state = .admitted then min (s.chunk p) r.prefill else 1

/-- The KV key of a tenant (R239). -/
def State.kvKey (s : State) (t : Nat) : Nat := s.objNat (0x4100 + t) 0x04

/-- A page table of a request that a descriptor acts on, with the frames of the step (R224, R251). -/
def gatherDir (r : Request) : Table Nat := r.dir ++ r.newFrames
def State.scatterDir (s : State) (p : Nat) (r : Request) : Table Nat := if (s.part p).runKerb then r.shadow else r.dir ++ r.newFrames
def State.scatterBase (s : State) (p : Nat) (r : Request) : Nat := if (s.part p).runKerb then 0 else r.tokens

/-- Every bound slot of a descriptor has a valid KV key; otherwise the move fails with RIGHTS (R188, R239). -/
def State.kvCauses (s : State) (p : Nat) (d : Desc) : List Status :=
  if (addrs (slot0 d) (nslot d)).all (fun i => match s.bound p i with
    | some r => s.keyOk (s.kvKey r.tenant) r.tenant
    | none => true) then [] else [.rights]

/-- The word address of a unit that has no frame behind it: on the channel of its directory index, with the bank of its place in a frame (R239). -/
def State.emptyUnit (s : State) (p d place : Nat) : Nat := tier1 ((s.kvChannel p d).getD 0) place

/-- Unit x of a GATHER: the units run in slot order, then group, then ascending address, four words each (R238). -/
def State.gatherUnit (s : State) (p b id : Nat) (d : Desc) (x : Nat) : HbmUnit :=
  let u := x % (kvWords d / 4)
  let g := x / (kvWords d / 4) % gatherNG d
  let i := x / (kvWords d / 4) / gatherNG d
  let j := (g0na d + g) * s.groupPages p + pageK d
  let r := s.bound p (slot0 d + i)
  let a := r.bind (fun r => ((gatherDir r).find? j).bind (s.frameAddr p j))
  let at_ := woff d + 4 * u
  let to_ := hAddr (s.handle p (opHandle (opnd d 0))) (opOffset (opnd d 0)) + (i * gatherNG d + g) * kvWords d + 4 * u
  { stream := streamOf d, addr := (a.map (· + at_)).getD (s.emptyUnit p j at_), count := 4, dests := (addrs to_ 4).map (fun t => (t, 0)), opBlock := b, opId := id,
    present := s.now + 84 + x / 8, key := s.kvKey ((r.map Request.tenant).getD 0), backed := a.isSome }

/-- Unit x of a SCATTER of the words ws, in slot order, then token, then ascending address (R238). -/
def State.scatterUnit (s : State) (p b id : Nat) (d : Desc) (ws : List Word) (x : Nat) : HbmUnit :=
  let u := x % (kvWords d / 4)
  let g := x / (kvWords d / 4) % scatterNA d
  let i := x / (kvWords d / 4) / scatterNA d
  let r := s.bound p (slot0 d + i)
  let q := (r.map (fun r => s.scatterBase p r + g)).getD g
  let pt := max 1 (s.pageTokens p)
  let j := q / pt * s.groupPages p + pageK d
  let a := r.bind (fun r => if g < s.adv p r then ((s.scatterDir p r).find? j).bind (s.frameAddr p j) else none)
  let at_ := q % pt * s.tokenWords p + woff d + 4 * u
  { stream := streamOf d, addr := (a.map (· + at_)).getD (s.emptyUnit p j at_), count := 4, write := some ((ws.drop ((i * scatterNA d + g) * kvWords d + 4 * u)).take 4),
    opBlock := b, opId := id, present := s.now + 84 + 2 * x, key := s.kvKey ((r.map Request.tenant).getD 0), backed := a.isSome }

/-- GATHER (R238). -/
def execGather (b : Fin 256) (s : State) : Host.Outcome State Fault Refusal :=
  .next (s.issue b.val 2 (fun d => opcode d == 0x52) (fun s p d => s.kindCauses p (opnd d 0) ++ s.kvCauses p d) (fun s p d =>
    let n := nslot d * gatherNG d * kvWords d
    let l := s.launchMover p b.val d (max 1 (ceilDiv n 32)) (.transfer n)
    l.2.presentAll ((List.range (n / 4)).map (s.gatherUnit p b.val l.1.id d))))

/-- SCATTER (R238). -/
def execScatter (b : Fin 256) (s : State) : Host.Outcome State Fault Refusal :=
  .next (s.issue b.val 2 (fun d => opcode d == 0x53) (fun s p d => s.kindCauses p (opnd d 1) ++ s.kvCauses p d) (fun s p d =>
    let n := nslot d * scatterNA d * kvWords d
    s.readSource p b.val 2 2 d (s.opAddrs p (opnd d 1) n) (fun t ws =>
      let l := t.launchMover p b.val d (ceilDiv n 2) (.transfer n)
      l.2.presentAll ((List.range (n / 4)).map (s.scatterUnit p b.val l.1.id d ws)))))

/-! ## Slots of a pseudo-channel (R179 to R187) -/

/-- The wall cycle at which the slot numbered n since the frames began starts: 4 ns are 28/5 nominal cycles. -/
def Channel.slotAt (x : Channel) (n : Nat) : Nat := x.frameAt + ceilDiv (n * 28) 5

/-- The bank of a unit (R179). -/
def bankOf (a : Nat) : Nat := a / 4 % 16

/-- No access to a bank falls within the 11 slots before slot n (R186, R187). -/
def Channel.bankClear (x : Channel) (n a : Nat) : Bool :=
  match x.bankSlot.find? (bankOf a) with
  | some k => decide (k + 12 ≤ n)
  | none => true

/-- The operation a unit belongs to. -/
def State.unitOp (s : State) (u : HbmUnit) : Option Op := (s.block u.opBlock).inflight.find? (fun o => o.id == u.opId)

/-- Carry a plan unit in slot n. A read is mended, decrypted and delivered through the landing port 100 ns after the slot's start; a
write is made in the slot, and its completion falls 40 ns after it (R195). -/
def State.carry (s : State) (c n : Nat) (u : HbmUnit) : State :=
  match s.unitOp u with
  | none => s
  | some o =>
    let p := s.ownerOf u.opBlock
    let start := (s.channel c).slotAt n
    match u.write with
    | some ws =>
      let s := if u.backed then s.writeTier u.key ((addrs u.addr u.count).zip ws) else s
      let s := (List.range u.count).foldl (fun s _ => s.wordDone u.opBlock u.opId) s
      match s.unitOp u with
      | some o => s.setBlock u.opBlock ((s.block u.opBlock).putOp { o with doneAt := max o.doneAt (s.cyclesOf u.opBlock + (start + 56 - s.now)) })
      | none => s
    | none =>
      if !u.backed then s.landWords true u.opBlock u.opId (start + 136) (u.dests.map (fun e => (e.1, 0)))
      else
        let r := s.readTier u.key (addrs u.addr u.count)
        let s := s.mendedBy u.opBlock r.mended
        match r.failed with
        | some (a, cause, sy) => (s.readFailed p 2 (a * 32) cause sy).failOp p u.opBlock o cause
        | none =>
          match o.work with
          | .stream st =>
            let base := hAddr (s.packHandle p o.desc) (opOffset (opnd o.desc 1))
            let st := { st with words := (r.words.zipIdx).foldl (fun t (w, i) => t.put (u.addr + i - base) w) st.words, come := st.come + u.count }
            s.streamCame p u.opBlock o st
          | _ => s.landWords true u.opBlock u.opId (start + 136) ((u.dests.map Prod.fst).zip r.words)

/-- The first unit of a stream that is presented by the start of a slot (R185). -/
def Channel.nextUnit (x : Channel) (stream start : Nat) : Option HbmUnit := x.units.find? (fun u => u.stream == stream && decide (u.present ≤ start))

/-- Remove one unit, and replace one. -/
def Channel.dropUnit (x : Channel) (u : HbmUnit) : Channel := { x with units := x.units.erase u }
def Channel.deferUnit (x : Channel) (u : HbmUnit) : Channel := { x with units := x.units.map (fun v => if v = u then { v with deferred := true } else v) }

/-- Descriptors of STREAMED queues that a partition's prefetcher still lacks of its 256 ahead of issue, beyond those fetched (R129). -/
def State.prefetchWants (s : State) (p : Nat) : Bool :=
  let lack := fun (b : Nat) => ((s.block b).queues.map (fun e => min 256 e.2.descs.length - e.2.delivered)).foldl (· + ·) 0
  decide ((s.part p).fetched < ((mapBlocks (s.part p).blockMap).map lack).foldl (· + ·) 0)

/-- A slot of code 0x20: a unit of two descriptors of the plan area, for the partition that owns the pseudo-channel (R129, R183). -/
def State.prefetchSlot (s : State) (c : Nat) : State :=
  let p := s.objNat (0x6100 + c) 0x01
  if s.prefetchWants p then (s.setPart p { s.part p with fetched := (s.part p).fetched + 2 }).count (0x9200 + c) 0x01 1 else s.count (0x9200 + c) 0x03 1

/-- HBM_UNIT_SLOT (R185 to R187, R207): the next slot of the pseudo-channel, when it has begun and is not of the refresh window. A claimed slot is one in which a service
unit that waits may not go. -/
def execHbmUnitSlot (c : Fin 256) (s : State) : Host.Outcome State Fault Refusal :=
  if !s.live then .next s
  else
    let c := c.val
    let x := s.channel c
    let n := x.served
    let slot := n % 256
    if s.now < x.slotAt n ∨ 240 ≤ slot then .next s
    else
      let s := s.setChannel c { x with served := n + 1 }
      let code := x.code slot
      if code = 0 then
        match x.service with
        | [] => .next (s.count (0x9200 + c) 0x03 1)
        | (a, left) :: rest =>
          if x.clearAfter slot && x.bankClear n a then
            let y := s.channel c
            .next ((s.setChannel c { y with service := if left ≤ 1 then rest else (a + 4, left - 1) :: rest,
                                            bankSlot := y.bankSlot.put (bankOf a) n }).count (0x9200 + c) 0x02 1)
          else .next ((s.count (0x9200 + c) 0x05 1).count (0x9200 + c) 0x03 1)
      else
        let s := if x.service.isEmpty then s else s.count (0x9200 + c) 0x05 1
        if code = 0x20 then .next (s.prefetchSlot c)
        else match x.nextUnit (code - 1) (x.slotAt n) with
        | none => .next (s.count (0x9200 + c) 0x03 1)
        | some u =>
          if !x.bankClear n u.addr then
            let s := if u.deferred then s else s.count (0x9200 + c) 0x04 1
            .next ((s.setChannel c ((s.channel c).deferUnit u)).count (0x9200 + c) 0x03 1)
          else
            let y := (s.channel c).dropUnit u
            .next (((s.setChannel c { y with bankSlot := y.bankSlot.put (bankOf u.addr) n }).count (0x9200 + c) 0x01 1).carry c n u)

/-- HBM_REFRESH_WINDOW (R181): slots 240 to 255 refresh every bank; each is free from slot 0 of the next frame. -/
def execHbmRefreshWindow (c : Fin 256) (s : State) : Host.Outcome State Fault Refusal :=
  if !s.live then .next s
  else
    let x := s.channel c.val
    let frame := x.served / 256
    if x.served % 256 < 240 ∨ s.now < x.slotAt (256 * frame + 240) then .next s
    else
      let s := if x.service.isEmpty then s else s.count (0x9200 + c.val) 0x05 16
      .next (s.setChannel c.val { x with served := 256 * (frame + 1), bankSlot := [] })

/-! ## Deliveries and completion -/

/-- A delivery may be written now: its logical cycle has come, or the freeze waits for the tag it will set (R21, R22, R147). -/
def State.deliverable (s : State) (p : Nat) (v : Delivery) : Bool :=
  decide (v.due ≤ (s.part p).lcycle) || (match (s.part p).freeze, (s.block v.opBlock).inflight.find? (fun o => o.id == v.opId) with
    | some z, some o => z.holds.any (fun h => h.cause == .tag && (match s.head h.block h.queue with
        | some d => (sources d).any (fun k => (dests o.desc).contains k)
        | none => false))
    | _, _ => false)

/-- STREET_WORD_DELIVERY (R20 to R22, R147): at most two words a cycle. -/
def execStreetWordDelivery (b : Fin 256) (s : State) : Host.Outcome State Fault Refusal :=
  if !s.live then .next s
  else
    let x := s.block b.val
    let p := s.ownerOf b.val
    if 2 ≤ x.eqWrites then .next s
    else match firstDelivery (x.equaliser.filter (s.deliverable p)) none with
      | none => .next s
      | some v =>
        .next ((s.setBlock b.val { x with equaliser := x.equaliser.erase v, eqWrites := x.eqWrites + 1, bankUse := addUse x.bankUse [v.addr] }).writeDelivered v)

/-- LANDING_WRITE (R18, R26): the first word of the landing buffer whose bank no plan client claims in this cycle is written. -/
def execLandingWrite (b : Fin 256) (s : State) : Host.Outcome State Fault Refusal :=
  if !s.live then .next s
  else
    let x := s.block b.val
    match x.landing.find? (fun v => s.bankFree b.val v.addr) with
    | none => .next s
    | some v => .next ((s.setBlock b.val { x with landing := x.landing.erase v, bankOther := x.bankOther ++ [v.addr % 64] }).writeDelivered v)

/-- Nothing of a mover operation is left to move. -/
def Op.moved (o : Op) : Bool :=
  o.queue == 2 && (match o.work with
    | .transfer 0 => true
    | .landing 0 => true
    | .stream st => st.left == 0
    | _ => false)

/-- The transfer of a COPY or FILL with an end in tier 2 or 3, made when its port returns (R190, R195). -/
def State.portTransfer (s : State) (p b : Nat) (o : Op) : Option State :=
  let e0 := s.handle p (opHandle (opnd o.desc 0))
  let e1 := s.handle p (opHandle (opnd o.desc 1))
  let n := rowWords o.desc * rowCount o.desc
  let charge := fun (s : State) (e : BitVec 128) => s.charge (hOwner e) (classOf (hAddr e 0)) (32 * n)
  match o.work with
  | .vector ws _ =>
    if o.queue ≠ 2 then none
    else if !s.tierUp (hAddr e0 0) then some ((s.portFault (hAddr e0 0)).failOp p b o .fault)
    else if !s.portServes p o e0 then none
    else some ((charge (s.writeTier (keyOf o.desc) ws) e0).completeOp p b o (dests o.desc))
  | .transfer _ =>
    if opcode o.desc = 0x50 ∧ 2 ≤ endTier e1 ∧ !s.tierUp (hAddr e1 0) then some ((s.portFault (hAddr e1 0)).failOp p b o .fault)
    else if opcode o.desc = 0x50 ∧ 2 ≤ endTier e1 ∧ s.portServes p o e1 then
      let r := s.readTier (keyOf o.desc) (s.moverAddrs p o.desc 1)
      let s := s.mendedBy b r.mended
      some (match r.failed with
        | some (a, c, sy) => (s.readFailed p 2 (a * 32) c sy).failOp p b o c
        | none =>
          let s := s.setBlock b ((s.block b).putOp { o with work := .landing n })
          (charge s e1).landWords true b o.id s.now ((s.moverAddrs p o.desc 0).zip r.words))
    else none
  | _ => none

/-- MOVER_COMPLETION (R195): the first mover operation, in issue order, with nothing left to move completes and sets its tag. -/
def execMoverCompletion (b : Fin 256) (s : State) : Host.Outcome State Fault Refusal :=
  let p := s.ownerOf b.val
  match s.dueOps b.val (fun o => o.moved && decide (opcode o.desc ≤ 0x60)) with
  | o :: _ => .next (s.completeOp p b.val o (dests o.desc))
  | [] => .next (((s.block b.val).inflight.findSome? (s.portTransfer p b.val)).getD s)

end Sys2Proof.Machine
end

