-- ==== Sys2Proof/Machine/Requests.lean ====
section
/-! DEFINITION. Request-table entries (R221 to R227, R233), their completions (R266), how a request ends (R223, R263), and the
ownership of a partition (R276). -/
namespace Sys2Proof.Machine

/-! ## Ownership -/

/-- Tenant t is the partition's owner or is admitted to it (R276). -/
def State.owns (s : State) (p t : Nat) : Bool :=
  (s.part p).owner == t || bitAt (BitVec.ofNat 256 (s.objNat (0x4000 + p) 0x04)) t

/-- The tenant of a VF by the VF maps, if it has one (R274); PF0 has none. -/
def State.tenantOf (s : State) (f : FnId) : Option Nat :=
  if f.fn.val = 0 then none
  else
    let bit := 128 * f.port.val + (f.fn.val - 1)
    (List.find? (fun e => e.2.state == 1 && bitAt e.2.vfMap bit) s.tenants).map Prod.fst

/-! ## Completions of requests (R266) -/

/-- The event codes of R266. -/
inductive ReqEvent where
  | token | turnEnd | kerbed | recalled | expired | cancelled | cut | ended
deriving DecidableEq, Repr

def ReqEvent.code : ReqEvent → Nat
  | .token => 1 | .turnEnd => 2 | .kerbed => 3 | .recalled => 4 | .expired => 5 | .cancelled => 6 | .cut => 7 | .ended => 8

/-- What a request completion says beside the entry's fields. -/
structure ReqNews where
  event  : ReqEvent
  status : Status := .ok
  cause  : Status := .ok
  stepNo : Nat := 0
  token  : Nat := 0xFFFFFFFF
  digest : List Byte := []
  second : Nat := 0
  leaf   : Nat := 0
  signed : Bool := false
deriving DecidableEq, Repr

def boolBit (b : Bool) : Nat := if b then 1 else 0

/-- The record of a request completion (R137, R266). -/
def Request.record (r : Request) (n : ReqNews) : Record :=
  { kind := 0x20, status := n.status.code, cause := n.cause.code, part := r.partition, stepNo := n.stepNo,
    body := (place 512 512 (leNat n.digest) ||| place 448 64 r.stepCtr.toNat ||| place 416 32 r.reqId ||| place 384 32 n.token
      ||| place 352 32 n.second ||| place 320 32 n.leaf ||| place 300 20 r.tokens ||| place 280 20 r.turnTokens ||| place 272 8 n.event.code
      ||| place 264 8 r.tenant ||| place 258 1 (boolBit n.signed) ||| place 257 1 (boolBit r.missed) ||| place 256 1 (boolBit r.complete)) / 2 ^ 256 }

/-- The code of a request's state (R222). -/
def ReqState.code : ReqState → Nat
  | .free => 0 | .admitted => 1 | .active => 2 | .paused => 3 | .kerbing => 4 | .kerbed => 5 | .recalling => 6

/-- The ORIGIN field (R221). -/
def originCode (f : FnId) : Nat := place 8 1 f.port.val ||| (if f.fn.val = 0 then 128 else f.fn.val - 1)

/-- PAGES: the frames a request holds (R221). -/
def Request.pages (r : Request) : Nat := max r.dir.length r.kerbDir.length

/-- The 128-byte form of an entry (R221), as the tables hold it in four words. -/
def Request.image (r : Request) : BitVec 1024 :=
  BitVec.ofNat 1024 (place 960 64 r.seed.toNat ||| place 896 64 r.stepCtr.toNat ||| place 832 64 r.deadline ||| place 768 64 r.expiry ||| place 712 56 r.dirRoot.toNat
    ||| place 684 24 r.pages ||| place 664 20 r.tokens ||| place 644 20 r.limit ||| place 624 20 r.turnTokens ||| place 512 64 r.admitTime ||| place 480 32 r.reqId
    ||| place 448 32 r.digestRef.toNat ||| place 416 32 r.ttl ||| place 396 20 r.prefill ||| place 376 20 (if r.parked then r.parkIndex else 0) ||| place 320 56 r.input
    ||| place 288 32 r.lastToken ||| place 80 1 (boolBit r.parked) ||| place 64 16 (originCode r.origin) ||| place 40 12 r.slot ||| place 32 8 r.tenant
    ||| place 24 6 r.partition ||| place 16 4 r.priority ||| place 11 1 (boolBit r.missed) ||| place 10 1 (boolBit r.cancel) ||| place 8 2 r.kerbMode
    ||| place 7 1 r.gen ||| place 4 1 (boolBit r.pauseHeld) ||| place 0 4 r.state.code)

/-- The 32-bit entry of a directory index (R230): VALID, KERB_TIER and the frame, of the kerb frames while the request is kerbed; 0 where there is none. -/
def Request.dirEntry (r : Request) (j : Nat) : BitVec 32 :=
  match if r.state = .kerbed then r.kerbDir.find? j else r.dir.find? j with
  | some v => BitVec.ofNat 32 (place 31 1 1 ||| place 0 27 v)
  | none => 0

/-- Leaf n of a request's directory: 1,024 entries (R230); absent where none of them is valid. -/
def Request.leaf (r : Request) (n : Nat) : Option (List (BitVec 32)) :=
  let l := (List.range 1024).map (fun i => r.dirEntry (1024 * n + i))
  if l.all (· == 0) then none else some l

/-- Queue a request completion for the ring of its ORIGIN function (R135, R241). A request that teardown cancelled writes none (R290). -/
def State.tellRequest (s : State) (r : Request) (n : ReqNews) : State :=
  if r.silent then s else s.queueRecord r.origin ((r.record n).bytes s.town)

/-! ## The tables -/

/-- The number of resident entries, and of parked ones (R243). Resident entries have numbers below 8,192. -/
def State.residents (s : State) : Nat := (s.requests.filter (fun e => decide (e.1 < 8192) && e.2.state != .free)).length
def State.parkeds (s : State) : Nat := (s.requests.filter (fun e => decide (8192 ≤ e.1) && e.2.state != .free)).length

/-- The first free number among n entries from `from_`. -/
def firstFree (t : Table Request) : Nat → Nat → Option Nat
  | _, 0 => none
  | i, n + 1 => if (t.get {} i).state = .free then some i else firstFree t (i + 1) n

def State.freeResident (s : State) : Option Nat := firstFree s.requests 0 8192
def State.freeParked (s : State) : Option Nat := firstFree s.requests 8192 1048576

/-- The live request of a partition with a REQ_ID. -/
def State.findRequest (s : State) (p id : Nat) : Option (Nat × Request) := (s.requestsOf p).find? (fun e => e.2.reqId == id)

/-- TOKEN_CAP (R230). -/
def State.tokenCap (s : State) (p : Nat) : Nat := min 1048575 (s.pageTokens p * (1048576 / max 1 (s.groupPages p)))

/-- The running or the waiting step of a request's partition binds it (R224). -/
def State.isBound (s : State) (p i : Nat) : Bool := (s.part p).binding.values.contains i

/-- A request becomes FREE: its frames return, its entries are released, and a final completion is written (R223). -/
def State.freeRequest (s : State) (i : Nat) (n : ReqNews) : State :=
  let r := s.request i
  let s := s.tellRequest r n
  let s := if n.status = .uncorrectable then s.logEvent { cls := 15, code := 1, status := n.status.code, part := r.partition, tenant := some r.tenant, detail := r.reqId } else s
  ({ s with requests := s.requests.del i } : State).bumpWhere [((s.request i).state != .free, 0x5000, if i < 8192 then 0x01 else 0x02)]

/-- An entry is read: an uncorrectable word of it ends its request (R211, R219, R223), and no other (log 73). -/
def State.readEntry (s : State) (e : Nat × Request) : State :=
  if e.2.fault = 0 then s
  else (s.serviceFailed (some e.2.partition) e.2.tenant 0 .uncorrectable e.2.fault).freeRequest e.1 { event := .ended, status := .uncorrectable }

/-- A request is cut (R263). -/
def State.cutRequest (s : State) (i : Nat) : State :=
  (s.count (0x9500 + (s.request i).partition) 0x0E 1).freeRequest i { event := .cut }

/-- A cut reaches a request: at the end of the step that binds it, or of its movement, or at once (R255, R263). -/
def State.cutOrMark (s : State) (p i : Nat) : State :=
  let r := s.request i
  if s.isBound p i ∨ r.state = .kerbing ∨ r.state = .recalling then s.setRequest i { r with cut := true } else s.cutRequest i

/-- A CANCEL reaches a request (R224, R226, R255). -/
def State.cancelRequest (s : State) (p i : Nat) : State :=
  let r := s.request i
  if s.isBound p i ∨ r.state = .kerbing ∨ r.state = .recalling then s.setRequest i { r with cancel := true }
  else s.freeRequest i { event := .cancelled }

/-- The end of a movement or of a step meets a cut or a CANCEL that waited. -/
def State.endWaiting (s : State) (i : Nat) : State :=
  let r := s.request i
  if r.state = .free then s
  else if r.cut then s.cutRequest i
  else if r.cancel then s.freeRequest i { event := .cancelled }
  else s

/-! ## Generations (R258 to R261) -/

/-- The other generation slot. -/
def otherGen (g : Nat) : Nat := 1 - g

/-- The state of a generation slot: 0 SPARE, 1 ADMITTING, 2 DRAINING. -/
def Part.gen (x : Part) (g : Nat) : Nat := if g = 0 then x.gen0 else x.gen1
def Part.setGen (x : Part) (g v : Nat) : Part := if g = 0 then { x with gen0 := v } else { x with gen1 := v }
/-- The slot that is ADMITTING. -/
def Part.admitting (x : Part) : Nat := if x.gen0 = 1 then 0 else 1

/-- The requests of a generation slot. -/
def State.genRequests (s : State) (p g : Nat) : List (Nat × Request) := (s.requestsOf p).filter (fun e => e.2.gen == g)

/-- A DRAINING slot with no request left becomes SPARE at a step boundary (R260). -/
def State.drained (s : State) (p : Nat) : State :=
  let x := s.part p
  let f := fun (x : Part) (g : Nat) => if x.gen g = 2 ∧ (s.genRequests p g).isEmpty then x.setGen g 0 else x
  s.setPart p (f (f x 0) 1)

/-- SWITCH and CUT_DRAINING take effect at a step boundary, before the ticket that starts there is resolved (R258, R259); `cut` is the policy in force then. -/
def State.switchWith (s : State) (p : Nat) (cut : Bool) : State :=
  let x := s.part p
  let s : State := match x.switchTo with
    | none => s
    | some g =>
      let s := s.setPart p { (x.setGen g 1).setGen (otherGen g) (if cut then 0 else 2) with switchTo := none }
      if cut then (s.genRequests p (otherGen g)).foldl (fun (s : State) (e : Nat × Request) => s.cutOrMark p e.1) s else s
  let x := s.part p
  if x.cutDrain then
    let s := s.setPart p { x with cutDrain := false }
    let g := otherGen x.admitting
    if x.gen g = 2 then ((s.genRequests p g).foldl (fun (s : State) (e : Nat × Request) => s.cutOrMark p e.1) s).drained p else s
  else s

def State.switchNow (s : State) (p : Nat) : State := s.switchWith p (s.objNat (0x5200 + p) 0x07 == 1)

end Sys2Proof.Machine
end

