-- ==== Sys2Proof/Machine/Boundary.lean ====
section
/-! DEFINITION. The step boundary (R130): handle-table changes, waiting objects, generation switches, key erasures and the
measurement; and the start of a step. -/
namespace Sys2Proof.Machine

/-! ## Measurement (R288) -/

/-- The objects of an index that are RW or RWB, in subindex order, without ROOT_SELECT. -/
def measuredSubs (index : Nat) : List Nat :=
  (List.range 256).filter (fun sub => match objFind index sub with
    | some e => (e.access == .rw || e.access == .rwb) && !(0x5200 ≤ index && index < 0x5240 && sub == 0x11)
    | none => false)

/-- The handle table in entry order, each generation handle twice. -/
def State.handleBytes (s : State) (p : Nat) : List Byte :=
  let x := s.part p
  (addrs 1 4095).flatMap (fun h =>
    if s.genFirst p ≤ h then natBytes 16 (x.handles.get 0 (4096 + h)).toNat ++ natBytes 16 (x.handles.get 0 (8192 + h)).toNat
    else natBytes 16 (x.handles.get 0 h).toNat)

/-- The measurement of the state in force (R288). -/
def State.measurement (s : State) (p : Nat) : List Byte :=
  let x := s.part p
  sha3 (s.obj 0x2100 0x05 ++ s.obj 0x1000 0x05
    ++ natBytes 3 (p + 256 * x.owner + 65536 * boolBit x.exclusive)
    ++ natBytes 32 x.blockMap.toNat ++ s.obj (0x4000 + p) 0x04
    ++ (List.range 8).flatMap (fun i => match x.plans.find? i with
      | some pl => pl.digest
      | none => zeros 64)
    ++ s.obj (0x4000 + p) 0x19 ++ s.obj (0x5200 + p) 0x01 ++ s.obj (0x5200 + p) 0x02
    ++ sha3 (s.obj (0x5200 + p) 0x03 ++ s.obj (0x5200 + p) 0x04) ++ sha3 (s.handleBytes p)
    ++ sha3 ([0x4000 + p, 0x5100 + p, 0x5200 + p, 0x5300 + p, 0x5400 + p].flatMap (fun i => (measuredSubs i).flatMap (s.obj i))))

/-- The measurement is recomputed at every step boundary, and in IDLE when an item changes. -/
def State.measure (s : State) (p : Nat) : State := s.setPart p { s.part p with measured := s.measurement p }
def State.measureIdle (s : State) (p : Nat) : State := if (s.part p).partState = 1 ∧ (s.part p).stepState = .idle then s.measure p else s

/-! ## Changes that wait for the boundary -/

/-- A handle entry takes effect: its tag is set (R119); an entry of KIND 0x00 empties its handle (R117). -/
def Part.loadHandle (x : Part) (e : Nat × BitVec 128) : Part :=
  if hKind e.2 = 0 then { x with handles := x.handles.del e.1, tags := x.tags.del e.1 }
  else { x with handles := x.handles.put e.1 e.2, tags := x.tags.put e.1 {} }

/-- The value that an object will have at the next boundary: the waiting one, or the one in force. -/
def State.upcoming (s : State) (p index sub : Nat) : List Byte :=
  match (s.part p).newObjects.find? (fun w => w.key == objKey index sub) with
  | some w => w.bytes
  | none => s.obj index sub

/-- The first word of a routine slot's data memory, and its bytes (R162). -/
def slotData (slot : Nat) : Nat := 0x90000 + 12288 * slot

/-- The partitions that a core serves, in slot order (R162). -/
def State.slotParts (s : State) (k : Nat) : List Nat :=
  (List.filter (fun e => e.2.partState != 0 && e.2.lead == k) s.parts).map Prod.fst

/-- The routine slot of a partition on its lead core. -/
def State.slotOf (s : State) (p : Nat) : Nat := (s.slotParts (s.part p).lead).findIdx (· == p)

/-- A waiting object takes effect (R431). ADMITTED is judged at the boundary (R276); CHOICE_CODE installs the routine (R164). -/
def State.applyWaiting (s : State) (p : Nat) (w : Waiting) : State :=
  let index := w.key / 256
  let sub := w.key % 256
  if index = 0x4000 + p ∧ sub = 0x04 then
    let old := BitVec.ofNat 256 (s.objNat index sub)
    let new := BitVec.ofNat 256 (leNat w.bytes)
    let gone := (List.range 256).filter (fun t => bitAt old t && !bitAt new t)
    if gone.any (fun u => (s.requestsOf p).any (fun e => e.2.tenant == u) || (s.part p).handles.any (fun e => hOwner e.2 == u)) then s
    else s.setObj index sub w.bytes
  else if index = 0x4000 + p ∧ sub = 0x18 then
    let s := s.setObj index sub w.bytes
    let s := s.setObj index 0x19 (if w.bytes = [] then zeros 64 else sha3 w.bytes)
    let x := s.part p
    let s := s.setPart p { x with routine := { x.routine with code := w.bytes } }
    let k := s.leadCore p
    let lo := slotData (s.slotOf p)
    let code := 0x10000 + 4096 * s.slotOf p
    (s.setCore k { s.core k with dmem := (s.core k).dmem.filter (fun e => !(decide (lo ≤ e.1 ∧ e.1 < lo + 12288))) }).wipe
      ((List.range 384).map (fun i => flawCore k (lo / 32 + i)) ++ (List.range 128).map (fun i => flawCore k (code / 32 + i)))
  else s.setObj index sub w.bytes

/-- Insert a waiting object in index:sub order; a later write replaces the waiting value (R431). -/
def putWaiting : List Waiting → Waiting → List Waiting
  | [], w => [w]
  | v :: t, w => if v.key = w.key then w :: t else if w.key < v.key then w :: v :: t else v :: putWaiting t w

/-- Erase a key: VALID clears and the material is overwritten; key objects that name it read 0 (R281). -/
def State.eraseKey (s : State) (i : Nat) : State :=
  let t := (s.key i).tenant
  let s := s.setKey i {}
  let f := fun (s : State) (sub : Nat) => if s.objNat (0x4100 + t) sub = i then s.setObj (0x4100 + t) sub (natBytes 2 0) else s
  (f (f s 0x04) 0x05).logEvent { cls := 12, code := 2, tenant := some t, detail := i }

/-- Key erasures that wait for this partition's boundary; a key is erased at the last boundary it waits for (R281). -/
def State.eraseHere (s : State) (p : Nat) : State :=
  let l := (s.part p).eraseKeys
  let s := s.setPart p { s.part p with eraseKeys := [] }
  l.foldl (fun s i => if s.parts.any (fun e => e.2.eraseKeys.contains i) then s else s.eraseKey i) s

/-- Tenants whose removal waits for the boundary: their ADMITTED bits and handles go (R276, R290). -/
def State.removeHere (s : State) (p : Nat) : State :=
  (s.part p).removeTenants.foldl (fun s t =>
    if (s.requestsOf p).any (fun e => e.2.tenant == t) then s
    else
      let x := s.part p
      let s := s.setPart p { x with removeTenants := x.removeTenants.erase t, handles := x.handles.filter (fun e => hOwner e.2 != t) }
      s.setObj (0x4000 + p) 0x04 (natBytes 32 ((s.objNat (0x4000 + p) 0x04) &&& (2 ^ 256 - 1 - 2 ^ t)))) s

/-- The slip counters of a partition go to zero (R151, R152). -/
def State.zeroSlip (s : State) (p : Nat) : State :=
  (List.range 17).foldl (fun s i => s.setCounter (0x9100 + p) (i + 1) 0) s

/-- A block that has been retired leaves service (R12). -/
def Block.leave (x : Block) : Block := { x with retired := x.retired || x.retiring, retiring := false }

/-- A partition's blocks that have been retired leave service (R12). -/
def State.leaveBlocks (s : State) (p : Nat) : State :=
  ((mapBlocks (s.part p).blockMap).filter (fun b => (s.block b).retiring)).foldl (fun s b => (s.setBlock b (s.block b).leave).bumpWhere [(true, 0x1010, 0x01), (true, 0x1010, 0x02)]) s

/-- What waits for a step boundary takes effect (R12, R130 step 3, R151, R259, R281, R288). -/
def State.boundary (s : State) (p : Nat) : State :=
  let s := s.leaveBlocks p
  let x := s.part p
  let s := (s.setPart p { x.newHandles.foldl Part.loadHandle x with newHandles := [] }).wipe (x.newHandles.map (fun e => flawHandle p e.1))
  let ws := (s.part p).newObjects
  let s := ws.foldl (fun s w => s.applyWaiting p w) (s.setPart p { s.part p with newObjects := [] })
  let s := if (s.part p).clearSlip then (s.zeroSlip p).setPart p { s.part p with clearSlip := false } else s
  ((((s.switchNow p).drained p).eraseHere p).removeHere p).measure p

/-! ## The start of a step (R130) -/

/-- The queues of a block in a segment, with what the store holds of each (R129). -/
def segmentQueues (seg : Segment) (i : Nat) : Table Queue :=
  (List.range 4).filterMap (fun q => (seg.streams.find? (4 * i + q)).map (fun st =>
    (q, { descs := st.descs, delivered := st.held })))

/-- A segment of the running plan is entered (R131). -/
def State.enterSegment (s : State) (p n : Nat) : State :=
  let x := s.part p
  let x := { x with segment := n, segsIn := x.segsIn + 1, path := x.path ++ [n], choice := none, ended := false }
  let s := s.setPart p x
  match x.seg with
  | none => s
  | some seg => (mapBlocks x.blockMap).zipIdx.foldl (fun s (b, i) => s.setBlock b { s.block b with queues := segmentQueues seg i }) s

/-- The pseudo-channels of a partition take the running plan's records and begin slot 0 of a new frame (R184). -/
def State.loadCalendars (s : State) (p : Nat) : State :=
  let recs := match (s.part p).plan with
    | some pl => pl.hbm
    | none => []
  (s.channelsOf p).zipIdx.foldl (fun s (c, i) =>
    s.setChannel c { s.channel c with record := recs.getD i [], frameAt := s.now, served := 0, bankSlot := [] }) s

/-- While a partition is IDLE, slots 0 to 239 of its pseudo-channels are unclaimed (R184). -/
def State.dropCalendars (s : State) (p : Nat) : State :=
  (s.channelsOf p).foldl (fun s c => s.setChannel c { s.channel c with record := [] }) s

/-- The ticket taken by a WAITING partition: a replay goes first (R392), then the kerb ticket where it is its turn (R250). -/
def Part.nextTicket (x : Part) : Option Ticket :=
  match x.replay with
  | some t => some t
  | none => if x.nextIsKerb then x.kerbTicket else x.tickets.head?

/-- The tickets left once the next one is taken. -/
def Part.takeTicket (x : Part) : Part :=
  if x.replay.isSome then { x with replay := none, replayed := true }
  else if x.nextIsKerb then { x with kerbTicket := none, nextIsKerb := false, silent := false, replayed := false }
  else { x with tickets := x.tickets.tail, silent := false, replayed := false }

/-- The ready tags of the receive buffers are clear at a step start (R342). -/
def Part.clearReceive (x : Part) : Part :=
  { x with tags := x.handles.foldl (fun t e => if hKind e.2 = 3 then t.put e.1 { set := false, before := false } else t) x.tags }

/-- The step of a WAITING partition starts (R130). -/
def State.startStep (s : State) (p : Nat) : State :=
  match (s.part p).nextTicket with
  | none => s
  | some t =>
    let s := (s.boundary p).wipe [flawMail p]
    let x := s.part p
    let lead := s.leadCore p
    let slots := s.objNat (0x5300 + p) 0x01
    let s := s.setPart p { x.takeTicket.clearReceive with
      stepState := .running, running := some t, lcycle := 0, flags := [], segsIn := 0, path := [], freeze := none, fetched := 0,
      extraBank := 0, extraStreet := 0, charged := false, failure := none, slipAtStart := s.counter (0x9100 + p) 1, stepCount := (x.stepCount + 1) % 2 ^ 32,
      barriers := 0, startedAt := s.now, runGen := t.gen, runKerb := t.kerb, lastGen := if t.kerb then x.lastGen else t.gen, committed := [], digested := [], emitted := [],
      frameRestart := some s.now, stepDone := false, servingFree := 0, stepSealed := x.ckptSealed, ckptSent := false, ckptSealed := false, joined := false,
      routine := { x.routine with mailbox := [], started := true, since := s.leadCycles p, segment := field t.desc 32 16, stepNo := if t.kerb then 0 else field t.desc 128 64 } }
    let s := (s.count (0x9500 + p) 0x01 x.binding.length).count (0x9500 + p) 0x02 (slots - x.binding.length)
    ((s.loadCalendars p).enterSegment p (field t.desc 32 16)).raise lead 17

end Sys2Proof.Machine
end

