-- ==== Sys2Proof/Machine/Control.lean ====
section
/-! DEFINITION. The control family (R112) and what the dispatchers and the lead district do between issues: checks (R120), the end of
a freeze (R148), prefetch (R129), the gridlock detector (R153 to R155), segments and the end of a step (R131, R132, R174). -/
namespace Sys2Proof.Machine

/-! ## NOP and NOTE -/

/-- NOP (R112). -/
def execNop (b : Fin 256) (s : State) : Host.Outcome State Fault Refusal :=
  .next (s.issue b.val 3 (fun d => opcode d == 0x80) (fun _ _ _ => []) (fun s p d => s.launch p b.val (s.newOp p b.val 3 d 1 .plain)))

/-- The record a NOTE posts (R112). -/
def noteRecord (d : Desc) : Word := BitVec.ofNat 256 (place 152 8 0x81 ||| place 112 16 (userTag d) ||| place 0 32 (descBytes d 48 4))

/-- NOTE (R112). -/
def execNote (b : Fin 256) (s : State) : Host.Outcome State Fault Refusal :=
  .next (s.issue b.val 3 (fun d => opcode d == 0x81) (fun _ _ _ => []) (fun s p d => s.launch p b.val (s.newOp p b.val 3 d 2 (.vector [] (some (noteRecord d))))))

/-! ## Checks and freezes -/

/-- The check of a head has come (R120). -/
def State.checkDue (s : State) (p b q : Nat) : Option Desc :=
  match (s.part p).seg, s.head b q with
  | some seg, some d =>
    let v := (s.block b).queue q
    if s.live && !v.checked && decide (checkCycle seg.entry v d ≤ (s.part p).lcycle) then some d else none
  | _, _ => none

/-- ISSUE_CHECK (R113, R120, R129): a head not yet prefetched holds the partition; one that fails its check in the queue store, or whose handles do in
their table, fails the step (R211); a corrupt or malformed one fails; a head whose
flags and tags are all visible passes, and otherwise holds the partition. -/
def execIssueCheck (b : Fin 256) (queue : Fin 4) (s : State) : Host.Outcome State Fault Refusal :=
  match s.partOf b.val with
  | none => .next s
  | some p =>
    if !s.issuing p then .next s
    else match s.checkDue p b.val queue.val with
      | none => .next s
      | some d =>
        let x := s.block b.val
        let v := x.queue queue.val
        let dist := districtOf b.val
        if v.delivered = 0 then .next (s.hold p ⟨.queue, b.val, queue.val⟩)
        else match (s.flawFails (flawQueue b.val queue.val)).or (s.handleFails p d) with
        | some (c, sy) => .next (s.failStore p b.val queue.val c sy)
        | none =>
        if !descCrcOk d then .next (s.failDesc p .badCrc b.val queue.val d)
        else if !wellDecoded (s.pageTokens p) (s.groupPages p) queue.val d then .next (s.failDesc p .malformed b.val queue.val d)
        else
          let fl := s.flagsSeen p d dist
          let tg := s.readyTags p b.val d
          if fl && tg then .next (s.setBlock b.val (x.setQueue queue.val { v with checked := true }))
          else
            let s := if fl then s else s.hold p ⟨.flag, b.val, queue.val⟩
            .next (if tg then s else s.hold p ⟨.tag, b.val, queue.val⟩)

/-- FREEZE_RESUME (R148): once every cause is resolved and the one further cycle has passed, the freeze ends. -/
def execFreezeResume (p : Fin 64) (s : State) : Host.Outcome State Fault Refusal :=
  if !s.live then .next s
  else
    let x := s.part p.val
    match x.freeze with
    | none => .next s
    | some z =>
      if z.done && z.holds.all (s.resolved p.val) then
        let s := z.holds.foldl (fun (s : State) (h : Hold) => s.passHeld p.val h) (s.setPart p.val { x with freeze := none })
        .next (s.setCounter (0x9100 + p.val) 0x11 (max (s.counter (0x9100 + p.val) 0x11) z.length))
      else .next s

/-- DESCRIPTOR_PREFETCH (R129): one descriptor more of a STREAMED queue, which a slot of code 0x20 has read, is in the store, up to 256 ahead of
issue. -/
def execDescriptorPrefetch (b : Fin 256) (queue : Fin 4) (s : State) : Host.Outcome State Fault Refusal :=
  if !s.live then .next s
  else
    let x := s.block b.val
    let v := x.queue queue.val
    let p := s.ownerOf b.val
    if v.delivered < min 256 v.descs.length ∧ 0 < (s.part p).fetched then
      match s.flawFails (flawPlan p) with
      | some (c, sy) => .next (s.failStore p b.val queue.val c sy)
      | none =>
      .next ((s.setBlock b.val (x.setQueue queue.val { v with delivered := v.delivered + 1 })).setPart p { s.part p with fetched := (s.part p).fetched - 1 })
    else .next s

/-! ## Gridlock (R153 to R155) -/

/-- A node of the chain. -/
structure Node where
  stamp : Nat
  block : Nat
  queue : Nat
  flag  : Nat
deriving DecidableEq, Repr

/-- A flag is neither set nor being set by an operation in flight. -/
def State.dead (s : State) (p f : Nat) : Bool :=
  !((s.part p).flag f).set && !(s.opsOf p).any (fun o => setFlag o.2.desc == f)

/-- The lowest dead flag that a descriptor waits on. -/
def State.deadFlag (s : State) (p : Nat) (d : Desc) : Option Nat :=
  ((waits d).filter (s.dead p)).foldl (fun m f => match m with
    | none => some f
    | some g => some (min f g)) none

/-- The heads that hold a partition on a failed check, in block and queue order (R153). -/
def Part.heldHeads (x : Part) : List (Nat × Nat) :=
  match x.freeze with
  | none => []
  | some z =>
    (mapBlocks x.blockMap).flatMap (fun b => (List.range 4).filterMap (fun q =>
      if z.holds.any (fun h => (h.cause == .flag || h.cause == .tag) && h.block == b && h.queue == q) then some (b, q) else none))

/-- The block and queue that the plan declares as a flag's setter (R125). -/
def Part.setter (x : Part) (f : Nat) : Option (Nat × Nat) :=
  match x.plan with
  | none => none
  | some pl => match pl.flags[f]? with
    | none => none
    | some w => if bitAt w 15 then (x.block (field w 0 8)).map (fun b => (b, field w 13 2)) else none

/-- Follow the chain from a node: the nodes after it, and KIND (R154). -/
def State.chain (s : State) (p : Nat) : Nat → List Node → Nat → List Node × Nat
  | 0, l, _ => (l, 1)
  | fuel + 1, l, f =>
    match (s.part p).setter f with
    | none => (l, 2)
    | some (b, q) =>
      if l.any (fun n => n.block == b && n.queue == q) then (l, 1)
      else match s.head b q with
        | none => (l ++ [⟨0xFFFFFFFF, b, q, 0xFFF⟩], 2)
        | some d =>
          match (if (s.part p).heldHeads.contains (b, q) then s.deadFlag p d else none) with
          | none => (l ++ [⟨stamp d, b, q, 0xFFF⟩], 2)
          | some g => s.chain p fuel (l ++ [⟨stamp d, b, q, g⟩]) g

/-- The report (R155). -/
def gridlockReport (stepNo town frozenAt delay kind : Nat) (nodes : List Node) : List Byte :=
  let l := nodes.take 8
  natBytes 128 (place 960 64 stepNo ||| place 896 64 town ||| place 864 32 frozenAt ||| place 832 32 delay ||| place 824 8 kind
    ||| place 816 8 l.length ||| l.zipIdx.foldl (fun a (n, i) =>
      a ||| place (64 * i + 32) 32 n.stamp ||| place (64 * i + 24) 8 n.block ||| place (64 * i + 22) 2 n.queue ||| place (64 * i) 12 n.flag) 0)

/-- The period of the detector that the lead district has begun (R153). -/
def State.detectorPeriod (s : State) (p : Nat) : Nat := s.leadCycles p / 4096

/-- A run looks at the heads that are held (R153): the first that waits on a dead flag fails the step. -/
def State.detect (s : State) (p : Fin 64) : Host.Outcome State Fault Refusal :=
    let x := s.part p.val
    match x.freeze with
    | none => .next s
    | some z =>
      match x.heldHeads.findSome? (fun (b, q) => (s.head b q).bind (fun d =>
          ((waits d).filter (s.dead p.val)).head?.map (fun _ => (b, q, d)))) with
      | none => .next s
      | some (b, q, d) =>
        let f := (s.deadFlag p.val d).getD 0xFFF
        let c := s.chain p.val 1024 [⟨stamp d, b, q, f⟩] f
        let delay := (s.district x.lead).cycles - z.since
        let s := s.setObj (0x4000 + p.val) 0x10 (gridlockReport x.stepNo s.town z.lcycle delay c.2 c.1)
        let s := s.logEvent { cls := 2, code := 1, status := Status.gridlock.code, part := p.val, tenant := some x.owner, detail := x.stepNo }
        .next (s.failDesc p.val .gridlock b q d)

/-- GRIDLOCK_DETECTOR_RUN (R153): one run in every 4,096 cycles of the lead district, whether or not the partition is frozen. -/
def execGridlockDetectorRun (p : Fin 64) (s : State) : Host.Outcome State Fault Refusal :=
  if !s.live ∨ s.detectorPeriod p.val ≤ (s.part p.val).detected then .next s
  else (s.setPart p.val { s.part p.val with detected := s.detectorPeriod p.val }).detect p

/-! ## Segments (R131) -/

/-- The end cycle Z of a segment. -/
def Segment.z (g : Segment) : Nat := g.entry + g.length

/-- The successor that a segment's end leads to: none at END, or while a choice is missing. -/
def Part.successor (x : Part) (g : Segment) : Option Nat :=
  match g.next with
  | 1 => some g.fixed
  | 2 => x.choice
  | _ => none

/-- SEGMENT_END (R131): at Z the segment ends, or the partition freezes for the missing choice. -/
def execSegmentEnd (p : Fin 64) (s : State) : Host.Outcome State Fault Refusal :=
  if !s.live then .next s
  else
    let x := s.part p.val
    match x.seg with
    | none => .next s
    | some g =>
      if x.stepState ≠ .running ∨ x.ended ∨ x.lcycle < g.z then .next s
      else if g.next = 2 ∧ x.choice.isNone then .next (s.hold p.val ⟨.segment, 0, 0⟩)
      else .next (s.setPart p.val { x with ended := true })

/-- SEGMENT_ENTRY (R131): the successor is entered at Z + 64. -/
def execSegmentEntry (p : Fin 64) (s : State) : Host.Outcome State Fault Refusal :=
  if !s.live then .next s
  else
    let x := s.part p.val
    match x.seg with
    | none => .next s
    | some g =>
      match x.successor g with
      | none => .next s
      | some n => if x.stepState = .running ∧ x.ended ∧ !x.frozen ∧ g.z + 64 ≤ x.lcycle then .next (s.enterSegment p.val n) else .next s

/-- CHOICE_LIMIT_EXPIRY (R174): frozen for too long on a segment or a summary wait. -/
def execChoiceLimitExpiry (p : Fin 64) (s : State) : Host.Outcome State Fault Refusal :=
  if !s.live then .next s
  else
    let x := s.part p.val
    match x.freeze with
    | none => .next s
    | some z =>
      if x.stepState = .running ∧ s.objNat (0x4000 + p.val) 0x1A < z.waitLen then
        let c := if z.holds.any (fun h => h.cause == .segment && !s.resolved p.val h) then Status.segment else Status.fault
        .next (s.failStep p.val c c.faultClass)
      else .next s

/-! ## The end of a step (R131, R132, R137) -/

/-- The queues of a partition hold no descriptor. -/
def State.queuesEmpty (s : State) (p : Nat) : Bool :=
  (mapBlocks (s.part p).blockMap).all (fun b => (s.block b).queues.all (fun e => e.2.descs.isEmpty))

/-- The body of a STEP completion: PATH, SLIP, SEGS and END_CYCLE (R137). -/
def stepBody (path : List Nat) (slip segs endCycle : Nat) : Nat :=
  (place 320 64 slip ||| place 288 32 segs ||| place 256 32 endCycle
    ||| (List.range 32).foldl (fun a i => a ||| place (512 + 16 * i) 16 (path.getD i 0xFFFF)) 0) / 2 ^ 256

/-- The SLIP of the running step (R148). -/
def State.slip (s : State) (p : Nat) : Nat := (s.counter (0x9100 + p) 1 + 2 ^ 48 - (s.part p).slipAtStart) % 2 ^ 48

/-- The STEP completion of the running ticket, with its failure if it failed (R137, R138). -/
def State.stepRecord (s : State) (p : Nat) (t : Ticket) (f : Option Failure) (endCycle : Nat) : Record :=
  let x := s.part p
  let base : Record := { kind := 1, status := 0, cause := 0, tag := field t.desc 16 16, part := p, stepNo := if t.kerb then 0 else field t.desc 128 64,
                         body := stepBody x.path (s.slip p) x.segsIn endCycle }
  match f with
  | none => base
  | some f => { base with status := Status.stepFailed.code, cause := f.cause.code, block := f.block, queue := f.queue, opcode := f.opcode, stamp := f.stamp }

/-- Write a ticket's STEP completion: a host ticket has a slot reserved; a kerb ticket's goes to PF0 of port 0 (R135, R250). The
completion of a replay is a further record, since the slot was used when the step failed (R138, R392). -/
def State.answerTicket (s : State) (t : Ticket) (again : Bool) (r : Record) : State :=
  if t.dropped then s
  else if again then match t.src with
    | .ring f => s.queueRecord f (r.bytes s.town)
    | .core _ => s.answer t.src r
  else if t.kerb then s.queueRecord ⟨0, 0⟩ (r.bytes s.town) else s.answer t.src r

/-- Unloads that waited for the last step that names a plan take effect (R128). -/
def Part.dropUnloaded (x : Part) : Part :=
  let named := fun (k : Nat) => (x.tickets ++ x.kerbTicket.toList ++ x.running.toList ++ x.replay.toList).any (fun t => t.slot == k)
  { x with plans := x.plans.filter (fun e => !(e.2.unloading && !named e.1)) }

/-- STEP_END (R131): the step is DONE once Z of an END segment is reached and nothing of the step is in flight; the serving unit has
still to take its DONE, after which the record is written (R514). -/
def execStepEnd (p : Fin 64) (s : State) : Host.Outcome State Fault Refusal :=
  if !s.live then .next s
  else
    let x := s.part p.val
    match x.seg with
    | none => .next s
    | some g =>
      if x.stepState = .running ∧ x.ended ∧ g.next = 0 ∧ !x.frozen ∧ (s.opsOf p.val).isEmpty ∧ s.queuesEmpty p.val then
        let y := { x with stepState := .done, stepDone := true, doneDesc := x.running }
        .next ((s.setPart p.val y).raise (s.leadCore p.val) 17)
      else .next s

/-- A partition that is DONE or IDLE takes up its next ticket, or is IDLE (R132, R250). -/
def State.proceed (s : State) (p : Nat) : State :=
  let x := s.part p
  let x := { x with nextIsKerb := x.kerbTicket.isSome }
  match x.nextTicket with
  | some _ => s.setPart p { x with stepState := .waiting, resolving := true, resolveBegan := s.now, joined := false }
  | none => ((s.setPart p { x with stepState := .idle }).dropCalendars p).measure p

end Sys2Proof.Machine
end

