-- ==== Sys2Proof/Machine/Intake.lean ====
section
/-! DEFINITION. Intake rings and completion rings (R134 to R136, R400), the judging of a source (R172, R275), the static rules of host
descriptors (R136, R225, R406), and STEP tickets (R132, R133, R139, R261). -/
namespace Sys2Proof.Machine

/-! ## The entry of a source -/

/-- The entry that a source is processing. -/
def State.current (s : State) : Src → Option Desc
  | .ring f => (s.fn f).current
  | .core k => (s.core k.val).current.map Prod.snd

/-- How a descriptor is judged (R274, R275): by the PF0 column, for a tenant, or as from a VF of no tenant. -/
inductive Judge where
  | pf0
  | tenant (t : Nat)
  | nobody
deriving DecidableEq, Repr

def State.judge (s : State) : Src → Judge
  | .ring f =>
    if f.fn.val = 0 then .pf0
    else match s.tenantOf f with
      | some t => .tenant t
      | none => .nobody
  | .core k =>
    match (s.core k.val).current with
    | some (some t, _) => .tenant t
    | _ => .pf0

/-- The source is done with its entry: HEAD advances, and a RESET that waited takes effect (R135). After an FLR nothing is left of
the entry (R400). -/
def State.retire (s : State) : Src → State
  | .ring f =>
    let x := s.fn f
    if x.dropNext then s.setFn f { x with current := none, moved := none, dropNext := false }
    else
      let y := { x with current := none, moved := none, head := if x.resetDue then x.tail else (x.head + 1) % 2 ^ 32, resetDue := false }
      s.setFn f (if x.resetDue then { y with halted := false, overrun := false } else y)
  | .core k => s.setCore k.val { s.core k.val with current := none, moved := none }

/-- The completion of the entry is to be discarded (R400). -/
def State.dropped (s : State) : Src → Bool
  | .ring f => (s.fn f).dropNext
  | .core _ => false

def dKind (d : Desc) : Nat := field d 0 8
def dPart (d : Desc) : Nat := field d 8 8
def dTag (d : Desc) : Nat := field d 16 16
def dStepNo (d : Desc) : Nat := field d 128 64

/-- The body of a refused STEP ticket: every PATH entry 0xFFFF (R138). -/
def refusedBody : Nat := stepBody [] 0 0 0

/-- Complete an entry with a status and a body (R137, R138). -/
def State.close (s : State) (src : Src) (status : Status) (body : Nat := 0) : State :=
  match s.current src with
  | none => s
  | some d =>
    let step := dKind d == 1
    let r : Record := { kind := dKind d, status := status.code, cause := status.code, tag := dTag d, part := dPart d,
                        stepNo := if step then dStepNo d else 0, body := if step then refusedBody else body }
    (if s.dropped src then s else s.answer src r).retire src

/-! ## The static rules of a host descriptor -/

/-- Bits [lo + len - 1 : lo] are zero. -/
def zeroBits (d : Desc) (lo len : Nat) : Bool := field d lo len == 0

/-- The fields of a REQUEST by its OP (R225). -/
def requestFieldsOk (d : Desc) : Bool :=
  zeroBits d 32 152 && zeroBits d 192 2 && (match field d 184 8 with
    | 1 => decide (1 ≤ field d 292 20) && decide (1 ≤ field d 272 20)
    | 2 => zeroBits d 368 64 && zeroBits d 432 64 && zeroBits d 194 6 && zeroBits d 240 32 && decide (1 ≤ field d 292 20) && decide (1 ≤ field d 272 20)
    | 3 => zeroBits d 240 256 && zeroBits d 194 6
    | 4 => zeroBits d 240 256 && zeroBits d 194 6
    | _ => false)

/-- The fields of a host descriptor by its KIND (R136, R225, R406), as far as they are judged by themselves. -/
def hostFieldsOk (d : Desc) : Bool :=
  decide (dPart d < 64) && (match dKind d with
    | 1 => zeroBits d 192 304 && zeroBits d 80 48 && decide (field d 56 8 < 8)
            && (field d 64 16 == 0xFFFF || field d 64 16 == 0xFFFE || field d 64 16 == 0)
            && (field d 48 8 == 0 || field d 48 8 == 1 || field d 48 8 == 0xFF)
    | 2 => zeroBits d 368 64 && zeroBits d 304 32 && zeroBits d 32 264 && decide (field d 296 8 < 8)
    | 3 => zeroBits d 304 192 && zeroBits d 32 264 && decide (field d 296 8 < 8)
    | 4 => zeroBits d 336 96 && zeroBits d 296 8 && zeroBits d 32 256 && decide (1 ≤ field d 320 16)
            && decide (field d 320 16 + field d 304 16 ≤ 4095)
    | 5 => zeroBits d 336 32 && zeroBits d 296 24 && zeroBits d 32 256 && decide (1 ≤ field d 320 16 ∧ field d 320 16 ≤ 4095)
    | 6 | 7 => zeroBits d 424 8 && zeroBits d 288 48 && zeroBits d 32 240 && zeroBits d 432 5 && zeroBits d 368 5
            && decide (field d 336 32 ≠ 0) && zeroBits d 336 5 && (decide (field d 368 56 / 2 ^ 54 ≠ 0) || zeroBits d 272 16)
    | 0x10 => requestFieldsOk d
    | _ => false)

/-- A STEP ticket's partition holds four accepted tickets that have not started (R132). -/
def State.ticketsFull (s : State) (p : Nat) : Bool := decide (4 ≤ (s.part p).tickets.length)

/-- The first checks of an entry: its CRC, which halts the ring until a RESET, be it one written during the fetch, and its fields (R135). None: the entry stands to be processed by
the row of its KIND. -/
def State.vet (s : State) (src : Src) : State :=
  match s.current src with
  | none => s
  | some d =>
    if !descCrcOk d then
      let s := match src with
        | .ring f => s.setFn f { s.fn f with halted := true }
        | .core _ => s
      s.close src .badCrc
    else if !hostFieldsOk d then s.close src .malformed
    else s

/-- INTAKE_FETCH (R132, R135, R172, R399): an entry is fetched while the ring is enabled and not halted, holds one, has a completion
slot to reserve, and no record waits for it; a core's intake needs none of that. A STEP ticket for a partition that holds four
waits unchecked. -/
def execIntakeFetch (src : Src) (entry : Desc) (s : State) : Host.Outcome State Fault Refusal :=
  if !s.live then .next s
  else match src with
    | .ring f =>
      let x := s.fn f
      if x.enable && !x.halted && x.current.isNone && x.head != x.tail && x.hasRoom && x.queued.isEmpty && s.portFast f.port.val then
        let s := s.setFn f { x with current := some entry, reserved := x.reserved + 1 }
        if dKind entry = 1 ∧ dPart entry < 64 ∧ s.ticketsFull (dPart entry) then .next s else .next (s.vet src)
      else if x.enable && !x.halted && x.current.isNone && x.head != x.tail && !s.portFast f.port.val && (s.pcie.get {} f.port.val).up then
        .next (s.count (0x9C00 + f.port.val) 0x06 1)
      else .next s
    | .core k =>
      let c := s.core k.val
      match c.current, c.intake with
      | none, e :: t =>
        let s := s.setCore k.val { c with current := some e, intake := t }
        if dKind e.2 = 1 ∧ dPart e.2 < 64 ∧ s.ticketsFull (dPart e.2) then .next s else .next (s.vet src)
      | _, _ => .next s

/-! ## STEP -/

/-- STEP, LOAD_PLAN and UNLOAD_PLAN: any LIVE partition for PF0, a partition the tenant owns for a VF (R275). -/
def State.mayRun (s : State) (j : Judge) (p : Nat) : Bool :=
  (s.part p).partState == 1 && (match j with
    | .pf0 => true
    | .tenant t => (s.part p).owner == t
    | .nobody => false)

/-- A profile the part runs (R139, R141). -/
def State.profileOk (s : State) (profile : Nat) : Bool :=
  profile == 1 || (profile == 2 && (Config.steppingB0 || s.objNat 0x1000 0x08 == 1))

/-- The causes of a STEP ticket's refusal in the order of its checks: RIGHTS, STEP_ORDER, PLAN, SEGMENT, PROFILE (R130, R133, R139,
R261). DEDUCED, log 20. -/
def State.ticketCause (s : State) (j : Judge) (d : Desc) : Option Status :=
  let p := dPart d
  let x := s.part p
  let g := field d 48 8
  if !s.mayRun j p then some .rights
  else if !x.anyStep && dStepNo d != (x.lastStep + 1).toNat then some .stepOrder
  else match x.plans.find? (field d 56 8) with
    | none => some .plan
    | some pl =>
      if pl.unloading then some .plan
      else if g < 2 ∧ x.gen g = 0 then some .plan
      else match pl.segments[field d 32 16]? with
        | none => some .plan
        | some seg =>
          if seg.entry ≠ 0 then some .segment
          else if !s.profileOk pl.profile then some .profile
          else none

/-- A ticket accepted ends every sweeper slice of its partition: the saved words stand again (R493). -/
def State.abandonSlices (s : State) (p : Nat) : State :=
  (mapBlocks (s.part p).blockMap).foldl (fun (s : State) (b : Nat) =>
    match (s.block b).slice with
    | some _ => (s.setBlock b { s.block b with slice := none, retried := false }).count 0x9E00 0x02 1
    | none => s) s

/-- Accept a ticket: an IDLE partition takes it up at once (R132). -/
def State.acceptTicket (s : State) (p : Nat) (t : Ticket) : State :=
  let s := s.abandonSlices p
  let x := s.part p
  let s := s.setPart p { x with tickets := x.tickets ++ [t], lastStep := BitVec.ofNat 64 (dStepNo t.desc), anyStep := false }
  if x.stepState = .idle then s.proceed p else s

/-- STEP (R132, R133): the ticket is checked once its partition holds fewer than four, and accepted or refused. -/
def execStep (src : Src) (s : State) : Host.Outcome State Fault Refusal :=
  match s.current src with
  | none => .next s
  | some d =>
    if !s.live ∨ dKind d ≠ 1 then .next s
    else if dPart d < 64 ∧ s.ticketsFull (dPart d) then .next s
    else
      let s := s.vet src
      if (s.current src).isNone then .next s
      else match s.ticketCause (s.judge src) d with
        | some c => .next (s.close src c)
        | none => .next ((s.acceptTicket (dPart d) { desc := d, src := src, dropped := s.dropped src, slot := field d 56 8 }).retire src)

/-! ## The registers of the doorbell page -/

/-- INTAKE_TAIL (R134, R135): more than the entry count ahead of HEAD halts the ring. -/
def execIntakeTail (f : FnId) (value : BitVec 64) (s : State) : Host.Outcome State Fault Refusal :=
  let x := s.fn f
  let t := value.toNat % 2 ^ 32
  let over_ := decide (2 ^ x.intakeCfg < (t + 2 ^ 32 - x.head) % 2 ^ 32)
  .next (s.setFn f { x with tail := t, overrun := x.overrun || over_, halted := x.halted || over_ })

/-- COMPL_HEAD (R134, R135). -/
def execComplHead (f : FnId) (value : BitVec 64) (s : State) : Host.Outcome State Fault Refusal :=
  .next (s.setFn f { s.fn f with complHead := value.toNat % 2 ^ 32 })

/-- A write of RING_CTRL (R134): ENABLE and IRQ_ARM take the value written; RESET discards the entries between HEAD and TAIL, after
the entry being processed if there is one. -/
def State.writeRingCtrl (s : State) (f : FnId) (value : BitVec 64) : State :=
  let x := s.fn f
  let x := { x with enable := bitAt value 0, irqArm := bitAt value 2 }
  let x := if !bitAt value 1 then x
    else if x.current.isSome then { x with resetDue := true }
    else { x with head := x.tail, halted := false, overrun := false }
  s.setFn f x

/-- RING_RESET (R134): a write of RING_CTRL with RESET. -/
def execRingReset (f : FnId) (value : BitVec 64) (s : State) : Host.Outcome State Fault Refusal := .next (s.writeRingCtrl f value)

/-- RING_ENABLE (R134): a write of RING_CTRL with or without ENABLE. -/
def execRingEnable (f : FnId) (value : BitVec 64) (s : State) : Host.Outcome State Fault Refusal := .next (s.writeRingCtrl f value)

/-- IRQ_ARM (R134): a write of RING_CTRL with IRQ_ARM. -/
def execIrqArm (f : FnId) (value : BitVec 64) (s : State) : Host.Outcome State Fault Refusal := .next (s.writeRingCtrl f value)

/-- QUEUED_COMPLETION_WRITE (R135, R399): the oldest record waiting for the ring is written once the port carries writes and, where it
answers no entry, a slot is neither unread nor reserved. -/
def execQueuedCompletionWrite (f : FnId) (s : State) : Host.Outcome State Fault Refusal :=
  let x := s.fn f
  if !s.live || !s.portFast f.port.val then .next s
  else match x.queued with
    | [] => .next s
    | (true, b) :: t => .next ((s.setFn f { x with queued := t, reserved := x.reserved - 1 }).writeRecord f b)
    | (false, b) :: t => if x.hasRoom then .next ((s.setFn f { x with queued := t }).writeRecord f b) else .next s

end Sys2Proof.Machine
end

