-- ==== Sys2Proof/Machine/Admit.lean ====
section
/-! DEFINITION. REQUEST descriptors (R225, R226), the parked table (R227), the preparation of requests (R231) and the resolution of
batches (R232 to R234, R251). -/
namespace Sys2Proof.Machine

/-! ## Allocations -/

/-- The LIVE allocation that holds n bytes from a device address whole (R277); memory of a pseudo-channel that is being cleared belongs to nobody (R214). -/
def State.allocOf (s : State) (a n : Nat) : Option Alloc :=
  (List.find? (fun e => e.2.state == 1 && decide (e.2.base ≤ a ∧ a + n ≤ e.2.base + e.2.size)
    && !(tierOf (a / 32) == 1 && (s.channel (channelOf (a / 32))).clearing)) s.allocs).map Prod.snd

/-! ## REQUEST -/

def rqTenant (d : Desc) : Nat := field d 200 8
def rqId (d : Desc) : Nat := field d 208 32
def rqTtl (d : Desc) : Nat := field d 240 32
def rqLimit (d : Desc) : Nat := field d 272 20
def rqCount (d : Desc) : Nat := field d 292 20
def rqInput (d : Desc) : Nat := field d 312 56
def rqDeadline (d : Desc) : Nat := field d 368 64
def rqSeed (d : Desc) : BitVec 64 := BitVec.ofNat 64 (field d 432 64)
def rqOp (d : Desc) : Nat := field d 184 8

/-- A REQUEST is allowed to its source (R275): PF0 for any LIVE partition, a VF for its own tenant. -/
def State.mayRequest (s : State) (j : Judge) (d : Desc) : Bool :=
  (s.part (dPart d)).partState == 1 && s.owns (dPart d) (rqTenant d) && (match j with
    | .pf0 => true
    | .tenant t => t == rqTenant d
    | .nobody => false)

/-- The input tokens lie in an allocation of the tenant in tier 1 or 3, from a word boundary (R225, R226). -/
def State.inputOk (s : State) (d : Desc) : Bool :=
  rqInput d % 32 == 0 && (match s.allocOf (rqInput d) (4 * rqCount d) with
    | some a => a.tenant == rqTenant d && tierOf (rqInput d / 32) != 2
    | none => false)

/-- The checks of R226 in order: the STATUS of the first that fails. -/
def State.requestCause (s : State) (j : Judge) (d : Desc) : Option Status :=
  let p := dPart d
  let live := s.findRequest p (rqId d)
  let isAdmit := rqOp d == 1
  let isAppend := rqOp d == 2
  let st := (live.map (fun e => e.2.state)).getD .free
  if !s.mayRequest j d then some .rights
  else if isAdmit == live.isSome then some .malformed
  else if !isAdmit && (live.map (fun e => e.2.tenant)) != some (rqTenant d) then some .rights
  else if isAdmit && (field d 194 2 == 3 || (field d 194 2 != 0 && s.objNat (0x5100 + p) 0x02 == 0)) then some .malformed
  else if (isAdmit || isAppend) && !s.inputOk d then some .bounds
  else if isAdmit && s.freeResident.isNone && s.freeParked.isNone then some .bounds
  else if isAppend && st != .paused && st != .kerbed then some .malformed
  else if rqOp d == 3 && st != .active && st != .admitted then some .malformed
  else if isAdmit && decide (s.tokenCap p < rqCount d) then some .bounds
  else if isAppend && decide (s.tokenCap p < (live.map (fun e => e.2.tokens)).getD 0 + rqCount d + 1) then some .bounds
  else none

/-- A building time as town time (R374); 0 where it is 0 or no correspondence is in force, which is counted. -/
def State.deadlineOf (s : State) (u : Nat) : Nat × State :=
  if u = 0 then (0, s)
  else match s.time.utc with
    | none => (0, s.count 0x9A00 0x05 1)
    | some (u0, ta) => ((max 1 ((ta : Int) + 1600 * ((u : Int) - (u0 : Int)))).toNat % 2 ^ 64, s)

/-- The entry that a REQUEST names is read, unless a step binds it, whose end reads it (R223). -/
def State.readNamed (s : State) (j : Judge) (d : Desc) : State :=
  match s.mayRequest j d, s.findRequest (dPart d) (rqId d) with
  | true, some e => if s.isBound (dPart d) e.1 then s else s.readEntry e
  | _, _ => s

/-- A REQUEST of an OP that stands to be processed: refused by R226, or `act` and OK. -/
def State.requestRow (s : State) (src : Src) (op : Nat) (act : State → Desc → State) : State :=
  match s.current src with
  | none => s
  | some d =>
    if !s.live ∨ dKind d ≠ 0x10 ∨ rqOp d ≠ op then s
    else
      let s := s.readNamed (s.judge src) d
      match s.requestCause (s.judge src) d with
      | some c => s.close src c
      | none => (act s d).close src .ok

/-- The function that a request's completions go to: that of its ring; a core's are PF0 of port 0 (DESIGN CHOICE, log 21). -/
def originOf : Src → FnId
  | .ring f => f
  | .core _ => ⟨0, 0⟩

/-- ADMIT (R226, R262). Where in the firmware region its directory root and its provenance record lie is not stated: free values (log 94). -/
def execAdmitRequest (src : Src) (s : State) : Host.Outcome State Fault Refusal :=
  .next (s.requestRow src 1 (fun s d =>
    let p := dPart d
    let (dl, s) := s.deadlineOf (rqDeadline d)
    let (root, s) := s.draw 56
    let (record, s) := s.draw 32
    let i := match s.freeResident with
      | some i => i
      | none => s.freeParked.getD 8192
    let r : Request := {
      seed := rqSeed d, deadline := dl, limit := rqLimit d, admitTime := s.town, reqId := rqId d,
      ttl := if rqTtl d = 0 then s.objNat (0x5100 + p) 0x03 else rqTtl d, prefill := rqCount d, input := rqInput d,
      parked := decide (8192 ≤ i), parkIndex := i - 8192, origin := originOf src, tenant := rqTenant d, partition := p,
      priority := field d 196 4, kerbMode := field d 194 2, gen := (s.part p).admitting, state := .admitted,
      dirRoot := root, digestRef := record }
    (s.setRequest i r).count (0x9500 + p) 0x06 1))

/-- APPEND (R226, R253): a PAUSED request starts a new turn; a KERBED one is recalled. -/
def execAppend (src : Src) (s : State) : Host.Outcome State Fault Refusal :=
  .next (s.requestRow src 2 (fun s d =>
    match s.findRequest (dPart d) (rqId d) with
    | none => s
    | some (i, r) =>
      s.setRequest i { r with prefill := rqCount d + 1, input := rqInput d - 4, joinLast := true, limit := rqLimit d, turnTokens := 0,
                              expiry := 0, chunk := [], prepared := false, kerbWaited := false, recallWaited := false,
                              state := if r.state = .kerbed then .recalling else .admitted }))

/-- A PAUSE takes effect (R223). -/
def State.pauseNow (s : State) (i : Nat) : State :=
  let r := s.request i
  match r.state with
  | .active => s.setRequest i { r with state := .paused, pausedAt := s.town, pauseWaits := false }
  | .admitted => s.setRequest i { r with pauseHeld := true, pauseWaits := false }
  | _ => s.setRequest i { r with pauseWaits := false }

/-- PAUSE (R223, R224, R226): held while a step binds the request. -/
def execPause (src : Src) (s : State) : Host.Outcome State Fault Refusal :=
  .next (s.requestRow src 3 (fun s d =>
    match s.findRequest (dPart d) (rqId d) with
    | none => s
    | some (i, r) => if s.isBound (dPart d) i then s.setRequest i { r with pauseWaits := true } else s.pauseNow i))

/-- CANCEL (R224, R226, R255). -/
def execCancel (src : Src) (s : State) : Host.Outcome State Fault Refusal :=
  .next (s.requestRow src 4 (fun s d =>
    match s.findRequest (dPart d) (rqId d) with
    | none => s
    | some (i, _) => s.cancelRequest (dPart d) i))

/-! ## The parked table (R227) -/

/-- Effective priority at a town time (R233). -/
def Request.effective (r : Request) (town : Nat) : Nat := if r.deadline ≠ 0 ∧ r.deadline < town then 16 else r.priority

/-- Binding order (R232): r comes before q. -/
def Request.before (town : Nat) (r q : Request) : Bool :=
  let a := r.effective town
  let b := q.effective town
  let key := fun (d : Nat) => if d = 0 then 2 ^ 64 else d
  if a ≠ b then decide (b < a)
  else if key r.deadline ≠ key q.deadline then decide (key r.deadline < key q.deadline)
  else if r.admitTime ≠ q.admitTime then decide (r.admitTime < q.admitTime)
  else decide (r.reqId < q.reqId)

/-- Insert an entry into a list in binding order. -/
def insertBinding (town : Nat) (e : Nat × Request) : List (Nat × Request) → List (Nat × Request)
  | [] => [e]
  | f :: t => if e.2.before town f.2 then e :: f :: t else f :: insertBinding town e t

/-- Entries in binding order. -/
def bindingOrder (town : Nat) (l : List (Nat × Request)) : List (Nat × Request) :=
  l.foldl (fun acc e => insertBinding town e acc) []

/-- The entry of a list least by a measure. -/
def leastBy (f : Nat × Request → Nat) : List (Nat × Request) → Option (Nat × Request)
  | [] => none
  | e :: t => match leastBy f t with
    | none => some e
    | some g => if f e ≤ f g then some e else some g

/-- Bound in its partition's last step, or in the running or waiting one (R227, R261). -/
def State.inLastStep (s : State) (i : Nat) (r : Request) : Bool :=
  let x := s.part r.partition
  s.isBound r.partition i || ((if r.gen = 0 then x.lastBinding0 else x.lastBinding1).any (fun e => e.2 == i && r.slot == e.1))

/-- The entry that parking chooses. -/
def State.parkChoice (s : State) : Option (Nat × Request) :=
  let l := s.requests.filter (fun e => decide (e.1 < 8192) && !s.inLastStep e.1 e.2)
  match leastBy (fun e => e.2.expiry) (l.filter (fun e => e.2.state == .kerbed)) with
  | some e => some e
  | none => match leastBy (fun e => e.2.admitTime) (l.filter (fun e => e.2.state == .paused)) with
    | some e => some e
    | none => (bindingOrder s.town (l.filter (fun e => e.2.state == .admitted))).getLast?

/-- The word address of entry n of the parked table: in the firmware regions, one entry of each pseudo-channel in turn (DESIGN CHOICE, log 93). -/
def parkedWord (n : Nat) : Nat := tier1 (n % 256) (firmwareWord + 4 * (n / 256))

/-- The entry of a move between the tables that lies in the parked one. -/
def parkedOf (i j : Nat) : Nat := (max i j) - 8192

/-- A move between the tables may go: a service slot for it, and its tenant's bucket (R205, R227). -/
def State.mayMove (s : State) (i j : Nat) : Bool := s.serviceReady (some (s.request i).tenant) (parkedWord (parkedOf i j))

/-- Move an entry between the tables: one 128-byte unit of service traffic. -/
def State.moveEntry (s : State) (i j : Nat) : State :=
  let r := s.request i
  let s := s.serviceMove (some r.tenant) (parkedWord (parkedOf i j)) 4
  ({ s with requests := (s.requests.del i).put j { r with parked := decide (8192 ≤ j), parkIndex := j - 8192, prepared := false, chunk := [], slot := 0xFFF } } : State).bumpWhere [(r.state != .free, 0x5000, 0x01), (r.state != .free, 0x5000, 0x02)]

/-- PARK_ENTRY (R227): while fewer than 256 resident entries are free. -/
def execParkEntry (s : State) : Host.Outcome State Fault Refusal :=
  if s.live ∧ 8192 < s.residents + 256 then
    match s.parkChoice, s.freeParked with
    | some (i, _), some j => .next (if s.mayMove i j then s.moveEntry i j else s)
    | _, _ => .next s
  else .next s

/-- A PAUSED request has been paused for KERB_AFTER ms (R247). -/
def State.kerbAged (s : State) (r : Request) : Bool := decide (r.pausedAt + s.objNat (0x5100 + r.partition) 0x04 * Config.ticksPerMs ≤ s.town)

/-- A PAUSED request is to be kerbed by R247. -/
def State.kerbDue (s : State) (r : Request) : Bool :=
  r.state == .paused && (s.kerbAged r || decide (s.freeFrames r.partition < s.objNat (0x5100 + r.partition) 0x05))

/-- The parked request that is to be kerbed, the one paused longest first (R247). -/
def State.kerbUnpark (s : State) : Option (Nat × Request) :=
  leastBy (fun e => e.2.pausedAt) (s.requests.filter (fun e => decide (8192 ≤ e.1) && s.kerbDue e.2))

/-- The entry that unparking chooses: one that an APPEND named, one to be kerbed, then ADMITTED ones in binding order. -/
def State.unparkChoice (s : State) : Option (Nat × Request) :=
  let l := s.requests.filter (fun e => decide (8192 ≤ e.1))
  match l.find? (fun e => e.2.state == .recalling || (e.2.state == .admitted && e.2.joinLast)) with
  | some e => some e
  | none => match s.kerbUnpark with
    | some e => some e
    | none => (bindingOrder s.town (l.filter (fun e => e.2.state == .admitted))).head?

/-- UNPARK_ENTRY (R227, R247): while more than 512 resident entries are free; one that is to be kerbed needs only one that is free. -/
def execUnparkEntry (s : State) : Host.Outcome State Fault Refusal :=
  if s.live then
    match (if s.residents + 512 < 8192 then s.unparkChoice else s.kerbUnpark), s.freeResident with
    | some (i, _), some j => .next (if s.mayMove i j then s.moveEntry i j else s)
    | _, _ => .next s
  else .next s

/-! ## Preparing (R231) -/

/-- The U32 tokens of bytes. -/
def tokensOf : Nat → List Byte → List Nat
  | 0, _ => []
  | n + 1, l => leNat (l.take 4) :: tokensOf n (l.drop 4)

/-- Read n bytes of a tenant's data at a device address under its DMA_KEY for a partition, counting what is mended and reporting what fails (R211, R219, R220); none
where the key does not hold or a word fails. -/
def State.readBytes (s : State) (p t a n : Nat) : Option (List Byte) × State :=
  let key := s.objNat (0x4100 + t) 0x05
  if n = 0 then (some [], s)
  else if !s.keyOk key t then (none, s)
  else
    let l := addrs (a / 32) (ceilDiv (a % 32 + n) 32)
    let run := s.readTier key l
    let s := s.mendedTier run.mended
    match run.failed with
    | some (b, c, sy) => (none, s.serviceFailed (some p) t (b * 32) c sy)
    | none => (some (slice (wordsBytes run.words) (a % 32) n), s)

/-- Entries of a partition in the directory cache: those of its prepared requests, with the frames that a coming step adds (R230). -/
def State.cachedPages (s : State) (p : Nat) : Nat :=
  ((s.requestsOf p).map (fun e => if e.2.prepared then e.2.dir.length + e.2.newFrames.length else 0)).foldl (· + ·) 0

/-- n further entries find room in a partition's share of the directory cache (R230, R231). -/
def State.cacheHolds (s : State) (p n : Nat) : Bool := decide (s.cachedPages p + n ≤ s.objNat (0x5300 + p) 0x08)

/-- The length of an ADMITTED request's next chunk. -/
def State.chunkLen (s : State) (p : Nat) (r : Request) : Nat := min (s.chunk p) r.prefill

/-- REQUEST_PREPARE (R231): a resident ADMITTED or ACTIVE request whose pages and chunk find room in its partition's shares is
staged. Reading the chunk is service traffic of its tenant. -/
def execRequestPrepare (i : Nat) (s : State) : Host.Outcome State Fault Refusal :=
  let r := s.request i
  let p := r.partition
  let n := s.chunkLen p r
  let staged := ((s.requestsOf p).filter (fun e => e.1 != i && !e.2.chunk.isEmpty)).length
  if !s.live ∨ 8192 ≤ i ∨ s.isBound p i then .next s
  else if !r.prepared && !s.cacheHolds p r.dir.length then .next s
  else if r.state = .active then .next (s.setRequest i { r with prepared := true })
  else if r.state ≠ .admitted ∨ s.objNat (0x5300 + p) 0x01 ≤ staged then .next s
  else
    let skip := if r.joinLast then 1 else 0
    if !s.serviceReady (some r.tenant) (r.input / 32) then .next s
    else match s.readBytes p r.tenant (r.input + 4 * skip) (4 * (n - skip)) with
    | (none, s) => .next s
    | (some l, s) =>
      let chunk := (if r.joinLast then [r.lastToken] else []) ++ tokensOf (n - skip) l
      .next ((s.serviceMove (some r.tenant) (r.input / 32) (ceilDiv (4 * n) 32)).setRequest i { r with prepared := true, chunk := chunk })

/-! ## Resolution (R232 to R234, R251) -/

/-- The generation slot a host ticket runs under (R261). -/
def State.ticketGen (s : State) (p : Nat) (t : Ticket) : Nat :=
  let x := s.part p
  match field t.desc 48 8 with
  | 0 => 0
  | 1 => 1
  | _ => if x.gen (otherGen x.admitting) = 2 then otherGen x.lastGen else x.admitting

/-- The request is prepared for a step under generation slot g, its frames apart (R231). -/
def State.isPrepared (s : State) (p g : Nat) (e : Nat × Request) : Bool :=
  let r := e.2
  decide (e.1 < 8192) && r.partition == p && r.gen == g && r.prepared && !r.cancel && !r.cut
    && (r.state == .active || (r.state == .admitted && decide (r.chunk.length = s.chunkLen p r ∧ 0 < r.prefill)))

/-- The directory indices that n tokens after `tokens` need and that a directory lacks. -/
def State.needed (s : State) (p : Nat) (dir : Table Nat) (tokens n : Nat) : List Nat :=
  if n = 0 then []
  else
    let g := s.groupPages p
    let top := ((tokens + n - 1) / max 1 (s.pageTokens p) + 1) * g
    (List.range top).filter (fun j => (dir.find? j).isNone)

/-- Take frames for directory indices: the frames taken, or none where the pool runs short (R229, R231). -/
def State.takeAll (s : State) (p i t : Nat) (shadow : Bool) : List Nat → Option State
  | [] => some s
  | j :: js =>
    match s.pickFrame p t j with
    | none => none
    | some f =>
      let s := s.takeFrame p t j f
      let r := s.request i
      (s.setRequest i (if shadow then { r with shadow := r.shadow.put j f } else { r with newFrames := r.newFrames.put j f })).takeAll p i t shadow js

/-- Bind a request to a slot of the coming step; counted where it is not prepared, its entries find no room in the cache share, or only its frames are wanting (R230, R231). -/
def State.bindSlot (s : State) (p g slot : Nat) (e : Nat × Request) : State × Bool :=
  let i := e.1
  let r := s.request i
  if !s.isPrepared p g (i, r) then (s.count (0x9500 + p) 0x03 1, false)
  else
    let l := s.needed p r.dir r.tokens (if r.state = .admitted then s.chunkLen p r else 1)
    if !s.cacheHolds p l.length then (s.count (0x9500 + p) 0x03 1, false)
    else match s.takeAll p i r.tenant false l with
    | none => ((s.count (0x9500 + p) 0x03 1).count (0x9500 + p) 0x04 1, false)
    | some s => (s.setPart p { s.part p with binding := (s.part p).binding.put slot i }, true)

/-- The slots of the last step under slot g whose requests still are the same, with their requests. -/
def State.lastSlots (s : State) (p g n : Nat) : List (Nat × Nat) :=
  (if g = 0 then (s.part p).lastBinding0 else (s.part p).lastBinding1).filter (fun e =>
    let r := s.request e.2
    decide (e.1 < n) && r.partition == p && r.gen == g && r.slot == e.1 && r.state != .free)

/-- Fill free slots in ascending order by candidates in binding order: one that is not bound is counted and passed over. -/
def State.fillSlots (s : State) (p g : Nat) : List Nat → List (Nat × Request) → State
  | [], _ => s
  | _, [] => s
  | slot :: slots, e :: es =>
    let (s, ok) := s.bindSlot p g slot e
    if ok then s.fillSlots p g slots es else s.fillSlots p g (slot :: slots) es

/-- Requests of a partition that may be bound: ADMITTED or ACTIVE under slot g, not bound yet. -/
def State.candidates (s : State) (p g : Nat) : List (Nat × Request) :=
  (s.requestsOf p).filter (fun e => (e.2.state == .admitted || e.2.state == .active) && e.2.gen == g && !s.isBound p e.1)

/-- A host ticket's batch (R232). In automatic mode a request that may not keep its slot is passed over once. -/
def State.resolveHost (s : State) (p g n binding : Nat) : State :=
  let held := (s.lastSlots p g n).map Prod.snd
  let keep := fun (s : State) => (s.lastSlots p g n).foldl (fun (s : State) (e : Nat × Nat) =>
    let r := s.request e.2
    if r.state = .admitted ∨ r.state = .active then (s.bindSlot p g e.1 (e.2, r)).1 else s) s
  match binding with
  | 0xFFFF =>
    let s := keep s
    let free := (List.range n).filter (fun k => ((s.part p).binding.find? k).isNone)
    s.fillSlots p g free (bindingOrder s.town ((s.candidates p g).filter (fun e => !held.contains e.1)))
  | 0xFFFE => keep s
  | _ =>
    let ids := tokensOf (min n ((s.upcoming p (0x5300 + p) 0x0B).length / 4)) (s.upcoming p (0x5300 + p) 0x0B)
    ids.zipIdx.foldl (fun (s : State) (e : Nat × Nat) =>
      if e.1 = 0xFFFFFFFF then s
      else match s.findRequest p e.1 with
        | none => s
        | some r => if s.isBound p r.1 then s else (s.bindSlot p g e.2 r).1) s

/-- Requests in the order in which they entered KERBING. -/
def kerbInsert (e : Nat × Request) : List (Nat × Request) → List (Nat × Request)
  | [] => [e]
  | f :: t => if e.2.kerbOrder < f.2.kerbOrder then e :: f :: t else f :: kerbInsert e t

/-- The requests that wait for a summary step. -/
def State.toSummarise (s : State) (p : Nat) : List (Nat × Request) :=
  ((s.requestsOf p).filter (fun e => e.2.state == .kerbing && e.2.kerbSum && !e.2.summarised)).foldl (fun l e => kerbInsert e l) []

/-- A kerb ticket's batch (R251): each request bound takes the frames of its shadow. -/
def State.resolveKerb (s : State) (p : Nat) : List Nat → List (Nat × Request) → State
  | [], _ => s
  | _, [] => s
  | slot :: slots, e :: es =>
    let n := leNat (s.upcoming p (0x5100 + p) 0x0C)
    match s.takeAll p e.1 e.2.tenant true (s.needed p [] 0 n) with
    | none => (s.count (0x9500 + p) 0x04 1).resolveKerb p (slot :: slots) es
    | some s => (s.setPart p { s.part p with binding := (s.part p).binding.put slot e.1 }).resolveKerb p slots es

/-- Deadlines that resolution finds passed (R233). -/
def State.markMissed (s : State) (p : Nat) : State :=
  (s.requestsOf p).foldl (fun (s : State) (e : Nat × Request) =>
    if e.2.deadline ≠ 0 ∧ e.2.deadline < s.town ∧ !e.2.missed then
      (s.setRequest e.1 { e.2 with missed := true }).count (0x9500 + p) 0x05 1
    else s) s

/-- The resident entries of a partition are read (R223). -/
def State.readEntries (s : State) (p : Nat) : State := ((s.requestsOf p).filter (fun e => decide (e.1 < 8192))).foldl State.readEntry s

/-- BATCH_RESOLUTION (R232 to R234, R251, R259, R261): the ticket taken by a WAITING partition has its batch resolved, after a switch of generations that waits, and with
the objects that the boundary will put in force. -/
def execBatchResolution (p : Fin 64) (s : State) : Host.Outcome State Fault Refusal :=
  let x := s.part p.val
  match x.nextTicket with
  | none => .next s
  | some t =>
    if !s.live ∨ x.stepState ≠ .waiting ∨ !x.resolving then .next s
    else
      let s := ((s.setPart p.val { x with binding := [] }).switchWith p.val (leNat (s.upcoming p.val (0x5200 + p.val) 0x07) == 1)).drained p.val
      let n := leNat (s.upcoming p.val (0x5300 + p.val) 0x01)
      let s := (s.readEntries p.val).markMissed p.val
      let g := if t.kerb then t.gen else s.ticketGen p.val t
      let s := if t.kerb then s.resolveKerb p.val (List.range n) ((s.toSummarise p.val).filter (fun e => e.2.gen == g))
               else s.resolveHost p.val g n (field t.desc 64 16)
      let y := s.part p.val
      let t := { t with gen := g }
      .next (s.setPart p.val (if t.kerb then { y with kerbTicket := some t, resolving := false }
        else { y with tickets := t :: y.tickets.tail, resolving := false }))

end Sys2Proof.Machine
end

