-- ==== Sys2Proof/Machine/Codeword.lean ====
section
/-! DEFINITION. The code of the avenue links (R295): Reed–Solomon over GF(2^9), 256 data and 16 parity symbols, up to 8 symbols mended. -/
namespace Sys2Proof.Machine

/-! ## GF(2^9), x^9 + x^4 + 1 -/

/-- Multiply by α. -/
def gfTwice (a : Nat) : Nat := if 256 ≤ a then ((a * 2) ^^^ 0x211) % 512 else a * 2

/-- The product over the low n bits of b. -/
def gfMulN : Nat → Nat → Nat → Nat
  | 0, _, _ => 0
  | n + 1, a, b => (if b % 2 = 1 then a else 0) ^^^ gfMulN n (gfTwice a) (b / 2)

def gfMul (a b : Nat) : Nat := gfMulN 9 a b

/-- A power, over the low n bits of the exponent. -/
def gfPowN : Nat → Nat → Nat → Nat
  | 0, _, _ => 1
  | n + 1, a, e => gfMul (if e % 2 = 1 then a else 1) (gfPowN n (gfMul a a) (e / 2))

def gfPow (a e : Nat) : Nat := gfPowN 9 a (e % 511)

/-- The inverse, a^510; 0 for 0. -/
def gfInv (a : Nat) : Nat := if a = 0 then 0 else gfPow a 510

/-! ## Polynomials, lowest coefficient first -/

/-- The value of a polynomial. -/
def polyAt (x : Nat) : List Nat → Nat
  | [] => 0
  | c :: t => c ^^^ gfMul x (polyAt x t)

def polyAdd : List Nat → List Nat → List Nat
  | [], b => b
  | a, [] => a
  | x :: a, y :: b => (x ^^^ y) :: polyAdd a b

def polyScale (k : Nat) (p : List Nat) : List Nat := p.map (gfMul k)

def polyMul : List Nat → List Nat → List Nat
  | [], _ => []
  | x :: a, b => polyAdd (polyScale x b) (0 :: polyMul a b)

/-! ## Encoding -/

/-- The generator polynomial, the product of (x − α^i) for i below 16. -/
def rsGenerator : List Nat := (List.range 16).foldl (fun g i => polyMul g [gfPow 2 i, 1]) [1]

/-- One step of the division: the remainder, highest coefficient first, shifted by one data symbol. -/
def rsShift (g r : List Nat) (s : Nat) : List Nat :=
  let f := s ^^^ r.headD 0
  List.zipWith (fun a b => a ^^^ gfMul f b) (r.tail ++ [0]) g

/-- The 272 symbols of a codeword of 256 data symbols. -/
def rsEncode (d : List Nat) : List Nat :=
  let g := (rsGenerator.take 16).reverse
  d ++ d.foldl (rsShift g) (List.replicate 16 0)

/-! ## Decoding -/

/-- The syndromes of received symbols, symbol 0 being the highest coefficient. -/
def rsSyndromes (r : List Nat) : List Nat :=
  (List.range 16).map (fun i => let a := gfPow 2 i; r.foldl (fun v s => gfMul v a ^^^ s) 0)

/-- The state of the Berlekamp–Massey iteration. -/
structure Massey where
  sigma : List Nat
  prev  : List Nat
  len   : Nat
  shift : Nat
  last  : Nat
deriving DecidableEq, Repr

/-- One step, for syndrome n. -/
def masseyStep (sy : List Nat) (m : Massey) (n : Nat) : Massey :=
  let d := (List.range (m.len + 1)).foldl (fun a i => a ^^^ gfMul (m.sigma.getD i 0) (if i ≤ n then sy.getD (n - i) 0 else 0)) 0
  if d = 0 then { m with shift := m.shift + 1 }
  else
    let upd := polyAdd m.sigma (List.replicate m.shift 0 ++ polyScale (gfMul d (gfInv m.last)) m.prev)
    if 2 * m.len ≤ n then { sigma := upd, prev := m.sigma, len := n + 1 - m.len, shift := 1, last := d }
    else { m with sigma := upd, shift := m.shift + 1 }

/-- The error locator. -/
def rsLocator (sy : List Nat) : Massey := (List.range 16).foldl (masseyStep sy) ⟨[1], [1], 0, 1, 1⟩

/-- What the decoder makes of a codeword: the data symbols and whether any symbol was mended, or nothing. -/
def rsDecode (r : List Nat) : Option (List Nat × Bool) :=
  let sy := rsSyndromes r
  if sy.all (· == 0) then some (r.take 256, false)
  else
    let m := rsLocator sy
    let omega := (polyMul sy m.sigma).take 16
    let odd := m.sigma.zipIdx.map (fun (c, i) => if i % 2 = 1 then c else 0)
    let fixed := r.zipIdx.map (fun (s, j) =>
      let x := gfPow 2 (271 - j)
      let xi := gfInv x
      if polyAt xi m.sigma = 0 then (s ^^^ gfMul (gfMul x (polyAt xi omega)) (gfInv (polyAt xi (odd.tail))), true) else (s, false))
    let out := fixed.map Prod.fst
    if m.len ≤ 8 ∧ (fixed.filter Prod.snd).length = m.len ∧ (rsSyndromes out).all (· == 0) then some (out.take 256, true) else none

/-- The 288 bytes of 256 data symbols: symbol s holds data bits 9s + 8 down to 9s (R295). -/
def symbolBytes (d : List Nat) : List Byte := natBytes 288 (d.foldr (fun s a => s + 512 * a) 0)

/-- The data symbols of 288 bytes. -/
def byteSymbols (l : List Byte) : List Nat := let v := leNat l; (List.range 256).map (fun s => (v >>> (9 * s)) % 512)

end Sys2Proof.Machine
end

