-- ==== Sys2Proof/Machine/Serving.lean ====
section
/-! DEFINITION. The serving descriptors (R235 to R241, R257, R264), the DONE of a step at the serving unit (R224, R242, R252, R265 to
R267, R514), and the report of a failed step (R138, R218). -/
namespace Sys2Proof.Machine

/-! ## The serving port (R237) -/

/-- Put a serving descriptor in flight after a transfer of w words on the partition's port, which is kept in logical cycles (R237). -/
def State.launchServing (s : State) (p b : Nat) (d : Desc) (w : Nat) (writes : List (Nat × Word)) : State :=
  let x := s.part p
  let t := max x.lcycle x.servingFree
  let s := s.setPart p { x with servingFree := t + ceilDiv w 2 }
  s.launch p b (s.newOp p b 3 d ((t - x.lcycle) + 160 + ceilDiv w 2 - 1) (.serving writes))

/-- An operand of a serving descriptor names a KIND 0x01 handle of a block of the partition; otherwise BOUNDS (DEDUCED, log 22). -/
def State.servingRef (s : State) (p r : Nat) : List Status :=
  let e := s.handle p (opHandle r)
  if hKind e = 1 ∧ bitAt (s.part p).blockMap (hBlock e) then [] else [.bounds]

/-- A word for each slot of a descriptor. -/
def State.slotWords (s : State) (p : Nat) (d : Desc) (f : Nat → Option Request → List Word) : List (Nat × Word) :=
  let ws := (addrs (slot0 d) (nslot d)).flatMap (fun i => f i (s.bound p i))
  let e := s.handle p (opHandle (opnd d 0))
  (addrs (hAddr e (opOffset (opnd d 0))) ws.length).zip ws

/-- A BIND of one kind issues. -/
def State.issueBind (s : State) (b kind : Nat) (f : State → Nat → Desc → Option Request → List Word) : State :=
  s.issue b 3 (fun d => opcode d == 0x70 && variant d == kind) (fun s p d => s.servingRef p (opnd d 0)) (fun s p d =>
    let ws := s.slotWords p d (fun _ r => f s p d r)
    s.launchServing p b d ws.length ws)

/-- The seed record of a slot (R100, R235). -/
def seedRecord (draw : Nat) (r : Request) : Word :=
  BitVec.ofNat 256 (place 128 8 draw ||| place 64 64 r.stepCtr.toNat ||| r.seed.toNat)

/-- BIND SEEDREC (R235). -/
def execBindSeedrec (b : Fin 256) (s : State) : Host.Outcome State Fault Refusal :=
  .next (s.issueBind b.val 0 (fun _ _ d r => [match r with
    | some r => seedRecord (modeOf d) r
    | none => 0]))

/-- The SLOTINFO word of a bound slot (R236). -/
def State.slotInfo (s : State) (p : Nat) (r : Request) : Word :=
  BitVec.ofNat 256 (place 224 32 r.lastToken ||| place 204 20 r.tokens ||| place 184 20 r.prefill ||| place 164 20 (s.adv p r)
    ||| place 128 8 r.tenant ||| place 1 1 r.gen ||| 1)

/-- BIND SLOTINFO (R235, R236). -/
def execBindSlotinfo (b : Fin 256) (s : State) : Host.Outcome State Fault Refusal :=
  .next (s.issueBind b.val 1 (fun s p _ r => [match r with
    | some r => s.slotInfo p r
    | none => 0]))

/-- The tokens that a step carries for a request: its staged chunk, or its last token. -/
def Request.carried (r : Request) : List Nat := if r.state = .admitted then r.chunk else [r.lastToken]

/-- The input record of a slot: PREFILL_CHUNK/8 words (R235). -/
def State.inputWords (s : State) (p : Nat) (r : Request) : List Word :=
  let l := (r.carried.take (s.adv p r)).flatMap (natBytes 4)
  bytesWords (s.chunk p / 8) l

/-- BIND INPUT (R235). -/
def execBindInput (b : Fin 256) (s : State) : Host.Outcome State Fault Refusal :=
  .next (s.issueBind b.val 2 (fun s p _ r => match r with
    | some r => s.inputWords p r
    | none => List.replicate (s.chunk p / 8) 0))

/-! ## ROUTE (R257) -/

/-- FP32 bits as a number in the order of their values; both zeros are equal. -/
def fp32Key (v : Nat) : Int := if v < 2 ^ 31 then (v : Int) else -((v : Int) - 2 ^ 31)

/-- A score as the router takes it: NaN as −∞. -/
def routeScore (v : Nat) : Nat := if 0x7F800000 < v % 2 ^ 31 then 0xFF800000 else v

/-- Insert a score into a list with the highest first; the earlier stays before its equals. -/
def insertScore (e : Nat × Nat) : List (Nat × Nat) → List (Nat × Nat)
  | [] => [e]
  | f :: t => if fp32Key f.2 < fp32Key e.2 then e :: f :: t else f :: insertScore e t

/-- The visible experts of a row (R257): shared ones, and those of the bound request's tenant. -/
def State.expertVisible (s : State) (p : Nat) (r : Option Request) (e : Nat) : Bool :=
  let code := leAt (s.obj (0x5400 + p) 0x02) (2 * e) 2
  code == 0xFFFF || (match r with
    | some r => code == r.tenant
    | none => false)

/-- The k choices of a row by its scores: pairs of expert and score (R257). -/
def State.routeRow (s : State) (p k : Nat) (r : Option Request) (scores : List Nat) : List (Nat × Nat) :=
  let vis := scores.zipIdx.filterMap (fun (v, e) => if s.expertVisible p r e then some (e, routeScore v) else none)
  let top := (vis.foldl (fun l e => insertScore e l) []).take k
  top ++ List.replicate (k - top.length) (0xFFFFFFFF, 0xFF800000)

/-- ROUTE (R257). -/
def execRoute (b : Fin 256) (s : State) : Host.Outcome State Fault Refusal :=
  .next (s.issue b.val 3 (fun d => opcode d == 0x71)
    (fun s p d => s.servingRef p (opnd d 0) ++ s.servingRef p (opnd d 1)
      ++ (if s.objNat (0x5400 + p) 0x01 < routeE d then [.bounds] else []))
    (fun s p d =>
      let n := ceilDiv (routeRows d * routeE d) 8
      s.readSource p b.val 3 6 d (s.opAddrs p (opnd d 1) n) (fun t ws =>
        let v := tokensOf (8 * n) (wordsBytes ws)
        let out := (List.range (routeRows d)).flatMap (fun i =>
          (s.routeRow p (routeK d) (s.bound p (slot0 d + i / routeRps d)) ((v.drop (i * routeE d)).take (routeE d))).flatMap
            (fun c => natBytes 4 c.1 ++ natBytes 4 c.2))
        let m := ceilDiv (routeRows d * routeK d) 4
        let e := s.handle p (opHandle (opnd d 0))
        t.launchServing p b.val d (n + m) ((addrs (hAddr e (opOffset (opnd d 0))) m).zip (bytesWords m out)))))

/-! ## KVAPPEND, EMIT, DIGEST -/

/-- KVAPPEND (R240): the ADV of each slot covered is held; a slot already covered gives BOUNDS. -/
def execKvappend (b : Fin 256) (s : State) : Host.Outcome State Fault Refusal :=
  .next (s.issue b.val 3 (fun d => opcode d == 0x72)
    (fun s p d => if (addrs (slot0 d) (nslot d)).any (fun i => (s.part p).committed.any (fun c => c.1 == i)) then [.bounds] else [])
    (fun s p d =>
      let l := (addrs (slot0 d) (nslot d)).map (fun i => (i, match s.bound p i with
        | some r => s.adv p r
        | none => 0))
      let s := s.setPart p { s.part p with committed := (s.part p).committed ++ l }
      s.launch p b.val (s.newOp p b.val 3 d 4 (.serving []))))

/-- EMIT (R241): the token of each bound slot is held. -/
def execEmit (b : Fin 256) (s : State) : Host.Outcome State Fault Refusal :=
  .next (s.issue b.val 3 (fun d => opcode d == 0x74) (fun s p d => s.servingRef p (opnd d 1)) (fun s p d =>
    let n := ceilDiv (nslot d) 4
    s.readSource p b.val 3 6 d (s.opAddrs p (opnd d 1) n) (fun t ws =>
      let l := wordsBytes ws
      let out := (List.range (nslot d)).filterMap (fun i =>
        match s.bound p (slot0 d + i) with
        | none => none
        | some r => if r.state = .admitted ∧ s.adv p r < r.prefill then none else some (slot0 d + i, leAt l (8 * i) 4))
      (t.setPart p { t.part p with emitted := (t.part p).emitted ++ out }).launchServing p b.val d n [])))

/-- DIGEST (R264): the slots covered are marked; a slot already covered gives BOUNDS. -/
def execDigest (b : Fin 256) (s : State) : Host.Outcome State Fault Refusal :=
  .next (s.issue b.val 3 (fun d => opcode d == 0x75)
    (fun s p d => if (addrs (slot0 d) (nslot d)).any (fun i => (s.part p).digested.contains i) then [.bounds] else [])
    (fun s p d =>
      let s := s.setPart p { s.part p with digested := (s.part p).digested ++ addrs (slot0 d) (nslot d) }
      s.launch p b.val (s.newOp p b.val 3 d 4 (.serving []))))

/-- The serving operation of a partition that is due first, with its block. -/
def State.dueServing (s : State) (p : Nat) : Option (Nat × Op) :=
  let l := (mapBlocks (s.part p).blockMap).flatMap (fun b =>
    (s.dueOps b (fun o => o.queue == 3 && decide (0x70 ≤ opcode o.desc ∧ opcode o.desc < 0x80))).map (fun o => (b, o)))
  l.foldl (fun m e => match m with
    | none => some e
    | some f => if e.2.id < f.2.id then some e else some f) none

/-- SERVING_COMPLETION (R237): the words are written and the operation completes. -/
def execServingCompletion (p : Fin 64) (s : State) : Host.Outcome State Fault Refusal :=
  if !s.live then .next s
  else
    match s.dueServing p.val with
    | none => .next s
    | some (b, o) =>
      let ws := match o.work with
        | .serving l => l
        | _ => []
      .next ((s.writeWords ws).completeOp p.val b o (dests o.desc))

/-! ## Provenance (R265 to R267) -/

/-- The digest of the plan that a ticket ran (R125). -/
def State.planDigest (s : State) (p : Nat) (t : Ticket) : List Byte :=
  match (s.part p).plans.find? t.slot with
  | some pl => pl.digest
  | none => zeros 64

/-- D of R265. -/
def State.provenance (s : State) (p : Nat) (t : Ticket) (r : Request) : List Byte :=
  sha3 (s.planDigest p t ++ s.obj (0x5200 + p) (0x01 + r.gen) ++ slice (s.obj (0x5200 + p) (0x03 + r.gen)) (64 * r.tenant) 64
    ++ sha3 r.absorbed ++ natBytes 8 r.seed.toNat ++ s.obj 0x1000 0x03)

/-- Append a leaf to the tree of a partition and second: its index. -/
def addLeaf (p sec : Nat) (d : List Byte) : List (Nat × Nat × List (List Byte)) → Nat × List (Nat × Nat × List (List Byte))
  | [] => (0, [(p, sec, [d])])
  | (q, t, l) :: rest =>
    if q = p ∧ t = sec then (l.length, (q, t, l ++ [d]) :: rest)
    else
      let (i, rest) := addLeaf p sec d rest
      (i, (q, t, l) :: rest)

/-- A turn-end digest becomes a leaf while SIGN_ROOTS is 1 and a building time stands; a second already signed takes none (R267, R374). -/
def State.leafOf (s : State) (p : Nat) (d : List Byte) : Option (Nat × Nat) × State :=
  match s.utcOf s.town with
  | none => (none, s)
  | some u =>
    let sec := u / 1000000
    if s.objNat (0x5200 + p) 0x10 ≠ 1 ∨ s.serving.roots.any (fun e => e.1 == p && e.2.1 == sec) then (none, s)
    else
      let (i, l) := addLeaf p sec d s.serving.leaves
      (some (sec, i), { s with serving := { s.serving with leaves := l } })

/-! ## DONE at the serving unit -/

/-- The tokens a slot emitted in the step, in order. -/
def Part.tokensFor (x : Part) (slot : Nat) : List Nat := (x.emitted.filter (fun e => e.1 == slot)).map Prod.snd

/-- The ADV committed for a slot, if a KVAPPEND covered it. -/
def Part.commit (x : Part) (slot : Nat) : Nat := ((x.committed.find? (fun e => e.1 == slot)).map Prod.snd).getD 0

/-- The token ends a turn (R242). -/
def State.stops (s : State) (p tok : Nat) : Bool :=
  let l := s.obj (0x5300 + p) 0x0A
  tok == 0xFFFFFFFF || (tokensOf (l.length / 4) l).contains tok

/-- A request's entry after the step, before any turn end (R224, R240, R241, R264). -/
def State.afterStep (s : State) (p slot : Nat) (r : Request) : Request :=
  let x := s.part p
  let adv := x.commit slot
  let toks := x.tokensFor slot
  let stored := (r.carried.take adv).flatMap (natBytes 4)
  let r' := { r with
    stepCtr := r.stepCtr + 1, slot := slot, tokens := r.tokens + adv,
    prefill := if r.state = .admitted then r.prefill - adv else r.prefill, input := r.input + 4 * adv,
    dir := r.newFrames.foldl (fun t e => t.put e.1 e.2) r.dir, newFrames := [],
    chunk := if adv = 0 then r.chunk else [], joinLast := r.joinLast && adv == 0,
    lastToken := toks.getLast?.getD r.lastToken, turnTokens := r.turnTokens + toks.length,
    absorbed := if x.digested.contains slot then r.absorbed ++ stored else r.absorbed,
    complete := r.complete && (adv == 0 || x.digested.contains slot) }
  if r.state = .admitted ∧ r'.prefill = 0 then { r' with state := .active } else r'

/-- The turn of a request ends with this step (R242). -/
def State.turnEnds (s : State) (p slot : Nat) (r : Request) : Bool :=
  r.state == .active && (((s.part p).tokensFor slot).any (s.stops p) || decide (r.limit ≤ r.turnTokens)
    || decide (s.tokenCap p ≤ r.tokens) || r.pauseHeld)

/-- The step's changes to the request of a slot, and its completion (R223, R224, R241, R242, R266). -/
def State.finishSlot (s : State) (p : Nat) (t : Ticket) (slot i : Nat) : State :=
  let r := s.request i
  if r.state = .free then s
  else if r.fault ≠ 0 then s.readEntry (i, r)
  else
    let toks := (s.part p).tokensFor slot
    let r := s.afterStep p slot r
    let no := dStepNo t.desc
    if s.turnEnds p slot r then
      let r := { r with state := .paused, pausedAt := s.town, pauseHeld := false, kerbWaited := false }
      let s := (s.setRequest i r).count (0x9500 + p) 0x07 1
      let d := s.provenance p t r
      let (leaf, s) := if r.complete then s.leafOf p d else (none, s)
      let sec := match leaf with
        | some (sec, _) => sec
        | none => match s.utcOf s.town with
          | some u => if r.complete then u / 1000000 else 0
          | none => 0
      s.tellRequest r { event := .turnEnd, stepNo := no, token := toks.getLast?.getD 0xFFFFFFFF,
                        digest := if r.complete then d else [], second := sec, leaf := (leaf.map Prod.snd).getD 0, signed := leaf.isSome }
    else
      let s := s.setRequest i r
      if toks.isEmpty then s
      else s.tellRequest r { event := .token, stepNo := no, token := toks.getLast?.getD 0xFFFFFFFF }

/-- A summary step's changes to the request of a slot (R251, R252, R264). -/
def State.finishSummary (s : State) (p : Nat) (t : Ticket) (slot i : Nat) : State :=
  let r := s.request i
  if r.state = .free then s
  else if r.fault ≠ 0 then s.readEntry (i, r)
  else
    let toks := (s.part p).tokensFor slot
    let r := { r with stepCtr := r.stepCtr + 1, tokens := (s.part p).commit slot, dir := r.shadow, shadow := [], summarised := true,
                      lastToken := toks.getLast?.getD r.lastToken, turnTokens := r.turnTokens + toks.length,
                      absorbed := r.absorbed ++ natBytes 4 0xFFFFFFFE ++ s.planDigest p t }
    let s := s.setRequest i r
    if toks.isEmpty then s else s.tellRequest r { event := .token, token := toks.getLast?.getD 0xFFFFFFFF }

/-- Host commands that waited for the step take effect on a request it bound (R224). -/
def State.waitedCommands (s : State) (i : Nat) : State :=
  let s := if (s.request i).pauseWaits then s.pauseNow i else s
  match (s.request i).state with
  | .kerbing => s
  | .recalling => s
  | _ => s.endWaiting i

/-- The requests of a generation slot that the step just DONE did not bind hold no batch slot (R221, R261). -/
def State.unslot (s : State) (p g : Nat) (bound : List Nat) : State :=
  { s with requests := s.requests.mapVals (fun i (r : Request) => if r.partition = p ∧ r.gen = g ∧ !bound.contains i then { r with slot := 0xFFF } else r) }

/-- SERVING_DONE (R224, R241, R242, R252, R514): the held changes of a step that is DONE are applied and its request completions
formed, then its STEP completion; the partition takes up its next ticket. Lower partitions come first. -/
def execServingDone (p : Fin 64) (s : State) : Host.Outcome State Fault Refusal :=
  let x := s.part p.val
  if !s.live ∨ !x.stepDone ∨ s.parts.any (fun e => decide (e.1 < p.val) && e.2.stepDone) then .next s
  else match x.doneDesc with
    | none => .next s
    | some t =>
      let s := x.binding.foldl (fun (s : State) (e : Nat × Nat) =>
        if t.kerb then s.finishSummary p.val t e.1 e.2 else s.finishSlot p.val t e.1 e.2) s
      let y := s.part p.val
      let y := { y with stepDone := false, doneDesc := none, binding := [], committed := [], digested := [], emitted := [],
                        sinceSummary := if t.kerb then 0 else y.sinceSummary + 1 }
      let y := if t.kerb then y else if t.gen = 0 then { y with lastBinding0 := x.binding } else { y with lastBinding1 := x.binding }
      let s := s.setPart p.val y
      let s := if t.kerb then s else s.unslot p.val t.gen (x.binding.map Prod.snd)
      let s := x.binding.foldl (fun (s : State) (e : Nat × Nat) => s.waitedCommands e.2) s
      let s := if t.kerb then s.count (0x9500 + p.val) 0x0F 1 else s
      let s := if x.silent then s else s.answerTicket t x.replayed (s.stepRecord p.val t none x.lcycle)
      let s := s.setCounter (0x9100 + p.val) 0x12 (s.slip p.val)
      let s := s.setPart p.val { s.part p.val with running := none, lastTicket := some t, silent := false }
      .next (((s.setPart p.val (s.part p.val).dropUnloaded).drained p.val).proceed p.val)

/-! ## A failed step -/

/-- The report of a fenced step, at the end of the cycle of its failure (R124, R138, R218): every request that has output is told
STEP_FAILED, the held changes are discarded, and the STEP completion is written. -/
def State.reportFailure (s : State) (p : Nat) : State :=
  let x := s.part p
  match x.failure, x.running with
  | some f, some t =>
    if f.closed then s
    else
      let s := x.binding.foldl (fun (s : State) (e : Nat × Nat) =>
        let r := s.request e.2
        let s := if (x.tokensFor e.1).isEmpty ∨ r.state = .free then s
          else s.tellRequest r { event := .token, status := .stepFailed, cause := f.cause, stepNo := x.stepNo }
        if r.state = .free then s else s.setRequest e.2 { r with newFrames := [], shadow := [] }) s
      let s := s.answerTicket t x.replayed (s.stepRecord p t (some f) f.lcycle)
      let s := s.setCounter (0x9100 + p) 0x12 (s.slip p)
      (s.setPart p { s.part p with failure := some { f with closed := true }, committed := [], digested := [], emitted := [] }).settle p
  | _, _ => s

end Sys2Proof.Machine
end

