-- ==== Sys2Proof/Machine/Kerb.lean ====
section
/-! DEFINITION. Kerbing, summary tickets, expiry and recall (R245 to R255), and the signing of provenance roots (R267). -/
namespace Sys2Proof.Machine

/-! ## Kerb frames -/

/-- The kerb frame of index f in tier 2 (k = 0) or tier 3 (k = 1): its first word address (R245). -/
def State.kerbAddr (s : State) (p k f : Nat) : Nat := s.objNat (0x5100 + p) (if k = 0 then 0x06 else 0x08) / 32 + f * frameWords

/-- How many kerb frames a partition has in tier 2 or tier 3. -/
def State.kerbFrames (s : State) (p k : Nat) : Nat := s.objNat (0x5100 + p) (if k = 0 then 0x07 else 0x09)

/-- A directory entry of a kerb frame: its index, and KERB_TIER in bit 26 (R230). -/
def kerbEntry (k f : Nat) : Nat := f + k * 2 ^ 26

/-- A kerb frame is held by a request. -/
def State.kerbUsed (s : State) (p k f : Nat) : Bool := (s.requestsOf p).any (fun e => e.2.kerbDir.any (fun d => d.2 == kerbEntry k f))

/-- The first frame from f that no request holds, among n. -/
def State.firstKerb (s : State) (p k : Nat) : Nat → Nat → Option Nat
  | _, 0 => none
  | f, n + 1 => if s.kerbUsed p k f then s.firstKerb p k (f + 1) n else some f

/-- The kerb frame taken next: tier 2 while any is free, then tier 3 (R248). -/
def State.nextKerb (s : State) (p : Nat) : Option (Nat × Nat) :=
  match s.firstKerb p 0 0 (s.kerbFrames p 0) with
  | some f => some (0, f)
  | none => (s.firstKerb p 1 0 (s.kerbFrames p 1)).map (fun f => (1, f))

/-- Free kerb frames of both tiers, those reserved for requests in KERBING apart (R249). -/
def State.freeKerb (s : State) (p : Nat) : Nat :=
  s.kerbFrames p 0 + s.kerbFrames p 1
    - ((s.requestsOf p).map (fun e => if e.2.state = .kerbing then e.2.dir.length else e.2.kerbDir.length)).foldl (· + ·) 0

/-! ## KERBING_BEGIN -/

/-- The mode of a request (R246): SUMMARY only while the summary plan is resident. -/
def State.kerbSummary (s : State) (r : Request) : Bool :=
  let p := r.partition
  let mode := if r.kerbMode = 1 ∨ r.kerbMode = 2 then r.kerbMode else s.objNat (0x5100 + p) 0x01
  mode == 2 && (match (s.part p).plans.find? (s.objNat (0x5100 + p) 0x0A) with
    | some pl => !pl.unloading
    | none => false)

/-- Requests in order of pause time, oldest first. -/
def pauseInsert (e : Nat × Request) : List (Nat × Request) → List (Nat × Request)
  | [] => [e]
  | f :: t => if e.2.pausedAt < f.2.pausedAt then e :: f :: t else f :: pauseInsert e t

/-- Begin the first kerbing that the free kerb frames allow; each that must wait is counted once (R249). -/
def State.beginFirst (s : State) (p : Nat) : List (Nat × Request) → State
  | [] => s
  | (i, r) :: t =>
    if r.dir.length ≤ s.freeKerb p then
      let s := s.setRequest i { r with state := .kerbing, kerbOrder := s.serving.order, kerbSum := s.kerbSummary r, summarised := false,
                                       kerbDir := [], chunk := [], kerbWaited := false }
      { s with serving := { s.serving with order := s.serving.order + 1 } }
    else
      let s := if r.kerbWaited then s else (s.setRequest i { r with kerbWaited := true }).count (0x9500 + p) 0x0C 1
      s.beginFirst p t

/-- KERBING_BEGIN (R246, R247, R249): the longest-paused resident request that is due enters KERBING. Of those that only the pool's level makes due, none goes before one
paused longer that is still parked. -/
def execKerbingBegin (p : Fin 64) (s : State) : Host.Outcome State Fault Refusal :=
  if !s.live then .next s
  else
    let due := (s.requestsOf p.val).filter (fun e => s.kerbDue e.2)
    let l := due.filter (fun e => decide (e.1 < 8192)
      && (s.kerbAged e.2 || due.all (fun f => decide (f.1 < 8192) || decide (e.2.pausedAt ≤ f.2.pausedAt))))
    .next (s.beginFirst p.val (l.foldl (fun acc e => pauseInsert e acc) []))

/-! ## KERB_FRAME_COPY -/

/-- Copy the words of a frame under a tenant's KV key; none where a word fails or the key does not hold. -/
def State.copyFrame (s : State) (t a b : Nat) : Option State :=
  let key := s.kvKey t
  if !s.keyOk key t then none
  else
    let run := s.readTier key (addrs a frameWords)
    match run.failed with
    | some _ => none
    | none => some (((s.mendedTier run.mended).writeTier key ((addrs b frameWords).zip run.words)))

/-- A frame copy that fails (R211, R219, R281): the failing word is counted and logged, and the request ends, its own completion
reporting the cause (DEDUCED, log 19). -/
def State.endMove (s : State) (i a : Nat) : State :=
  let r := s.request i
  let key := s.kvKey r.tenant
  if !s.keyOk key r.tenant then s.freeRequest i { event := .ended, status := .rights }
  else
    let run := s.readTier key (addrs a frameWords)
    match run.failed with
    | some (b, c, sy) => ((s.mendedTier run.mended).serviceFailed (some r.partition) r.tenant (b * 32) c sy).freeRequest i { event := .ended, status := c }
    | none => s

/-- The request has left tier 1, and its entries the directory cache (R248). -/
def State.kerbed (s : State) (i : Nat) : State :=
  let r := s.request i
  let r := { r with state := .kerbed, dir := [], prepared := false, expiry := s.town + Config.ticksPerMs * r.ttl }
  let s := (s.setRequest i r).count (0x9500 + r.partition) (if r.summarised then 0x09 else 0x08) 1
  (s.tellRequest r { event := .kerbed }).endWaiting i

/-- The tenant that last held a kerb frame is recorded, and another's frame is cleared before it is taken (R248). -/
def State.takeKerb (s : State) (p t k f : Nat) : State :=
  let key := p * 2 ^ 32 + kerbEntry k f
  let h := s.serving.kerbHolders.get 0 key
  let s := if h = 0 ∨ h = t + 1 then s else s.clearRange (s.kerbAddr p k f) frameWords
  { s with serving := { s.serving with kerbHolders := s.serving.kerbHolders.put key (t + 1) } }

/-- A frame copy of a tenant between two addresses may go: service slots, the tenant's buckets, and the ports (R187, R190, R205, R249). -/
def State.frameReady (s : State) (t a b : Nat) : Bool :=
  [a, b].all (fun x => s.serviceReady (some t) x && s.tierUp x && s.tierServes x)

/-- KERB_FRAME_COPY (R248): the lowest frame not yet copied goes to a kerb frame; after the last the request is KERBED. -/
def execKerbFrameCopy (i : Nat) (s : State) : Host.Outcome State Fault Refusal :=
  let r := s.request i
  let p := r.partition
  if !s.live ∨ r.state ≠ .kerbing ∨ (r.kerbSum ∧ !r.summarised) then .next s
  else match List.find? (fun e => (r.kerbDir.find? e.1).isNone) r.dir with
    | none => .next (s.kerbed i)
    | some (j, f) =>
      match s.frameAddr p j f, s.nextKerb p with
      | some a, some (k, g) =>
        if !s.frameReady r.tenant a (s.kerbAddr p k g) then .next s
        else
        let s := s.takeKerb p r.tenant k g
        match s.copyFrame r.tenant a (s.kerbAddr p k g) with
        | none => .next (s.endMove i a)
        | some s =>
          let s := (s.serviceMove (some r.tenant) a frameWords).charge r.tenant (k + 1) (32 * frameWords)
          let dir := r.kerbDir.put j (kerbEntry k g)
          let s := s.setRequest i { r with kerbDir := dir }
          .next (if dir.length = r.dir.length then s.kerbed i else s)
      | _, _ => .next s

/-! ## KERB_TICKET -/

/-- A host descriptor with its CRC in place (R108). -/
def withCrc (v : Nat) : Desc :=
  let b := natBytes 62 v
  BitVec.ofNat 512 (leNat b ||| place 496 16 (crc16 b))

/-- The kerb ticket's descriptor (R250): STEP_NO 0, TAG 0xFFFF. -/
def kerbDesc (p plan segment gen : Nat) : Desc :=
  withCrc (1 ||| place 8 8 p ||| place 16 16 0xFFFF ||| place 32 16 segment ||| place 48 8 gen ||| place 56 8 plan)

/-- KERB_TICKET (R250): a kerb ticket for the requests that wait for a summary, once SUMMARY_EVERY host steps are DONE since the last
summary step; an IDLE partition takes it up at once. -/
def execKerbTicket (p : Fin 64) (s : State) : Host.Outcome State Fault Refusal :=
  let x := s.part p.val
  let slot := s.objNat (0x5100 + p.val) 0x0A
  match s.toSummarise p.val, x.plans.find? slot with
  | e :: _, some pl =>
    if !s.live ∨ x.partState ≠ 1 ∨ x.kerbTicket.isSome ∨ x.runKerb ∧ x.running.isSome ∨ pl.unloading
        ∨ x.sinceSummary < s.objNat (0x5100 + p.val) 0x0D then .next s
    else
      let t : Ticket := { desc := kerbDesc p.val slot (s.objNat (0x5100 + p.val) 0x0B) e.2.gen, src := .ring ⟨0, 0⟩, kerb := true,
                          slot := slot, gen := e.2.gen }
      let s := (s.abandonSlices p.val).setPart p.val { x with kerbTicket := some t }
      .next (if x.stepState = .idle then s.proceed p.val else s)
  | _, _ => .next s

/-! ## Expiry and recall -/

/-- REQUEST_EXPIRY (R253). -/
def execRequestExpiry (i : Nat) (s : State) : Host.Outcome State Fault Refusal :=
  let r := s.request i
  if s.live ∧ r.state = .kerbed ∧ r.expiry ≤ s.town then
    .next (if r.fault ≠ 0 then s.readEntry (i, r) else (s.count (0x9500 + r.partition) 0x0B 1).freeRequest i { event := .expired })
  else .next s

/-- The request is back in tier 1, its entries in the directory cache where its partition's share holds them (R254). -/
def State.recalled (s : State) (i : Nat) : State :=
  let r := s.request i
  let r := { r with state := .admitted, kerbDir := [], prepared := s.cacheHolds r.partition r.dir.length, recallWaited := false }
  let s := (s.setRequest i r).count (0x9500 + r.partition) 0x0A 1
  (s.tellRequest r { event := .recalled }).endWaiting i

/-- RECALL_FRAME_COPY (R254): the lowest kerb frame not yet copied goes to a pool frame; recall waits while the pool lacks the frames,
which is counted once. -/
def execRecallFrameCopy (i : Nat) (s : State) : Host.Outcome State Fault Refusal :=
  let r := s.request i
  let p := r.partition
  if !s.live ∨ r.state ≠ .recalling ∨ 8192 ≤ i then .next s
  else match List.find? (fun e => (r.dir.find? e.1).isNone) r.kerbDir with
    | none => .next (s.recalled i)
    | some (j, e) =>
      if s.freeFrames p + r.dir.length < r.kerbDir.length then
        .next (if r.recallWaited then s else (s.setRequest i { r with recallWaited := true }).count (0x9500 + p) 0x0D 1)
      else match s.pickFrame p r.tenant j with
        | none => .next s
        | some f =>
          match s.frameAddr p j f with
          | none => .next s
          | some a =>
            let k := e / 2 ^ 26
            let from_ := s.kerbAddr p k (e % 2 ^ 26)
            if !s.frameReady r.tenant from_ a then .next s
            else
            let s := s.takeFrame p r.tenant j f
            match s.copyFrame r.tenant from_ a with
            | none => .next (s.endMove i from_)
            | some s =>
              let s := (s.serviceMove (some r.tenant) a frameWords).charge r.tenant (k + 1) (32 * frameWords)
              let dir := r.dir.put j f
              let s := s.setRequest i { r with dir := dir }
              .next (if dir.length = r.kerbDir.length then s.recalled i else s)

/-! ## ROOT_SIGN (R267) -/

/-- A level of the tree above another; an unpaired node moves up unchanged. -/
def levelUp : List (List Byte) → List (List Byte)
  | a :: b :: t => sha3 ([1#8] ++ a ++ b) :: levelUp t
  | l => l

/-- The root of a tree of leaf hashes. -/
def rootOf : Nat → List (List Byte) → List Byte
  | 0, l => l.headD []
  | n + 1, l => match l with
    | [] => []
    | [a] => a
    | _ => rootOf n (levelUp l)

/-- ROOT_SIGN (R267): the oldest second with leaves that has ended is signed; the records of the last 3,600 seconds are kept. -/
def execRootSign (p : Fin 64) (s : State) : Host.Outcome State Fault Refusal :=
  match s.utcOf s.town, s.serving.leaves.find? (fun e => e.1 == p.val) with
  | some u, some (_, sec, l) =>
    if !s.live ∨ u / 1000000 ≤ sec then .next s
    else
      let root := rootOf 64 (l.map (fun d => sha3 ([0#8] ++ d)))
      let head := natBytes 4 sec ++ natBytes 4 l.length ++ root
      let record := head ++ attestSign (ascii "CAETH-ROOT" ++ natBytes 1 p.val ++ head)
      let mine := s.serving.roots.filter (fun e => e.1 == p.val)
      let roots := if 3600 ≤ mine.length then (match mine with
        | [] => s.serving.roots
        | e :: _ => s.serving.roots.erase e) else s.serving.roots
      .next { s with serving := { s.serving with leaves := s.serving.leaves.filter (fun e => !(e.1 == p.val && e.2.1 == sec)),
                                                 roots := roots ++ [(p.val, sec, record)] } }
  | _, _ => .next s

end Sys2Proof.Machine
end

