-- ==== Sys2Proof/Machine/Loader.lean ====
section
/-! DEFINITION. The loader and host DMA: plan images (R125 to R129, R183, R333), handle tables (R117, R118, R258, R407) and DMA (R408
to R410). -/
namespace Sys2Proof.Machine

/-! ## Plan images -/

/-- Little-endian numbers of an image. -/
def i16 (l : List Byte) (a : Nat) : Nat := leAt l a 2
def i32 (l : List Byte) (a : Nat) : Nat := leAt l a 4
def i64 (l : List Byte) (a : Nat) : Nat := leAt l a 8

/-- Bytes a to a + n − 1 of an image are zero. -/
def zeroBytes (l : List Byte) (a n : Nat) : Bool := (slice l a n).all (· == 0#8)

def imSegments (l : List Byte) : Nat := i16 l 8
def imFlags (l : List Byte) : Nat := i16 l 10
def imBlocks (l : List Byte) : Nat := i32 l 12
def imSegTable (l : List Byte) : Nat := i64 l 16
def imFlagTable (l : List Byte) : Nat := i64 l 24
def imCalendars (l : List Byte) : Nat := i64 l 32
def imStreams (l : List Byte) : Nat := i64 l 40
def imNpc (l : List Byte) : Nat := i32 l (imCalendars l)

/-- Bytes of the calendar section: the count, its records, and six avenue records of 960 entries (R183, R333). -/
def calendarBytes (npc : Nat) : Nat := 8 + 256 * npc + 6 * 1920

/-- The digest of an image with its DIGEST taken as zero (R125). -/
def imageDigest (l : List Byte) : List Byte := sha3 (l.take 128 ++ zeros 64 ++ l.drop 192)

/-- Stage 3: the header, and every table inside the image (R125, R126). -/
def headerOk (l : List Byte) (dclass blocks : Nat) : Bool :=
  let n := l.length
  i32 l 0 == 0xCAE7D150 && i16 l 4 == 1 && leAt l 7 1 == dclass && zeroBytes l 48 80 && zeroBytes l 192 64
  && decide (1 ≤ imSegments l ∧ imSegments l ≤ 4096 ∧ imFlags l ≤ 4095 ∧ 1 ≤ imBlocks l ∧ imBlocks l ≤ min 256 blocks
      ∧ imSegTable l + 32 * imSegments l ≤ n ∧ imFlagTable l + 2 * imFlags l ≤ n ∧ imCalendars l + 8 ≤ n
      ∧ imCalendars l + calendarBytes (min 256 (imNpc l)) ≤ n ∧ imStreams l ≤ n)

/-- A segment table entry (R127): its bytes. -/
def segBytes (l : List Byte) (i : Nat) : List Byte := slice l (imSegTable l + 32 * i) 32

/-- The successors of a segment entry. -/
def segNext (l e : List Byte) : List Nat :=
  match leAt e 8 1 with
  | 1 => [i16 e 10]
  | 2 => (List.range (leAt e 9 1)).map (fun k => i16 l (i32 e 12 + 2 * k))
  | _ => []

/-- The end cycle of a segment entry. -/
def segZ (e : List Byte) : Nat := i32 e 0 + i32 e 4

/-- A segment entry keeps the rules of R127. The layout of its streams is not given: a table of BLOCKS × 4 pairs of byte offset and
count, in the order of plan-relative blocks and of queues (DESIGN CHOICE, log 24). -/
def segOk (l : List Byte) (i : Nat) : Bool :=
  let e := segBytes l i
  let kind := leAt e 8 1
  let n := leAt e 9 1
  let st := i64 e 16
  decide (kind ≤ 2) && (if kind = 2 then decide (2 ≤ n ∧ n ≤ 16 ∧ i32 e 12 + 2 * n ≤ l.length) else n == 0)
  && (kind == 1 || i16 e 10 == 0) && zeroBytes e 24 8 && decide (segZ e ≤ 0xFFFFFFFF)
  && (segNext l e).all (fun s => decide (s < imSegments l) && i32 (segBytes l s) 0 == segZ e + 64)
  && decide (st + 32 * imBlocks l ≤ l.length)
  && (List.range (4 * imBlocks l)).all (fun k => decide (i32 l (st + 8 * k) + 64 * i32 l (st + 8 * k + 4) ≤ l.length))

/-- A flag declaration (R125, R126). -/
def flagWord (l : List Byte) (f : Nat) : BitVec 16 := BitVec.ofNat 16 (i16 l (imFlagTable l + 2 * f))
def flagOk (l : List Byte) (f : Nat) : Bool :=
  let w := flagWord l f
  field w 8 5 == 0 && (!bitAt w 15 || decide (field w 0 8 < imBlocks l))

/-- A pseudo-channel's record (R183). -/
def hbmRecord (l : List Byte) (i : Nat) : List Byte := slice l (imCalendars l + 8 + 256 * i) 256
def hbmOk (r : List Byte) : Bool :=
  r.zipIdx.all (fun (c, s) => if 240 ≤ s then c == 0xFF#8 else decide (c.toNat ≤ 0x10) || c == 0x20#8)

/-- An egress port's record (R333): 960 entries of two bytes. -/
def avenueRecord (l : List Byte) (n : Nat) : List Byte := slice l (imCalendars l + 8 + 256 * imNpc l + 1920 * n) 1920
def avenueEntry (r : List Byte) (s : Nat) : Nat := i16 r (2 * s)
def avenueOk (r : List Byte) : Bool := (List.range 960).all (fun s => let e := avenueEntry r s; e == 0 || decide (0x8000 ≤ e ∧ e < 0x9000))

/-- No slot that a record claims is claimed by a plan resident in another partition (R333). -/
def State.avenueFree (s : State) (p n : Nat) (r : List Byte) : Bool :=
  s.parts.all (fun e => e.1 == p || e.2.plans.all (fun pl =>
    match pl.2.avenue.find? (fun a => a.1 == n) with
    | some (_, q) => (List.range 960).all (fun k => avenueEntry r k == 0 || avenueEntry q k == 0)
    | none => true))

/-- The calendars (stage 5). -/
def State.calendarsOk (s : State) (p : Nat) (l : List Byte) : Bool :=
  decide (imNpc l ≤ (s.channelsOf p).length) && zeroBytes l (imCalendars l + 4) 4
  && (List.range (imNpc l)).all (fun i => hbmOk (hbmRecord l i))
  && (List.range 6).all (fun n => avenueOk (avenueRecord l n) && s.avenueFree p n (avenueRecord l n))

/-- The descriptors of queue k = 4 × block + queue of a segment. -/
def segStream (l : List Byte) (i k : Nat) : List Desc :=
  let st := i64 (segBytes l i) 16
  let at_ := i32 l (st + 8 * k)
  (List.range (i32 l (st + 8 * k + 4))).map (fun j => BitVec.ofNat 512 (leNat (slice l (at_ + 64 * j) 64)))

/-- Every descriptor of an image with its place: segment, 4 × block + queue, descriptor. -/
def imageDescs (l : List Byte) : List (Nat × Nat × Desc) :=
  (List.range (imSegments l)).flatMap (fun i => (List.range (4 * imBlocks l)).flatMap (fun k => (segStream l i k).map (fun d => (i, k, d))))

/-- The flag a descriptor sets is declared for its block and queue (R115, R128). -/
def setsDeclared (l : List Byte) (k : Nat) (d : Desc) : Bool :=
  let f := setFlag d
  f == 0xFFF || (decide (f < imFlags l) && bitAt (flagWord l f) 15 && field (flagWord l f) 0 8 == k / 4 && field (flagWord l f) 13 2 == k % 4)

/-- Strictly rising stamps within a segment's cycles (R123, R127). -/
def stampsOk (lo hi : Nat) : List Desc → Bool
  | [] => true
  | d :: t => decide (lo ≤ stamp d ∧ stamp d < hi) && stampsOk (stamp d + 1) hi t

/-- The cause of a plan image's refusal: that of the first stage it fails (R128). -/
def State.imageCause (s : State) (p : Nat) (l : List Byte) : Option Status :=
  let x := s.part p
  let used := (x.plans.map (fun e => e.2.size)).foldl (· + ·) 0
  if l.length < 256 ∨ 64 * 1048576 < used + l.length then some .bounds
  else if imageDigest l ≠ slice l 128 64 then some .plan
  else if !headerOk l (s.objNat 0x1000 0x03) (mapBlocks x.blockMap).length then some .plan
  else if !s.profileOk (leAt l 6 1) then some .profile
  else if !((List.range (imSegments l)).all (segOk l) && (List.range (imFlags l)).all (flagOk l) && s.calendarsOk p l) then some .plan
  else
    let ds := imageDescs l
    if !ds.all (fun e => descCrcOk e.2.2) then some .badCrc
    else if !ds.all (fun e => wellDecoded (s.pageTokens p) (s.groupPages p) (e.2.1 % 4) e.2.2 && setsDeclared l e.2.1 e.2.2) then some .malformed
    else if !(List.range (imSegments l)).all (fun i => (List.range (4 * imBlocks l)).all (fun k =>
        stampsOk (i32 (segBytes l i) 0) (segZ (segBytes l i)) (segStream l i k))) then some .plan
    else none

/-! ## Placing a plan -/

/-- Descriptors that the resident plans keep in the store of plan-relative block i. -/
def Part.storeUsed (x : Part) (i : Nat) : Nat :=
  (x.plans.flatMap (fun e => e.2.segments.flatMap (fun g => g.streams.map (fun t => if t.1 / 4 = i then t.2.held else 0)))).foldl (· + ·) 0

/-- Place the streams of a segment: RESIDENT while the block's store has room, else STREAMED; `used` is by plan-relative block. -/
def placeStreams (l : List Byte) (i : Nat) : List Nat → Table Nat → Table Stream → Table Stream × Table Nat
  | [], used, acc => (acc, used)
  | k :: ks, used, acc =>
    let ds := segStream l i k
    if ds.isEmpty then placeStreams l i ks used acc
    else
      let u := used.get 0 (k / 4)
      let long := decide (1024 < u + ds.length)
      let t : Stream := { descs := ds, streamed := long, held := if long then min (min 32 ds.length) (1024 - u) else ds.length }
      placeStreams l i ks (used.put (k / 4) (u + t.held)) (acc.put k t)

/-- The segments of an image, placed in segment-table order. -/
def placeSegments (l : List Byte) : List Nat → Table Nat → List Segment
  | [], _ => []
  | i :: is, used =>
    let e := segBytes l i
    let (streams, used) := placeStreams l i (List.range (4 * imBlocks l)) used []
    { entry := i32 e 0, length := i32 e 4, next := leAt e 8 1, choices := segNext l e, fixed := i16 e 10, streams := streams }
      :: placeSegments l is used

/-- The plan of an image (R125 to R129, R183, R333). -/
def Part.planOf (x : Part) (l : List Byte) : Plan :=
  { digest := slice l 128 64, profile := leAt l 6 1, blocks := imBlocks l, size := l.length,
    segments := placeSegments l (List.range (imSegments l)) ((List.range (imBlocks l)).map (fun i => (i, x.storeUsed i))),
    flags := (List.range (imFlags l)).map (flagWord l), hbm := (List.range (imNpc l)).map (hbmRecord l),
    avenue := ((List.range 6).map (fun n => (n, avenueRecord l n))).filter (fun a => !a.2.all (· == 0#8)) }

def dSlot (d : Desc) : Nat := field d 296 8
def dLength (d : Desc) : Nat := field d 336 32

/-- The entry of a source, if it is of a kind, has not begun to move, and the part is live. -/
def State.entryOf (s : State) (src : Src) (kind : Nat) : Option Desc :=
  match s.current src with
  | some d => if s.live && dKind d == kind then some d else none
  | none => none

/-- The host port that an entry's data cross serves now; a core's data cross port 0 (DESIGN CHOICE, log 25). -/
def srcPort : Src → Nat
  | .ring f => f.port.val
  | .core _ => 0

/-- LOAD_PLAN assigns further street slots: one of each channel between the partition's districts that has an unassigned one (R24, R270; how many is a
DESIGN CHOICE, log 69). -/
def State.assignSlots (s : State) (p : Nat) : State :=
  let x := s.part p
  s.setPart p { x with channels := x.channels ++ (channelsOfMap x.blockMap).filterMap (fun c => (s.freeSlot c).map (fun k => (c, k))) }

/-- LOAD_PLAN (R128, R407): `image` is what the host holds from ADDR on. Fewer bytes than LENGTH have not been read to the end (DESIGN CHOICE, log 14). -/
def execLoadPlan (src : Src) (image : List Byte) (s : State) : Host.Outcome State Fault Refusal :=
  match s.entryOf src 2 with
  | none => .next s
  | some d =>
    let p := dPart d
    let image := image.take (dLength d)
    if image.length < dLength d ∨ !s.portFast (srcPort src) then .next s
    else if !s.mayRun (s.judge src) p then .next (s.close src .rights)
    else if ((s.part p).plans.find? (dSlot d)).isSome then .next (s.close src .plan)
    else match s.imageCause p image with
      | some c => .next (s.close src c)
      | none =>
        let x := s.part p
        let s := (s.setPart p { x with plans := x.plans.put (dSlot d) (x.planOf image) }).wipe [flawPlan p]
        .next (((s.assignSlots p).measureIdle p).close src .ok)

/-- UNLOAD_PLAN (R128, R407): effective after the last step that names the plan. -/
def execUnloadPlan (src : Src) (s : State) : Host.Outcome State Fault Refusal :=
  match s.entryOf src 3 with
  | none => .next s
  | some d =>
    let p := dPart d
    let x := s.part p
    if !s.mayRun (s.judge src) p then .next (s.close src .rights)
    else match x.plans.find? (dSlot d) with
      | none => .next (s.close src .plan)
      | some pl =>
        if pl.unloading then .next (s.close src .plan)
        else
          let x := { x with plans := x.plans.put (dSlot d) { pl with unloading := true } }
          .next (((s.setPart p x.dropUnloaded).measureIdle p).close src .ok)

/-! ## Handle tables -/

/-- An entry that a running fetch names (R422): its range of tier 1 is being fetched. -/
def State.fetched (s : State) (base bytes : Nat) : Bool :=
  s.fetch.any (fun e => decide (e.state < 2 ∧ base < leAt e.bytes 64 8 + leAt e.bytes 72 8 ∧ leAt e.bytes 64 8 < base + bytes))

/-- A source may empty a handle: a VF one that only its own tenant holds, now and by the changes that wait (R275; DEDUCED, log 95). -/
def State.mayEmpty (s : State) (j : Judge) (p k : Nat) : Bool :=
  let x := s.part p
  let held := (x.handles.find? k).toList ++ (x.newHandles.filter (fun e => e.1 == k)).map Prod.snd
  match j with
  | .pf0 => true
  | .tenant t => held.all (fun e => hKind e == 0 || hOwner e == t)
  | .nobody => false

/-- The causes of an entry's refusal for the handle of place h (R117, R275, R276, R422), the first in the cause order of R124. -/
def State.entryCause (s : State) (j : Judge) (p h : Nat) (e : BitVec 128) : Option Status :=
  let k := hKind e
  if k = 0 then (if e ≠ 0 then some .malformed else if s.mayEmpty j p h then none else some .rights)
  else if 3 < k ∨ field e 114 6 ≠ 0 ∨ field e 104 8 ≠ 0 ∨ field e 56 8 ≠ 0 ∨ hSize e = 0 ∨ (k = 2 ∧ field e 0 5 ≠ 0)
      ∨ (k ≠ 2 ∧ field e 27 29 ≠ 0) then some .malformed
  else if !s.owns p (hOwner e) || (match j with
      | .pf0 => false
      | .tenant t => t != hOwner e
      | .nobody => true) then some .rights
  else if k = 2 then
    match s.allocOf (hBase e) (32 * hSize e) with
    | some a => if a.tenant = hOwner e ∧ a.partition = p ∧ !s.fetched (hBase e) (32 * hSize e) then none else some .bounds
    | none => some .bounds
  else if bitAt (s.part p).blockMap (hBlock e) ∧ hWord e + hSize e ≤ Config.blockWords then none
  else some .bounds

/-- The place of a handle for a GEN: a plain handle with 0xFF below GEN_HANDLE_FIRST, a copy of a generation handle else (R258, R407). -/
def State.placeOf (s : State) (p gen h : Nat) : Except Status Nat :=
  let first := s.genFirst p
  if gen = 0xFF then (if h < first then .ok h else .error .malformed)
  else if 2 ≤ gen ∨ h < first then .error .malformed
  else if (s.part p).gen gen ≠ 0 then .error .rights
  else .ok (4096 + 4096 * gen + h)

/-- The causes of a list of entries from handle h: the first refused handle's (R407). -/
def State.entriesCause (s : State) (j : Judge) (p gen : Nat) : Nat → List (BitVec 128) → Option Status
  | _, [] => none
  | h, e :: t =>
    match s.placeOf p gen h with
    | .error c => some c
    | .ok k => match s.entryCause j p k e with
      | some c => some c
      | none => s.entriesCause j p gen (h + 1) t

/-- Accept entries: at once in an IDLE partition for which no earlier change waits, else at the next step boundary, in the order in which they were
accepted (R118, R130). -/
def State.acceptEntries (s : State) (p gen h : Nat) (es : List (BitVec 128)) : State :=
  let l := es.zipIdx.filterMap (fun (e, i) => match s.placeOf p gen (h + i) with
    | .ok k => some (k, e)
    | .error _ => none)
  let x := s.part p
  if x.stepState = .idle ∧ x.newHandles.isEmpty then ((s.setPart p (l.foldl Part.loadHandle x)).wipe (l.map (fun e => flawHandle p e.1))).measureIdle p
  else s.setPart p { x with newHandles := x.newHandles ++ l }

/-- A VF may load handles of partitions its tenant owns or is admitted to (R275). -/
def State.mayLoad (s : State) (j : Judge) (p : Nat) : Bool :=
  (s.part p).partState == 1 && (match j with
    | .pf0 => true
    | .tenant t => s.owns p t
    | .nobody => false)

/-- Load entries for a descriptor of a source, or refuse them all. -/
def State.loadEntries (s : State) (src : Src) (d : Desc) (es : List (BitVec 128)) : State :=
  let p := dPart d
  let gen := field d 288 8
  let h := field d 320 16
  if !s.mayLoad (s.judge src) p then s.close src .rights
  else if s.genFirst p ≤ h + es.length - 1 ∧ h < s.genFirst p then s.close src .malformed
  else match s.entriesCause (s.judge src) p gen h es with
    | some c => s.close src c
    | none => (s.acceptEntries p gen h es).close src .ok

/-- LOAD_HANDLES (R117, R118, R407): `entries` is what the host holds from ADDR on; fewer than COUNT + 1 have not been read to the end (DESIGN
CHOICE, log 14). -/
def execLoadHandles (src : Src) (entries : List (BitVec 128)) (s : State) : Host.Outcome State Fault Refusal :=
  match s.entryOf src 4 with
  | none => .next s
  | some d =>
    let entries := entries.take (field d 304 16 + 1)
    if entries.length < field d 304 16 + 1 ∨ !s.portFast (srcPort src) then .next s
    else .next (s.loadEntries src d entries)

/-- PATCH (R117, R118, R407). -/
def execPatch (src : Src) (s : State) : Host.Outcome State Fault Refusal :=
  match s.entryOf src 5 with
  | none => .next s
  | some d => .next (s.loadEntries src d [BitVec.ofNat 128 (field d 368 128)])

/-! ## Host DMA (R408 to R410) -/

def dDpa (d : Desc) : Nat := field d 368 56
def dKey (d : Desc) : Nat := field d 272 16
def dAddr (d : Desc) : Nat := field d 432 64
def dTier (d : Desc) : Nat := dDpa d / 2 ^ 54

/-- The tenant of a DMA's device end, or BOUNDS (R408). -/
def State.dmaTenant (s : State) (d : Desc) : Option Nat :=
  let a := dDpa d
  if dTier d = 0 then
    let b := a / 2 ^ 24
    let w := a / 32 % 2 ^ 19
    if b < 256 ∧ bitAt (s.part (dPart d)).blockMap b ∧ (s.part (dPart d)).partState = 1 ∧ w + dLength d / 32 ≤ Config.blockWords then
      some (s.part (dPart d)).owner
    else none
  else (s.allocOf a (dLength d)).map Alloc.tenant

/-- The cause of a DMA's refusal (R274, R275, R408); a function in no VF_MAP is refused with RIGHTS whatever the device end. -/
def State.dmaCause (s : State) (src : Src) (d : Desc) : Option Status :=
  match s.dmaTenant d with
  | none => if s.judge src = .nobody then some .rights else some .bounds
  | some t =>
    let mine := match s.judge src with
      | .pf0 => true
      | .tenant u => u == t
      | .nobody => false
    if !mine ∨ !s.keyOk (s.objNat (0x4100 + t) 0x05) t ∨ (dTier d ≠ 0 ∧ !s.keyOk (dKey d) t) then some .rights else none

/-- How far the source's DMA has moved, once it has ended. -/
def State.movedOf (s : State) : Src → Option (Nat × Status)
  | .ring f => (s.fn f).moved
  | .core k => (s.core k.val).moved

def State.setMoved (s : State) (src : Src) (v : Nat × Status) : State :=
  match src with
  | .ring f => s.setFn f { s.fn f with moved := some v }
  | .core k => s.setCore k.val { s.core k.val with moved := some v }

/-- The tenant that a DMA is charged to (R286): the function's, for a core the device end's, nothing for PF0. -/
def State.dmaPayer (s : State) (src : Src) (d : Desc) : Option Nat :=
  match src with
  | .ring f => if f.fn.val = 0 then none else s.dmaTenant d
  | .core _ => s.dmaTenant d

/-- A DMA may run now: a tier-0 end waits while its partition is RUNNING (R409) and for bank cycles that nothing claims (R18), the data wait for the host
port (R399), a tier-1 end for service slots, and both for the tenant's buckets (R187, R205, R285). -/
def State.dmaReady (s : State) (src : Src) (d : Desc) : Bool :=
  let a := dDpa d / 32
  let t := s.dmaPayer src d
  (s.movedOf src).isNone && s.portFast (srcPort src) && !(dTier d == 0 && (s.part (dPart d)).stepState == .running)
    && s.tierServes a && t.all (fun t => s.bucketFree t 2)
    && (if dTier d = 0 then (addrs a (dLength d / 32)).all (s.serviceFree (a / 2 ^ 19)) else s.serviceReady t a)

/-- A wait of a DMA for its port to train is counted (R399). -/
def State.dmaWait (s : State) (src : Src) : State :=
  if (s.pcie.get {} (srcPort src)).up && !s.portFast (srcPort src) then s.count (0x9C00 + srcPort src) 0x06 1 else s

/-- The charge of a DMA of n words (R286): on the host port, and on the port or slots of a device end in tiers 1 to 3. -/
def State.chargeDma (s : State) (src : Src) (d : Desc) (n : Nat) : State :=
  let t := s.dmaPayer src d
  let s := if dTier d = 0 then s else s.serviceMove t (dDpa d / 32) n
  match t with
  | some t => s.charge t 2 (32 * n)
  | none => s

/-- The partition that a DMA's device end belongs to: of tier 0 the one named, of an allocation its own, if it has one (R277, R408). -/
def State.dmaPart (s : State) (d : Desc) : Option Nat :=
  if dTier d = 0 then some (dPart d)
  else (s.allocOf (dDpa d) (dLength d)).bind (fun e => if e.partition < 64 then some e.partition else none)

/-- The device word addresses of a DMA. -/
def dmaAddrs (d : Desc) : List Nat := addrs (dDpa d / 32) (dLength d / 32)

/-- A word of the host side as plaintext, and back: ciphertext under the tenant's DMA_KEY with the device address as tweak (R408). -/
def State.hostWord (s : State) (t : Nat) (enc : Bool) (a : Nat) (w : Word) : Word := xts enc (s.key (s.objNat (0x4100 + t) 0x05)).material a w

/-- DMA_IN (R408): `data` is what the host holds from ADDR on; fewer words than LENGTH have not been read to the end (DESIGN CHOICE, log 14). -/
def execDmaIn (src : Src) (data : List Word) (s : State) : Host.Outcome State Fault Refusal :=
  match s.entryOf src 6 with
  | none => .next s
  | some d =>
    let data := data.take (dLength d / 32)
    if data.length < dLength d / 32 ∨ (s.movedOf src).isSome then .next s
    else if !s.dmaReady src d then .next (s.dmaWait src)
    else match s.dmaCause src d, s.dmaTenant d with
      | some c, _ => .next (s.close src c)
      | none, none => .next s
      | none, some t =>
        if !s.tierUp (dDpa d / 32) then .next ((s.portFault (dDpa d / 32)).setMoved src (0, .fault))
        else
          let ws := (dmaAddrs d).zip data |>.map (fun (a, w) => (a, s.hostWord t false a w))
          let s := if dTier d = 0 then s.writeWords ws else s.writeTier (dKey d) ws
          .next ((s.chargeDma src d data.length).setMoved src (dLength d, .ok))

/-- DMA_OUT (R408): the words go to the host in ascending address, up to the first that fails. -/
def execDmaOut (src : Src) (s : State) : Host.Outcome State Fault Refusal :=
  match s.entryOf src 7 with
  | none => .next s
  | some d =>
    if (s.movedOf src).isSome then .next s
    else if !s.dmaReady src d then .next (s.dmaWait src)
    else match s.dmaCause src d, s.dmaTenant d with
      | some c, _ => .next (s.close src c)
      | none, none => .next s
      | none, some t =>
        if !s.tierUp (dDpa d / 32) then .next ((s.portFault (dDpa d / 32)).setMoved src (0, .fault))
        else
          let run := if dTier d = 0 then readRun s.mem (dmaAddrs d) else s.readTier (dKey d) (dmaAddrs d)
          let s := if dTier d = 0 then s.mended0 run.mended else s.mendedTier run.mended
          let out := List.zipWith (fun a w => s.hostWord t true a w) (dmaAddrs d) run.words
          let s := (s.chargeDma src d out.length).emit (.hostWrite (dAddr d) out)
          match run.failed with
          | some (a, c, sy) => .next ((s.serviceFailed (s.dmaPart d) t (a * 32) c sy).setMoved src (32 * out.length, c))
          | none => .next (s.setMoved src (dLength d, .ok))

/-- DMA_COMPLETION (R408, R410): the completion carries the bytes moved, and the source goes on. -/
def execDmaCompletion (src : Src) (s : State) : Host.Outcome State Fault Refusal :=
  match s.live, s.movedOf src with
  | true, some (n, c) => .next (s.close src c n)
  | _, _ => .next s

end Sys2Proof.Machine
end

