-- ==== Sys2Proof/Machine/Rv.lean ====
section
/-! DEFINITION. The base instructions of the cores: RV64IMAC in machine and user mode, with the timing of R159, the CSRs of R169 and the PMP entries of R158. R158
names the instruction set by its standard, which is where the encodings and effects come from (PRESUMED, logs 10 and 88). -/
namespace Sys2Proof.Machine

/-! ## Encodings -/

/-- Bits lo + n − 1 to lo of a word. -/
def rvBits (w lo n : Nat) : Nat := w / 2 ^ lo % 2 ^ n

/-- A field of `bits` bits, sign-extended. -/
def rvSigned (bits v : Nat) : BitVec 64 := (BitVec.ofNat bits v).signExtend 64

def rvR (f7 rs2 rs1 f3 rd op : Nat) : Nat := place 25 7 f7 ||| place 20 5 rs2 ||| place 15 5 rs1 ||| place 12 3 f3 ||| place 7 5 rd ||| op
def rvI (imm rs1 f3 rd op : Nat) : Nat := place 20 12 imm ||| place 15 5 rs1 ||| place 12 3 f3 ||| place 7 5 rd ||| op
def rvS (imm rs2 rs1 f3 : Nat) : Nat :=
  place 25 7 (rvBits imm 5 7) ||| place 20 5 rs2 ||| place 15 5 rs1 ||| place 12 3 f3 ||| place 7 5 (rvBits imm 0 5) ||| 0x23
def rvB (imm rs1 f3 : Nat) : Nat :=
  place 31 1 (rvBits imm 12 1) ||| place 25 6 (rvBits imm 5 6) ||| place 15 5 rs1 ||| place 12 3 f3 ||| place 8 4 (rvBits imm 1 4)
    ||| place 7 1 (rvBits imm 11 1) ||| 0x63
def rvJ (imm : Nat) : Nat :=
  place 31 1 (rvBits imm 20 1) ||| place 21 10 (rvBits imm 1 10) ||| place 20 1 (rvBits imm 11 1) ||| place 12 8 (rvBits imm 12 8) ||| 0x6F

/-- Six bits of a compressed instruction, 12 and 6 to 2, sign-extended to a 12-bit immediate. -/
def rvcImm (h : Nat) : Nat := (rvSigned 6 (rvBits h 12 1 * 32 + rvBits h 2 5)).toNat % 4096
def rvcShamt (h : Nat) : Nat := rvBits h 12 1 * 32 + rvBits h 2 5

/-- Quadrant 0: loads and stores by three-bit registers; 0 is an illegal instruction. -/
def rvExpand0 (h : Nat) : Nat :=
  let rd := 8 + rvBits h 2 3
  let rs := 8 + rvBits h 7 3
  let w := rvBits h 10 3 * 8 + rvBits h 6 1 * 4 + rvBits h 5 1 * 64
  let d := rvBits h 10 3 * 8 + rvBits h 5 2 * 64
  match rvBits h 13 3 with
  | 0 =>
    let imm := rvBits h 11 2 * 16 + rvBits h 7 4 * 64 + rvBits h 6 1 * 4 + rvBits h 5 1 * 8
    if imm = 0 then 0 else rvI imm 2 0 rd 0x13
  | 2 => rvI w rs 2 rd 0x03
  | 3 => rvI d rs 3 rd 0x03
  | 6 => rvS w rd rs 2
  | 7 => rvS d rd rs 3
  | _ => 0

/-- The register operations of quadrant 1. -/
def rvExpandAlu (h : Nat) : Nat :=
  let rd := 8 + rvBits h 7 3
  let rs := 8 + rvBits h 2 3
  match rvBits h 10 2 with
  | 0 => rvI (rvcShamt h) rd 5 rd 0x13
  | 1 => rvI (1024 + rvcShamt h) rd 5 rd 0x13
  | 2 => rvI (rvcImm h) rd 7 rd 0x13
  | _ =>
    match rvBits h 12 1, rvBits h 5 2 with
    | 0, 0 => rvR 32 rs rd 0 rd 0x33
    | 0, 1 => rvR 0 rs rd 4 rd 0x33
    | 0, 2 => rvR 0 rs rd 6 rd 0x33
    | 0, _ => rvR 0 rs rd 7 rd 0x33
    | _, 0 => rvR 32 rs rd 0 rd 0x3B
    | _, 1 => rvR 0 rs rd 0 rd 0x3B
    | _, _ => 0

/-- Quadrant 1: immediates, jumps and branches. -/
def rvExpand1 (h : Nat) : Nat :=
  let rd := rvBits h 7 5
  let b := (rvSigned 9 (rvBits h 12 1 * 256 + rvBits h 5 2 * 64 + rvBits h 2 1 * 32 + rvBits h 10 2 * 8 + rvBits h 3 2 * 2)).toNat % 8192
  match rvBits h 13 3 with
  | 0 => rvI (rvcImm h) rd 0 rd 0x13
  | 1 => if rd = 0 then 0 else rvI (rvcImm h) rd 0 rd 0x1B
  | 2 => rvI (rvcImm h) 0 0 rd 0x13
  | 3 =>
    if rvcShamt h = 0 then 0
    else if rd = 2 then
      rvI ((rvSigned 10 (rvBits h 12 1 * 512 + rvBits h 3 2 * 128 + rvBits h 5 1 * 64 + rvBits h 2 1 * 32 + rvBits h 6 1 * 16)).toNat % 4096) 2 0 2 0x13
    else place 12 20 ((rvSigned 6 (rvcShamt h)).toNat % 2 ^ 20) ||| place 7 5 rd ||| 0x37
  | 4 => rvExpandAlu h
  | 5 =>
    rvJ ((rvSigned 12 (rvBits h 12 1 * 2048 + rvBits h 8 1 * 1024 + rvBits h 9 2 * 256 + rvBits h 6 1 * 128 + rvBits h 7 1 * 64
      + rvBits h 2 1 * 32 + rvBits h 11 1 * 16 + rvBits h 3 3 * 2)).toNat % 2 ^ 21)
  | 6 => rvB b (8 + rvBits h 7 3) 0
  | _ => rvB b (8 + rvBits h 7 3) 1

/-- Quadrant 2: shifts, loads and stores by the stack pointer, moves and jumps by register. -/
def rvExpand2 (h : Nat) : Nat :=
  let rd := rvBits h 7 5
  let rs := rvBits h 2 5
  match rvBits h 13 3 with
  | 0 => rvI (rvcShamt h) rd 1 rd 0x13
  | 2 => if rd = 0 then 0 else rvI (rvBits h 12 1 * 32 + rvBits h 4 3 * 4 + rvBits h 2 2 * 64) 2 2 rd 0x03
  | 3 => if rd = 0 then 0 else rvI (rvBits h 12 1 * 32 + rvBits h 5 2 * 8 + rvBits h 2 3 * 64) 2 3 rd 0x03
  | 4 =>
    match rvBits h 12 1, rs with
    | 0, 0 => if rd = 0 then 0 else rvI 0 rd 0 0 0x67
    | 0, _ => rvR 0 rs 0 0 rd 0x33
    | _, 0 => if rd = 0 then 0x00100073 else rvI 0 rd 0 1 0x67
    | _, _ => rvR 0 rs rd 0 rd 0x33
  | 6 => rvS (rvBits h 9 4 * 4 + rvBits h 7 2 * 64) rs 2 2
  | 7 => rvS (rvBits h 10 3 * 8 + rvBits h 7 3 * 64) rs 2 3
  | _ => 0

/-- The 32-bit instruction that a 16-bit one stands for; 0 where there is none. -/
def rvExpand (h : Nat) : Nat :=
  match h % 4 with
  | 0 => rvExpand0 h
  | 1 => rvExpand1 h
  | _ => rvExpand2 h

/-! ## Arithmetic -/

/-- The integer operations by funct3; `alt` is subtraction, or the arithmetic shift. -/
def rvAlu (f3 : Nat) (alt : Bool) (a b : BitVec 64) : BitVec 64 :=
  match f3 with
  | 0 => if alt then a - b else a + b
  | 1 => a <<< (b.toNat % 64)
  | 2 => if a.slt b then 1 else 0
  | 3 => if a.ult b then 1 else 0
  | 4 => a ^^^ b
  | 5 => if alt then a.sshiftRight (b.toNat % 64) else a >>> (b.toNat % 64)
  | 6 => a ||| b
  | _ => a &&& b

/-- The operations on 32 bits, whose result is sign-extended; none where funct3 names none. -/
def rvAluW (f3 : Nat) (alt : Bool) (a b : BitVec 32) : Option (BitVec 64) :=
  match f3 with
  | 0 => some ((if alt then a - b else a + b).signExtend 64)
  | 1 => some ((a <<< (b.toNat % 32)).signExtend 64)
  | 5 => some ((if alt then a.sshiftRight (b.toNat % 32) else a >>> (b.toNat % 32)).signExtend 64)
  | _ => none

/-- Division and remainder of w bits: by zero the quotient is −1 and the remainder the dividend. -/
def rvDiv {w : Nat} (f3 : Nat) (a b : BitVec w) : BitVec w :=
  match f3 with
  | 4 => if b = 0 then -1 else a.sdiv b
  | 5 => if b = 0 then -1 else a.udiv b
  | 6 => if b = 0 then a else a.srem b
  | _ => if b = 0 then a else a.umod b

/-- Multiplication and division by funct3. -/
def rvMul (f3 : Nat) (a b : BitVec 64) : BitVec 64 :=
  match f3 with
  | 0 => a * b
  | 1 => BitVec.ofInt 64 (a.toInt * b.toInt / 2 ^ 64)
  | 2 => BitVec.ofInt 64 (a.toInt * (b.toNat : Int) / 2 ^ 64)
  | 3 => BitVec.ofNat 64 (a.toNat * b.toNat / 2 ^ 64)
  | _ => rvDiv f3 a b

/-- The core cycles of a multiplication or division (R159): MUL and MULW 3, division 34, the others 1. -/
def rvMulCycles (f3 : Nat) : Nat := if f3 = 0 then 3 else if 4 ≤ f3 then 34 else 1

/-- The value that an atomic operation stores, on w bits. -/
def rvAmo {w : Nat} (f5 : Nat) (a b : BitVec w) : Option (BitVec w) :=
  match f5 with
  | 0x00 => some (a + b)
  | 0x01 => some b
  | 0x04 => some (a ^^^ b)
  | 0x08 => some (a ||| b)
  | 0x0C => some (a &&& b)
  | 0x10 => some (if a.slt b then a else b)
  | 0x14 => some (if a.slt b then b else a)
  | 0x18 => some (if a.ult b then a else b)
  | 0x1C => some (if a.ult b then b else a)
  | _ => none

/-- A branch is taken; none where funct3 names none. -/
def rvTaken (f3 : Nat) (a b : BitVec 64) : Option Bool :=
  match f3 with
  | 0 => some (a == b)
  | 1 => some (a != b)
  | 4 => some (a.slt b)
  | 5 => some (!a.slt b)
  | 6 => some (a.ult b)
  | 7 => some (!a.ult b)
  | _ => none

/-! ## One instruction -/

/-- What an instruction does: the register it writes and its value, the next pc, its core cycles, what it stores, the reservation
after it, whether its value is a free one, the CSR it writes, and whether it returns from a trap. -/
structure RvDone where
  rd      : Nat := 0
  value   : BitVec 64 := 0
  pc      : BitVec 64
  cycles  : Nat := 1
  store   : Option (Nat × List Byte) := none
  reserved : Option Nat
  draws   : Bool := false
  csr     : Option (Nat × BitVec 64) := none
  mret    : Bool := false
deriving DecidableEq, Repr

/-- An instruction completes, faults (R166), reads a word of a failing class (R160), or is one that is a command: of the extension, or a write of CKWDOG. -/
inductive RvResult where
  | done (d : RvDone)
  | fault (cause : RoutineFault)
  | flawed
  | extension
deriving DecidableEq, Repr

/-- What an instruction sees: its mode, its address and length, the registers, the reservation, n bytes of data memory to be read or written (none: an access fault),
whether words of it are of a failing class, and the CSRs it can read, each with whether its value is a free one. -/
structure RvEnv where
  machine : Bool := false
  pc   : BitVec 64
  len  : Nat
  held : Option Nat
  x    : Nat → BitVec 64
  mem  : Bool → Nat → Nat → Option (List Byte)
  bad  : Nat → Nat → Bool
  csr  : Nat → Option (BitVec 64 × Bool)

/-- The next instruction's address. -/
def RvEnv.next (e : RvEnv) : BitVec 64 := e.pc + BitVec.ofNat 64 e.len

/-- A result for rd. -/
def RvEnv.gives (e : RvEnv) (rd : Nat) (v : BitVec 64) (cycles : Nat := 1) : RvResult :=
  .done { rd := rd, value := v, pc := e.next, cycles := cycles, reserved := e.held }

/-- A result that an encoding may not have. -/
def RvEnv.maybe (e : RvEnv) (rd : Nat) (cycles : Nat) : Option (BitVec 64) → RvResult
  | some v => e.gives rd v cycles
  | none => .fault .illegal

/-- Loads: signed for funct3 0 to 3, unsigned for 4 to 6; 2 core cycles (R159). -/
def RvEnv.load (e : RvEnv) (f3 rd : Nat) (a : BitVec 64) : RvResult :=
  if f3 = 7 then .fault .illegal
  else
    let n := 2 ^ (f3 % 4)
    match e.mem false a.toNat n with
    | none => .fault .access
    | some l => if e.bad a.toNat n then .flawed else e.gives rd (if f3 < 4 then rvSigned (8 * n) (leNat l) else BitVec.ofNat 64 (leNat l)) 2

/-- Stores: 1 core cycle, and 2 further ones, as every store is narrower than a word (R159, R160). -/
def RvEnv.storeTo (e : RvEnv) (f3 : Nat) (a v : BitVec 64) : RvResult :=
  if 3 < f3 then .fault .illegal
  else match e.mem true a.toNat (2 ^ f3) with
    | none => .fault .access
    | some _ => if e.bad a.toNat (2 ^ f3) then .flawed else .done { pc := e.next, cycles := 3, store := some (a.toNat, natBytes (2 ^ f3) v.toNat), reserved := e.held }

/-- Atomic operations on n bytes, 4 core cycles (R159); a misaligned one is an access fault. -/
def RvEnv.atomic (e : RvEnv) (f5 n rd rs2 : Nat) (a : BitVec 64) : RvResult :=
  if a.toNat % n ≠ 0 then .fault .access
  else match e.mem (f5 != 2) a.toNat n with
    | none => .fault .access
    | some l => if e.bad a.toNat n then .flawed else
      let old := rvSigned (8 * n) (leNat l)
      let put := fun (v : Nat) (rdv : BitVec 64) (r : Option Nat) =>
        RvResult.done { rd := rd, value := rdv, pc := e.next, cycles := 4, store := some (a.toNat, natBytes n v), reserved := r }
      if f5 = 2 then (if rs2 = 0 then .done { rd := rd, value := old, pc := e.next, cycles := 4, reserved := some a.toNat } else .fault .illegal)
      else if f5 = 3 then
        if e.held = some a.toNat then put (e.x rs2).toNat 0 none
        else .done { rd := rd, value := 1, pc := e.next, cycles := 4, reserved := none }
      else
        let v := if n = 4 then (rvAmo f5 (BitVec.ofNat 32 (leNat l)) ((e.x rs2).truncate 32)).map BitVec.toNat
          else (rvAmo f5 (BitVec.ofNat 64 (leNat l)) (e.x rs2)).map BitVec.toNat
        match v with
        | some v => put v old e.held
        | none => .fault .illegal

/-- The CSR that an instruction writes and what it computes from the old value: write, set or clear, by a register or a 5-bit number; none where it
only reads, or is no CSR instruction. -/
def rvCsrWrite (w : Nat) (x : Nat → BitVec 64) (old : BitVec 64) : Option (Nat × BitVec 64) :=
  let f3 := rvBits w 12 3
  let src := rvBits w 15 5
  let v := if f3 < 4 then x src else BitVec.ofNat 64 src
  match f3 % 4 with
  | 1 => some (rvBits w 20 12, v)
  | 2 => if src = 0 then none else some (rvBits w 20 12, old ||| v)
  | 3 => if src = 0 then none else some (rvBits w 20 12, old &&& ~~~v)
  | _ => none

/-- SYSTEM: ECALL and EBREAK fault (R166), WFI ends at once, MRET returns from a trap in machine mode. A CSR that the mode has may be read, and written unless
its number says that it is read-only; a write of CKWDOG is a command (R175). -/
def RvEnv.system (e : RvEnv) (w : Nat) : RvResult :=
  let n := rvBits w 20 12
  if w = 0x00000073 then .fault .ecall
  else if w = 0x00100073 then .fault .ebreak
  else if w = 0x10500073 then e.gives 0 0
  else if rvBits w 12 3 % 4 = 0 then
    match e.machine && w == 0x30200073, e.csr 0x341 with
    | true, some (v, _) => .done { pc := v, reserved := e.held, mret := true }
    | _, _ => .fault .illegal
  else match e.csr n with
    | none => .fault .illegal
    | some (v, free) =>
      let put := rvCsrWrite w e.x v
      if put.isSome && n / 1024 == 3 then .fault .illegal
      else if put.isSome && n == 0x7C1 then .extension
      else .done { rd := rvBits w 7 5, value := v, pc := e.next, reserved := e.held, draws := free, csr := put }

/-- The effect of a 32-bit instruction, or of what a 16-bit one stands for. -/
def RvEnv.run (e : RvEnv) (w : Nat) : RvResult :=
  let rd := rvBits w 7 5
  let f3 := rvBits w 12 3
  let rs2 := rvBits w 20 5
  let a := e.x (rvBits w 15 5)
  let b := e.x rs2
  let f7 := rvBits w 25 7
  let imm := rvSigned 12 (rvBits w 20 12)
  match w % 128 with
  | 0x37 => e.gives rd (rvSigned 32 (w / 4096 * 4096))
  | 0x17 => e.gives rd (e.pc + rvSigned 32 (w / 4096 * 4096))
  | 0x6F =>
    let off := rvSigned 21 (rvBits w 31 1 * 2 ^ 20 + rvBits w 12 8 * 4096 + rvBits w 20 1 * 2048 + rvBits w 21 10 * 2)
    .done { rd := rd, value := e.next, pc := e.pc + off, cycles := 2, reserved := e.held }
  | 0x67 =>
    if f3 = 0 then .done { rd := rd, value := e.next, pc := (a + imm) &&& ~~~1#64, cycles := 2, reserved := e.held } else .fault .illegal
  | 0x63 =>
    let off := rvSigned 13 (rvBits w 31 1 * 4096 + rvBits w 7 1 * 2048 + rvBits w 25 6 * 32 + rvBits w 8 4 * 2)
    match rvTaken f3 a b with
    | some t => .done { pc := if t then e.pc + off else e.next, cycles := if t then 2 else 1, reserved := e.held }
    | none => .fault .illegal
  | 0x03 => e.load f3 rd (a + imm)
  | 0x23 => e.storeTo f3 (a + rvSigned 12 (f7 * 32 + rd)) b
  | 0x13 =>
    if f3 = 1 ∧ f7 / 2 ≠ 0 then .fault .illegal
    else if f3 = 5 ∧ f7 / 2 ≠ 0 ∧ f7 / 2 ≠ 16 then .fault .illegal
    else e.gives rd (rvAlu f3 (f3 == 5 && f7 / 2 == 16) a (if f3 = 1 ∨ f3 = 5 then BitVec.ofNat 64 (rvBits w 20 6) else imm))
  | 0x1B =>
    if f3 = 0 then e.gives rd ((a.truncate 32 + imm.truncate 32 : BitVec 32).signExtend 64)
    else if (f3 = 1 ∧ f7 = 0) ∨ (f3 = 5 ∧ (f7 = 0 ∨ f7 = 32)) then e.maybe rd 1 (rvAluW f3 (f7 == 32) (a.truncate 32) (BitVec.ofNat 32 rs2))
    else .fault .illegal
  | 0x33 =>
    if f7 = 1 then e.gives rd (rvMul f3 a b) (rvMulCycles f3)
    else if f7 = 0 ∨ (f7 = 32 ∧ (f3 = 0 ∨ f3 = 5)) then e.gives rd (rvAlu f3 (f7 == 32) a b)
    else .fault .illegal
  | 0x3B =>
    if f7 = 1 then
      if f3 = 0 then e.gives rd ((a.truncate 32 * b.truncate 32 : BitVec 32).signExtend 64) 3
      else if 4 ≤ f3 then e.gives rd ((rvDiv f3 (a.truncate 32 : BitVec 32) (b.truncate 32)).signExtend 64) 34
      else .fault .illegal
    else if f7 = 0 ∨ (f7 = 32 ∧ (f3 = 0 ∨ f3 = 5)) then e.maybe rd 1 (rvAluW f3 (f7 == 32) (a.truncate 32) (b.truncate 32))
    else .fault .illegal
  | 0x0F => if f3 = 0 then e.gives 0 0 else .fault .illegal
  | 0x2F => if f3 = 2 then e.atomic (f7 / 4) 4 rd rs2 a else if f3 = 3 then e.atomic (f7 / 4) 8 rd rs2 a else .fault .illegal
  | 0x73 => e.system w
  | 0x0B => if f7 = 0 ∧ f3 ≠ 7 then .extension else .fault .illegal
  | _ => .fault .illegal

/-! ## Memory protection (R158) -/

/-- The number of low bits of an address that are 1, of at most n. -/
def onesBelow : Nat → Nat → Nat
  | 0, _ => 0
  | n + 1, a => if a % 2 = 1 then onesBelow n (a / 2) + 1 else 0

/-- The bytes that a PMP entry names, from and up to: none where it is off. -/
def pmpRange (cfg : Nat → Nat) (addr : Nat → Nat) (i : Nat) : Option (Nat × Nat) :=
  let a := addr i
  match cfg i / 8 % 4 with
  | 0 => none
  | 1 => some (if i = 0 then 0 else 4 * addr (i - 1), 4 * a)
  | 2 => some (4 * a, 4 * a + 4)
  | _ => let n := onesBelow 54 a; some (4 * (a / 2 ^ n * 2 ^ n), 4 * (a / 2 ^ n * 2 ^ n) + 2 ^ (n + 3))

/-- Machine mode may access n bytes: the first entry that any of them meets covers all, and, being locked, gives the permission (bit 0 read, 1 write, 2 execute). -/
def pmpAllows (cfg : Nat → Nat) (addr : Nat → Nat) (bit a n : Nat) : Bool :=
  match (List.range 16).findSome? (fun i => (pmpRange cfg addr i).bind (fun r => if r.1 < a + n ∧ a < r.2 then some (i, r) else none)) with
  | none => true
  | some (i, r) => decide (r.1 ≤ a ∧ a + n ≤ r.2) && (cfg i / 128 % 2 == 0 || cfg i / 2 ^ bit % 2 == 1)

end Sys2Proof.Machine
end

