-- ==== Sys2Proof/Machine/Routines.lean ====
section
/-! DEFINITION. The control cores (R158 to R176): choice routines and their slices, the extension instructions, watchdogs, resets and
the timer. Of a core's program the extension instructions are commands; the base instructions of a routine and of firmware pass with time (logs 10 and 88). -/
namespace Sys2Proof.Machine

/-! ## Slots and slices -/

/-- The district whose clock a core divides by two (R159, R173). -/
def coreDistrict (k : Nat) : Nat := if k < 16 then k else 5

/-- The core cycle within the calendar of 1,088 (R163). -/
def State.calendar (s : State) (k : Nat) : Nat := (s.district (coreDistrict k)).cycles / 2 % 1088

/-- The partition in a routine slot of a core (R162); a sequencer core has none (R173). -/
def State.slotPart (s : State) (k slot : Nat) : Option Nat := if k < 16 then (s.slotParts k)[slot]? else none

/-- The calendar of a partition's lead core stands in the slice of its slot (R163). -/
def State.inSlice (s : State) (p : Nat) : Bool := s.calendar (s.leadCore p) / 64 == s.slotOf p + 1

def State.setRoutine (s : State) (p : Nat) (r : Routine) : State := s.setPart p { s.part p with routine := r }

/-- The first instruction address of a routine slot (R162). -/
def slotCode (slot : Nat) : Nat := 0x10000 + 4096 * slot

/-- The slice in which a partition's lead core stands began after the last step start, both measured in cycles of the lead district (R165). -/
def State.sliceAfterStart (s : State) (p : Nat) : Bool := decide ((s.part p).routine.since < s.leadCycles p - s.leadCycles p % 128)

/-- ROUTINE_ENTRY (R165): in the first slice that begins after a step start the routine is entered at its first instruction, with
a0 = STEP_NO and a1 = the entry segment of that step. -/
def execRoutineEntry (p : Fin 64) (s : State) : Host.Outcome State Fault Refusal :=
  let x := s.part p.val
  let r := x.routine
  if s.live ∧ x.partState ≠ 0 ∧ r.started ∧ r.code ≠ [] ∧ s.inSlice p.val ∧ s.sliceAfterStart p.val then
    .next (s.setRoutine p.val { r with mode := .running, started := false, busy := 0, reserved := none, pc := BitVec.ofNat 64 (slotCode (s.slotOf p.val)),
                                       regs := [(10, BitVec.ofNat 64 r.stepNo), (11, BitVec.ofNat 64 r.segment)] })
  else .next s

/-- SLICE_BEGIN (R163): a suspended routine resumes with its registers intact. -/
def execSliceBegin (p : Fin 64) (s : State) : Host.Outcome State Fault Refusal :=
  let r := (s.part p.val).routine
  if s.live ∧ r.mode = .suspended ∧ s.inSlice p.val then .next (s.setRoutine p.val { r with mode := .running }) else .next s

/-- SLICE_END (R163): a routine still running once its slice is over is suspended. -/
def execSliceEnd (p : Fin 64) (s : State) : Host.Outcome State Fault Refusal :=
  let r := (s.part p.val).routine
  if s.live ∧ r.mode = .running ∧ !s.inSlice p.val then .next (s.setRoutine p.val { r with mode := .suspended }) else .next s

/-! ## Who executes, and registers -/

/-- A core serves: it is not within the 200 µs after a reset (R175). -/
def State.coreUp (s : State) (k : Nat) : Bool := s.live && decide ((s.core k).downTo ≤ s.town)

/-- The instruction at a routine's pc and its length (R158, R162): none where it does not lie in the slot's instruction memory, which reads
zero after the image (log 88). -/
def State.rvFetch (s : State) (p : Nat) : Option (Nat × Nat) :=
  let r := (s.part p).routine
  let base := slotCode (s.slotOf p)
  let a := r.pc.toNat
  let half := fun (o : Nat) => (r.code.getD (a - base + o) 0).toNat + 256 * (r.code.getD (a - base + o + 1) 0).toNat
  if a < base ∨ base + 4096 < a + 2 then none
  else if half 0 % 4 ≠ 3 then some (rvExpand (half 0), 2)
  else if base + 4096 < a + 4 then none
  else some (half 0 + 65536 * half 2, 4)

/-- The partition whose routine executes in user mode: its slot is in its slice, past the 2 core cycles of the context switch (R163), and
its routine runs. -/
def State.userPart (s : State) (k slot : Nat) : Option Nat :=
  match s.slotPart k slot with
  | none => none
  | some p => if s.coreUp k && (s.part p).routine.mode == .running && s.inSlice p && decide (2 ≤ s.calendar k % 64) then some p else none

/-- A byte of a core's instruction memory: above the lower 64 KiB of a control core the routine slots, each with its image; what was not loaded reads zero
(R158, R162). -/
def State.imemByte (s : State) (k a : Nat) : Byte :=
  if k < 16 ∧ 0x10000 ≤ a then
    match s.slotPart k ((a - 0x10000) / 4096) with
    | some p => (s.part p).routine.code.getD (a % 4096) 0
    | none => 0
  else (s.core k).imem.getD a 0

/-- A PMP entry of a core lets firmware reach n bytes (R158). -/
def Core.pmp (c : Core) (bit a n : Nat) : Bool := pmpAllows (fun i => (c.pmpcfg.get 0 i).toNat) (fun i => (c.pmpaddr.get 0 i).toNat) bit a n

/-- The instruction at firmware's pc and its length: none where it does not lie in the 128 KiB of instruction memory, or a locked PMP entry forbids it. -/
def State.fwFetch (s : State) (k : Nat) : Option (Nat × Nat) :=
  let a := (s.core k).pc.toNat
  let half := fun (o : Nat) => (s.imemByte k (a + o)).toNat + 256 * (s.imemByte k (a + o + 1)).toNat
  if 0x20000 < a + 2 ∨ !(s.core k).pmp 2 a 2 then none
  else if half 0 % 4 ≠ 3 then some (rvExpand (half 0), 2)
  else if 0x20000 < a + 4 ∨ !(s.core k).pmp 2 a 4 then none
  else some (half 0 + 65536 * half 2, 4)

/-- Firmware executes: the core serves, and a control core is in core cycles 0 to 63 of its calendar (R163). -/
def State.firmwareTurn (s : State) (k : Nat) : Bool := s.coreUp k && (decide (16 ≤ k) || decide (s.calendar k < 64))

/-- A word is an extension instruction by its funct3, with the given registers in the fields at bits 7, 15 and 20 (R167). -/
def ckIs (w f3 : Nat) (regs : List (Nat × Nat)) : Bool :=
  rvBits w 0 7 == 0x0B && rvBits w 25 7 == 0 && rvBits w 12 3 == f3 && regs.all (fun e => rvBits w e.1 5 == e.2)

/-- A routine has come to an extension instruction: it is the one at the pc, and the one before it is done. -/
def State.atCk (s : State) (p f3 : Nat) (regs : List (Nat × Nat)) : Bool :=
  (s.part p).routine.busy == 0 && (match s.rvFetch p with
    | some (w, _) => ckIs w f3 regs
    | none => false)

/-- Firmware has come to an instruction: it is its turn, the instruction before is done, and the one at the pc is as asked. -/
def State.fwAt (s : State) (k : Nat) (is : Nat → Bool) : Bool :=
  s.firmwareTurn k && (s.core k).busy == 0 && (match s.fwFetch k with
    | some (w, _) => is w
    | none => false)

/-- Who executes an extension instruction now, if anyone: the partition of a routine, or firmware. -/
inductive Runner where
  | routine (p : Nat)
  | firmware
deriving DecidableEq, Repr

def State.runner (s : State) (k f3 : Nat) (regs : List (Nat × Nat)) : CkMode → Option Runner
  | .user slot => match s.userPart k slot.val with
    | some p => if s.atCk p f3 regs then some (.routine p) else none
    | none => none
  | .machine => if s.fwAt k (fun w => ckIs w f3 regs) then some .firmware else none

/-- An integer register; register 0 reads zero. -/
def State.reg (s : State) (k : Nat) (w : Runner) (i : Nat) : BitVec 64 :=
  if i = 0 then 0
  else match w with
    | .routine p => (s.part p).routine.regs.get 0 i
    | .firmware => (s.core k).regs.get 0 i

/-- Write an integer register; a write of register 0 is discarded. -/
def State.setReg (s : State) (k : Nat) (w : Runner) (i : Nat) (v : BitVec 64) : State :=
  if i = 0 then s
  else match w with
    | .routine p => s.setRoutine p { (s.part p).routine with regs := (s.part p).routine.regs.put i v }
    | .firmware => s.setCore k { s.core k with regs := (s.core k).regs.put i v }

/-- A core counts an instruction (R169). -/
def State.retireInstr (s : State) (k : Nat) : State := s.setCore k { s.core k with retired := (s.core k).retired + 1 }

/-- The pc moves past a 4-byte instruction of n core cycles (R167). -/
def State.advance (s : State) (k : Nat) (w : Runner) (n : Nat) : State :=
  match w with
  | .routine p => (s.retireInstr k).setRoutine p { (s.part p).routine with pc := (s.part p).routine.pc + 4, busy := n }
  | .firmware => s.setCore k { s.core k with pc := (s.core k).pc + 4, busy := n, retired := (s.core k).retired + 1 }

/-- The result of an instruction of n core cycles is written and the pc moves on. -/
def State.result (s : State) (k : Nat) (w : Runner) (rd : Nat) (v : BitVec 64) (n : Nat) : State := (s.setReg k w rd v).advance k w n

/-- The slot's partition that an instruction speaks of: the routine's own, or that of the slot which CKPSEL selects (R169). -/
def State.subject (s : State) (k : Nat) : Runner → Option Nat
  | .routine p => some p
  | .firmware => s.slotPart k ((s.core k).ckpsel.toNat % 16)

/-! ## Faults of routines and of cores -/

/-- A routine's fault (R166): its step fails with SEGMENT, CHOICE_FAULT is written, and the routine is idle until the next step start.
The cause code of an EBREAK is not given: a free value (log 23). -/
def State.routineFault (s : State) (p : Nat) (cause : RoutineFault) : State :=
  let r := (s.part p).routine
  let (code, s) := match cause with
    | .access => (1, s)
    | .illegal => (2, s)
    | .ecall => (3, s)
    | .ebreak => let (v, s) := s.draw 8; (v.toNat, s)
  let s := s.setObj (0x4000 + p) 0x1B (natBytes 8 (place 56 8 code ||| r.pc.toNat % 2 ^ 32))
  let s := s.setRoutine p { r with mode := .idle }
  (s.failStep p .segment 1).raise (s.leadCore p) 21

/-- The status register of a trap's entry: the mode before was machine mode, and interrupts are off, MPIE holding whether they were on. -/
def trapStatus (m : BitVec 64) : BitVec 64 := BitVec.ofNat 64 (place 11 2 3 ||| place 7 1 (boolBit (bitAt m 3)))

/-- A trap into machine mode by the privileged standard that R158 names (PRESUMED, log 10): an exception goes to the base of mtvec, and
an interrupt to its own entry where mtvec is vectored. -/
def Core.trapTo (c : Core) (interrupt : Bool) (cause tval : Nat) : Core :=
  let base := c.mtvec &&& ~~~3#64
  { c with mepc := c.pc, mcause := BitVec.ofNat 64 (place 63 1 (boolBit interrupt) ||| cause), mtval := BitVec.ofNat 64 tval, mstatus := trapStatus c.mstatus,
           pc := if interrupt && bitAt c.mtvec 0 then base + BitVec.ofNat 64 (4 * cause) else base }

def State.trap (s : State) (k cause tval : Nat) : State := s.setCore k ((s.core k).trapTo false cause tval)

/-- The interrupt that firmware takes: enabled in mstatus and mie and pending in mip, the lowest of them (R176). -/
def Core.interrupt (c : Core) : Option Nat :=
  if bitAt c.mstatus 3 then (7 :: (List.range 6).map (fun i => 16 + i)).find? (fun i => bitAt (c.mie &&& c.mip) i) else none

/-- Take an interrupt; its pending bit clears (DESIGN CHOICE, log 10). -/
def Core.takeInterrupt (c : Core) (i : Nat) : Core :=
  { c.trapTo true i 0 with mip := c.mip &&& ~~~(BitVec.ofNat 64 (1 <<< i)), busy := 1 }

/-- An access fault of an extension instruction (R167): a routine's fails its step, firmware's traps. -/
def State.accessFault (s : State) (k : Nat) (w : Runner) (cause a : Nat) : State :=
  match w with
  | .routine p => s.routineFault p .access
  | .firmware => s.trap k cause a

/-! ## Data memory -/

/-- n bytes at an address are 32-byte aligned and lie in memory that the mode may write (R158, R162, R167). -/
def State.dataOk (s : State) (w : Runner) (a n : Nat) : Bool :=
  a % 32 == 0 && (match w with
    | .routine p => decide (slotData (s.slotOf p) ≤ a ∧ a + n ≤ slotData (s.slotOf p) + 12288)
    | .firmware => decide (0x80000 ≤ a ∧ a + n ≤ 0xC0000))

/-- The PMP lets an instruction write n bytes there: a routine's region is R162's, and a locked entry binds firmware (R158). -/
def State.writable (s : State) (k : Nat) (w : Runner) (a n : Nat) : Bool :=
  s.dataOk w a n && (w != .firmware || (s.core k).pmp 1 a n)

/-- The words of a core's memories are numbered by their byte address (R160). -/
def coreWords (a n : Nat) : List Nat := if n = 0 then [] else (List.range ((a + n - 1) / 32 - a / 32 + 1)).map (fun i => a / 32 + i)

/-- A word of a core's memories that an access meets is of a failing class (R160, R211). -/
def State.coreFlawed (s : State) (k a n : Nat) : Bool := (coreWords a n).any (fun w => (s.flawFails (flawCore k w)).isSome)

/-- Write bytes to data memory; a byte that reads zero is not listed. -/
def putBytes (t : Table Byte) (a : Nat) (l : List Byte) : Table Byte :=
  l.zipIdx.foldl (fun t e => if e.1 = 0 then t.del (a + e.2) else t.put (a + e.2) e.1) t

/-- A store encodes the check bits of its words afresh (R160, R211). -/
def State.store (s : State) (k a : Nat) (l : List Byte) : State :=
  (s.setCore k { s.core k with dmem := putBytes (s.core k).dmem a l }).wipe ((coreWords a l.length).map (flawCore k))

/-- Read bytes of data memory. -/
def State.load (s : State) (k a n : Nat) : List Byte := (List.range n).map (fun i => (s.core k).dmem.get 0 (a + i))

/-- The code of a step state in CKSTATE (R169). -/
def stepStateCode : StepState → Nat
  | .idle => 0 | .waiting => 1 | .running => 2 | .done => 3 | .fenced => 4 | .held => 5

/-- The CSRs of R169 that describe a partition. -/
def State.partCsr (s : State) (p n : Nat) : Option (BitVec 64 × Bool) :=
  let x := s.part p
  let known := fun (v : Nat) => some (BitVec.ofNat 64 v, false)
  match n with
  | 0xCC0 => known (match x.running, x.lastTicket with
      | some t, _ => dStepNo t.desc
      | none, some t => dStepNo t.desc
      | none, none => 0)
  | 0xCC1 => known x.segment
  | 0xCC2 => known (match x.seg with
      | some g => g.z
      | none => 0)
  | 0xCC3 => known x.lcycle
  | 0xCC4 => known (stepStateCode x.stepState)
  | 0xCC5 => known p
  | _ => none

/-- The standard counters of a core: core cycles, the town clock of its district's copy, and instructions (R169). -/
def State.coreCsr (s : State) (k n : Nat) : Option (BitVec 64 × Bool) :=
  let known := fun (v : Nat) => some (BitVec.ofNat 64 v, false)
  match n with
  | 0xC00 => known ((s.district (coreDistrict k)).cycles / 2)
  | 0xC01 => known ((s.district (coreDistrict k)).copy / 2 ^ 32)
  | 0xC02 => known (s.core k).retired
  | _ => none

/-- The CSRs that a routine reads (R169), of its own partition. -/
def State.userCsr (s : State) (k p n : Nat) : Option (BitVec 64 × Bool) := (s.coreCsr k n).or (s.partCsr p n)

/-- The CSRs of R169 in machine mode, of the slot that CKPSEL selects: of an empty slot CKPART reads 0xFF, and what the others read is not stated: a free value. -/
def State.selectedCsr (s : State) (k n : Nat) : Option (BitVec 64 × Bool) :=
  match s.slotPart k ((s.core k).ckpsel.toNat % 16) with
  | some p => s.partCsr p n
  | none => if n = 0xCC5 then some (0xFF, false) else if 0xCC0 ≤ n ∧ n < 0xCC5 then some (Config.freeValue s.draws 64, true) else none

/-- The machine CSRs of the privileged standard that R158 and R176 name, with CKPSEL and CKWDOG (log 10); what a read of CKWDOG gives is not stated: a free value. -/
def State.machineCsr (s : State) (k n : Nat) : Option (BitVec 64 × Bool) :=
  let c := s.core k
  let known := fun (v : BitVec 64) => some (v, false)
  if 0x3B0 ≤ n ∧ n < 0x3C0 then known (c.pmpaddr.get 0 (n - 0x3B0))
  else match n with
  | 0x300 => known c.mstatus
  | 0x301 => known (BitVec.ofNat 64 (2 ^ 63 + 2 ^ 20 + 2 ^ 12 + 2 ^ 8 + 2 ^ 2 + 1))
  | 0x304 => known c.mie
  | 0x305 => known c.mtvec
  | 0x340 => known c.mscratch
  | 0x341 => known c.mepc
  | 0x342 => known c.mcause
  | 0x343 => known c.mtval
  | 0x344 => known c.mip
  | 0x3A0 => known (BitVec.ofNat 64 (leNat ((List.range 8).map (fun i => c.pmpcfg.get 0 i))))
  | 0x3A2 => known (BitVec.ofNat 64 (leNat ((List.range 8).map (fun i => c.pmpcfg.get 0 (8 + i)))))
  | 0xB00 => s.coreCsr k 0xC00
  | 0xB02 => s.coreCsr k 0xC02
  | 0xF11 => known 0
  | 0xF12 => known 0
  | 0xF13 => known 0
  | 0xF14 => known (BitVec.ofNat 64 k)
  | 0x7C0 => known c.ckpsel
  | 0x7C1 => some (Config.freeValue s.draws 64, true)
  | _ => (s.coreCsr k n).or (s.selectedCsr k n)

/-- Write 8 PMP configuration bytes; a locked entry keeps its own (R158). -/
def Core.writePmpcfg (c : Core) (from_ : Nat) (v : BitVec 64) : Core :=
  { c with pmpcfg := (natBytes 8 v.toNat).zipIdx.foldl (fun t e => if (t.get 0 (from_ + e.2)).toNat / 128 = 1 then t else t.put (from_ + e.2) (e.1 &&& 0x9F)) c.pmpcfg }

/-- Write a machine CSR (log 10): fields that the standard or R176 does not give read zero, and of mip only the local causes may be written. -/
def Core.writeCsr (c : Core) (n : Nat) (v : BitVec 64) : Core :=
  if 0x3B0 ≤ n ∧ n < 0x3C0 then
    let i := n - 0x3B0
    let next := (c.pmpcfg.get 0 (i + 1)).toNat
    if (c.pmpcfg.get 0 i).toNat / 128 = 1 ∨ (next / 128 = 1 ∧ next / 8 % 4 = 1) then c else { c with pmpaddr := c.pmpaddr.put i (v &&& BitVec.ofNat 64 (2 ^ 54 - 1)) }
  else match n with
  | 0x300 => { c with mstatus := v &&& (if v &&& 0x1800 = 0x1800 then 0x1888 else 0x88) }
  | 0x304 => { c with mie := v &&& 0x3F0080 }
  | 0x305 => { c with mtvec := v &&& ~~~2#64 }
  | 0x340 => { c with mscratch := v }
  | 0x341 => { c with mepc := v &&& ~~~1#64 }
  | 0x342 => { c with mcause := v }
  | 0x343 => { c with mtval := v }
  | 0x344 => { c with mip := (c.mip &&& 0x80) ||| (v &&& 0x3F0000) }
  | 0x3A0 => c.writePmpcfg 0 v
  | 0x3A2 => c.writePmpcfg 8 v
  | 0x7C0 => { c with ckpsel := v &&& 0xF }
  | _ => c

/-- n bytes of data memory that the PMP lets the routine reach (R162). -/
def State.rvData (s : State) (k p a n : Nat) : Option (List Byte) :=
  let base := slotData (s.slotOf p)
  if base ≤ a ∧ a + n ≤ base + 12288 then some (s.load k a n) else none

/-- n bytes of data memory that firmware may read or write (R158). -/
def State.fwData (s : State) (k : Nat) (write : Bool) (a n : Nat) : Option (List Byte) :=
  if 0x80000 ≤ a ∧ a + n ≤ 0xC0000 ∧ (s.core k).pmp (if write then 1 else 0) a n then some (s.load k a n) else none

/-- What the instruction at a routine's pc does. -/
def State.rvNow (s : State) (k p : Nat) : RvResult :=
  match s.rvFetch p with
  | none => .fault .access
  | some (w, len) =>
    if s.coreFlawed k (s.part p).routine.pc.toNat len then .flawed
    else ({ pc := (s.part p).routine.pc, len := len, held := (s.part p).routine.reserved, x := s.reg k (.routine p), mem := fun _ => s.rvData k p,
            bad := s.coreFlawed k, csr := s.userCsr k p } : RvEnv).run w

/-- What the instruction at firmware's pc does. -/
def State.fwNow (s : State) (k : Nat) : RvResult :=
  match s.fwFetch k with
  | none => .fault .access
  | some (w, len) =>
    if s.coreFlawed k (s.core k).pc.toNat len then .flawed
    else ({ machine := true, pc := (s.core k).pc, len := len, held := (s.core k).reserved, x := s.reg k .firmware, mem := s.fwData k,
            bad := s.coreFlawed k, csr := s.machineCsr k } : RvEnv).run w

/-- An instruction of a routine completes. -/
def State.rvEffect (s : State) (k p : Nat) (d : RvDone) : State :=
  let s := match d.store with
    | some (a, l) => s.store k a l
    | none => s
  let s := (s.retireInstr k).setReg k (.routine p) d.rd d.value
  s.setRoutine p { (s.part p).routine with pc := d.pc, busy := d.cycles, reserved := d.reserved }

/-- MRET restores what a trap's entry saved (log 10). -/
def Core.returned (c : Core) (mret : Bool) : Core :=
  if mret then { c with mstatus := BitVec.ofNat 64 (place 3 1 (boolBit (bitAt c.mstatus 7)) ||| place 7 1 1) } else c

/-- An instruction of firmware completes. -/
def State.fwEffect (s : State) (k : Nat) (d : RvDone) : State :=
  let s := match d.store with
    | some (a, l) => s.store k a l
    | none => s
  let s := s.setReg k .firmware d.rd d.value
  let c := match d.csr with
    | some (n, v) => (s.core k).writeCsr n v
    | none => s.core k
  let s := s.setCore k { c.returned d.mret with pc := d.pc, busy := d.cycles, reserved := d.reserved, retired := c.retired + 1 }
  if d.draws then { s with draws := s.draws + 1 } else s

/-- The mcause and mtval of firmware's exceptions (log 10). -/
def State.fwTrap (s : State) (k : Nat) (cause : RoutineFault) : State :=
  let pc := (s.core k).pc.toNat
  let w := (s.fwFetch k).map Prod.fst
  match cause, w with
  | .access, none => s.trap k 1 pc
  | .access, some w =>
    let a := s.reg k .firmware (rvBits w 15 5)
    match w % 128 with
    | 0x03 => s.trap k 5 (a + rvSigned 12 (rvBits w 20 12)).toNat
    | 0x23 => s.trap k 7 (a + rvSigned 12 (rvBits w 25 7 * 32 + rvBits w 7 5)).toNat
    | _ => s.trap k (if rvBits w 27 5 = 2 then 5 else 7) a.toNat
  | .illegal, _ => s.trap k 2 (w.getD 0)
  | .ebreak, _ => s.trap k 3 pc
  | .ecall, _ => s.trap k 11 0

/-- One core cycle of firmware (R159, R163): an interrupt that is pending is taken, an instruction that takes longer goes on, else the one at the pc is
done or traps. An extension instruction and a write of CKWDOG are their own commands', and a failing word is CORE_FAULT's. -/
def State.fwCycle (s : State) (k : Nat) : State :=
  let c := s.core k
  if 1 < c.busy then s.setCore k { c with busy := c.busy - 1 }
  else match c.interrupt with
    | some i => s.setCore k (c.takeInterrupt i)
    | none =>
      let s := s.setCore k { c with busy := 0 }
      match s.fwNow k with
      | .done d => s.fwEffect k d
      | .fault f => let s := s.fwTrap k f; s.setCore k { s.core k with busy := 1 }
      | _ => s

/-- One core cycle of a routine in its slice (R159, R163): the instruction at the pc is done, or one that takes longer goes on. A fault is ROUTINE_FAULT's, a failing
word CORE_FAULT's, and an extension instruction its own command's. -/
def State.routineCycle (s : State) (k p : Nat) : State :=
  let r := (s.part p).routine
  if 1 < r.busy then s.setRoutine p { r with busy := r.busy - 1 }
  else
    let s := s.setRoutine p { r with busy := 0 }
    match s.rvNow k p with
    | .done d => s.rvEffect k p d
    | _ => s

/-- One core cycle (R163): firmware's, or that of the routine whose slice it is, after the 2 cycles of the context switch. -/
def State.coreCycle (s : State) (k : Nat) : State :=
  if s.firmwareTurn k then s.fwCycle k
  else if k < 16 then match s.userPart k (s.calendar k / 64 - 1) with
    | some p => s.routineCycle k p
    | none => s
  else s

/-- A routine has come to an instruction that faults. -/
def State.faultsNow (s : State) (p : Nat) (cause : RoutineFault) : Bool :=
  let k := s.leadCore p
  s.userPart k (s.slotOf p) == some p && (s.part p).routine.busy == 0 && s.rvNow k p == .fault cause

/-- ROUTINE_FAULT (R166): the instruction that a routine has come to in its slice faults. -/
def execRoutineFault (p : Fin 64) (cause : RoutineFault) (s : State) : Host.Outcome State Fault Refusal :=
  if s.faultsNow p.val cause then .next (s.routineFault p.val cause) else .next s

/-! ## Queues (R168) -/

/-- The queue that a number names: a partition's mailbox, the post-completion queue, or nothing. -/
inductive QueueName where
  | mailbox (p : Nat)
  | posts
  | empty
deriving DecidableEq, Repr

def State.queueNamed (s : State) (k : Nat) (w : Runner) (n : Nat) : QueueName :=
  match w with
  | .routine p => if n = 0 then .mailbox p else .empty
  | .firmware =>
    if n = 0x40 then .posts
    else if n < 16 then match s.slotPart k n with
      | some p => .mailbox p
      | none => .empty
    else .empty

def State.waiting (s : State) (k : Nat) : QueueName → Nat
  | .mailbox p => (s.part p).routine.mailbox.length
  | .posts => (s.core k).posts.length
  | .empty => 0

/-- CK.MBCNT (R167, R168). -/
def execCkMbcnt (k : Fin 20) (m : CkMode) (rd rs1 : Fin 32) (s : State) : Host.Outcome State Fault Refusal :=
  match s.runner k.val 0 [(7, rd.val), (15, rs1.val)] m with
  | none => .next s
  | some w =>
    let q := s.queueNamed k.val w (s.reg k.val w rs1.val).toNat
    .next (s.result k.val w rd.val (BitVec.ofNat 64 (s.waiting k.val q)) 1)

/-- A mailbox record whose word is of a failing class fails the step of its partition (R211); what is read is as it stands (log 92). -/
def State.mailRead (s : State) (p : Nat) : State :=
  match s.flawFails (flawMail p) with
  | some (c, sy) => ((s.readFailed p 3 0 c sy).failStep p c c.faultClass).wipe [flawMail p]
  | none => s.wipe [flawMail p]

/-- The head record of a queue, and the state without it. -/
def State.popQueue (s : State) (k : Nat) : QueueName → Option (List Byte × State)
  | .mailbox p =>
    match (s.part p).routine.mailbox with
    | [] => none
    | r :: t => some (wordBytes r, (s.setRoutine p { (s.part p).routine with mailbox := t }).mailRead p)
  | .posts =>
    match (s.core k).posts with
    | [] => none
    | r :: t => some (r, s.setCore k { s.core k with posts := t })
  | .empty => none

/-- CK.MBPOP (R167, R168): 32 bytes of a mailbox record, 128 of a post completion. -/
def execCkMbpop (k : Fin 20) (m : CkMode) (rd rs1 rs2 : Fin 32) (s : State) : Host.Outcome State Fault Refusal :=
  match s.runner k.val 1 [(7, rd.val), (15, rs1.val), (20, rs2.val)] m with
  | none => .next s
  | some w =>
    let q := s.queueNamed k.val w (s.reg k.val w rs1.val).toNat
    let a := (s.reg k.val w rs2.val).toNat
    if !s.writable k.val w a (if q = .posts then 128 else 32) then .next (s.accessFault k.val w 7 a)
    else match s.popQueue k.val q with
      | none => .next (s.result k.val w rd.val (-1) 4)
      | some (l, s) => .next ((s.store k.val a l).result k.val w rd.val (BitVec.ofNat 64 (s.waiting k.val q)) 4)

/-- CK.CHOOSE (R171): the status, and the choice registered or the step failed. -/
def execCkChoose (k : Fin 20) (m : CkMode) (rd rs1 : Fin 32) (s : State) : Host.Outcome State Fault Refusal :=
  match s.runner k.val 2 [(7, rd.val), (15, rs1.val)] m with
  | none => .next s
  | some w =>
    let n := (s.reg k.val w rs1.val).toNat
    match s.subject k.val w with
    | none => .next (s.result k.val w rd.val 1 4)
    | some p =>
      let x := s.part p
      match x.seg with
      | none => .next (s.result k.val w rd.val 1 4)
      | some g =>
        if x.stepState ≠ .running ∨ g.next ≠ 2 then .next (s.result k.val w rd.val 1 4)
        else if x.choice.isSome then .next (s.result k.val w rd.val 2 4)
        else if g.choices.contains n then .next ((s.setPart p { x with choice := some n }).result k.val w rd.val 0 4)
        else .next ((s.failStep p .segment 1).result k.val w rd.val 3 4)

/-- The ticket of the step that a partition runs. -/
def Part.runningTicket (x : Part) : Option Ticket := if x.stepState = .running then x.running else none

/-- CK.TKT (R167): the current step's 64-byte ticket. -/
def execCkTkt (k : Fin 20) (m : CkMode) (rd rs1 : Fin 32) (s : State) : Host.Outcome State Fault Refusal :=
  match s.runner k.val 3 [(7, rd.val), (15, rs1.val)] m with
  | none => .next s
  | some w =>
    let a := (s.reg k.val w rs1.val).toNat
    if !s.writable k.val w a 64 then .next (s.accessFault k.val w 7 a)
    else match (s.subject k.val w).bind (fun p => (s.part p).runningTicket) with
      | some t => .next ((s.store k.val a (natBytes 64 t.desc.toNat)).result k.val w rd.val 0 6)
      | none => .next (s.result k.val w rd.val 1 6)

/-- The kinds and partitions that a core may post (R172). -/
def State.mayPost (s : State) (k : Nat) (w : Runner) (d : Desc) : Bool :=
  let kind := dKind d
  match w with
  | .routine p => kind == 5 && dPart d == p
  | .firmware =>
    if k < 16 then (kind == 5 || kind == 3) && (s.slotParts k).contains (dPart d)
    else kind == 0x10 || kind == 5 || kind == 6 || kind == 7

/-- A core is reset: the partitions it leads, or for a sequencer core every one that runs, are fenced with cause FAULT; its firmware
is loaded afresh from the image in force and serves within 200 µs. `code` is the event: 1 watchdog, 2 core fault. -/
def State.resetCore (s : State) (k code : Nat) : State :=
  let s := s.logEvent { cls := 16, code := code, inst := k, detail := (s.core k).pc.toNat % 2 ^ 32 }
  let led := if k < 16 then s.slotParts k else []
  let s := led.foldl (fun (s : State) (p : Nat) =>
    let r := (s.part p).routine
    let s := if code = 2 ∧ (r.mode = .running ∨ r.mode = .suspended) then
        s.setObj (0x4000 + p) 0x1B (natBytes 8 (place 56 8 4 ||| r.pc.toNat % 2 ^ 32))
      else s
    (s.setRoutine p { r with mode := .idle, regs := [] }).failStep p .fault 4) s
  let s := if k < 16 then s
    else (s.parts.keys).foldl (fun (s : State) (p : Nat) => if (s.part p).stepState = .running then s.failStep p .fault 7 else s) s
  (s.setCore k { wdogAt := s.town, downTo := s.town + 200 * Config.ticksPerUs, imem := s.firmwareOf k }).wipe
    (s.flaws.keys.filter (fun a => decide (flawCore k 0 ≤ a ∧ a < flawCore (k + 1) 0)))

/-- CK.POST (R172, R275): a descriptor enters the core's intake of 16, with the tenant it is judged by. -/
def execCkPost (k : Fin 20) (m : CkMode) (rd rs1 : Fin 32) (s : State) : Host.Outcome State Fault Refusal :=
  match s.runner k.val 4 [(7, rd.val), (15, rs1.val)] m with
  | none => .next s
  | some w =>
    let a := (s.reg k.val w rs1.val).toNat
    if !s.writable k.val w a 64 then .next (s.accessFault k.val w 5 a)
    else if s.coreFlawed k.val a 64 then .next (s.resetCore k.val 2)
    else
      let d : Desc := BitVec.ofNat 512 (leNat (s.load k.val a 64))
      let c := s.core k.val
      let judged := match w with
        | .routine p => some (s.part p).owner
        | .firmware => none
      if 16 ≤ c.intake.length then .next (s.result k.val w rd.val 1 8)
      else if !descCrcOk d then .next (s.result k.val w rd.val 2 8)
      else if !s.mayPost k.val w d then .next (s.result k.val w rd.val 3 8)
      else .next ((s.setCore k.val { c with intake := c.intake ++ [(judged, d)] }).result k.val w rd.val 0 8)

/-- The events that hold (R168). -/
def State.events (s : State) (k : Nat) (w : Runner) : Nat :=
  let subject := s.subject k w
  let part := fun (f : Nat → Bool) => match subject with
    | some p => f p
    | none => false
  place 0 1 (boolBit (part (fun p => !(s.part p).routine.mailbox.isEmpty)))
  ||| place 1 1 (boolBit (part (fun p => (s.part p).routine.started)))
  ||| place 2 1 (boolBit (part (fun p => (s.part p).stepState == .running && (match (s.part p).seg with
        | some g => decide (g.z ≤ (s.part p).lcycle + 256)
        | none => false))))
  ||| place 3 1 (boolBit (!(s.core k).posts.isEmpty))
  ||| place 4 1 (boolBit (decide (k < 16) && s.calendar k % 64 == 63))

/-- CK.WAIT (R168): it returns when an event of the mask holds, and at the end of the slice; until then it waits. -/
def execCkWait (k : Fin 20) (m : CkMode) (rd rs1 : Fin 32) (s : State) : Host.Outcome State Fault Refusal :=
  match s.runner k.val 5 [(7, rd.val), (15, rs1.val)] m with
  | none => .next s
  | some w =>
    let e := s.events k.val w
    if e &&& ((s.reg k.val w rs1.val).toNat ||| 16) = 0 then .next s else .next (s.result k.val w rd.val (BitVec.ofNat 64 e) 1)

/-- CK.DONE (R165, R167): the routine idles until the next step start; in machine mode only the pc moves. -/
def execCkDone (k : Fin 20) (m : CkMode) (s : State) : Host.Outcome State Fault Refusal :=
  match s.runner k.val 6 [] m with
  | none => .next s
  | some (.routine p) =>
    let s := s.advance k.val (.routine p) 1
    .next ((s.setRoutine p { (s.part p).routine with mode := .idle }).raise k.val 21)
  | some .firmware => .next (s.advance k.val .firmware 1)

/-! ## Watchdogs and resets (R175) -/

/-- A word is a CSR instruction that writes CKWDOG (R175). -/
def wdogIs (w : Nat) : Bool := w % 128 == 0x73 && (rvCsrWrite w (fun _ => 0) 0).map Prod.fst == some 0x7C1

/-- CKWDOG (R175): firmware, in its turn, writes the watchdog's CSR and restarts the interval. What a destination register reads of it is a free value. -/
def execCkwdog (k : Fin 20) (s : State) : Host.Outcome State Fault Refusal :=
  if s.fwAt k.val wdogIs then
    let rd := match s.fwFetch k.val with
      | some (w, _) => rvBits w 7 5
      | none => 0
    let v := s.draw 64
    let s := if rd = 0 then s else v.2.setReg k.val .firmware rd v.1
    let s := s.advance k.val .firmware 1
    .next (s.setCore k.val { s.core k.val with wdogAt := s.town, warned := false })
  else .next s

/-- WATCHDOG_WARNING (R175): cause 20 after 0.9 ms. -/
def execWatchdogWarning (k : Fin 20) (s : State) : Host.Outcome State Fault Refusal :=
  let c := s.core k.val
  if s.coreUp k.val && !c.warned && decide (c.wdogAt + 900 * Config.ticksPerUs ≤ s.town) then
    .next ((s.setCore k.val { c with warned := true }).raise k.val 20)
  else .next s

/-- WATCHDOG_EXPIRY (R175): the core is reset after 1 ms. -/
def execWatchdogExpiry (k : Fin 20) (s : State) : Host.Outcome State Fault Refusal :=
  if s.coreUp k.val && decide ((s.core k.val).wdogAt + Config.ticksPerMs ≤ s.town) then .next (s.resetCore k.val 1) else .next s

/-- The instruction that a core has come to meets a word of a failing class in its memories (R160). -/
def State.flawedNow (s : State) (k : Nat) : Bool :=
  if s.firmwareTurn k then (s.core k).busy == 0 && s.fwNow k == .flawed
  else match s.userPart k (s.calendar k / 64 - 1) with
    | some p => (s.part p).routine.busy == 0 && s.rvNow k p == .flawed
    | none => false

/-- CORE_FAULT (R160, R175): the instruction that the core has come to meets an uncorrectable word. -/
def execCoreFault (k : Fin 20) (s : State) : Host.Outcome State Fault Refusal :=
  if s.flawedNow k.val then .next (s.resetCore k.val 2) else .next s

/-- TIMER_INTERRUPT (R176): the town clock has reached mtimecmp. -/
def execTimerInterrupt (k : Fin 20) (s : State) : Host.Outcome State Fault Refusal :=
  if s.coreUp k.val && decide ((s.core k.val).mtimecmp.toNat ≤ s.town) then .next (s.raise k.val 7) else .next s

end Sys2Proof.Machine
end

