-- ==== Sys2Proof/Machine/Fabric.lean ====
section
/-! DEFINITION. Packets (R299 to R302), the crossroads (R325 to R331, R337, R338), precincts (R343, R345), and the sending of packets by
the part's own units. -/
namespace Sys2Proof.Machine

/-! ## Packets -/

/-- A field of a 256-bit header written afresh. -/
def setField (w : BitVec 256) (lo len v : Nat) : BitVec 256 :=
  BitVec.ofNat 256 (w.toNat - ((w.toNat >>> lo) % 2 ^ len) <<< lo + place lo len v)

def Packet.type (p : Packet) : Nat := field p.header 0 8
def Packet.len (p : Packet) : Nat := field p.header 8 5
def Packet.vc (p : Packet) : Nat := field p.header 14 1
def Packet.cls (p : Packet) : Nat := field p.header 15 1
def Packet.flags (p : Packet) : Nat := field p.header 16 8
def Packet.seq (p : Packet) : Nat := field p.header 32 16
def Packet.epoch (p : Packet) : Nat := field p.header 48 8
def Packet.dst (p : Packet) : Nat := field p.header 128 16
def Packet.src (p : Packet) : Nat := field p.header 144 16
def Packet.job (p : Packet) : Nat := field p.header 160 16
def Packet.origEpoch (p : Packet) : Nat := field p.header 176 8
def Packet.hops (p : Packet) : Nat := field p.header 184 8
def Packet.rtag (p : Packet) : Nat := field p.header 192 16
def Packet.handle (p : Packet) : Nat := field p.header 208 16
def Packet.woffset (p : Packet) : Nat := field p.header 224 32

/-- Payload word i as its data, unchecked. -/
def Packet.word (p : Packet) (i : Nat) : Word := ((p.payload[i]?).map Stored.data).getD 0

/-- Payload word i as a unit reads it: mended, or none where it fails (R322). -/
def Packet.goodWord (p : Packet) (i : Nat) : Option Word :=
  match p.payload[i]? with
  | none => none
  | some x => match decodeStored x with
    | .clean w => some w
    | .mended w => some w
    | .failing _ _ => none

/-- The bytes that the trailer covers. -/
def Packet.covered (p : Packet) : List Byte :=
  wordBytes p.header ++ p.payload.flatMap (fun x => wordBytes x.data ++ natBytes 4 x.check.toNat)

/-- The packet as it goes on the stream (R299, R302). -/
def Packet.bytes (p : Packet) : List Byte := let l := p.covered; l ++ natBytes 4 (crc32c l)

/-- The packet of 36 + 36·LEN bytes, if its trailer holds. -/
def parsePacket (l : List Byte) : Option Packet :=
  let h : BitVec 256 := bytesWord l
  let n := field h 8 5
  if leAt l (32 + 36 * n) 4 = crc32c (l.take (32 + 36 * n)) then
    some { header := h, payload := (List.range n).map (fun i => ⟨bytesWord (slice l (32 + 36 * i) 32), BitVec.ofNat 32 (leAt l (64 + 36 * i) 4)⟩) }
  else none

/-- The end-to-end fields of a packet, set by its source (R300). -/
structure Heading where
  type    : Nat
  dst     : Nat
  src     : Nat
  job     : Nat := 0
  hops    : Nat := 0
  rtag    : Nat := 0
  handle  : Nat := 0
  woffset : Nat := 0
  flags   : Nat := 0
  epoch   : Nat := 0
deriving DecidableEq, Repr

/-- The class of a type code (R301). -/
def classOfType (t : Nat) : Nat := if 0x20 ≤ t then 1 else 0

/-- A packet on VC 0. -/
def Heading.packet (h : Heading) (payload : List Stored) : Packet :=
  { header := BitVec.ofNat 256 (place 0 8 h.type ||| place 8 5 payload.length ||| place 15 1 (classOfType h.type) ||| place 16 8 h.flags
      ||| place 128 16 h.dst ||| place 144 16 h.src ||| place 160 16 h.job ||| place 176 8 h.epoch ||| place 184 8 h.hops
      ||| place 192 16 h.rtag ||| place 208 16 h.handle ||| place 224 32 h.woffset), payload := payload }

/-- The LEN that a type allows (R338); none for an unknown type. -/
def lenRange (t : Nat) : Option (Nat × Nat) :=
  if 0x10 ≤ t ∧ t ≤ 0x12 then some (1, 16)
  else if 0x20 ≤ t ∧ t ≤ 0x27 then some (0, 16)
  else if t = 0x28 then some (0, 0)
  else if t = 0x29 then some (1, 1)
  else if t = 0x2C ∨ t = 0x2D then some (0, 16)
  else none

/-! ## Ports, jobs and buffers of the state -/

def State.port (s : State) (n : Nat) : Port := s.ports.get {} n

/-- Change a port, with the objects formed from it, and FABRIC_DIGEST where its partner changes (R323, R327). -/
def State.setPort (s : State) (n : Nat) (x : Port) : State :=
  let y := s.port n
  ({ s with ports := s.ports.put n x } : State).bumpWhere
    [(x.link != y.link, 0x7100 + n, 0x01), (x.txEpoch != y.txEpoch, 0x7100 + n, 0x04), (x.rxEpoch != y.rxEpoch, 0x7100 + n, 0x05),
     (x.partner != y.partner, 0x7100 + n, 0x06), (x.downCause != y.downCause, 0x7100 + n, 0x07), (x.partner != y.partner, 0x7000, 0x05)]

def State.job (s : State) (j : Nat) : Job := s.jobs.get {} j

/-- Change a job slot (R344). -/
def State.setJob (s : State) (j : Nat) (x : Job) : State :=
  ({ s with jobs := s.jobs.put j x } : State).bumpWhere [(x.state != (s.job j).state, 0x7200 + j, 0x01)]


/-- The buffer of input i (6 for the local units), class and virtual channel (R330). -/
def bufKey (i cls vc : Nat) : Nat := 4 * i + 2 * cls + vc
def State.buffer (s : State) (k : Nat) : List Queued := s.crossroads.get [] k
def State.setBuffer (s : State) (k : Nat) (l : List Queued) : State := { s with crossroads := s.crossroads.put k l }

def Port.isUp (x : Port) : Bool := x.link == 4

/-- Count an event of a port and log it (R321, R324). -/
def State.portEvent (s : State) (n sub : Nat) : State :=
  s.countLog { cls := 4, counter := 0x9700 + n, sub := sub, inst := n, detail := (s.port n).downCause }

/-- Count an event of the crossroads and log it (R357). -/
def State.roadEvent (s : State) (sub job endpoint : Nat) : State :=
  s.countLog { cls := 5, counter := 0x9800, sub := sub, detail := job + 65536 * endpoint }

/-! ## Coordinates (R325, R326) -/

def State.endpoint (s : State) : Nat := s.objNat 0x7000 0x01

/-- Coordinate d (0 X, 1 Y, 2 Z) of a packed triple. -/
def coordAt (v d : Nat) : Nat := v / 64 ^ d % 64

/-- This part's coordinate, the torus size and the wrap of a dimension. -/
def State.me (s : State) (d : Nat) : Nat := coordAt (s.objNat 0x7000 0x02) d
def State.dimSize (s : State) (d : Nat) : Nat := coordAt (s.objNat 0x7000 0x03) d + 1
def State.wraps (s : State) (d : Nat) : Bool := s.objNat 0x7000 0x03 / 2 ^ (24 + d) % 2 == 1

/-- The route-table entry of an endpoint: VALID, PORT and coordinates. -/
def State.routeEntry (s : State) (e : Nat) : Nat := leAt (s.obj 0x7000 0x04) (4 * e) 4
def State.known (s : State) (e : Nat) : Bool := e < 65535 && s.routeEntry e / 2 ^ 31 % 2 == 1
/-- The coordinates of a valid endpoint; this part's own where the endpoint is its own. -/
def State.coordsOf (s : State) (e : Nat) : Nat := s.routeEntry e % 2 ^ 18

/-! ## Precincts (R343) -/

/-- A box: origin and extent in each dimension. -/
structure Box where
  origin : Nat → Nat
  extent : Nat → Nat

/-- The box of a job slot. -/
def State.boxOf (s : State) (j : Nat) : Box :=
  let l := s.obj (0x7200 + j) 0x04
  { origin := fun d => leAt l d 1, extent := fun d => leAt l (3 + d) 1 }

/-- A coordinate's position within a box. -/
def State.posIn (s : State) (b : Box) (d c : Nat) : Nat := (c + s.dimSize d - b.origin d % s.dimSize d) % s.dimSize d

/-- Packed coordinates lie in a box. -/
def State.inBox (s : State) (b : Box) (v : Nat) : Bool := (List.range 3).all (fun d => decide (s.posIn b d (coordAt v d) < b.extent d))

/-- The whole torus, in which JOB 0 moves. -/
def State.wholeTorus (s : State) : Box := { origin := fun _ => 0, extent := fun d => s.dimSize d }

/-- The slot that holds a tag and is OPEN. -/
def State.openSlot (s : State) (tag : Nat) : Option Nat :=
  (List.find? (fun e => e.2.state == 1 && s.objNat (0x7200 + e.1) 0x02 == tag) s.jobs).map Prod.fst

/-- The box that the packets of a tag move in, if the part accepts the tag. -/
def State.precinct (s : State) (tag : Nat) : Option Box :=
  if tag = 0 then some s.wholeTorus else (s.openSlot tag).map s.boxOf

/-- The OPEN job slot that binds a partition. -/
def State.jobOf (s : State) (p : Nat) : Option Nat :=
  (List.find? (fun e => e.2.state == 1 && s.objNat (0x7200 + e.1) 0x03 == p) s.jobs).map Prod.fst

/-- The partition of a job slot. -/
def State.jobPart (s : State) (j : Nat) : Nat := s.objNat (0x7200 + j) 0x03
def State.jobTag (s : State) (j : Nat) : Nat := s.objNat (0x7200 + j) 0x02

/-- A job has more than one part. -/
def State.manyParts (s : State) (j : Nat) : Bool := let b := s.boxOf j; decide (1 < b.extent 0 * b.extent 1 * b.extent 2)

/-- A port's dimension and direction (R291). -/
def portDim (n : Nat) : Nat := n / 2
def portPlus (n : Nat) : Bool := n % 2 == 0

/-- The coordinates of the neighbour on a port; none beyond an edge that does not wrap. -/
def State.neighbour (s : State) (n : Nat) : Option Nat :=
  let d := portDim n
  let m := s.me d
  let size := s.dimSize d
  let edge := if portPlus n then m + 1 == size else m == 0
  if edge && !s.wraps d then none
  else
    let c := if portPlus n then (m + 1) % size else (m + size - 1) % size
    some ((List.range 3).foldl (fun a e => a + 64 ^ e * (if e = d then c else s.me e)) 0)

/-- A port is a bollard for a box: its partner lies outside (R344). -/
def State.bollard (s : State) (b : Box) (n : Nat) : Bool :=
  match s.neighbour n with
  | some v => !s.inBox b v
  | none => true

/-! ## Routes (R328) -/

/-- The dimension is a ring for a box. -/
def State.ring (s : State) (b : Box) (d : Nat) : Bool := s.wraps d && b.extent d == s.dimSize d

/-- The egress port from coordinates `from_` towards q; none when they are equal. -/
def State.egressFrom (s : State) (b : Box) (from_ q : Nat) : Option Nat :=
  (List.range 3).findSome? (fun d =>
    let m := coordAt from_ d
    let t := coordAt q d
    if t = m then none
    else
      let plus := if s.ring b d then decide (2 * ((t + s.dimSize d - m) % s.dimSize d) ≤ s.dimSize d)
        else decide (s.posIn b d m < s.posIn b d t)
      some (2 * d + (if plus then 0 else 1)))

/-- Packed coordinates of this part. -/
def State.here (s : State) : Nat := s.objNat 0x7000 0x02 % 2 ^ 18

/-- The hops of the route from this part to q: in each dimension the shorter way round a ring, else along the box. -/
def State.hopsTo (s : State) (b : Box) (q : Nat) : Nat :=
  (List.range 3).foldl (fun a d =>
    let m := s.me d
    let t := coordAt q d
    let f := (t + s.dimSize d - m) % s.dimSize d
    a + (if s.ring b d then min f (s.dimSize d - f) else absDiff (s.posIn b d m) (s.posIn b d t))) 0

/-! ## Sending (R330) -/

/-- Put packets into the local units' buffer of their class, in order. -/
def State.sendPackets (s : State) (l : List Packet) (op : Option (Nat × Nat)) (tenant : Option Nat) : State :=
  l.foldl (fun s p =>
    let k := bufKey 6 p.cls 0
    s.setBuffer k (s.buffer k ++ [{ pkt := p, at_ := s.town, op := op, tenant := tenant }])) s

/-- A service packet of JOB 0 to an endpoint, routed by R328 over the whole torus. -/
def State.sendService (s : State) (h : Heading) (payload : List Stored) (tenant : Option Nat) : State :=
  s.sendPackets [{ h with src := s.endpoint, hops := s.hopsTo s.wholeTorus (s.coordsOf h.dst) }.packet payload] none tenant

/-- A service packet to the partner of one port, which it reaches in one hop (R380, R441). -/
def State.sendPartner (s : State) (n : Nat) (h : Heading) (payload : List Stored) : State :=
  let p := { h with src := s.endpoint, dst := field (BitVec.ofNat 32 (s.port n).partner) 0 16, hops := 0 }.packet payload
  let k := bufKey 6 1 0
  s.setBuffer k (s.buffer k ++ [{ pkt := p, at_ := s.town, out := some n }])

/-- A credit falls due to the sender at the other end of a port (R330). -/
def State.oweCredit (s : State) (i cls vc : Nat) : State :=
  if i < 6 then
    let x := s.port i
    let k := 2 * cls + vc
    s.setPort i { x with owed := x.owed.put k (x.owed.get 0 k + 1) }
  else s

/-- A packet has left its input buffer for good: its credit falls due, and the SEND that it belongs to has one packet fewer to send (R330, R340). -/
def State.packetGone (s : State) (k : Nat) (q : Queued) : State :=
  let s := s.oweCredit (k / 4) (k / 2 % 2) (k % 2)
  match q.op with
  | some (b, id) => s.wordDone b id
  | none => s

/-- The words of a list as payload, encoded afresh. -/
def asPayload (l : List Word) : List Stored := l.map encodeWord

/-! ## The crossroads -/

/-- Replace the entry at position k of a list, or drop it. -/
def replaceAt {α : Type} : List α → Nat → Option α → List α
  | [], _, _ => []
  | _ :: t, 0, some v => v :: t
  | _ :: t, 0, none => t
  | x :: t, n + 1, v => x :: replaceAt t n v

/-- The virtual channel of a packet on its next link (R329): it enters a dimension on VC 0 and moves to VC 1 over the dateline. -/
def State.nextVc (s : State) (b : Box) (i n vc : Nat) : Nat :=
  let d := portDim n
  let held := if i < 6 ∧ portDim i = d then vc else 0
  let edge := if portPlus n then s.me d + 1 == s.dimSize d else s.me d == 0
  if s.ring b d && edge then 1 else held

/-- What the crossroads does with an arriving packet. -/
inductive Verdict where
  | deliver
  | forward (n : Nat) (vc : Nat)
  | dropJob
  | dropBollard
  | dropRoute
deriving DecidableEq, Repr

/-- The verdict of R328, R343, R345 and R346. -/
def State.verdict (s : State) (i : Nat) (p : Packet) : Verdict :=
  match s.precinct p.job with
  | none => .dropJob
  | some b =>
    if i < 6 ∧ p.job ≠ 0 ∧ s.bollard b i then .dropBollard
    else if p.dst = s.endpoint then (if p.hops = 0 then .deliver else .dropRoute)
    else if !s.known p.dst then .dropRoute
    else
      let q := s.coordsOf p.dst
      match s.egressFrom b s.here q with
      | none => .dropRoute
      | some n => if p.hops = 0 ∨ !s.inBox b q ∨ s.bollard b n && p.job != 0 then .dropRoute else .forward n (s.nextVc b i n p.vc)

/-- PACKET_ROUTE (R328): the first packet of an input buffer that is not yet routed is delivered, routed to its egress, or dropped.
A part decrements HOPS as it sends a packet on, the source included (DEDUCED, log 27). -/
def execPacketRoute (i : Fin 7) (service : Bool) (vc : Fin 2) (s : State) : Host.Outcome State Fault Refusal :=
  let cls := if service then 1 else 0
  let k := bufKey i.val cls vc.val
  let l := s.buffer k
  if s.mode ≠ .running ∧ s.mode ≠ .parked then .next s
  else match l.findIdx? (fun q => q.out.isNone) with
    | none => .next s
    | some at_ => match l[at_]? with
      | none => .next s
      | some q =>
        let p := q.pkt
        let gone := (s.setBuffer k (replaceAt l at_ none)).packetGone k q
        match s.verdict i.val p with
        | .deliver => .next ({ gone with arrived := gone.arrived ++ [(i.val, p)] }.count 0x9800 0x01 1)
        | .forward n v =>
          let h := setField (setField p.header 184 8 (p.hops - 1)) 14 1 v
          .next ((s.setBuffer k (replaceAt l at_ (some { q with pkt := { p with header := h }, out := some n }))).count 0x9800 0x01 1)
        | .dropJob =>
          let s := gone.roadEvent 0x03 p.job p.dst
          .next (if i.val < 6 then s.portEvent i.val 0x0E else s)
        | .dropBollard => .next (gone.roadEvent 0x02 p.job p.dst)
        | .dropRoute => .next (gone.roadEvent 0x04 p.job p.dst)

/-- AGED_DISCARD (R331): a packet that has waited 1 ms in an input buffer is discarded. -/
def execAgedDiscard (i : Fin 7) (service : Bool) (vc : Fin 2) (s : State) : Host.Outcome State Fault Refusal :=
  let cls := if service then 1 else 0
  let k := bufKey i.val cls vc.val
  let l := s.buffer k
  if s.mode ≠ .running ∧ s.mode ≠ .parked then .next s
  else match l.findIdx? (fun q => decide (q.at_ + Config.ticksPerMs ≤ s.town)) with
    | none => .next s
    | some at_ => match l[at_]? with
      | none => .next s
      | some q => .next (((s.setBuffer k (replaceAt l at_ none)).packetGone k q).count 0x9800 0x05 1)

end Sys2Proof.Machine
end

