-- ==== Sys2Proof/Machine/Agree.lean ====
section
/-! DEFINITION. The fault agent (R377 to R396): notices, the coordinator, decisions, commits, and the exchange with a spare. -/
namespace Sys2Proof.Machine

/-! ## Notices (R379) -/

def nStep (w : Word) : Nat := field w 192 64
def nOrigin (w : Word) : Nat := field w 112 16
def nSuspect (w : Word) : Nat := field w 96 16
def nMirror (w : Word) : Nat := field w 80 16
def nJob (w : Word) : Nat := field w 64 16
def nClass (w : Word) : Nat := field w 56 8
def nPart (w : Word) : Nat := field w 26 6
def nReady (w : Word) : Bool := bitAt w 25
def nRestored (w : Word) : Bool := bitAt w 24
/-- The triple that a suspect entry stands for (R383). -/
def nTriple (w : Word) : Nat × Nat × Nat := (nSuspect w, nPart w, nClass w)
/-- The identity of a notice in flooding (R380). -/
def nIdentity (w : Word) : Nat :=
  ((((nOrigin w * 65536 + nSuspect w) * 256 + nClass w) * 2 + (if nRestored w then 1 else 0)) * 2 ^ 64 + nStep w) * 65536 + nJob w

/-- A bit vector of a partition object. -/
def State.admitted (s : State) (p : Nat) : List Byte := s.obj (0x4000 + p) 0x04

/-- The endpoint of a partition's mirror (R387). -/
def State.mirrorOf (s : State) (p : Nat) : Nat := s.objNat (0x4000 + p) 0x0E % 65536

/-- A spare is ready (R391): LIVE, IDLE and bound to no job; same owner, admissions, plans, handles and generations; swept, none of its blocks retired. -/
def State.spareReady (s : State) (sp : Nat) : Bool :=
  let p := s.objNat (0x4000 + sp) 0x16
  let x := s.part p
  let y := s.part sp
  let shape := fun (z : Part) => (z.handles.map (fun e => (e.1, hKind e.2, hSize e.2)))
  decide (p < 64) && y.partState == 1 && y.stepState == .idle && (s.jobOf sp).isNone && y.takenOut.isNone
    && y.owner == x.owner && s.admitted sp == s.admitted p
    && (x.plans.map (fun e => (e.1, e.2.digest))) == (y.plans.map (fun e => (e.1, e.2.digest)))
    && shape x == shape y
    && s.obj (0x5200 + sp) 0x01 == s.obj (0x5200 + p) 0x01 && s.obj (0x5200 + sp) 0x02 == s.obj (0x5200 + p) 0x02
    && (mapBlocks y.blockMap).all (fun b => !(s.block b).retired && decide (y.changedAt < (s.block b).passAt))

/-- The step that a notice of a partition names: the running one, or the next it would start (R378). -/
def Part.noticeStep (x : Part) : Nat :=
  match x.running with
  | some t => if t.kerb then 0 else field t.desc 128 64
  | none => match x.tickets with
    | t :: _ => field t.desc 128 64
    | [] => (x.lastStep.toNat + 1) % 2 ^ 64

/-- A notice of a fault of partition p (R378, R379). -/
def State.makeNotice (s : State) (p cls cause port : Nat) (restored : Bool) : Word :=
  let x := s.part p
  let tag := match s.jobOf p with
    | some j => s.jobTag j
    | none => 0
  let ready := (cls == 2 || cls == 3) && s.spareReady (s.objNat (0x4000 + p) 0x0F) && x.stepSealed
  BitVec.ofNat 256 (place 192 64 x.noticeStep ||| place 128 64 s.town ||| place 112 16 s.endpoint
    ||| place 96 16 (if cls = 5 then field (BitVec.ofNat 32 (s.port port).partner) 0 16 else s.endpoint)
    ||| place 80 16 (s.mirrorOf p) ||| place 64 16 tag ||| place 56 8 cls ||| place 48 8 cause ||| place 32 8 (if cls = 5 then port else 0xFF)
    ||| place 26 6 p ||| place 25 1 (boolBit ready) ||| place 24 1 (boolBit restored))

/-- Send a packet one hop on every UP port whose partner lies in the job's box, but the one it came by (R380). -/
def State.flood (s : State) (tag type : Nat) (words : List Word) (except : Nat) : State :=
  match s.openSlot tag with
  | none => s
  | some j =>
    (List.range 6).foldl (fun s n =>
      if n ≠ except ∧ (s.port n).isUp ∧ !s.bollard (s.boxOf j) n then s.sendPartner n { type := type, dst := 0, src := 0 } (asPayload words) else s) s

/-- The partition agrees with others: it is bound to a job of more than one part. -/
def State.agrees (s : State) (p : Nat) : Option Nat := (s.jobOf p).filter s.manyParts

/-! ## Deciding (R382, R383) -/

/-- The suspects of a set of notices. -/
def suspects (l : List Word) : List Nat := (l.map nSuspect).eraseDups

/-- A part's position in a job's box (R382). -/
def State.position (s : State) (b : Box) (v : Nat) : Nat :=
  s.posIn b 0 (coordAt v 0) + b.extent 0 * (s.posIn b 1 (coordAt v 1) + b.extent 1 * s.posIn b 2 (coordAt v 2))

/-- This part is the coordinator: it is no suspect, and every member at a lower position is one (R382). -/
def State.coordinates (s : State) (j : Nat) (l : List Word) : Bool :=
  let b := s.boxOf j
  let mine := s.position b s.here
  let below := (suspects l).filter (fun e => s.known e && s.inBox b (s.coordsOf e) && decide (s.position b (s.coordsOf e) < mine))
  !(suspects l).contains s.endpoint && below.length == mine

/-- The entries of a decision: one for each distinct triple, in order of arrival (R383, R396). -/
def entriesOf (l : List Word) : List Nat :=
  ((l.map nTriple).eraseDups).map (fun (e, q, c) => place 16 16 e ||| place 10 6 q ||| place 9 1 (boolBit (c == 2 || c == 3)) ||| place 0 8 c)

/-- The REASON of R383; 0 for REPLAY. `replays`: the job's REPLAY, or the partition's REPLAY_PROTECTED where it decides alone. -/
def reasonOf (replays : Bool) (l : List Word) : Nat :=
  let rep := l.filter (fun w => nClass w == 2 || nClass w == 3)
  if !replays then 1
  else if l.any (fun w => nClass w == 1 || nClass w == 6 || nClass w == 7) then 2
  else if l.any (fun w => nClass w == 5 && !nRestored w && !l.any (fun v => nClass v == 5 && nRestored v && nOrigin v == nOrigin w && nSuspect v == nSuspect w)) then 3
  else if rep.any (fun w => !nReady w) then 4
  else if rep.any (fun w => (suspects l).contains (nMirror w)) then 5
  else if 8 < (entriesOf l).length then 6
  else 0

/-- The two words of a DECIDE (R384). -/
def decideWords (l : List Word) (replays : Bool) (town coordinator job round : Nat) : Word × Word :=
  let reason := reasonOf replays l
  let es := (entriesOf l).take 8
  let resume := (l.map nStep).foldl min (2 ^ 64 - 1)
  (BitVec.ofNat 256 (place 192 64 resume ||| place 128 64 town ||| place 112 16 coordinator ||| place 96 16 job ||| place 88 8 round
     ||| place 80 8 (if reason = 0 then 1 else 2) ||| place 72 8 reason ||| place 64 8 es.length),
   BitVec.ofNat 256 (es.zipIdx.foldl (fun a (e, i) => a ||| place (32 * i) 32 e) 0))

def dcResume (w : Word) : Nat := field w 192 64
def dcCoordinator (w : Word) : Nat := field w 112 16
def dcJob (w : Word) : Nat := field w 96 16
def dcRound (w : Word) : Nat := field w 88 8
def dcReplay (w : Word) : Bool := field w 80 8 == 1
def dcTime (w : Word) : Nat := field w 128 64
def dcIdentity (w : Word) : Nat := 2 ^ 200 + (dcCoordinator w * 256 + dcRound w) * 65536 + dcJob w
/-- Entry i of the entries. -/
def dcEntries (d : Word × Word) : List Nat := (List.range (field d.1 64 8)).map (fun i => field d.2 (32 * i) 32)

/-- A notice that a DECIDE does not account for (R385). -/
def unaccounted (d : Word × Word) (w : Word) : Bool :=
  !(dcEntries d).any (fun e => e / 65536 == nSuspect w && e / 1024 % 64 == nPart w && e % 256 == nClass w)
    || (nRestored w && decide (dcTime d.1 < field w 128 64))

def State.setEpisode (s : State) (p : Nat) (e : Episode) : State := s.setPart p { s.part p with episode := e }

/-- Issue a decision for job j as coordinator: it is flooded, and this part accepts it (R383, R384). -/
def State.issueDecision (s : State) (p j round : Nat) : State :=
  let e := (s.part p).episode
  let d := decideWords e.notices (s.objNat (0x7200 + j) 0x0A == 1) s.town s.endpoint (s.jobTag j) round
  let s := { s with seenNotices := dcIdentity d.1 :: s.seenNotices }
  (s.flood (s.jobTag j) 0x21 [d.1, d.2] 7).setEpisode p { e with decided := true, accepted := some d, acceptedAt := s.town }

/-- A notice becomes known to the partition of its job (R381, R383, R385): the window starts, a RUNNING partition is fenced, a coordinator
that has decided issues the next round, and a member whose accepted DECIDE does not account for it objects. -/
def State.learn (s : State) (p j : Nat) (w : Word) (fenceIt : Bool) : State :=
  let e := (s.part p).episode
  let known := e.notices.any (fun v => nIdentity v == nIdentity w)
  let e := { e with notices := if known then e.notices else e.notices ++ [w], since := some (e.since.getD s.town) }
  let s := s.setEpisode p e
  let s := if fenceIt ∧ (s.part p).stepState = .running then s.failStep p .fault 0 else s
  match e.accepted with
  | none => s
  | some d =>
    if !unaccounted d w then s
    else if e.decided && s.coordinates j e.notices then s.issueDecision p j (dcRound d.1 + 1)
    else s.flood (s.jobTag j) 0x20 [BitVec.ofNat 256 (w.toNat - place 40 8 (field w 40 8) + place 40 8 (dcRound d.1))] 7

/-- A fault of partition p (R377, R378): one notice is originated and flooded, or the partition keeps it to decide alone. -/
def State.originate (s : State) (p cls cause port : Nat) (restored : Bool) : State :=
  let w := s.makeNotice p cls cause port restored
  match s.agrees p with
  | some j =>
    let s := { (s.count 0x9B00 0x01 1) with seenNotices := nIdentity w :: s.seenNotices }
    (s.flood (s.jobTag j) 0x20 [w] 7).learn p j w false
  | none =>
    let e := (s.part p).episode
    let l := e.notices ++ [w]
    s.setEpisode p { e with notices := l, since := some (e.since.getD s.town), accepted := some (decideWords l (s.objNat (0x4000 + p) 0x0C == 1) s.town s.endpoint (nJob w) 0) }

/-! ## Taking packets that were delivered -/

/-- The first packet delivered that satisfies a test, and the state without it. -/
def State.takeArrived (s : State) (f : Packet → Bool) : Option (Nat × Packet × State) :=
  match s.arrived.findIdx? (fun a => f a.2) with
  | none => none
  | some k => match s.arrived[k]? with
    | none => none
    | some a => some (a.1, a.2, { s with arrived := replaceAt s.arrived k none })

/-- The live packets of a type: those delivered, while the part runs. -/
def State.takeType (s : State) (t : Nat) : Option (Nat × Packet × State) := if s.live then s.takeArrived (fun p => p.type == t) else none

/-- NOTICE_RECEIVE (R380, R381): a notice seen for the first time is forwarded, and the partition of its job learns of it. A notice
whose word fails is dropped. -/
def execNoticeReceive (s : State) : Host.Outcome State Fault Refusal :=
  match s.takeType 0x20 with
  | none => .next s
  | some (i, p, s) => match p.goodWord 0 with
    | none => .next s
    | some w =>
      let first := !s.seenNotices.contains (nIdentity w)
      let s := if first then (({ s with seenNotices := nIdentity w :: s.seenNotices }).flood (nJob w) 0x20 [w] i).count 0x9B00 0x02 1 else s
      match s.openSlot (nJob w) with
      | none => .next s
      | some j => .next (s.learn (s.jobPart j) j w true)

/-- COORDINATOR_DECIDE (R382, R383): 1,000 µs after its first notice the coordinator decides. -/
def execCoordinatorDecide (p : Fin 64) (s : State) : Host.Outcome State Fault Refusal :=
  let e := (s.part p.val).episode
  match s.agrees p.val, e.since with
  | some j, some t =>
    if s.live ∧ t + 1000 * Config.ticksPerUs ≤ s.town ∧ !e.decided ∧ s.coordinates j e.notices then
      .next (s.issueDecision p.val j (match e.accepted with
        | some d => dcRound d.1 + 1
        | none => 0))
    else .next s
  | _, _ => .next s

/-- DECIDE_RECEIVE (R380, R385). -/
def execDecideReceive (s : State) : Host.Outcome State Fault Refusal :=
  match s.takeType 0x21 with
  | none => .next s
  | some (i, p, s) => match p.goodWord 0, p.goodWord 1 with
    | some w, some v =>
      let first := !s.seenNotices.contains (dcIdentity w)
      let s := if first then (({ s with seenNotices := dcIdentity w :: s.seenNotices }).flood (dcJob w) 0x21 [w, v] i).count 0x9B00 0x02 1 else s
      match s.openSlot (dcJob w) with
      | none => .next s
      | some j =>
        let q := s.jobPart j
        let e := (s.part q).episode
        let older := match e.accepted with
          | some d => decide (dcRound w < dcRound d.1)
          | none => false
        let same := match e.accepted with
          | some d => dcRound w == dcRound d.1
          | none => false
        if older || (suspects e.notices).contains (dcCoordinator w) then .next s
        else
          let s := s.setEpisode q { e with accepted := some (w, v), acceptedAt := if same then e.acceptedAt else s.town, since := some (e.since.getD s.town) }
          .next ((e.notices.filter (unaccounted (w, v))).foldl (fun (s : State) n =>
            s.flood (s.jobTag j) 0x20 [BitVec.ofNat 256 (n.toNat - place 40 8 (field n 40 8) + place 40 8 (dcRound w))] 7) s)
    | _, _ => .next s

/-! ## Carrying out the decision -/

/-- An accepted ticket is discarded with STATUS FAULT (R394). -/
def State.discardTicket (s : State) (p : Nat) (t : Ticket) : State :=
  s.answerTicket t false { kind := 1, status := Status.fault.code, cause := Status.fault.code, tag := field t.desc 16 16, part := p,
                           stepNo := if t.kerb then 0 else field t.desc 128 64, body := refusedBody }

/-- Restart (R394): the partition is IDLE, its tickets are discarded, and what the step held of requests is given up (R224). -/
def State.restartPart (s : State) (p : Nat) : State :=
  let x := s.part p
  let s := (x.tickets ++ x.kerbTicket.toList).foldl (fun s t => s.discardTicket p t) s
  let bound := x.binding.values
  let s := bound.foldl (fun s i => if (s.request i).state = .free then s else s.setRequest i { s.request i with newFrames := [], shadow := [] }) s
  let s := s.setPart p { s.part p with stepState := .idle, tickets := [], kerbTicket := none, running := none, failure := none, replay := none, anyStep := true, binding := [], committed := [], digested := [], emitted := [], resolving := false, outcome := 0, joined := false, ckptSent := false, ckptSealed := false, stepDone := false, doneDesc := none, nextIsKerb := false, restoring := false }
  let s := bound.foldl (fun s i => s.waitedCommands i) s
  ((s.setPart p (s.part p).dropUnloaded).dropCalendars p).measure p

/-- Replay (R392): the step of RESUME_STEP is taken up again with its ticket, and the step count set back. -/
def State.replayPart (s : State) (p : Nat) : State :=
  let x := s.part p
  let again := fun (t : Ticket) (silent : Bool) =>
    s.setPart p { x with stepState := .waiting, replay := some t, silent := silent, running := none, failure := none, outcome := 0, joined := false, resolving := false, stepCount := (x.stepCount + 2 ^ 32 - 1) % 2 ^ 32, stepDone := false, doneDesc := none }
  match x.running, x.lastTicket with
  | some t, _ => again t x.silent
  | none, some t => if field t.desc 128 64 = x.resumeStep ∧ !t.kerb then again t true else s.setPart p { x with outcome := 0 }
  | none, none => s.setPart p { x with outcome := 0 }

/-- Carry out a committed decision once the partition is not FENCED (R392, R394). -/
def State.carryOut (s : State) (p : Nat) : State :=
  let x := s.part p
  if x.stepState = .fenced ∨ x.stepState = .running then s
  else match x.outcome with
    | 1 => s.replayPart p
    | 2 => s.restartPart p
    | _ => s

/-- The report of R396. -/
def faultReport (town : Nat) (d : Word × Word) : Nat :=
  place 448 64 town ||| place 384 64 (dcResume d.1) ||| place 376 8 (field d.1 80 8) ||| place 368 8 (dcRound d.1)
    ||| place 360 8 (field d.1 64 8) ||| place 352 8 (field d.1 72 8) ||| place 336 16 (dcCoordinator d.1) ||| place 320 16 (dcJob d.1) ||| d.2.toNat

/-- The ticket that started a step: the running, the last or a waiting one. -/
def Part.stepTicket (x : Part) (step : Nat) : Option Ticket :=
  (x.running.toList ++ x.lastTicket.toList ++ x.tickets).find? (fun t => !t.kerb && field t.desc 128 64 == step)

/-- The function whose ticket started a step, with the TAG of that ticket (DEDUCED, log 65); else PF0 of port 0, and 0 (R137, R396). -/
def Part.stepOwner (x : Part) (step : Nat) : FnId × Nat :=
  match x.stepTicket step with
  | some t => (match t.src with
    | .ring f => f
    | .core _ => ⟨0, 0⟩, field t.desc 16 16)
  | none => (⟨0, 0⟩, 0)

/-- A word of block memory or of a tier as packets carry it (R28, R389): mended where it can be, of a tier decrypted under a key, and with the syndrome of a failing one
kept. -/
def State.carried (s : State) (key a : Nat) : Stored :=
  let c := match decodeStored (s.readWord a) with
    | .mended w => encodeWord w
    | _ => s.readWord a
  if tierOf a = 0 then c
  else let w := xts false (s.key key).material a c.data; ⟨w, checkOf w ^^^ (c.check ^^^ checkOf c.data)⟩

/-- Service traffic reads n words at an address for a partition: what is mended is counted and what fails is reported (R215, R219, R220), and the partition's owner is
charged (R286). -/
def State.serviceRead (s : State) (p a n : Nat) : State :=
  let t := (s.part p).owner
  let l := addrs a n
  let mended := l.filter (fun a => match decodeStored (s.readWord a) with
    | .mended _ => true
    | _ => false)
  let failed := l.filterMap (fun a => match decodeStored (s.readWord a) with
    | .failing c sy => some (a, c, sy)
    | _ => none)
  let s := if tierOf a = 0 then s.mended0 mended else (s.mendedTier mended).serviceMove (some t) a n
  failed.foldl (fun (s : State) e => s.serviceFailed (some p) t (32 * e.1) e.2.1 e.2.2) s

/-- The DMA_KEY of a partition's owner holds (R188, R273, R281). -/
def State.ownerKeyOk (s : State) (p : Nat) : Bool := s.keyOk (s.objNat (0x4100 + (s.part p).owner) 0x05) (s.part p).owner

/-- Service traffic of a partition's owner at an address may go, and the port behind it is there. -/
def State.ownerMoves (s : State) (p a : Nat) : Bool :=
  tierOf a == 0 || (s.serviceReady (some (s.part p).owner) a && s.tierUp a && s.tierServes a)

/-- Where a half of a partition's MIRROR_AREA begins, and its words (R389). -/
def State.mirrorHalf (s : State) (m q : Nat) : Nat × Nat :=
  let area := s.obj (0x4000 + m) 0x15
  (leAt area 0 8 / 32 + q * (leAt area 8 8 / 64), leAt area 8 8 / 64)

/-- Words that a mirror sends back, at most 16 in a packet (R389, R393). -/
def State.restorePackets (s : State) (m dest_ q : Nat) : List Packet :=
  let x := s.part m
  let l := if q = 0 then x.mirror0 else x.mirror1
  let base := (s.mirrorHalf m q).1
  let key := s.objNat (0x4100 + x.owner) 0x05
  let (pkts, _) := l.foldl (fun (acc : List Packet × Nat) (e : Extent) =>
    let (h, off, n) := e
    let words := (addrs (base + acc.2) n).map (s.carried key)
    (acc.1 ++ [({ type := 0x24, dst := dest_, src := s.endpoint, hops := s.hopsTo s.wholeTorus (s.coordsOf dest_), handle := h, woffset := off, flags := 4 * q } : Heading).packet words],
     acc.2 + n)) ([], 0)
  pkts

/-- The words that a mirror holds of a parity. -/
def Part.mirrored (x : Part) (q : Nat) : Nat := ((if q = 0 then x.mirror0 else x.mirror1).map (fun e => e.2.2)).foldl (· + ·) 0

/-- The mirrors on this part start the restore of the REPLACED entries that they stand for (R393); one whose owner's DMA_KEY does not hold sends nothing, so the
restore is not done (R188, R281). -/
def State.startRestores (s : State) (d : Word × Word) : State :=
  (dcEntries d).foldl (fun s e =>
    if e / 512 % 2 = 0 then s
    else
      let want := e / 65536 + 65536 * (e / 1024 % 64)
      s.parts.foldl (fun s (m, _) =>
        if s.objNat (0x4000 + m) 0x14 = want ∧ (s.part m).partState = 1 ∧ s.ownerKeyOk m then
          let q := (s.part m).stepCount % 2
          let s := (s.serviceRead m (s.mirrorHalf m q).1 ((s.part m).mirrored q)).sendPackets (s.restorePackets m (e / 65536) q) none (some (s.part m).owner)
          s.sendService { type := 0x25, dst := e / 65536, src := 0 } (asPayload [BitVec.ofNat 256 (place 0 64 (s.part m).stepCount)]) (some (s.part m).owner)
        else s) s) s

/-- The barrier instances of the partition's job are abandoned, and its descriptor barriers with them (DEDUCED, log 31: the numbers are used
again, and a fenced partition reaches HELD). -/
def State.abandonBarriers (s : State) (p : Nat) : State :=
  let s := match s.jobOf p with
    | some j => s.setJob j { s.job j with barriers := [] }
    | none => s
  let s := (mapBlocks (s.part p).blockMap).foldl (fun (s : State) b =>
    s.setBlock b { s.block b with inflight := (s.block b).inflight.filter (fun o => match o.work with
      | .barrier _ => false
      | _ => true) }) s
  s.settle p

/-- A commit (R385, R392 to R396). -/
def State.commit (s : State) (p : Nat) (d : Word × Word) : State :=
  let x := s.part p
  let report := faultReport s.town d
  let s := s.setObj (0x4000 + p) 0x17 (natBytes 64 report)
  let replay := dcReplay d.1
  let st := if replay then Status.ok.code else Status.fault.code
  let owner := x.stepOwner (dcResume d.1)
  let s := s.queueRecord owner.1 (({ kind := 0x21, status := st, cause := st, tag := owner.2, part := p, stepNo := dcResume d.1, body := report } : Record).bytes s.town)
  let s := (s.count 0x9B00 0x03 1).count 0x9B00 0x06 (dcRound d.1)
  let s := s.countLog { cls := 6, counter := 0x9B00, sub := if replay then 4 else 5, code := if replay then 1 else 2, status := st, part := p, tenant := some x.owner, detail := dcResume d.1 }
  let mine := (dcEntries d).any (fun e => e / 512 % 2 == 1 && e / 65536 == s.endpoint && e / 1024 % 64 == p)
  let job := dcJob d.1
  let s := { s with seenNotices := s.seenNotices.filter (fun n => n % 65536 != job) }
  let s := s.setPart p { s.part p with episode := {}, outcome := if replay then 1 else 2, resumeStep := dcResume d.1, exchange := replay && mine, restoring := replay && mine }
  let s := s.abandonBarriers p
  let s := if replay then s.startRestores d else { s with parts := s.parts.mapVals (fun _ y => if y.takenOut = s.jobOf p then { y with takenOut := none } else y) }
  s.carryOut p

/-- FAULT_COMMIT (R378, R385, R392, R394): a member commits the DECIDE it has accepted after 500 µs without a higher round; a partition that
decides alone commits once its step has been reported. -/
def execFaultCommit (p : Fin 64) (s : State) : Host.Outcome State Fault Refusal :=
  let x := s.part p.val
  match x.episode.accepted with
  | none => .next s
  | some d =>
    let due := match s.agrees p.val with
      | some _ => decide (x.episode.acceptedAt + 500 * Config.ticksPerUs ≤ s.town)
      | none => match x.failure with
        | some f => f.closed
        | none => true
    if s.live && due then .next (s.commit p.val d) else .next s

/-! ## Spares (R393) -/

/-- SPARE_EXCHANGE (R393): p and its spare change blocks, pseudo-channels, allocations, handles and plans. The pseudo-channels of an IDLE one have no record in force
(R184), and its measurement is recomputed (R288). -/
def execSpareExchange (p : Fin 64) (s : State) : Host.Outcome State Fault Refusal :=
  let x := s.part p.val
  let sp := s.objNat (0x4000 + p.val) 0x0F
  if !s.live ∨ !x.exchange ∨ x.stepState = .fenced ∨ x.stepState = .running ∨ 64 ≤ sp then .next s
  else
    let y := s.part sp
    let swap := fun (q : Nat) => if q = p.val then sp else if q = sp then p.val else q
    let s := s.setPart p.val { x with blockMap := y.blockMap, plans := y.plans, handles := y.handles, tags := y.tags, exchange := false }
    let s := s.setPart sp { y with blockMap := x.blockMap, plans := x.plans, handles := x.handles, tags := x.tags, takenOut := s.jobOf p.val, changedAt := s.town }
    let s := { s with allocs := s.allocs.mapVals (fun _ a => { a with partition := swap a.partition }) }
    let s := (List.range 256).foldl (fun (s : State) c =>
      let o := s.objNat (0x6100 + c) 0x01
      if swap o = o then s else s.setObj (0x6100 + c) 0x01 (natBytes 1 (swap o))) s
    let s := (s.setObj (0x4000 + sp) 0x16 (natBytes 1 0xFF)).setObj (0x4000 + p.val) 0x0F (natBytes 1 0xFF)
    let idle := fun (s : State) (q : Nat) => if (s.part q).stepState = .idle then (s.dropCalendars q).measureIdle q else s
    let s := idle (idle s sp) p.val
    .next (s.count 0x9B00 0x07 1)

/-! ## Checkpoints (R389, R390) -/

/-- The words of a handle, as packets carry them: tier words decrypted under the owner's DMA_KEY, each with its check value (R28, R389). -/
def State.handleWords (s : State) (p h : Nat) : List Stored :=
  let e := s.handle p h
  (addrs (hAddr e 0) (hSize e)).map (s.carried (s.objNat (0x4100 + (s.part p).owner) 0x05))

/-- The handles of a checkpoint that lie in tiers (R389). -/
def State.ckptTiers (s : State) (p q : Nat) : List (BitVec 128) := ((s.ckptList p q).map (s.handle p)).filter (fun e => hKind e == 2)

/-- Store a word that came over the fabric into a tier under a key; a failing word stays failing. -/
def State.putSealed (s : State) (key a : Nat) (x : Stored) : State :=
  let c := s.sealWord key a x.data
  s.writeWord a ⟨c.data, c.check ^^^ (x.check ^^^ checkOf x.data)⟩

/-- Store words at consecutive addresses of block memory or of a tier. -/
def State.putWords (s : State) (key a : Nat) (l : List Stored) : State :=
  l.zipIdx.foldl (fun s (x, i) => if tierOf (a + i) = 0 then s.writeWord (a + i) x else s.putSealed key (a + i) x) s

/-- Cut words into packets of at most 16, the first at a word offset. -/
def sliceWords : Nat → Nat → List Stored → List (Nat × List Stored)
  | 0, _, _ => []
  | fuel + 1, off, l => if l.isEmpty then [] else (off, l.take 16) :: sliceWords fuel (off + 16) (l.drop 16)

/-- A checkpoint is asked of the partition: it is protected, WAITING with a ticket, in no episode, and has sent none yet for this step. -/
def State.ckptDue (s : State) (p : Nat) : Bool :=
  let x := s.part p
  s.objNat (0x4000 + p) 0x0C == 1 && x.stepState == .waiting && x.replay.isNone && x.nextTicket.isSome && !x.ckptSent && x.episode.since.isNone

/-- CHECKPOINT_SEND (R389): the list of the parity of the step to come is copied to the mirror, once the service slots and buckets of its handles let it. An empty list is
sealed as it stands. Without a DMA_KEY that holds, handles in tiers cannot be copied (R188, R281), and the partition originates a notice as of a refused checkpoint
(DEDUCED, log 96). -/
def execCheckpointSend (p : Fin 64) (s : State) : Host.Outcome State Fault Refusal :=
  let x := s.part p.val
  let q := (x.stepCount + 1) % 2
  if !s.live ∨ !s.ckptDue p.val ∨ !(s.ckptTiers p.val q).all (fun e => s.ownerMoves p.val (hAddr e 0)) then .next s
  else if !(s.ckptTiers p.val q).isEmpty ∧ !s.ownerKeyOk p.val then .next (s.originate p.val 7 Status.rights.code 0xFF false)
  else
    let dest_ := s.mirrorOf p.val
    let parts := (s.ckptList p.val q).flatMap (fun h => let l := s.handleWords p.val h; (sliceWords l.length 0 l).map (fun e => (h, e)))
    let s := s.setPart p.val { x with ckptSent := true, ckptSince := s.town, ckptSealed := parts.isEmpty }
    let s := (s.ckptList p.val q).foldl (fun (s : State) h => s.serviceRead p.val (hAddr (s.handle p.val h) 0) (hSize (s.handle p.val h))) s
    .next (s.sendPackets (parts.zipIdx.map (fun ((h, off, l), i) =>
      ({ type := 0x22, dst := dest_, src := s.endpoint, hops := s.hopsTo s.wholeTorus (s.coordsOf dest_), handle := h, woffset := off,
         flags := 4 * q + (if i + 1 = parts.length then 2 else 0) } : Heading).packet l)) none (some x.owner))

/-- The partition that mirrors a sender (R387, R390). -/
def State.mirrorFor (s : State) (endpoint : Nat) : Option Nat :=
  (List.find? (fun e => e.2.partState == 1 && s.objNat (0x4000 + e.1) 0x14 % 65536 == endpoint) s.parts).map Prod.fst

/-- CKPT_DATA (R389, R390): the mirror writes the words behind those it has, as service traffic of its owner; the last packet is answered by a seal, or by a refusal where
the checkpoint does not fit, the owner's DMA_KEY does not hold or no partition mirrors the sender. A packet waits while slots or buckets hold it. -/
def execCkptData (s0 : State) : Host.Outcome State Fault Refusal :=
  let s := s0
  match s.takeType 0x22 with
  | none => .next s
  | some (_, pkt, s) =>
    let last := pkt.flags / 2 % 2 = 1
    let reply := fun (s : State) (count : Nat) (bad : Bool) (t : Option Nat) =>
      s.sendService { type := 0x23, dst := pkt.src, src := 0 } (asPayload [BitVec.ofNat 256 (place 0 64 count ||| place 64 8 (boolBit bad))]) t
    match s.mirrorFor pkt.src with
    | none => .next (if last then reply s 0 true none else s)
    | some m =>
      let x := s.part m
      let q := pkt.flags / 4 % 2
      let x := if x.mirrorOpen then x else if q = 0 then { x with mirror0 := [], mirrorBad := false } else { x with mirror1 := [], mirrorBad := false }
      let l := if q = 0 then x.mirror0 else x.mirror1
      let have_ := (l.map (fun e => e.2.2)).foldl (· + ·) 0
      let half := (s.mirrorHalf m q).2
      let base := (s.mirrorHalf m q).1
      let fits := decide (have_ + pkt.payload.length ≤ half) && !x.mirrorBad && s.ownerKeyOk m
      if fits && !s.ownerMoves m base then .next s0
      else
      let l' := if fits then l ++ [(pkt.handle, pkt.woffset, pkt.payload.length)] else l
      let s := if fits then (s.putWords (s.objNat (0x4100 + x.owner) 0x05) (base + have_) pkt.payload).serviceMove (some x.owner) (base + have_) pkt.payload.length else s
      let x := { x with mirrorBad := !fits, mirrorOpen := !last }
      let s := s.setPart m (if q = 0 then { x with mirror0 := l' } else { x with mirror1 := l' })
      .next (if last then reply s (x.stepCount + 1) (!fits) (some x.owner) else s)

/-- The partition of this part that waits on a mirror at an endpoint. -/
def State.waitsOn (s : State) (endpoint : Nat) (f : Part → Bool) : Option Nat :=
  (List.find? (fun e => e.2.partState == 1 && s.mirrorOf e.1 == endpoint && f e.2) s.parts).map Prod.fst

/-- CKPT_SEAL (R389, R390, R397). -/
def execCkptSeal (s : State) : Host.Outcome State Fault Refusal :=
  match s.takeType 0x23 with
  | none => .next s
  | some (_, pkt, s) =>
    match s.waitsOn pkt.src (fun x => x.ckptSent && !x.ckptSealed), pkt.goodWord 0 with
    | some p, some w =>
      let x := s.part p
      if field w 64 8 = 0 then
        .next ((s.setPart p { x with ckptSealed := true }).count (0x9100 + p) 0x13 ((s.town - x.ckptSince) / Config.ticksPerUs))
      else .next (s.originate p 7 Status.fault.code 0xFF false)
    | _, _ => .next s

/-- RESTORE_DATA (R393): the words go into the new handles of the partition being restored, those in tiers as service traffic under a DMA_KEY that holds. A packet waits
while slots or buckets hold it. -/
def execRestoreData (s0 : State) : Host.Outcome State Fault Refusal :=
  let s := s0
  match s.takeType 0x24 with
  | none => .next s
  | some (_, pkt, s) => match s.waitsOn pkt.src (fun x => x.restoring && !x.exchange) with
    | none => .next s
    | some p =>
      let e := s.handle p pkt.handle
      let a := hAddr e pkt.woffset
      if hKind e = 0 ∨ hSize e < pkt.woffset + pkt.payload.length ∨ (hKind e = 2 ∧ !s.ownerKeyOk p) then .next s
      else if !s.ownerMoves p a then .next s0
      else
        let s := s.putWords (s.objNat (0x4100 + (s.part p).owner) 0x05) a pkt.payload
        .next (if hKind e = 2 then s.serviceMove (some (s.part p).owner) a pkt.payload.length else s)

/-- RESTORE_DONE (R393). -/
def execRestoreDone (s : State) : Host.Outcome State Fault Refusal :=
  match s.takeType 0x25 with
  | none => .next s
  | some (_, pkt, s) => match s.waitsOn pkt.src (fun x => x.restoring && !x.exchange) with
    | none => .next s
    | some p => .next (s.setPart p { s.part p with restoring := false })

end Sys2Proof.Machine
end

