-- ==== Sys2Proof/Machine/Link.lean ====
section
/-! DEFINITION. The avenue links (chapter of R291 to R324): codewords and the stream, sequence and acknowledgement, slots, and link states. -/
namespace Sys2Proof.Machine

/-- The link layers act: the part runs, or is PARKED with its links held UP (R317, R503). -/
def State.linked (s : State) : Bool := s.mode == .running || s.mode == .parked

/-! ## A port leaving UP (R318 to R320) -/

/-- An outstanding request ends with a synthetic completion (R319): a relay is told by an empty RELAY_REPLY of STATUS BUSY (R442). -/
def State.endRequest (s : State) (rtag : Nat) : State :=
  match s.outstanding.find? rtag with
  | none => s
  | some o =>
    let c := { s.cdp with notes := s.cdp.notes ++ [{ session := o.session, kind := 3, body := [], status := 7, tid := o.tid }] }
    let s := { s with outstanding := s.outstanding.del rtag, cdp := c }
    s.count (0x9700 + o.port) 0x12 1

/-- The source is an endpoint reached through port n. -/
def Source.onPort (n : Nat) : Source → Bool
  | .avenue k _ _ _ => k == n
  | _ => false

/-- A session is closed: its staging and stored replies go with it; a CLOSED NOTIFY follows where its transport stays (R438, R441). -/
def State.closeSession (s : State) (i : Nat) (tell : Bool) : State :=
  match s.cdp.sessions.find? i with
  | none => s
  | some x =>
    let s := { s with cdp := { s.cdp with sessions := s.cdp.sessions.del i } }
    let s := s.logEvent { cls := 12, code := 4, tenant := if x.role = 3 then some x.tenant else none, detail := i }
    if tell then { s with cdp := { s.cdp with closing := s.cdp.closing ++ [(x, i)] } } else s

/-- Close every session that a test picks. -/
def State.closeSessions (s : State) (f : Session → Bool) (tell : Bool) : State :=
  s.cdp.sessions.foldl (fun s (i, x) => if f x then s.closeSession i tell else s) s

/-- The sessions of a closed transport close, and what its sources wrote to OPEN_REQ or staged is discarded (R438). -/
def State.closeSources (s : State) (f : Source → Bool) : State :=
  let s := s.closeSessions (fun x => f x.source) false
  { s with cdp := { s.cdp with openReqs := s.cdp.openReqs.filter (fun e => !f e.1), stage0 := s.cdp.stage0.filter (fun e => !f e.1) } }

/-- The RUNNING partitions whose plan has slots on port n are fenced (R320). -/
def State.fencePort (s : State) (n : Nat) : State :=
  s.parts.foldl (fun s (p, x) =>
    match x.plan with
    | none => s
    | some pl =>
      if x.stepState = .running ∧ pl.avenue.any (fun a => a.1 == n) then
        s.fence p { cause := .fault, block := 0xFFFF, queue := 0, opcode := 0, stamp := 0, at_ := s.now, lcycle := x.lcycle, cls := 5, port := n }
      else s) s

/-- The packets of every input buffer that wait for egress n are discarded (R318): how many, and the state without them. -/
def State.discardOut (s : State) (n : Nat) : Nat × State :=
  s.crossroads.foldl (fun (a : Nat × State) (k, l) =>
    let gone := l.filter (fun q => q.out == some n)
    let s := a.2.setBuffer k (l.filter (fun q => q.out != some n))
    (a.1 + gone.length, gone.foldl (fun s q => s.packetGone k q) s)) (0, s)

/-- A port that was UP has left it (R318, R319, R320, R438, R441). -/
def State.leaveUp (s : State) (n : Nat) (old : Port) : State :=
  let (waiting, s) := s.discardOut n
  let s := (s.portEvent n 0x10).count (0x9700 + n) 0x11 (waiting + old.replay.length + old.held.length + old.rx.length)
  let s := (s.outstanding.filter (fun e => e.2.port == n)).foldl (fun s e => s.endRequest e.1) s
  let s := s.closeSources (Source.onPort n)
  ({ s with cdp := { s.cdp with links := s.cdp.links.del n } }).fencePort n

/-- A port leaves its state for DISABLED (0) or DOWN (1), with a DOWN_CAUSE (R313, R323). -/
def State.leavePort (s : State) (n dest_ cause : Nat) : State :=
  let x := s.port n
  let s := s.setPort n { x with link := dest_, since := s.town, downCause := cause, clean := 0, full := x.full || cause == 6, bytes := [], rx := [],
                                replay := [], resend := [], held := [], gaps := [], credits := [], owed := [] }
  if x.link = 4 then s.leaveUp n x else s

/-- A port begins its training (R313): full where the last attempt failed, none has succeeded since the cold start, or FULL_TRAIN is set. -/
def State.beginTraining (s : State) (n : Nat) : State :=
  let x := s.port n
  s.setPort n { x with link := 2, since := s.town, clean := 0, full := x.full || s.objNat (0x7100 + n) 0x0A == 1 }

/-- RETRAIN written 1 (R313). -/
def State.retrain (s : State) (n : Nat) : State := if (s.port n).link = 0 then s else s.leavePort n 1 4

/-- LINK_ENABLE has been written (R313). -/
def State.linkEnable (s : State) (n : Nat) (on : Bool) : State :=
  let x := s.port n
  if on then (if x.link = 0 then s.beginTraining n else s)
  else if x.link = 0 then s
  else s.leavePort n 0 5

/-- The slot of a port that has begun last (R332): 30 slots of 765 ps in each sync interval of 23,040 ps, counted from LOCKED. -/
def State.slotNow (s : State) (n : Nat) : Nat :=
  let ps := (s.town - (s.port n).lockedAt) * 625
  30 * (ps / 23040) + min 29 (ps % 23040 / 765)

/-- The port enters UP (R305, R313, R330, R441), and a LINK notice about it that has not been committed is sent again as RESTORED (R378). -/
def State.linkUp (s : State) (n : Nat) : State :=
  let x := s.port n
  let t := s.town
  let s := s.setPort n { x with link := 4, since := t, una := 0, next := 0, replay := [], unaSince := t, stalledAt := none, resend := [], expect := 0, held := [],
                                ctrlSeq := 0, gaps := [], acked := 0, sentAt := t, goodAt := t, ctrlDue := false, credits := (List.range 4).map (fun k => (k, 128)), owed := [],
                                slot := s.slotNow n + 1 }
  let s := s.logEvent { cls := 4, code := 1, inst := n }
  let key := s.obj 0xC000 0x06
  let s := { s with cdp := { s.cdp with links := s.cdp.links.put n (if key.isEmpty then zeros 32 else key), linkOut := s.cdp.linkOut.del n } }
  s.parts.foldl (fun s (p, y) =>
    let mine := fun (w : Word) => nClass w == 5 && nOrigin w == s.endpoint && field w 32 8 == n && nPart w == p
    if y.episode.notices.any (fun w => mine w && !nRestored w) && !y.episode.notices.any (fun w => mine w && nRestored w) then
      s.originate p 5 Status.fault.code n true
    else s) s

/-! ## The stream (R295 to R304) -/

/-- What parsing a stream leaves: the bytes left, the position of the first, the packets, newest first, and the CRC and framing errors. -/
structure Parsed where
  bytes   : List Byte
  offset  : Nat
  packets : List Packet := []
  crc     : Nat := 0
  framing : Nat := 0

/-- Skip to a stream position (R304). -/
def Parsed.skipTo (a : Parsed) (t : Nat) : Parsed := { a with bytes := a.bytes.drop (t - a.offset), offset := t }

/-- The first sync codeword after a stream position. -/
def nextSync (o : Nat) : Nat := (o / 18432 + 1) * 18432

/-- Parse from a boundary (R303, R304). -/
def parseStream : Nat → Parsed → Parsed
  | 0, a => a
  | fuel + 1, a =>
    if a.bytes.length < 4 then a
    else
      let sync := nextSync a.offset
      if leAt a.bytes 0 1 = 0 then
        if leAt a.bytes 0 4 = 0 then parseStream fuel (a.skipTo (a.offset + 4))
        else parseStream fuel ({ a with framing := a.framing + 1 }.skipTo sync)
      else
        let n := 36 + 36 * (leAt a.bytes 1 1 % 32)
        if sync < a.offset + n then parseStream fuel ({ a with framing := a.framing + 1 }.skipTo sync)
        else if a.bytes.length < n then a
        else match parsePacket (a.bytes.take n) with
          | some p => parseStream fuel ({ a with packets := p :: a.packets }.skipTo (a.offset + n))
          | none => parseStream fuel ({ a with crc := a.crc + 1 }.skipTo ((a.offset + n + 18431) / 18432 * 18432))

/-- n events of a port. -/
def State.portEvents (s : State) (n sub : Nat) : Nat → State
  | 0 => s
  | k + 1 => (s.portEvent n sub).portEvents n sub k

/-- Codeword k of the stream brings its 288 bytes (R297): they are parsed as far as they go. -/
def State.takeBytes (s : State) (n k : Nat) (l : List Byte) : State :=
  let x := s.port n
  let new := x.bytes ++ l.drop (x.offset + x.bytes.length - 288 * k)
  let a := parseStream new.length { bytes := new, offset := x.offset }
  let s := s.setPort n { x with bytes := a.bytes, offset := a.offset, rx := x.rx ++ a.packets.reverse.map (fun p => (s.now, p)), goodAt := if a.packets.isEmpty then x.goodAt else s.town }
  (s.portEvents n 0x06 a.framing).portEvents n 0x05 a.crc

/-- Codeword k of the stream gives no bytes: the receiver is in SKIP (R298, R304). -/
def Port.lose (x : Port) (k : Nat) : Port := { x with bytes := [], offset := max x.offset (nextSync (288 * k)) }

/-- A codeword has arrived after LOCKED (R296, R298, R366). -/
def Port.step (x : Port) (bad : Bool) (time : Nat) : Port :=
  { x with codewords := x.codewords + 1, verdicts := (bad :: x.verdicts).take 64,
           rxStamp := if x.codewords % 2 ^ 15 = 0 then some (x.codewords, time) else x.rxStamp }

/-- CODEWORD_RECEIVE (R295, R298, R304): the first 272 symbols are the codeword; fewer are none yet (DESIGN CHOICE, log 14). A frozen part does
not receive it (R317). -/
def execCodewordReceive (n : Fin 6) (symbols : List (BitVec 9)) (s : State) : Host.Outcome State Fault Refusal :=
  let x := s.port n.val
  let stamp := s.time.central / 2 ^ 24
  if symbols.length < 272 ∨ x.link < 2 then .next s
  else if s.mode = .frozen then .next (if x.link = 2 then s else s.setPort n.val { x.lose x.codewords with codewords := x.codewords + 1 })
  else if !s.linked then .next s
  else match rsDecode ((symbols.take 272).map BitVec.toNat) with
    | none =>
      let s := s.portEvent n.val 0x04
      if x.link = 2 then .next (s.setPort n.val { x with clean := 0 })
      else
        let y := (x.lose x.codewords).step true stamp
        let s := s.setPort n.val y
        .next (if x.link = 4 ∧ 32 ≤ (y.verdicts.filter id).length then s.leavePort n.val 1 2 else s)
    | some (data, mended) =>
      let s := if mended then s.count (0x9700 + n.val) 0x03 1 else s
      if x.link = 2 then .next (s.setPort n.val { x with clean := x.clean + 1 })
      else .next ((s.setPort n.val (x.step false stamp)).takeBytes n.val x.codewords (symbolBytes data))

/-! ## Sequence numbers (R305 to R308) -/

/-- (a - b) mod 65,536. -/
def seqGap (a b : Nat) : Nat := (a + 65536 - b % 65536) % 65536

/-- The runs of numbers from E below a distance that are not held, lowest first. -/
def runs (e : Nat) (held : List Nat) (top : Nat) : List (Nat × Nat) :=
  ((List.range top).foldl (fun (a : List (Nat × Nat) × Bool) d =>
    let q := (e + d) % 65536
    if held.contains q then (a.1, false)
    else match a.1, a.2 with
      | (f, _) :: t, true => ((f, q) :: t, true)
      | l, _ => ((q, q) :: l, true)) ([], false)).1.reverse

/-- The gaps as they now stand (R307); one that lies in a gap there was keeps its times. -/
def Port.regap (x : Port) (town : Nat) : Port :=
  let ctrl := seqGap x.ctrlSeq x.expect
  let top := (x.held.map (fun e => seqGap e.1 x.expect + 1)).foldl max (if ctrl ≤ 2048 then ctrl else 0)
  { x with gaps := (runs x.expect x.held.keys top).map (fun (f, l) =>
      match x.gaps.find? (fun g => decide (seqGap f g.first ≤ seqGap g.last g.first)) with
      | some g => { g with first := f, last := l }
      | none => { first := f, last := l, since := town }) }

/-- The first gap not yet requested. -/
def Port.unasked (x : Port) : Option Gap := x.gaps.find? (fun g => g.asked.isNone)

/-- The link-layer fields of a received header (R308, R330): ACK, NACK, credits. -/
def State.takeHeader (s : State) (n : Nat) (p : Packet) : State :=
  let x := s.port n
  let a := field p.header 80 16
  let inWindow := decide (seqGap a x.una ≤ seqGap x.next x.una)
  let s :=
    if !bitAt p.header 72 then s
    else if inWindow then
      s.setPort n { x with una := a, replay := x.replay.filter (fun e => decide (seqGap a x.una ≤ seqGap e.seq x.una)),
                           resend := x.resend.filter (fun q => decide (seqGap a x.una ≤ seqGap q x.una)),
                           unaSince := if a = x.una then x.unaSince else s.town, stalledAt := if a = x.una then x.stalledAt else none }
    else if precedes 16 x.next a then s.portEvent n 0x0A
    else s
  let x := s.port n
  let b := field p.header 96 16
  let l := field p.header 112 16
  let wanted := fun (e : Sent) => decide (seqGap e.seq b ≤ seqGap l b)
  let fresh := fun (e : Sent) => match e.again with
    | some t => decide (t + 800 ≤ s.town)
    | none => true
  let s :=
    if !bitAt p.header 73 then s
    else if x.replay.any wanted then
      s.setPort n { x with resend := (x.replay.filter (fun e => x.resend.contains e.seq || (wanted e && fresh e))).map Sent.seq }
    else s.portEvent n 0x0A
  let x := s.port n
  let k := field p.header 62 2
  s.setPort n { x with credits := x.credits.put k (x.credits.get 0 k + field p.header 64 8) }

/-- The reserved bits of a header are zero (R300). -/
def Packet.reservedOk (p : Packet) : Bool := field p.header 74 6 == 0 && field p.header 56 6 == 0 && field p.header 24 8 == 0 && field p.header 13 1 == 0

/-- A packet is delivered in sequence (R306, R310, R321): to its buffer of the crossroads, or, discarded, only its credit returns. -/
def State.deliverUp (s : State) (n : Nat) (p : Packet) : State :=
  let s := s.count (0x9700 + n) 0x02 1
  match lenRange p.type with
  | none => (s.portEvent n 0x0C).oweCredit n p.cls p.vc
  | some (_, most) =>
    if p.cls ≠ classOfType p.type ∨ !p.reservedOk then (s.portEvent n 0x0C).oweCredit n p.cls p.vc
    else if most < p.len then (s.portEvent n 0x0D).oweCredit n p.cls p.vc
    else
      let k := bufKey n p.cls p.vc
      s.setBuffer k (s.buffer k ++ [{ pkt := p, at_ := s.town }])

/-- Deliver the packets that are now in order (R306). -/
def State.releaseHeld (s : State) (n : Nat) : Nat → State
  | 0 => s
  | fuel + 1 =>
    let x := s.port n
    match x.held.find? x.expect with
    | none => s
    | some p => ((s.setPort n { x with held := x.held.del x.expect, expect := (x.expect + 1) % 65536 }).deliverUp n p).releaseHeld n fuel

/-- A packet of a sequenced type arrives in UP (R306). -/
def State.sequence (s : State) (n : Nat) (p : Packet) : State :=
  let x := s.port n
  let d := seqGap p.seq x.expect
  let s :=
    if d = 0 then ((s.setPort n { x with expect := (x.expect + 1) % 65536 }).deliverUp n p).releaseHeld n 2048
    else if 2048 ≤ d ∧ d ≤ 63487 then s.portEvent n 0x0A
    else if 63488 ≤ d ∨ (x.held.find? p.seq).isSome then (s.setPort n { x with ctrlDue := true }).portEvent n 0x09
    else s.setPort n { x with held := x.held.put p.seq p }
  s.setPort n ((s.port n).regap s.town)

/-- The cycles of the FEC decode before a packet received can be taken (R140, R143): 42 on A1; 41 on B0, where the latency equaliser pads to 42 what is
for a step under an A1 profile. -/
def State.fecCycles (s : State) (p : Packet) : Nat :=
  if !Config.steppingB0 then 42
  else if p.cls = 0 ∧ s.parts.any (fun e => e.2.stepState == .running && e.2.profile == 1 && (s.jobOf e.1).any (fun j => s.jobTag j == p.job)) then 42 else 41

/-- The oldest packet received by a port, if it is decoded and satisfies a test, and the state without it. -/
def State.takeRx (s : State) (n : Nat) (want : Packet → Bool) : Option (Packet × State) :=
  let x := s.port n
  match x.rx with
  | [] => none
  | (t, p) :: rest => if s.linked && want p && decide (t + s.fecCycles p ≤ s.now) then some (p, s.setPort n { x with rx := rest }) else none

/-- PACKET_RECEIVE (R306, R313, R316, R321): the next packet received, of any type but LINK_CTRL and TRAIN. A type outside the sequenced
range has no place in the sequence and is only dropped (DEDUCED, log 29). -/
def execPacketReceive (n : Fin 6) (s : State) : Host.Outcome State Fault Refusal :=
  match s.takeRx n.val (fun p => p.type != 1 && p.type != 2) with
  | none => .next s
  | some (p, s) =>
    let x := s.port n.val
    if x.link ≠ 4 then .next (s.portEvent n.val 0x0C)
    else if p.epoch ≠ x.rxEpoch then .next (s.portEvent n.val 0x0B)
    else
      let s := s.takeHeader n.val p
      .next (if 0x10 ≤ p.type ∧ p.type < 0x40 then s.sequence n.val p else s.portEvent n.val 0x0C)

/-- LINK_CTRL (R307, R308, R321). -/
def execLinkCtrl (n : Fin 6) (s : State) : Host.Outcome State Fault Refusal :=
  match s.takeRx n.val (fun p => p.type == 1) with
  | none => .next s
  | some (p, s) =>
    let x := s.port n.val
    if x.link ≠ 4 then .next (s.portEvent n.val 0x0C)
    else if p.epoch ≠ x.rxEpoch then .next (s.portEvent n.val 0x0B)
    else if p.len ≠ 0 then .next (s.portEvent n.val 0x0D)
    else if p.cls ≠ 0 ∨ !p.reservedOk then .next (s.portEvent n.val 0x0C)
    else
      let s := s.takeHeader n.val p
      let x := s.port n.val
      let d := seqGap p.seq x.expect
      if d ≤ 2048 then .next (s.setPort n.val ({ x with ctrlSeq := p.seq }.regap s.town))
      else if d < 32768 then .next (s.portEvent n.val 0x0A)
      else .next s

/-! ## Sending (R303, R305, R307 to R309, R334) -/

/-! ## The stream sent (R296, R297, R303, R332) -/

/-- The stream position at which a slot begins, of the slots counted from LOCKED (R332). -/
def slotByte (k : Nat) : Nat := 18432 * (k / 30) + 612 * (k % 30)

/-- The position of the next packet of a length in the stream sent, from slot k on: behind the last one, and never across the first byte of a sync
codeword (R303). -/
def Port.nextPlace (x : Port) (k len : Nat) : Nat :=
  let p := max (slotByte k) (match x.stream.getLast? with
    | some e => e.1 + e.2.length
    | none => 0)
  if nextSync p < p + len then nextSync p else p

/-- A packet is placed in the stream sent; those of sync intervals that have passed are forgotten (R297). -/
def Port.place (x : Port) (k : Nat) (l : List Byte) : Port :=
  { x with stream := x.stream.filter (fun e => decide (18432 * (k / 30) ≤ e.1 + 18432)) ++ [(x.nextPlace k l.length, l)] }

/-- The byte of the stream sent at a position: of the packet there, else of an idle word (R299, R303). -/
def Port.streamByte (x : Port) (i : Nat) : Byte :=
  match x.stream.find? (fun e => decide (e.1 ≤ i ∧ i < e.1 + e.2.length)) with
  | some e => e.2.getD (i - e.1) 0
  | none => 0

/-- The 272 symbols of codeword k of the stream sent (R295, R297). -/
def Port.codeword (x : Port) (k : Nat) : List Nat := rsEncode (byteSymbols ((List.range 288).map (fun b => x.streamByte (288 * k + b))))

/-- The link lane of symbol j of codeword k, and its place on that lane (R296). -/
def symbolLane (k j : Nat) : Nat × Nat := (16 * (k % 2) + j % 16, j / 16)

/-- The symbols of codeword k in the order in which its sixteen link lanes carry them: by place, then by lane (R296). -/
def Port.laneSymbols (x : Port) (k lane : Nat) : List Nat :=
  if lane / 16 = k % 2 then (List.range 17).map (fun i => (x.codeword k).getD (16 * i + lane % 16) 0) else []

/-- A packet's bytes leave on a port, in the slot in progress. -/
def State.transmit (s : State) (n : Nat) (l : List Byte) : State := (s.setPort n ((s.port n).place (s.slotNow n) l)).emit (.packet n l)

/-- Send a packet on a port with its link-layer fields made afresh (R300, R307, R308): EPOCH, SEQ, the ACK, the first gap not yet requested,
and the credits owed for one class and virtual channel. -/
def State.sendOn (s : State) (n : Nat) (p : Packet) (seq : Nat) : State :=
  let x := s.port n
  let k := ((x.owed.filter (fun e => e.2 != 0)).head?.map Prod.fst).getD 0
  let give := min 255 (x.owed.get 0 k)
  let gap := x.unasked
  let h := setField p.header 32 96 0
  let h := setField (setField (setField h 48 8 x.txEpoch) 32 16 seq) 72 1 1
  let h := setField (setField (setField h 80 16 x.expect) 62 2 k) 64 8 give
  let h := match gap with
    | some g => setField (setField (setField h 73 1 1) 96 16 g.first) 112 16 g.last
    | none => h
  let y := { x with acked := x.expect, sentAt := s.town, owed := x.owed.put k (x.owed.get 0 k - give),
                    gaps := match gap with
                      | some g => x.gaps.map (fun z => if z.first = g.first then { z with asked := some s.town } else z)
                      | none => x.gaps }
  let s := (s.setPort n y).transmit n { p with header := h }.bytes
  if gap.isSome then s.count (0x9700 + n) 0x07 1 else s

/-- Send a LINK_CTRL (R309). -/
def State.sendCtrl (s : State) (n : Nat) : State :=
  let s := s.setPort n { s.port n with ctrlDue := false }
  s.sendOn n { header := 1 } (s.port n).next

/-- A packet that waits for an egress: its buffer, its place there, and the packet. -/
abbrev Candidate := Nat × Nat × Queued

/-- The packets that wait for an egress port. -/
def State.waitingFor (s : State) (n : Nat) : List Candidate :=
  s.crossroads.flatMap (fun (k, l) => (l.zipIdx.filter (fun (q, _) => q.out == some n)).map (fun (q, i) => (k, i, q)))

/-- A credit is held for a packet; the last 8 of a service channel serve only the fault-agreement types (R330, R380). -/
def Port.hasCredit (x : Port) (p : Packet) : Bool :=
  let c := x.credits.get 0 (2 * p.cls + p.vc)
  if p.cls = 1 ∧ !(decide (0x20 ≤ p.type ∧ p.type ≤ 0x25)) then decide (8 < c) else decide (0 < c)

/-- A tenant's packet has entered the arbitration (R285, R337): it is the tenant's first, and its bucket covers it. -/
def State.admitsPacket (s : State) (c : Candidate) : Bool :=
  match c.2.2.tenant with
  | none => true
  | some t =>
    (s.bucketTerms t 3).1 == 0
      || ((s.buffer c.1).findIdx? (fun q => q.tenant == some t) == some c.2.1 && s.bucketFree t 3 && decide (36 + 36 * c.2.2.pkt.len ≤ s.bucketLevel t 3))

/-- The first of a list by a key. -/
def firstBy (f : Candidate → Nat) : List Candidate → Option Candidate
  | [] => none
  | c :: t => match firstBy f t with
    | none => some c
    | some d => if f c ≤ f d then some c else some d

/-- The flows that running plans claim in slot k of the frame of a port, each with its job tag (R333). -/
def State.claims (s : State) (n k : Nat) : List (Nat × Nat) :=
  s.parts.filterMap (fun (p, x) =>
    match x.stepState, x.plan, s.jobOf p with
    | .running, some pl, some j => match List.find? (fun a => a.1 == n) pl.avenue with
      | some (_, r) => let e := leAt r (2 * k) 2; if 0x8000 ≤ e then some (s.jobTag j, e - 0x8000) else none
      | none => none
    | _, _, _ => none)

/-- The plan packet of a slot: the oldest of a claimed flow, if it holds a credit (R334). -/
def State.planPacket (s : State) (n k : Nat) : Option Candidate :=
  let cl := s.claims n k
  match firstBy (fun c => c.2.2.at_) ((s.waitingFor n).filter (fun c => c.2.2.pkt.cls == 0 && cl.contains (c.2.2.pkt.job, c.2.2.pkt.rtag % 4096))) with
  | some c => if (s.port n).hasCredit c.2.2.pkt then some c else none
  | none => none

/-- The group of a service packet (R337). -/
def serviceGroup (t : Nat) : Nat := if 0x20 ≤ t ∧ t ≤ 0x27 then 0 else if 0x28 ≤ t ∧ t ≤ 0x29 then 1 else 2

/-- The service packet of a slot (R337): by group, then by arrival, then by ingress port. -/
def State.servicePacket (s : State) (n : Nat) : Option Candidate :=
  firstBy (fun c => (serviceGroup c.2.2.pkt.type * 2 ^ 64 + c.2.2.at_) * 8 + c.1 / 4)
    ((s.waitingFor n).filter (fun c => c.2.2.pkt.cls == 1 && (s.port n).hasCredit c.2.2.pkt && s.admitsPacket c))

/-- The window of R305 is full. -/
def Port.windowFull (x : Port) : Bool := seqGap x.next x.una == 2048

/-- Send a sequenced packet for the first time (R305, R330, R334). -/
def State.sendNew (s : State) (n : Nat) (c : Candidate) : State :=
  let (k, i, q) := c
  let s := (s.setBuffer k (replaceAt (s.buffer k) i none)).packetGone k q
  let s := match q.tenant with
    | some t => s.charge t 3 (36 + 36 * q.pkt.len)
    | none => s
  let x := s.port n
  let v := 2 * q.pkt.cls + q.pkt.vc
  let seq := x.next
  let s := s.setPort n { x with next := (seq + 1) % 65536, replay := x.replay ++ [{ seq := seq, pkt := q.pkt }], unaSince := if x.replay.isEmpty then s.town else x.unaSince,
                                credits := x.credits.put v (x.credits.get 0 v - 1), ctrlDue := true }
  (s.count (0x9700 + n) 0x01 1).sendOn n q.pkt seq

/-- Send one packet again (R308). -/
def State.sendAgain (s : State) (n : Nat) (e : Sent) : State :=
  let x := s.port n
  let s := s.setPort n { x with resend := x.resend.tail, replay := x.replay.map (fun y => if y.seq = e.seq then { y with again := some s.town } else y), ctrlDue := true }
  (s.count (0x9700 + n) 0x08 1).sendOn n e.pkt e.seq

/-- A LINK_CTRL is called for when nothing else is sent (R307, R309). -/
def Port.callsCtrl (x : Port) : Bool := x.ctrlDue || x.acked != x.expect || x.unasked.isSome

/-- EGRESS_SLOT (R334): the slot in progress, if it has not been served. -/
def execEgressSlot (n : Fin 6) (s : State) : Host.Outcome State Fault Refusal :=
  let x := s.port n.val
  let k := s.slotNow n.val
  if !s.linked ∨ x.link ≠ 4 ∨ k < x.slot then .next s
  else
    let s := s.setPort n.val { x with slot := k + 1 }
    match x.resend.head?.bind (fun q => x.replay.find? (fun e => e.seq == q)) with
    | some e => .next (s.sendAgain n.val e)
    | none =>
      let pick := if x.windowFull then none else match s.planPacket n.val (k % 960) with
        | some c => some c
        | none => s.servicePacket n.val
      match pick with
      | some c => .next (s.sendNew n.val c)
      | none => .next (if x.callsCtrl then s.sendCtrl n.val else s)

/-- LINK_CTRL_TIMER (R307, R309): nothing waits to be sent, and a LINK_CTRL is called for or 1 µs has passed since the last packet. -/
def execLinkCtrlTimer (n : Fin 6) (s : State) : Host.Outcome State Fault Refusal :=
  let x := s.port n.val
  if s.linked ∧ x.link = 4 ∧ x.resend.isEmpty ∧ (s.waitingFor n.val).isEmpty ∧ (x.callsCtrl ∨ x.sentAt + Config.ticksPerUs ≤ s.town) then .next (s.sendCtrl n.val)
  else .next s

/-- GAP_REREQUEST (R307): a gap still open 1 µs after it was last requested. -/
def execGapRerequest (n : Fin 6) (s : State) : Host.Outcome State Fault Refusal :=
  let x := s.port n.val
  let late : Gap → Bool := fun g => match g.asked with
    | some t => decide (t + Config.ticksPerUs ≤ s.town)
    | none => false
  if s.linked ∧ x.link = 4 ∧ x.gaps.any late then
    .next (s.setPort n.val { x with ctrlDue := true, gaps := x.gaps.map (fun g => if late g then { g with asked := none } else g) })
  else .next s

/-- STALLED_ACK_RETRANSMIT (R308): U has not moved for 2 µs, and again every further 8 µs. -/
def execStalledAckRetransmit (n : Fin 6) (s : State) : Host.Outcome State Fault Refusal :=
  let x := s.port n.val
  let due : Bool := match x.stalledAt with
    | some t => decide (t + 8 * Config.ticksPerUs ≤ s.town)
    | none => decide (x.unaSince + 2 * Config.ticksPerUs ≤ s.town)
  if s.linked ∧ x.link = 4 ∧ !x.replay.isEmpty ∧ due = true then .next (s.setPort n.val { x with resend := x.replay.map Sent.seq, stalledAt := some s.town })
  else .next s

/-! ## Link states (R313 to R316) -/

/-- DOWN_WAIT_EXPIRY (R313). -/
def execDownWaitExpiry (n : Fin 6) (s : State) : Host.Outcome State Fault Refusal :=
  let x := s.port n.val
  if s.linked ∧ x.link = 1 ∧ x.since + 10 * Config.ticksPerUs ≤ s.town then .next (s.beginTraining n.val) else .next s

/-- TRAINING_LOCKED (R313, R316). -/
def execTrainingLocked (n : Fin 6) (s : State) : Host.Outcome State Fault Refusal :=
  let x := s.port n.val
  if s.linked ∧ x.link = 2 ∧ 64 ≤ x.clean then
    .next (s.setPort n.val { x with link := 3, since := s.town, lockedAt := s.town, full := false, txEpoch := if x.txEpoch = 255 then 1 else x.txEpoch + 1,
                                    codewords := 0, verdicts := [], bytes := [], offset := 0, rx := [], stream := [], met := false, trainAt := s.town, txStamp := none, rxStamp := none })
  else .next s

/-- TRAINING_TIMEOUT (R313): 3 ms for a fast retrain, 150 ms for a full training. -/
def execTrainingTimeout (n : Fin 6) (s : State) : Host.Outcome State Fault Refusal :=
  let x := s.port n.val
  if s.linked ∧ x.link = 2 ∧ x.clean < 64 ∧ x.since + (if x.full then 150 else 3) * Config.ticksPerMs ≤ s.town then .next (s.leavePort n.val 1 6) else .next s

/-- The TRAIN that a port sends (R301, R314): its ECHO fields are those of PARTNER. -/
def State.trainPacket (s : State) (n : Nat) : Packet :=
  let x := s.port n
  let w : Word := BitVec.ofNat 256 (place 64 8 x.txEpoch ||| place 48 16 x.partner ||| place 40 8 (x.partner / 65536) ||| place 32 8 (if Config.steppingB0 then 2 else 1)
    ||| place 24 8 n ||| place 16 8 1 ||| place 0 16 s.endpoint)
  { header := BitVec.ofNat 256 (place 0 8 2 ||| place 8 5 1 ||| place 48 8 x.txEpoch), payload := [encodeWord w] }

/-- TRAIN_SEND (R313): every 1 µs while LOCKED. -/
def execTrainSend (n : Fin 6) (s : State) : Host.Outcome State Fault Refusal :=
  let x := s.port n.val
  if s.linked ∧ x.link = 3 ∧ x.trainAt + Config.ticksPerUs ≤ s.town then
    .next ((s.setPort n.val { x with trainAt := s.town }).transmit n.val (s.trainPacket n.val).bytes)
  else .next s

/-- TRAIN (R313, R314, R316, R321). -/
def execTrain (n : Fin 6) (s : State) : Host.Outcome State Fault Refusal :=
  match s.takeRx n.val (fun p => p.type == 2) with
  | none => .next s
  | some (p, s) =>
    let x := s.port n.val
    if 1 < p.len then .next (s.portEvent n.val 0x0D)
    else match p.goodWord 0 with
      | none => .next (s.portEvent n.val 0x0C)
      | some w =>
        if field w 16 8 ≠ 1 ∨ field w 72 184 ≠ 0 ∨ !p.reservedOk ∨ p.cls ≠ 0 then .next (s.portEvent n.val 0x0C)
        else if x.link = 4 then .next (s.leavePort n.val 1 3)
        else if x.link = 3 then
          let s := s.setPort n.val { x with partner := field w 32 8 * 2 ^ 24 + field w 24 8 * 2 ^ 16 + field w 0 16, rxEpoch := if x.met then x.rxEpoch else field w 64 8, met := true }
          .next (if field w 48 16 = s.endpoint ∧ field w 40 8 = n.val then s.linkUp n.val else s)
        else .next s

/-- LOCKED_TIMEOUT (R313). -/
def execLockedTimeout (n : Fin 6) (s : State) : Host.Outcome State Fault Refusal :=
  let x := s.port n.val
  if s.linked ∧ x.link = 3 ∧ x.since + Config.ticksPerMs ≤ s.town then .next (s.leavePort n.val 1 1) else .next s

/-- UP_TIMEOUT (R313, R323): no good packet, U unchanged with packets unacknowledged, or a gap open, for LINK_TIMEOUT. -/
def execUpTimeout (n : Fin 6) (s : State) : Host.Outcome State Fault Refusal :=
  let x := s.port n.val
  let limit := s.objNat (0x7100 + n.val) 0x08 * Config.ticksPerUs
  if s.linked ∧ x.link = 4 ∧ (x.goodAt + limit ≤ s.town ∨ (!x.replay.isEmpty ∧ x.unaSince + limit ≤ s.town) ∨ x.gaps.any (fun g => decide (g.since + limit ≤ s.town))) then
    .next (s.leavePort n.val 1 1)
  else .next s

/-- RESP_TIMEOUT (R319): a request without a response for RESP_TIMEOUT of its egress port. -/
def execRespTimeout (rtag : BitVec 16) (s : State) : Host.Outcome State Fault Refusal :=
  match s.outstanding.find? rtag.toNat with
  | none => .next s
  | some o => if s.live ∧ o.at_ + s.objNat (0x7100 + o.port) 0x09 * Config.ticksPerUs ≤ s.town then .next (s.endRequest rtag.toNat) else .next s

end Sys2Proof.Machine
end

