-- ==== Sys2Proof/Machine/Join.lean ====
section
/-! DEFINITION. Start barriers (R346 to R350) and what holds a partition's join of them. -/
namespace Sys2Proof.Machine

/-! ## The barrier tree (R347) -/

/-- The endpoint whose valid route-table entry names packed coordinates. -/
def endpointIn : List Byte → Nat → Nat → Option Nat
  | a :: b :: c :: d :: t, v, e =>
    let w := leNat [a, b, c, d]
    if w / 2 ^ 31 = 1 ∧ w % 2 ^ 18 = v then some e else endpointIn t v (e + 1)
  | _, _, _ => none

def State.endpointAt (s : State) (v : Nat) : Option Nat := endpointIn (s.obj 0x7000 0x04) v 0

/-- The packed coordinates of a position of a box. -/
def State.atPos (s : State) (b : Box) (pos : Nat → Nat) : Nat :=
  (List.range 3).foldl (fun a d => a + 64 ^ d * ((b.origin d + pos d) % s.dimSize d)) 0

/-- This part's position in a box. -/
def State.pos (s : State) (b : Box) (d : Nat) : Nat := s.posIn b d (s.me d)

/-- A position moved by one in a dimension. -/
def shift (pos : Nat → Nat) (d : Nat) (up : Bool) : Nat → Nat := fun e => if e = d then (if up then pos e + 1 else pos e - 1) else pos e

/-- The endpoint of the parent; none at the root. -/
def State.parentOf (s : State) (b : Box) : Option Nat :=
  let p := s.pos b
  let d := if p 2 ≠ 0 then some 2 else if p 1 ≠ 0 then some 1 else if p 0 ≠ 0 then some 0 else none
  d.bind (fun d => s.endpointAt (s.atPos b (shift p d false)))

/-- The endpoints of the children. -/
def State.childrenOf (s : State) (b : Box) : List Nat :=
  let p := s.pos b
  let dims := [2] ++ (if p 2 = 0 then [1] else []) ++ (if p 2 = 0 ∧ p 1 = 0 then [0] else [])
  (dims.filter (fun d => decide (p d + 1 < b.extent d))).filterMap (fun d => s.endpointAt (s.atPos b (shift p d true)))

/-! ## Instances -/

def Barrier.named (x : Barrier) (kind seq : Nat) : Bool := x.kind == kind && x.seq == seq

/-- An instance of a job; a new one where nothing is known of it. -/
def Job.barrier (x : Job) (kind seq : Nat) : Barrier := (x.barriers.find? (fun y => y.named kind seq)).getD { kind := kind, seq := seq }

/-- Keep what is known of an instance. -/
def State.setBarrier (s : State) (j : Nat) (v : Barrier) : State :=
  let x := s.job j
  s.setJob j { x with barriers := x.barriers.filter (fun y => !y.named v.kind v.seq) ++ [v] }

/-- Send a barrier packet of a job to an endpoint (R347). -/
def State.sendBarrier (s : State) (j type dest_ : Nat) (v : Barrier) (payload : List Word) : State :=
  let h : Heading := { type := type, dst := dest_, src := s.endpoint, job := s.jobTag j, hops := s.hopsTo (s.boxOf j) (s.coordsOf dest_), woffset := v.seq, flags := v.kind }
  s.sendPackets [h.packet (asPayload payload)] none none

def State.sendJoin (s : State) (j : Nat) (v : Barrier) : State :=
  match s.parentOf (s.boxOf j) with
  | some e => s.sendBarrier j 0x28 e v []
  | none => s

def State.sendRelease (s : State) (j : Nat) (dest_ : List Nat) (v : Barrier) : State :=
  dest_.foldl (fun s e => s.sendBarrier j 0x29 e v [BitVec.ofNat 256 (place 0 64 (v.release.getD 0))]) s

/-- RELEASE_MARGIN in ticks (R348). -/
def State.margin (s : State) (j : Nat) : Nat :=
  let ns := s.objNat (0x7200 + j) 0x08
  let b := s.boxOf j
  let dist := (List.range 3).foldl (fun a d => a + (b.extent d - 1)) 0
  (if ns = 0 then 1000 + 100 * dist else ns) * 8 / 5

/-- Once the part has joined and every child's JOIN has come, it joins its parent, or, the root, it sets T_rel and releases its children (R347). -/
def State.joinOn (s : State) (j kind seq : Nat) : State :=
  let v := (s.job j).barrier kind seq
  let b := s.boxOf j
  let kids := s.childrenOf b
  if !v.joined ∨ v.sentAt.isSome ∨ v.release.isSome ∨ !kids.all v.children.contains then s
  else match s.parentOf b with
    | some _ =>
      let v := { v with sentAt := some s.town }
      (s.setBarrier j v).sendJoin j v
    | none =>
      let v := { v with release := some (s.town + s.margin j) }
      (s.setBarrier j v).sendRelease j kids v

/-- The part joins an instance. -/
def State.joinBarrier (s : State) (j kind seq : Nat) : State :=
  let v := (s.job j).barrier kind seq
  (s.setBarrier j { v with joined := true, joinedAt := s.town }).joinOn j kind seq

/-! ## The step barrier (R349) -/

/-- The part is in time (R369). -/
def State.inTime (s : State) : Bool :=
  match s.time.mode with
  | .root => true
  | .locked => true
  | .holdover => decide (s.town ≤ s.time.holdSince + s.objNat 0x3000 0x04 * Config.ticksPerUs)
  | _ => false

/-- A DMA with a tier-0 end in the partition is running (R409). -/
def State.dmaRuns (s : State) (p : Nat) : Bool :=
  let in_ := fun (c : Option Desc) (m : Option (Nat × Status)) => m.isSome && (match c with
    | some d => (dKind d == 6 || dKind d == 7) && dTier d == 0 && dPart d == p
    | none => false)
  s.fns.any (fun e => in_ e.2.current e.2.moved) || s.cores.any (fun e => in_ (e.2.current.map Prod.snd) e.2.moved)

/-- The holds on the join have ended, but that of time (R184, R206, R234, R349, R381, R389, R393, R409, R478, R496): 4,096 ns since the last frame
restart are 5,735 nominal cycles. -/
def State.mayJoin (s : State) (p : Nat) : Bool :=
  let x := s.part p
  s.live && x.stepState == .waiting && !x.joined && x.nextTicket.isSome && !x.resolving && x.frameRestart.all (fun t => decide (t + 5735 ≤ s.now))
    && (s.objNat (0x4000 + p) 0x0C != 1 || x.replay.isSome || x.ckptSealed) && !x.restoring && !x.exchange && x.episode.since.isNone
    && !s.start.paused && !s.start.activating && !s.dmaRuns p && (mapBlocks x.blockMap).all (fun b => (s.block b).slice.isNone)
    && (s.channelsOf p).all (fun c => !(s.channel c).clearing)

/-- STEP_BARRIER_JOIN (R349): where the part must be in time and is not, the hold is counted once. -/
def execStepBarrierJoin (p : Fin 64) (s : State) : Host.Outcome State Fault Refusal :=
  let x := s.part p.val
  if !s.mayJoin p.val then .next s
  else match s.agrees p.val with
    | none => .next (s.setPart p.val { x with joined := true, timeHeld := false })
    | some j =>
      if !s.inTime then .next (if x.timeHeld then s else (s.setPart p.val { x with timeHeld := true }).count 0x9A00 0x04 1)
      else .next ((s.setPart p.val { x with joined := true, timeHeld := false }).joinBarrier j 0 x.stepCount)

/-! ## Releases (R348, R350) -/

/-- The descriptor barriers of a partition that are numbered seq complete (R350). -/
def State.freeBarrier (s : State) (p seq : Nat) : State :=
  (s.opsOf p).foldl (fun s (b, o) => if o.work = .barrier seq then s.completeOp p b o [] else s) s

/-- An instance whose T_rel has come. -/
def Barrier.due (x : Barrier) (town : Nat) : Bool :=
  x.joined && !x.released && (match x.release with
    | some t => decide (t ≤ town)
    | none => false)

/-- BARRIER_RELEASE (R130, R348 to R350): a partition that agrees with no other part starts its step as soon as it has joined; else the
first instance of its job whose T_rel has come is released. -/
def execBarrierRelease (p : Fin 64) (s : State) : Host.Outcome State Fault Refusal :=
  let x := s.part p.val
  if !s.live then .next s
  else if x.stepState = .waiting ∧ x.joined ∧ (s.agrees p.val).isNone then .next (s.startStep p.val)
  else match s.jobOf p.val with
    | none => .next s
    | some j => match (s.job j).barriers.find? (fun y => y.due s.town) with
      | none => .next s
      | some v =>
        let s := s.setBarrier j { v with released := true }
        if v.kind = 1 then .next (s.freeBarrier p.val v.seq)
        else if x.stepState = .waiting ∧ x.joined then
          let y := s.job j
          .next ((s.setJob j { y with barriers := y.barriers.filter (fun z => z.kind == 0 && (z.seq == v.seq || precedes 32 v.seq z.seq)) }).startStep p.val)
        else .next s

/-- BARRIER_JOIN (R347, R348): a JOIN for an instance already released is answered by its release again; any other is recorded. During an
episode nothing is sent again (DEDUCED, log 31). -/
def execBarrierJoin (s : State) : Host.Outcome State Fault Refusal :=
  match s.takeType 0x28 with
  | none => .next s
  | some (_, pkt, s) =>
    match s.openSlot pkt.job with
    | none => .next s
    | some j =>
      let kind := pkt.flags % 2
      let v := (s.job j).barrier kind pkt.woffset
      if v.released then .next (if (s.part (s.jobPart j)).episode.since.isNone then s.sendRelease j [pkt.src] v else s)
      else .next ((s.setBarrier j { v with children := if v.children.contains pkt.src then v.children else v.children ++ [pkt.src] }).joinOn j kind pkt.woffset)

/-- BARRIER_RELEASE_PACKET (R347, R348, R381): the release of an instance that the part has joined is forwarded to its children and sets
T_rel; one that arrives after T_rel is counted. During an episode it is ignored. -/
def execBarrierReleasePacket (s : State) : Host.Outcome State Fault Refusal :=
  match s.takeType 0x29 with
  | none => .next s
  | some (_, pkt, s) =>
    match s.openSlot pkt.job, pkt.goodWord 0 with
    | some j, some w =>
      let v := (s.job j).barrier (pkt.flags % 2) pkt.woffset
      if !v.joined ∨ v.release.isSome ∨ (s.part (s.jobPart j)).episode.since.isSome then .next s
      else
        let v := { v with release := some (field w 0 64) }
        let s := if field w 0 64 < s.town then s.count 0x9800 0x0A 1 else s
        .next ((s.setBarrier j v).sendRelease j (s.childrenOf (s.boxOf j)) v)
    | _, _ => .next s

/-- JOIN_REPEAT (R348): every 10 µs until the release arrives. -/
def execJoinRepeat (p : Fin 64) (s : State) : Host.Outcome State Fault Refusal :=
  match s.jobOf p.val with
  | none => .next s
  | some j =>
    let late := fun (v : Barrier) => v.release.isNone && v.sentAt.any (fun t => decide (t + 10 * Config.ticksPerUs ≤ s.town))
    match s.live, (s.job j).barriers.find? late with
    | true, some v => .next ((s.setBarrier j { v with sentAt := some s.town }).sendJoin j v)
    | _, _ => .next s

/-- BARRIER_TIMEOUT (R348, R377, R378): an instance without a release within BARRIER_TIMEOUT of the local join. A RUNNING partition is fenced,
and its notice follows; a WAITING one originates the notice itself. -/
def execBarrierTimeout (p : Fin 64) (s : State) : Host.Outcome State Fault Refusal :=
  match s.jobOf p.val with
  | none => .next s
  | some j =>
    let limit := s.objNat (0x7200 + j) 0x09 * Config.ticksPerUs
    match s.live, (s.job j).barriers.find? (fun v => v.joined && v.release.isNone && !v.failed && decide (v.joinedAt + limit ≤ s.town)) with
    | true, some v =>
      let s := s.setBarrier j { v with failed := true }
      .next (if (s.part p.val).stepState = .running then s.failStep p.val .fault 6 else s.originate p.val 6 Status.fault.code 0xFF false)
    | _, _ => .next s

/-! ## The descriptor barrier (R350) -/

/-- BARRIER (R350): joins the descriptor barrier numbered by the BARRIERs of the step so far. -/
def execBarrier (b : Fin 256) (s : State) : Host.Outcome State Fault Refusal :=
  .next (s.issue b.val 2 (fun d => opcode d == 0x68) (fun _ _ _ => []) (fun s p d =>
    let x := s.part p
    let o := s.newOp p b.val 2 d 1 (if (s.jobOf p).isSome then .barrier x.barriers else .plain)
    let s := (s.launch p b.val o).setPart p { x with barriers := x.barriers + 1 }
    let s := s.setBlock b.val { s.block b.val with moverFree := s.cyclesOf b.val + 1 }
    match s.jobOf p with
    | some j => s.joinBarrier j 1 x.barriers
    | none => s))

/-! ## Closing a job (R346) -/

/-- The slot is CLOSING: its packets are discarded, its barriers abandoned, and the partition unbound. -/
def State.closeJob (s : State) (j : Nat) : State :=
  let tag := s.jobTag j
  let s := s.crossroads.foldl (fun s (k, l) =>
    let gone := l.filter (fun q => q.pkt.job == tag)
    let s := s.setBuffer k (l.filter (fun q => q.pkt.job != tag))
    (gone.foldl (fun s q => s.packetGone k q) s).count 0x9800 0x03 gone.length) s
  let left := s.arrived.filter (fun a => a.2.job != tag)
  let s := ({ s with arrived := left }).count 0x9800 0x03 (s.arrived.length - left.length)
  let s := { s with parts := s.parts.mapVals (fun _ (y : Part) => if y.takenOut = some j then { y with takenOut := none } else y) }
  s.setJob j { state := 2, closedAt := s.town }

end Sys2Proof.Machine
end

