-- ==== Sys2Proof/Machine/Coll.lean ====
section
/-! DEFINITION. SEND and receive buffers (R340 to R342), and the collective engine (R351 to R355). -/
namespace Sys2Proof.Machine

/-! ## SEND and DATA -/

/-- The causes of R340, which also serve a collective of a partition bound to no job (DESIGN CHOICE, log 30). -/
def State.unbound (s : State) (p : Nat) : List Status := if (s.jobOf p).isSome then [] else [.rights]

def State.sendCauses (s : State) (p : Nat) (d : Desc) : List Status :=
  match s.jobOf p with
  | none => [.rights]
  | some j => if s.known (sendDst d) && s.inBox (s.boxOf j) (s.coordsOf (sendDst d)) then [] else [.bounds]

/-- Packet i of the n of a SEND of the words ws to the endpoint of its descriptor, by job slot j (R340). -/
def State.sendPacket (s : State) (p j : Nat) (d : Desc) (n : Nat) (ws : List Stored) (i : Nat) : Packet :=
  Heading.packet { type := 0x10, dst := sendDst d, src := s.endpoint, job := s.jobTag j, hops := s.hopsTo (s.boxOf j) (s.coordsOf (sendDst d)), rtag := sendFlow d,
                   handle := sendHandle d, woffset := (sendOffset d + 16 * i) % 2 ^ 32,
                   flags := (if i = 0 then 1 else 0) + (if i + 1 = n then 2 else 0) + 4 * ((s.part p).stepCount % 2) } ((ws.drop (16 * i)).take 16)

/-- SEND (R322, R340): the words go out in DATA packets of 16, each with its check value as the source holds it. -/
def execSend (b : Fin 256) (s : State) : Host.Outcome State Fault Refusal :=
  .next (s.issue b.val 2 (fun d => opcode d == 0x60) (fun s p d => s.sendCauses p d) (fun s p d =>
    let w := sendWords d
    let n := ceilDiv w 16
    let l := s.launchMover p b.val d (ceilDiv w 2) (.transfer n)
    l.2.sendPackets ((List.range n).map (s.sendPacket p ((s.jobOf p).getD 0) d n ((s.opAddrs p (opnd d 1) w).map s.readWord))) (some (b.val, l.1.id)) none))

/-- Write words as they came into block memory: mended ones afresh, failing ones as received (R28). -/
def State.receiveWords (s : State) (a : Nat) (l : List Stored) : State :=
  l.zipIdx.foldl (fun s (x, i) => s.writeDelivered { addr := a + i, word := x, due := s.now, source := 0, index := i, opBlock := 0, opId := 0 }) s

/-- A receive that completes under a B0 profile on A1 is a cycle later than its profile: it counts (R141). -/
def State.lateReceive (s : State) (p : Nat) : State := if (s.part p).profile = 2 ∧ !Config.steppingB0 then s.count (0x9100 + p) 0x0F 1 else s

/-- DATA (R341, R342): dropped by the first of the cases that applies, or written; FIRST clears the ready tag and LAST sets it. -/
def execData (s : State) : Host.Outcome State Fault Refusal :=
  match s.takeType 0x10 with
  | none => .next s
  | some (i, pkt, s) =>
    match s.openSlot pkt.job with
    | none => .next (s.roadEvent 0x03 pkt.job pkt.dst)
    | some j =>
      let p := s.jobPart j
      let x := s.part p
      let e := if pkt.handle < 4096 then s.handle p pkt.handle else 0
      if i < 6 && s.bollard (s.boxOf j) i then .next (s.roadEvent 0x02 pkt.job pkt.dst)
      else if x.stepState ≠ .running then .next (s.roadEvent 0x06 pkt.job pkt.dst)
      else if pkt.flags / 4 % 2 ≠ x.stepCount % 2 then .next (s.roadEvent 0x07 pkt.job pkt.dst)
      else if hKind e ≠ 3 ∨ hSize e < pkt.woffset + pkt.len then .next ((s.roadEvent 0x08 pkt.job pkt.dst).failStep p .bounds 1)
      else
        let s := if pkt.flags % 2 = 1 then s.markTag p pkt.handle false 0 else s
        let s := s.receiveWords (hAddr e pkt.woffset) pkt.payload
        .next (if pkt.flags / 2 % 2 = 1 then (s.markTag p pkt.handle true 0).lateReceive p else s)

/-! ## Elements of a collective (R351 to R353) -/

/-- The element format of a header: 0 WP128, 1 WP64, 2 FP32 (whose header the engine makes, DESIGN CHOICE, log 30). -/
def collFormat (h : Word) : Option Nat :=
  match field h 56 8 with
  | 1 => some 0
  | 2 => some 1
  | 10 => some 2
  | _ => none

/-- Bits of an element. -/
def collBits (f : Nat) : Nat := if f = 0 then 128 else if f = 1 then 64 else 32

/-- A header of given FORMAT code, ANCHOR, COUNT and flags. -/
def collHeader (format anchor count flags : Nat) : Word := BitVec.ofNat 256 (place 56 8 format ||| place 32 16 anchor ||| place 16 14 (count - 1) ||| place 0 4 flags)

/-- What members must have in common: FORMAT, ANCHOR and COUNT. -/
def headKey (h : Word) : Nat × Nat × Nat := (field h 56 8, field h 32 16, field h 16 14)
def headFlags (h : Word) : Nat := field h 0 4
def withFlags (h : Word) (fl : Nat) : Word := collHeader (field h 56 8) (field h 32 16) (field h 16 14 + 1) fl

/-- An element as an up-wave of CSUM carries it: the partial sum mod 2^w and, above it, the signed count of wraps (R353). The codes of NaN and the
infinities stand for themselves where the count is 0, and the element is taken as signed; a finite sum that has the bits of such a code carries the count −128, which no
sum reaches (DESIGN CHOICE, log 30). -/
def upCode (wp64 : Bool) : Num → Nat
  | .fin n m _ =>
    let w := wideBits wp64
    let v : Int := if n then -(m : Int) else m
    let g := (v + 2 ^ (w - 1)) / 2 ^ w
    unsigned w v + 2 ^ w * (if g = 0 ∧ !(wideElem wp64 (unsigned w v)).isFinite then 128 else unsigned 8 g)
  | x => wideCode wp64 x

def upElem (wp64 : Bool) (c : Nat) : Num :=
  let w := wideBits wp64
  let g := signed 8 (c / 2 ^ w)
  if g = 0 then wideElem wp64 (c % 2 ^ w) else if g = -128 then Num.ofInt (signed w (c % 2 ^ w)) 0 else Num.ofInt (signed w (c % 2 ^ w) + g * 2 ^ w) 0

/-- The exact sum of two elements (R55, R353). -/
def upAdd (wp64 : Bool) (a b : Nat) : Nat :=
  let x := upElem wp64 a
  let y := upElem wp64 b
  let one := (sumElems wp64 [x, y]).1
  upCode wp64 (if x.isFinite && y.isFinite then Num.ofInt (x.int + y.int) 0 else one)

/-- The value of an element outside CSUM, and its code. -/
def collNum (f c : Nat) : Num := if f = 2 then decodeElem 10 c else wideElem (f == 1) c
def collCode (f : Nat) (x : Num) : Nat := if f = 2 then (fmtFP32.encode x).code else wideCode (f == 1) x

/-- Combine two elements by the operation: 0 SUM, 1 MAX, 2 MIN. -/
def collCombine (op f a b : Nat) : Nat :=
  match op with
  | 0 => upAdd (f == 1) a b
  | 1 => collCode f (numMax (collNum f a) (collNum f b))
  | _ => collCode f (numMin (collNum f a) (collNum f b))

/-- Elements of a full packet: 30 or 56 with guard bytes, else as many as 16 words hold (R353). -/
def perPacket (guarded : Bool) (f : Nat) : Nat := if guarded then (if f = 0 then 30 else 56) else 16 * (256 / collBits f)

/-- The words of a packet of elements. -/
def packPacket (guarded : Bool) (f : Nat) (l : List Nat) : List Word :=
  let w := collBits f
  packWords w (l.map (· % 2 ^ w)) ++ (if guarded then packWords 8 (l.map (· / 2 ^ w)) else [])

/-- The m elements of a packet's words. -/
def unpackPacket (guarded : Bool) (f m : Nat) (ws : List Word) : List Nat :=
  let w := collBits f
  let n := ceilDiv (m * w) 256
  let l := wordsBytes (ws.take n)
  let g := wordsBytes (ws.drop n)
  (List.range m).map (fun i => leAt l (i * (w / 8)) (w / 8) + (if guarded then 2 ^ w * leAt g i 1 else 0))

/-! ## The engine (R352 to R354) -/

def State.coll (s : State) (id : Nat) : Option Coll := s.colls.find? id
def State.setColl (s : State) (id : Nat) (c : Coll) : State := { s with colls := s.colls.put id c }

/-- A packet of a wave to the neighbour position in dimension d, by job slot j (R352). -/
def State.wavePacket (s : State) (c : Coll) (j d : Nat) (up hdr : Bool) (ws : List Word) : Packet :=
  let b := s.boxOf j
  Heading.packet { type := if up then 0x11 else 0x12, dst := (s.endpointAt (s.atPos b (shift (s.pos b) d up))).getD 0xFFFF, src := s.endpoint, job := c.job,
                   rtag := c.flow + 2 * d + (if up then 0 else 1), handle := c.seq, flags := (if hdr then 8 else 0) + 16 * c.op } (asPayload ws)

/-- Send a packet of a wave: it leaves by port 2d up and 2d + 1 down, never over the wrap link. -/
def State.sendWave (s : State) (c : Coll) (d : Nat) (up hdr : Bool) (ws : List Word) : State :=
  match s.openSlot c.job with
  | none => s
  | some j =>
    let k := bufKey 6 0 0
    s.setBuffer k (s.buffer k ++ [{ pkt := s.wavePacket c j d up hdr ws, at_ := s.town, out := some (if up then 2 * d else 2 * d + 1) }])

/-- Send elements of a wave, cut into packets. -/
def State.sendElems (s : State) (c : Coll) (d : Nat) (up : Bool) (l : List Nat) : State :=
  let f := (collFormat c.header).getD 0
  let g := up && c.op == 0
  (chunks (perPacket g f) (ceilDiv l.length (perPacket g f)) l).foldl (fun s x => s.sendWave c d up false (packPacket g f x)) s

/-- The result of a dimension from the last operand combined: its elements, the new flags, and whether some sum overflowed (R353, R55). -/
def collResult (op f : Nat) (l : List Nat) : List Nat × Nat × Bool :=
  if op = 0 then
    let r := l.map (fun c => match upElem (f == 1) c with
      | .fin n m e => wideClip (f == 1) (Num.int (.fin n m e))
      | x => (x, false))
    let over_ := r.any Prod.snd
    (r.map (fun e => wideCode (f == 1) e.1), (if over_ then 2 else 0) + (if r.any (fun e => e.1 == .nan) then 4 else 0), over_)
  else (l, if l.any (fun c => collNum f c == .nan) then 4 else 0, false)

/-- Fail the step of a collective by its descriptor. -/
def State.failColl (s : State) (id : Nat) (c : Coll) (cause : Status) : State :=
  match (s.block c.block).inflight.find? (fun o => o.id == id) with
  | some o => ({ s with colls := s.colls.del id }).failOp c.part c.block o cause
  | none => { s with colls := s.colls.del id }

/-- Write the words of a result: the header, unless the format has none, then elements. -/
def resultWords (h : Word) (l : List Nat) : List Word :=
  let f := (collFormat h).getD 0
  (if f = 2 then [] else [h]) ++ packWords (collBits f) l

/-- Take a result as the operand of the next dimension, and start it (R351, R352). A dimension of one part has the operand for its result. -/
def State.startDim (s : State) (id : Nat) : Nat → State
  | 0 => s
  | fuel + 1 =>
    match s.coll id with
    | none => s
    | some c =>
      match c.dims, s.openSlot c.job with
      | [], _ => s.setColl id { c with done := true }
      | _, none => s
      | d :: rest, some j =>
        let b := s.boxOf j
        if b.extent d ≤ 1 then
          let f := (collFormat c.header).getD 0
          let (l, fl, over_) := collResult c.op f c.elems
          if over_ && s.accFail c.part then s.failColl id c .accOverflow
          else
            let h := withFlags c.header (headFlags c.header ||| fl)
            let ws := resultWords h l
            ((s.writeWords ((addrs c.dst ws.length).zip ws)).setColl id { c with dims := rest, header := h, elems := l }).startDim id fuel
        else if s.pos b d = 0 then
          let s := s.setColl id { c with upDone := true, got := [], gotHead := none }
          (s.sendWave c d true true [c.header]).sendElems c d true c.elems
        else s.setColl id { c with upDone := false, got := [], gotHead := none }

/-- The collective that descriptor d of block b starts with header h and elements l, before its first dimension begins (R351). -/
def State.newColl (s : State) (p b op : Nat) (d : Desc) (h : Word) (l : List Nat) : Coll :=
  { part := p, block := b, job := s.jobTag ((s.jobOf p).getD 0), op := op, seq := collSeq d, flow := collFlow d, count := vecCount d,
    dst := hAddr (s.handle p (opHandle (opnd d 0))) (opOffset (opnd d 0)), dims := (List.range 3).filter (fun i => collDims d / 2 ^ i % 2 == 1), header := h, elems := l }

/-- Start a collective (R351): its operand is read, its header checked, and the first dimension begins. -/
def State.issueColl (s : State) (b op : Nat) : State :=
  s.issue b 2 (fun d => opcode d == 0x61 + op) (fun s p _ => s.unbound p) (fun s p d =>
    let n := vecCount d
    let r0 := opnd d 0
    let r1 := opnd d 1
    let start := fun (t : State) (h : Word) (l : List Nat) (w : Nat) =>
      let r := t.launchMover p b d (ceilDiv w 2) .collective
      (r.2.setColl r.1.id (s.newColl p b op d h l)).startDim r.1.id 4
    if formatOf d = 0x0A then
      let w := ceilDiv n 8
      s.readSource p b 2 2 d (s.opAddrs p r1 w) (fun t ws => start t (collHeader 10 0 n 0) ((List.range n).map (fun i => leAt (wordsBytes ws) (4 * i) 4)) w)
    else
      s.readSource p b 2 2 d (s.opAddrs p r1 1) (fun t ws =>
        let h := ws.headD 0
        match headerFormat h with
        | none => t.failDesc p .anchorMismatch b 2 d
        | some wp64 =>
          let w := wideWords wp64 n
          if headerCount h ≠ n then t.failDesc p .anchorMismatch b 2 d
          else if hSize (s.handle p (opHandle r0)) < opOffset r0 + w ∨ hSize (s.handle p (opHandle r1)) < opOffset r1 + w then t.failDesc p .bounds b 2 d
          else t.readSource p b 2 2 d (s.opAddrs p r1 w).tail (fun t ws =>
            let size := wideBits wp64 / 8
            start t (withFlags h (headFlags h)) ((List.range n).map (fun i => leAt (wordsBytes ws) (size * i) size)) w)))

/-- CSUM (R351, R352). -/
def execCsum (b : Fin 256) (s : State) : Host.Outcome State Fault Refusal := .next (s.issueColl b.val 0)
/-- CMAX (R353). -/
def execCmax (b : Fin 256) (s : State) : Host.Outcome State Fault Refusal := .next (s.issueColl b.val 1)
/-- CMIN (R353). -/
def execCmin (b : Fin 256) (s : State) : Host.Outcome State Fault Refusal := .next (s.issueColl b.val 2)

/-! ## Packets of the waves -/

/-- The collective that waits for a packet: the partition of its job, the flow of the wave, and the dimension in hand. -/
def State.collOf (s : State) (up : Bool) (pkt : Packet) : Option (Nat × Coll × Nat) :=
  s.colls.findSome? (fun (id, c) => match c.dims with
    | d :: _ => if c.job == pkt.job && !c.done && pkt.rtag == c.flow + 2 * d + (if up then 0 else 1) && (c.upDone != up) then some (id, c, d) else none
    | [] => none)

/-- The partition of a packet's job is RUNNING. -/
def State.collRuns (s : State) (pkt : Packet) : Bool :=
  match s.openSlot pkt.job with
  | some j => (s.part (s.jobPart j)).stepState == .running
  | none => false

/-- Take the next packet of a wave: one of a job that does not run here is only taken, one that its collective does not yet wait for stays. -/
def State.takeWave (s : State) (up : Bool) : Option (Packet × State) :=
  if !s.live then none
  else (s.takeArrived (fun p => p.type == (if up then 0x11 else 0x12) && (!s.collRuns p || (s.collOf up p).isSome))).map (fun (_, p, s) => (p, s.count 0x9800 0x0B 1))

/-- The words of a packet as the engine reads them, or the cause for which one fails. -/
def Packet.read (p : Packet) : Except Status (List Word) :=
  p.payload.foldr (fun x acc => match decodeStored x, acc with
    | .failing c _, _ => .error c
    | _, .error c => .error c
    | .clean w, .ok l => .ok (w :: l)
    | .mended w, .ok l => .ok (w :: l)) (.ok [])

/-- What a packet of a wave must share with the collective it reaches (R352). -/
def Coll.agrees (c : Coll) (pkt : Packet) (ws : List Word) : Bool :=
  pkt.handle == c.seq && pkt.flags / 16 % 4 == c.op && (pkt.flags / 8 % 2 == 0 || headKey (ws.headD 0) == headKey c.header)

/-- COLL_UP (R352, R353): the operand is added and the sums go on; the last position forms the result, writes it and turns the wave. -/
def execCollUp (s : State) : Host.Outcome State Fault Refusal :=
  match s.takeWave true with
  | none => .next s
  | some (pkt, s) =>
    match s.collRuns pkt, s.collOf true pkt, s.openSlot pkt.job with
    | true, some (id, c, d), some j =>
      let b := s.boxOf j
      let last := s.pos b d + 1 = b.extent d
      match pkt.read with
      | .error cause => .next (s.failColl id c cause)
      | .ok ws =>
        if !c.agrees pkt ws then .next (s.failColl id c .anchorMismatch)
        else if pkt.flags / 8 % 2 = 1 then
          let h := withFlags c.header (headFlags c.header ||| headFlags (ws.headD 0))
          let s := s.setColl id { c with gotHead := some h }
          .next (if last then s else s.sendWave c d true true [h])
        else
          let f := (collFormat c.header).getD 0
          let g := c.op == 0
          let m := min (perPacket g f) (c.count - c.got.length)
          let own := (c.elems.drop c.got.length).take m
          let sums := List.zipWith (collCombine c.op f) own (unpackPacket g f m ws)
          let got := c.got ++ sums
          let c := { c with got := got }
          if !last then
            let s := s.setColl id { c with upDone := got.length == c.count }
            .next (s.sendWave c d true false (packPacket g f sums))
          else if got.length < c.count then .next (s.setColl id c)
          else
            let (l, fl, over_) := collResult c.op f got
            if over_ && s.accFail c.part then .next (s.failColl id c .accOverflow)
            else
              let h0 := c.gotHead.getD c.header
              let h := withFlags h0 (headFlags h0 ||| fl)
              let ws := resultWords h l
              let c := { c with header := h, elems := l, dims := c.dims.tail, got := [], gotHead := none, upDone := false }
              let s := (s.writeWords ((addrs c.dst ws.length).zip ws)).setColl id c
              .next (((s.sendWave c d false true [h]).sendElems c d false l).startDim id 4)
    | _, _, _ => .next s

/-- COLL_DOWN (R352, R353): the result is written and goes on to the lower positions. -/
def execCollDown (s : State) : Host.Outcome State Fault Refusal :=
  match s.takeWave false with
  | none => .next s
  | some (pkt, s) =>
    match s.collRuns pkt, s.collOf false pkt, s.openSlot pkt.job with
    | true, some (id, c, d), some j =>
      match pkt.read with
      | .error cause => .next (s.failColl id c cause)
      | .ok ws =>
        let on := fun (s : State) => if s.pos (s.boxOf j) d = 0 then s else s.sendWave c d false (pkt.flags / 8 % 2 == 1) ws
        if !c.agrees pkt ws then .next (s.failColl id c .anchorMismatch)
        else
          let f := (collFormat c.header).getD 0
          if pkt.flags / 8 % 2 = 1 then
            let h := withFlags (ws.headD 0) (headFlags (ws.headD 0))
            let s := if f = 2 then s else s.writeWords [(c.dst, h)]
            .next (on (s.setColl id { c with gotHead := some h, got := [] }))
          else
            let per := 256 / collBits f
            let m := min (perPacket false f) (c.count - c.got.length)
            let got := c.got ++ unpackPacket false f m ws
            let at_ := c.dst + (if f = 2 then 0 else 1) + c.got.length / per
            let s := on (s.writeWords ((addrs at_ (ceilDiv m per)).zip ws))
            if got.length < c.count then .next (s.setColl id { c with got := got })
            else .next ((s.setColl id { c with header := c.gotHead.getD c.header, elems := got, dims := c.dims.tail, got := [], gotHead := none, upDone := false }).startDim id 4)
    | _, _, _ => .next s

/-- In a fenced partition the engine stops the collectives (R355). -/
def State.stopColls (s : State) (p : Nat) : State :=
  (s.colls.filter (fun e => e.2.part == p)).foldl (fun s (id, c) =>
    ({ s with colls := s.colls.del id }).setBlock c.block ((s.block c.block).drop id)) s |>.settle p

/-- COLLECTIVE_COMPLETION (R355). -/
def execCollectiveCompletion (b : Fin 256) (s : State) : Host.Outcome State Fault Refusal :=
  let p := s.ownerOf b.val
  if (s.part p).stepState = .fenced then .next (s.stopColls p)
  else match s.dueOps b.val (fun o => (s.coll o.id).any (fun c => c.done && c.block == b.val)) with
    | [] => .next s
    | o :: _ => .next (({ s with colls := s.colls.del o.id }).completeOp p b.val o (dests o.desc))

end Sys2Proof.Machine
end

