-- ==== Sys2Proof/Machine/Scrub.lean ====
section
/-! DEFINITION. The scrubber (R215, R216) and the clearing of memory (R214, R272, R278, R290). -/
namespace Sys2Proof.Machine

/-! ## Write-back and scrubbing -/

/-- Rewrite a word that is of a mendable class (R215). -/
def State.rewrite (s : State) (a : Nat) : State :=
  match decodeStored (s.readWord a) with
  | .mended w => (s.writeWord a (encodeWord w)).count 0x9400 0x07 1
  | _ => s

/-- The second cycle of a repair (R215): the mended word is written if the cycle is the next one and no plan client claims it; else the write is
abandoned, and the entry is tried again later. -/
def State.writeBack (s : State) (b a t : Nat) : State :=
  let x := s.block b
  if s.wallOf b = t + 1 ∧ s.serviceFree b a then ((s.setBlock b { x with reread := none, repair := x.repair.erase a }).useBank b a).rewrite a
  else s.setBlock b { x with reread := none }

/-- The first cycle of a repair (R215): the oldest word of the repair queue is read again in an unclaimed bank cycle; one that is no longer of a
mendable class is dropped. Of a word of tier 1 the unclaimed slots of its pseudo-channel take the place of bank cycles. -/
def State.readBack (s : State) (b a : Nat) : State :=
  let x := s.block b
  if tierOf a = 1 then
    if s.serviceOpen a then (((s.setBlock b { x with repair := x.repair.erase a }).count 0x9400 0x06 1).serviceUnits a 1).rewrite a else s
  else if !s.serviceFree b a then s
  else
    let s := s.count 0x9400 0x06 1
    match decodeStored (s.readWord a) with
    | .mended _ => (s.setBlock b { x with reread := some (a, s.wallOf b) }).useBank b a
    | _ => (s.setBlock b { x with repair := x.repair.erase a }).useBank b a

/-- REPAIR_QUEUE_WRITEBACK (R215): the word read again in the cycle before is written, or the oldest of the block's repair queue is read again. -/
def execRepairQueueWriteback (b : Fin 256) (s : State) : Host.Outcome State Fault Refusal :=
  let x := s.block b.val
  match s.live, x.reread, x.repair with
  | true, some (a, t), _ => .next (s.writeBack b.val a t)
  | true, none, a :: _ => .next (s.readBack b.val a)
  | _, _, _ => .next s

/-- The entry of a LIVE allocation that covers a word of tier 1, 2 or 3. -/
def State.allocAt (s : State) (a : Nat) : Option Alloc :=
  s.allocs.values.find? (fun e => e.state == 1 && decide (e.base ≤ 32 * a ∧ 32 * a < e.base + e.size))

/-- A word of block memory lies inside a loaded handle of KIND 0x01 or 0x03 (R216). -/
def State.inHandle (s : State) (a : Nat) : Bool :=
  s.parts.any (fun e => e.2.partState == 1 && e.2.handles.any (fun h => hOnBlock h.2 && decide (hAddr h.2 0 ≤ a ∧ a < hAddr h.2 0 + hSize h.2)))

/-- The number in R219 of a word of a block's long accumulators. The row's operand names it by an address of the block beyond its memory: 0x6_0000 +
0x4000 · bank + the word's number (DESIGN CHOICE, log 91). -/
def accWord (a : Nat) : Option Nat :=
  let w := a % 2 ^ 19 - Config.blockWords
  if tierOf a = 0 ∧ Config.blockWords ≤ a % 2 ^ 19 ∧ w < 2 ^ 15 ∧ w % 2 ^ 14 ≤ 10240 then some (accDpa (a / 2 ^ 19 % 256) (w / 2 ^ 14) (w % 2 ^ 14)) else none

/-- The bank of such a word has been started. -/
def State.accStarted (s : State) (a : Nat) : Bool := ((s.block (a / 2 ^ 19 % 256)).bank ((a % 2 ^ 19 - Config.blockWords) / 2 ^ 14)).started

/-- The scrubber reaches a word now, and the tenant it is charged to: words of a block within a sweeper slice, once the repair queue is served (R215),
the tiers as service traffic. -/
def State.scrubs (s : State) (a : Nat) : Option (Option Nat) :=
  let b := a / 2 ^ 19 % 256
  if tierOf a = 0 then
    if (s.block b).slice.isNone || !(s.block b).repair.isEmpty then none
    else if (accWord a).isSome then (if s.accStarted a then some none else none)
    else if s.inHandle a && s.serviceFree b a then some none else none
  else match s.allocAt a with
    | some e => if s.serviceReady (some e.tenant) a && s.tierUp a && s.tierServes a then some (some e.tenant) else none
    | none => none

/-- The scrubber's work on a word of a long accumulator: left, rewritten, or counted (R216). -/
def State.scrubAcc (s : State) (k : Nat) : State :=
  match syndromeClass (s.flaws.get 0 k) with
  | .clean _ => s
  | .mended _ => (s.wipe [k]).count 0x9400 0x07 1
  | .failing _ _ => s.countLog { cls := 3, counter := 0x9400, sub := 0x08, detail := k }

/-- SCRUB_WORD (R216): a clean word is left, a mendable one rewritten, one of a failing class counted. -/
def execScrubWord (a : BitVec 51) (s : State) : Host.Outcome State Fault Refusal :=
  match s.live, s.scrubs a.toNat with
  | true, some t =>
    let s := match t with
      | some t => s.serviceMove (some t) a.toNat 1
      | none => if (accWord a.toNat).isSome then s else s.useBank (a.toNat / 2 ^ 19 % 256) a.toNat
    let s := s.count 0x9400 0x06 1
    match accWord a.toNat with
    | some k => .next (s.scrubAcc k)
    | none =>
    match decodeStored (s.readWord a.toNat) with
    | .clean _ => .next s
    | .mended _ => .next (s.rewrite a.toNat)
    | .failing _ _ => .next (s.countLog { cls := 3, counter := 0x9400, sub := 0x08, detail := 32 * a.toNat })
  | _, _ => .next s

/-! ## Clearing (R214) -/

/-- Ticks that clearing a range of bytes takes at 30 GB/s, when no plan claims its slots. -/
def clearTicks (bytes : Nat) : Nat := ceilDiv (bytes * 16) 300

/-- Begin to clear a block that leaves a partition. -/
def State.beginClear (s : State) (b : Nat) (by_ : Nat) : State :=
  s.setBlock b { s.block b with clearing := true, clearedBy := some by_, clearUntil := s.wallOf b + 6144 }

/-- Begin to clear the memory of a pseudo-channel that has lost its owner. -/
def State.beginClearChannel (s : State) (c : Nat) : State :=
  s.setChannel c { s.channel c with clearing := true, clearTo := s.town + clearTicks (32 * channelWords), record := [], units := [] }

/-- Free an allocation: it is CLEARING. -/
def State.freeAlloc (s : State) (i : Nat) : State :=
  match s.allocs.find? i with
  | some e => ({ s with allocs := s.allocs.put i { e with state := 2, clearTo := s.town + (if tierOf (e.base / 32) = 1 then clearTicks e.size else 0) } } : State).bump (0x4100 + e.tenant) 0x12
  | none => s

/-- The indices of a partition's objects (R269). -/
def partIndices (p : Nat) : List Nat := [0x4000 + p, 0x5100 + p, 0x5200 + p, 0x5300 + p, 0x5400 + p]

/-- A partition is FREE, its objects at their defaults (R272). -/
def State.freePart (s : State) (p : Nat) : State :=
  let s := s.setPart p {}
  { s with objects := s.objects.filter (fun e => !(partIndices p).contains (e.1 / 256)),
           serving := { s.serving with roots := s.serving.roots.filter (fun e => e.1 != p), leaves := s.serving.leaves.filter (fun e => e.1 != p) } }

/-- A tenant in TEARDOWN whose last allocation is gone is FREE (R290). -/
def State.tenantEnds (s : State) (t : Nat) : State :=
  let x := s.tenant t
  if x.state = 2 ∧ s.allocs.all (fun e => e.2.tenant != t) ∧ s.keys.all (fun e => !(e.2.valid && e.2.tenant == t))
      ∧ s.parts.all (fun e => !(e.2.partState == 1 && e.2.owner == t)) then
    (s.setTenant t { x with state := 0, vfMap := 0, waiting := [] }).bumpWhere [(x.vfMap != 0, 0x4100 + t, 0x03)]
  else s

/-- CLEAR_DONE (R214, R272, R278, R290): the region's last word is written; an allocation of tier 1 is cleared in the slots that its calendar leaves (R187). Of a pseudo-channel, the words that tenants can hold are cleared
(DEDUCED, log 34). -/
def execClearDone (r : Region) (s : State) : Host.Outcome State Fault Refusal :=
  if !s.live then .next s
  else match r with
  | .block b =>
    let x := s.block b.val
    if !x.clearing ∨ s.wallOf b.val < x.clearUntil then .next s
    else
      let s := ((((s.clearRange (tier0 b.val 0) Config.blockWords).wipeBank b.val 0).wipeBank b.val 1).count 0x9400 0x09 20482).setBlock b.val
        { retired := x.retired || x.retiring, passAt := x.passAt, passLate := x.passLate, sliceStep := x.sliceStep, sliceSince := x.sliceSince }
      match x.clearedBy with
      | none => .next s
      | some p =>
        if s.blocks.any (fun e => e.2.clearing && e.2.clearedBy == some p) then .next s
        else .next (if (s.part p).partState = 2 then (s.freePart p).tenantEnds (s.part p).owner else s)
  | .channel c =>
    let x := s.channel c.val
    if !x.clearing ∨ s.town < x.clearTo then .next s
    else
      let s := (s.clearRange (tier1 c.val 0) firmwareWord).setChannel c.val { x with clearing := false, clearTo := 0 }
      .next { s with serving := { s.serving with holders := s.serving.holders.filter (fun e => channelOf (e.1 * frameWords) != c.val) } }
  | .alloc i =>
    match s.allocs.find? i.val with
    | none => .next s
    | some e =>
      if e.state ≠ 2 ∨ s.town < e.clearTo ∨ !s.serviceOpen (e.base / 32) then .next s
      else .next ((({ (s.clearRange (e.base / 32) (e.size / 32)) with allocs := s.allocs.del i.val } : State).bump (0x4100 + e.tenant) 0x12).tenantEnds e.tenant)

end Sys2Proof.Machine
end

