-- ==== Sys2Proof/Machine/Values.lean ====
section
/-! DEFINITION. The values of the objects that are formed from the state of the part, the counters, and their shadows (R14, R243, R269,
R273, R323, R327, R375, R423, R452 to R454, R464, R477, R490, R498, R512). -/
namespace Sys2Proof.Machine

/-- The place of an index in a family of n from a base. -/
def within (index base n : Nat) : Option Nat := if base ≤ index ∧ index < base + n then some (index - base) else none

/-! ## The families -/

/-- The partition whose objects an index holds (R269). -/
def partObject (index : Nat) : Option Nat :=
  ((within index 0x4000 64).orElse fun _ => (within index 0x5100 64).orElse fun _ => (within index 0x5200 64).orElse fun _ =>
    (within index 0x5300 64).orElse fun _ => within index 0x5400 64)

/-- The disabled slot s of a district: that of its fuses, or, from the cold start of a soft repair on, the slot of the retired block, which stood in its
own number while slot 16 was disabled (R9, R13). -/
def State.disabledSlot (s : State) (d : Nat) : Nat :=
  match s.start.repaired.find? (fun b => districtOf b == d) with
  | some b => b % 16
  | none => (Config.fusedSlot d).val

/-- The physical slot of a logical block within its district (R9). -/
def State.physicalSlot (s : State) (b : Nat) : Nat := if b % 16 < s.disabledSlot (districtOf b) then b % 16 else b % 16 + 1

/-- District d has its spare slot left: good by the fuses, and not used for a soft repair (R13, R14). -/
def spareLeft (repaired : List Nat) (d : Nat) : Bool := Config.spareGood d && !repaired.any (fun r => districtOf r == d)

/-- Identity and blocks (R14). -/
def State.formedBlocks (s : State) (sub : Nat) : Option (List Byte) :=
  let gone := (s.blocks.filter (fun e => e.2.retired)).map Prod.fst
  match sub with
  | 0x01 => some (natBytes 2 (256 - gone.length))
  | 0x02 => some (natBytes 32 (gone.foldl (fun a b => a + 2 ^ b) 0))
  | 0x03 => some (natBytes 4 (((List.range 16).filter (spareLeft s.start.repaired)).foldl (fun a d => a + 2 ^ d) 0))
  | _ => none

/-- The partition objects (R269, R391); all but PART_STATE read their defaults while the partition is not LIVE (DEDUCED, log 35). -/
def State.formedPart (s : State) (p sub : Nat) : Option (List Byte) :=
  let x := s.part p
  match sub with
  | 0x01 => some (natBytes 1 x.partState)
  | 0x02 => some (natBytes 32 x.blockMap.toNat)
  | 0x03 => some (natBytes 1 x.owner)
  | 0x07 => some (natBytes 4 (boolBit x.exclusive))
  | 0x08 => some (natBytes 1 x.lead)
  | 0x09 => some x.measured
  | 0x0B => some x.quote
  | 0x1C => some (natBytes 1 (boolBit (s.spareReady p)))
  | _ => none

/-- The root record of the selected second (R267). -/
def State.rootRecord (s : State) (p : Nat) : List Byte :=
  let sec := s.objNat (0x5200 + p) 0x11
  ((s.serving.roots.find? (fun r => r.1 == p && r.2.1 == sec)).map (fun r => r.2.2)).getD []

/-- The generation objects (R258). -/
def State.formedGen (s : State) (p sub : Nat) : Option (List Byte) :=
  let x := s.part p
  match sub with
  | 0x05 => some (natBytes 4 (x.gen0 + 4 * x.gen1))
  | 0x12 => some (s.rootRecord p)
  | _ => none

/-- An allocation entry as it is read (R277). -/
def Alloc.bytes (e : Alloc) : List Byte :=
  natBytes 32 (place 224 8 e.state ||| place 216 8 e.partition ||| place 208 8 e.tenant ||| place 128 64 e.size ||| place 0 56 e.base)

/-- The tenant objects (R273). -/
def State.formedTenant (s : State) (t sub : Nat) : Option (List Byte) :=
  match sub with
  | 0x01 => some (natBytes 1 (s.tenant t).state)
  | 0x03 => some (natBytes 32 (s.tenant t).vfMap.toNat)
  | 0x12 => some ((s.allocs.values.filter (fun e => e.tenant == t)).flatMap Alloc.bytes)
  | _ => none

/-- The port objects (R323). -/
def State.formedPort (s : State) (n sub : Nat) : Option (List Byte) :=
  let x := s.port n
  match sub with
  | 0x01 => some (natBytes 1 x.link)
  | 0x04 => some (natBytes 1 x.txEpoch)
  | 0x05 => some (natBytes 1 x.rxEpoch)
  | 0x06 => some (natBytes 4 x.partner)
  | 0x07 => some (natBytes 1 x.downCause)
  | _ => none

/-- FABRIC_DIGEST (R327). -/
def State.fabricDigest (s : State) : List Byte :=
  sha3 (s.obj 0x7000 0x03 ++ s.obj 0x7000 0x02 ++ s.obj 0x7000 0x01 ++ s.obj 0x7000 0x04 ++ (List.range 6).flatMap (fun n => natBytes 4 (s.port n).partner))

/-- TIME_STATE (R375). -/
def TimeMode.code : TimeMode → Nat
  | .free => 0
  | .root => 1
  | .acquiring => 2
  | .locked => 3
  | .holdover => 4

/-- The time objects (R375). -/
def State.formedTime (s : State) (sub : Nat) : Option (List Byte) :=
  match sub with
  | 0x01 => some (natBytes 8 s.town)
  | 0x02 => some (natBytes 1 s.time.mode.code)
  | 0x05 => some (natBytes 4 (unsigned 32 s.time.adjust))
  | 0x07 => some (natBytes 8 ((s.utcOf s.town).getD 0))
  | 0x08 => some (natBytes 1 (boolBit s.time.utc.isSome))
  | _ => none

/-- The tolerance of a rail but VDD_CORE, in mV (R500). -/
def railTolerance : Nat → Nat × Nat
  | 1 => (735, 765)
  | 2 => (1067, 1133)
  | 3 => (388, 412)
  | 4 => (735, 765)
  | 5 => (1176, 1224)
  | _ => (1710, 1890)

/-- A sensor's thresholds in 0.1 °C: warning, throttle, trip (R506). Sensors 0 to 15 are the districts', 16 to 23 the stacks'. -/
def warnAt (k : Nat) : Int := if k < 16 then 950 else 900
def throttleAt (k : Nat) : Int := if k < 16 then 1050 else 1000
def tripAt (k : Nat) : Int := if k < 16 then 1150 else 1050

/-- THERMAL_STATUS (R512), from the readings last reported (log 62). -/
def Power.status (x : Power) : Nat :=
  (if x.temps.any (fun e => decide (warnAt e.1 ≤ e.2)) then 1 else 0) + (if x.throttle then 2 else 0)
    + (if x.railFault || x.rails.any (fun e => e.1 != 0 && decide (e.2 < (railTolerance e.1).1 ∨ (railTolerance e.1).2 < e.2)) then 4 else 0)



/-- The PCIe port objects (R423). -/
def State.formedPcie (s : State) (h sub : Nat) : Option (List Byte) :=
  let x := s.pcie.get {} h
  match sub with
  | 0x01 => some (natBytes 1 (boolBit x.up))
  | 0x02 => some (natBytes 1 x.rate)
  | 0x03 => some (natBytes 1 x.width)
  | 0x04 => some (natBytes 2 x.numVfs)
  | _ => none

/-- FETCH_STATUS (R423). -/
def FetchEntry.status (e : FetchEntry) : List Byte := natBytes 8 e.got ++ natBytes 1 e.state ++ natBytes 1 e.cause ++ zeros 6

/-- The readers of a counter range besides the Operator and the Vendor: 1 the Fabric manager, 2 tenants (R452). -/
structure Range where
  base    : Nat
  count   : Nat
  first   : Nat
  last    : Nat
  readers : Nat
deriving DecidableEq, Repr

/-- The counter ranges (R452, R498, R513). -/
def counterRanges : List Range :=
  [⟨0x9100, 64, 0x01, 0x13, 2⟩, ⟨0x9200, 256, 0x01, 0x06, 2⟩, ⟨0x9400, 1, 0x01, 0x09, 0⟩, ⟨0x9500, 64, 0x01, 0x0F, 2⟩, ⟨0x9600, 256, 0x01, 0x04, 2⟩,
   ⟨0x9700, 6, 0x01, 0x13, 1⟩, ⟨0x9800, 1, 0x01, 0x0B, 1⟩, ⟨0x9900, 16, 0x01, 0x02, 1⟩, ⟨0x9A00, 1, 0x01, 0x05, 1⟩, ⟨0x9B00, 1, 0x01, 0x07, 1⟩,
   ⟨0x9C00, 2, 0x01, 0x06, 0⟩, ⟨0x9C10, 4, 0x01, 0x02, 0⟩, ⟨0x9C20, 2, 0x01, 0x05, 0⟩, ⟨0x9D00, 1, 0x01, 0x05, 0⟩, ⟨0x9E00, 1, 0x01, 0x06, 0⟩,
   ⟨0x9E10, 1, 0x01, 0x02, 0⟩, ⟨0x9E20, 1, 0x01, 0x04, 0⟩, ⟨0xA000, 1, 0x05, 0x05, 0⟩]

/-- The range a counter lies in. -/
def counterRange (index sub : Nat) : Option Range :=
  counterRanges.find? (fun r => decide (r.base ≤ index ∧ index < r.base + r.count ∧ r.first ≤ sub ∧ sub ≤ r.last))

/-- COUNTER_DIRECTORY (R453). -/
def counterDirectory : List Byte :=
  counterRanges.flatMap (fun r => natBytes 2 r.base ++ natBytes 2 r.count ++ natBytes 1 r.first ++ natBytes 1 r.last ++ natBytes 1 r.readers ++ natBytes 1 0)

/-- SLOT_STATE's code of a slot (R472). -/
def slotCodeOf : SlotState → Nat
  | .empty => 0
  | .unchecked => 1
  | .valid => 2
  | .bad => 3

/-- The firmware objects (R477). -/
def State.formedFirmware (s : State) (sub : Nat) : Option (List Byte) :=
  match sub, s.card with
  | 0x01, some c => some (natBytes 4 (slotCodeOf c.slotA.state + 4 * slotCodeOf c.slotB.state + 16 * c.active.val))
  | 0x02, _ => some (natBytes 4 ((s.start.image.map (fun i => i.version.toNat)).getD 0))
  | _, _ => none

/-- POWER_STATE (R503). -/
def State.powerState (s : State) : Nat :=
  if s.mode = .parked ∨ s.freeze.parked then 2 else if s.parts.all (fun e => e.2.partState == 0 || e.2.stepState == .idle) then 1 else 0

/-- PASS_AGE (R498). -/
def State.passAge (s : State) : List Byte :=
  (List.range 256).flatMap (fun b => natBytes 4 (if (s.block b).passAt = 0 then 0xFFFFFFFF
    else min 0xFFFFFFFE ((s.town - (s.block b).passAt) / Config.ticksPerSecond)))

/-- The power objects (R512). -/
def State.formedPower (s : State) (sub : Nat) : Option (List Byte) :=
  match sub with
  | 0x01 => some (natBytes 1 s.powerState)
  | 0x05 => some (natBytes 2 s.power.watts)
  | 0x06 => some (natBytes 1 s.power.floor)
  | _ => none

/-- The freeze objects (R490). -/
def State.formedFreeze (s : State) (sub : Nat) : Option (List Byte) :=
  match sub with
  | 0x04 => some (natBytes 1 s.freeze.state)
  | 0x05 => some (natBytes 1 s.freeze.cause)
  | 0x06 => some (natBytes 8 s.freeze.time)
  | _ => none

/-- SNAPSHOT_STATE (R492). -/
def State.snapshotState (s : State) : Nat :=
  match s.snapshot.due with
  | none => 0
  | some t => if s.town < t then 1 else 2

/-- The state of a key-table entry (R279). -/
def State.keyState (s : State) (i : Nat) : List Byte := natBytes 4 (256 * boolBit (s.key i).valid + (s.key i).tenant)

/-- The value of an object that is formed from the state; none where it is kept as a value of its own. -/
def State.formed (s : State) (index sub : Nat) : Option (List Byte) :=
  if index = 0x1010 then s.formedBlocks sub
  else if index = 0x2100 then s.formedFirmware sub
  else if index = 0x2300 then (if sub = 0x03 then some (s.start.values.flatMap (fun e => natBytes 2 (e.1 / 256) ++ natBytes 1 (e.1 % 256))) else none)
  else if index = 0x3000 then s.formedTime sub
  else if index = 0x3200 then s.formedPower sub
  else if index = 0x3230 then some (natBytes 4 s.power.status)
  else if index = 0x5000 then (if sub = 0x01 then some (natBytes 2 s.residents) else if sub = 0x02 then some (natBytes 4 s.parkeds) else none)
  else if index = 0x7000 then (if sub = 0x05 then some s.fabricDigest else none)
  else if index = 0x8100 then (if sub = 0x03 then some (s.fetch.flatMap FetchEntry.status) else none)
  else if index = 0x9000 then (if sub = 0x01 then some counterDirectory else if sub = 0x03 then some (natBytes 8 s.snapshot.time) else none)
  else if index = 0x9F00 then (if sub = 0x02 then some (natBytes 1 s.snapshotState) else none)
  else if index = 0xA000 then (if sub = 0x01 then some (natBytes 4 s.log.first) else if sub = 0x02 then some (natBytes 4 s.log.next) else none)
  else if index = 0xB000 then (if sub = 0x04 then some s.passAge else none)
  else if index = 0x2200 then some ((s.card.map (fun c => c.options)).getD [])
  else if index = 0xB100 then s.formedFreeze sub
  else if index = 0xC000 then (if sub = 0x03 then some (transportEk s.start.starts) else if sub = 0x07 then some ((s.start.image.map (fun i => i.vendorPk)).getD []) else none)
  else match within index 0x4000 64 with
    | some p => s.formedPart p sub
    | none => match within index 0x4100 256 with
      | some t => s.formedTenant t sub
      | none => match within index 0x5200 64 with
        | some p => s.formedGen p sub
        | none => match within index 0x7100 6 with
          | some n => s.formedPort n sub
          | none => match within index 0x7200 64 with
            | some j => if sub = 0x01 then some (natBytes 1 (s.job j).state) else none
            | none => match within index 0x3010 16 with
              | some d => some (natBytes 1 (s.settingOf d))
              | none => match within index 0x3210 16 with
                | some d => some (natBytes 2 (unsigned 16 (s.power.temps.get 0 d)))
                | none => match within index 0x3220 8 with
                  | some k => some (natBytes 2 (unsigned 16 (s.power.temps.get 0 (16 + k))))
                  | none => match within index 0x3300 7 with
                    | some r => if sub = 0x01 then some (natBytes 2 (s.power.rails.get 0 r)) else some (natBytes 2 s.power.target)
                    | none => match within index 0x8000 2 with
                      | some h => s.formedPcie h sub
                      | none => match within index 0xC011 4095 with
                        | some i => if sub = 0x01 ∧ i ≠ 15 then some (s.keyState (i + 1)) else none
                        | none => none

/-- The value of an object as a READ in the LIVE view returns it: a counter's live value, the default of an object of a partition that is not
LIVE (R269), or the value in force. -/
def State.value (s : State) (index sub : Nat) : List Byte :=
  if (counterRange index sub).isSome then natBytes 8 (s.counter index sub)
  else match partObject index with
    | some p =>
      if (s.part p).partState = 1 ∨ (index = 0x4000 + p ∧ sub = 0x01) then (s.formed index sub).getD (s.obj index sub)
      else ((objFind index sub).map ObjEntry.dflt).getD []
    | none => (s.formed index sub).getD (s.obj index sub)

end Sys2Proof.Machine
end

