-- ==== Sys2Proof/Machine/Cdp.lean ====
section
/-! DEFINITION. The Caeth Dictionary Protocol (R425 to R447): messages, sessions, the arrival of requests, their execution in the order of
the queue, the checks of R443, and the answers. The acts of the single objects are in the files of their chapters. -/
namespace Sys2Proof.Machine

/-! ## Messages (R425) -/

def cMsg (l : List Byte) : Nat := leAt l 0 1
def cVersion (l : List Byte) : Nat := leAt l 1 1
def cTid (l : List Byte) : Nat := leAt l 2 2
def cSession (l : List Byte) : Nat := leAt l 4 2
def cType (l : List Byte) : Nat := leAt l 6 1
def cStatus (l : List Byte) : Nat := leAt l 7 1
def cIndex (l : List Byte) : Nat := leAt l 8 2
def cSub (l : List Byte) : Nat := leAt l 10 1
def cFlags (l : List Byte) : Nat := leAt l 11 1
def cBlen (l : List Byte) : Nat := leAt l 12 4 % 1024
def cCount (l : List Byte) : Nat := leAt l 16 4
def cOffset (l : List Byte) : Nat := leAt l 20 4
def cObjVersion (l : List Byte) : Nat := leAt l 24 4
def cTotal (l : List Byte) : Nat := leAt l 28 4
def cBody (l : List Byte) : List Byte := slice l 32 (cBlen l)
/-- LAST: this chunk completes the value. -/
def cLast (l : List Byte) : Bool := cFlags l % 2 == 1

/-- The bytes of a message with a body of n bytes. -/
def messageLength (n : Nat) : Nat := 64 + 32 * ceilDiv n 32

/-- The transport's length agrees with R425. -/
def cLengthOk (l : List Byte) : Bool := decide (64 ≤ l.length ∧ l.length ≤ 512) && l.length == messageLength (cBlen l)

/-- The tag of a message under a session key (R434). -/
def cdpTag (key covered : List Byte) : List Byte := kmac256 key covered 256 (ascii "CAETH-CDP-MAC")

/-- The tag that a message carries, and the one it should. -/
def cTag (l : List Byte) : List Byte := l.drop (l.length - 32)
def tagHolds (key : Option (List Byte)) (l : List Byte) : Bool :=
  match key with
  | none => cTag l == zeros 32
  | some k => cTag l == cdpTag k (l.take (l.length - 32))

/-- The fields of a message that the part makes. -/
structure Fields where
  msg     : Nat
  tid     : Nat := 0
  session : Nat := 0
  type    : Nat := 0
  status  : Nat := 0
  index   : Nat := 0
  sub     : Nat := 0
  flags   : Nat := 0
  count   : Nat := 0
  offset  : Nat := 0
  version : Nat := 0
  total   : Nat := 0
  body    : List Byte := []
deriving DecidableEq, Repr

/-- The message of some fields, tagged by a key or by zeros (R425, R434). -/
def Fields.bytes (f : Fields) (key : Option (List Byte)) : List Byte :=
  let covered := natBytes 1 f.msg ++ natBytes 1 1 ++ natBytes 2 f.tid ++ natBytes 2 f.session ++ natBytes 1 f.type ++ natBytes 1 f.status
    ++ natBytes 2 f.index ++ natBytes 1 f.sub ++ natBytes 1 f.flags ++ natBytes 4 f.body.length ++ natBytes 4 f.count ++ natBytes 4 f.offset
    ++ natBytes 4 f.version ++ natBytes 4 f.total ++ f.body ++ zeros (32 * ceilDiv f.body.length 32 - f.body.length)
  covered ++ (match key with
    | none => zeros 32
    | some k => cdpTag k covered)

/-! ## The answers (R443) -/

def cdpOk : Nat := 0x00
def cdpMalformed : Nat := 0x01
def cdpNoObject : Nat := 0x02
def cdpType : Nat := 0x03
def cdpAccess : Nat := 0x04
def cdpRights : Nat := 0x05
def cdpRange : Nat := 0x06
def cdpState : Nat := 0x07
def cdpBusy : Nat := 0x08
def cdpAuth : Nat := 0x09
def cdpStale : Nat := 0x0A
def cdpNoSession : Nat := 0x0B
def cdpOffset : Nat := 0x0C

/-- The counter that a refusal advances (R445). -/
def refusalSub (code : Nat) : Nat := if code = cdpMalformed then 0x02 else if code = cdpAuth then 0x03 else 0x04

/-! ## Sources and sessions (R435, R437) -/

/-- Two requests come from one source: a function, a MAC address, or an endpoint. -/
def Source.same : Source → Source → Bool
  | .mailbox f, .mailbox g => f == g
  | .frame a, .frame b => a == b
  | .avenue _ a _ _, .avenue _ b _ _ => a == b
  | _, _ => false

/-- The session that a message names, if it is open on its source (R443). -/
def State.sessionOf (s : State) (src : Source) (l : List Byte) : Option Session :=
  if cSession l = 0 then none else (s.cdp.sessions.find? (cSession l)).filter (fun x => x.source.same src)

def State.setSession (s : State) (i : Nat) (x : Session) : State := { s with cdp := { s.cdp with sessions := s.cdp.sessions.put i x } }

/-! ## Sending -/

/-- A message goes to a source: into the mailbox's RESP area, in a frame, or in a CDP_RESP packet (R427 to R429). -/
def State.deliverReply (s : State) (dest_ : Source) (m : List Byte) : State :=
  match dest_ with
  | .mailbox f =>
    let s := s.setFn f { s.fn f with resp := m, respReady := true }
    (s.emit (.mailbox f m)).emit (.msix f 1)
  | .frame a => s.emit (.frame a m)
  | .avenue _ e r ep => s.sendService { type := 0x2D, dst := e, src := 0, rtag := r, epoch := ep } (asPayload (bytesWords (m.length / 32) m)) none

/-- What an answer carries beside its status. -/
structure Answer where
  body    : List Byte := []
  type    : Nat := 0
  pending : Bool := false
  version : Nat := 0
  total   : Nat := 0
  offset  : Nat := 0
  opened  : Option Nat := none
deriving DecidableEq, Repr

/-- The fields of a reply to a request (R425). -/
def replyFields (l : List Byte) (status count : Nat) (a : Answer) : Fields :=
  { msg := cMsg l % 128 + 128, tid := cTid l, session := a.opened.getD (cSession l), type := a.type, status := status, index := cIndex l, sub := cSub l,
    flags := if a.pending then 4 else 0, count := count, offset := a.offset, version := a.version, total := a.total, body := a.body }

/-- Answer a request: tagged and counted in its session, untagged in session 0; an executed request's reply is stored, and the last
8 are kept (R435, R436, R443). -/
def State.replyTo (s : State) (src : Source) (l : List Byte) (status : Nat) (a : Answer) (store : Bool) : State :=
  match s.sessionOf src l with
  | none => s.deliverReply src ((replyFields l status 0 a).bytes none)
  | some x =>
    let n := (x.outCount + 1) % 2 ^ 32
    let m := (replyFields l status n a).bytes (some x.key)
    let kept := if store then (x.replies ++ [(cTid l, cCount l, m)]) else x.replies
    let s := s.setSession (cSession l) { x with outCount := n, replies := kept.drop (kept.length - 8) }
    s.deliverReply src m

/-- The last town time at which an entry of a list by source was written. -/
def lastFor (src : Source) (l : List (Source × Nat)) : Option Nat := (l.find? (fun e => e.1.same src)).map Prod.snd

/-- A reply of AUTH or NO_SESSION: untagged in session 0, at most one a second for each source (R443). -/
def State.replyBare (s : State) (src : Source) (l : List Byte) (status : Nat) : State :=
  let recent : Bool := match lastFor src s.cdp.auth0 with
    | some t => decide (s.town < t + Config.ticksPerSecond)
    | none => false
  if recent then s
  else
    let s := { s with cdp := { s.cdp with auth0 := (src, s.town) :: s.cdp.auth0.filter (fun e => !e.1.same src) } }
    s.deliverReply src ({ replyFields l status 0 {} with session := 0 }.bytes none)

/-- A refusal of order 1 to 5: counted, and logged at the log's rate (R443). -/
def State.refuseEarly (s : State) (src : Source) (l : List Byte) (code : Nat) : State :=
  let s := s.countLog { cls := 11, counter := 0x9D00, sub := refusalSub code, status := code, detail := cIndex l * 65536 + cSub l * 256 + cMsg l }
  if code = cdpAuth ∨ code = cdpNoSession then s.replyBare src l code else s.replyTo src l code {} false

/-! ## Arrival: orders 1 to 5 of R443 -/

/-- The management core executes requests: not while the part is off or starting. -/
def State.cdpRuns (s : State) : Bool := s.mode != .off && s.mode != .starting

/-- The requests of one session, or of one source in session 0, in the queue. -/
def State.queuedFor (s : State) (src : Source) (sid : Nat) : Nat :=
  (s.cdp.queue.filter (fun e => cSession e.2 == sid && (sid != 0 || e.1.same src))).length

/-- The fields of a request that must be zero, or have a range, in its MSG (R425, R443; OBJ_VERSION, TOTAL and PENDING: DEDUCED, log 26). -/
def formOk (l : List Byte) : Bool :=
  let m := cMsg l
  let block := m == 4 || m == 5
  cVersion l == 1 && decide (1 ≤ m ∧ m ≤ 5) && cStatus l == 0 && decide (leAt l 12 4 < 1024) && decide (cBlen l ≤ 448) && (cFlags l == 0 || (cFlags l == 1 && m == 5))
    && (block || cOffset l == 0) && cObjVersion l == 0 && (if m == 4 then decide (1 ≤ cTotal l ∧ cTotal l ≤ 448) && cBlen l == 0 else cTotal l == 0)
    && (slice l (32 + cBlen l) (l.length - 64 - cBlen l)).all (· == 0#8)

/-- Count a request against the rate of its session, or of its source in session 0; none where the rate is used up (R440). -/
def State.rated (s : State) (src : Source) (l : List Byte) : Option State :=
  let sec := s.town / Config.ticksPerSecond
  match s.sessionOf src l with
  | some x =>
    let n := if x.second = sec then x.inSecond else 0
    if 1000 ≤ n then none else some (s.setSession (cSession l) { x with second := sec, inSecond := n + 1 })
  | none =>
    let n := match s.cdp.rate0.find? (fun e => e.1.same src) with
      | some (_, t, n) => if t = sec then n else 0
      | none => 0
    if 64 ≤ n then none else some { s with cdp := { s.cdp with rate0 := (src, sec, n + 1) :: s.cdp.rate0.filter (fun e => !e.1.same src) } }

/-- A failed tag: the sixteenth in a row closes the session (R438). -/
def State.tagFails (s : State) (src : Source) (l : List Byte) : State :=
  match s.sessionOf src l with
  | none => s
  | some x => if 15 ≤ x.authFails then s.closeSession (cSession l) true else s.setSession (cSession l) { x with authFails := x.authFails + 1 }

/-- A request arrives and is put in the queue, answered from the stored replies, or refused (R436, R439, R440, R443). -/
def State.arrive (s : State) (src : Source) (l : List Byte) : State :=
  if !cLengthOk l then
    s.refuseEarly src (natBytes 1 (cMsg l) ++ natBytes 7 0 ++ natBytes 2 (cIndex l) ++ natBytes 1 (cSub l)) cdpMalformed
  else if cSession l ≠ 0 ∧ (s.sessionOf src l).isNone then s.refuseEarly src l cdpNoSession
  else if !tagHolds ((s.sessionOf src l).map Session.key) l then (s.refuseEarly src l cdpAuth).tagFails src l
  else
    let s := match s.sessionOf src l with
      | some x => s.setSession (cSession l) { x with authFails := 0 }
      | none => s
    let stored : Option (List Byte) := (s.sessionOf src l).bind (fun x => (x.replies.find? (fun e => e.1 == cTid l && e.2.1 == cCount l)).map (fun e => e.2.2))
    let stale : Bool := match s.sessionOf src l with
      | some x => decide (cCount l ≤ x.lastCount)
      | none => false
    match stored with
    | some m => s.deliverReply src m
    | none =>
      if stale then s.refuseEarly src l cdpStale
      else if !formOk l then s.refuseEarly src l cdpMalformed
      else if 8 ≤ s.queuedFor src (cSession l) then s.refuseEarly src l cdpBusy
      else match s.rated src l with
        | none => s.refuseEarly src l cdpBusy
        | some s =>
          let s := match s.sessionOf src l with
            | some x => s.setSession (cSession l) { x with lastCount := cCount l, lastAt := s.town }
            | none => s
          { s with cdp := { s.cdp with queue := s.cdp.queue ++ [(src, l)] } }

/-- The words of a packet's payload as a message; none where a word fails its check (R322). -/
def Packet.message (p : Packet) : Option (List Byte) := ((List.range p.len).mapM p.goodWord).map wordsBytes

/-- Take the requests that avenue packets have brought into the queue, in their order; those of link sessions stay for NOTIFY (R429, R441). -/
def State.pullRequests (s : State) : Nat → State
  | 0 => s
  | fuel + 1 =>
    match s.takeArrived (fun p => p.type == 0x2C && leAt (wordBytes (p.word 0)) 4 2 != 0xFFFF) with
    | none => s
    | some (n, p, s) =>
      let s := match p.message with
        | some m => s.arrive (.avenue n p.src p.rtag p.origEpoch) m
        | none => s
      s.pullRequests fuel

/-! ## Rights (R446) -/

/-- A request as an act sees it: its source, session, role (0 in session 0) and tenant, and the fields it carries; `value` is the whole value. -/
structure Ask where
  src    : Source
  sid    : Nat
  role   : Nat
  tenant : Nat
  msg    : Nat
  index  : Nat
  sub    : Nat
  tid    : Nat
  type   : Nat
  offset : Nat
  total  : Nat
  last   : Bool
  value  : List Byte
deriving DecidableEq, Repr

/-- The request reads. -/
def Ask.reads (a : Ask) : Bool := a.msg == 1 || a.msg == 4

/-- A session's read of 0xC020:01 is of the state of key 16, whose object falls on the index of the session objects (R279; DEDUCED, log 36). -/
def Ask.readsKey16 (a : Ask) : Bool := a.role != 0 && a.reads && a.index == 0xC020 && a.sub == 0x01

/-- The value as a number. -/
def Ask.num (a : Ask) : Nat := leNat a.value

/-- The objects of a session of its own (R447), reached by every role. -/
def ownObject (index sub : Nat) : Bool := (index == 0xC020 && (sub == 0x03 || sub == 0x04)) || (index == 0x9000 && sub == 0x02)

/-- What every role and session 0 may read (R434, R451). -/
def openRead (index sub : Nat) : Bool := index == 0x1000 || (index == 0xC000 && decide (sub ≤ 0x03))

/-- What session 0 allows (R434). -/
def mayUnopened (msg index sub : Nat) : Bool :=
  ((msg == 1 || msg == 4) && openRead index sub) || (index == 0xC020 && (sub == 0x01 || sub == 0x02) && (msg == 3 || msg == 4 || msg == 5))

/-- What the Fabric manager reaches (R446). -/
def mayFabric (reads : Bool) (index sub : Nat) : Bool :=
  ownObject index sub || (index == 0x9000 && reads)
    || (if reads then index == 0x1000 || index == 0x1010 || index == 0x3000 || (within index 0x3010 16).isSome || (within index 0x3100 6).isSome
          || decide (0x7000 ≤ index ∧ index ≤ 0x72FF) || (match counterRange index sub with
            | some r => r.readers % 2 == 1
            | none => false)
        else (index == 0x7000) || (within index 0x7100 6).isSome || ((within index 0x7200 64).isSome && sub != 0x0A)
          || (index == 0x3000 && (sub == 0x03 || sub == 0x04)) || ((within index 0x3100 6).isSome && sub == 0x01) || (index == 0xC000 && sub == 0x06)
          || (index == 0xC020 && sub == 0x05) || (index == 0x9F00 && sub == 0x01) || (index == 0xB100 && (sub == 0x02 || sub == 0x03)))

/-- Tenant t is admitted to a LIVE partition. -/
def State.admits (s : State) (p t : Nat) : Bool := (s.part p).partState == 1 && s.owns p t

/-- What Tenant t reaches (R446), by the rules that grant it: R164, R219, R267, R269, R273, R279, R423 and the readers of R452. -/
def State.mayTenant (s : State) (t : Nat) (reads : Bool) (index sub : Nat) : Bool :=
  ownObject index sub || (reads && (openRead index sub || index == 0x1010 || index == 0x9000 || (index == 0x3000 && (sub == 0x01 || sub == 0x07))))
    || (index == 0x4100 + t && (sub == 0x04 || sub == 0x05 || (if reads then sub == 0x12 else sub == 0x06 || sub == 0x07)))
    || (index == 0x8100 && !reads && (sub == 0x01 || sub == 0x02))
    || (match within index 0x4000 64 with
      | some p => (sub == 0x18 || (sub == 0x11 && reads)) && (s.part p).partState == 1 && (s.part p).owner == t
          || ((sub == 0x0A && !reads) || (sub == 0x0B && reads)) && s.admits p t
      | none => false)
    || (match within index 0x5200 64 with
      | some p => (sub == 0x11 || (sub == 0x12 && reads)) && s.admits p t
      | none => false)
    || (match within index 0xC011 4095 with
      | some i => reads && sub == 0x01 && (s.key (i + 1)).valid && (s.key (i + 1)).tenant == t
      | none => false)
    || (reads && (match counterRange index sub with
      | some r =>
        let i := index - r.base
        if r.base = 0x9100 then (s.part i).partState == 1 && (s.part i).owner == t
        else if r.base = 0x9200 then (let p := s.objNat (0x6100 + i) 0x01
          decide (p < 64) && (s.part p).partState == 1 && (s.part p).owner == t)
        else if r.base = 0x9500 then s.admits i t
        else r.base == 0x9600 && i == t
      | none => false))

/-- The requester is on a PF0 mailbox. -/
def Source.isPf0 : Source → Bool
  | .mailbox f => f.fn.val == 0
  | _ => false

/-- The role may perform this operation on the object (R443 order 7, R446, R460). -/
def State.mayReach (s : State) (a : Ask) : Bool :=
  let unopened := a.index == 0xC020 && (a.sub == 0x01 || a.sub == 0x02) && !a.readsKey16
  if a.role = 0 then mayUnopened a.msg a.index a.sub
  else if unopened then false
  else if a.role = 3 then s.mayTenant a.tenant a.reads a.index a.sub
  else if a.role = 2 then mayFabric a.reads a.index a.sub
  else if 0xF000 ≤ a.index then a.role == 4
  else if a.index = 0xC000 ∧ a.sub = 0x04 ∧ !a.reads then a.src.isPf0
  else if a.index = 0x2300 ∧ a.sub = 0x04 then a.role == 4
  else true

/-! ## Execution: orders 6 to 12 -/

/-- What an act leaves: the state, the body of its reply, a session opened, and whether the requesting session closes after the reply. -/
structure Done where
  s      : State
  body   : List Byte := []
  opened : Option Nat := none
  close  : Bool := false

/-- The entry of an object; the vendor range holds BLOBs (R460). -/
def objectAt (index sub : Nat) : Option ObjEntry :=
  if 0xF000 ≤ index then some { base := index, count := 1, sub := sub, subs := 1, name := "VENDOR", type := .blob, access := .rw, fixed := 0, dflt := [] }
  else objFind index sub

/-- The object that a request is about. -/
def Ask.entry (a : Ask) : Option ObjEntry :=
  if a.readsKey16 then some { base := 0xC020, count := 1, sub := 0x01, subs := 1, name := "KEY_STATE", type := .bits32, access := .r, fixed := 4, dflt := natBytes 4 0 }
  else objectAt a.index a.sub

/-- The access kind allows the message (R431). -/
def accessAllows (k : ObjAccess) (msg : Nat) : Bool :=
  match k with
  | .r => msg == 1 || msg == 4
  | .w => msg == 2 || msg == 5
  | .rw => msg != 3
  | .rwb => msg != 3
  | .x => msg == 3 || msg == 5

/-- A firmware slot's image object, whose chunks are not staged (R433). -/
def slotImage (index sub : Nat) : Bool := index == 0x2100 && (sub == 0x10 || sub == 0x11)

/-- A session object (R447). -/
def sessionObject (index sub : Nat) : Bool := (index == 0xC020 && sub == 0x04) || (index == 0x9000 && sub == 0x02) || (index == 0xA000 && sub == 0x03)

/-- The value that a READ returns in a session: session objects, shadows, and the values of the part (R447, R454). -/
def State.readValue (s : State) (a : Ask) : Except Nat (List Byte) :=
  let x := s.cdp.sessions.find? a.sid
  let shadow : Bool := match x with
    | some x => x.view == 1
    | none => false
  if shadow && ((counterRange a.index a.sub).isSome || (a.index == 0x9000 && a.sub == 0x03)) then
    if s.snapshot.due.isSome then .error cdpState
    else if a.index = 0x9000 then .ok (s.value a.index a.sub)
    else .ok (natBytes 8 (s.shadows.get 0 (objKey a.index a.sub)))
  else if a.readsKey16 then .ok (s.keyState 16)
  else if sessionObject a.index a.sub then
    .ok (match x with
      | some x => if a.index = 0xC020 then natBytes 4 x.subscribe else if a.index = 0x9000 then natBytes 1 x.view else natBytes 4 x.logSelect
      | none => [])
  else if 0xF000 ≤ a.index then .ok (Config.vendorObject (objKey a.index a.sub))
  else .ok (s.value a.index a.sub)

/-- A written value waits for its step boundary (R431). -/
def State.isPending (s : State) (index sub : Nat) : Bool :=
  match partObject index with
  | some p => (s.part p).newObjects.any (fun w => w.key == objKey index sub)
  | none => false

/-- An object's change count (R432); that of a value which time itself changes counts its changes. -/
def State.versionOf (s : State) (index sub : Nat) : Nat :=
  let n := s.versions.get 0 (objKey index sub)
  if index = 0x3000 ∧ sub = 0x01 then (n + s.town) % 2 ^ 32
  else if index = 0xB000 ∧ sub = 0x04 then (n + (if s.blocks.any (fun e => e.2.passAt != 0) then s.town / Config.ticksPerSecond else 0)) % 2 ^ 32
  else if index = 0x3000 ∧ sub = 0x07 then (n + (if s.time.utc.isSome then s.town / Config.ticksPerUs else 0)) % 2 ^ 32
  else n

/-- The answer about an object, without its body. -/
def State.answerAbout (s : State) (index sub : Nat) : Answer :=
  match objectAt index sub with
  | none => {}
  | some e => { type := e.type.code, pending := s.isPending index sub, version := s.versionOf index sub }

/-- The answer about the object of a request that is carried out. -/
def State.answerAsk (s : State) (a : Ask) : Answer :=
  let about := s.answerAbout a.index a.sub
  match a.entry with
  | none => about
  | some e => { about with type := e.type.code }

/-- Conditions that refuse a request with STATE whatever its object's own rule says: the part is FROZEN (R483) or in RECOVERY (R476), the
partition is not LIVE (R269), or a partition is LIVE while a vendor object is written (R460). -/
def State.stateBars (s : State) (a : Ask) : Bool :=
  let write := !a.reads
  let part := (partObject a.index).orElse (fun _ => if a.sub = 0x20 then within a.index 0x9100 64 else none)
  (write && s.freeze.state == 2 && !(a.index == 0xB100 && (a.sub == 0x03 || a.sub == 0x07)))
    || (s.mode == .recovery && !(a.index == 0x1000 || a.index == 0x2000 || a.index == 0x2100 || a.index == 0xC020))
    || (write && decide (0xF000 ≤ a.index) && s.parts.any (fun e => e.2.partState == 1))
    || (write && !(a.sub == 0x05 && (within a.index 0x4000 64).isSome) && (match part with
      | some p => (s.part p).partState != 1
      | none => false))

/-- Sources that RECOVERY serves: PF0 mailboxes and the management port, in session 0 or an Operator session (R476). -/
def State.serves (s : State) (a : Ask) : Bool :=
  s.mode != .recovery || ((a.role == 0 || a.role == 1) && (a.src.isPf0 || (match a.src with
    | .frame _ => true
    | _ => false)))

/-- BOOL values are 0 or 1, and a BOOL command is 1 (R430, R431). -/
def boolBad (e : ObjEntry) (a : Ask) : Bool :=
  !a.reads && e.type == .bool && (if e.access == .x then a.value != [1#8] else decide (1 < a.num))

/-- Orders 6 to 9 of R443 for a request whose value has the given length; `whole` is false of a chunk that does not complete its value. -/
def State.objectCause (s : State) (a : Ask) (blen : Nat) (whole : Bool) : Option Nat :=
  match a.entry with
  | none => some cdpNoObject
  | some e =>
    if !s.mayReach a then some cdpRights
    else if !accessAllows e.access a.msg then some cdpAccess
    else if !(a.type == e.type.code || (a.type == 0 && a.msg == 1)) then some cdpType
    else if a.reads && blen != 0 then some cdpType
    else if !a.reads && whole && e.fixed != 0 && blen != e.fixed then some cdpType
    else none

/-- The ask of a message. -/
def State.askOf (s : State) (src : Source) (l : List Byte) : Ask :=
  let x := s.sessionOf src l
  { src := src, sid := cSession l, role := (x.map Session.role).getD 0, tenant := (x.map Session.tenant).getD 0, msg := cMsg l, index := cIndex l, sub := cSub l,
    tid := cTid l, type := cType l, offset := cOffset l, total := cTotal l, last := cLast l, value := cBody l }

/-- Refuse a request at its execution: orders 6 to 12 (R443). -/
def State.refuseLate (s : State) (src : Source) (l : List Byte) (code : Nat) : State :=
  (s.count 0x9D00 (refusalSub code) 1).replyTo src l code (s.answerAbout (cIndex l) (cSub l)) true

/-- Answer a request that its act has carried out: a write advances the object's OBJ_VERSION (R432), and a session that it closes closes after the
reply (R438). -/
def Done.answer (d : Done) (l : List Byte) (a : Ask) : State :=
  let s := if a.reads then d.s else d.s.bump a.index a.sub
  let about := s.answerAsk a
  let block := a.msg == 4
  let s := s.replyTo a.src l cdpOk { about with body := if block then slice d.body a.offset (min a.total (d.body.length - a.offset)) else d.body,
                                                total := if block then d.body.length else 0, offset := if block || a.msg == 5 then a.offset else 0, opened := d.opened } true
  if d.close then s.closeSession a.sid true else s

/-- Run an act under the checks of orders 11 and 12, and answer (R432, R443). A range is judged before the state. -/
def State.perform (s : State) (l : List Byte) (a : Ask) (act : State → Ask → Except Nat Done) : State :=
  match a.entry with
  | none => s.refuseLate a.src l cdpNoObject
  | some e =>
    if boolBad e a then s.refuseLate a.src l cdpRange
    else
      let barred := s.stateBars a || !s.serves a
      match act s a with
      | .error c => s.refuseLate a.src l (if barred && c != cdpRange && c != cdpType then cdpState else c)
      | .ok d =>
        if barred then s.refuseLate a.src l cdpState else d.answer l a

/-! ## Staging (R433) -/

/-- The staging of a session, or of a source in session 0. -/
def State.stagingOf (s : State) (src : Source) (sid : Nat) : Option Staging :=
  if sid = 0 then (s.cdp.stage0.find? (fun e => e.1.same src)).map Prod.snd else (s.cdp.sessions.find? sid).bind Session.staging

def State.setStaging (s : State) (src : Source) (sid : Nat) (v : Option Staging) : State :=
  if sid = 0 then
    let rest := s.cdp.stage0.filter (fun e => !e.1.same src)
    { s with cdp := { s.cdp with stage0 := match v with
      | some g => (src, g) :: rest
      | none => rest } }
  else match s.cdp.sessions.find? sid with
    | some x => s.setSession sid { x with staging := v }
    | none => s

/-- The stagings of the part. -/
def State.stagings (s : State) : Nat := s.cdp.stage0.length + (s.cdp.sessions.filter (fun e => e.2.staging.isSome)).length

/-- A WRITE_BLOCK chunk of an object that is staged (R433): staged, or the whole value given to the act. -/
def State.takeChunk (s : State) (l : List Byte) (a : Ask) (act : State → Ask → Except Nat Done) : State :=
  let key := objKey a.index a.sub
  let s := match s.stagingOf a.src a.sid with
    | some g => if g.key = key then s else s.setStaging a.src a.sid none
    | none => s
  let held := s.stagingOf a.src a.sid
  if held.isNone && decide (4 ≤ s.stagings) then s.refuseEarly a.src l cdpBusy
  else match s.objectCause a a.value.length false with
    | some c => s.refuseLate a.src l c
    | none =>
      let had := (held.map Staging.bytes).getD []
      let all := had ++ a.value
      if a.offset ≠ had.length then (s.setStaging a.src a.sid none).refuseLate a.src l cdpOffset
      else if 262144 < all.length then (s.setStaging a.src a.sid none).refuseLate a.src l cdpType
      else if a.last then
        let s := s.setStaging a.src a.sid none
        match s.objectCause a all.length true with
        | some c => s.refuseLate a.src l c
        | none => s.perform l { a with value := all } act
      else
        let s := s.setStaging a.src a.sid (some { key := key, bytes := all, at_ := s.town })
        s.replyTo a.src l cdpOk { s.answerAbout a.index a.sub with offset := a.offset } true

/-! ## The rows -/

/-- Execute a request that has left the queue (R439): its session may have closed meanwhile. -/
def State.execute (s : State) (src : Source) (l : List Byte) (act : State → Ask → Except Nat Done) : State :=
  if cSession l ≠ 0 ∧ (s.sessionOf src l).isNone then s.refuseEarly src l cdpNoSession
  else
    let s := (s.count 0x9D00 0x01 1).deliverCdp (cIndex l)
    let a := s.askOf src l
    if a.msg = 5 ∧ !slotImage a.index a.sub then s.takeChunk l a act
    else match s.objectCause a (cBlen l) (!slotImage a.index a.sub) with
      | some c => s.refuseLate src l c
      | none =>
        if a.reads then
          match s.readValue a with
          | .error c => s.refuseLate src l c
          | .ok v =>
            if a.msg = 4 ∧ v.length ≤ a.offset then s.refuseLate src l cdpOffset
            else if a.msg = 1 ∧ 448 < v.length then s.refuseLate src l cdpType
            else s.perform l a act
        else s.perform l a act

/-- What a row takes: the message's MSG, INDEX and SUB. -/
abbrev Mine := Nat → Nat → Nat → Bool

/-- The request at the head of the queue is executed if it is this row's. -/
def State.runHead (s : State) (mine : Mine) (act : State → Ask → Except Nat Done) : State :=
  match s.cdp.queue with
  | [] => s
  | (src, l) :: t => if mine (cMsg l) (cIndex l) (cSub l) then { s with cdp := { s.cdp with queue := t } }.execute src l act else s

/-- A row of the dictionary: it executes the request at the head of the management core's queue if that is its own. A frame of the
management port arrives first, and is executed at once if nothing waits before it (R428, R439). -/
def State.cdpRow (s : State) (via : Via) (mine : Mine) (act : State → Ask → Except Nat Done) : State :=
  if !s.cdpRuns then s
  else match via with
    | .head => (s.pullRequests s.arrived.length).runHead mine act
    | .frame mac bytes =>
      let t := s.arrive (.frame mac.toNat) bytes
      if s.cdp.queue.isEmpty then t.runHead mine act else t

/-- A write or command, whole or as the chunk with LAST, of an object of a family at a subindex. -/
def writesAt (base n sub : Nat) : Mine := fun m i u => (m == 2 || m == 3 || m == 5) && (within i base n).isSome && u == sub

/-- The act that reads. -/
def actRead (s : State) (a : Ask) : Except Nat Done :=
  match s.readValue a with
  | .ok v => .ok { s := s, body := v }
  | .error c => .error c

/-- A condition of an act, and its answer where it does not hold. -/
def needs (ok : Bool) (code : Nat) (k : Except Nat Done) : Except Nat Done := if ok then k else .error code

/-- The object takes the value written, with one advance of its count (R431, R432). -/
def State.storeRaw (s : State) (index sub : Nat) (v : List Byte) : State := { s with objects := s.objects.put (objKey index sub) v }

end Sys2Proof.Machine
end

