-- ==== Sys2Proof/Machine/Session.lean ====
section
/-! DEFINITION. The commands of the protocol itself: opening and closing sessions (R435 to R438), the mailbox (R427), stagings (R433),
notifications and relays (R441, R442), and the event log's commands (R457, R458). -/
namespace Sys2Proof.Machine

/-! ## Opening and closing (R435 to R438) -/

/-- Who may verify a SIG: the key object, or none where no signature is needed; an error where the source may not open the role (R437). -/
def State.proofOf (s : State) (src : Source) (role tenant : Nat) : Option (Option (List Byte)) :=
  match src, role with
  | .mailbox f, 1 => if f.fn.val = 0 then some none else none
  | .mailbox f, 3 => if f.fn.val ≠ 0 ∧ s.tenantOf f = some tenant then some none else none
  | .mailbox f, 4 => if f.fn.val = 0 then some (some (s.value 0xC000 0x07)) else none
  | .frame _, 1 => some (some (s.obj 0xC000 0x04))
  | .frame _, 4 => some (some (s.value 0xC000 0x07))
  | .avenue _ _ _ _, 2 => some (some (s.obj 0xC000 0x05))
  | _, _ => none

/-- The signature of an OPEN_REQ holds under a key (R435). -/
def State.sigHolds (s : State) (pk r : List Byte) : Bool :=
  !pk.isEmpty && mlDsaVerify pk (ascii "CAETH-CDP-OPEN" ++ s.obj 0x1000 0x04 ++ r.take 1604) (r.drop 1604)

/-- The layout of an OPEN_REQ holds: its zero bytes, TENANT where the role names none, and its length with or without a SIG. -/
def openReqOk (r : List Byte) (signed : Bool) : Bool :=
  r.length == (if signed then 6231 else 1604) && slice r 2 2 == zeros 2 && (leAt r 0 1 == 3 || leAt r 1 1 == 0xFF)

/-- The sessions that a source holds, and the most it may hold (R438). -/
def State.sessionsOf (s : State) (src : Source) : Nat := (s.cdp.sessions.filter (fun e => e.2.source.same src)).length
def Source.limit : Source → Nat
  | .mailbox f => if f.fn.val = 0 then 4 else 1
  | _ => 4

/-- The lowest free session number from i. -/
def freeSession (t : Table Session) : Nat → Nat → Nat
  | 0, i => i
  | fuel + 1, i => if (t.find? i).isSome then freeSession t fuel (i + 1) else i

/-- SESSION_OPEN (R435, R437, R438). A proof that fails answers RIGHTS (DEDUCED, log 38). -/
def actSessionOpen (s : State) (a : Ask) : Except Nat Done :=
  if 64 ≤ s.cdp.sessions.length ∨ a.src.limit ≤ s.sessionsOf a.src then .error cdpBusy
  else match (s.cdp.openReqs.find? (fun e => e.1.same a.src)).map Prod.snd with
    | none => .error cdpState
    | some r =>
      let role := leAt r 0 1
      let tenant := leAt r 1 1
      match s.proofOf a.src role tenant with
      | none => .error cdpRights
      | some proof =>
        if !openReqOk r proof.isSome then .error cdpRange
        else if !(match proof with
          | none => true
          | some pk => s.sigHolds pk r) then .error cdpRights
        else if s.mode = .recovery ∧ role ≠ 1 then .error cdpState
        else
          let i := freeSession s.cdp.sessions 64 1
          let np := natBytes 32 (s.draw 256).1.toNat
          let s := (s.draw 256).2
          let ss := mlKemDecaps s.start.starts (slice r 36 1568)
          let k := kmac256 ss (slice r 4 32 ++ np ++ r.take 2 ++ natBytes 2 i) 256 (ascii "CAETH-CDP-KEY")
          let s := s.setSession i { source := a.src, role := role, tenant := tenant, key := k, lastAt := s.town }
          let s := (s.count 0x9D00 0x05 1).logEvent { cls := 12, code := 3, tenant := if role = 3 then some tenant else none, detail := i }
          .ok { s := s, body := np ++ kmac256 k [] 256 (ascii "CAETH-CDP-CONFIRM"), opened := some i }

/-- SESSION_OPEN (R435). -/
def execSessionOpen (via : Via) (s : State) : Host.Outcome State Fault Refusal := .next (s.cdpRow via (writesAt 0xC020 1 0x01) actSessionOpen)

/-- OPEN_REQ takes a value of up to 6,231 bytes for its source (R444). -/
def actOpenReq (s : State) (a : Ask) : Except Nat Done :=
  if 6231 < a.value.length then .error cdpType
  else .ok { s := { s with cdp := { s.cdp with openReqs := (a.src, a.value) :: s.cdp.openReqs.filter (fun e => !e.1.same a.src) } } }

/-- SESSION_CLOSE (R438, R444): the requesting session closes once its reply has been sent. -/
def actSessionClose (s : State) (_ : Ask) : Except Nat Done := .ok { s := s, close := true }

/-- SESSION_CLOSE (R438). -/
def execSessionClose (via : Via) (s : State) : Host.Outcome State Fault Refusal := .next (s.cdpRow via (writesAt 0xC020 1 0x03) actSessionClose)

/-- SESSION_IDLE_TIMEOUT (R438): 300 s of town time with no accepted request. -/
def execSessionIdleTimeout (sid : Fin 65536) (s : State) : Host.Outcome State Fault Refusal :=
  match s.cdp.sessions.find? sid.val with
  | some x => .next (if s.cdpRuns ∧ x.lastAt + 300 * Config.ticksPerSecond ≤ s.town then s.closeSession sid.val true else s)
  | none => .next s

/-- A staging has had no chunk for 10 s. -/
def Staging.old (g : Staging) (town : Nat) : Bool := decide (g.at_ + 10 * Config.ticksPerSecond ≤ town)

/-- STAGING_TIMEOUT (R433): a staging with no chunk for 10 s is discarded; session 0 stands for those of sources with no session. -/
def execStagingTimeout (sid : Fin 65536) (s : State) : Host.Outcome State Fault Refusal :=
  if !s.cdpRuns then .next s
  else if sid.val = 0 then .next { s with cdp := { s.cdp with stage0 := s.cdp.stage0.filter (fun e => !e.2.old s.town) } }
  else match s.cdp.sessions.find? sid.val with
    | some x => match x.staging with
      | some g => .next (if g.old s.town then s.setSession sid.val { x with staging := none } else s)
      | none => .next s
    | none => .next s

/-! ## The mailbox (R427) -/

/-- MB_DOORBELL (R427): the message in REQ is submitted; while REQ_BUSY is set the write is discarded and sets OVERRUN. -/
def execMbDoorbell (f : FnId) (value : BitVec 64) (s : State) : Host.Outcome State Fault Refusal :=
  let x := s.fn f
  if !s.cdpRuns then .next s
  else if x.reqBusy then .next (s.setFn f { x with mbOverrun := true })
  else .next ((s.setFn f { x with reqBusy := true }).arrive (.mailbox f) ((List.range (field value 0 10)).map (fun i => x.req.get 0 i)))

/-- MB_ACK (R427): the reply or the oldest NOTIFY has been read, and sticky bits are cleared. -/
def execMbAck (f : FnId) (value : BitVec 64) (s : State) : Host.Outcome State Fault Refusal :=
  if !s.cdpRuns then .next s
  else
    let x := s.fn f
    let x := if bitAt value 0 then { x with reqBusy := false, respReady := false } else x
    let more := bitAt value 1 && decide (2 ≤ x.notes.length)
    let x := if bitAt value 1 then { x with notes := x.notes.tail } else x
    let x := { x with noteLost := x.noteLost && !bitAt value 3, mbOverrun := x.mbOverrun && !bitAt value 4 }
    .next (if more then (s.setFn f x).emit (.msix f 1) else s.setFn f x)

/-! ## Notifications (R441) -/

/-- A NOTIFY goes to the source of a session: the NOTE area of a mailbox holds 16; over an avenue it goes as the relay's replies do
(DESIGN CHOICE, log 32). -/
def State.deliverNote (s : State) (dest_ : Source) (m : List Byte) : State :=
  match dest_ with
  | .mailbox f =>
    let x := s.fn f
    if 16 ≤ x.notes.length then s.setFn f { x with noteLost := true }
    else
      let s := s.setFn f { x with notes := x.notes ++ [m] }
      let s := s.emit (.mailbox f m)
      if x.notes.isEmpty then s.emit (.msix f 1) else s
  | _ => s.deliverReply dest_ m

/-- The message of a note in a session, with the session's next count. -/
def noteMessage (i count kind status tid : Nat) (key body : List Byte) : List Byte :=
  ({ msg := 6, tid := tid, session := i, status := status, sub := kind, count := count, body := body } : Fields).bytes (some key)

/-- Send the next NOTIFY that waits. -/
def State.sendNote (s : State) : State :=
  match s.cdp.notes with
  | e :: t =>
    let s := { s with cdp := { s.cdp with notes := t } }
    match s.cdp.sessions.find? e.session with
    | none => s
    | some x =>
      let n := (x.outCount + 1) % 2 ^ 32
      (s.setSession e.session { x with outCount := n }).deliverNote x.source (noteMessage e.session n e.kind e.status e.tid x.key e.body)
  | [] =>
    match s.cdp.closing with
    | [] => s
    | (x, i) :: t => { s with cdp := { s.cdp with closing := t } }.deliverNote x.source (noteMessage i ((x.outCount + 1) % 2 ^ 32) 4 0 0 x.key [])

/-- A message of a link session is a TIMESTAMP whose tag holds (R441). -/
def State.goodStamp (s : State) (n : Nat) (m : List Byte) : Bool :=
  match s.cdp.links.find? n with
  | some k => cLengthOk m && tagHolds (some k) m && cVersion m == 1 && cMsg m == 6 && cSub m == 2 && cBlen m == 32
  | none => false

/-- A packet of a link session (R429, R441). -/
def Packet.isLink (p : Packet) : Bool := p.type == 0x2C && leAt (wordBytes (p.word 0)) 4 2 == 0xFFFF

/-- The first link-session packet that has arrived. -/
def State.linkPacket (s : State) : Option (Nat × Packet) := s.arrived.find? (fun e => e.2.isLink)

/-- A packet's message is a good TIMESTAMP. -/
def State.isStamp (s : State) (e : Nat × Packet) : Bool :=
  match e.2.message with
  | some m => s.goodStamp e.1 m
  | none => false

/-- NOTIFY (R441): the next message that waits is sent; or a link-session message that is no good TIMESTAMP is dropped and counted. -/
def execNotify (received : Bool) (s : State) : Host.Outcome State Fault Refusal :=
  if !s.cdpRuns then .next s
  else if !received then .next s.sendNote
  else match s.linkPacket with
    | none => .next s
    | some e => if s.isStamp e then .next s else .next ({ s with arrived := s.arrived.erase e }.count 0x9D00 0x03 1)

/-! ## Relays (R442) -/

/-- The first free RTAG from a number. -/
def State.freeTag (s : State) : Nat → Nat → Nat
  | 0, r => r % 65536
  | fuel + 1, r => if (s.outstanding.find? (r % 65536)).isSome then s.freeTag fuel (r + 1) else r % 65536

/-- RELAY (R319, R429, R442): the message goes unchanged in a CDP_REQ packet to an endpoint of the route table. -/
def actRelay (s : State) (a : Ask) : Except Nat Done :=
  let m := a.value.drop 4
  let e := leAt a.value 0 2
  if slice a.value 2 2 ≠ zeros 2 ∨ !cLengthOk m ∨ !s.known e then .error cdpRange
  else
    let port := (s.egressFrom s.wholeTorus s.here (s.coordsOf e)).getD 6
    let r := s.freeTag 65536 s.rtag
    let epoch := (s.port port).txEpoch
    let s := { s with rtag := (r + 1) % 65536, outstanding := s.outstanding.put r { port := port, epoch := epoch, at_ := s.town, session := a.sid, tid := a.tid } }
    .ok { s := s.sendService { type := 0x2C, dst := e, src := 0, rtag := r, epoch := epoch } (asPayload (bytesWords (m.length / 32) m)) none }

/-- RELAY (R442). -/
def execRelay (via : Via) (s : State) : Host.Outcome State Fault Refusal := .next (s.cdpRow via (writesAt 0xC020 1 0x05) actRelay)

/-- RELAY_REPLY (R319, R442): a response ends the request outstanding that holds its RTAG and ORIG_EPOCH and goes to the relaying session;
any other is dropped and counted. A reply that fits no body is told as BUSY (DESIGN CHOICE, log 32). -/
def execRelayReply (s : State) : Host.Outcome State Fault Refusal :=
  if !s.cdpRuns then .next s
  else match s.takeArrived (fun p => p.type == 0x2D) with
    | none => .next s
    | some (n, p, s) =>
      match (s.outstanding.find? p.rtag).filter (fun o => o.epoch == p.origEpoch) with
      | none => .next (s.portEvent (min n 5) 0x13)
      | some o =>
        let m := p.message.getD []
        let fits := cLengthOk m && decide (m.length ≤ 448)
        let note : Note := { session := o.session, kind := 3, body := if fits then m else [], status := if fits then 0 else cdpBusy, tid := o.tid }
        .next { s with outstanding := s.outstanding.del p.rtag, cdp := { s.cdp with notes := s.cdp.notes ++ [note] } }

/-! ## The event log (R457, R458) -/

/-- LOG_WINDOW (R458): up to 14 held records from LOG_SELECT on, which moves past them. -/
def actLogWindow (s : State) (a : Ask) : Except Nat Done :=
  match s.cdp.sessions.find? a.sid with
  | none => .error cdpRights
  | some x =>
    let sel := x.logSelect
    if sel = s.log.next % 2 ^ 32 then .ok { s := s }
    else if precedes 32 s.log.next sel then .error cdpRange
    else
      let from_ := if precedes 32 sel s.log.first then s.log.first else s.log.next - (s.log.next + 2 ^ 32 - sel) % 2 ^ 32
      let recs := ((List.range 14).map (fun i => from_ + i)).filterMap (fun i => s.log.records.find? i)
      .ok { s := s.setSession a.sid { x with logSelect := (from_ + recs.length) % 2 ^ 32 }, body := recs.flatMap wordBytes }

/-- LOG_WINDOW (R458). -/
def execLogWindow (via : Via) (s : State) : Host.Outcome State Fault Refusal :=
  .next (s.cdpRow via (fun m i u => m == 1 && i == 0xA000 && u == 0x04) actLogWindow)

/-- LOG_CLEAR (R457). -/
def actLogClear (s : State) (_ : Ask) : Except Nat Done :=
  .ok { s := { s with log := { s.log with first := s.log.next, records := [] } }.setCounter 0xA000 0x05 0 }

/-- LOG_CLEAR (R457). -/
def execLogClear (via : Via) (s : State) : Host.Outcome State Fault Refusal := .next (s.cdpRow via (writesAt 0xA000 1 0x06) actLogClear)

/-- CLEAR (R151): the slip counters of a LIVE partition go to zero at its next step boundary. -/
def actClear (s : State) (a : Ask) : Except Nat Done :=
  let p := a.index - 0x9100
  .ok { s := s.setPart p { s.part p with clearSlip := true } }

/-- CLEAR (R151). -/
def execClear (via : Via) (s : State) : Host.Outcome State Fault Refusal := .next (s.cdpRow via (writesAt 0x9100 64 0x20) actClear)

end Sys2Proof.Machine
end

