-- ==== Sys2Proof/Machine/Manage.lean ====
section
/-! DEFINITION. The commands over partitions, tenants, keys, allocations and generations (R206, R258, R259, R269 to R290). -/
namespace Sys2Proof.Machine

/-- Advance the counts of objects whose values the part has changed (R432). -/
def State.bumps (s : State) (l : List (Nat × Nat)) : State := l.foldl (fun s e => s.bump e.1 e.2) s

/-- A value waits for the next step start of its partition (R431). -/
def State.putWait (s : State) (p index sub : Nat) (v : List Byte) : State :=
  let x := s.part p
  s.setPart p { x with newObjects := putWaiting x.newObjects { key := objKey index sub, bytes := v } }

/-! ## Generations (R258, R259) -/

/-- SWITCH (R259). -/
def actSwitch (s : State) (a : Ask) : Except Nat Done :=
  let p := a.index - 0x5200
  let g := a.num
  let x := s.part p
  needs (decide (g ≤ 1)) cdpRange <|
  needs (x.gen g == 0 && s.objNat a.index (1 + g) != 0 && x.gen (otherGen g) == 1 && (s.genRequests p g).isEmpty) cdpState <|
  .ok { s := s.setPart p { x with switchTo := some g } }

/-- SWITCH (R259). -/
def execSwitch (via : Via) (s : State) : Host.Outcome State Fault Refusal := .next (s.cdpRow via (writesAt 0x5200 64 0x08) actSwitch)

/-- CUT_DRAINING (R258): a slot must be DRAINING. -/
def actCutDraining (s : State) (a : Ask) : Except Nat Done :=
  let p := a.index - 0x5200
  let x := s.part p
  needs (x.gen0 == 2 || x.gen1 == 2) cdpState <| .ok { s := s.setPart p { x with cutDrain := true } }

/-- CUT_DRAINING (R258). -/
def execCutDraining (via : Via) (s : State) : Host.Outcome State Fault Refusal := .next (s.cdpRow via (writesAt 0x5200 64 0x09) actCutDraining)

/-! ## Partitions (R269 to R272) -/

/-- The partitions with blocks in a district. -/
def State.partsIn (s : State) (d : Nat) : List Part := (s.parts.values).filter (fun x => x.partState != 0 && (mapDistricts x.blockMap).contains d)

/-- The blocks of a map can be given to a partition, EXCLUSIVE or not (R270, R271). -/
def State.mapOk (s : State) (m : BitVec 256) (exclusive : Bool) : Bool :=
  m != 0 && (mapBlocks m).all (fun b => !(s.block b).retired && (s.partOf b).isNone && !(s.block b).clearing)
    && (mapDistricts m).all (fun d => let l := s.partsIn d
      decide (l.length < 16) && !(exclusive && !l.isEmpty) && !l.any (fun x => x.partState == 1 && x.exclusive))
    && (channelsOfMap m).all (fun c => (s.freeSlot c).isSome)

/-- CREATE (R270). -/
def actCreate (s : State) (a : Ask) : Except Nat Done :=
  let p := a.index - 0x4000
  let m := BitVec.ofNat 256 (leAt a.value 0 32)
  let owner := leAt a.value 32 1
  let flags := leAt a.value 33 1
  needs ((s.part p).partState == 0 && (s.tenant owner).state == 1) cdpRights <|
  needs (decide (flags ≤ 1) && s.mapOk m (flags == 1)) cdpRange <|
    let slots := (channelsOfMap m).filterMap (fun c => (s.freeSlot c).map (fun k => (c, k)))
    let s := s.setPart p { partState := 1, blockMap := m, owner := owner, exclusive := flags == 1, channels := slots, changedAt := s.town }
    let s := (List.range 0x13).foldl (fun s i => s.setCounter (0x9100 + p) (i + 1) 0) s
    let s := (List.range 15).foldl (fun s i => s.setCounter (0x9500 + p) (i + 1) 0) s
    let s := s.setObj a.index 0x04 (natBytes 32 (2 ^ owner))
    .ok { s := s.measure p }

/-- CREATE (R270). -/
def execCreate (via : Via) (s : State) : Host.Outcome State Fault Refusal := .next (s.cdpRow via (writesAt 0x4000 64 0x05) actCreate)

/-- What DESTROY asks of a partition (R272). -/
def State.destroyable (s : State) (p : Nat) : Bool :=
  let x := s.part p
  x.partState == 1 && x.stepState == .idle && x.tickets.isEmpty && x.kerbTicket.isNone && x.replay.isNone && (s.requestsOf p).isEmpty

/-- A partition passes to DESTROYING: a key that waits for its boundary is erased (R281), its plans, handles, channel slots and pseudo-channels go, and its blocks are cleared (R272). -/
def State.destroyPart (s : State) (p : Nat) : State :=
  let cs := s.channelsOf p
  let x := s.part p
  let s := s.eraseHere p
  let s := s.setPart p { partState := 2, blockMap := x.blockMap, owner := x.owner, exclusive := x.exclusive }
  let s := cs.foldl (fun s c => (s.setObj (0x6100 + c) 0x01 (natBytes 1 0xFF)).beginClearChannel c) s
  ((mapBlocks x.blockMap).foldl (fun s b => s.beginClear b p) s)

/-- DESTROY (R272). -/
def actDestroy (s : State) (a : Ask) : Except Nat Done :=
  needs (s.destroyable (a.index - 0x4000)) cdpState <| .ok { s := s.destroyPart (a.index - 0x4000) }

/-- DESTROY (R272). -/
def execDestroy (via : Via) (s : State) : Host.Outcome State Fault Refusal := .next (s.cdpRow via (writesAt 0x4000 64 0x06) actDestroy)

/-- A write of ADMITTED (R269, R276): the owner's bit must be set; the set is judged at the step boundary. -/
def actAdmitted (s : State) (a : Ask) : Except Nat Done :=
  let p := a.index - 0x4000
  needs (bitAt (BitVec.ofNat 256 a.num) (s.part p).owner) cdpRange <| .ok { s := s.putWait p a.index a.sub a.value }

/-- ADMITTED_WRITE (R276). -/
def execAdmittedWrite (via : Via) (s : State) : Host.Outcome State Fault Refusal := .next (s.cdpRow via (writesAt 0x4000 64 0x04) actAdmitted)

/-! ## Quotes (R289) -/

/-- QUOTE_NONCE (R289): a quote is begun over the nonce; a nonce that waits is replaced. -/
def actQuoteNonce (s : State) (a : Ask) : Except Nat Done :=
  let p := a.index - 0x4000
  .ok { s := s.setPart p { s.part p with nonce := some a.value } }

/-- QUOTE_NONCE (R289). -/
def execQuoteNonce (via : Via) (s : State) : Host.Outcome State Fault Refusal := .next (s.cdpRow via (writesAt 0x4000 64 0x0A) actQuoteNonce)

/-- The quote over a nonce (R289). -/
def State.quoteOf (s : State) (p : Nat) (nonce : List Byte) : List Byte :=
  let x := s.part p
  let body := nonce ++ x.measured ++ natBytes 8 s.town ++ natBytes 8 x.lastStep.toNat
  body ++ attestSign (ascii "CAETH-QUOTE" ++ natBytes 1 p ++ body ++ transportEk s.start.starts)

/-- QUOTE_FORMED (R289). -/
def execQuoteFormed (p : Fin 64) (s : State) : Host.Outcome State Fault Refusal :=
  let x := s.part p.val
  match x.nonce with
  | none => .next s
  | some n =>
    if !s.cdpRuns then .next s
    else .next ((s.setPart p.val { x with nonce := none, quote := s.quoteOf p.val n }).logEvent
      { cls := 12, code := 5, part := p.val, tenant := some x.owner })

/-! ## Tenants (R273, R274) -/

/-- ENROL (R273): a FREE tenant is LIVE, its buckets full. -/
def actEnrol (s : State) (a : Ask) : Except Nat Done :=
  let t := a.index - 0x4100
  needs ((s.tenant t).state == 0) cdpState <|
    .ok { s := s.setTenant t { s.tenant t with state := 1, levels := [], waiting := [] } }

/-- ENROL (R273). -/
def execEnrol (via : Via) (s : State) : Host.Outcome State Fault Refusal := .next (s.cdpRow via (writesAt 0x4100 256 0x02) actEnrol)

/-- The function of bit n of a VF map (R273). -/
def mapFn (n : Nat) : FnId := ⟨if n < 128 then 0 else 1, Fin.ofNat 129 (n % 128 + 1)⟩

/-- The rings of the VFs of a map stop at their next entry boundary (R274, R290). -/
def State.stopRings (s : State) (m : Nat) : State :=
  (mapBlocks (BitVec.ofNat 256 m)).foldl (fun s n => s.setFn (mapFn n) { s.fn (mapFn n) with enable := false }) s

/-- A write of VF_MAP (R274). -/
def actVfMap (s : State) (a : Ask) : Except Nat Done :=
  let t := a.index - 0x4100
  let x := s.tenant t
  needs (s.tenants.all (fun e => e.1 == t || e.2.vfMap.toNat &&& a.num == 0)) cdpState <|
    .ok { s := (s.setTenant t { x with vfMap := BitVec.ofNat 256 a.num }).stopRings (x.vfMap.toNat &&& (2 ^ 256 - 1 - a.num)) }

/-- VF_MAP_WRITE (R274). -/
def execVfMapWrite (via : Via) (s : State) : Host.Outcome State Fault Refusal := .next (s.cdpRow via (writesAt 0x4100 256 0x03) actVfMap)

/-! ## Keys (R279 to R281) -/

/-- XOR of two lists of bytes. -/
def xorBytes (l m : List Byte) : List Byte := List.zipWith (· ^^^ ·) l m

/-- KEY_LOAD (R280). -/
def actKeyLoad (s : State) (a : Ask) : Except Nat Done :=
  let t := a.index - 0x4100
  let i := leAt a.value 0 2
  let c := slice a.value 4 1568
  let e := slice a.value 1572 64
  let k := mlKemDecaps s.start.starts c
  let m := xorBytes e (kmac256 k (a.value.take 4) 512 (ascii "CAETH-KW-E"))
  needs (slice a.value 1636 32 == kmac256 k (a.value.take 4 ++ c ++ e) 256 (ascii "CAETH-KW-T") && !(s.key i).valid) cdpRights <|
  needs (m.take 32 != m.drop 32) cdpMalformed <|
  needs (decide (1 ≤ i ∧ i ≤ 4095) && leAt a.value 2 1 == t && leAt a.value 3 1 == 1) cdpRange <|
    .ok { s := (s.setKey i { valid := true, tenant := t, material := m }).logEvent { cls := 12, code := 1, tenant := some t, detail := i } }

/-- KEY_LOAD (R280). -/
def execKeyLoad (via : Via) (s : State) : Host.Outcome State Fault Refusal := .next (s.cdpRow via (writesAt 0x4100 256 0x06) actKeyLoad)

/-- The LIVE partitions that a tenant owns or is admitted to. -/
def State.partsOfTenant (s : State) (t : Nat) : List Nat := (s.parts.filter (fun e => s.admits e.1 t)).map Prod.fst

/-- A key is to be erased at the next step boundary of every partition of its tenant; where there is none, at once (R281). -/
def State.askErase (s : State) (t i : Nat) : State :=
  let l := s.partsOfTenant t
  if l.isEmpty then s.eraseKey i
  else l.foldl (fun s p => s.setPart p { s.part p with eraseKeys := i :: (s.part p).eraseKeys.erase i }) s

/-- KEY_ERASE (R281): the key must be a valid key of the tenant. -/
def actKeyErase (s : State) (a : Ask) : Except Nat Done :=
  let t := a.index - 0x4100
  needs (decide (1 ≤ a.num ∧ a.num ≤ 4095)) cdpRange <|
  needs ((s.key a.num).valid && (s.key a.num).tenant == t) cdpState <| .ok { s := s.askErase t a.num }

/-- KEY_ERASE (R281). -/
def execKeyErase (via : Via) (s : State) : Host.Outcome State Fault Refusal := .next (s.cdpRow via (writesAt 0x4100 256 0x07) actKeyErase)

/-! ## Teardown (R290) -/

/-- Steps 1 to 3 of a teardown as far as they happen at once: the rings stop, requests are cancelled without completions, the tenant's
partitions wait to be destroyed, and the others wait to drop it (R290). -/
def State.beginTeardown (s : State) (t : Nat) : State :=
  let x := s.tenant t
  let s := (s.setTenant t { x with state := 2 }).stopRings x.vfMap.toNat
  let s := s.closeSessions (fun y => y.role == 3 && y.tenant == t) true
  let s := s.requests.foldl (fun (s : State) (e : Nat × Request) =>
    if e.2.tenant = t ∧ e.2.state ≠ .free then (s.setRequest e.1 { e.2 with silent := true }).cancelRequest e.2.partition e.1 else s) s
  (s.partsOfTenant t).foldl (fun (s : State) (p : Nat) =>
    let y := s.part p
    if y.owner = t then s.setPart p { y with destroyWait := true } else s.setPart p { y with removeTenants := y.removeTenants.erase t ++ [t] }) s

/-- TEARDOWN (R290). -/
def actTeardown (s : State) (a : Ask) : Except Nat Done :=
  let t := a.index - 0x4100
  needs ((s.tenant t).state == 1) cdpState <| .ok { s := s.beginTeardown t }

/-- TEARDOWN (R290). -/
def execTeardown (via : Via) (s : State) : Host.Outcome State Fault Refusal := .next (s.cdpRow via (writesAt 0x4100 256 0x08) actTeardown)

/-- Steps 3 to 5 of a teardown: a partition of the tenant is destroyed once it is IDLE; when no partition holds the tenant any more its keys
are erased and its allocations freed, and VF_MAP is zeroed (R290). -/
def State.teardownStep (s : State) (t : Nat) : State :=
  if (s.tenant t).state ≠ 2 then s
  else
    let s := s.parts.foldl (fun (s : State) (e : Nat × Part) => if e.2.owner = t ∧ e.2.destroyWait ∧ s.destroyable e.1 then s.destroyPart e.1 else s) s
    if s.parts.any (fun e => e.2.partState == 1 && (e.2.owner == t || e.2.removeTenants.contains t)) then s
    else
      let s := s.keys.foldl (fun (s : State) (e : Nat × Key) => if e.2.valid ∧ e.2.tenant = t then s.eraseKey e.1 else s) s
      let s := s.allocs.foldl (fun (s : State) (e : Nat × Alloc) => if e.2.tenant = t ∧ e.2.state = 1 then s.freeAlloc e.1 else s) s
      ((s.setTenant t { s.tenant t with vfMap := 0 }).bumpWhere [((s.tenant t).vfMap != 0, 0x4100 + t, 0x03)]).tenantEnds t

/-! ## Allocations (R277, R278) -/

/-- The range lies in the valid range of its tier, clear of the firmware region and of a pseudo-channel being cleared (R177, R180, R214). -/
def State.rangeOk (s : State) (base size : Nat) : Bool :=
  let d := base % 2 ^ 54
  match base / 2 ^ 54 with
  | 1 => decide (d / 2 ^ 32 < 256) && decide (d % 2 ^ 32 + size ≤ 0x9C000000) && !(s.channel (d / 2 ^ 32)).clearing
  | 2 => decide (d / 2 ^ 40 < 4) && decide (d % 2 ^ 40 + size ≤ s.objNat 0x6000 (0x10 + d / 2 ^ 40))
  | 3 => decide (d / 2 ^ 40 < 2) && decide (d % 2 ^ 40 + size ≤ s.objNat 0x6000 (0x18 + d / 2 ^ 40))
  | _ => false

/-- Two byte ranges meet. -/
def meets (a n b m : Nat) : Bool := decide (a < b + m ∧ b < a + n)

/-- The lowest free place of the table of allocations. -/
def freeAllocIndex (t : Table Alloc) : Nat → Nat → Option Nat
  | 0, _ => none
  | fuel + 1, i => if (t.find? i).isSome then freeAllocIndex t fuel (i + 1) else some i

/-- ALLOC_ADD (R277, R278). -/
def actAllocAdd (s : State) (a : Ask) : Except Nat Done :=
  let t := a.index - 0x4100
  let w := BitVec.ofNat 256 a.num
  let p := field w 216 8
  let size := field w 128 64
  let base := field w 0 56
  let form := field w 232 24 == 0 && field w 208 8 == t && field w 192 16 == 0 && field w 56 72 == 0 && size != 0 && size % 65536 == 0 && base % 65536 == 0
    && (decide (p < 64) || p == 0xFF)
  needs (form && s.rangeOk base size && s.allocs.all (fun e => !meets base size e.2.base e.2.size)) cdpRange <|
  needs (base / 2 ^ 54 != 1 || (p != 0xFF && s.objNat (0x6100 + base / 2 ^ 32 % 256) 0x01 == p)) cdpRange <|
  needs (decide ((s.allocs.filter (fun e => e.2.tenant == t)).length < 64)) cdpRange <|
    match freeAllocIndex s.allocs 4096 0 with
    | none => .error cdpRange
    | some i => .ok { s := { s with allocs := s.allocs.put i { state := 1, partition := p, tenant := t, size := size, base := base } }.bump a.index 0x12 }

/-- ALLOC_ADD (R278). -/
def execAllocAdd (via : Via) (s : State) : Host.Outcome State Fault Refusal := .next (s.cdpRow via (writesAt 0x4100 256 0x10) actAllocAdd)

/-- The regions of a partition's KV pool and of its kerb frames, as byte ranges (R229, R245). -/
def State.servingRegions (s : State) (p : Nat) : List (Nat × Nat) :=
  let pcs := s.objNat (0x5300 + p) 0x05
  let first := s.objNat (0x5300 + p) 0x04
  let pool := (List.range pcs).filterMap (fun k => ((s.channelsOf p)[first + k]?).map (fun c =>
    (32 * tier1 c 0 + s.objNat (0x5300 + p) 0x06, 65536 * s.objNat (0x5300 + p) 0x07)))
  pool ++ [(s.objNat (0x5100 + p) 0x06, 65536 * s.objNat (0x5100 + p) 0x07), (s.objNat (0x5100 + p) 0x08, 65536 * s.objNat (0x5100 + p) 0x09)]

/-- A handle, a serving region or a running fetch depends on a byte range (R278, R422). -/
def State.dependsOn (s : State) (base size : Nat) : Bool :=
  s.parts.any (fun e => e.2.partState == 1 &&
      (e.2.handles.any (fun h => !hOnBlock h.2 && meets base size (hBase h.2) (32 * hSize h.2)) || (s.servingRegions e.1).any (fun r => meets base size r.1 r.2)))
    || s.fetch.any (fun e => decide (e.state ≤ 1) && meets base size (leAt e.bytes 64 8) (leAt e.bytes 72 8))

/-- ALLOC_FREE (R278): n counts the entries of the tenant's ALLOC_LIST (DEDUCED, log 39). -/
def actAllocFree (s : State) (a : Ask) : Except Nat Done :=
  let t := a.index - 0x4100
  match (s.allocs.filter (fun e => e.2.tenant == t))[a.num]? with
  | none => .error cdpRange
  | some (i, e) => needs (e.state == 1 && !s.dependsOn e.base e.size) cdpState <| .ok { s := s.freeAlloc i }

/-- ALLOC_FREE (R278). -/
def execAllocFree (via : Via) (s : State) : Host.Outcome State Fault Refusal := .next (s.cdpRow via (writesAt 0x4100 256 0x11) actAllocFree)

/-! ## Pseudo-channels and buckets (R206, R285) -/

/-- An owner code names no partition, or one that is LIVE and IDLE. -/
def State.ownerIdle (s : State) (p : Nat) : Bool := p == 0xFF || ((s.part p).partState == 1 && (s.part p).stepState == .idle)

/-- A write of PC_OWNER (R206): the memory freed is cleared (R214). It waits until no allocation lies in the pseudo-channel (DEDUCED, log 40). -/
def actPcOwner (s : State) (a : Ask) : Except Nat Done :=
  let c := a.index - 0x6100
  let old := s.objNat a.index 0x01
  needs (decide (a.num < 64) || a.num == 0xFF) cdpRange <|
  needs (s.ownerIdle old && s.ownerIdle a.num && (a.num == old || s.allocs.all (fun e => tierOf (e.2.base / 32) != 1 || channelOf (e.2.base / 32) != c))) cdpState <|
    let s := s.storeRaw a.index a.sub a.value
    .ok { s := if old ≠ 0xFF ∧ a.num ≠ old then s.beginClearChannel c else s }

/-- PC_OWNER_WRITE (R206). -/
def execPcOwnerWrite (via : Via) (s : State) : Host.Outcome State Fault Refusal := .next (s.cdpRow via (writesAt 0x6100 256 0x01) actPcOwner)

/-- Units that wait in a bucket pass, in order, while the level covers them (R285). -/
def passWaiting (cls : Nat) : Nat → List (Nat × Nat) → Nat × List (Nat × Nat)
  | level, [] => (level, [])
  | level, (c, b) :: t =>
    if c = cls then
      let r := passUnits cls level b
      if r.2 = 0 then passWaiting cls r.1 t else (r.1, (c, r.2) :: t)
    else
      let r := passWaiting cls level t
      (r.1, (c, b) :: r.2)

/-- n µs of a bucket of a rate and a size in bytes: each µs its level rises up to the size, and units that wait pass; the level, what still waits, and in
how many of the µs something waited (R285, R287). -/
def refillFor (cls rate size : Nat) : Nat → Nat → List (Nat × Nat) → Nat × List (Nat × Nat) × Nat
  | 0, level, w => (level, w, 0)
  | n + 1, level, w =>
    if w.any (fun e => e.1 == cls) then
      let r := passWaiting cls (min size (level + rate)) w
      let z := refillFor cls rate size n r.1 r.2
      (z.1, z.2.1, z.2.2 + 1)
    else (min size (level + (n + 1) * rate), w, 0)

/-- A service packet of a tenant waits on its bucket before an egress (R285, R337). -/
def State.packetHeld (s : State) (t : Nat) : Bool :=
  s.crossroads.values.any (fun l => match l.find? (fun q => q.tenant == some t) with
    | some q => decide (s.bucketLevel t 3 < 36 + 36 * q.pkt.len)
    | none => false)

/-- n µs of one bucket, with the terms that its objects now give (R285); the µs waited are counted (R287). -/
def State.refill (s : State) (n t cls : Nat) : State :=
  let rate := s.objNat (0x4100 + t) (0x20 + cls)
  let burst := s.objNat (0x4100 + t) (0x24 + cls)
  let x := s.tenant t
  let terms := x.terms.put cls (rate, burst)
  if rate = 0 then s.setTenant t { x with terms := terms, waiting := x.waiting.filter (fun w => w.1 != cls) }
  else
    let r := refillFor cls rate (1024 * burst) n (s.bucketLevel t cls) x.waiting
    let held := if cls = 3 ∧ s.packetHeld t then n else r.2.2
    let s := if held = 0 then s else s.count (0x9600 + t) (0x01 + cls) held
    s.setTenant t { x with terms := terms, levels := x.levels.put cls r.1, waiting := r.2.1 }

/-- BUCKET_REFILL (R285): at every 1 µs of town time, for every tenant that is not FREE; the µs gone by since the last refill count. -/
def execBucketRefill (s : State) : Host.Outcome State Fault Refusal :=
  let us := s.town / Config.ticksPerUs
  if !s.cdpRuns ∨ us ≤ s.refilled then .next s
  else
    let n := us - s.refilled
    let s := s.tenants.foldl (fun (s : State) (e : Nat × Tenant) => if e.2.state = 0 then s else (List.range 4).foldl (fun s k => s.refill n e.1 k) s) s
    .next { s with refilled := us }

end Sys2Proof.Machine
end

