-- ==== Sys2Proof/Machine/Roads.lean ====
section
/-! DEFINITION. The commands over links and jobs (R313, R343 to R346). -/
namespace Sys2Proof.Machine

/-! ## Links -/

/-- RETRAIN (R313). -/
def actRetrain (s : State) (a : Ask) : Except Nat Done := .ok { s := s.retrain (a.index - 0x7100) }

/-- RETRAIN (R313). -/
def execRetrain (via : Via) (s : State) : Host.Outcome State Fault Refusal := .next (s.cdpRow via (writesAt 0x7100 6 0x03) actRetrain)

/-- A write of LINK_ENABLE (R313). -/
def actLinkEnable (s : State) (a : Ask) : Except Nat Done :=
  .ok { s := (s.storeRaw a.index a.sub a.value).linkEnable (a.index - 0x7100) (a.num == 1) }

/-- LINK_ENABLE_WRITE (R313). -/
def execLinkEnableWrite (via : Via) (s : State) : Host.Outcome State Fault Refusal := .next (s.cdpRow via (writesAt 0x7100 6 0x02) actLinkEnable)

/-! ## Jobs -/

/-- The event of a job slot that has become OPEN or CLOSED (R456). -/
def State.jobEvent (s : State) (j code : Nat) : State :=
  let p := s.jobPart j
  (s.logEvent { cls := 5, code := code, part := p, tenant := if p < 64 then some (s.part p).owner else none, detail := s.jobTag j + 65536 * s.endpoint })

/-- What OPEN asks of a slot (R344, R387); a tag is held by the slots that are not CLOSED (DEDUCED, log 42). -/
def State.openable (s : State) (j : Nat) : Bool :=
  let tag := s.jobTag j
  let p := s.jobPart j
  let x := s.part p
  let b := s.boxOf j
  let idx := 0x7200 + j
  (s.job j).state == 0 && decide (1 ≤ tag) && s.jobs.all (fun e => e.1 == j || e.2.state == 0 || s.jobTag e.1 != tag)
    && decide (p < 64) && x.partState == 1 && x.stepState == .idle && x.takenOut.isNone && (s.jobOf p).isNone
    && s.inBox b s.here && (List.range 3).all (fun d => decide (1 ≤ b.extent d ∧ b.extent d ≤ s.dimSize d))
    && s.obj idx 0x05 == s.fabricDigest
    && (s.objNat idx 0x0A == 0 || s.objNat (0x4000 + p) 0x0C == 1)

/-- OPEN (R344): the slot is OPEN and the ports accept the tag at once. -/
def actOpen (s : State) (a : Ask) : Except Nat Done :=
  let j := a.index - 0x7200
  needs (s.openable j) cdpState <| .ok { s := (s.setJob j { state := 1 }).jobEvent j 0x01 }

/-- OPEN (R344). -/
def execOpenJob (via : Via) (s : State) : Host.Outcome State Fault Refusal := .next (s.cdpRow via (writesAt 0x7200 64 0x06) actOpen)

/-- A partition that no multi-part job binds any more, and that waits for a decision, decides alone (R378; log 41). -/
def State.decideAlone (s : State) (p : Nat) : State :=
  let e := (s.part p).episode
  if e.notices.isEmpty then s
  else s.setEpisode p { e with accepted := some (decideWords e.notices (s.objNat (0x4000 + p) 0x0C == 1) s.town s.endpoint 0 0) }

/-- CLOSE (R346). -/
def actClose (s : State) (a : Ask) : Except Nat Done :=
  let j := a.index - 0x7200
  let p := s.jobPart j
  let st := (s.part p).stepState
  needs ((s.job j).state == 1 && (st == .idle || st == .held)) cdpState <|
    .ok { s := (s.closeJob j).decideAlone p }

/-- CLOSE (R346). -/
def execClose (via : Via) (s : State) : Host.Outcome State Fault Refusal := .next (s.cdpRow via (writesAt 0x7200 64 0x07) actClose)

/-- CLOSE_EXPIRY (R346): 250 ms after CLOSE. -/
def execCloseExpiry (j : Fin 64) (s : State) : Host.Outcome State Fault Refusal :=
  let x := s.job j.val
  if s.live ∧ x.state = 2 ∧ x.closedAt + 250 * Config.ticksPerMs ≤ s.town then .next ((s.setJob j.val { x with state := 0 }).jobEvent j.val 0x02) else .next s

end Sys2Proof.Machine
end

