-- ==== Sys2Proof/Machine/Time.lean ====
section
/-! DEFINITION. Time (R358 to R376): the oscillators, the pulse, neighbour synchronisation, the time states, steps, and building time. -/
namespace Sys2Proof.Machine

/-! ## Interval timers (R364, R370, R484) -/

/-- A time moved by some ticks. -/
def moved (d : Int) (t : Nat) : Nat := ((t : Int) + d).toNat

/-- The timers of a port (R313); those that run on the stream itself keep their place. -/
def Port.moveTimers (d : Int) (x : Port) : Port :=
  { x with since := moved d x.since, unaSince := moved d x.unaSince, stalledAt := x.stalledAt.map (moved d), goodAt := moved d x.goodAt, sentAt := moved d x.sentAt,
           trainAt := moved d x.trainAt, gaps := x.gaps.map (fun g => { g with since := moved d g.since, asked := g.asked.map (moved d) }),
           replay := x.replay.map (fun e => { e with again := e.again.map (moved d) }) }

/-- The timers of a job slot's barrier instances (R348). -/
def Job.moveTimers (d : Int) (x : Job) : Job :=
  { x with barriers := x.barriers.map (fun b => { b with joinedAt := moved d b.joinedAt, sentAt := b.sentAt.map (moved d) }) }

/-- The window and commit timers of fault agreement (R383, R385), and the wait for a checkpoint. -/
def Part.moveTimers (d : Int) (x : Part) : Part :=
  { x with episode := { x.episode with since := x.episode.since.map (moved d), acceptedAt := moved d x.episode.acceptedAt }, ckptSince := moved d x.ckptSince }

/-- The interval timers of R484, moved by some ticks; the watchdogs restart. -/
def State.moveTimers (s : State) (d : Int) : State :=
  { s with ports := s.ports.mapVals (fun _ (x : Port) => x.moveTimers d), jobs := s.jobs.mapVals (fun _ (x : Job) => x.moveTimers d),
           parts := s.parts.mapVals (fun _ (x : Part) => x.moveTimers d), outstanding := s.outstanding.mapVals (fun _ (o : Outstanding) => { o with at_ := moved d o.at_ }),
           qps := s.qps.mapVals (fun _ (q : QueuePair) => { q with lastAt := moved d q.lastAt }),
           cores := s.cores.mapVals (fun _ (c : Core) => { c with wdogAt := s.town, warned := false }) }

/-- Every measured interval keeps its length across a step of town time (R370; log 45). -/
def State.moveAll (s : State) (d : Int) : State :=
  let s := s.moveTimers d
  let m := moved d
  { s with ports := s.ports.mapVals (fun _ (x : Port) => { x with lockedAt := m x.lockedAt }), jobs := s.jobs.mapVals (fun _ (x : Job) => { x with closedAt := m x.closedAt }),
           crossroads := s.crossroads.mapVals (fun _ (l : List Queued) => l.map (fun q => { q with at_ := m q.at_ })),
           channels := s.channels.mapVals (fun _ (x : Channel) => { x with clearTo := m x.clearTo }), allocs := s.allocs.mapVals (fun _ (e : Alloc) => { e with clearTo := m e.clearTo }),
           blocks := s.blocks.mapVals (fun _ (b : Block) => { b with passAt := if b.passAt = 0 then 0 else m b.passAt, sliceSince := b.sliceSince.map m }),
           parts := s.parts.mapVals (fun _ (x : Part) => { x with changedAt := m x.changedAt }),
           cdp := { s.cdp with sessions := s.cdp.sessions.mapVals (fun _ (x : Session) => { x with lastAt := m x.lastAt, staging := x.staging.map (fun g => { g with at_ := m g.at_ }) }),
                               stage0 := s.cdp.stage0.map (fun e => (e.1, { e.2 with at_ := m e.2.at_ })), auth0 := s.cdp.auth0.map (fun e => (e.1, m e.2)) },
           log := { s.log with lastAt := s.log.lastAt.mapVals (fun _ t => m t), mendAt := s.log.mendAt.mapVals (fun _ t => m t) },
           time := { s.time with lastRecord := m s.time.lastRecord, holdSince := m s.time.holdSince }, refilled := s.town / Config.ticksPerUs }

/-! ## The oscillators (R358, R359) -/

/-- DROOP (R359): the oscillator moves to the slower setting that the sensor demands. -/
def execDroop (d : Fin 16) (setting : Fin 16) (s : State) : Host.Outcome State Fault Refusal :=
  let x := s.district d.val
  if !s.live then .next s
  else if setting.val ≤ x.setting then .next (s.setDistrict d.val { x with recover := x.cycles })
  else .next (((s.setDistrict d.val { x with setting := setting.val, recover := x.cycles }).count (0x9900 + d.val) 0x01 1).bump (0x3010 + d.val) 0x01)

/-- OSCILLATOR_RECOVERY (R359): 32 district cycles after the last move the oscillator goes back one setting. -/
def execOscillatorRecovery (d : Fin 16) (s : State) : Host.Outcome State Fault Refusal :=
  let x := s.district d.val
  if s.live ∧ x.setting ≠ 0 ∧ x.recover + 32 ≤ x.cycles then
    .next ((s.setDistrict d.val { x with setting := x.setting - 1, recover := x.cycles }).bump (0x3010 + d.val) 0x01)
  else .next s

/-! ## The pulse and the stamps (R363, R366, R367) -/

/-- The copies of town time take the central value (R363, R364, R370). -/
def State.alignCopies (s : State) : State :=
  { s with districts := (List.range 16).foldl (fun (t : Table District) d =>
      let x := t.get {} d
      t.put d { x with copy := s.time.central }) s.districts,
           time := { s.time with lastPulse := s.town / Config.ticksPerUs } }

/-- TIME_PULSE (R363): the central count has passed a multiple of 1,600 ticks; every district removes its error, at once (DESIGN CHOICE, log 43). -/
def execTimePulse (s : State) : Host.Outcome State Fault Refusal :=
  if s.linked ∧ s.time.lastPulse < s.town / Config.ticksPerUs then .next s.alignCopies else .next s

/-- The index of the last stamped codeword that a port has sent by now: one every 11,796.48 ns since it entered LOCKED (R296, R366). -/
def State.stampIndex (s : State) (n : Nat) : Nat := (s.town - (s.port n).lockedAt) * 125 / 2359296 * 2 ^ 15

/-- The timestamp record of a port (R367). -/
def State.stampRecord (s : State) (n : Nat) : Word :=
  let x := s.port n
  let t := x.txStamp.getD (0, 0)
  let r := x.rxStamp.getD (0, 0)
  BitVec.ofNat 256 (place 192 64 t.2 ||| place 128 64 r.2 ||| place 80 48 t.1 ||| place 32 48 r.1 ||| place 16 16 s.endpoint ||| place 8 8 n ||| place 0 8 s.time.mode.code)

/-- Send the partner a TIMESTAMP in the link session (R367, R441). -/
def State.sendStamp (s : State) (n : Nat) : State :=
  match s.cdp.links.find? n with
  | none => s
  | some k =>
    let c := (s.cdp.linkOut.get 0 n + 1) % 2 ^ 32
    let m := ({ msg := 6, session := 0xFFFF, sub := 2, count := c, body := wordBytes (s.stampRecord n) } : Fields).bytes (some k)
    let s := { s with cdp := { s.cdp with linkOut := s.cdp.linkOut.put n c } }
    s.sendPartner n { type := 0x2C, dst := 0, src := 0, epoch := (s.port n).txEpoch } (asPayload (bytesWords 3 m))

/-- STAMPED_CODEWORD (R366, R367): a codeword whose index is a multiple of 2^15 leaves, and its record follows while the port is UP. -/
def execStampedCodeword (n : Fin 6) (s : State) : Host.Outcome State Fault Refusal :=
  let x := s.port n.val
  let k := s.stampIndex n.val
  let new : Bool := match x.txStamp with
    | some t => decide (t.1 < k)
    | none => true
  if !s.linked ∨ x.link < 3 ∨ !new then .next s
  else
    let s := s.setPort n.val { x with txStamp := some (k, s.time.central / 2 ^ 24) }
    .next (if x.link = 4 then s.sendStamp n.val else s)

/-! ## Following a neighbour (R368, R369) -/

/-- The time state changes (R369, R456); `theta` in 2^-8 tick. -/
def State.timeTo (s : State) (m : TimeMode) (theta : Int) : State :=
  if s.time.mode = m then s
  else (({ s with time := { s.time with mode := m, acqRun := 0, offRun := 0, stepDue := none } }).logEvent { cls := 7, code := 1, detail := unsigned 64 theta }).bump 0x3000 0x02

/-- 2·625·θ of R368, with θ in 2^-8 tick: exact in the units of the stamps (2^-8 tick) and of ASYM_CORR (ps). -/
def offsetNumerator (t1 t2 t3 t4 : Nat) (a : Int) : Int :=
  (signed 64 (unsigned 64 ((t2 : Int) - t1)) - signed 64 (unsigned 64 ((t4 : Int) - t3))) * 625 - a * 256

/-- The last θ of a port is published; the spec does not say how a part of 2^-8 tick is rounded (log 44). -/
def State.publishOffset (s : State) (n : Nat) (num : Int) : Int × State :=
  let r := s.draw 1
  if num % 1250 = 0 then (num / 1250, s.setObj (0x3100 + n) 0x02 (natBytes 8 (unsigned 64 (num / 1250))))
  else
    let theta := num / 1250 + (r.1.toNat : Int)
    (theta, r.2.setObj (0x3100 + n) 0x02 (natBytes 8 (unsigned 64 theta)))

/-- Remove an offset by slewing, and follow the parent's frequency by an adjustment that the spec leaves open within its limit (R362, R368). -/
def State.slew (s : State) (num : Int) : State :=
  let r := s.draw 32
  let s := r.2
  ({ s with time := { s.time with slewLeft := -(num * 2 ^ 24 / 1250), adjust := ((r.1.toNat % 400001 : Nat) : Int) - 200000, stepDue := none } }).bump 0x3000 0x05

/-- An exchange with the parent (R368 to R370). -/
def State.exchange (s : State) (num theta : Int) : State :=
  let x := s.time
  let near := decide (num.natAbs ≤ 25600)
  let s := { s with time := { x with lastRecord := s.town, lastOffset := theta } }
  match x.mode with
  | .acquiring =>
    if 512000000 < num.natAbs then { s with time := { s.time with stepDue := some (num * 2 ^ 24 / 1250), acqRun := 0 } }
    else
      let run := if near then x.acqRun + 1 else 0
      let s := s.slew num
      if 16 ≤ run then s.timeTo .locked theta else { s with time := { s.time with acqRun := run } }
  | .locked =>
    let run := if 1024000 < num.natAbs then x.offRun + 1 else 0
    let s := s.slew num
    if 4 ≤ run then s.timeTo .acquiring theta else { s with time := { s.time with offRun := run } }
  | .holdover => if near then (s.timeTo .locked theta).slew num else s.timeTo .acquiring theta
  | _ => s

/-- The port that the part follows. -/
def State.parentPort (s : State) : Option Nat := let n := s.objNat 0x3000 0x03; if n < 6 then some n else none

/-- A record is from the partner, and names the latest pair in each direction (R367). -/
def State.stampFits (s : State) (n : Nat) (w : Word) : Bool :=
  let x := s.port n
  field w 16 16 == x.partner % 65536 && field w 8 8 == x.partner / 65536 % 256
    && (match x.txStamp, x.rxStamp with
      | some t, some r => field w 80 48 == r.1 % 2 ^ 48 && field w 32 48 == t.1 % 2 ^ 48
      | _, _ => false)

/-- TIMESTAMP (R367 to R370): the record of the port followed gives an offset; one of another port is only checked. -/
def execTimestamp (s : State) : Host.Outcome State Fault Refusal :=
  if !s.cdpRuns ∨ s.mode = .frozen then .next s
  else match s.linkPacket with
    | none => .next s
    | some e =>
      if !s.isStamp e then .next s
      else
        let n := e.1
        let w := bytesWord (cBody ((e.2.message).getD []))
        let s := { s with arrived := s.arrived.erase e }
        if !s.stampFits n w then .next (s.countLog { cls := 7, counter := 0x9A00, sub := 0x02, inst := n })
        else if s.parentPort ≠ some n then .next s
        else
          let x := s.port n
          let num := offsetNumerator (field w 192 64) (x.rxStamp.getD (0, 0)).2 (x.txStamp.getD (0, 0)).2 (field w 128 64) (signed 16 (s.objNat (0x3100 + n) 0x01))
          let (theta, s) := s.publishOffset n num
          .next (s.exchange num theta)

/-- A write of TIME_PARENT (R369). -/
def actTimeParent (s : State) (a : Ask) : Except Nat Done :=
  needs (decide (a.num ≤ 6) || a.num == 0xFF) cdpRange <|
    let m : TimeMode := if a.num = 6 then .root else if a.num = 0xFF then .free else .acquiring
    let s := s.storeRaw a.index a.sub a.value
    let s := { s with time := { s.time with adjust := if m = TimeMode.acquiring then s.time.adjust else 0, slewLeft := 0, acqRun := 0, offRun := 0, stepDue := none, lastRecord := s.town } }
    .ok { s := s.timeTo m 0 }

/-- TIME_PARENT_WRITE (R369). -/
def execTimeParentWrite (via : Via) (s : State) : Host.Outcome State Fault Refusal := .next (s.cdpRow via (writesAt 0x3000 1 0x03) actTimeParent)

/-- HOLDOVER_ENTRY (R369): the parent port has left UP, or four records in a row (47.2 µs) are missing. -/
def execHoldoverEntry (s : State) : Host.Outcome State Fault Refusal :=
  let lost : Bool := match s.parentPort with
    | some n => (s.port n).link != 4
    | none => true
  if s.cdpRuns ∧ s.time.mode = .locked ∧ (lost ∨ s.time.lastRecord + 75520 ≤ s.town) then
    let s := s.timeTo .holdover s.time.lastOffset
    .next (({ s with time := { s.time with holdSince := s.town, slewLeft := 0 } }).count 0x9A00 0x03 1)
  else .next s

/-- HOLDOVER_LIMIT_EXPIRY (R369). -/
def execHoldoverLimitExpiry (s : State) : Host.Outcome State Fault Refusal :=
  if s.cdpRuns ∧ s.time.mode = .holdover ∧ s.time.holdSince + s.objNat 0x3000 0x04 * Config.ticksPerUs ≤ s.town then .next (s.timeTo .acquiring s.time.lastOffset) else .next s

/-- TIME_STEP (R370): the offset found is taken from town time at the first moment at which every partition is IDLE. -/
def execTimeStep (s : State) : Host.Outcome State Fault Refusal :=
  match s.time.stepDue with
  | none => .next s
  | some d =>
    if !s.linked ∨ s.time.mode ≠ .acquiring ∨ !s.parts.all (fun e => e.2.stepState == .idle) then .next s
    else
      let old := s.town
      let c := ((s.time.central : Int) - d).toNat
      let s := { s with time := { s.time with central := c, stepDue := none, acqRun := 0 } }
      let by_ : Int := (s.town : Int) - (old : Int)
      let s := s.moveAll by_
      let s := { s with time := { s.time with utc := s.time.utc.map (fun (u, t) => (u, t + by_)) } }
      .next (s.alignCopies.countLog { cls := 7, counter := 0x9A00, sub := 0x01, detail := unsigned 64 (-d / 2 ^ 24) })

/-- UTC_SET (R373). -/
def actUtcSet (s : State) (a : Ask) : Except Nat Done :=
  let had := s.time.utc.isSome
  let s := { s with time := { s.time with utc := some (a.num, (s.town : Int)) } }
  .ok { s := (s.logEvent { cls := 7, code := 2, detail := 0 }).bumpWhere [(true, 0x3000, 0x07), (!had, 0x3000, 0x08)] }

/-- UTC_SET (R373). -/
def execUtcSet (via : Via) (s : State) : Host.Outcome State Fault Refusal := .next (s.cdpRow via (writesAt 0x3000 1 0x06) actUtcSet)

end Sys2Proof.Machine
end

