-- ==== Sys2Proof/WellFormed.lean ====
section
/-! DEFINITION. Commands that can come about: their operands lie in the ranges that the spec gives what they name. -/
namespace Sys2Proof

/-- A register access is 1, 2, 4 or 8 bytes wide and its value, where it writes one, has that width. -/
def Access.wf (a : Access) : Bool :=
  (a.width == 1 || a.width == 2 || a.width == 4 || a.width == 8) && (match a.value with
    | none => true
    | some v => decide (v.toNat < 2 ^ (8 * a.width)))

/-- A rate in GT/s and a width of a PCIe link (R398, R423). -/
def pcieLinkOk (rate width : Nat) : Bool :=
  (rate == 2 || rate == 5 || rate == 8 || rate == 16 || rate == 32 || rate == 64) && (width == 4 || width == 8 || width == 16)

/-- A reading fits its object, an S16 in 0.1 °C (R506). -/
def readingOk (t : Int) : Bool := decide (-32768 ≤ t ∧ t ≤ 32767)

/-- A target of VDD_CORE: 600 mV to 800 mV in 5 mV steps (R501). -/
def avsOk (millivolts : Nat) : Bool := decide (600 ≤ millivolts ∧ millivolts ≤ 800 ∧ millivolts % 5 = 0)

/-- The operands of a command are such as can come about. -/
def Instr.wf : Instr → Bool
  | .requestPrepare r => decide (r < 8192 + 1048576)
  | .kerbFrameCopy r => decide (r < 8192 + 1048576)
  | .requestExpiry r => decide (r < 8192 + 1048576)
  | .recallFrameCopy r => decide (r < 8192 + 1048576)
  | .loadPlan _ image => decide (image.length < 2 ^ 32)
  | .loadHandles _ es => decide (1 ≤ es.length ∧ es.length ≤ 65536)
  | .codewordReceive _ symbols => symbols.length == 272
  | .barMisuse _ a => a.wf
  | .pcieLinkUp _ rate width => pcieLinkOk rate width
  | .avsUpdate millivolts sensed => avsOk millivolts && decide (sensed < 65536)
  | .railFault _ millivolts => decide (millivolts < 65536)
  | .powerLimitUpdate watts => decide (watts < 65536)
  | .thermalWarning _ tenths => readingOk tenths
  | .throttleBegin _ tenths => readingOk tenths
  | .thermtrip _ tenths => readingOk tenths
  | .frzMemRead command => !Machine.bitAt command 63
  | .frzMemWrite command _ _ => Machine.bitAt command 63
  | _ => true

end Sys2Proof
end

