-- ==== Sys2Proof/Machine/HostPort.lean ====
section
/-! DEFINITION. The PCIe ports, their functions and registers, the device window, and the CXL root ports (R398 to R405, R411 to R415). -/
namespace Sys2Proof.Machine

/-! ## Resets of functions and ports (R399, R400, R415) -/

/-- A ticket whose completion an FLR discards (R400). -/
def Ticket.dropFrom (f : FnId) (t : Ticket) : Ticket := if t.src = .ring f then { t with dropped := true } else t

/-- The completions of the tickets that a function sent are discarded (R400). -/
def Part.dropFrom (f : FnId) (x : Part) : Part :=
  { x with tickets := x.tickets.map (Ticket.dropFrom f), kerbTicket := x.kerbTicket.map (Ticket.dropFrom f), running := x.running.map (Ticket.dropFrom f),
           replay := x.replay.map (Ticket.dropFrom f), lastTicket := x.lastTicket.map (Ticket.dropFrom f), doneDesc := x.doneDesc.map (Ticket.dropFrom f) }

/-- The source is a function's mailbox. -/
def Source.isFn (f : FnId) : Source → Bool
  | .mailbox g => f == g
  | _ => false

/-- A function level reset (R400, R427, R438): the records bound for the function that wait are discarded (log 53). -/
def State.resetFn (s : State) (f : FnId) : State :=
  let x := s.fn f
  let s := s.setFn f { intakeBase := x.intakeBase, intakeCfg := x.intakeCfg, tail := x.tail, head := x.tail, complBase := x.complBase, complCfg := x.complCfg,
                       complHead := x.complHead, written := x.written, current := x.current, moved := x.moved, dropNext := x.dropNext || x.current.isSome }
  let s := s.closeSources (Source.isFn f)
  { s with parts := s.parts.mapVals (fun _ (y : Part) => y.dropFrom f), cdp := { s.cdp with queue := s.cdp.queue.filter (fun e => !e.1.isFn f) } }

/-- FLR (R400). -/
def execFlr (f : FnId) (s : State) : Host.Outcome State Fault Refusal := .next (if s.cdpRuns then s.resetFn f else s)

/-- The functions of a port (R398). -/
def fnsOf (h : Fin 2) : List FnId := (List.range 129).map (fun i => ⟨h, Fin.ofNat 129 i⟩)

/-- A mover operation has an end in a tier behind a port. -/
def State.uses (s : State) (b : Nat) (o : Op) (tier port : Nat) : Bool :=
  let p := s.ownerOf b
  let at_ := fun i => let e := s.handle p (opHandle (opnd o.desc i)); !hOnBlock e && hKind e != 0 && tierOf (hAddr e 0) == tier
    && (if tier = 2 then cxlPort (hAddr e 0) else hostPort (hAddr e 0)) == port
  o.queue == 2 && (at_ 0 || at_ 1)

/-- The mover accesses in flight behind a port fail with FAULT (R400, R415). -/
def State.failBehind (s : State) (tier port : Nat) : State :=
  s.blocks.foldl (fun (s : State) (e : Nat × Block) =>
    (e.2.inflight.filter (fun o => s.uses e.1 o tier port)).foldl (fun (s : State) (o : Op) =>
      (s.portFault (2 ^ 49 * tier + 2 ^ 35 * port)).failOp (s.ownerOf e.1) e.1 o .fault) s) s

/-- PERST_N, or a loss of the port's link (R400): every function is reset and tier-3 accesses behind the port fail. -/
def execPerstN (h : Fin 2) (s : State) : Host.Outcome State Fault Refusal :=
  if !s.cdpRuns then .next s
  else
    let s := (fnsOf h).foldl State.resetFn s
    let s := { s with pcie := s.pcie.put h.val {} }.failBehind 3 h.val
    .next (s.bumps [(0x8000 + h.val, 0x01), (0x8000 + h.val, 0x02), (0x8000 + h.val, 0x03)])

/-- PCIE_LINK_UP (R399): the port's link has trained at a rate and a width. At any other than those of R398 no link trains: "any option not listed
is absent". -/
def execPcieLinkUp (h : Fin 2) (rate width : Nat) (s : State) : Host.Outcome State Fault Refusal :=
  if !pcieLinkOk rate width ∨ s.mode = .off then .next s
  else .next (({ s with pcie := s.pcie.put h.val { (s.pcie.get {} h.val : PciePort) with up := true, rate := rate, width := width } }).bumps
    [(0x8000 + h.val, 0x01), (0x8000 + h.val, 0x02), (0x8000 + h.val, 0x03)])

/-- CXL_LINK_DROP (R415): the port is FAILED until the next start, and its accesses in flight fail. -/
def execCxlLinkDrop (n : Fin 4) (s : State) : Host.Outcome State Fault Refusal :=
  if s.cdpRuns ∧ s.objNat (0x8020 + n.val) 0x01 = 1 then
    let s := (s.setObj (0x8020 + n.val) 0x01 (natBytes 1 2)).logEvent { cls := 9, code := 1, inst := n.val }
    .next (s.failBehind 2 n.val)
  else .next s

/-! ## Register accesses (R134, R402, R404, R427) -/

/-- A misused register access is counted and logged (R402). -/
def State.misuse (s : State) (f : FnId) (a : Access) : State :=
  let s := s.countLog { cls := 8, counter := 0x9C00 + f.port.val, sub := 0x05, inst := f.port.val, detail := a.offset.toNat }
  match a.value with
  | some _ => s
  | none => s.emit (.readData (List.replicate a.width 0xFF#8))

/-- What RING_STATUS, MB_STATUS and RING_CTRL read as (R134, R427). -/
def Fn.ringStatus (x : Fn) : Nat := place 2 1 (boolBit x.overrun) ||| place 1 1 (boolBit x.halted) ||| boolBit x.current.isSome
def Fn.ringCtrl (x : Fn) : Nat := place 2 1 (boolBit x.irqArm) ||| boolBit x.enable
def Fn.mbStatus (x : Fn) : Nat :=
  place 4 1 (boolBit x.mbOverrun) ||| place 3 1 (boolBit x.noteLost) ||| place 2 1 (boolBit !x.notes.isEmpty) ||| place 1 1 (boolBit x.respReady) ||| boolBit x.reqBusy

/-- A read of an 8-byte register; none where the function has no such register. Write-only registers read 0 (R402). -/
def State.readReg (s : State) (f : FnId) (offset : Nat) : Option Nat :=
  let x := s.fn f
  match offset with
  | 0x000 => some x.intakeBase
  | 0x008 => some x.intakeCfg
  | 0x010 => some 0
  | 0x018 => some x.head
  | 0x020 => some x.complBase
  | 0x028 => some x.complCfg
  | 0x030 => some 0
  | 0x038 => some x.ringCtrl
  | 0x040 => some x.ringStatus
  | 0x2000 => some 0
  | 0x2008 => some x.mbStatus
  | 0x2010 => some 0
  | 0x4000 => if f.fn.val = 0 then some (s.window f.port.val).base.toNat else none
  | 0x4008 => if f.fn.val = 0 then some (s.window f.port.val).refused else none
  | _ => none

/-- The value that a CFG register takes (R134). -/
def cfgOf (v : Nat) : Nat := if 6 ≤ v % 32 ∧ v % 32 ≤ 16 then v % 32 else 6

/-- A write of an 8-byte register; none where it is read-only, its rule forbids the write now, or there is none. -/
def State.writeReg (s : State) (f : FnId) (offset v : Nat) : Option (Host.Outcome State Fault Refusal) :=
  let x := s.fn f
  let w := BitVec.ofNat 64 v
  let idle := fun (y : Fn) => if x.enable then none else some (Host.Outcome.next (s.setFn f y))
  match offset with
  | 0x000 => idle { x with intakeBase := v / 64 * 64 }
  | 0x008 => idle { x with intakeCfg := cfgOf v }
  | 0x010 => some (execIntakeTail f w s)
  | 0x020 => idle { x with complBase := v / 128 * 128 }
  | 0x028 => idle { x with complCfg := cfgOf v }
  | 0x030 => some (execComplHead f w s)
  | 0x038 => some (.next (s.writeRingCtrl f w))
  | 0x2000 => some (execMbDoorbell f w s)
  | 0x2010 => some (execMbAck f w s)
  | 0x4000 => if f.fn.val = 0 then some (.next (s.setWindow f.port.val { s.window f.port.val with base := BitVec.ofNat 64 (place 30 26 (v / 2 ^ 30)) })) else none
  | _ => none

/-- An access of a message area of the mailbox (R427); NOTE takes the widths that RESP takes (DEDUCED, log 46). -/
def State.areaAccess (s : State) (f : FnId) (a : Access) : State :=
  let x := s.fn f
  let o := a.offset.toNat
  let read := fun (l : List Byte) (base : Nat) => s.emit (.readData (slice (l ++ zeros 512) (o - base) a.width))
  match a.value with
  | some v =>
    if 0x1200 ≤ o then s.misuse f a
    else if x.reqBusy then s.setFn f { x with mbOverrun := true }
    else s.setFn f { x with req := (natBytes a.width v.toNat).zipIdx.foldl (fun t (b, i) => t.put (o - 0x1000 + i) b) x.req }
  | none => if o < 0x1200 then s.emit (.readData (zeros a.width)) else if o < 0x1600 then read x.resp 0x1400 else read (x.notes.headD []) 0x1800

/-- A value written takes no more than the width of its access. -/
def Access.narrow (a : Access) : Access := { a with value := a.value.map (fun v => BitVec.ofNat 64 (v.toNat % 2 ^ (8 * a.width))) }

/-- The offset lies in a message area. -/
def inArea (o : Nat) : Bool := decide (0x1000 ≤ o ∧ o < 0x1200) || decide (0x1400 ≤ o ∧ o < 0x1600) || decide (0x1800 ≤ o ∧ o < 0x1A00)

/-- BAR_MISUSE (R402): an access that no rule allows is counted; one that is allowed has its effect (log 11). The MSI-X table and its pending
bits are those of the PCIe specification, of which the part's documents say nothing more: a read gives a free value (log 47). -/
def execBarMisuse (f : FnId) (a : Access) (s : State) : Host.Outcome State Fault Refusal :=
  let a := Access.narrow a
  let o := a.offset.toNat
  if !s.cdpRuns then .next s
  else if inArea o then
    .next (if (a.width = 4 ∨ a.width = 8) ∧ o % a.width = 0 then s.areaAccess f a else s.misuse f a)
  else if 0x3000 ≤ o ∧ o < 0x4000 then
    .next (match a.value with
      | some _ => s
      | none => let r := s.draw (8 * a.width); r.2.emit (.readData (natBytes a.width r.1.toNat)))
  else if a.width ≠ 8 ∨ o % 8 ≠ 0 then .next (s.misuse f a)
  else match a.value with
    | none => match s.readReg f o with
      | some v => .next (s.emit (.readData (natBytes 8 v)))
      | none => .next (s.misuse f a)
    | some v => match s.writeReg f o v.toNat with
      | some r => r
      | none => .next (s.misuse f a)

/-! ## The device window (R404, R405) -/

/-- A block that the window reaches: in service, of no partition, and cleared. -/
def State.windowBlock (s : State) (b : Nat) : Bool := !(s.block b).retired && (s.partOf b).isNone && !(s.block b).clearing

/-- The window reaches a word (R405). -/
def State.windowWord (s : State) (a : Nat) : Bool :=
  if 2 ^ 51 ≤ a then false
  else if tierOf a = 0 then decide (a / 2 ^ 27 = 0) && decide (a % 2 ^ 19 < Config.blockWords) && s.windowBlock (a / 2 ^ 19)
  else s.rangeOk (32 * a) 32 && !s.allocs.any (fun e => e.2.state == 2 && meets (32 * a) 32 e.2.base e.2.size)

/-- A refused access: a read gets Completer Abort, a write is discarded; counted once (R405). -/
def State.windowRefuse (s : State) (h : Nat) (read : Bool) : State :=
  let s := s.setWindow h { s.window h with refused := ((s.window h).refused + 1) % 2 ^ 48 }
  if read then s.emit .abort else s

/-- The first word behind a port that is not there (R400, R415). -/
def State.windowDown (s : State) (l : List Nat) : Option Nat := l.find? (fun a => !s.tierUp a)

/-- A window read of words that may be reached (R405, R415). -/
def State.windowRead (s : State) (l : List Nat) (skip n : Nat) : State :=
  let r := readRun s.mem l
  let s := s.mended0 (r.mended.filter (fun a => tierOf a == 0))
  let s := s.mendedTier (r.mended.filter (fun a => tierOf a != 0))
  match r.failed with
  | some (a, c, _) =>
    (s.countLog { cls := 3, counter := 0x9400, sub := if c = .uncorrectable then 4 else 5, status := c.code, detail := a * 32 }).emit .abort
  | none => s.emit (.readData (slice (wordsBytes r.words) skip n))

/-- WINDOW_ACCESS (R405, R483): judged as a whole. An access to a port that is not there is answered or discarded as a refused one is, but is a
fault of the port (log 48). -/
def execWindowAccess (h : Fin 2) (offset : BitVec 36) (a : WindowOp) (s : State) : Host.Outcome State Fault Refusal :=
  let base := (s.window h.val).base.toNat + offset.toNat
  let (read, n) := match a with
    | .read n => (true, n)
    | .write l => (false, l.length)
  let first := base / 32
  let l := addrs first (ceilDiv (base + n) 32 - first)
  if !s.cdpRuns ∨ n = 0 then .next s
  else if s.mode = .frozen ∨ s.mode = .recovery ∨ (!read ∧ (base % 32 ≠ 0 ∨ n % 32 ≠ 0)) ∨ !l.all s.windowWord then .next (s.windowRefuse h.val read)
  else match s.windowDown l with
    | some a => .next (let s := s.portFault a; if read then s.emit .abort else s)
    | none =>
      let s := match l with
        | x :: _ => s.noteSlow x
        | [] => s
      match a with
      | .read _ => .next (s.windowRead l (base % 32) n)
      | .write bytes => .next (s.writeWords (l.zip (bytesWords l.length bytes)))

/-! ## PCIe errors (R411) -/

/-- A fetch from a ring is under way or about to be (R135). -/
def State.fetching (s : State) (f : FnId) : Bool :=
  let x := s.fn f
  s.live && x.enable && !x.halted && x.current.isNone && x.head != x.tail && x.hasRoom && x.queued.isEmpty && s.portFast f.port.val

/-- The operation that an error meets fails (R135, R411). The completion of an entry that was not read carries a TAG and a KIND of 0 (log 49). -/
def State.pcieFails (s : State) (h : Nat) (c : Status) : PcieVictim → State
  | .none => s
  | .fetch f =>
    if !s.fetching f ∨ f.port.val ≠ h then s
    else
      let x := s.fn f
      let s := (s.setFn f { x with current := some 0, reserved := x.reserved + 1 }).close (.ring f) c
      s.setFn f { s.fn f with halted := true }
  | .entry src =>
    match s.current src with
    | none => s
    | some d =>
      if dKind d = 6 ∨ dKind d = 7 then (if (s.movedOf src).isSome ∨ (srcPort src ≠ h ∧ dTier d ≠ 3) then s else s.setMoved src (0, c))
      else if (dKind d = 2 ∨ dKind d = 4) ∧ srcPort src = h then s.close src c
      else s
  | .mover b =>
    match (s.block b.val).inflight.find? (fun o => s.uses b.val o 3 h) with
    | some o => s.failOp (s.ownerOf b.val) b.val o c
    | none => s

/-- PCIE_ERROR (R411). -/
def execPcieError (h : Fin 2) (err : PcieError) (hit : PcieVictim) (s : State) : Host.Outcome State Fault Refusal :=
  let note := fun (sub : Nat) => s.countLog { cls := 8, counter := 0x9C00 + h.val, sub := sub, inst := h.val }
  if !s.cdpRuns then .next s
  else match err with
    | .correctable => .next (note 0x01)
    | .nonfatal => .next (note 0x02)
    | .timeout => .next ((note 0x03).pcieFails h.val .fault hit)
    | .urOrCa => .next ((note 0x03).pcieFails h.val .fault hit)
    | .poisonedRead => .next ((note 0x04).pcieFails h.val .uncorrectable hit)
    | .poisonedWrite => .next (note 0x04)

end Sys2Proof.Machine
end

