-- ==== Sys2Proof/Machine/Storage.lean ====
section
/-! DEFINITION. The storage ports: queue pairs and the fetch (R416 to R423). -/
namespace Sys2Proof.Machine

/-! ## Links (R416) -/

/-- ETH_LINK_UP (R416). -/
def execEthLinkUp (e : Fin 2) (s : State) : Host.Outcome State Fault Refusal :=
  if s.mode = .off ∨ s.objNat (0x8040 + e.val) 0x01 = 1 then .next s else .next (s.setObj (0x8040 + e.val) 0x01 (natBytes 1 1))

/-- ETH_LINK_DOWN (R416): queue pairs on the port meet their local ACK timeouts. -/
def execEthLinkDown (e : Fin 2) (s : State) : Host.Outcome State Fault Refusal :=
  if s.mode = .off ∨ s.objNat (0x8040 + e.val) 0x01 = 0 then .next s else .next (s.setObj (0x8040 + e.val) 0x01 (natBytes 1 0))

/-! ## Queue pairs (R417 to R419) -/

/-- QP_STATE and the fields of QP_CONFIG (R417). -/
def State.qpState (s : State) (q : Nat) : Nat := s.objNat (0x8400 + q) 0x01
def State.qpConfig (s : State) (q : Nat) : List Byte := s.obj (0x8400 + q) 0x02
def qcPort (c : List Byte) : Nat := leAt c 0 1
def qcMtu (c : List Byte) : Nat := 2 ^ (7 + leAt c 1 1)
def qcTenant (c : List Byte) : Nat := leAt c 2 1
def qcRetry (c : List Byte) : Nat := leAt c 40 1
def qcReads (c : List Byte) : Nat := leAt c 41 1
/-- The local ACK timeout in ticks: 4.096 µs × 2^TIMEOUT. -/
def qcTimeout (c : List Byte) : Nat := ceilDiv (65536 * 2 ^ leAt c 39 1) 10

/-- A valid configuration (R417). -/
def qpConfigOk (c : List Byte) : Bool :=
  let v6 := leAt c 3 1 == 1
  decide (qcPort c ≤ 1 ∧ 3 ≤ leAt c 1 1 ∧ leAt c 1 1 ≤ 5 ∧ leAt c 3 1 ≤ 1) && leAt c 7 1 == 0 && leAt c 11 1 == 0 && slice c 12 4 == zeros 4
    && (v6 || slice c 20 12 == zeros 12) && decide (leAt c 38 1 < 64 ∧ 1 ≤ leAt c 39 1 ∧ leAt c 39 1 ≤ 20 ∧ qcRetry c ≤ 7 ∧ 1 ≤ qcReads c ∧ qcReads c ≤ 16)
    && slice c 42 22 == zeros 22

def State.qp (s : State) (q : Nat) : QueuePair := s.qps.get {} q
def State.setQp (s : State) (q : Nat) (x : QueuePair) : State := { s with qps := s.qps.put q x }

/-- Packets sent: 1 a READ request, 2 a SEND, 3 a congestion notification, 4 a NAK of Invalid Request (R416, R419). -/
def State.sendRoce (s : State) (q psn kind : Nat) (l : List Byte) : State := s.emit (.roce q psn kind l)

/-- The bytes of an entry of a manifest (R420). -/
def feDest (e : FetchEntry) : Nat := leAt e.bytes 64 8
def feLength (e : FetchEntry) : Nat := leAt e.bytes 72 8
def feQp (e : FetchEntry) : Nat := leAt e.bytes 92 2
def feTenant (e : FetchEntry) : Nat := leAt e.bytes 94 1
def feNotify (e : FetchEntry) : Bool := leAt e.bytes 95 1 % 2 == 1
def feWire (e : FetchEntry) : Bool := leAt e.bytes 95 1 / 2 % 2 == 1
def feKey (e : FetchEntry) : Nat := leAt e.bytes 96 2

/-- An entry of the fetch; a READ whose entry has ended names none. -/
def State.fetchAt (s : State) (i : Nat) : FetchEntry := s.fetch.getD i { bytes := [], state := 3 }

/-- The READ request for the part of a READ from its first missing response: remote address, key and length (R420, R422). -/
def State.readRequest (s : State) (mtu : Nat) (r : ReadRequest) : Nat × Nat × List Byte :=
  let done := r.come * mtu
  let e := s.fetchAt r.entry
  ((r.psn + r.come) % 2 ^ 24, 1, natBytes 8 (leAt e.bytes 80 8 + r.offset + done) ++ slice e.bytes 88 4 ++ natBytes 4 (r.length - done))

/-- Put a packet among others in the order of their PSNs after a first one. -/
def placePsn (first : Nat) (p : Nat × Nat × List Byte) : List (Nat × Nat × List Byte) → List (Nat × Nat × List Byte)
  | [] => [p]
  | q :: t => if (p.1 + 2 ^ 24 - first) % 2 ^ 24 ≤ (q.1 + 2 ^ 24 - first) % 2 ^ 24 then p :: q :: t else q :: placePsn first p t

/-- Send everything outstanding again, in the order of the PSNs (R419). -/
def State.resendQp (s : State) (q : Nat) : State :=
  let x := s.qp q
  let l := x.reads.map (s.readRequest (qcMtu (s.qpConfig q))) ++ x.sends.map (fun (n, b) => (n, 2, b))
  (l.foldr (placePsn ((x.psn + 2 ^ 23) % 2 ^ 24)) []).foldl (fun s (n, k, b) => s.sendRoce q n k b) s

/-- A queue pair goes to ERROR (R418, R419). -/
def State.qpFails (s : State) (q cause : Nat) : State :=
  let s := (s.setObj (0x8400 + q) 0x01 [2#8]).setObj (0x8400 + q) 0x03 (natBytes 1 cause)
  let s := s.setQp q { s.qp q with reads := [], sends := [] }
  s.countLog { cls := 10, counter := 0x9C20 + qcPort (s.qpConfig q), sub := 0x02, inst := qcPort (s.qpConfig q), detail := q }

/-- A timeout or a sequence error: retried, or ERROR when the retries are used up (R417, R419). -/
def State.qpRetries (s : State) (q : Nat) : State :=
  let x := s.qp q
  if qcRetry (s.qpConfig q) ≤ x.retries then s.qpFails q 1
  else (s.setQp q { x with retries := x.retries + 1, lastAt := s.town }).resendQp q

/-- A queue pair has a request outstanding. -/
def QueuePair.busy (x : QueuePair) : Bool := !x.reads.isEmpty || !x.sends.isEmpty

/-- A write of QP_STATE (R418). -/
def actQpState (s : State) (a : Ask) : Except Nat Done :=
  let q := a.index - 0x8400
  needs (decide (a.num ≤ 1)) cdpRange <|
    if a.num = 0 then
      let was := s.qpState q
      let s := if was = 0 then s else s.setObj a.index 0x03 (natBytes 1 5)
      .ok { s := (s.storeRaw a.index a.sub a.value).setQp q {} }
    else
      needs (s.qpState q == 0 && qpConfigOk (s.qpConfig q)) cdpState <|
        .ok { s := (s.storeRaw a.index a.sub a.value).setQp q { psn := leAt (s.qpConfig q) 8 3, lastAt := s.town } }

/-- QP_STATE_WRITE (R418). -/
def execQpStateWrite (via : Via) (s : State) : Host.Outcome State Fault Refusal := .next (s.cdpRow via (writesAt 0x8400 1024 0x01) actQpState)

/-- QP_ACK_TIMEOUT (R417, R419): nothing has come for the local ACK timeout while a request is outstanding. -/
def execQpAckTimeout (q : Fin 1024) (s : State) : Host.Outcome State Fault Refusal :=
  let x := s.qp q.val
  if s.live ∧ s.qpState q.val = 1 ∧ x.busy ∧ x.lastAt + qcTimeout (s.qpConfig q.val) ≤ s.town then .next (s.qpRetries q.val) else .next s

/-! ## The fetch (R420 to R422) -/

def State.setFetch (s : State) (i : Nat) (e : FetchEntry) : State := ({ s with fetch := setAt s.fetch i e }).bump 0x8100 0x03

/-- An entry has not ended. -/
def FetchEntry.open_ (e : FetchEntry) : Bool := decide (e.state ≤ 1)

/-- A fetch is running. -/
def State.fetchRuns (s : State) : Bool := s.fetch.any FetchEntry.open_

/-- Issue READs on a queue pair for the first of its entries that has not ended, at most MAX_READS outstanding (R422). -/
def State.pumpQp (s : State) (q : Nat) : Nat → State
  | 0 => s
  | fuel + 1 =>
    match s.fetch.findIdx? (fun e => e.open_ && feQp e == q) with
    | none => s
    | some i =>
      let e := s.fetchAt i
      let x := s.qp q
      let c := s.qpConfig q
      if s.qpState q ≠ 1 ∨ feLength e ≤ e.asked ∨ qcReads c ≤ x.reads.length then s
      else
        let n := min 1048576 (feLength e - e.asked)
        let r : ReadRequest := { psn := x.psn, count := ceilDiv n (qcMtu c), entry := i, offset := e.asked, length := n }
        let s := (s.setFetch i { e with state := 1, asked := e.asked + n }).setQp q
          { x with psn := (x.psn + r.count) % 2 ^ 24, reads := x.reads ++ [r], lastAt := if x.busy then x.lastAt else s.town }
        let (psn, kind, l) := s.readRequest (qcMtu c) r
        (s.sendRoce q psn kind l).pumpQp q fuel

/-- The layout of an entry (R420). -/
def fetchEntryOk (l : List Byte) : Bool :=
  let e : FetchEntry := { bytes := l }
  feLength e != 0 && feLength e % 32 == 0 && feDest e % 32 == 0 && feDest e / 2 ^ 54 == 1 && decide (feQp e < 1024) && decide (leAt l 95 1 < 4) && slice l 98 30 == zeros 30

/-- Why an entry may not start, in the order of R421 (log 52). -/
def State.fetchCause (s : State) (a : Ask) (l : List Byte) : Option Nat :=
  let e : FetchEntry := { bytes := l }
  let t := feTenant e
  let qt := qcTenant (s.qpConfig (feQp e))
  if a.role = 3 ∧ t ≠ a.tenant then some cdpRights
  else if !fetchEntryOk l then some cdpRange
  else if s.qpState (feQp e) ≠ 1 then some cdpState
  else if qt ≠ 0xFF ∧ qt ≠ t then some cdpRights
  else if !s.allocs.any (fun x => x.2.state == 1 && x.2.tenant == t && decide (x.2.base ≤ feDest e ∧ feDest e + feLength e ≤ x.2.base + x.2.size)) then some cdpRange
  else if s.parts.any (fun p => p.2.partState == 1 && p.2.handles.any (fun h => !hOnBlock h.2 && hKind h.2 != 0 && meets (feDest e) (feLength e) (hBase h.2) (32 * hSize h.2))) then some cdpState
  else if !s.keyOk (feKey e) t then some cdpRights
  else none

/-- Cut bytes into n pieces of 128. -/
def pieces128 (l : List Byte) : List (List Byte) := (List.range (l.length / 128)).map (fun i => slice l (128 * i) 128)

/-- FETCH_START (R421). -/
def actFetchStart (s : State) (a : Ask) : Except Nat Done :=
  let l := pieces128 (s.obj 0x8100 0x01)
  match l.findSome? (s.fetchCause a) with
  | some c => .error c
  | none =>
    needs (!s.fetchRuns) cdpState <|
      let s := ({ s with fetch := l.map (fun b => { bytes := b }) }).bump 0x8100 0x03
      .ok { s := (((s.fetch.map feQp).eraseDups).foldl (fun s q => s.pumpQp q 16) s) }

/-- FETCH_START (R421). -/
def execFetchStart (via : Via) (s : State) : Host.Outcome State Fault Refusal := .next (s.cdpRow via (writesAt 0x8100 1 0x02) actFetchStart)

/-- Bytes of a READ response are written to tier 1 under the entry's key, decrypted first with WIRE_ENC (R408, R422). -/
def State.fetchBytes (s : State) (i : Nat) (e : FetchEntry) (offset : Nat) (l : List Byte) : State :=
  let at_ := (feDest e + offset) / 32
  let n := l.length / 32
  let ws := (addrs at_ n).zip (bytesWords n l) |>.map (fun (a, w) => (a, if feWire e then s.hostWord (feTenant e) false a w else w))
  let s := (s.writeTier (feKey e) ws).serviceMove (some (feTenant e)) at_ n
  let s := s.count (0x9C20 + qcPort (s.qpConfig (feQp e))) 0x04 l.length
  s.setFetch i { e with got := e.got + l.length, data := e.data ++ wordsBytes (ws.map Prod.snd) }

/-- The sender is told of congestion at most once in 50 µs (R416). -/
def State.congested (s : State) (q : Nat) : State :=
  let x := s.qp q
  let recent : Bool := match x.cnpAt with
    | some t => decide (s.town < t + 50 * Config.ticksPerUs)
    | none => false
  if recent then s
  else ((s.setQp q { x with cnpAt := some s.town }).sendRoce q 0 3 []).count (0x9C20 + qcPort (s.qpConfig q)) 0x03 1

/-- A PSN lies in the range of an outstanding READ. -/
def ReadRequest.covers (r : ReadRequest) (psn : Nat) : Bool := decide ((psn + 2 ^ 24 - r.psn) % 2 ^ 24 < r.count)

/-- A READ response on a queue pair in RTS (R419, R422): the next one is written; one that came before is dropped; one that comes too early is a
sequence error; another fits no request (log 50). -/
def State.readResponse (s : State) (q psn : Nat) (marked : Bool) (l : List Byte) : State :=
  let x := s.qp q
  let mtu := qcMtu (s.qpConfig q)
  match x.reads with
  | [] => s.qpFails q 3
  | r :: t =>
    let place := (psn + 2 ^ 24 - r.psn) % 2 ^ 24
    if !(r :: t).any (fun y => y.covers psn) then s.qpFails q 3
    else if r.covers psn ∧ place < r.come then s
    else if !r.covers psn ∨ r.come < place then s.qpRetries q
    else if l.length ≠ min mtu (r.length - r.come * mtu) then s.qpFails q 3
    else
      let e := s.fetchAt r.entry
      let r' := { r with come := r.come + 1 }
      let s := s.setQp q { x with reads := if r'.come = r.count then t else r' :: t, retries := 0, lastAt := s.town }
      let s := if e.open_ then s.fetchBytes r.entry e (r.offset + r.come * mtu) l else s
      let s := if marked then s.congested q else s
      s.pumpQp q 16

/-- An acknowledgement of SENDs (R419). -/
def State.sendAcked (s : State) (q psn : Nat) : State :=
  let x := s.qp q
  match x.sends.findIdx? (fun e => e.1 == psn) with
  | none => s.qpFails q 3
  | some i => s.setQp q { x with sends := x.sends.drop (i + 1), retries := 0, lastAt := s.town }

/-- The queue pair that a packet names on a port takes part: it is known and not in RESET (R419). -/
def State.qpTakes (s : State) (e q : Nat) : Bool := decide (q < 1024) && s.qpState q != 0 && qcPort (s.qpConfig q) == e

/-- A READ response whose data would be stored waits at its port while the service slots of its range, or its tenant's bucket, take no more (R187, R205, R422). -/
def State.storeWaits (s : State) (q : Nat) : Bool :=
  match (s.qp q).reads with
  | [] => false
  | r :: _ =>
    let e := s.fetchAt r.entry
    e.open_ && !s.serviceReady (some (feTenant e)) ((feDest e + r.offset + r.come * qcMtu (s.qpConfig q)) / 32)

/-- ROCE_PACKET (R416, R419, R483). While the part is frozen responses are dropped. -/
def execRocePacket (e : Fin 2) (pkt : RocePacket) (s : State) : Host.Outcome State Fault Refusal :=
  let drop := fun (s : State) => s.countLog { cls := 10, counter := 0x9C20 + e.val, sub := 0x01, inst := e.val }
  let on := fun (q : Nat) (f : State → State) => if !s.qpTakes e.val q then drop s else if s.qpState q = 1 then f s else s
  if s.mode ≠ .running then .next s
  else match pkt with
    | .bad => .next (drop s)
    | .response q psn marked l => .next (on q (fun s => if s.storeWaits q then s else s.readResponse q psn.toNat marked l))
    | .ack q psn => .next (on q (fun s => s.sendAcked q psn.toNat))
    | .nakSequence q _ => .next (on q (fun s => s.qpRetries q))
    | .nakFatal q _ => .next (on q (fun s => s.qpFails q 2))
    | .badResponse q => .next (on q (fun s => s.qpFails q 3))
    | .request q => .next (on q (fun s => (s.sendRoce q 0 4 []).qpFails q 4))

/-- How an entry ends, if it can end now: 0 with a digest that matches, or a cause (R422). -/
def State.fetchEnd (s : State) (e : FetchEntry) : Option Nat :=
  if !e.open_ then none
  else if s.qpState (feQp e) ≠ 1 then some Status.fault.code
  else if !s.keyOk (feKey e) (feTenant e) then some Status.rights.code
  else if e.got = feLength e then (if sha3 e.data = e.bytes.take 64 then some 0 else some 0x12)
  else none

/-- The SEND that reports an entry's end to the remote peer (R422). -/
def notifyBytes (i cause : Nat) (e : FetchEntry) : List Byte :=
  natBytes 4 i ++ natBytes 4 cause ++ natBytes 8 e.got ++ natBytes 8 (feDest e) ++ natBytes 4 (feKey e) ++ zeros 4 ++ sha3 e.data

/-- Send a report on a queue pair that is in RTS. -/
def State.notifyPeer (s : State) (q : Nat) (l : List Byte) : State :=
  if s.qpState q ≠ 1 then s
  else
    let x := s.qp q
    (s.setQp q { x with psn := (x.psn + 1) % 2 ^ 24, sends := x.sends ++ [(x.psn, l)], lastAt := if x.busy then x.lastAt else s.town }).sendRoce q x.psn 2 l

/-- FETCH_ENTRY_END (R422): the range of an entry that failed is cleared. -/
def execFetchEntryEnd (i : Fin 256) (s : State) : Host.Outcome State Fault Refusal :=
  match s.live, s.fetch[i.val]? with
  | true, some e => match s.fetchEnd e with
    | none => .next s
    | some c =>
      let q := feQp e
      let s := s.setFetch i.val { e with state := if c = 0 then 2 else 3, cause := c, data := [] }
      let s := if c = 0 then s else (s.clearRange (feDest e / 32) (feLength e / 32)).count (0x9C20 + qcPort (s.qpConfig q)) 0x05 1
      let s := s.setQp q { s.qp q with reads := (s.qp q).reads.map (fun r => if r.entry = i.val then { r with entry := 256 } else r) }
      let s := if feNotify e then s.notifyPeer q (notifyBytes i.val c e) else s
      let s := s.pumpQp q 16
      .next (if s.fetchRuns then s else s.logEvent { cls := 10, code := 1, tenant := some (feTenant e), detail := i.val })
  | _, _ => .next s

end Sys2Proof.Machine
end

