-- ==== Sys2Proof/Machine/Writes.lean ====
section
/-! DEFINITION. The writes of objects that have no row of their own: the ranges and the conditions of every writable object, and what a
write does (R431, R443 and the object tables of the chapters). -/
namespace Sys2Proof.Machine

/-- A value out of its range, and conditions that do not hold. -/
def rangeIf (ok : Bool) : Option Nat := if ok then none else some cdpRange
def stateIf (ok : Bool) : Option Nat := if ok then none else some cdpState
/-- The first refusal of a list. -/
def firstOf (l : List (Option Nat)) : Option Nat := l.findSome? id

/-- The value lies from a to b. -/
def Ask.within (a : Ask) (lo hi : Nat) : Bool := decide (lo ≤ a.num ∧ a.num ≤ hi)

/-! ## The objects of a partition -/

/-- The upcoming value of an object of a partition, with the value asked for in place of its own. -/
def State.wouldBe (s : State) (p : Nat) (a : Ask) (index sub : Nat) : Nat :=
  if a.index = index ∧ a.sub = sub then a.num else leNat (s.upcoming p index sub)

/-- Part objects (R45, R164, R387). -/
def State.causePart (s : State) (p : Nat) (a : Ask) : Option Nat :=
  let up := fun sub => leNat (s.upcoming p a.index sub)
  let x := s.part p
  match a.sub with
  | 0x0C => stateIf (a.num == 0 || (up 0x0E % 65536 != 0xFFFF && up 0x0F != 0xFF && leNat (s.upcoming p (0x5300 + p) 0x01) == 0))
  | 0x0D => rangeIf (a.within 0 1)
  | 0x0E => rangeIf (a.within 0 (2 ^ 22 - 1))
  | 0x14 => rangeIf (a.within 0 (2 ^ 22 - 1))
  | 0x0F => rangeIf (a.within 0 63 || a.num == 0xFF)
  | 0x16 => rangeIf (a.within 0 63 || a.num == 0xFF)
  | 0x12 => rangeIf (a.value.length % 2 == 0 && decide (a.value.length ≤ 128) && (List.range (a.value.length / 2)).all (fun i =>
      let k := hKind (x.handles.get 0 (leAt a.value (2 * i) 2)); k == 1 || k == 2))
  | 0x13 => rangeIf (a.value.length % 2 == 0 && decide (a.value.length ≤ 128) && (List.range (a.value.length / 2)).all (fun i =>
      let k := hKind (x.handles.get 0 (leAt a.value (2 * i) 2)); k == 1 || k == 2))
  | 0x15 =>
    let base := leAt a.value 0 8
    let size := leAt a.value 8 8
    rangeIf (size == 0 || ((base / 2 ^ 54 == 1 || base / 2 ^ 54 == 2) && (match s.allocOf base size with
      | some e => e.tenant == x.owner
      | none => false)))
  | 0x18 => if 4096 < a.value.length then some cdpMalformed else rangeIf (a.value.length % 4 == 0 && decide (4 ≤ a.value.length))
  | _ => none

/-- No request of the partition is in one of some states. -/
def State.noRequest (s : State) (p : Nat) (f : ReqState → Bool) : Bool := (s.requestsOf p).all (fun e => !f e.2.state)

/-- The region of kerb frames lies in a tier, in memory allocated to the partition and its owner (R245, R278). -/
def State.kerbRegionOk (s : State) (p tier base frames : Nat) : Bool :=
  base % 65536 == 0 && decide (frames ≤ 2 ^ 26) && (frames == 0 || (base / 2 ^ 54 == tier && (match s.allocOf base (65536 * frames) with
    | some e => e.partition == p && e.tenant == (s.part p).owner
    | none => false)))

/-- The KV pool of a geometry lies in allocations of the partition's owner, in each of its pseudo-channels (R229, R278). -/
def State.poolOk (s : State) (p first pcs base frames : Nat) : Bool :=
  frames == 0 || (List.range pcs).all (fun k => match (s.channelsOf p)[first + k]? with
    | none => false
    | some c => match s.allocOf (32 * tier1 c 0 + base) (65536 * frames) with
      | some e => e.partition == p && e.tenant == (s.part p).owner
      | none => false)

/-- A movement between tiers holds kerb frames. -/
def ReqState.kerbs : ReqState → Bool
  | .kerbing => true
  | .kerbed => true
  | .recalling => true
  | _ => false

/-- Kerb objects (R245). -/
def State.causeKerb (s : State) (p : Nat) (a : Ask) : Option Nat :=
  let w := s.wouldBe p a a.index
  let free := stateIf (s.noRequest p ReqState.kerbs)
  let plan := stateIf (((s.part p).plans.find? (leNat (s.upcoming p a.index 0x0A))).isSome)
  let pages := leNat (s.upcoming p (0x5300 + p) 0x02)
  let group := leNat (s.upcoming p (0x5300 + p) 0x03)
  match a.sub with
  | 0x01 => firstOf [rangeIf (a.within 1 2), if a.num = 2 then plan else none]
  | 0x02 => if a.num = 1 then plan else none
  | 0x06 => firstOf [rangeIf (s.kerbRegionOk p 2 (w 0x06) (w 0x07)), free]
  | 0x07 => firstOf [rangeIf (s.kerbRegionOk p 2 (w 0x06) (w 0x07)), free]
  | 0x08 => firstOf [rangeIf (s.kerbRegionOk p 3 (w 0x08) (w 0x09)), free]
  | 0x09 => firstOf [rangeIf (s.kerbRegionOk p 3 (w 0x08) (w 0x09)), free]
  | 0x0C => rangeIf (decide (ceilDiv a.num (max 1 pages) * group ≤ 32))
  | 0x0D => rangeIf (a.within 1 65535)
  | _ => none

/-- A number is a power of two up to 2^9. -/
def isPower (n : Nat) : Bool := (List.range 10).any (fun k => n == 2 ^ k)

/-- The sum over the LIVE partitions of what each would have, with the value asked for (R230, R231). -/
def State.shares (s : State) (f : Nat → Nat) : Nat := (s.parts.map (fun e => if e.2.partState = 1 then f e.1 else 0)).foldl (· + ·) 0

/-- Serving objects (R230, R231, R243, R387). -/
def State.causeServing (s : State) (p : Nat) (a : Ask) : Option Nat :=
  let idle := stateIf (s.noRequest p (fun st => st != .free))
  let w := s.wouldBe p a (0x5300 + p)
  let pool := rangeIf (s.poolOk p (w 0x04) (w 0x05) (w 0x06) (w 0x07))
  let staging := stateIf (decide (s.shares (fun q => s.wouldBe q a (0x5300 + q) 0x01 * s.wouldBe q a (0x5300 + q) 0x09 * 4) ≤ 16777216))
  match a.sub with
  | 0x01 => firstOf [rangeIf (a.within 0 2048), stateIf (a.num == 0 || leNat (s.upcoming p (0x4000 + p) 0x0C) == 0), staging]
  | 0x02 => firstOf [rangeIf (isPower a.num), idle]
  | 0x03 => firstOf [rangeIf (a.within 1 256), idle]
  | 0x04 => firstOf [pool, idle]
  | 0x05 => firstOf [pool, idle]
  | 0x06 => firstOf [rangeIf (a.num % 65536 == 0), pool, idle]
  | 0x07 => firstOf [pool, idle]
  | 0x08 => stateIf (decide (s.shares (fun q => s.wouldBe q a (0x5300 + q) 0x08) ≤ 8388608))
  | 0x09 => firstOf [rangeIf (a.within 8 2048 && a.num % 8 == 0), staging]
  | 0x0A => rangeIf (a.value.length % 4 == 0 && decide (a.value.length ≤ 32))
  | 0x0B => rangeIf (a.value.length % 4 == 0 && decide (a.value.length ≤ 8192))
  | _ => none

/-- Generation objects (R258). -/
def State.causeGen (s : State) (p : Nat) (a : Ask) : Option Nat :=
  match a.sub with
  | 0x01 => stateIf ((s.part p).gen0 == 0)
  | 0x02 => stateIf ((s.part p).gen1 == 0)
  | 0x03 => stateIf ((s.part p).gen0 == 0)
  | 0x04 => stateIf ((s.part p).gen1 == 0)
  | 0x06 => rangeIf (a.within 0 4096)
  | 0x07 => rangeIf (a.within 0 1)
  | _ => none

/-- Expert objects (R256). -/
def causeExperts (a : Ask) : Option Nat :=
  match a.sub with
  | 0x01 => rangeIf (a.within 0 1024)
  | 0x02 => rangeIf ((List.range 1024).all (fun e => let c := leAt a.value (2 * e) 2; decide (c ≤ 0xFF ∨ 0xFFFE ≤ c)))
  | _ => none

/-! ## The other objects -/

/-- Tenant objects (R273). -/
def State.causeTenant (s : State) (t : Nat) (a : Ask) : Option Nat :=
  if a.sub = 0x04 ∨ a.sub = 0x05 then firstOf [rangeIf (a.within 0 4095), stateIf (a.num == 0 || s.keyOk a.num t)]
  else if 0x24 ≤ a.sub ∧ a.sub ≤ 0x27 then rangeIf (decide (1 ≤ a.num)) else none

/-- A loaded handle names a host window (R206). -/
def State.windowNamed (s : State) (h : Nat) : Bool :=
  s.parts.any (fun p => p.2.handles.any (fun e => !hOnBlock e.2 && hKind e.2 != 0 && tierOf (hAddr e.2 0) == 3 && hostPort (hAddr e.2 0) == h))

/-- The fabric as it would be: the route table agrees with the routes, the coordinates, and this part's own entry (R326). -/
def State.fabricOk (s : State) : Bool :=
  let l := (List.range 65535).filter (fun e => s.known e)
  let port := fun e => s.routeEntry e / 2 ^ 18 % 8
  let cs := l.map s.coordsOf
  l.all (fun e => port e == (s.egressFrom s.wholeTorus s.here (s.coordsOf e)).getD 7) && cs.eraseDups.length == cs.length
    && (s.endpoint == 0xFFFF || (s.known s.endpoint && port s.endpoint == 7 && s.coordsOf s.endpoint == s.here))

/-- Reserved bits of the route table's valid entries are zero (R326). -/
def routeTableOk (l : List Byte) : Bool := (List.range 65536).all (fun e => leAt l (4 * e) 4 / 2 ^ 21 % 2 ^ 10 == 0)

/-- Fabric objects (R326, R356); no entry is asked of a part that has no endpoint yet. -/
def State.causeFabric (s : State) (a : Ask) : Option Nat :=
  let closed := stateIf (s.jobs.all (fun e => e.2.state == 0))
  let fits := stateIf ((s.storeRaw a.index a.sub a.value).fabricOk)
  match a.sub with
  | 0x02 => firstOf [rangeIf (decide (a.num < 2 ^ 18)), closed, fits]
  | 0x03 => firstOf [rangeIf (a.num / 2 ^ 18 % 64 == 0 && decide (a.num < 2 ^ 27)), closed, fits]
  | 0x04 => firstOf [rangeIf (routeTableOk a.value), closed, fits]
  | _ => none

/-- Job objects (R344, R356, R387). -/
def State.causeJob (s : State) (j : Nat) (a : Ask) : Option Nat :=
  let closed := stateIf ((s.job j).state == 0)
  match a.sub with
  | 0x02 => closed
  | 0x03 => firstOf [rangeIf (a.within 0 63 || a.num == 0xFF), closed]
  | 0x04 => firstOf [rangeIf (slice a.value 6 2 == zeros 2 && (List.range 3).all (fun d => decide (leAt a.value d 1 < 64 ∧ 1 ≤ leAt a.value (3 + d) 1 ∧ leAt a.value (3 + d) 1 ≤ 64))), closed]
  | 0x0A => closed
  | _ => none

/-- Refusals of a write or of the value it carries (R443, orders 11 and 12). -/
def State.writeCause (s : State) (a : Ask) : Option Nat :=
  match within a.index 0x4000 64, within a.index 0x5100 64, within a.index 0x5200 64, within a.index 0x5300 64, within a.index 0x5400 64 with
  | some p, _, _, _, _ => s.causePart p a
  | _, some p, _, _, _ => s.causeKerb p a
  | _, _, some p, _, _ => s.causeGen p a
  | _, _, _, some p, _ => s.causeServing p a
  | _, _, _, _, some _ => causeExperts a
  | _, _, _, _, _ =>
    match within a.index 0x4100 256, within a.index 0x7200 64, within a.index 0x7100 6, within a.index 0x8040 2, within a.index 0x8400 1024 with
    | some t, _, _, _, _ => s.causeTenant t a
    | _, some j, _, _, _ => s.causeJob j a
    | _, _, some _, _, _ => if a.sub = 0x09 then rangeIf (a.within 10 1000000) else none
    | _, _, _, some _, _ =>
      if a.sub = 0x02 then rangeIf (decide (a.num < 2 ^ 48)) else if a.sub = 0x04 then rangeIf (decide (a.num < 2 ^ 15) || a.num == 0xFFFF)
      else if a.sub = 0x05 then rangeIf (a.within 0 7 || a.num == 0xFF) else none
    | _, _, _, _, some q => if a.sub = 0x02 then stateIf (s.qpState q == 0) else none
    | _, _, _, _, _ =>
      match a.index, a.sub with
      | 0x3000, 0x04 => rangeIf (a.within 10 1000000)
      | 0x6000, sub =>
        if sub = 0x18 ∨ sub = 0x19 then firstOf [rangeIf (a.num % 2 ^ 30 == 0 && decide (a.num ≤ 2 ^ 40)), stateIf (!s.windowNamed (sub - 0x18))]
        else firstOf [rangeIf (a.num % 4096 == 0), stateIf (!s.windowNamed (sub - 0x1A))]
      | 0x7000, _ => s.causeFabric a
      | 0x8080, 0x01 => rangeIf (decide (a.num < 2 ^ 48))
      | 0x8080, _ => rangeIf (a.within 0 7 || a.num == 0xFF)
      | 0x8100, _ => firstOf [rangeIf (a.value.length % 128 == 0 && decide (a.value.length ≤ 32768)), stateIf (!s.fetchRuns)]
      | 0x9000, _ => rangeIf (a.within 0 1)
      | 0x2100, _ => rangeIf (a.within 0 1 || a.num == 0xFF)
      | 0x2200, _ => firstOf [rangeIf (decide (a.value.length ≤ 1048576)), stateIf s.card.isSome]
      | 0xB000, 0x02 => rangeIf (a.within 100 1000000)
      | 0xB000, 0x03 => rangeIf (a.within 60 604800)
      | 0x3200, _ => rangeIf (a.within 1000 2400)
      | _, _ => none

/-- The session object takes a value (R447). -/
def State.setSessionObject (s : State) (a : Ask) : State :=
  match s.cdp.sessions.find? a.sid with
  | none => s
  | some x => s.setSession a.sid (if a.index = 0xC020 then { x with subscribe := a.num } else if a.index = 0x9000 then { x with view := a.num } else { x with logSelect := a.num })

/-- The source is on the management port. -/
def Source.isFrame : Source → Bool
  | .frame _ => true
  | _ => false

/-- What a write does at once (R431, R438, R447, R477). -/
def State.writeNow (s : State) (a : Ask) : State :=
  if sessionObject a.index a.sub then s.setSessionObject a
  else if 0xF000 ≤ a.index then s
  else if a.index = 0x2200 then ({ s with card := s.card.map (fun (c : CardImage) => { c with options := a.value }) } : State).emit (.cardWrite "option block")
  else
    let s := s.storeRaw a.index a.sub a.value
    let s := if a.index = 0x7000 then s.bump 0x7000 0x05 else s
    let s := if a.index = 0xC000 ∧ a.sub = 0x04 then s.closeSessions (fun x => x.role == 1 && x.source.isFrame) true
      else if a.index = 0xC000 ∧ a.sub = 0x05 then s.closeSessions (fun x => x.role == 2) true else s
    match partObject a.index with
    | some p => s.measureIdle p
    | none => s

/-- A write of an object that has no row of its own. -/
def actPlain (s : State) (a : Ask) : Except Nat Done :=
  if a.index = 0xC020 ∧ a.sub = 0x02 then actOpenReq s a
  else match s.writeCause a with
  | some c => .error c
  | none =>
    let waits : Bool := match objectAt a.index a.sub with
      | some e => e.access == .rwb
      | none => false
    match partObject a.index, waits with
    | some p, true => .ok { s := s.putWait p a.index a.sub a.value }
    | _, _ => .ok { s := s.writeNow a }

/-- A write that the option block or the store makes, as one of the Operator (R469, R473). -/
def actOption (s : State) (a : Ask) : Except Nat Done :=
  if a.index = 0x3000 ∧ a.sub = 0x03 then actTimeParent s a
  else if (within a.index 0x7100 6).isSome ∧ a.sub = 0x02 then actLinkEnable s a
  else if (within a.index 0x8400 1024).isSome ∧ a.sub = 0x01 then actQpState s a
  else actPlain s a

end Sys2Proof.Machine
end

