-- ==== Sys2Proof/Machine/Starts.lean ====
section
/-! DEFINITION. Resets, starts, the firmware card, images and activation (R11 to R13, R461 to R480). -/
namespace Sys2Proof.Machine

/-! ## The card and its images (R469 to R475) -/

/-- A firmware slot of the card. -/
def cardSlot (c : CardImage) (k : Nat) : CardSlot := if k = 0 then c.slotA else c.slotB
def setCardSlot (c : CardImage) (k : Nat) (x : CardSlot) : CardImage :=
  if k = 0 then { c with generation := c.generation + 1, slotA := x } else { c with generation := c.generation + 1, slotB := x }

/-- The fields of an image, with whether its fixed and zero fields hold (R474). -/
def imageOf (l : List Byte) : FirmwareImage :=
  let n := leAt l 16 8
  { formatOk := leAt l 0 4 == 0xCAE7F1A0 && leAt l 4 2 == 1 && slice l 12 4 == zeros 4 && decide (1 ≤ n ∧ n ≤ 50323456 ∧ 8192 + n ≤ l.length) && slice l 7243 949 == zeros 949,
    svn := BitVec.ofNat 16 (leAt l 6 2), version := BitVec.ofNat 32 (leAt l 8 4), header := l.take 24,
    vendorPk := slice l 24 2592, sig := slice l 2616 4627, body := slice l 8192 n }

/-- The digest of a whole image (R472). -/
def bootDigest (i : FirmwareImage) : List Byte := sha3 (i.header ++ i.vendorPk ++ i.sig ++ zeros 949 ++ i.body)

/-- An image verifies (R475). -/
def State.verifies (s : State) (i : FirmwareImage) : Bool :=
  i.formatOk && sha3 i.vendorPk == Config.vendorKeyDigest && decide (s.objNat 0x2100 0x06 ≤ i.svn.toNat)
    && mlDsaVerify i.vendorPk (ascii "CAETH-FW" ++ i.header ++ sha3 i.body) i.sig

/-- Put a card back and say what was written to it. -/
def State.writeCard (s : State) (c : CardImage) (what : String) : State := (({ s with card := some c } : State).emit (.cardWrite what)).bump 0x2100 0x01

/-- Try to boot a slot: it is marked VALID or BAD in the header, and a refusal is logged (R475, R476, R478). -/
def State.trySlot (s : State) (k : Nat) : Option FirmwareImage × State :=
  match s.card with
  | none => (none, s)
  | some c =>
    let x := cardSlot c k
    let refuse := fun (s : State) => (none, (s.writeCard (setCardSlot c k { x with state := .bad }) "header").logEvent { cls := 0, code := 3, inst := k, detail := 4 })
    match x.image with
    | none => refuse s
    | some i => if s.verifies i then (some i, s.writeCard (setCardSlot c k { x with state := .valid, digest := bootDigest i }) "header") else refuse s

/-- The first of some slots that verifies. -/
def State.tryBoot (s : State) : List Nat → Option FirmwareImage × State
  | [] => (none, s)
  | k :: t => match s.trySlot k with
    | (some i, s) => (some i, s)
    | (none, s) => s.tryBoot t

/-- The image in force (R476, R477). -/
def State.runImage (s : State) (i : FirmwareImage) : State :=
  let s := s.setObj 0x2100 0x05 (bootDigest i)
  let s : State := { s with start := { s.start with image := some i } }
  let s := (List.range 20).foldl (fun (s : State) k => s.setCore k { s.core k with imem := s.firmwareOf k }) s
  let s := s.parts.keys.foldl (fun (s : State) p => s.measureIdle p) s
  s.bumps [(0x2100, 0x02), (0xC000, 0x07)]

/-- The entries of an option block from an offset: index, subindex, type and value (R469). -/
def optionEntries (l : List Byte) : Nat → Nat → List (Nat × Nat × Nat × List Byte)
  | 0, _ => []
  | n + 1, o => (leAt l o 2, leAt l (o + 2) 1, leAt l (o + 3) 1, slice l (o + 8) (leAt l (o + 4) 2)) :: optionEntries l n (o + 8 + 8 * ceilDiv (leAt l (o + 4) 2) 8)

/-- The option block holds together (R469). -/
def optionsOk (l : List Byte) : Bool :=
  let n := leAt l 8 4
  leAt l 0 4 == 0xCAE70B10 && leAt l 4 2 == 1 && decide (leAt l 6 2 ≤ 4096) && decide (76 ≤ n ∧ n ≤ l.length) && slice l 12 64 == sha3 (l.take 12 ++ slice l 76 (n - 76))

/-- Objects that an option or the store may set (R469, R477). -/
def optionObject (index sub : Nat) : Bool :=
  ((index == 0x1010 && sub == 0x04) || decide (0x3000 ≤ index ∧ index ≤ 0x3FFF) || index == 0x6000 || decide (0x7000 ≤ index ∧ index ≤ 0x72FF)
    || decide (0x8000 ≤ index ∧ index ≤ 0x80FF) || decide (0x8400 ≤ index ∧ index ≤ 0x87FF) || (index == 0xC000 && (sub == 0x04 || sub == 0x05)))
    && (match objectAt index sub with
      | some e => e.access == .rw
      | none => false)

/-- Apply one value as a WRITE of the Operator; one that would be refused is skipped and logged (R469, R473; log 54). -/
def State.applyOption (s : State) (index sub type : Nat) (v : List Byte) : State :=
  let a : Ask := { src := .mailbox ⟨0, 0⟩, sid := 0, role := 1, tenant := 0, msg := 2, index := index, sub := sub, tid := 0, type := type, offset := 0, total := 0, last := true, value := v }
  let skip := s.logEvent { cls := 0, detail := 3 }
  match optionObject index sub, objectAt index sub with
  | true, some e =>
    if type ≠ e.type.code ∨ (e.fixed ≠ 0 ∧ v.length ≠ e.fixed) ∨ boolBad e a then skip
    else match actOption s a with
      | .ok d => d.s.bump index sub
      | .error _ => skip
  | _, _ => skip

/-- Apply the option block (R469). -/
def State.applyOptions (s : State) (l : List Byte) : State :=
  if optionsOk l then (optionEntries l (leAt l 6 2) 76).foldl (fun s e => s.applyOption e.1 e.2.1 e.2.2.1 e.2.2.2) s
  else s.logEvent { cls := 0, detail := 3 }

/-- Apply the store: object values, then retirements and soft repairs: a retired block comes back
where its district has its spare left (R12, R13, R473). Where several retired blocks of one district are listed for repair, the first in the record's
order takes the spare (DEDUCED, log 89). -/
def State.applyStore (s : State) (st : Store) : State :=
  let s := st.values.foldl (fun s e => s.applyOption (e.1 / 256) (e.1 % 256) (((objectAt (e.1 / 256) (e.1 % 256)).map (fun o => o.type.code)).getD 0) e.2) s
  let enabled := s.objNat 0x1010 0x04 == 1
  let s := { s with start := { s.start with values := st.values, repaired := st.repaired } }
  st.retired.foldl (fun (s : State) b =>
    if enabled && spareLeft s.start.repaired (districtOf b) then
      ({ s with start := { s.start with repaired := s.start.repaired ++ [b], storeDue := true } }).logEvent { cls := 13, code := 2, inst := 0, detail := b }
    else { s.setBlock b { s.block b with retired := true } with start := { s.start with retired := s.start.retired ++ [b] } }) s

/-- A step runs in a block's partition. -/
def State.blockBusy (s : State) (b : Nat) : Bool :=
  match s.partOf b with
  | some p => let x := (s.part p).stepState; x == .running || x == .fenced
  | none => false

/-- A block is retired (R12, R466, R496): recorded in the store, and logged. It leaves service at the step boundary: the next one while a step runs in its
partition, else now. -/
def State.retireBlock (s : State) (b : Nat) : State :=
  let x := { s.block b with retiring := true }
  let busy := s.blockBusy b
  let s := s.setBlock b (if busy then x else x.leave)
  let s := { s with start := { s.start with retired := if s.start.retired.contains b then s.start.retired else s.start.retired ++ [b], storeDue := true } }
  let s := s.logEvent { cls := 13, code := 1, detail := b }
  if busy then s else s.bumps [(0x1010, 0x01), (0x1010, 0x02)]

/-! ## Power and resets (R461 to R465) -/

/-- What is left of the part without power, and at the begin of a cold start: the card, the pins, and what is outside (R461). Memory outside
the part, tiers 2 and 3, keeps its contents. -/
def State.bare (s : State) (mode : PartMode) : State :=
  { mode := mode, pending := s.pending, out := s.out, draws := s.draws, now := s.now, card := s.card,
    mem := s.mem.above (2 ^ 50),
    freeze := { pin := s.freeze.pin }, start := { starts := s.start.starts } }

/-- RESET_CAUSE takes a further bit (R464). -/
def State.noteCause (s : State) (bit : Nat) : State := s.setObj 0x2000 0x01 (natBytes 4 (s.objNat 0x2000 0x01 ||| 2 ^ bit))

/-- POWER_ON (R461). -/
def execPowerOn (s : State) : Host.Outcome State Fault Refusal :=
  if s.mode ≠ .off then .next s
  else
    let s := s.bare .starting
    .next (({ s with start := { s.start with coldDue := true } }).setObj 0x2000 0x01 (natBytes 4 1))

/-- A partition stops: its step is abandoned, what the step held is given up, and no ticket waits (R224, R462, R467). -/
def State.abandonPart (s : State) (p : Nat) : State :=
  let x := s.part p
  let bound := x.binding.values
  let s := bound.foldl (fun (s : State) i => if (s.request i).state = .free then s else s.setRequest i { s.request i with newFrames := [], shadow := [] }) s
  s.setPart p { x with stepState := .idle, tickets := [], kerbTicket := none, running := none, failure := none, replay := none, freeze := none, extraBank := 0, extraStreet := 0, anyStep := true, binding := [], committed := [], digested := [], emitted := [], resolving := false, outcome := 0, joined := false, timeHeld := false, ckptSent := false, ckptSealed := false, stepDone := false, doneDesc := none, nextIsKerb := false, restoring := false, exchange := false, episode := {}, routine := { x.routine with mode := .idle, regs := [], mailbox := [], started := false } }

/-- The control state of a block is reset; its cells keep their contents (R213, R465). -/
def Block.reset (x : Block) : Block :=
  { retired := x.retired || x.retiring, bank0 := { entries := x.bank0.entries }, bank1 := { entries := x.bank1.entries }, clearUntil := x.clearUntil, clearing := x.clearing,
    clearedBy := x.clearedBy, sliceStep := x.sliceStep, sliceSince := x.sliceSince, passAt := x.passAt, passLate := x.passLate }

/-- A start stops everything but memory, objects and the log (R462, R467). Banks keep their state words where no step ran in them. -/
def State.quiesce (s : State) : State :=
  let s := s.parts.keys.foldl State.abandonPart s
  let s := { s with start := { s.start with checkpoint := s.requests } }
  let s := s.closeSessions (fun _ => true) true
  { s with blocks := s.blocks.mapVals (fun _ (x : Block) => { x.leave with queues := [], inflight := [], summaries := [], equaliser := [], arriving := [], landing := [], bankUse := [], bankOther := [], eqWrites := 0, primary := [], shadow := [], matrixFree := 0, vectorFree := 0, moverFree := 0, slice := none }),
           districts := s.districts.mapVals (fun _ (x : District) => { x with slotCounter := 0, roads := [] }),
           channels := s.channels.mapVals (fun _ (x : Channel) => { x with record := [], units := [], service := [] }),
           cores := [], crossroads := [], arrived := [], outstanding := [], colls := [], seenNotices := [],
           jobs := s.jobs.mapVals (fun _ (j : Job) => { j with barriers := [] }),
           fns := s.fns.mapVals (fun _ (x : Fn) => { x with reserved := (if x.current.isSome then 1 else 0) + (x.queued.filter (fun q => q.1)).length }),
           cdp := { closing := s.cdp.closing }, snapshot := { s.snapshot with due := none }, mode := .starting }

/-- The prelude of an accepted RESET_N (R462): issue stops, the request table is written to its checkpoint. -/
def State.prelude (s : State) : State :=
  let s := s.quiesce
  { s with start := { s.start with warm := some 1, activating := false, paused := true, bootSlot := none }, freeze := { s.freeze with state := 0, timed := none, resume := false, again := 0, parked := false } }

/-- RESET_N (R461 to R463, R489). -/
def execResetN (s : State) : Host.Outcome State Fault Refusal :=
  match s.mode with
  | .off => .next s
  | .recovery => .next ({ s.noteCause 1 with mode := .starting, start := { s.start with coldDue := true, bootSlot := none } })
  | .starting =>
    let s := s.noteCause 1
    .next (if s.start.coldDue then { s with start := { s.start with bootSlot := none } } else { s with start := { s.start with warm := some 1, bootSlot := none } })
  | _ => .next ((s.noteCause 1).prelude)

/-! ## Starts (R466 to R468, R475, R476) -/

/-- CXL_DATA_BYTES of a device of capacity c (R414). -/
def cxlData (c : Nat) : Nat := min (768 * 2 ^ 30) (8 * c / 9 / 2 ^ 30 * 2 ^ 30)

/-- Phase 8 for the root ports (R414). -/
def State.findCxl (s : State) (env : StartEnv) : State :=
  (List.range 4).foldl (fun (s : State) n =>
    let c := env.cxlCapacity.getD n 0
    let s := s.setObj (0x8020 + n) 0x01 (natBytes 1 (if c = 0 then 0 else 1))
    let s := s.setObj (0x8020 + n) 0x02 (natBytes 8 c)
    let s := s.setObj (0x8020 + n) 0x03 (natBytes 4 (env.cxlDevice.getD n 0).toNat)
    s.setObj 0x6000 (0x10 + n) (natBytes 8 (cxlData c))) s

/-- Phase 8 for the avenues (R313): every enabled port enters TRAINING. -/
def State.startLinks (s : State) (full : Bool) : State :=
  (List.range 6).foldl (fun (s : State) n =>
    let x := s.port n
    s.setPort n { link := if s.objNat (0x7100 + n) 0x02 = 1 then 2 else 0, since := s.town, full := full || x.full, txEpoch := x.txEpoch, partner := x.partner, downCause := x.downCause }) s

/-- The freeze objects changed. -/
def State.freezeBumps (s : State) : State := s.bumps [(0xB100, 0x04), (0xB100, 0x05), (0xB100, 0x06)]

/-- A trigger is acted on (R482): the districts stop here, within the bounds of R482 (log 58). -/
def State.beginFreeze (s : State) (cause : Nat) : State :=
  let parked := s.mode == .parked
  let s := { s with mode := .frozen, freeze := { s.freeze with state := 1, cause := cause, at_ := s.town, time := s.town, resume := false, parked := parked } }
  (s.countLog { cls := 13, counter := 0x9E10, sub := 0x01, detail := cause }).freezeBumps

/-- A start is done (R464, R467, R489): a FREEZE_N still low freezes the part. -/
def State.startDone (s : State) (kind micros : Nat) : State :=
  let s := (s.setObj 0x2000 0x02 (natBytes 1 kind)).setObj 0x2000 0x03 [9#8]
  let s := s.setObj 0x2000 0x04 (natBytes 4 micros)
  let s := s.resetObj 0xB100 0x07
  let s := { s with mode := .running, start := { s.start with coldDue := false, warm := none, activating := false, paused := false, bootSlot := none } }
  let s := s.logEvent { cls := 0, code := if kind = 0 then 1 else 2, detail := place 32 32 micros ||| 9 }
  if s.freeze.pin then s.beginFreeze 1 else s

/-- Phases 5 to 9 of a cold start. -/
def State.finishCold (s : State) (env : StartEnv) : State :=
  let s := env.badBlocks.foldl (fun s b => s.retireBlock b.val) s
  let s := s.setObj 0x6000 0x01 (natBytes 8 (687194767360 - 0xA0000000 * env.badChannels.eraseDups.length))
  let s := { s with time := { s.time with central := 0, refPhase := 0, lastPulse := 0 } }
  ((s.findCxl env).startLinks true).startDone 0 env.micros

/-- No image verifies, or the strap asks for it: the part enters RECOVERY (R476). -/
def State.enterRecovery (s : State) : State :=
  let s := s.setObj 0x2000 0x03 [0x10#8]
  { s with mode := .recovery, start := { s.start with coldDue := false, bootSlot := none } }

/-- Phase 4 (R476) and what follows it. -/
def State.bootCold (s : State) (slots : List Nat) (env : StartEnv) : State :=
  match s.tryBoot slots with
  | (some i, s) => (s.runImage i).finishCold env
  | (none, s) => s.enterRecovery

/-- The slots that SLOT_SEL allows, in order (R468, R476). -/
def slotsOf (straps active : Nat) : List Nat :=
  match straps / 16 % 4 with
  | 1 => [0]
  | 2 => [1]
  | _ => [active, 1 - active]

/-- Phases 1 to 3 of a cold start: every object at its default, the straps, the option block and the store (R463, R466, R468, R469, R473). -/
def State.beginCold (s : State) (straps : Nat) : State :=
  let cause := s.obj 0x2000 0x01
  let t := s.bare .starting
  let t := { t with start := { t.start with starts := s.start.starts + 1, coldDue := true }, ports := (List.range 6).map (fun n => (n, { link := 0 })) }
  let t := ((t.storeRaw 0x2000 0x01 cause).storeRaw 0x2000 0x05 (natBytes 4 straps)).storeRaw 0x8080 0x02 (natBytes 1 (straps % 8))
  match straps / 8 % 2, t.card with
  | 1, some c => (t.applyOptions c.options).applyStore c.store
  | _, _ => t

/-- COLD_START (R466, R475, R476): phases 1 to 9. Without the references the start stays in phase 1. An ACTIVATE in RECOVERY goes on with phase 4. -/
def execColdStart (env : StartEnv) (s : State) : Host.Outcome State Fault Refusal :=
  if s.mode ≠ .starting ∨ !s.start.coldDue then .next s
  else if !env.refsOk then .next (s.storeRaw 0x2000 0x03 [1#8])
  else match s.start.bootSlot with
    | some k => .next (s.bootCold [k] env)
    | none =>
      let straps := env.straps.toNat
      let t := s.beginCold straps
      if straps / 8 % 2 = 0 then .next t.enterRecovery
      else .next (t.bootCold (match t.card with
        | some c => slotsOf straps c.active.val
        | none => []) env)

/-- Phase 4 of a warm start by ACTIVATE (R478): the pending slot, or the retained image. -/
def State.bootWarm (s : State) (k : Nat) : State :=
  match s.trySlot k with
  | (some i, s) =>
    let s := s.runImage i
    { s with card := s.card.map (fun (c : CardImage) => { c with active := Fin.ofNat 2 k }) }
  | (none, s) => s

/-- WARM_START (R463, R466, R467, R478): by RESET_N it resets the PCIe ports. -/
def execWarmStart (env : StartEnv) (s : State) : Host.Outcome State Fault Refusal :=
  match s.start.warm with
  | none => .next s
  | some kind =>
    if s.mode ≠ .starting then .next s
    else if !env.refsOk then .next (s.setObj 0x2000 0x03 [1#8])
    else
      let s := s.setObj 0x2000 0x05 (natBytes 4 env.straps.toNat)
      let s := match s.start.bootSlot with
        | some k => s.bootWarm k
        | none => s
      let s := if kind = 1 then
          let s := (fnsOf 0 ++ fnsOf 1).foldl State.resetFn s
          { s with pcie := [] }
        else s
      let s := { s with requests := s.start.checkpoint, start := { s.start with checkpoint := [] }, cdp := { s.cdp with links := [] },
                        cores := (List.range 20).map (fun k => (k, { wdogAt := s.town, imem := s.firmwareOf k })) }
      .next (((s.findCxl env).startLinks false).startDone kind env.micros)

/-! ## Reset commands (R464, R465) -/

/-- A write of RESET_CAUSE (R464). -/
def actResetCause (s : State) (a : Ask) : Except Nat Done :=
  let v := s.objNat 0x2000 0x01
  .ok { s := s.storeRaw a.index a.sub (natBytes 4 (v - (v &&& a.num))) }

/-- RESET_CAUSE_WRITE (R464). -/
def execResetCauseWrite (via : Via) (s : State) : Host.Outcome State Fault Refusal := .next (s.cdpRow via (writesAt 0x2000 1 0x01) actResetCause)

/-- The numbers whose bits are set in a value of n bits. -/
def bitsSet (n v : Nat) : List Nat := (List.range n).filter (fun i => v / 2 ^ i % 2 == 1)

/-- BLOCK_RESET (R465). -/
def actBlockReset (s : State) (a : Ask) : Except Nat Done :=
  let l := bitsSet 256 a.num
  needs (l.all (fun b => !(s.block b).retired && (s.partOf b).isNone)) cdpState <|
    .ok { s := l.foldl (fun (s : State) b => s.setBlock b (s.block b).reset) s }

/-- BLOCK_RESET (R465). -/
def execBlockReset (via : Via) (s : State) : Host.Outcome State Fault Refusal := .next (s.cdpRow via (writesAt 0x2010 1 0x01) actBlockReset)

/-- CORE_RESET (R465). -/
def actCoreReset (s : State) (a : Ask) : Except Nat Done :=
  needs (decide (a.num < 2 ^ 20)) cdpRange <| .ok { s := (bitsSet 20 a.num).foldl (fun (s : State) k => s.resetCore k 1) s }

/-- CORE_RESET (R465). -/
def execCoreReset (via : Via) (s : State) : Host.Outcome State Fault Refusal := .next (s.cdpRow via (writesAt 0x2010 1 0x03) actCoreReset)

/-! ## Activation (R476 to R479) -/

/-- What ACTIVATE asks (R478). -/
def State.mayActivate (s : State) : Bool :=
  let k := s.objNat 0x2100 0x03
  decide (k ≤ 1) && (match s.card with
    | some c => (cardSlot c k).state != .empty && (cardSlot c k).image.isSome
    | none => false) && !s.start.activating && s.freeze.state == 0 && s.parts.all (fun e => (s.agrees e.1).isNone)

/-- ACTIVATE (R476, R478): it is a trigger of WAKE for a PARKED part (R504). -/
def actActivate (s : State) (_ : Ask) : Except Nat Done :=
  needs s.mayActivate cdpState <|
    let k := s.objNat 0x2100 0x03
    let s := s.noteCause 2
    if s.mode = .recovery then .ok { s := { s with mode := .starting, start := { s.start with coldDue := true, bootSlot := some k } } }
    else .ok { s := { s with start := { s.start with activating := true, bootSlot := some k } } }

/-- ACTIVATE (R478). -/
def execActivate (via : Via) (s : State) : Host.Outcome State Fault Refusal := .next (s.cdpRow via (writesAt 0x2100 1 0x04) actActivate)

/-- ACTIVATE_PAUSE (R478): no step is RUNNING; the request table is checkpointed and the warm start is due. -/
def execActivatePause (s : State) : Host.Outcome State Fault Refusal :=
  if s.live ∧ s.start.activating ∧ s.parts.all (fun e => e.2.stepState != .running) then
    let s := s.quiesce
    .next { s with start := { s.start with paused := true, warm := some 2 } }
  else .next s

/-! ## The card while the part runs (R473, R477, R480) -/

/-- A chunk of a firmware slot (R433, R477). -/
def actSlotChunk (s : State) (a : Ask) : Except Nat Done :=
  match s.card with
  | none => .error cdpState
  | some c =>
    let k := a.sub - 0x10
    let had := if a.offset = 0 then [] else (cardSlot c k).writing
    let all := had ++ a.value
    needs (a.offset == had.length) cdpOffset <|
    needs (decide (all.length ≤ 50331648)) cdpRange <|
    needs (c.active.val != k) cdpState <|
      let x : CardSlot := if a.last then { state := .unchecked, image := some (imageOf all), writing := [], digest := (cardSlot c k).digest }
        else { state := .unchecked, image := none, writing := all, digest := (cardSlot c k).digest }
      .ok { s := s.writeCard (setCardSlot c k x) "slot" }

/-- FIRMWARE_SLOT_WRITE (R477). -/
def execFirmwareSlotWrite (via : Via) (s : State) : Host.Outcome State Fault Refusal :=
  .next (s.cdpRow via (fun m i u => (m == 2 || m == 5) && slotImage i u) actSlotChunk)

/-- The key of the object that a PERSIST names. -/
def persistKey (a : Ask) : Nat := objKey (leAt a.value 0 2) (leAt a.value 2 1)

/-- The store's records fit the store's 4 MiB (log 57). -/
def storeFits (l : List (Nat × List Byte)) : Bool := decide ((l.map (fun e => 8 + e.2.length)).foldl (· + ·) 0 ≤ 4194304)

/-- PERSIST (R477). -/
def actPersist (s : State) (a : Ask) : Except Nat Done :=
  let i := leAt a.value 0 2
  let u := leAt a.value 2 1
  let l := s.start.values.filter (fun e => e.1 != persistKey a) ++ [(persistKey a, s.value i u)]
  needs (a.value.length == 3 && optionObject i u) cdpRange <|
  needs (storeFits l) cdpState <|
    .ok { s := ({ s with start := { s.start with values := l, storeDue := true } }).bump 0x2300 0x03 }

/-- PERSIST (R477). -/
def execPersist (via : Via) (s : State) : Host.Outcome State Fault Refusal := .next (s.cdpRow via (writesAt 0x2300 1 0x01) actPersist)

/-- UNPERSIST (R477): the record must be there. -/
def actUnpersist (s : State) (a : Ask) : Except Nat Done :=
  needs (a.value.length == 3) cdpRange <|
  needs (s.start.values.any (fun e => e.1 == persistKey a)) cdpState <|
    .ok { s := ({ s with start := { s.start with values := s.start.values.filter (fun e => e.1 != persistKey a), storeDue := true } }).bump 0x2300 0x03 }

/-- UNPERSIST (R477). -/
def execUnpersist (via : Via) (s : State) : Host.Outcome State Fault Refusal := .next (s.cdpRow via (writesAt 0x2300 1 0x02) actUnpersist)

/-- CLEAR_RETIRED (R12, R477): the records go; a block stays retired until the next start. -/
def actClearRetired (s : State) (a : Ask) : Except Nat Done :=
  let l := bitsSet 256 a.num
  .ok { s := { s with start := { s.start with retired := s.start.retired.filter (fun b => !l.contains b), storeDue := true } } }

/-- CLEAR_RETIRED (R477). -/
def execClearRetired (via : Via) (s : State) : Host.Outcome State Fault Refusal := .next (s.cdpRow via (writesAt 0x2300 1 0x04) actClearRetired)

/-- The records that the store is to hold. -/
def State.runningStore (s : State) (generation : BitVec 32) : Store :=
  { generation := generation, retired := s.start.retired, repaired := s.start.repaired, values := s.start.values }

/-- STORE_WRITE (R473): the copy not in force is rewritten once a card is present. -/
def execStoreWrite (s : State) : Host.Outcome State Fault Refusal :=
  match s.cdpRuns && s.start.storeDue, s.card with
  | true, some c =>
    let s := s.writeCard { c with store := s.runningStore (c.store.generation + 1) } "store"
    .next { s with start := { s.start with storeDue := false } }
  | _, _ => .next s

/-- CARD_INSERT (R480). While a store write waits, the values that wait go to the new card; else the records of the new card are the ones in
force (log 57). -/
def execCardInsert (card : CardImage) (s : State) : Host.Outcome State Fault Refusal :=
  match s.card with
  | some _ => .next s
  | none =>
    if !s.cdpRuns then .next { s with card := some card }
    else
      let s := if s.start.storeDue then s else { s with start := { s.start with values := card.store.values } }
      let s := s.writeCard { card with store := { card.store with generation := card.store.generation + 1, retired := s.start.retired, repaired := s.start.repaired } } "store"
      let x := cardSlot card card.active.val
      let s := if x.image.isSome ∧ x.digest ≠ s.obj 0x2100 0x05 then s.setObj 0x2100 0x03 (natBytes 1 card.active.val) else s
      .next (s.bumps [(0x2100, 0x01), (0x2200, 0x01), (0x2300, 0x03)])

/-- CARD_REMOVE (R480). -/
def execCardRemove (s : State) : Host.Outcome State Fault Refusal :=
  match s.card with
  | none => .next s
  | some _ => .next (({ s with card := none }).bumps [(0x2100, 0x01), (0x2200, 0x01)])

end Sys2Proof.Machine
end

