-- ==== Sys2Proof/Machine/Freezes.lean ====
section
/-! DEFINITION. The freeze of the part, its read-out over JTAG, snapshots and the sweeper (R481 to R498). -/
namespace Sys2Proof.Machine

/-! ## Freezing (R481 to R484) -/

/-- A trigger (R481, R489): acted on in a part that runs; kept until the part is RUNNING while it is RESUMING; else without effect. -/
def State.trigger (s : State) (cause : Nat) : State :=
  if s.freeze.state = 0 then (if s.linked then s.beginFreeze cause else s)
  else if s.freeze.state = 3 then { s with freeze := { s.freeze with again := cause } } else s

/-- A start or an ACTIVATE is under way (R489). -/
def State.startRuns (s : State) : Bool := s.mode == .starting || s.start.activating

/-- FREEZE_N (R481, R489): accepted low. It waits for the end of a start. -/
def execFreezeN (s : State) : Host.Outcome State Fault Refusal :=
  if s.freeze.pin then .next s
  else
    let s := { s with freeze := { s.freeze with pin := true } }
    .next (if s.startRuns ∨ s.freeze.state = 3 then s else s.trigger 1)

/-- FREEZE (R481, R489). -/
def actFreeze (s : State) (_ : Ask) : Except Nat Done := needs (!s.startRuns) cdpState <| .ok { s := s.trigger 2 }

/-- FREEZE (R481). -/
def execFreeze (via : Via) (s : State) : Host.Outcome State Fault Refusal := .next (s.cdpRow via (writesAt 0xB100 1 0x01) actFreeze)

/-- A town time that FREEZE_AT and SNAPSHOT accept: 10 µs to 10 s ahead (R481, R492). -/
def State.aheadOk (s : State) (t : Nat) : Bool := decide (s.town + 10 * Config.ticksPerUs ≤ t ∧ t ≤ s.town + 10 * Config.ticksPerSecond)

/-- FREEZE_AT (R481): it replaces a pending one. -/
def actFreezeAt (s : State) (a : Ask) : Except Nat Done :=
  needs (s.aheadOk a.num) cdpRange <| needs (!s.startRuns) cdpState <| .ok { s := { s with freeze := { s.freeze with timed := some a.num } } }

/-- FREEZE_AT (R481). -/
def execFreezeAt (via : Via) (s : State) : Host.Outcome State Fault Refusal := .next (s.cdpRow via (writesAt 0xB100 1 0x02) actFreezeAt)

/-- Every unit's own time has reached T: the copies of the districts, and the central count (R482, R492). -/
def State.reached (s : State) (t : Nat) : Bool := decide (t ≤ s.town) && (List.range 16).all (fun d => decide (t * 2 ^ 32 ≤ (s.district d).copy))

/-- The T of a FREEZE_AT has come while the districts stand: no effect before the resume, and a freeze after it when it falls while the part
is RESUMING (R489). -/
def State.passTimed (s : State) (t : Nat) : State :=
  let again := if s.freeze.state = 3 ∧ s.freeze.at_ ≤ t then 3 else s.freeze.again
  { s with freeze := { s.freeze with timed := none, again := again } }

/-- FREEZE_AT_TRIGGER (R482, R489). During an ACTIVATE it waits for the hand-off (log 58). -/
def execFreezeAtTrigger (s : State) : Host.Outcome State Fault Refusal :=
  match s.freeze.timed with
  | none => .next s
  | some t =>
    if s.freeze.state ≠ 0 then .next (if t ≤ s.town then s.passTimed t else s)
    else if s.linked ∧ !s.startRuns ∧ s.reached t then .next (({ s with freeze := { s.freeze with timed := none } } : State).trigger 3)
    else .next s

/-! ## Resuming (R487 to R490) -/

/-- A resume is accepted: at u0 the part is RESUMING, or the resume waits until the part is FROZEN (R487). -/
def State.resumeFreeze (s : State) : State :=
  if s.freeze.state = 2 then ({ s with freeze := { s.freeze with state := 3, at_ := s.town, resume := false } } : State).freezeBumps
  else if s.freeze.state = 1 then { s with freeze := { s.freeze with resume := true } } else s

/-- 1 µs after t0 the part is FROZEN, and an UNFREEZE that waited takes effect (R482, R487). -/
def State.freezeDone (s : State) : State :=
  if s.freeze.state = 1 ∧ s.freeze.at_ + Config.ticksPerUs ≤ s.town then
    let s := ({ s with freeze := { s.freeze with state := 2 } } : State).freezeBumps
    if s.freeze.resume ∧ !s.freeze.pin then s.resumeFreeze else s
  else s

/-- UNFREEZE (R487). -/
def actUnfreeze (s : State) (_ : Ask) : Except Nat Done :=
  needs (!s.startRuns && !s.freeze.pin && s.freeze.state != 0) cdpState <| .ok { s := s.resumeFreeze }

/-- UNFREEZE (R487). -/
def execUnfreeze (via : Via) (s : State) : Host.Outcome State Fault Refusal := .next (s.cdpRow via (writesAt 0xB100 1 0x03) actUnfreeze)

/-- FREEZE_N_DEASSERT (R487). -/
def execFreezeNDeassert (s : State) : Host.Outcome State Fault Refusal :=
  if s.freeze.pin then .next ({ s with freeze := { s.freeze with pin := false } } : State).resumeFreeze else .next s

/-- What is measured in cycles that a district clock counts keeps its distance when the nominal count goes on by `e`. -/
def Mark.later (e : Nat) (m : Mark) : Mark := { m with at_ := m.at_ + e, older := m.older.map (fun c => (c.1, c.2 + e)) }

/-- The stamps of a block, a partition and the frames of a pseudo-channel after a stop of `e` cycles: frame timing went on, and slots that
passed carried nothing (R483). -/
def Block.later (e : Nat) (x : Block) : Block :=
  { x with bank0 := { x.bank0 with tag := x.bank0.tag.later e }, bank1 := { x.bank1 with tag := x.bank1.tag.later e }, summaries := x.summaries.map (fun r => (r.1, r.2 + e)),
           arriving := x.arriving.map (fun v => { v with due := v.due + e }) }

def Part.later (e : Nat) (x : Part) : Part :=
  { x with tags := x.tags.mapVals (fun _ m => m.later e), flags := x.flags.mapVals (fun _ m => m.later e), startedAt := x.startedAt + e, resolveBegan := x.resolveBegan + e, failure := x.failure.map (fun (f : Failure) => { f with at_ := f.at_ + e }) }

def Channel.later (now : Nat) (x : Channel) : Channel := { x with served := max x.served (ceilDiv ((now - x.frameAt) * 5) 28) }

/-- Slots 0 to 239 of the frames before a slot count. -/
def plainSlots (n : Nat) : Nat := n / 256 * 240 + min 240 (n % 256)

/-- The slots that pass while the districts stand carry nothing (R207). -/
def State.idleSlots (s : State) (now : Nat) : State :=
  s.channels.foldl (fun (s : State) (e : Nat × Channel) => s.count (0x9200 + e.1) 0x03 (plainSlots (e.2.later now).served - plainSlots e.2.served)) s

/-- The nominal count goes on by the cycles that passed while the districts stood. -/
def State.later (s : State) (e : Nat) : State :=
  { s with now := s.now + e, districts := s.districts.mapVals (fun _ (x : District) => { x with roads := x.roads.mapVals (fun _ r => (r.1 + e, r.2)) }), blocks := s.blocks.mapVals (fun _ (x : Block) => x.later e), parts := s.parts.mapVals (fun _ (x : Part) => x.later e),
           channels := s.channels.mapVals (fun _ (x : Channel) => x.later (s.now + e)) }

/-- CLOCK_RESTART (R364, R484, R487, R489): at the first pulse at or after u0 + 1 µs. -/
def execClockRestart (s : State) : Host.Outcome State Fault Refusal :=
  if s.freeze.state ≠ 3 ∨ s.town / Config.ticksPerUs * Config.ticksPerUs < s.freeze.at_ + Config.ticksPerUs then .next s
  else
    let s := match s.freeze.timed with
      | some t => if t ≤ s.town then s.passTimed t else s
      | none => s
    let d := s.town - s.freeze.time
    let s := s.alignCopies.moveTimers (d : Int)
    let s := (s.idleSlots (s.now + d * 7 / 8)).later (d * 7 / 8)
    let again := if s.freeze.pin then 1 else s.freeze.again
    let s := ({ s with mode := if s.freeze.parked then .parked else .running, freeze := { s.freeze with state := 0, again := 0, parked := false } } : State).freezeBumps
    .next (if again = 0 then s else s.beginFreeze again)

/-! ## JTAG (R485, R486) -/

/-- The bits of a data register as they leave TDO: bit 0 first. -/
def scanBits (n v : Nat) : List Bool := (List.range n).map (fun i => v / 2 ^ i % 2 == 1)

/-- Select an instruction, and shift its register out. -/
def State.jtagShift (s : State) (ir : Nat) (bits : List Bool) : State := ({ s with jtag := { s.jtag with ir := ir } } : State).emit (.scan bits)

/-- The part has power. -/
def State.powered (s : State) : Bool := s.mode != .off

/-- The vendor instructions for reading out are available (R485). -/
def State.debugs (s : State) : Bool := s.freeze.state == 2 && s.objNat 0xB100 0x07 == 1

/-- IDCODE's value (R485). -/
def idcodeValue : Nat := if Config.steppingB0 then 0x2C256A93 else 0x1C256A93

/-- EXTEST (R485): the boundary register is selected; its cells and what they drive stand in a vendor file (log 59). -/
def execExtest (s : State) : Host.Outcome State Fault Refusal := .next (if s.powered then { s with jtag := { s.jtag with ir := 0x00 } } else s)

/-- IDCODE (R485). -/
def execIdcode (s : State) : Host.Outcome State Fault Refusal := .next (if s.powered then s.jtagShift 0x01 (scanBits 32 idcodeValue) else s)

/-- SAMPLE/PRELOAD (R485): the boundary register is selected (log 59). -/
def execSamplePreload (s : State) : Host.Outcome State Fault Refusal := .next (if s.powered then { s with jtag := { s.jtag with ir := 0x02 } } else s)

/-- BYPASS (R485): one bit, which captures 0 (log 59). -/
def execBypass (s : State) : Host.Outcome State Fault Refusal := .next (if s.powered then s.jtagShift 0xFF [false] else s)

/-- TEST_LOGIC_RESET (R485): IDCODE is selected. -/
def execTestLogicReset (s : State) : Host.Outcome State Fault Refusal := .next (if s.powered then { s with jtag := { s.jtag with ir := 0x01 } } else s)

/-- FRZ_SELECT (R485): the register shifts out what it held (log 59). -/
def execFrzSelect (value : BitVec 16) (s : State) : Host.Outcome State Fault Refusal :=
  if !s.powered then .next s
  else if !s.debugs then .next (s.jtagShift 0x20 (scanBits 16 0))
  else
    let s := s.jtagShift 0x20 (scanBits 16 (4096 * s.jtag.district + s.jtag.chain))
    .next { s with jtag := { s.jtag with district := value.toNat / 4096, chain := value.toNat % 4096, rotated := 0 } }

/-- FRZ_SCAN (R486): the chain turns as a ring, so that what is shifted in is not taken (log 59). -/
def execFrzScan (bits : List Bool) (s : State) : Host.Outcome State Fault Refusal :=
  if !s.powered then .next s
  else if !s.debugs then .next (s.jtagShift 0x21 (bits.map (fun _ => false)))
  else
    let j := s.jtag
    let n := max 1 (Config.chainLength j.district j.chain)
    let s := s.jtagShift 0x21 ((List.range bits.length).map (fun i => Config.chainBit s.freeze.time j.district j.chain ((j.rotated + i) % n)))
    .next { s with jtag := { s.jtag with rotated := (j.rotated + bits.length) % n } }

/-- A command of FRZ_MEM is obeyed: its zero bits are zero and its DPA is a word of tier 0 (R177, R486). -/
def frzCommandOk (command : BitVec 64) : Bool :=
  field command 56 7 == 0 && field command 0 5 == 0 && decide (field command 0 56 < 2 ^ 32) && decide (field command 5 19 < Config.blockWords)

/-- The word that a command of FRZ_MEM names. -/
def frzWord (command : BitVec 64) : Nat := field command 5 51

/-- FRZ_MEM as it is shifted out: command, word and check value. -/
def frzRegister (command : BitVec 64) (x : Stored) : List Bool := scanBits 32 x.check.toNat ++ scanBits 256 x.data.toNat ++ scanBits 64 command.toNat

/-- FRZ_MEM_READ (R486): the word and its check value as stored. The row says that bit 63 of the command is 0, whatever its operand holds there
(DESIGN CHOICE, log 14). -/
def execFrzMemRead (command : BitVec 64) (s : State) : Host.Outcome State Fault Refusal :=
  let command := BitVec.ofNat 64 (field command 0 63)
  if !s.powered then .next s
  else if !s.debugs then .next (s.jtagShift 0x22 (scanBits 352 0))
  else .next (s.jtagShift 0x22 (frzRegister command (if frzCommandOk command then s.readWord (frzWord command) else ⟨0, 0⟩)))

/-- FRZ_MEM_WRITE (R486): the word and the check value exactly as given. The row says that bit 63 of the command is 1 (DESIGN CHOICE, log 14). -/
def execFrzMemWrite (command : BitVec 64) (word : Word) (check : Check) (s : State) : Host.Outcome State Fault Refusal :=
  if !s.powered then .next s
  else
    let s : State := { s with jtag := { s.jtag with ir := 0x22 } }
    .next (if s.debugs && frzCommandOk command then s.writeWord (frzWord command) ⟨word, check⟩ else s)

/-- FRZ_RESUME (R485, R487): an update with 1 acts as UNFREEZE. -/
def execFrzResume (value : Bool) (s : State) : Host.Outcome State Fault Refusal :=
  if !s.powered then .next s
  else
    let s := s.jtagShift 0x23 [false]
    .next (if value ∧ s.freeze.state = 2 ∧ !s.freeze.pin then s.resumeFreeze else s)

/-! ## Snapshots (R491, R492) -/

/-- SNAPSHOT (R492). -/
def actSnapshot (s : State) (a : Ask) : Except Nat Done :=
  needs (s.aheadOk a.num) cdpRange <| needs s.snapshot.due.isNone cdpState <|
    .ok { s := ({ s with snapshot := { s.snapshot with due := some a.num } } : State).bump 0x9F00 0x02 }

/-- SNAPSHOT (R492). -/
def execSnapshot (via : Via) (s : State) : Host.Outcome State Fault Refusal := .next (s.cdpRow via (writesAt 0x9F00 1 0x01) actSnapshot)

/-- SNAPSHOT_COPY (R454, R492): every unit's time has reached T; a part frozen at T copies after the resume. -/
def execSnapshotCopy (s : State) : Host.Outcome State Fault Refusal :=
  match s.snapshot.due with
  | none => .next s
  | some t =>
    if s.linked ∧ s.reached t then .next (({ s with shadows := s.counters, snapshot := { due := none, time := t } } : State).bumps [(0x9000, 0x03), (0x9F00, 0x02)])
    else .next s

/-! ## The sweeper (R493 to R498) -/

/-- Every head of a block's queues is at least 4,096 logical cycles ahead, and so is the segment's end (R493). -/
def State.gapAhead (s : State) (p b : Nat) : Bool :=
  let x := s.part p
  match x.seg with
  | none => false
  | some g => !x.ended && decide (x.lcycle + 4096 ≤ g.z) && (List.range 4).all (fun q => match ((s.block b).queue q).descs.head? with
    | some d => decide (x.lcycle + 4096 ≤ stamp d)
    | none => true)

/-- A block is eligible for a slice (R493). -/
def State.sweepable (s : State) (b : Nat) : Bool :=
  let x := s.block b
  let rested : Bool := match x.sliceSince with
    | some t => decide (t + s.objNat 0xB000 0x02 * Config.ticksPerUs ≤ s.town)
    | none => true
  s.live && s.objNat 0xB000 0x01 == 1 && !x.retired && !x.clearing && rested && x.inflight.isEmpty && x.slice.isNone
    && (match s.partOf b with
      | none => true
      | some p =>
        let y := s.part p
        match y.stepState with
        | .idle => y.tickets.isEmpty && y.kerbTicket.isNone
        | .done => y.tickets.isEmpty && y.kerbTicket.isNone
        | .running => s.gapAhead p b
        | _ => false)

/-- SWEEPER_SLICE (R493): the block's own cycle is where its 2,048 cycles begin. -/
def execSweeperSlice (b : Fin 256) (s : State) : Host.Outcome State Fault Refusal :=
  if s.sweepable b.val then .next (s.setBlock b.val { s.block b.val with slice := some (s.wallOf b.val), sliceSince := some s.town, retried := false })
  else .next s

/-- A pass ends when its last window has been marched (R494). -/
def State.nextWindow (s : State) (b : Nat) : State :=
  let x := s.block b
  if x.sliceStep + 1 < 3072 then s.setBlock b { x with sliceStep := x.sliceStep + 1 }
  else (s.setBlock b { x with sliceStep := 0, passAt := max 1 s.town, passLate := false }).count 0x9E00 0x05 1

/-- SWEEPER_SLICE_END (R494 to R496): the next slice marches the next window, or the same one when its march was ended; a failed slice
retires the block. -/
def execSweeperSliceEnd (b : Fin 256) (failed : Bool) (s : State) : Host.Outcome State Fault Refusal :=
  let x := s.block b.val
  match x.slice with
  | none => .next s
  | some t =>
    if !s.live ∨ s.wallOf b.val < t + 2048 then .next s
    else
      let s := s.setBlock b.val { x with slice := none, retried := false }
      if failed then
        let s := (s.countLog { cls := 13, counter := 0x9E00, sub := 0x04, inst := 0, detail := b.val }).retireBlock b.val
        .next (match s.partOf b.val with
          | some p => if (s.part p).stepState = .running then s.failStep p .fault 3 else s.originate p 3 Status.fault.code 0xFF false
          | none => s)
      else
        let s := s.count 0x9E00 0x01 1
        .next (if x.retried then s else s.nextWindow b.val)

end Sys2Proof.Machine
end

