-- ==== Sys2Proof/Machine/Powers.lean ====
section
/-! DEFINITION. Rails, power states, the power limit and cooling (R500 to R513). -/
namespace Sys2Proof.Machine

/-! ## Rails (R500 to R502) -/

/-- RAILS_OK_FALL (R502): a loss of power. It also releases THERMTRIP_N. -/
def execRailsOkFall (s : State) : Host.Outcome State Fault Refusal :=
  if s.mode = .off ∧ !s.power.tripped then .next s else .next (s.bare .off)

/-- A class 14 record of a code (R506). -/
def State.logPower (s : State) (code inst detail : Nat) : State := s.logEvent { cls := 14, code := code, inst := inst, detail := detail }

/-- ALERT_N is asserted (R506, R508). -/
def State.assertAlert (s : State) : State :=
  if s.power.alert then s else ({ s with power := { s.power with alert := true } } : State).emit (.land "ALERT_N" false)

/-- What an object of 16 bits keeps of a reading beyond its range: the value next to it (DESIGN CHOICE, log 14). -/
def kept16 (n : Nat) : Nat := min n 65535
def keptS16 (t : Int) : Int := max (-32768) (min 32767 t)

/-- AVS_UPDATE (R501): a target of 600 mV to 800 mV in 5 mV steps, at most 20 mV from the last; the part sets no other. It is 0.80 V while a rail
fault holds, whatever the sensors ask for. The fault clears once the sensed voltage is no more than 30 mV below the target (DEDUCED, log 62). -/
def execAvsUpdate (millivolts sensed : Nat) (s : State) : Host.Outcome State Fault Refusal :=
  let x := s.power
  let seen := kept16 sensed
  let held := x.railFault && decide (seen + 30 < x.target)
  if !s.cdpRuns ∨ (!held ∧ (!avsOk millivolts ∨ 20 < absDiff millivolts x.target)) then .next s
  else
    let v := if held then 800 else millivolts
    let s := ({ s with power := { x with target := v, railFault := held, rails := x.rails.put 0 seen } } : State).emit (.avs 0 v)
    .next (s.bumpWhere [(seen != x.rails.get 0 0, 0x3300, 0x01), (v != x.target, 0x3300, 0x02), (held != x.railFault, 0x3230, 0x01)])

/-- RAIL_FAULT (R501, R506): VDD_CORE more than 30 mV below its target, or another rail out of its tolerance. -/
def execRailFault (r : Fin 7) (millivolts : Nat) (s : State) : Host.Outcome State Fault Refusal :=
  let x := s.power
  let millivolts := kept16 millivolts
  if !s.cdpRuns then .next s
  else if r.val = 0 then
    if x.railFault ∨ x.target ≤ millivolts + 30 then .next s
    else
      let s := ({ s with power := { x with railFault := true, target := 800, rails := x.rails.put 0 millivolts } } : State).emit (.avs 0 800)
      .next ((((s.count 0x9E20 0x03 1).logPower 5 0 millivolts).assertAlert).bumpWhere [(millivolts != x.rails.get 0 0, 0x3300, 0x01), (x.target != 800, 0x3300, 0x02), (true, 0x3230, 0x01)])
  else
    let t := railTolerance r.val
    if t.1 ≤ millivolts ∧ millivolts ≤ t.2 then .next s
    else
      let t : State := { s with power := { x with rails := x.rails.put r.val millivolts } }
      .next (((t.logPower 5 r.val millivolts).assertAlert).bumpWhere [(millivolts != x.rails.get 0 r.val, 0x3300 + r.val, 0x01), (t.power.status != x.status, 0x3230, 0x01)])

/-! ## The power limit (R505) -/

/-- The power unit changes; the floor moves CLOCK_FLOOR, and the settings of the districts that it slows (R375, R505). -/
def State.setFloor (s : State) (x : Power) : State :=
  let t : State := { s with power := x }
  t.bumpWhere ((x.floor != s.power.floor, 0x3200, 0x06) :: (List.range 16).map (fun d => (t.settingOf d != s.settingOf d, 0x3010 + d, 0x01)))

/-- POWER_LIMIT_UPDATE (R505): the floor goes up by one above the limit, and down by one from 5 % below it. -/
def execPowerLimitUpdate (watts : Nat) (s : State) : Host.Outcome State Fault Refusal :=
  let watts := kept16 watts
  if !s.cdpRuns then .next s
  else
    let x := s.power
    let limit := s.objNat 0x3200 0x04
    let f := if limit < watts then min 15 (x.limitFloor + 1) else if watts * 100 ≤ limit * 95 then x.limitFloor - 1 else x.limitFloor
    let t := s.setFloor { x with watts := watts, limitFloor := f }
    let t := t.bumpWhere [(watts != x.watts, 0x3200, 0x05)]
    .next (if x.limitFloor = 0 ∧ f ≠ 0 then t.logPower 8 0 watts else t)

/-! ## Cooling (R506) -/

/-- A sensor's number. -/
def sensorNo : Sensor → Nat
  | .district d => d.val
  | .stack k => 16 + k.val

/-- The object of a sensor's reading (R512). -/
def sensorObject (k : Nat) : Nat := if k < 16 then 0x3210 + k else 0x3220 + (k - 16)

/-- Keep a reading. -/
def State.sensed (s : State) (k : Nat) (t : Int) : State :=
  let x := { s.power with temps := s.power.temps.put k t }
  ({ s with power := x } : State).bumpWhere [(t != s.power.temps.get 0 k, sensorObject k, 0x01), (x.status != s.power.status, 0x3230, 0x01)]

/-- THERMAL_WARNING (R506). -/
def execThermalWarning (x : Sensor) (tenths : Int) (s : State) : Host.Outcome State Fault Refusal :=
  let k := sensorNo x
  let tenths := keptS16 tenths
  if !s.cdpRuns ∨ tenths < warnAt k then .next s
  else .next (((s.sensed k tenths).logPower 1 k (unsigned 64 tenths)).assertAlert)

/-- THROTTLE_BEGIN (R506): the floor is setting 8. -/
def execThrottleBegin (x : Sensor) (tenths : Int) (s : State) : Host.Outcome State Fault Refusal :=
  let k := sensorNo x
  let tenths := keptS16 tenths
  if !s.cdpRuns ∨ tenths < throttleAt k then .next s
  else
    let t := s.sensed k tenths
    if s.power.throttle then .next t
    else .next ((t.setFloor { t.power with throttle := true }).logPower 2 k (unsigned 64 tenths))

/-- THROTTLE_END (R506): every sensor is 5 °C below its threshold. A reading above that is no longer so; it is kept as the highest that the
event allows (log 62). -/
def execThrottleEnd (s : State) : Host.Outcome State Fault Refusal :=
  if !s.cdpRuns ∨ !s.power.throttle then .next s
  else
    let t := s.setFloor { s.power with throttle := false, temps := s.power.temps.mapVals (fun k t => min t (throttleAt k - 50)) }
    .next ((t.logPower 3 0 0).bumpWhere ((true, 0x3230, 0x01) :: s.power.temps.map (fun e => (decide (throttleAt e.1 - 50 < e.2), sensorObject e.1, 0x01))))

/-- THERMTRIP (R506, R508): THERMTRIP_N is asserted and latched, and every clock stops: only a loss of power goes on from here. -/
def execThermtrip (x : Sensor) (tenths : Int) (s : State) : Host.Outcome State Fault Refusal :=
  let k := sensorNo x
  let tenths := keptS16 tenths
  if s.mode = .off ∨ tenths < tripAt k then .next s
  else
    let s := (s.sensed k tenths).logPower 4 k (unsigned 64 tenths)
    .next (({ s with mode := .off, power := { s.power with tripped := true } } : State).emit (.land "THERMTRIP_N" false))

/-- A read of THERMAL_STATUS (R506). -/
def actThermalStatus (s : State) (a : Ask) : Except Nat Done :=
  match actRead s a with
  | .error c => .error c
  | .ok d => .ok { d with s := if s.power.alert then ({ d.s with power := { d.s.power with alert := false } } : State).emit (.land "ALERT_N" true) else d.s }

/-- THERMAL_STATUS_READ (R506). -/
def execThermalStatusRead (via : Via) (s : State) : Host.Outcome State Fault Refusal :=
  .next (s.cdpRow via (fun m i u => (m == 1 || m == 4) && i == 0x3230 && u == 0x01) actThermalStatus)

/-! ## Power states (R503, R504) -/

/-- Something that PARK waits for is in progress or waiting (R504). -/
def State.busy (s : State) : Bool :=
  s.parts.any (fun e => !e.2.tickets.isEmpty || e.2.kerbTicket.isSome || e.2.running.isSome || e.2.replay.isSome)
    || s.fns.any (fun e => e.2.current.isSome || e.2.head != e.2.tail) || s.cores.any (fun e => e.2.current.isSome || !e.2.intake.isEmpty)
    || s.fetchRuns || s.requests.any (fun e => e.2.state == .kerbing || e.2.state == .recalling)
    || (decide (8192 < s.residents + 256) && s.parkChoice.isSome) || (decide (s.residents + 512 < 8192) && s.unparkChoice.isSome)
    || s.blocks.any (fun e => e.2.slice.isSome)

/-- PARK (R503, R504). -/
def actPark (s : State) (_ : Ask) : Except Nat Done :=
  needs (s.mode == .running && !s.startRuns && s.powerState == 1 && !s.busy) cdpState <|
    .ok { s := (({ s with mode := .parked } : State).logPower 6 0 0 |>.count 0x9E20 0x04 1).bump 0x3200 0x01 }

/-- PARK (R504). -/
def execPark (via : Via) (s : State) : Host.Outcome State Fault Refusal := .next (s.cdpRow via (writesAt 0x3200 1 0x02) actPark)

/-- The part wakes (R504); its clocks and HBM stand ready at once, and the watchdogs begin afresh (log 61). -/
def State.wakeUp (s : State) : State :=
  if s.mode = .parked then (({ s with mode := .running, cores := s.cores.mapVals (fun _ (c : Core) => { c with wdogAt := s.town, warned := false }) } : State).logPower 7 0 0).bump 0x3200 0x01 else s

/-- The command WAKE (R504): of no effect where the part is not PARKED. -/
def actWake (s : State) (_ : Ask) : Except Nat Done := .ok { s := s.wakeUp }

/-- A packet that wakes (R504): of the plan class, or of types 0x20 to 0x29. -/
def Packet.wakes (p : Packet) : Bool := classOfType p.type == 0 || decide (0x20 ≤ p.type ∧ p.type ≤ 0x29)

/-- A trigger of R504 is there. -/
def State.wakeDue (s : State) : WakeTrigger → Bool
  | .command _ => false
  | .hostDescriptor => s.fns.any (fun e => e.2.enable && !e.2.halted && e.2.head != e.2.tail)
  | .packet => s.arrived.any (fun e => e.2.wakes) || s.crossroads.any (fun e => e.2.any (fun q => q.pkt.wakes))
  | .expiry => s.requests.any (fun e => e.2.state == .kerbed && decide (e.2.expiry ≤ s.town))
  | .activate => s.start.activating

/-- WAKE (R504). -/
def execWake (w : WakeTrigger) (s : State) : Host.Outcome State Fault Refusal :=
  match w with
  | .command via => .next (s.cdpRow via (writesAt 0x3200 1 0x03) actWake)
  | t => if s.wakeDue t then .next s.wakeUp else .next s

end Sys2Proof.Machine
end

