-- ==== Sys2Proof/Machine/Dictionary.lean ====
section
/-! DEFINITION. The rows of the dictionary protocol for every object that has no row of its own (R431 to R433). -/
namespace Sys2Proof.Machine

/-- The rows of commands: object family, subindex, and the act (R431 to R433). -/
def actTable : List (Nat × Nat × Nat × (State → Ask → Except Nat Done)) :=
  [(0xB100, 1, 0x01, actFreeze), (0xB100, 1, 0x02, actFreezeAt), (0xB100, 1, 0x03, actUnfreeze), (0x9F00, 1, 0x01, actSnapshot),
   (0x5200, 64, 0x08, actSwitch), (0x5200, 64, 0x09, actCutDraining), (0x4000, 64, 0x05, actCreate), (0x4000, 64, 0x06, actDestroy),
   (0x4000, 64, 0x04, actAdmitted), (0x4000, 64, 0x0A, actQuoteNonce), (0x4100, 256, 0x02, actEnrol), (0x4100, 256, 0x03, actVfMap),
   (0x4100, 256, 0x06, actKeyLoad), (0x4100, 256, 0x07, actKeyErase), (0x4100, 256, 0x08, actTeardown), (0x4100, 256, 0x10, actAllocAdd),
   (0x4100, 256, 0x11, actAllocFree), (0x6100, 256, 0x01, actPcOwner), (0x3200, 1, 0x02, actPark), (0x3200, 1, 0x03, actWake),
   (0x7100, 6, 0x03, actRetrain), (0x7100, 6, 0x02, actLinkEnable), (0x7200, 64, 0x06, actOpen), (0x7200, 64, 0x07, actClose),
   (0xC020, 1, 0x01, actSessionOpen), (0xC020, 1, 0x03, actSessionClose), (0xC020, 1, 0x05, actRelay), (0xA000, 1, 0x06, actLogClear),
   (0x9100, 64, 0x20, actClear), (0x2000, 1, 0x01, actResetCause), (0x2010, 1, 0x01, actBlockReset), (0x2010, 1, 0x03, actCoreReset),
   (0x2100, 1, 0x04, actActivate), (0x2300, 1, 0x01, actPersist), (0x2300, 1, 0x02, actUnpersist), (0x2300, 1, 0x04, actClearRetired),
   (0x8400, 1024, 0x01, actQpState), (0x8100, 1, 0x02, actFetchStart), (0x3000, 1, 0x03, actTimeParent), (0x3000, 1, 0x06, actUtcSet)]

/-- The act of an object's own row. -/
def rowAct (index sub : Nat) : Option (State → Ask → Except Nat Done) :=
  (actTable.find? (fun e => (within index e.1 e.2.1).isSome && sub == e.2.2.1)).map (fun e => e.2.2.2)

/-- What a request does, whatever its object. -/
def actAny (s : State) (a : Ask) : Except Nat Done :=
  if a.reads then
    if a.index = 0xA000 ∧ a.sub = 0x04 then actLogWindow s a
    else if a.index = 0x3230 ∧ a.sub = 0x01 then actThermalStatus s a
    else actRead s a
  else match rowAct a.index a.sub with
    | some f => f s a
    | none => actPlain s a

/-- A request that another row takes. -/
def ownRow (m i u : Nat) : Bool :=
  if m = 1 then (i == 0xA000 && u == 0x04) || (i == 0x3230 && u == 0x01)
  else if m = 4 then i == 0x3230 && u == 0x01
  else (rowAct i u).isSome || slotImage i u

/-- WRITE (R431, R432): a WRITE, an EXEC, or a READ (which has no row) of an object without a row of its own. -/
def execWrite (via : Via) (s : State) : Host.Outcome State Fault Refusal := .next (s.cdpRow via (fun m i u => m != 5 && !ownRow m i u) actAny)

/-- WRITE_BLOCK (R433): a chunk of any value that is staged. -/
def execWriteBlock (via : Via) (s : State) : Host.Outcome State Fault Refusal := .next (s.cdpRow via (fun m i u => m == 5 && !slotImage i u) actAny)

end Sys2Proof.Machine
end

