-- ==== Sys2Proof/Machine/Dispatch.lean ====
section
/-! DEFINITION. The effect of each command on everything but the queue: one arm for each row of the table. -/
namespace Sys2Proof.Machine

def exec (i : Instr) (s : State) : Host.Outcome State Fault Refusal :=
  match i with
  | .mma b => Sys2Proof.Machine.execMma b s
  | .accStart b => Sys2Proof.Machine.execAccStart b s
  | .accLoad b => Sys2Proof.Machine.execAccLoad b s
  | .fold b => Sys2Proof.Machine.execFold b s
  | .matrixCompletion b => Sys2Proof.Machine.execMatrixCompletion b s
  | .readout b => Sys2Proof.Machine.execReadout b s
  | .exportBank b => Sys2Proof.Machine.execExportBank b s
  | .wpadd b => Sys2Proof.Machine.execWpadd b s
  | .cvt b => Sys2Proof.Machine.execCvt b s
  | .add b => Sys2Proof.Machine.execAdd b s
  | .sub b => Sys2Proof.Machine.execSub b s
  | .mul b => Sys2Proof.Machine.execMul b s
  | .fma b => Sys2Proof.Machine.execFma b s
  | .max b => Sys2Proof.Machine.execMax b s
  | .min b => Sys2Proof.Machine.execMin b s
  | .transExp2 b => Sys2Proof.Machine.execTransExp2 b s
  | .transLog2 b => Sys2Proof.Machine.execTransLog2 b s
  | .transReciprocal b => Sys2Proof.Machine.execTransReciprocal b s
  | .transReciprocalSquareRoot b => Sys2Proof.Machine.execTransReciprocalSquareRoot b s
  | .transTanh b => Sys2Proof.Machine.execTransTanh b s
  | .reduceSum b => Sys2Proof.Machine.execReduceSum b s
  | .reduceSumsq b => Sys2Proof.Machine.execReduceSumsq b s
  | .reduceMax b => Sys2Proof.Machine.execReduceMax b s
  | .reduceMin b => Sys2Proof.Machine.execReduceMin b s
  | .reduceArgmax b => Sys2Proof.Machine.execReduceArgmax b s
  | .reduceArgmin b => Sys2Proof.Machine.execReduceArgmin b s
  | .expsum b => Sys2Proof.Machine.execExpsum b s
  | .normscale b => Sys2Proof.Machine.execNormscale b s
  | .sample b => Sys2Proof.Machine.execSample b s
  | .sampleMerge b => Sys2Proof.Machine.execSampleMerge b s
  | .vectorCompletion b => Sys2Proof.Machine.execVectorCompletion b s
  | .summaryHoldRelease b => Sys2Proof.Machine.execSummaryHoldRelease b s
  | .summaryDelivery b => Sys2Proof.Machine.execSummaryDelivery b s
  | .nop b => Sys2Proof.Machine.execNop b s
  | .note b => Sys2Proof.Machine.execNote b s
  | .copy b => Sys2Proof.Machine.execCopy b s
  | .wstream b => Sys2Proof.Machine.execWstream b s
  | .decompressBlock b => Sys2Proof.Machine.execDecompressBlock b s
  | .gather b => Sys2Proof.Machine.execGather b s
  | .scatter b => Sys2Proof.Machine.execScatter b s
  | .fill b => Sys2Proof.Machine.execFill b s
  | .moverCompletion b => Sys2Proof.Machine.execMoverCompletion b s
  | .streetWordDelivery b => Sys2Proof.Machine.execStreetWordDelivery b s
  | .landingWrite b => Sys2Proof.Machine.execLandingWrite b s
  | .hbmUnitSlot c => Sys2Proof.Machine.execHbmUnitSlot c s
  | .hbmRefreshWindow c => Sys2Proof.Machine.execHbmRefreshWindow c s
  | .send b => Sys2Proof.Machine.execSend b s
  | .csum b => Sys2Proof.Machine.execCsum b s
  | .cmax b => Sys2Proof.Machine.execCmax b s
  | .cmin b => Sys2Proof.Machine.execCmin b s
  | .collectiveCompletion b => Sys2Proof.Machine.execCollectiveCompletion b s
  | .barrier b => Sys2Proof.Machine.execBarrier b s
  | .bindSeedrec b => Sys2Proof.Machine.execBindSeedrec b s
  | .bindSlotinfo b => Sys2Proof.Machine.execBindSlotinfo b s
  | .bindInput b => Sys2Proof.Machine.execBindInput b s
  | .route b => Sys2Proof.Machine.execRoute b s
  | .kvappend b => Sys2Proof.Machine.execKvappend b s
  | .emit b => Sys2Proof.Machine.execEmit b s
  | .digest b => Sys2Proof.Machine.execDigest b s
  | .servingCompletion p => Sys2Proof.Machine.execServingCompletion p s
  | .issueCheck b queue => Sys2Proof.Machine.execIssueCheck b queue s
  | .freezeResume p => Sys2Proof.Machine.execFreezeResume p s
  | .descriptorPrefetch b queue => Sys2Proof.Machine.execDescriptorPrefetch b queue s
  | .gridlockDetectorRun p => Sys2Proof.Machine.execGridlockDetectorRun p s
  | .step src => Sys2Proof.Machine.execStep src s
  | .batchResolution p => Sys2Proof.Machine.execBatchResolution p s
  | .stepBarrierJoin p => Sys2Proof.Machine.execStepBarrierJoin p s
  | .barrierRelease p => Sys2Proof.Machine.execBarrierRelease p s
  | .segmentEnd p => Sys2Proof.Machine.execSegmentEnd p s
  | .segmentEntry p => Sys2Proof.Machine.execSegmentEntry p s
  | .stepEnd p => Sys2Proof.Machine.execStepEnd p s
  | .servingDone p => Sys2Proof.Machine.execServingDone p s
  | .choiceLimitExpiry p => Sys2Proof.Machine.execChoiceLimitExpiry p s
  | .routineEntry p => Sys2Proof.Machine.execRoutineEntry p s
  | .sliceEnd p => Sys2Proof.Machine.execSliceEnd p s
  | .ckMbcnt k m rd rs1 => Sys2Proof.Machine.execCkMbcnt k m rd rs1 s
  | .ckMbpop k m rd rs1 rs2 => Sys2Proof.Machine.execCkMbpop k m rd rs1 rs2 s
  | .ckChoose k m rd rs1 => Sys2Proof.Machine.execCkChoose k m rd rs1 s
  | .ckTkt k m rd rs1 => Sys2Proof.Machine.execCkTkt k m rd rs1 s
  | .ckPost k m rd rs1 => Sys2Proof.Machine.execCkPost k m rd rs1 s
  | .ckWait k m rd rs1 => Sys2Proof.Machine.execCkWait k m rd rs1 s
  | .ckDone k m => Sys2Proof.Machine.execCkDone k m s
  | .routineFault p cause => Sys2Proof.Machine.execRoutineFault p cause s
  | .ckwdog k => Sys2Proof.Machine.execCkwdog k s
  | .watchdogWarning k => Sys2Proof.Machine.execWatchdogWarning k s
  | .watchdogExpiry k => Sys2Proof.Machine.execWatchdogExpiry k s
  | .coreFault k => Sys2Proof.Machine.execCoreFault k s
  | .timerInterrupt k => Sys2Proof.Machine.execTimerInterrupt k s
  | .repairQueueWriteback b => Sys2Proof.Machine.execRepairQueueWriteback b s
  | .scrubWord a => Sys2Proof.Machine.execScrubWord a s
  | .clearDone r => Sys2Proof.Machine.execClearDone r s
  | .admitRequest src => Sys2Proof.Machine.execAdmitRequest src s
  | .append src => Sys2Proof.Machine.execAppend src s
  | .pause src => Sys2Proof.Machine.execPause src s
  | .cancel src => Sys2Proof.Machine.execCancel src s
  | .parkEntry => Sys2Proof.Machine.execParkEntry s
  | .unparkEntry => Sys2Proof.Machine.execUnparkEntry s
  | .requestPrepare r => Sys2Proof.Machine.execRequestPrepare r s
  | .kerbingBegin p => Sys2Proof.Machine.execKerbingBegin p s
  | .kerbFrameCopy r => Sys2Proof.Machine.execKerbFrameCopy r s
  | .kerbTicket p => Sys2Proof.Machine.execKerbTicket p s
  | .requestExpiry r => Sys2Proof.Machine.execRequestExpiry r s
  | .recallFrameCopy r => Sys2Proof.Machine.execRecallFrameCopy r s
  | .switch via => Sys2Proof.Machine.execSwitch via s
  | .cutDraining via => Sys2Proof.Machine.execCutDraining via s
  | .rootSign p => Sys2Proof.Machine.execRootSign p s
  | .create via => Sys2Proof.Machine.execCreate via s
  | .destroy via => Sys2Proof.Machine.execDestroy via s
  | .admittedWrite via => Sys2Proof.Machine.execAdmittedWrite via s
  | .quoteNonce via => Sys2Proof.Machine.execQuoteNonce via s
  | .quoteFormed p => Sys2Proof.Machine.execQuoteFormed p s
  | .enrol via => Sys2Proof.Machine.execEnrol via s
  | .vfMapWrite via => Sys2Proof.Machine.execVfMapWrite via s
  | .keyLoad via => Sys2Proof.Machine.execKeyLoad via s
  | .keyErase via => Sys2Proof.Machine.execKeyErase via s
  | .teardown via => Sys2Proof.Machine.execTeardown via s
  | .allocAdd via => Sys2Proof.Machine.execAllocAdd via s
  | .allocFree via => Sys2Proof.Machine.execAllocFree via s
  | .pcOwnerWrite via => Sys2Proof.Machine.execPcOwnerWrite via s
  | .bucketRefill => Sys2Proof.Machine.execBucketRefill s
  | .noticeReceive => Sys2Proof.Machine.execNoticeReceive s
  | .coordinatorDecide p => Sys2Proof.Machine.execCoordinatorDecide p s
  | .decideReceive => Sys2Proof.Machine.execDecideReceive s
  | .faultCommit p => Sys2Proof.Machine.execFaultCommit p s
  | .spareExchange p => Sys2Proof.Machine.execSpareExchange p s
  | .checkpointSend p => Sys2Proof.Machine.execCheckpointSend p s
  | .ckptData => Sys2Proof.Machine.execCkptData s
  | .ckptSeal => Sys2Proof.Machine.execCkptSeal s
  | .restoreData => Sys2Proof.Machine.execRestoreData s
  | .restoreDone => Sys2Proof.Machine.execRestoreDone s
  | .codewordReceive n symbols => Sys2Proof.Machine.execCodewordReceive n symbols s
  | .packetReceive n => Sys2Proof.Machine.execPacketReceive n s
  | .linkCtrl n => Sys2Proof.Machine.execLinkCtrl n s
  | .linkCtrlTimer n => Sys2Proof.Machine.execLinkCtrlTimer n s
  | .gapRerequest n => Sys2Proof.Machine.execGapRerequest n s
  | .stalledAckRetransmit n => Sys2Proof.Machine.execStalledAckRetransmit n s
  | .egressSlot n => Sys2Proof.Machine.execEgressSlot n s
  | .downWaitExpiry n => Sys2Proof.Machine.execDownWaitExpiry n s
  | .trainingLocked n => Sys2Proof.Machine.execTrainingLocked n s
  | .trainingTimeout n => Sys2Proof.Machine.execTrainingTimeout n s
  | .trainSend n => Sys2Proof.Machine.execTrainSend n s
  | .train n => Sys2Proof.Machine.execTrain n s
  | .lockedTimeout n => Sys2Proof.Machine.execLockedTimeout n s
  | .upTimeout n => Sys2Proof.Machine.execUpTimeout n s
  | .retrain via => Sys2Proof.Machine.execRetrain via s
  | .linkEnableWrite via => Sys2Proof.Machine.execLinkEnableWrite via s
  | .respTimeout rtag => Sys2Proof.Machine.execRespTimeout rtag s
  | .packetRoute port service vc => Sys2Proof.Machine.execPacketRoute port service vc s
  | .agedDiscard port service vc => Sys2Proof.Machine.execAgedDiscard port service vc s
  | .data => Sys2Proof.Machine.execData s
  | .barrierJoin => Sys2Proof.Machine.execBarrierJoin s
  | .barrierReleasePacket => Sys2Proof.Machine.execBarrierReleasePacket s
  | .joinRepeat p => Sys2Proof.Machine.execJoinRepeat p s
  | .barrierTimeout p => Sys2Proof.Machine.execBarrierTimeout p s
  | .collUp => Sys2Proof.Machine.execCollUp s
  | .collDown => Sys2Proof.Machine.execCollDown s
  | .openJob via => Sys2Proof.Machine.execOpenJob via s
  | .close via => Sys2Proof.Machine.execClose via s
  | .closeExpiry j => Sys2Proof.Machine.execCloseExpiry j s
  | .timePulse => Sys2Proof.Machine.execTimePulse s
  | .stampedCodeword n => Sys2Proof.Machine.execStampedCodeword n s
  | .timestamp => Sys2Proof.Machine.execTimestamp s
  | .timeParentWrite via => Sys2Proof.Machine.execTimeParentWrite via s
  | .holdoverEntry => Sys2Proof.Machine.execHoldoverEntry s
  | .holdoverLimitExpiry => Sys2Proof.Machine.execHoldoverLimitExpiry s
  | .timeStep => Sys2Proof.Machine.execTimeStep s
  | .utcSet via => Sys2Proof.Machine.execUtcSet via s
  | .droop d setting => Sys2Proof.Machine.execDroop d setting s
  | .oscillatorRecovery d => Sys2Proof.Machine.execOscillatorRecovery d s
  | .intakeTail f value => Sys2Proof.Machine.execIntakeTail f value s
  | .intakeFetch src entry => Sys2Proof.Machine.execIntakeFetch src entry s
  | .complHead f value => Sys2Proof.Machine.execComplHead f value s
  | .queuedCompletionWrite f => Sys2Proof.Machine.execQueuedCompletionWrite f s
  | .ringReset f value => Sys2Proof.Machine.execRingReset f value s
  | .ringEnable f value => Sys2Proof.Machine.execRingEnable f value s
  | .irqArm f value => Sys2Proof.Machine.execIrqArm f value s
  | .loadPlan src image => Sys2Proof.Machine.execLoadPlan src image s
  | .unloadPlan src => Sys2Proof.Machine.execUnloadPlan src s
  | .loadHandles src entries => Sys2Proof.Machine.execLoadHandles src entries s
  | .patch src => Sys2Proof.Machine.execPatch src s
  | .dmaIn src data => Sys2Proof.Machine.execDmaIn src data s
  | .dmaOut src => Sys2Proof.Machine.execDmaOut src s
  | .perstN h => Sys2Proof.Machine.execPerstN h s
  | .flr f => Sys2Proof.Machine.execFlr f s
  | .barMisuse f a => Sys2Proof.Machine.execBarMisuse f a s
  | .windowAccess h offset a => Sys2Proof.Machine.execWindowAccess h offset a s
  | .pcieError h err hit => Sys2Proof.Machine.execPcieError h err hit s
  | .cxlLinkDrop n => Sys2Proof.Machine.execCxlLinkDrop n s
  | .rocePacket e pkt => Sys2Proof.Machine.execRocePacket e pkt s
  | .qpAckTimeout q => Sys2Proof.Machine.execQpAckTimeout q s
  | .qpStateWrite via => Sys2Proof.Machine.execQpStateWrite via s
  | .fetchStart via => Sys2Proof.Machine.execFetchStart via s
  | .fetchEntryEnd entry => Sys2Proof.Machine.execFetchEntryEnd entry s
  | .write via => Sys2Proof.Machine.execWrite via s
  | .writeBlock via => Sys2Proof.Machine.execWriteBlock via s
  | .stagingTimeout sid => Sys2Proof.Machine.execStagingTimeout sid s
  | .mbAck f value => Sys2Proof.Machine.execMbAck f value s
  | .notify received => Sys2Proof.Machine.execNotify received s
  | .sessionOpen via => Sys2Proof.Machine.execSessionOpen via s
  | .sessionClose via => Sys2Proof.Machine.execSessionClose via s
  | .sessionIdleTimeout sid => Sys2Proof.Machine.execSessionIdleTimeout sid s
  | .relay via => Sys2Proof.Machine.execRelay via s
  | .relayReply => Sys2Proof.Machine.execRelayReply s
  | .logWindow via => Sys2Proof.Machine.execLogWindow via s
  | .logClear via => Sys2Proof.Machine.execLogClear via s
  | .clear via => Sys2Proof.Machine.execClear via s
  | .powerOn => Sys2Proof.Machine.execPowerOn s
  | .resetN => Sys2Proof.Machine.execResetN s
  | .coldStart env => Sys2Proof.Machine.execColdStart env s
  | .warmStart env => Sys2Proof.Machine.execWarmStart env s
  | .resetCauseWrite via => Sys2Proof.Machine.execResetCauseWrite via s
  | .blockReset via => Sys2Proof.Machine.execBlockReset via s
  | .coreReset via => Sys2Proof.Machine.execCoreReset via s
  | .activate via => Sys2Proof.Machine.execActivate via s
  | .activatePause => Sys2Proof.Machine.execActivatePause s
  | .firmwareSlotWrite via => Sys2Proof.Machine.execFirmwareSlotWrite via s
  | .persist via => Sys2Proof.Machine.execPersist via s
  | .unpersist via => Sys2Proof.Machine.execUnpersist via s
  | .clearRetired via => Sys2Proof.Machine.execClearRetired via s
  | .storeWrite => Sys2Proof.Machine.execStoreWrite s
  | .cardInsert card => Sys2Proof.Machine.execCardInsert card s
  | .cardRemove => Sys2Proof.Machine.execCardRemove s
  | .railsOkFall => Sys2Proof.Machine.execRailsOkFall s
  | .avsUpdate millivolts sensed => Sys2Proof.Machine.execAvsUpdate millivolts sensed s
  | .railFault r millivolts => Sys2Proof.Machine.execRailFault r millivolts s
  | .powerLimitUpdate watts => Sys2Proof.Machine.execPowerLimitUpdate watts s
  | .thermalWarning which tenths => Sys2Proof.Machine.execThermalWarning which tenths s
  | .throttleBegin which tenths => Sys2Proof.Machine.execThrottleBegin which tenths s
  | .throttleEnd => Sys2Proof.Machine.execThrottleEnd s
  | .thermtrip which tenths => Sys2Proof.Machine.execThermtrip which tenths s
  | .park via => Sys2Proof.Machine.execPark via s
  | .wake w => Sys2Proof.Machine.execWake w s
  | .freezeN => Sys2Proof.Machine.execFreezeN s
  | .freeze via => Sys2Proof.Machine.execFreeze via s
  | .freezeAt via => Sys2Proof.Machine.execFreezeAt via s
  | .freezeAtTrigger => Sys2Proof.Machine.execFreezeAtTrigger s
  | .unfreeze via => Sys2Proof.Machine.execUnfreeze via s
  | .freezeNDeassert => Sys2Proof.Machine.execFreezeNDeassert s
  | .clockRestart => Sys2Proof.Machine.execClockRestart s
  | .extest => Sys2Proof.Machine.execExtest s
  | .idcode => Sys2Proof.Machine.execIdcode s
  | .samplePreload => Sys2Proof.Machine.execSamplePreload s
  | .frzSelect value => Sys2Proof.Machine.execFrzSelect value s
  | .frzScan bits => Sys2Proof.Machine.execFrzScan bits s
  | .frzMemRead command => Sys2Proof.Machine.execFrzMemRead command s
  | .frzMemWrite command word check => Sys2Proof.Machine.execFrzMemWrite command word check s
  | .frzResume value => Sys2Proof.Machine.execFrzResume value s
  | .bypass => Sys2Proof.Machine.execBypass s
  | .snapshot via => Sys2Proof.Machine.execSnapshot via s
  | .snapshotCopy => Sys2Proof.Machine.execSnapshotCopy s
  | .sweeperSlice b => Sys2Proof.Machine.execSweeperSlice b s
  | .sweeperSliceEnd b failed => Sys2Proof.Machine.execSweeperSliceEnd b failed s
  | .mbDoorbell f value => Sys2Proof.Machine.execMbDoorbell f value s
  | .thermalStatusRead via => Sys2Proof.Machine.execThermalStatusRead via s
  | .pcieLinkUp h rate width => Sys2Proof.Machine.execPcieLinkUp h rate width s
  | .ethLinkUp e => Sys2Proof.Machine.execEthLinkUp e s
  | .ethLinkDown e => Sys2Proof.Machine.execEthLinkDown e s
  | .dmaCompletion src => Sys2Proof.Machine.execDmaCompletion src s
  | .sliceBegin p => Sys2Proof.Machine.execSliceBegin p s
  | .testLogicReset => Sys2Proof.Machine.execTestLogicReset s

end Sys2Proof.Machine
end

