-- ==== Sys2Proof/Machine/Tick.lean ====
section
/-! DEFINITION. What the part does by itself in one nominal district cycle, 1/1.40 GHz (log 5): clocks and time, the cores' routines, logical time, what no row
completes, and the counters of time. -/
namespace Sys2Proof.Machine

/-! ## Time (R358 to R363) -/

/-- What the central count gains at one reference cycle (R362): the increment as adjusted, and slewing within 200 ppm. -/
def TimeUnit.gain (x : TimeUnit) : Int × Int :=
  let n : Int := Config.nominalIncrement
  let most : Int := n * 200000 / 1000000000
  let adj := n * x.adjust / 1000000000
  let slew := max (-most - adj) (min (most - adj) x.slewLeft)
  (n + adj + slew, slew)

/-- The central time unit over one nominal district cycle: 6.4 ns are 8.96 of them. -/
def State.tickTime (s : State) : State :=
  let x := s.time
  if x.refPhase + 100 < 896 then { s with time := { x with refPhase := x.refPhase + 100 } }
  else
    let g := x.gain
    { s with time := { x with refPhase := x.refPhase + 100 - 896, central := x.central + g.1.toNat, slewLeft := x.slewLeft - g.2 } }

/-- A district's oscillator over one nominal cycle: at setting s it runs at 1 − 0.008·s of the nominal rate (R358). Its copy of town time gains
the length of its cycle (R363). -/
def State.tickDistrict (s : State) (d : Nat) : State :=
  let x := s.district d
  let k := s.settingOf d
  let rate := 1000 - 8 * k
  if x.phase + rate < 1000 then s.setDistrict d { x with phase := x.phase + rate }
  else
    let s := s.setDistrict d { x with phase := x.phase + rate - 1000, cycles := x.cycles + 1, slotCounter := (x.slotCounter + 1) % 16,
                                      copy := x.copy + 8 * 1000 * 2 ^ 32 / (7 * rate) }
    if k = 0 then s else s.count (0x9900 + d) 0x02 1

/-- A district has had a cycle between two states. -/
def ticked (before after : State) (d : Nat) : Bool := decide ((before.district d).cycles < (after.district d).cycles)

/-! ## Contention in a logical cycle (R17, R22, R70) -/

/-- Words of a block whose logical cycle has come and which the equaliser has not written. -/
def State.wordsDue (s : State) (p b : Nat) : Nat := ((s.block b).equaliser.filter (fun v => decide (v.due ≤ (s.part p).lcycle))).length

/-- The further cycles of this logical cycle: for banks, and for words beyond two (R17, R22). -/
def State.contention (s : State) (p : Nat) : Nat × Nat :=
  let l := mapBlocks (s.part p).blockMap
  ((l.map s.bankExtra).foldl max 0, (l.map (fun b => if (s.block b).eqWrites < 2 then 0 else ceilDiv (s.wordsDue p b) 2)).foldl max 0)

/-! ## Logical time (R120, R144 to R148) -/

/-- Something of the present logical cycle is still to happen: a check, an issue, a word due, or the end or the entry of a segment. -/
def State.undone (s : State) (p : Nat) : Bool :=
  let x := s.part p
  (mapBlocks x.blockMap).any (fun b => (List.range 4).any (fun q => (s.checkDue p b q).isSome || s.due p b q) || s.wordsDue p b != 0)
    || (match x.seg with
      | none => false
      | some g => (!x.ended && decide (g.z ≤ x.lcycle)) || (x.ended && (x.successor g).isSome && decide (g.z + 64 ≤ x.lcycle)))

/-- The causes active in a frozen cycle, as the subindices of their counters; in the one further cycle, those that were (R148). -/
def State.activeCauses (s : State) (p : Nat) : List Nat :=
  let x := s.part p
  let extra := (if x.extraBank = 0 then [] else [HoldCause.bank.sub]) ++ (if x.extraStreet = 0 then [] else [HoldCause.street.sub])
  match x.freeze with
  | none => extra
  | some z =>
    let l := (z.holds.filter (fun h => !s.resolved p h)).map (fun h => h.cause.sub)
    (if l.isEmpty ∧ extra.isEmpty then z.holds.map (fun h => h.cause.sub) else l) ++ extra

/-- A frozen cycle of a partition (R148, R151, R174): counted once in all, and once for its first active cause. -/
def State.slipCycle (s : State) (p : Nat) : State :=
  let x := s.part p
  let c := (s.activeCauses p).foldl min 0x0C
  let f := x.freeze.map (fun (z : PartFreeze) =>
    { z with length := z.length + 1, waitLen := if c = 0x0C ∨ c = 0x09 then z.waitLen + 1 else 0, done := z.holds.all (s.resolved p) })
  let s := s.setPart p { x with freeze := f, extraBank := x.extraBank - 1, extraStreet := x.extraStreet - 1 }
  (s.count (0x9100 + p) 0x01 1).count (0x9100 + p) c 1

/-- The contention of a logical cycle begins: it freezes the partition for its cycles (R17, R22). -/
def State.beginContention (s : State) (p bank street : Nat) : State :=
  let s := (s.setPart p { s.part p with extraBank := bank, extraStreet := street, charged := true }).count (0x9100 + p) 0x10 1
  s.setCounter (0x9100 + p) 0x11 (max (s.counter (0x9100 + p) 0x11) (max bank street))

/-- The contention of the logical cycle in which a partition froze joins that freeze (R148). -/
def State.joinContention (s : State) (p : Nat) : State :=
  let e := s.contention p
  s.setPart p { s.part p with extraBank := e.1, extraStreet := e.2, charged := true }

/-- The accesses of a frozen cycle meet in the banks of the districts that had a cycle (R17). -/
def State.bankDelays (s : State) (p : Nat) (had : Nat → Bool) : State :=
  ((mapBlocks (s.part p).blockMap).filter (fun b => had (districtOf b))).foldl State.delayBlock s

/-- A partition's operations go on: by a logical cycle in every district, or, while its logical time stands, by a cycle in each district that had one
(R121, R145, R146). -/
def State.runClocks (s : State) (p : Nat) (had : Nat → Bool) : State :=
  let x := s.part p
  s.setPart p { x with clocks := ((mapDistricts x.blockMap).filter had).foldl (fun (t : Table Nat) d => t.put d (t.get 0 d + 1)) x.clocks }

/-- Logical time goes on by one (R144). -/
def State.nextLogical (s : State) (p : Nat) : State :=
  let s := s.runClocks p (fun _ => true)
  s.setPart p { s.part p with lcycle := (s.part p).lcycle + 1, charged := false }

/-- The slowest district of a partition: its lockstep waits for it (R145). -/
def State.slowest (s : State) (l : List Nat) : Nat :=
  l.foldl (fun a d => if s.settingOf a < s.settingOf d then d else a) (l.headD 0)

/-- Logical time of a RUNNING partition over one nominal cycle, given which districts had a cycle. Of a FENCED one it goes on, so that the
operations in flight run to completion (R124; DEDUCED, log 64). -/
def State.tickLogical (s : State) (p : Nat) (had : Nat → Bool) : State :=
  let x := s.part p
  if x.stepState = .fenced then
    let s := (s.bankDelays p had).runClocks p had
    if (mapBlocks x.blockMap).all (fun b => s.wordsDue p b == 0) && had (s.slowest (mapDistricts x.blockMap)) then s.setPart p { s.part p with lcycle := x.lcycle + 1 } else s
  else if x.stepState ≠ .running then s.runClocks p had
  else if x.frozen then
    let s := (if x.charged then s.bankDelays p had else s.joinContention p).runClocks p had
    if had x.lead then s.slipCycle p else s
  else
    let e := if x.charged then (0, 0) else s.contention p
    if e ≠ (0, 0) then
      let s := (s.beginContention p e.1 e.2).runClocks p had
      if had x.lead then s.slipCycle p else s
    else if s.undone p then s
    else if had (s.slowest (mapDistricts x.blockMap)) then s.nextLogical p
    else if had x.lead then s.count (0x9100 + p) 0x0D 1 else s

/-! ## What no row does -/

/-- A block's cycle: words enter its landing buffer, the banks' accesses begin afresh, and, when its operations' clock has gone on, words are read
and products enter the short accumulators (R19, R26, R59, R69); a NOP, a NOTE, and a barrier of no job complete (R112, R350). -/
def State.tickBlock (s : State) (b : Nat) (moved : Bool) : State :=
  let x := (s.block b).ejects s.now
  let x := if moved then x.inflight.foldl (fun x o => x.shortCycle (s.cyclesOf b) o) x else x
  let s := (s.setBlock b { x with eqWrites := 0, bankUse := [], bankOther := [] }).stageBlock b
  let p := s.ownerOf b
  let s := (s.dueOps b (fun o => o.queue == 3 && (opcode o.desc == 0x80 || opcode o.desc == 0x81) && !o.heldRecord)).foldl (fun s o => s.finishVector b o) s
  (s.dueOps b (fun o => o.queue == 2 && opcode o.desc == 0x68 && o.work == .plain)).foldl (fun s o => s.completeOp p b o []) s

/-- A partition's own matters at the end of a cycle: a step that failed in a cycle that is over is reported and gives its notice (R124, R138, R378), a committed decision is
carried out (R392, R394), and a fenced partition's collectives stop (R355). -/
def State.tickPart (s : State) (p : Nat) : State :=
  let x := s.part p
  let s := match x.stepState, x.failure with
    | .fenced, some f =>
      if f.closed ∨ s.competes p f then s
      else
        let s := s.reportFailure p
        if f.cls = 0 then s else s.originate p f.cls f.cause.code f.port false
    | _, _ => s
  let s := if x.stepState = .fenced ∧ s.colls.any (fun e => e.2.part == p) then s.stopColls p else s
  if (s.part p).outcome = 0 then s else s.carryOut p

/-- The cycles in which a packet waits: a plan packet for a credit, a service packet for one, and a new packet for the window (R151, R305, R336). -/
def State.tickWaits (s : State) : State :=
  let stuck := fun (q : Queued) => match q.out with
    | some n => (s.port n).isUp && !(s.port n).hasCredit q.pkt
    | none => false
  let l := s.crossroads.values.flatten
  let ofJob := fun (q : Queued) => if q.pkt.src = s.endpoint then s.parts.keys.find? (fun p => (s.jobOf p).any (fun j => s.jobTag j == q.pkt.job)) else none
  let parts := (l.filterMap (fun q => if q.pkt.cls == 0 && stuck q then (match q.op with
    | some o => s.partOf o.1
    | none => ofJob q) else none)).eraseDups
  let s1 := parts.foldl (fun (s : State) p => s.count (0x9100 + p) 0x0E 1) s
  let s2 := if l.any (fun q => q.pkt.cls == 1 && stuck q) then s1.count 0x9800 0x09 1 else s1
  (List.range 6).foldl (fun (t : State) n => if (s.port n).isUp && (s.port n).windowFull && l.any (fun q => q.out == some n) then t.count (0x9700 + n) 0x0F 1 else t) s2

/-- A pass that has become late counts once (R497); before a block's first pass its age runs from the cold start (DEDUCED, log 60). -/
def State.tickPass (s : State) : State :=
  let target := s.objNat 0xB000 0x03 * Config.ticksPerSecond
  if s.town ≤ target then s
  else (List.range 256).foldl (fun (s : State) b =>
    let x := s.block b
    if x.retired ∨ x.passLate ∨ s.town ≤ x.passAt + target then s
    else (s.setBlock b { x with passLate := true }).countLog { cls := 13, counter := 0x9E00, sub := 0x06, detail := b }) s

/-- The counters of µs: frozen, throttled, and under a POWER_LIMIT floor (R498, R513). -/
def State.tickMicros (s : State) (before : Nat) : State :=
  let n := s.town / Config.ticksPerUs - before / Config.ticksPerUs
  if n = 0 then s
  else
    let s := if s.freeze.state = 0 then s else s.count 0x9E10 0x02 n
    let s := if s.power.throttle then s.count 0x9E20 0x01 n else s
    if s.power.limitFloor = 0 then s else s.count 0x9E20 0x02 n

/-! ## The tick -/

/-- A nominal cycle of a part whose districts run. -/
def State.tickRunning (s : State) : State :=
  let t := { s.tickTime with now := s.now + 1 }
  let t := (List.range 16).foldl State.tickDistrict t
  let had := ticked s t
  let t := (List.range 20).foldl (fun (t : State) k => if had (coreDistrict k) && (t.district (coreDistrict k)).cycles % 2 == 0 then t.coreCycle k else t) t
  let t := t.parts.keys.foldl (fun (t : State) p => t.tickLogical p had) t
  let t := t.blocks.keys.foldl (fun (t : State) b => if had (districtOf b) then t.tickBlock b (decide (s.cyclesOf b < t.cyclesOf b)) else t) t
  let t := t.parts.keys.foldl State.tickPart t
  let t := t.tenants.keys.foldl State.teardownStep t
  (t.tickWaits.tickPass).tickMicros s.town

/-- One nominal district cycle of the part (log 5): of a part that is frozen or starting, only the central time unit runs (R483). -/
def State.tick (s : State) : State :=
  match s.mode with
  | .off => s
  | .frozen => s.tickTime.freezeDone.tickMicros s.town
  | .running => s.tickRunning
  | .parked => s.tickRunning
  | _ => s.tickTime

end Sys2Proof.Machine
end

