-- ==== Sys2Proof/Safety.lean ====
section
/-! DEFINITION. What counts as a safe step and a safe run: the part goes on, with neither a fault nor a refusal; and the form that every state
keeps. -/
namespace Sys2Proof
open Machine

/-- An outcome with which the part goes on. -/
def Safe (o : Host.Outcome Machine.State Machine.Fault Machine.Refusal) : Prop := ∃ s, o = .next s

/-- The commands waiting in a state can all come about. -/
def WellQueued (s : Machine.State) : Prop := ∀ c ∈ s.pending, c.wf = true

/-- The form that every state keeps: memory is in its canonical form (each word listed once, in rising order, none that reads as an unlisted
word does); every counter and every shadow holds 48 bits (R452, R492); every OBJ_VERSION holds 32 bits (R432); WIN_BASE holds bits 55 to 30 of an
address and WIN_REFUSED 48 bits (R404). -/
def Canonical (s : Machine.State) : Prop :=
  s.mem.wf = true ∧ (∀ e ∈ s.counters, e.2 < 2 ^ 48) ∧ (∀ e ∈ s.shadows, e.2 < 2 ^ 48) ∧ (∀ e ∈ s.versions, e.2 < 2 ^ 32)
    ∧ ∀ e ∈ s.windows, e.2.base.toNat % 2 ^ 30 = 0 ∧ e.2.base.toNat < 2 ^ 56 ∧ e.2.refused < 2 ^ 48

/-! ## How the statements speak of commands -/

/-- The head of block b's queue q is d, of partition p, and issues now: it is ready, its engine takes it, a place is free, and no cause of R122 or of its
own family holds (R120 to R122). -/
abbrev Ready (s : State) (b q p : Nat) (d : Desc) (own : List Status) : Prop :=
  s.ready b q = some (p, d) ∧ s.engineHeld b q d = false ∧ s.hasPlace p b q = true ∧ firstCause (s.operandCauses p b d ++ own) = none

/-- The state in which the act of the request at the head of the queue runs: the request has left the queue, is counted (R439, R445) and is delivered to the
management core of its object (R176). -/
def Taken (s : State) (rest : List (Source × List Byte)) : State :=
  (({ s with cdp := { s.cdp with queue := rest } } : State).count 0x9D00 0x01 1).deliverCdp (cIndex ((s.cdp.queue.map Prod.snd).headD []))

/-- The request at the head of the management core's queue is l of a source, no chunk, of object (i, u), and it passes the checks of R443 up to its act; no
request waits in a packet. -/
abbrev Commanded (s : State) (src : Source) (l : List Byte) (rest : List (Source × List Byte)) (i u : Nat) : Prop :=
  s.cdpRuns = true ∧ s.arrived = [] ∧ s.cdp.queue = (src, l) :: rest ∧ (cSession l = 0 ∨ (s.sessionOf src l).isSome = true)
    ∧ cMsg l ≠ 5 ∧ cIndex l = i ∧ cSub l = u
    ∧ (Taken s rest).objectCause ((Taken s rest).askOf src l) (cBlen l) (!slotImage i u) = none
    ∧ ((Taken s rest).askOf src l).entry.all (fun e => !boolBad e ((Taken s rest).askOf src l)) = true
    ∧ (Taken s rest).stateBars ((Taken s rest).askOf src l) = false ∧ (Taken s rest).serves ((Taken s rest).askOf src l) = true

/-- The same of a request that writes or commands. -/
abbrev Written (s : State) (src : Source) (l : List Byte) (rest : List (Source × List Byte)) (i u : Nat) : Prop :=
  Commanded s src l rest i u ∧ (cMsg l = 2 ∨ cMsg l = 3)

/-- The chunk at the head of the queue completes the value staged for object (i, u) (R433), and the request for the whole value, a, passes the checks of R443
up to its act, which runs in T: the staging is gone. -/
abbrev Completed (s : State) (src : Source) (l : List Byte) (rest : List (Source × List Byte)) (i u : Nat) (T : State) (a : Ask) : Prop :=
  s.cdpRuns = true ∧ s.arrived = [] ∧ s.cdp.queue = (src, l) :: rest ∧ (cSession l = 0 ∨ (s.sessionOf src l).isSome = true)
    ∧ (cMsg l = 5 ∧ cIndex l = i ∧ cSub l = u ∧ slotImage i u = false ∧ cLast l = true)
    ∧ (((Taken s rest).stagingOf src (cSession l)).all (fun g => g.key == objKey i u) = true
      ∧ (((Taken s rest).stagingOf src (cSession l)).isSome = true ∨ (Taken s rest).stagings < 4)
      ∧ (Taken s rest).objectCause ((Taken s rest).askOf src l) (cBody l).length false = none)
    ∧ (T = (Taken s rest).setStaging src (cSession l) none
      ∧ a = { (Taken s rest).askOf src l with value := (((Taken s rest).stagingOf src (cSession l)).map Staging.bytes).getD [] ++ cBody l }
      ∧ cOffset l = ((((Taken s rest).stagingOf src (cSession l)).map Staging.bytes).getD []).length ∧ a.value.length ≤ 262144)
    ∧ T.objectCause ((Taken s rest).askOf src l) a.value.length true = none
    ∧ a.entry.all (fun e => !boolBad e a) = true ∧ T.stateBars a = false ∧ T.serves a = true

end Sys2Proof
end

