-- ==== Sys2Proof/Certificates/Slice0/Obligations.lean ====
section
/-! DEFINITION. The statements about the model for the provers, with the predicates they share. Each cites, in its docstring, the rules of spec/ it
formalises or rests on; a model's choice is named as one with its log entry. -/
section
open Sys2Proof Sys2Proof.Machine

/-- Right after reset no partition is live and no tenant enrolled, no session is open, no port is up and no job holds a slot; every word of block memory and of tier 1 reads as the fill
of R213 (256 zero bits with the check value 0xFFFF_0000), which fails its reader as UNWRITTEN; every counter is zero; and the state has the form that every step
keeps. That the state after reset is that of a completed cold start is the model's choice (log 33). -/
def Obligations.ResetLeaves : Prop :=
  State.reset.mode = .running ∧ State.reset.pending = [] ∧ Canonical State.reset
    ∧ (∀ p, (State.reset.part p).partState = 0) ∧ (∀ t, (State.reset.tenant t).state = 0) ∧ State.reset.cdp.sessions = [] ∧ State.reset.freeze.state = 0
    ∧ (∀ n, (State.reset.port n).link ≠ 4) ∧ (∀ j, (State.reset.job j).state = 0) ∧ (∀ i u, State.reset.counter i u = 0)
    ∧ ∀ a, State.reset.readWord a = ⟨0, 0xFFFF0000⟩ ∧ decodeStored (State.reset.readWord a) = .failing .unwritten 0xFFFFFFFF

/-- Every command, and the cycle that passes where none waits, keeps the form of Canonical: memory in its canonical form, counters and shadows of 48 bits, OBJ_VERSIONs of
32 bits, and window pages of the bits of R404. -/
def Obligations.StepKeepsCanonical : Prop :=
  ∀ (s t : State), Canonical s → step s = .next t → Canonical t

/-- Whatever a command does, the commands that wait behind it stay as they are: none is added, dropped or changed. The queue is the model's (log 1). -/
def Obligations.CommandsKeepTheQueue : Prop :=
  ∀ (c : Instr) (s t : State), exec c s = .next t → t.pending = s.pending

/-- Whether a command can store to memory: deliveries and completions, service transfers, the mending and clearing of words, the host's accesses, packets
and the starts of the part. -/
def stores : Instr → Bool
  | .batchResolution _ | .ckptData | .clearDone _ | .cmax _ | .cmin _ | .csum _ | .coldStart _ | .collDown | .collUp | .data | .dmaIn _ _ | .fetchEntryEnd _
  | .frzMemWrite _ _ _ | .hbmUnitSlot _ | .kerbFrameCopy _ | .landingWrite _ | .moverCompletion _ | .powerOn | .railsOkFall | .recallFrameCopy _
  | .repairQueueWriteback _ | .restoreData | .rocePacket _ _ | .scrubWord _ | .servingCompletion _ | .streetWordDelivery _ | .summaryHoldRelease _
  | .vectorCompletion _ | .windowAccess _ _ _ => true
  | _ => false

/-- The commands that can store to memory are deliveries and completions, service transfers, the mending and clearing of words, the host's accesses, packets of data and the
starts of the part; every other command leaves every word of memory as it was. -/
def Obligations.OtherCommandsStoreNothing : Prop :=
  ∀ (c : Instr) (s t : State), stores c = false → exec c s = .next t → ∀ a, t.readWord a = s.readWord a

/-- In every state, each of the 260 commands, with any operands, completes: it answers a next state, and no fault and no refusal. The statements of its family say what that next state holds. What the part does with operands that no event can bring (an access of another width than R399's, a
reading of no sensor) is the model's choice (log 14). -/
def Obligations.EveryCommandGoesOn : Prop :=
  ∀ (c : Instr) (s : State), ∃ t, exec c s = .next t

/-- No command is refused, whatever its operands and whatever the state. -/
def Obligations.NoCommandIsRefused : Prop :=
  ∀ (c : Instr) (s : State) (r : Refusal), exec c s ≠ .refused r

/-- For every command c and every state, a step with c at the front of the queue is c on the state with the rest of the queue. The queue is the model's (log 1). -/
def Obligations.StepTakesTheFront : Prop :=
  ∀ (c : Instr) (rest : List Instr) (s : State), step { s with pending := c :: rest } = exec c { s with pending := rest }

/-- On an empty queue one nominal district cycle passes (the model's choice, log 5), and the queue stays empty; of a part that is off nothing moves, and of one that is frozen or
starting no district does: its blocks, partitions and memory stand still. -/
def Obligations.EmptyQueueTicks : Prop :=
  ∀ (s : State),
      s.pending = [] →
      ∃ t, step s = .next t ∧ t.pending = [] ∧ (s.mode = .off → t = s)
        ∧ (s.mode = .frozen ∨ s.mode = .starting → t.districts = s.districts ∧ t.blocks = s.blocks ∧ t.parts = s.parts ∧ ∀ a, t.readWord a = s.readWord a)

/-- For every word, bit 16 + c of its check value is the XOR of the 16 bits of column c (bits c, 16 + c, 32 + c, …), and bit r is the inverse of the XOR of the 16 bits of row r
(bits 16r to 16r + 15). A word of 256 zeros has the check value 0x0000_FFFF, and so does a word of 256 ones. -/
def Obligations.CheckValueLayout : Prop :=
  (∀ (w : Word) (c : Nat), c < 16 → (checkOf w).getLsbD (16 + c) = (List.range 16).foldl (fun x r => x ^^ w.getLsbD (16 * r + c)) false)
    ∧ (∀ (w : Word) (r : Nat), r < 16 → (checkOf w).getLsbD r = !(List.range 16).foldl (fun x c => x ^^ w.getLsbD (16 * r + c)) false)
    ∧ checkOf 0 = 0x0000FFFF ∧ checkOf (BitVec.allOnes 256) = 0x0000FFFF

/-- For every word, the word with its own check value is clean and reads as itself; with one data bit inverted, whichever, it is mended to the word; with one check bit inverted,
whichever, it is mended to the word too. -/
def Obligations.CheckCodeMends : Prop :=
  (∀ w : Word, decodeStored (encodeWord w) = .clean w)
    ∧ (∀ (w : Word) (i : Nat), i < 256 → decodeStored ⟨w ^^^ BitVec.ofNat 256 (2 ^ i), checkOf w⟩ = .mended w)
    ∧ ∀ (w : Word) (i : Nat), i < 32 → decodeStored ⟨w, checkOf w ^^^ BitVec.ofNat 32 (2 ^ i)⟩ = .mended w

/-- In every memory of canonical form, a word written reads back as written and every other word as before; words written one after another leave every address outside them as it was;
and a range that is cleared reads as zeros with the check value 0x0000_FFFF, while every word outside it reads as before. -/
def Obligations.MemoryReadsBack : Prop :=
  (∀ (m : Memory) (a b : Nat) (x : Stored), m.wf = true → (m.write a x).read b = if b = a then x else m.read b)
    ∧ (∀ (s : State) (ws : List (Nat × Word)) (a : Nat), s.mem.wf = true → (∀ e ∈ ws, e.1 ≠ a) → (s.writeWords ws).readWord a = s.readWord a)
    ∧ ∀ (m : Memory) (a n b : Nat), m.wf = true → (m.clear a n).read b = if a ≤ b ∧ b < a + n then ⟨0, 0x0000FFFF⟩ else m.read b

/-- A counter advanced by n holds its former value plus n modulo 2^48 (R452), and every other counter is as before. -/
def Obligations.CountersWrap : Prop :=
  (∀ (s : State) (i u n : Nat), (s.count i u n).counter i u = (s.counter i u + n) % 2 ^ 48)
    ∧ ∀ (s : State) (i u j v n : Nat), u < 256 → v < 256 → (i, u) ≠ (j, v) → (s.count i u n).counter j v = s.counter j v

/-- The head d has left queue q of block b and is in flight: it has a place, and completes after `dur` cycles with `w` still to do; no word of memory has
changed (R119 to R123). -/
def InFlight (s t : State) (b q : Nat) (d : Desc) (dur : Nat) (w : Work) : Prop :=
  ((t.block b).queue q).descs = ((s.block b).queue q).descs.tail
    ∧ (t.block b).inflight = (s.block b).inflight ++ [s.newOp ((s.partOf b).getD 0) b q d dur w] ∧ ∀ a, t.readWord a = s.readWord a

/-- An MMA that starts its bank, or continues a started one, is in flight for (G + 1)τ + 12 cycles, holds the engine for Gτ, and adds K to the bank's count of elements, which START
begins anew with the descriptor's anchor. ACC_START is in flight for 4 cycles and starts its bank empty. ACC_LOAD of a buffer with a good header is in flight for its
entries' reads and 12 cycles, and starts its bank; with the last of its words read, its elements are the bank's entries. FOLD adds the oldest due K-block to its bank and changes no other
block. None of them changes a word of memory. -/
def Obligations.MatrixCommandsRun : Prop :=
  (∀ (b : Fin 256) (s : State) (p : Nat) (d : Desc),
      Ready s b.val 0 p d (mmaCauses s b.val d) →
      opcode d = 0 →
      startBit d = true ∨ ((s.block b.val).bank (bankBit d)).started = true →
      (if startBit d then none else s.flawFails (accDpa b.val (bankBit d) 10240)) = none →
      ∃ t, exec (.mma b) s = .next t ∧ InFlight s t b.val 0 d ((mmaG d + 1) * tauOf (mmaA d) (mmaB d) + 12) (.matrix [] [] 0 0)
        ∧ (t.block b.val).matrixFree = s.cyclesOf b.val + mmaG d * tauOf (mmaA d) (mmaB d)
        ∧ ((t.block b.val).bank (bankBit d)).ksteps = (if startBit d then 0 else ((s.block b.val).bank (bankBit d)).ksteps) + mmaK d
        ∧ ((t.block b.val).bank (bankBit d)).anchor = (if startBit d then anchorOf d else ((s.block b.val).bank (bankBit d)).anchor))
  ∧ (∀ (b : Fin 256) (s : State) (p : Nat) (d : Desc),
      Ready s b.val 0 p d [] →
      opcode d = 8 →
      ∃ t, exec (.accStart b) s = .next t ∧ InFlight s t b.val 0 d 4 .plain ∧ (t.block b.val).matrixFree = s.cyclesOf b.val + 4
        ∧ ((t.block b.val).bank (bankBit d)).started = true ∧ ((t.block b.val).bank (bankBit d)).anchor = anchorOf d
        ∧ ((t.block b.val).bank (bankBit d)).entries = [])
  ∧ (∀ (b : Fin 256) (s : State) (p : Nat) (d : Desc) (wp64 : Bool),
      Ready s b.val 0 p d [] →
      opcode d = 9 →
      (readRun s.mem (s.opAddrs p (opnd d 0) 1)).failed = none →
      accHeader s p d ((readRun s.mem (s.opAddrs p (opnd d 0) 1)).words.headD 0) = .ok wp64 →
      ∃ t, exec (.accLoad b) s = .next t ∧ InFlight s t b.val 0 d (ceilDiv (wideWords wp64 (mmaM d * mmaN d)) 12 + 12) (.load wp64 [])
        ∧ (t.block b.val).matrixFree = s.cyclesOf b.val + ceilDiv (wideWords wp64 (mmaM d * mmaN d)) 12
        ∧ ((t.block b.val).bank (bankBit d)).started = true ∧ ((t.block b.val).bank (bankBit d)).anchor = anchorOf d
        ∧ ((t.block b.val).bank (bankBit d)).entries = [])
  ∧ (∀ (s : State) (p b : Nat) (o : Op) (wp64 : Bool) (part ws : List Word),
      o.work = .load wp64 part →
      (part ++ ws).length = wideWords wp64 (mmaM o.desc * mmaN o.desc) →
      (((s.takeReads p b o ws).block b).bank (bankBit o.desc)).entries = loadEntries (mmaN o.desc) (wideOf wp64 ((part ++ ws).headD 0) ((part ++ ws).drop 1)))
  ∧ (∀ (b : Fin 256) (s : State) (o : Op) (g n : Nat) (w : List Word) (ws : List (List Word)),
      s.live = true →
      (s.stageBlock b.val).foldDue b.val = some (o, g, w, ws, n) →
      (s.stageBlock b.val).flawRun ((s.stageBlock b.val).accFlaws b.val (bankBit o.desc) (mmaM o.desc) (mmaN o.desc)) = ([], none) →
      ∃ t, exec (.fold b) s = .next t
        ∧ (t.block b.val).bank (bankBit o.desc) = foldBlock o.desc g w (((s.stageBlock b.val).block b.val).bank (bankBit o.desc))
        ∧ (∀ c, c ≠ b.val → t.block c = (s.stageBlock b.val).block c) ∧ ∀ a, t.readWord a = s.readWord a)

/-- The vector commands, with the descriptors each accepts and the result each forms (R87 to R101). -/
def vectorRows : List ((Fin 256 → Instr) × (Desc → Bool) × (VecArgs → Except Status VecOut)) :=
  [(.readout, fun d => opcode d == 0x20, readoutOf), (.exportBank, fun d => opcode d == 0x21, exportOf), (.wpadd, fun d => opcode d == 0x22, wpaddOf),
   (.cvt, fun d => opcode d == 0x24, cvtOf), (.add, fun d => opcode d == 0x28, pairwiseOf numAdd),
   (.sub, fun d => opcode d == 0x29, pairwiseOf (fun x y => numAdd x y.neg)), (.mul, fun d => opcode d == 0x2A, pairwiseOf numMul),
   (.fma, fun d => opcode d == 0x2B, fmaOf), (.max, fun d => opcode d == 0x2C, pairwiseOf numMax), (.min, fun d => opcode d == 0x2D, pairwiseOf numMin),
   (.transExp2, fun d => opcode d == 0x30 && vecSub d == 0, transOf 0), (.transLog2, fun d => opcode d == 0x30 && vecSub d == 1, transOf 1),
   (.transReciprocal, fun d => opcode d == 0x30 && vecSub d == 2, transOf 2), (.transReciprocalSquareRoot, fun d => opcode d == 0x30 && vecSub d == 3, transOf 3),
   (.transTanh, fun d => opcode d == 0x30 && vecSub d == 4, transOf 4), (.reduceSum, fun d => opcode d == 0x31 && vecSub d == 0, sumOf false),
   (.reduceSumsq, fun d => opcode d == 0x31 && vecSub d == 1, sumOf true), (.reduceMax, fun d => opcode d == 0x31 && vecSub d == 2, extremeOf numMax),
   (.reduceMin, fun d => opcode d == 0x31 && vecSub d == 3, extremeOf numMin), (.reduceArgmax, fun d => opcode d == 0x31 && vecSub d == 4, argOf numLt),
   (.reduceArgmin, fun d => opcode d == 0x31 && vecSub d == 5, argOf (fun x y => numLt y x)), (.expsum, fun d => opcode d == 0x32, expsumOf),
   (.normscale, fun d => opcode d == 0x33, normscaleOf), (.sample, fun d => opcode d == 0x38 && !vecMerge d, sampleOf),
   (.sampleMerge, fun d => opcode d == 0x38 && vecMerge d, mergeOf)]

/-- The words a vector descriptor reads, in the order of its operands (R83). -/
def vectorRead (s : State) (p : Nat) (d : Desc) : ReadRun :=
  readRun s.mem (((vecUses d).filter (fun u => !u.write)).flatMap (fun u => s.opAddrs p u.ref u.words))

/-- What a vector descriptor works on: the words read, by operand, and its bank. -/
def vectorArgs (s : State) (p b : Nat) (d : Desc) : VecArgs :=
  let us := (vecUses d).filter (fun u => !u.write)
  let ws := (vectorRead s p d).words
  { desc := d, one := wordsOf us (opnd d 1) ws, two := wordsOf us (opnd d 2) ws, three := wordsOf us (opnd d 3) ws, bank := (s.block b).bank (bankBit d) }

/-- Row r issues d now: it is ready, of the row, its operands are read clean from a bank that is started where it reads one, and its result is `o`, which the
partition's policy does not fail. -/
abbrev VectorIssues (r : (Fin 256 → Instr) × (Desc → Bool) × (VecArgs → Except Status VecOut)) (b : Nat) (s : State) (p : Nat) (d : Desc) (o : VecOut) : Prop :=
  Ready s b 1 p d (overlapCauses d) ∧ r.2.1 d = true ∧ ((readsBank d).isSome = false ∨ ((s.block b).bank (bankBit d)).started = true)
    ∧ (vectorRead s p d).failed = none ∧ (readsBank d = none ∨ (s.flawRun (s.accFlaws b (bankBit d) (vecRows d) (vecRow d))).2 = none) ∧ r.2.2 (vectorArgs s p b d) = .ok o ∧ (o.policy && s.accFail p) = false

/-- Each of the 25 vector commands, on a descriptor of its own, whose operands are read clean and whose result is formed, without the overflow that the partition's policy fails, is in
flight with that result: the words of its destination and of its sums are written at completion, not before, and the engine is held for the cycles of R103. -/
def Obligations.VectorCommandsRun : Prop :=
  ∀ (r : (Fin 256 → Instr) × (Desc → Bool) × (VecArgs → Except Status VecOut)) (b : Fin 256) (s : State) (p : Nat) (d : Desc) (o : VecOut),
      r ∈ vectorRows →
      VectorIssues r b.val s p d o →
      ∃ t, exec (r.1 b) s = .next t ∧ ((t.block b.val).queue 1).descs = ((s.block b.val).queue 1).descs.tail
        ∧ (∃ x ∈ (t.block b.val).inflight, x.desc = d ∧ x.queue = 1
            ∧ x.vecWrites = (s.opAddrs p (opnd d 0) o.dest.length).zip o.dest ++ (s.opAddrs p (opnd d 3) o.sums.length).zip o.sums)
        ∧ (t.block b.val).vectorFree = s.cyclesOf b.val + vecBusy d ∧ (∀ a, t.readWord a = s.readWord a)

/-- A NOP is in flight for one cycle and a NOTE for two, with its record. A KVAPPEND that covers no slot covered before holds the ADV of each slot, and a DIGEST marks its slots;
each is in flight for 4 cycles. Nothing of memory changes. -/
def Obligations.ControlDescriptorsRun : Prop :=
  (∀ (b : Fin 256) (s : State) (p : Nat) (d : Desc),
      Ready s b.val 3 p d [] →
      opcode d = 0x80 →
      ∃ t, exec (.nop b) s = .next t ∧ InFlight s t b.val 3 d 1 .plain)
  ∧ (∀ (b : Fin 256) (s : State) (p : Nat) (d : Desc),
      Ready s b.val 3 p d [] →
      opcode d = 0x81 →
      ∃ t, exec (.note b) s = .next t ∧ InFlight s t b.val 3 d 2 (.vector [] (some (noteRecord d))))
  ∧ (∀ (b : Fin 256) (s : State) (p : Nat) (d : Desc),
      Ready s b.val 3 p d [] →
      opcode d = 0x72 →
      (addrs (slot0 d) (nslot d)).any (fun i => (s.part p).committed.any (fun c => c.1 == i)) = false →
      ∃ t, exec (.kvappend b) s = .next t ∧ InFlight s t b.val 3 d 4 (.serving [])
        ∧ (t.part p).committed = (s.part p).committed ++ (addrs (slot0 d) (nslot d)).map (fun i => (i, ((s.bound p i).map (s.adv p)).getD 0)))
  ∧ (∀ (b : Fin 256) (s : State) (p : Nat) (d : Desc),
      Ready s b.val 3 p d [] →
      opcode d = 0x75 →
      (addrs (slot0 d) (nslot d)).any (fun i => (s.part p).digested.contains i) = false →
      ∃ t, exec (.digest b) s = .next t ∧ InFlight s t b.val 3 d 4 (.serving [])
        ∧ (t.part p).digested = (s.part p).digested ++ addrs (slot0 d) (nslot d))

/-- Mover operation d of block b has started: it has left its queue and is in flight with `w` to do, the mover is held for `busy` cycles, and no word of memory has
changed (R119, R123, R194). -/
def MoverTakes (s t : State) (p b : Nat) (d : Desc) (busy : Nat) (w : Work) : Prop :=
  ((t.block b).queue 2).descs = ((s.block b).queue 2).descs.tail ∧ s.newOp p b 2 d 0 w ∈ (t.block b).inflight
    ∧ (t.block b).moverFree = s.cyclesOf b + busy ∧ ∀ a, t.readWord a = s.readWord a

/-- The words of a street transfer that block b starts in s are on their way (R20, R25, R26). -/
def OnStreets (s t : State) (p b : Nat) (ws : List (Nat × Stored)) : Prop :=
  ∀ k a w, ws[k]? = some (a, w) →
    if districtOf (a / 2 ^ 19 % 256) = districtOf b then
      ({ addr := a, word := w, due := (s.part p).lcycle + 24 + k / 2, source := b, index := k, opBlock := b, opId := s.opCount + 1 } : Delivery)
        ∈ (t.block (a / 2 ^ 19 % 256)).equaliser
    else ∃ due, s.now + 20 + k / 2 + 15 * ((route (districtOf b) (districtOf (a / 2 ^ 19 % 256))).length - 1) ≤ due
      ∧ ({ addr := a, word := w, due := due, source := b, index := k, opBlock := b, opId := s.opCount + 1 } : Delivery) ∈ (t.block (a / 2 ^ 19 % 256)).arriving

/-- A unit waits at its pseudo-channel. -/
def Waits (t : State) (u : HbmUnit) : Prop := u ∈ (t.channel (channelOf u.addr)).units

/-- The units of a write to tier 1 wait, unit u presented 60 ns and 2u cycles after issue (R179, R195). -/
def WritesWait (s t : State) (b : Nat) (d : Desc) (ws : List (Nat × Word)) : Prop :=
  ∀ u r, (unitRuns (ws.zipIdx.map (fun e => (e.1.1, e.2))))[u]? = some r →
    Waits t { stream := streamOf d, addr := (r.headD (0, 0)).1, count := r.length, write := some (r.map (fun e => (ws.getD e.2 (0, 0)).2)), opBlock := b,
              opId := s.opCount + 1, present := s.now + 84 + 2 * u, key := keyOf d }

/-- Each of COPY, FILL, WSTREAM, GATHER, SCATTER and SEND, on a descriptor that no cause fails and whose source words are read clean where it reads them, runs: the descriptor has left its
queue and is in flight, the mover is held for the cycles of R194, and no word of memory has changed yet. The words of a COPY or FILL to block memory are on their way as their source
holds them, the k-th due 24 cycles and k/2 more later in the same district (R20), and over the channels no earlier than R26 allows; a tier-1 end has its units, runs within a 128-byte line
(R179), waiting at their pseudo-channels, presented in the order and at the times of R195 (60 ns are 84 nominal cycles); a tier-2 or tier-3 destination has its words kept for the port. A WSTREAM of tier 1 has asked for its header.
A GATHER and a SCATTER have a unit of four words at its pseudo-channel for every slot, group or token, and four words of the page row, as R238 orders them, and a unit whose slot or page has no frame is marked so. The packets of a SEND wait in the buffer of
the local units: DATA packets of 16 words, the first FIRST and the last LAST, with the parity of the step. -/
def Obligations.MoverCommandsRun : Prop :=
  (∀ (b : Fin 256) (s : State) (p : Nat) (d : Desc),
      Ready s b.val 2 p d (s.copyCauses b.val p d) →
      opcode d = 0x50 →
      hOnBlock (s.handle p (opHandle (opnd d 1))) = true ∧ hOnBlock (s.handle p (opHandle (opnd d 0))) = true →
      ∃ t, exec (.copy b) s = .next t ∧ MoverTakes s t p b.val d (ceilDiv (rowWords d * rowCount d) 2) (.transfer (rowWords d * rowCount d))
        ∧ OnStreets s t p b.val ((s.moverAddrs p d 0).zip ((s.moverAddrs p d 1).map s.readWord)))
  ∧ (∀ (b : Fin 256) (s : State) (p : Nat) (d : Desc),
      Ready s b.val 2 p d (s.copyCauses b.val p d) →
      opcode d = 0x50 →
      hOnBlock (s.handle p (opHandle (opnd d 1))) = true ∧ hOnBlock (s.handle p (opHandle (opnd d 0))) = false →
      (readRun s.mem (s.moverAddrs p d 1)).failed = none →
      tierOf (hAddr (s.handle p (opHandle (opnd d 0))) 0) = 1 →
      ∃ t, exec (.copy b) s = .next t ∧ MoverTakes s t p b.val d (ceilDiv (rowWords d * rowCount d) 2) (.transfer (rowWords d * rowCount d))
        ∧ WritesWait s t b.val d ((s.moverAddrs p d 0).zip (readRun s.mem (s.moverAddrs p d 1)).words))
  ∧ (∀ (b : Fin 256) (s : State) (p : Nat) (d : Desc),
      Ready s b.val 2 p d (s.copyCauses b.val p d) →
      opcode d = 0x50 →
      hOnBlock (s.handle p (opHandle (opnd d 1))) = true ∧ hOnBlock (s.handle p (opHandle (opnd d 0))) = false →
      (readRun s.mem (s.moverAddrs p d 1)).failed = none →
      tierOf (hAddr (s.handle p (opHandle (opnd d 0))) 0) ≠ 1 →
      ∃ t, exec (.copy b) s = .next t
        ∧ MoverTakes s t p b.val d (ceilDiv (rowWords d * rowCount d) 2) (.vector ((s.moverAddrs p d 0).zip (readRun s.mem (s.moverAddrs p d 1)).words) none))
  ∧ (∀ (b : Fin 256) (s : State) (p : Nat) (d : Desc),
      Ready s b.val 2 p d (s.copyCauses b.val p d) →
      opcode d = 0x50 →
      hOnBlock (s.handle p (opHandle (opnd d 1))) = false →
      tierOf (hAddr (s.handle p (opHandle (opnd d 1))) 0) = 1 →
      ∃ t, exec (.copy b) s = .next t ∧ MoverTakes s t p b.val d (max 1 (ceilDiv (rowWords d * rowCount d) 32)) (.transfer (rowWords d * rowCount d))
        ∧ ∀ u r, (unitRuns ((s.moverAddrs p d 1).zip (s.moverAddrs p d 0)))[u]? = some r →
            Waits t { stream := streamOf d, addr := (r.headD (0, 0)).1, count := r.length, dests := r.map (fun e => (e.2, 0)), opBlock := b.val, opId := s.opCount + 1,
                      present := s.now + 84 + u / 8, key := keyOf d })
  ∧ (∀ (b : Fin 256) (s : State) (p : Nat) (d : Desc),
      Ready s b.val 2 p d (s.copyCauses b.val p d) →
      opcode d = 0x50 →
      hOnBlock (s.handle p (opHandle (opnd d 1))) = false →
      tierOf (hAddr (s.handle p (opHandle (opnd d 1))) 0) ≠ 1 →
      ∃ t, exec (.copy b) s = .next t ∧ MoverTakes s t p b.val d (max 1 (ceilDiv (rowWords d * rowCount d) 32)) (.transfer (rowWords d * rowCount d)))
  ∧ (∀ (b : Fin 256) (s : State) (p : Nat) (d : Desc),
      Ready s b.val 2 p d (s.fillCauses p d) →
      opcode d = 0x54 →
      hOnBlock (s.handle p (opHandle (opnd d 0))) = true →
      ∃ t, exec (.fill b) s = .next t ∧ MoverTakes s t p b.val d (ceilDiv (rowWords d * rowCount d) 2) (.transfer (rowWords d * rowCount d))
        ∧ OnStreets s t p b.val ((s.moverAddrs p d 0).map (fun a => (a, s.readWord ((s.opAddrs p (opnd d 1) 1).headD 0)))))
  ∧ (∀ (b : Fin 256) (s : State) (p : Nat) (d : Desc),
      Ready s b.val 2 p d (s.fillCauses p d) →
      opcode d = 0x54 →
      hOnBlock (s.handle p (opHandle (opnd d 0))) = false ∧ tierOf (hAddr (s.handle p (opHandle (opnd d 0))) 0) = 1 →
      (readRun s.mem (s.opAddrs p (opnd d 1) 1)).failed = none →
      ∃ t, exec (.fill b) s = .next t ∧ MoverTakes s t p b.val d (max 1 (ceilDiv (rowWords d * rowCount d) 32)) (.transfer (rowWords d * rowCount d))
        ∧ WritesWait s t b.val d ((s.moverAddrs p d 0).map (fun a => (a, (readRun s.mem (s.opAddrs p (opnd d 1) 1)).words.headD 0))))
  ∧ (∀ (b : Fin 256) (s : State) (p : Nat) (d : Desc),
      Ready s b.val 2 p d (s.fillCauses p d) →
      opcode d = 0x54 →
      hOnBlock (s.handle p (opHandle (opnd d 0))) = false ∧ 2 ≤ tierOf (hAddr (s.handle p (opHandle (opnd d 0))) 0) →
      (readRun s.mem (s.opAddrs p (opnd d 1) 1)).failed = none →
      ∃ t, exec (.fill b) s = .next t
        ∧ MoverTakes s t p b.val d (max 1 (ceilDiv (rowWords d * rowCount d) 32))
            (.vector ((s.moverAddrs p d 0).map (fun a => (a, (readRun s.mem (s.opAddrs p (opnd d 1) 1)).words.headD 0))) none))
  ∧ (∀ (b : Fin 256) (s : State) (p : Nat) (d : Desc),
      Ready s b.val 2 p d (s.streamCauses b.val p d) →
      opcode d = 0x51 →
      endTier (s.packHandle p d) = 1 →
      opOffset (opnd d 1) < hSize (s.packHandle p d) →
      ∃ t, exec (.wstream b) s = .next t ∧ MoverTakes s t p b.val d (4 + 4 * packCount d) (.stream { left := 128 * packCount d, asked := 1 })
        ∧ Waits t { stream := streamOf d, addr := hAddr (s.packHandle p d) (opOffset (opnd d 1)), count := 1, opBlock := b.val, opId := s.opCount + 1, present := s.now + 84,
                    key := keyOf d })
  ∧ (∀ (b : Fin 256) (s : State) (p : Nat) (d : Desc),
      Ready s b.val 2 p d (s.streamCauses b.val p d) →
      opcode d = 0x51 →
      endTier (s.packHandle p d) ≠ 1 →
      ∃ t, exec (.wstream b) s = .next t ∧ MoverTakes s t p b.val d (4 + 4 * packCount d) (.stream { left := 128 * packCount d }))
  ∧ (∀ (b : Fin 256) (s : State) (p : Nat) (d : Desc),
      Ready s b.val 2 p d (s.kindCauses p (opnd d 0) ++ s.kvCauses p d) →
      opcode d = 0x52 →
      ∃ t, exec (.gather b) s = .next t
        ∧ MoverTakes s t p b.val d (max 1 (ceilDiv (nslot d * gatherNG d * kvWords d) 32)) (.transfer (nslot d * gatherNG d * kvWords d))
        ∧ ∀ x, x < nslot d * gatherNG d * kvWords d / 4 →
            let u := x % (kvWords d / 4)
            let g := x / (kvWords d / 4) % gatherNG d
            let i := x / (kvWords d / 4) / gatherNG d
            let j := (g0na d + g) * s.groupPages p + pageK d
            let r := s.bound p (slot0 d + i)
            let a := r.bind (fun r => ((gatherDir r).find? j).bind (s.frameAddr p j))
            let to_ := hAddr (s.handle p (opHandle (opnd d 0))) (opOffset (opnd d 0)) + (i * gatherNG d + g) * kvWords d + 4 * u
            Waits t { stream := streamOf d, addr := (a.map (· + (woff d + 4 * u))).getD (s.emptyUnit p j (woff d + 4 * u)), count := 4,
                      dests := (addrs to_ 4).map (fun x => (x, 0)), opBlock := b.val, opId := s.opCount + 1,
                      present := s.now + 84 + x / 8, key := s.kvKey ((r.map Request.tenant).getD 0), backed := a.isSome })
  ∧ (∀ (b : Fin 256) (s : State) (p : Nat) (d : Desc),
      Ready s b.val 2 p d (s.kindCauses p (opnd d 1) ++ s.kvCauses p d) →
      opcode d = 0x53 →
      (readRun s.mem (s.opAddrs p (opnd d 1) (nslot d * scatterNA d * kvWords d))).failed = none →
      ∃ t, exec (.scatter b) s = .next t
        ∧ MoverTakes s t p b.val d (ceilDiv (nslot d * scatterNA d * kvWords d) 2) (.transfer (nslot d * scatterNA d * kvWords d))
        ∧ ∀ x, x < nslot d * scatterNA d * kvWords d / 4 →
            let ws := (readRun s.mem (s.opAddrs p (opnd d 1) (nslot d * scatterNA d * kvWords d))).words
            let u := x % (kvWords d / 4)
            let g := x / (kvWords d / 4) % scatterNA d
            let i := x / (kvWords d / 4) / scatterNA d
            let r := s.bound p (slot0 d + i)
            let q := (r.map (fun r => s.scatterBase p r + g)).getD g
            let j := q / max 1 (s.pageTokens p) * s.groupPages p + pageK d
            let a := r.bind (fun r => if g < s.adv p r then ((s.scatterDir p r).find? j).bind (s.frameAddr p j) else none)
            let at_ := q % max 1 (s.pageTokens p) * s.tokenWords p + woff d + 4 * u
            Waits t { stream := streamOf d, addr := (a.map (· + at_)).getD (s.emptyUnit p j at_), count := 4,
                      write := some ((ws.drop ((i * scatterNA d + g) * kvWords d + 4 * u)).take 4), opBlock := b.val, opId := s.opCount + 1,
                      present := s.now + 84 + 2 * x, key := s.kvKey ((r.map Request.tenant).getD 0), backed := a.isSome })
  ∧ (∀ (b : Fin 256) (s : State) (p j : Nat) (d : Desc),
      Ready s b.val 2 p d (s.sendCauses p d) →
      opcode d = 0x60 →
      s.jobOf p = some j →
      ∃ t, exec (.send b) s = .next t ∧ MoverTakes s t p b.val d (ceilDiv (sendWords d) 2) (.transfer (ceilDiv (sendWords d) 16))
        ∧ ∀ i, i < ceilDiv (sendWords d) 16 →
            let x := ({ type := 0x10, dst := sendDst d, src := s.endpoint, job := s.jobTag j, hops := s.hopsTo (s.boxOf j) (s.coordsOf (sendDst d)), rtag := sendFlow d,
                        handle := sendHandle d, woffset := (sendOffset d + 16 * i) % 2 ^ 32,
                        flags := (if i = 0 then 1 else 0) + (if i + 1 = ceilDiv (sendWords d) 16 then 2 else 0) + 4 * ((s.part p).stepCount % 2) } : Heading).packet
                ((((s.opAddrs p (opnd d 1) (sendWords d)).map s.readWord).drop (16 * i)).take 16)
            ∃ y ∈ t.buffer (bufKey 6 x.cls 0), y.pkt = x ∧ y.op = some (b.val, s.opCount + 1) ∧ y.tenant = none)

/-- In a running part, STREET_WORD_DELIVERY writes the first deliverable word of the equaliser, of which at most two are written in a cycle; LANDING_WRITE writes the first word of the
landing buffer whose bank no plan client claims and nothing else has used in this cycle; DECOMPRESS_BLOCK sends the raw words of the next block whose packed words have all come; HBM_UNIT_SLOT of a slot that has begun carries the next
unit of the slot's stream, fetches two descriptors where the slot's code is 0x20 and the prefetcher lacks any, or counts the slot as idle, and counts SERVICE_WAIT where a service unit waits; HBM_REFRESH_WINDOW
passes to the next frame, in which every bank is free. -/
def Obligations.MoverEventsRun : Prop :=
  (∀ (b : Fin 256) (s : State) (v : Delivery),
      s.live = true →
      (s.block b.val).eqWrites < 2 →
      firstDelivery ((s.block b.val).equaliser.filter (s.deliverable (s.ownerOf b.val))) none = some v →
      exec (.streetWordDelivery b) s = .next (
        let x := s.block b.val
        (s.setBlock b.val { x with equaliser := x.equaliser.erase v, eqWrites := x.eqWrites + 1,
                                   bankUse := x.bankUse.put (v.addr % 64) (x.bankUse.get 0 (v.addr % 64) + 1) }).writeDelivered v))
  ∧ (∀ (b : Fin 256) (s : State) (v : Delivery),
      s.live = true →
      (s.block b.val).landing.find? (fun v => (s.planUse b.val).get 0 (v.addr % 64) == 0 && !(s.block b.val).bankOther.contains (v.addr % 64)) = some v →
      exec (.landingWrite b) s = .next (
        let x := s.block b.val
        (s.setBlock b.val { x with landing := x.landing.erase v, bankOther := x.bankOther ++ [v.addr % 64] }).writeDelivered v))
  ∧ (∀ (b : Fin 256) (s : State) (o : Op) (st : StreamState) (ws : List Word),
      s.live = true →
      (s.block b.val).stream? = some (o, st) →
      st.asked ≠ 0 ∧ st.stage = 2 ∧ st.next < packCount o.desc →
      (addrs (packArea st.header + entryOffset (dirEntry st st.header (packFirst o.desc + st.next))) (entryLen (dirEntry st st.header (packFirst o.desc + st.next)))).all (fun i => (st.words.find? i).isSome) = true →
      expandBlock st (packFirst o.desc + st.next) = some ws →
      exec (.decompressBlock b) s = .next (
        let due := max s.now (st.lastRaw + 64) + 24
        let dst := hAddr (s.handle (s.ownerOf b.val) (opHandle (opnd o.desc 0))) (opOffset (opnd o.desc 0) + 128 * st.next)
        (s.setBlock b.val ((s.block b.val).putOp { o with work := .stream { st with next := st.next + 1, lastRaw := due } })).landWords false b.val o.id due ((addrs dst 128).zip ws)))
  ∧ (∀ (c : Fin 256) (s : State) (u : HbmUnit),
      s.live = true →
      (s.channel c.val).slotAt (s.channel c.val).served ≤ s.now ∧ (s.channel c.val).served % 256 < 240 →
      1 ≤ (s.channel c.val).code ((s.channel c.val).served % 256) ∧ (s.channel c.val).code ((s.channel c.val).served % 256) ≠ 0x20 →
      (s.channel c.val).nextUnit ((s.channel c.val).code ((s.channel c.val).served % 256) - 1) ((s.channel c.val).slotAt (s.channel c.val).served) = some u →
      (s.channel c.val).bankClear (s.channel c.val).served u.addr = true →
      exec (.hbmUnitSlot c) s = .next (
        let x := s.channel c.val
        let t := s.setChannel c.val { x with served := x.served + 1 }
        let t := if x.service.isEmpty then t else t.count (0x9200 + c.val) 0x05 1
        let y := (t.channel c.val).dropUnit u
        ((t.setChannel c.val { y with bankSlot := y.bankSlot.put (bankOf u.addr) x.served }).count (0x9200 + c.val) 0x01 1).carry c.val x.served u))
  ∧ (∀ (c : Fin 256) (s : State),
      s.live = true →
      (s.channel c.val).slotAt (s.channel c.val).served ≤ s.now ∧ (s.channel c.val).served % 256 < 240 →
      (s.channel c.val).code ((s.channel c.val).served % 256) = 0x20 →
      exec (.hbmUnitSlot c) s = .next (
        let x := s.channel c.val
        let t := s.setChannel c.val { x with served := x.served + 1 }
        let t := if x.service.isEmpty then t else t.count (0x9200 + c.val) 0x05 1
        let p := t.objNat (0x6100 + c.val) 0x01
        if t.prefetchWants p then (t.setPart p { t.part p with fetched := (t.part p).fetched + 2 }).count (0x9200 + c.val) 0x01 1 else t.count (0x9200 + c.val) 0x03 1))
  ∧ (∀ (c : Fin 256) (s : State),
      s.live = true →
      (s.channel c.val).slotAt (s.channel c.val).served ≤ s.now ∧ (s.channel c.val).served % 256 < 240 →
      (s.channel c.val).code ((s.channel c.val).served % 256) = 0 ∧ (s.channel c.val).service = [] →
      exec (.hbmUnitSlot c) s = .next ((s.setChannel c.val { s.channel c.val with served := (s.channel c.val).served + 1 }).count (0x9200 + c.val) 0x03 1))
  ∧ (∀ (c : Fin 256) (s : State),
      s.live = true →
      240 ≤ (s.channel c.val).served % 256 →
      (s.channel c.val).slotAt (256 * ((s.channel c.val).served / 256) + 240) ≤ s.now →
      exec (.hbmRefreshWindow c) s = .next (
        let x := s.channel c.val
        let t := if x.service.isEmpty then s else s.count (0x9200 + c.val) 0x05 16
        t.setChannel c.val { x with served := 256 * (x.served / 256 + 1), bankSlot := [] }))

/-- In a running part the oldest due operation of each kind completes: a matrix operation sets its bank's tag unless a later one wrote the bank; a vector operation writes its
words and completes, and one whose record was held completes once a place is free, the words of its last cycle taking their banks now; a mover operation with nothing left to move, a serving operation and a collective that is done complete and set their
tags; and the block's oldest summary record enters the queue of the partition's slot at its lead core, after those posted before it that are there, if 64 records do not wait there, with interrupt cause 16 where
none did. -/
def Obligations.OperationsComplete : Prop :=
  (∀ (b : Fin 256) (s : State) (o : Op) (l : List Op),
      s.dueOps b.val (fun o => o.queue == 0 && o.folded) = o :: l →
      exec (.matrixCompletion b) s = .next (
        let k := (s.block b.val).bank (bankBit o.desc)
        (if k.tag.writer = o.id then
           s.setBlock b.val ((s.block b.val).setBank (bankBit o.desc) { k with tag := k.tag.change true s.now (districtOf b.val) o.id }) else s).completeOp
          (s.ownerOf b.val) b.val o []))
  ∧ (∀ (b : Fin 256) (s : State) (o : Op) (l : List Op),
      s.dueOps b.val (fun o => o.queue == 1 && !o.heldRecord) = o :: l →
      exec (.vectorCompletion b) s = .next (s.finishVector b.val o)
        ∧ (o.record = none → s.finishVector b.val o = ((s.useBanks b.val ((o.vecWrites.map Prod.fst).drop (16 * (ceilDiv o.vecWrites.length 16 - 1)))).writeWords o.vecWrites).completeOp
            (s.ownerOf b.val) b.val o (dests o.desc)))
  ∧ (∀ (b : Fin 256) (s : State) (o : Op) (l : List Op) (r : Word) (x : Part),
      s.live = true →
      (s.block b.val).inflight.filter Op.heldRecord = o :: l →
      o.record = some r →
      (s.block b.val).summaries.length < 4 →
      (s.block b.val).inflight.any (fun y => y.heldRecord && decide (y.id < o.id)) = false →
      setFlagOf (s.part (s.ownerOf b.val)) s.now b.val o.queue o.desc = .ok x →
      exec (.summaryHoldRelease b) s = .next ((((s.useBanks b.val ((o.vecWrites.map Prod.fst).drop (16 * (ceilDiv o.vecWrites.length 16 - 1)))).writeWords o.vecWrites).completeOp
        (s.ownerOf b.val) b.val o (dests o.desc)).postSummary b.val r))
  ∧ (∀ (b : Fin 256) (s : State) (p n : Nat) (r : Word) (rest : List (Word × Nat)),
      s.live = true →
      s.partOf b.val = some p →
      (s.block b.val).summaries = (r, n) :: rest →
      s.recordThere b.val (s.part p).lead = true →
      (mapBlocks (s.part p).blockMap).any (fun c => (decide (s.postedAt c < s.postedAt b.val) || s.postedAt c == s.postedAt b.val && decide (c < b.val)) && s.recordThere c (s.part p).lead) = false →
      (s.part p).routine.mailbox.length < 64 →
      exec (.summaryDelivery b) s = .next (
        let t := (s.setBlock b.val { s.block b.val with summaries := rest }).setPart p { s.part p with routine :=
          { (s.part p).routine with mailbox := (s.part p).routine.mailbox ++ [r] } }
        if (s.part p).routine.mailbox = [] then t.raise (s.leadCore p) 16 else t))
  ∧ (∀ (b : Fin 256) (s : State) (o : Op) (l : List Op),
      s.dueOps b.val (fun o => o.moved && decide (opcode o.desc ≤ 0x60)) = o :: l →
      exec (.moverCompletion b) s = .next (s.completeOp (s.ownerOf b.val) b.val o (dests o.desc)))
  ∧ (∀ (p : Fin 64) (s : State) (b : Nat) (o : Op) (ws : List (Nat × Word)),
      s.live = true →
      s.dueServing p.val = some (b, o) →
      o.work = .serving ws →
      exec (.servingCompletion p) s = .next ((s.writeWords ws).completeOp p.val b o (dests o.desc)))
  ∧ (∀ (b : Fin 256) (s : State) (o : Op) (l : List Op),
      (s.part (s.ownerOf b.val)).stepState ≠ .fenced →
      s.dueOps b.val (fun o => (s.coll o.id).any (fun c => c.done && c.block == b.val)) = o :: l →
      exec (.collectiveCompletion b) s = .next (({ s with colls := s.colls.del o.id } : State).completeOp (s.ownerOf b.val) b.val o (dests o.desc)))

/-- Serving descriptor d has started, with w words to pass its partition's port and `ws` to write at its completion (R237). -/
def ServingTakes (s t : State) (p b : Nat) (d : Desc) (w : Nat) (ws : List (Nat × Word)) : Prop :=
  ((t.block b).queue 3).descs = ((s.block b).queue 3).descs.tail
    ∧ (t.block b).inflight = (s.block b).inflight
        ++ [s.newOp p b 3 d ((max (s.part p).lcycle (s.part p).servingFree - (s.part p).lcycle) + 160 + ceilDiv w 2 - 1) (.serving ws)]
    ∧ (t.part p).servingFree = max (s.part p).lcycle (s.part p).servingFree + ceilDiv w 2 ∧ ∀ a, t.readWord a = s.readWord a

/-- A BIND, a ROUTE or an EMIT, on a descriptor that no cause fails and whose words are read clean, runs: it has left its queue and is in flight, its partition's port is held for two words a
logical cycle from the later of now and the port's last use, and it completes 160 + ceil(w/2) - 1 cycles after that (R237); no word of memory has changed yet. A BIND SEEDREC writes one word for
each slot it covers: the seed record of the request bound there; SLOTINFO its slot word; INPUT its input words; an empty slot has zeros. A ROUTE writes the chosen experts of each row, and an EMIT holds the token
of each bound slot but those in prefill. -/
def Obligations.ServingDescriptorsRun : Prop :=
  (∀ (b : Fin 256) (s : State) (p : Nat) (d : Desc),
      Ready s b.val 3 p d (s.servingRef p (opnd d 0)) →
      opcode d = 0x70 ∧ variant d = 0 →
      ∃ t, exec (.bindSeedrec b) s = .next t
        ∧ ServingTakes s t p b.val d (nslot d) ((List.range (nslot d)).map (fun i =>
            (hAddr (s.handle p (opHandle (opnd d 0))) (opOffset (opnd d 0)) + i, match s.bound p (slot0 d + i) with
              | some r => BitVec.ofNat 256 (place 128 8 (modeOf d) ||| place 64 64 r.stepCtr.toNat ||| r.seed.toNat)
              | none => 0))))
  ∧ (∀ (b : Fin 256) (s : State) (p : Nat) (d : Desc),
      Ready s b.val 3 p d (s.servingRef p (opnd d 0)) →
      opcode d = 0x70 ∧ variant d = 1 →
      ∃ t, exec (.bindSlotinfo b) s = .next t
        ∧ ServingTakes s t p b.val d (nslot d) ((List.range (nslot d)).map (fun i =>
            (hAddr (s.handle p (opHandle (opnd d 0))) (opOffset (opnd d 0)) + i, match s.bound p (slot0 d + i) with
              | some r => BitVec.ofNat 256 (place 224 32 r.lastToken ||| place 204 20 r.tokens ||| place 184 20 r.prefill ||| place 164 20 (s.adv p r)
                  ||| place 128 8 r.tenant ||| place 1 1 r.gen ||| 1)
              | none => 0))))
  ∧ (∀ (b : Fin 256) (s : State) (p : Nat) (d : Desc),
      Ready s b.val 3 p d (s.servingRef p (opnd d 0)) →
      opcode d = 0x70 ∧ variant d = 2 →
      ∃ t, exec (.bindInput b) s = .next t
        ∧ (let ws := (List.range (nslot d)).flatMap (fun i => match s.bound p (slot0 d + i) with
              | some r => bytesWords (s.chunk p / 8) ((r.carried.take (s.adv p r)).flatMap (natBytes 4))
              | none => List.replicate (s.chunk p / 8) 0)
          ServingTakes s t p b.val d ws.length ((addrs (hAddr (s.handle p (opHandle (opnd d 0))) (opOffset (opnd d 0))) ws.length).zip ws)))
  ∧ (∀ (b : Fin 256) (s : State) (p : Nat) (d : Desc),
      Ready s b.val 3 p d (s.servingRef p (opnd d 0) ++ s.servingRef p (opnd d 1) ++ (if s.objNat (0x5400 + p) 0x01 < routeE d then [.bounds] else [])) →
      opcode d = 0x71 →
      (readRun s.mem (s.opAddrs p (opnd d 1) (ceilDiv (routeRows d * routeE d) 8))).failed = none →
      ∃ t, exec (.route b) s = .next t
        ∧ (let n := ceilDiv (routeRows d * routeE d) 8
          let m := ceilDiv (routeRows d * routeK d) 4
          let v := tokensOf (8 * n) (wordsBytes (readRun s.mem (s.opAddrs p (opnd d 1) n)).words)
          let out := (List.range (routeRows d)).flatMap (fun i =>
            (s.routeRow p (routeK d) (s.bound p (slot0 d + i / routeRps d)) ((v.drop (i * routeE d)).take (routeE d))).flatMap
              (fun c => natBytes 4 c.1 ++ natBytes 4 c.2))
          ServingTakes s t p b.val d (n + m) ((addrs (hAddr (s.handle p (opHandle (opnd d 0))) (opOffset (opnd d 0))) m).zip (bytesWords m out))))
  ∧ (∀ (b : Fin 256) (s : State) (p : Nat) (d : Desc),
      Ready s b.val 3 p d (s.servingRef p (opnd d 1)) →
      opcode d = 0x74 →
      (readRun s.mem (s.opAddrs p (opnd d 1) (ceilDiv (nslot d) 4))).failed = none →
      ∃ t, exec (.emit b) s = .next t ∧ ServingTakes s t p b.val d (ceilDiv (nslot d) 4) []
        ∧ (t.part p).emitted = (s.part p).emitted ++ (List.range (nslot d)).filterMap (fun i => match s.bound p (slot0 d + i) with
            | none => none
            | some q => if q.state = .admitted ∧ s.adv p q < q.prefill then none
                else some (slot0 d + i, leAt (wordsBytes (readRun s.mem (s.opAddrs p (opnd d 1) (ceilDiv (nslot d) 4))).words) (8 * i) 4)))

/-- The collective commands, with their operations (R351 to R353). -/
def collRows : List ((Fin 256 → Instr) × Nat) := [(.csum, 0), (.cmax, 1), (.cmin, 2)]

/-- A packet of the up-wave of collective c to the next position in dimension k of the box of job slot j waits in the local units' buffer for port 2k (R352). -/
def UpWave (s t : State) (c : Coll) (j k : Nat) (header : Bool) (ws : List Word) : Prop :=
  ∃ y ∈ t.buffer (bufKey 6 0 0), y.out = some (2 * k)
    ∧ y.pkt = ({ type := 0x11, dst := (s.endpointAt (s.atPos (s.boxOf j) (shift (s.pos (s.boxOf j)) k true))).getD 0xFFFF, src := s.endpoint, job := c.job,
                 rtag := c.flow + 2 * k, handle := c.seq, flags := (if header then 8 else 0) + 16 * c.op } : Heading).packet (asPayload ws)

/-- Collective d of block b has started in job slot j, whose first dimension is k, with header h, elements l and an operand of w words (R351 to R353). -/
def CollStarts (s t : State) (p b op j k : Nat) (d : Desc) (h : Word) (l : List Nat) (w : Nat) : Prop :=
  let c : Coll := { part := p, block := b, job := s.jobTag j, op := op, seq := collSeq d, flow := collFlow d, count := vecCount d,
                    dst := hAddr (s.handle p (opHandle (opnd d 0))) (opOffset (opnd d 0)),
                    dims := (List.range 3).filter (fun i => collDims d / 2 ^ i % 2 == 1), header := h, elems := l }
  let f := (collFormat h).getD 0
  let n := perPacket (op == 0) f
  MoverTakes s t p b d (ceilDiv w 2) .collective
    ∧ t.coll (s.opCount + 1) = some { c with upDone := decide (s.pos (s.boxOf j) k = 0) }
    ∧ (s.pos (s.boxOf j) k = 0 → UpWave s t c j k true [h] ∧ ∀ x ∈ chunks n (ceilDiv l.length n) l, UpWave s t c j k false (packPacket (op == 0) f x))

/-- A collective of FP32 elements, or of a wide partial whose words are read clean and whose header has the descriptor's count, of a partition bound by an open job whose box has more than one
part in the first of the collective's dimensions, runs: it has left its queue and is in flight, the mover is held for half its words, and no word of memory has changed. The engine holds its header and elements; at position 0 of
the first dimension the up-wave has been sent to the next position, header first and then the elements packet by packet, and elsewhere it is waited for. A BARRIER joins the descriptor barrier numbered by the
BARRIERs of the step so far, and is in flight until that is released, or for one cycle where its partition is bound by no job. -/
def Obligations.CollectivesStart : Prop :=
  (∀ (r : (Fin 256 → Instr) × Nat) (b : Fin 256) (s : State) (p j k : Nat) (d : Desc),
      r ∈ collRows →
      Ready s b.val 2 p d [] →
      opcode d = 0x61 + r.2 ∧ formatOf d = 0x0A →
      s.jobOf p = some j ∧ s.openSlot (s.jobTag j) = some j →
      ((List.range 3).filter (fun i => collDims d / 2 ^ i % 2 == 1)).head? = some k ∧ 1 < (s.boxOf j).extent k →
      (readRun s.mem (s.opAddrs p (opnd d 1) (ceilDiv (vecCount d) 8))).failed = none →
      ∃ t, exec (r.1 b) s = .next t
        ∧ CollStarts s t p b.val r.2 j k d (collHeader 10 0 (vecCount d) 0)
            ((List.range (vecCount d)).map (fun i => leAt (wordsBytes (readRun s.mem (s.opAddrs p (opnd d 1) (ceilDiv (vecCount d) 8))).words) (4 * i) 4))
            (ceilDiv (vecCount d) 8))
  ∧ (∀ (r : (Fin 256 → Instr) × Nat) (b : Fin 256) (s : State) (p j k : Nat) (d : Desc) (wp64 : Bool),
      r ∈ collRows →
      Ready s b.val 2 p d [] →
      opcode d = 0x61 + r.2 ∧ formatOf d ≠ 0x0A →
      s.jobOf p = some j ∧ s.openSlot (s.jobTag j) = some j →
      ((List.range 3).filter (fun i => collDims d / 2 ^ i % 2 == 1)).head? = some k ∧ 1 < (s.boxOf j).extent k →
      (readRun s.mem (s.opAddrs p (opnd d 1) 1)).failed = none →
      headerFormat ((readRun s.mem (s.opAddrs p (opnd d 1) 1)).words.headD 0) = some wp64 →
      headerCount ((readRun s.mem (s.opAddrs p (opnd d 1) 1)).words.headD 0) = vecCount d →
      opOffset (opnd d 0) + wideWords wp64 (vecCount d) ≤ hSize (s.handle p (opHandle (opnd d 0))) ∧ opOffset (opnd d 1) + wideWords wp64 (vecCount d) ≤ hSize (s.handle p (opHandle (opnd d 1))) →
      (readRun s.mem (s.opAddrs p (opnd d 1) (wideWords wp64 (vecCount d))).tail).failed = none →
      ∃ t, exec (r.1 b) s = .next t
        ∧ (let h := (readRun s.mem (s.opAddrs p (opnd d 1) 1)).words.headD 0
          let y := (readRun s.mem (s.opAddrs p (opnd d 1) (wideWords wp64 (vecCount d))).tail).words
          CollStarts s t p b.val r.2 j k d (withFlags h (headFlags h))
            ((List.range (vecCount d)).map (fun i => leAt (wordsBytes y) (wideBits wp64 / 8 * i) (wideBits wp64 / 8))) (wideWords wp64 (vecCount d))))
  ∧ (∀ (b : Fin 256) (s : State) (p : Nat) (d : Desc),
      Ready s b.val 2 p d [] →
      opcode d = 0x68 →
      ∃ t, exec (.barrier b) s = .next t ∧ ((t.block b.val).queue 2).descs = ((s.block b.val).queue 2).descs.tail
        ∧ (t.block b.val).inflight = (s.block b.val).inflight ++ [s.newOp p b.val 2 d 1 (if (s.jobOf p).isSome then .barrier (s.part p).barriers else .plain)]
        ∧ (t.block b.val).moverFree = s.cyclesOf b.val + 1 ∧ (t.part p).barriers = (s.part p).barriers + 1 ∧ (∀ a, t.readWord a = s.readWord a)
        ∧ ∀ j, s.jobOf p = some j → ((t.job j).barrier 1 (s.part p).barriers).joined = true ∧ ((t.job j).barrier 1 (s.part p).barriers).joinedAt = s.town)

/-- The step of a partition is fenced, with a cause (R124). -/
def Fenced (t : State) (p : Nat) (c : Status) : Prop := (t.part p).stepState = .fenced ∧ (t.part p).failure.any (fun f => f.cause == c) = true

/-- A head in its check that is in the store, intact and well formed, with every flag and tag it waits on visible, passes; a prefetch brings one more of the descriptors that a slot of code 0x20 has read, up to
256 ahead; a freeze all of whose causes are resolved and whose further cycle has passed ends, and its length is entered in the greatest so far; a run of the detector, one in each 4,096 cycles of the lead district, on a
frozen partition with a held head that waits on a dead flag, fails the step with GRIDLOCK, with the report written; and a freeze longer than CHOICE_LIMIT on an unresolved segment wait, or on another wait, fails it with SEGMENT
or FAULT: the step is then FENCED with that cause. -/
def Obligations.DispatchEventsRun : Prop :=
  (∀ (b : Fin 256) (queue : Fin 4) (s : State) (p : Nat) (d : Desc),
      s.partOf b.val = some p →
      s.issuing p = true →
      s.checkDue p b.val queue.val = some d →
      ((s.block b.val).queue queue.val).delivered ≠ 0 →
      s.flawFails (flawQueue b.val queue.val) = none ∧ s.handleFails p d = none →
      descCrcOk d = true ∧ wellDecoded (s.pageTokens p) (s.groupPages p) queue.val d = true →
      s.flagsSeen p d (districtOf b.val) = true ∧ s.readyTags p b.val d = true →
      exec (.issueCheck b queue) s = .next (s.setBlock b.val ((s.block b.val).setQueue queue.val { (s.block b.val).queue queue.val with checked := true })))
  ∧ (∀ (p : Fin 64) (s : State) (z : PartFreeze),
      s.live = true →
      (s.part p.val).freeze = some z →
      z.done = true ∧ z.holds.all (s.resolved p.val) = true →
      exec (.freezeResume p) s = .next (
        let t := z.holds.foldl (fun (s : State) (h : Hold) => s.passHeld p.val h) (s.setPart p.val { s.part p.val with freeze := none })
        t.setCounter (0x9100 + p.val) 0x11 (max (t.counter (0x9100 + p.val) 0x11) z.length)))
  ∧ (∀ (b : Fin 256) (queue : Fin 4) (s : State),
      s.live = true →
      ((s.block b.val).queue queue.val).delivered < min 256 ((s.block b.val).queue queue.val).descs.length →
      0 < (s.part (s.ownerOf b.val)).fetched →
      s.flawFails (flawPlan (s.ownerOf b.val)) = none →
      exec (.descriptorPrefetch b queue) s = .next (
        let p := s.ownerOf b.val
        (s.setBlock b.val ((s.block b.val).setQueue queue.val { (s.block b.val).queue queue.val with delivered := ((s.block b.val).queue queue.val).delivered + 1 })).setPart p
          { s.part p with fetched := (s.part p).fetched - 1 }))
  ∧ (∀ (p : Fin 64) (s : State) (z : PartFreeze) (b q : Nat) (d : Desc),
      s.live = true →
      (s.part p.val).detected < s.leadCycles p.val / 4096 →
      (s.part p.val).stepState = .running ∧ (s.part p.val).freeze = some z →
      (s.part p.val).heldHeads.findSome? (fun (b, q) => (s.head b q).bind (fun d => ((waits d).filter (s.dead p.val)).head?.map (fun _ => (b, q, d)))) = some (b, q, d) →
      ∃ t, exec (.gridlockDetectorRun p) s = .next t ∧ Fenced t p.val .gridlock ∧ (t.part p.val).detected = s.leadCycles p.val / 4096
        ∧ t.obj (0x4000 + p.val) 0x10 = (
          let x := s.part p.val
          let f := (s.deadFlag p.val d).getD 0xFFF
          let c := s.chain p.val 1024 [⟨stamp d, b, q, f⟩] f
          gridlockReport x.stepNo s.town z.lcycle ((s.district x.lead).cycles - z.since) c.2 c.1))
  ∧ (∀ (p : Fin 64) (s : State) (z : PartFreeze),
      s.live = true →
      (s.part p.val).freeze = some z →
      (s.part p.val).stepState = .running ∧ s.objNat (0x4000 + p.val) 0x1A < z.waitLen →
      ∃ t, exec (.choiceLimitExpiry p) s = .next t
        ∧ Fenced t p.val (if z.holds.any (fun h => h.cause == .segment && !s.resolved p.val h) then .segment else .fault))

/-- At Z a running segment whose successor is known ends, and its successor is entered at Z + 64; a step at Z of an END segment with nothing in flight and empty queues is DONE, with
interrupt cause 17; and the serving unit then applies its held changes, slot by slot, and answers its ticket. -/
def Obligations.SegmentsRun : Prop :=
  (∀ (p : Fin 64) (s : State) (g : Segment),
      s.live = true →
      (s.part p.val).seg = some g →
      (s.part p.val).stepState = .running ∧ (s.part p.val).ended = false ∧ g.z ≤ (s.part p.val).lcycle →
      (g.next = 2 → (s.part p.val).choice.isSome = true) →
      exec (.segmentEnd p) s = .next (s.setPart p.val { s.part p.val with ended := true }))
  ∧ (∀ (p : Fin 64) (s : State) (g : Segment) (n : Nat),
      s.live = true →
      (s.part p.val).seg = some g →
      (s.part p.val).successor g = some n →
      (s.part p.val).stepState = .running ∧ (s.part p.val).ended = true ∧ (s.part p.val).frozen = false ∧ g.z + 64 ≤ (s.part p.val).lcycle →
      ∃ t, exec (.segmentEntry p) s = .next t ∧ (t.part p.val).segment = n ∧ (t.part p.val).ended = false ∧ (t.part p.val).choice = none
        ∧ (t.part p.val).path = (s.part p.val).path ++ [n]
        ∧ ∀ h i b, (t.part p.val).seg = some h → (mapBlocks (s.part p.val).blockMap)[i]? = some b → (t.block b).queues = segmentQueues h i)
  ∧ (∀ (p : Fin 64) (s : State) (g : Segment),
      s.live = true →
      (s.part p.val).seg = some g →
      (s.part p.val).stepState = .running ∧ (s.part p.val).ended = true ∧ g.next = 0 ∧ (s.part p.val).frozen = false →
      (s.opsOf p.val).isEmpty = true ∧ s.queuesEmpty p.val = true →
      exec (.stepEnd p) s = .next ((s.setPart p.val { s.part p.val with stepState := .done, stepDone := true, doneDesc := (s.part p.val).running }).raise (s.leadCore p.val) 17))
  ∧ (∀ (p : Fin 64) (s : State) (k : Ticket),
      s.live = true →
      (s.part p.val).stepDone = true ∧ (s.part p.val).doneDesc = some k →
      s.parts.any (fun e => decide (e.1 < p.val) && e.2.stepDone) = false →
      ∃ t, exec (.servingDone p) s = .next t ∧ (t.part p.val).stepDone = false ∧ (t.part p.val).running = none ∧ (t.part p.val).lastTicket = some k
        ∧ (t.part p.val).binding = [] ∧ (t.part p.val).committed = [] ∧ (t.part p.val).emitted = []
        ∧ (t.part p.val).stepState = (if (t.part p.val).nextTicket.isSome then .waiting else .idle))

/-- The step of ticket k has started on a WAITING partition (R130). -/
def StepStarts (s t : State) (p : Nat) (k : Ticket) : Prop :=
  (t.part p).stepState = .running ∧ (t.part p).running = some k ∧ (t.part p).lcycle = 0 ∧ (t.part p).stepCount = ((s.part p).stepCount + 1) % 2 ^ 32
    ∧ (t.part p).segment = field k.desc 32 16 ∧ (t.part p).segsIn = 1 ∧ (t.part p).flags = [] ∧ (t.part p).failure = none ∧ (t.part p).joined = false

/-- A WAITING partition that may join, and is in time, joins the barrier of its step; one that agrees with no other part starts its step once it has joined, and the first instance of
a job whose T_rel has come is released: a step barrier starts the step, with its segment entered and interrupt cause 17 raised, and a descriptor barrier completes its descriptors. A JOIN is recorded, and answered by the release where its instance is released; a release of an instance joined sets T_rel and goes on to the
children. A JOIN without a release is sent again every 10 µs, and one without a release for BARRIER_TIMEOUT fails the step, or originates the notice where the partition waits. -/
def Obligations.BarriersRun : Prop :=
  (∀ (p : Fin 64) (s : State),
      s.mayJoin p.val = true →
      s.agrees p.val = none →
      exec (.stepBarrierJoin p) s = .next (s.setPart p.val { s.part p.val with joined := true, timeHeld := false }))
  ∧ (∀ (p : Fin 64) (s : State) (j : Nat),
      s.mayJoin p.val = true →
      s.agrees p.val = some j →
      s.inTime = true →
      exec (.stepBarrierJoin p) s = .next ((s.setPart p.val { s.part p.val with joined := true, timeHeld := false }).joinBarrier j 0 (s.part p.val).stepCount)
        ∧ ∀ t, exec (.stepBarrierJoin p) s = .next t → (t.part p.val).joined = true ∧ ((t.job j).barrier 0 (s.part p.val).stepCount).joined = true
            ∧ ((t.job j).barrier 0 (s.part p.val).stepCount).joinedAt = s.town)
  ∧ (∀ (p : Fin 64) (s : State) (k : Ticket),
      s.live = true →
      (s.part p.val).stepState = .waiting ∧ (s.part p.val).joined = true →
      s.agrees p.val = none →
      (s.part p.val).nextTicket = some k →
      exec (.barrierRelease p) s = .next (s.startStep p.val)
        ∧ StepStarts s (s.startStep p.val) p.val k)
  ∧ (∀ (p : Fin 64) (s : State) (j : Nat) (v : Barrier) (k : Ticket),
      s.live = true →
      s.agrees p.val ≠ none →
      s.jobOf p.val = some j →
      (s.job j).barriers.find? (fun y => y.due s.town) = some v →
      v.kind = 0 ∧ (s.part p.val).stepState = .waiting ∧ (s.part p.val).joined = true →
      (s.part p.val).nextTicket = some k →
      ∃ t, exec (.barrierRelease p) s = .next t ∧ StepStarts s t p.val k
        ∧ (t.job j).barriers = ((s.setBarrier j { v with released := true }).job j).barriers.filter (fun z => z.kind == 0 && (z.seq == v.seq || precedes 32 v.seq z.seq)))
  ∧ (∀ (p : Fin 64) (s : State) (j : Nat) (v : Barrier),
      s.live = true →
      s.agrees p.val ≠ none →
      s.jobOf p.val = some j →
      (s.job j).barriers.find? (fun y => y.due s.town) = some v →
      v.kind = 1 →
      exec (.barrierRelease p) s = .next ((s.opsOf p.val).foldl (fun (s : State) (e : Nat × Op) => if e.2.work = .barrier v.seq then s.completeOp p.val e.1 e.2 [] else s)
        (s.setBarrier j { v with released := true })))
  ∧ (∀ (s t : State) (n j : Nat) (k : Packet),
      s.takeType 0x28 = some (n, k, t) →
      t.openSlot k.job = some j →
      exec .barrierJoin s = .next (
        let v := (t.job j).barrier (k.flags % 2) k.woffset
        if v.released then (if (t.part (t.jobPart j)).episode.since.isNone then t.sendRelease j [k.src] v else t)
        else (t.setBarrier j { v with children := if v.children.contains k.src then v.children else v.children ++ [k.src] }).joinOn j (k.flags % 2) k.woffset))
  ∧ (∀ (s t : State) (n j : Nat) (k : Packet) (w : Word),
      s.takeType 0x29 = some (n, k, t) →
      t.openSlot k.job = some j ∧ k.goodWord 0 = some w →
      ((t.job j).barrier (k.flags % 2) k.woffset).joined = true ∧ ((t.job j).barrier (k.flags % 2) k.woffset).release = none ∧ (t.part (t.jobPart j)).episode.since = none →
      exec .barrierReleasePacket s = .next (
        let v := { (t.job j).barrier (k.flags % 2) k.woffset with release := some (field w 0 64) }
        let u := if field w 0 64 < t.town then t.count 0x9800 0x0A 1 else t
        (u.setBarrier j v).sendRelease j (u.childrenOf (u.boxOf j)) v))
  ∧ (∀ (p : Fin 64) (s : State) (j : Nat) (v : Barrier),
      s.live = true →
      s.jobOf p.val = some j →
      (s.job j).barriers.find? (fun v => v.release.isNone && v.sentAt.any (fun t => decide (t + 10 * Config.ticksPerUs ≤ s.town))) = some v →
      exec (.joinRepeat p) s = .next ((s.setBarrier j { v with sentAt := some s.town }).sendJoin j v))
  ∧ (∀ (p : Fin 64) (s : State) (j : Nat) (v : Barrier),
      s.live = true →
      s.jobOf p.val = some j →
      (s.job j).barriers.find? (fun v => v.joined && v.release.isNone && !v.failed && decide (v.joinedAt + s.objNat (0x7200 + j) 0x09 * Config.ticksPerUs ≤ s.town)) = some v →
      exec (.barrierTimeout p) s = .next (
        let t := s.setBarrier j { v with failed := true }
        if (t.part p.val).stepState = .running then t.failStep p.val .fault 6 else t.originate p.val 6 Status.fault.code 0xFF false)
        ∧ ((s.part p.val).stepState = .running → ∀ t, exec (.barrierTimeout p) s = .next t → Fenced t p.val .fault))

/-- The commands that write RING_CTRL. -/
def ringWrites : List (FnId → BitVec 64 → Instr) := [.ringReset, .ringEnable, .irqArm]

/-- A write of INTAKE_TAIL sets TAIL, and one of more than the entry count ahead of HEAD halts the ring with OVERRUN; a write of COMPL_HEAD sets it. A write of RING_CTRL sets ENABLE and IRQ_ARM
to its bits 0 and 2; with RESET it moves HEAD to TAIL and clears HALTED and OVERRUN, at once, or where an entry is being processed once that is done; without, it does neither. -/
def Obligations.RingsTakeWrites : Prop :=
  (∀ (f : FnId) (v : BitVec 64) (s : State), ∃ t, exec (.intakeTail f v) s = .next t ∧ (t.fn f).tail = v.toNat % 2 ^ 32 ∧ (t.fn f).head = (s.fn f).head
      ∧ (t.fn f).halted = ((s.fn f).halted || decide (2 ^ (s.fn f).intakeCfg < (v.toNat % 2 ^ 32 + 2 ^ 32 - (s.fn f).head) % 2 ^ 32))
      ∧ (t.fn f).overrun = ((s.fn f).overrun || decide (2 ^ (s.fn f).intakeCfg < (v.toNat % 2 ^ 32 + 2 ^ 32 - (s.fn f).head) % 2 ^ 32))
      ∧ t = { s with fns := t.fns })
  ∧ (∀ (f : FnId) (v : BitVec 64) (s : State), exec (.complHead f v) s = .next (s.setFn f { s.fn f with complHead := v.toNat % 2 ^ 32 }))
  ∧ (∀ c ∈ ringWrites, ∀ (f : FnId) (v : BitVec 64) (s : State), ∃ t, exec (c f v) s = .next t ∧ t = { s with fns := t.fns }
      ∧ (t.fn f).enable = v.getLsbD 0 ∧ (t.fn f).irqArm = v.getLsbD 2 ∧ (t.fn f).tail = (s.fn f).tail
      ∧ (v.getLsbD 1 = true → (s.fn f).current = none → (t.fn f).head = (s.fn f).tail ∧ (t.fn f).halted = false ∧ (t.fn f).overrun = false)
      ∧ (v.getLsbD 1 = true → (s.fn f).current ≠ none → (t.fn f).resetDue = true ∧ (t.fn f).head = (s.fn f).head)
      ∧ (v.getLsbD 1 = false → (t.fn f).head = (s.fn f).head ∧ (t.fn f).halted = (s.fn f).halted ∧ (t.fn f).resetDue = (s.fn f).resetDue))

/-- An entry is fetched from an enabled ring that holds one, with a completion slot to reserve and no record waiting, over a port that carries it, or from a core's intake; one that passes its first
checks then stands to be processed. A STEP ticket that no check refuses is accepted by its partition and answered later. The oldest record that waits for a ring is written once the port carries it and
a slot is there. -/
def Obligations.IntakeRuns : Prop :=
  (∀ (f : FnId) (entry : Desc) (s : State),
      s.live = true →
      (s.fn f).enable = true ∧ (s.fn f).halted = false ∧ (s.fn f).current = none ∧ (s.fn f).head ≠ (s.fn f).tail →
      (s.fn f).hasRoom = true ∧ (s.fn f).queued = [] ∧ s.portFast f.port.val = true →
      descCrcOk entry = true ∧ hostFieldsOk entry = true →
      exec (.intakeFetch (.ring f) entry) s = .next (s.setFn f { s.fn f with current := some entry, reserved := (s.fn f).reserved + 1 }))
  ∧ (∀ (k : Fin 20) (entry e : Desc) (j : Option Nat) (l : List (Option Nat × Desc)) (s : State),
      s.live = true →
      (s.core k.val).current = none ∧ (s.core k.val).intake = (j, e) :: l →
      descCrcOk e = true ∧ hostFieldsOk e = true →
      exec (.intakeFetch (.core k) entry) s = .next (s.setCore k.val { s.core k.val with current := some (j, e), intake := l }))
  ∧ (∀ (src : Src) (d : Desc) (s : State),
      s.live = true →
      s.current src = some d →
      dKind d = 1 ∧ descCrcOk d = true ∧ hostFieldsOk d = true →
      dPart d < 64 ∧ (s.part (dPart d)).tickets.length < 4 →
      s.ticketCause (s.judge src) d = none →
      exec (.step src) s = .next ((s.acceptTicket (dPart d) { desc := d, src := src, dropped := s.dropped src, slot := field d 56 8 }).retire src)
        ∧ ∀ t, exec (.step src) s = .next t → t.current src = none
            ∧ (t.part (dPart d)).tickets = (s.part (dPart d)).tickets ++ [{ desc := d, src := src, dropped := s.dropped src, slot := field d 56 8 }]
            ∧ (t.part (dPart d)).lastStep = BitVec.ofNat 64 (dStepNo d)
            ∧ (t.part (dPart d)).stepState = (if (s.part (dPart d)).stepState = .idle then .waiting else (s.part (dPart d)).stepState))
  ∧ (∀ (f : FnId) (s : State) (reserved : Bool) (l : List Byte) (rest : List (Bool × List Byte)),
      s.live = true →
      s.portFast f.port.val = true →
      (s.fn f).queued = (reserved, l) :: rest →
      reserved = true ∨ (s.fn f).hasRoom = true →
      exec (.queuedCompletionWrite f) s = .next ((s.setFn f { s.fn f with queued := rest, reserved := (s.fn f).reserved - (if reserved then 1 else 0) }).writeRecord f l))

/-- A LOAD_PLAN whose image passes every check is in its slot, and answered; an UNLOAD_PLAN marks its plan, which goes once no step names it; LOAD_HANDLES and PATCH whose entries pass
take them: at once where the partition is IDLE and they are of no generation, else at its next boundary. -/
def Obligations.LoaderRuns : Prop :=
  (∀ (src : Src) (image : List Byte) (d : Desc) (s : State),
      s.entryOf src 2 = some d →
      dLength d ≤ image.length ∧ s.portFast (srcPort src) = true →
      s.mayRun (s.judge src) (dPart d) = true ∧ (s.part (dPart d)).plans.find? (dSlot d) = none →
      s.imageCause (dPart d) (image.take (dLength d)) = none →
      ∃ t, exec (.loadPlan src image) s = .next t
        ∧ t = (((((s.setPart (dPart d) { s.part (dPart d) with plans := (s.part (dPart d)).plans.put (dSlot d) ((s.part (dPart d)).planOf (image.take (dLength d))) }).wipe
            [flawPlan (dPart d)]).assignSlots (dPart d)).measureIdle (dPart d)).close src .ok)
        ∧ (t.part (dPart d)).plans.find? (dSlot d) = some ((s.part (dPart d)).planOf (image.take (dLength d))))
  ∧ (∀ (src : Src) (d : Desc) (pl : Plan) (s : State),
      s.entryOf src 3 = some d →
      s.mayRun (s.judge src) (dPart d) = true →
      (s.part (dPart d)).plans.find? (dSlot d) = some pl ∧ pl.unloading = false →
      ∃ t, exec (.unloadPlan src) s = .next t
        ∧ t = (((s.setPart (dPart d) ({ s.part (dPart d) with plans := (s.part (dPart d)).plans.put (dSlot d) { pl with unloading := true } } : Part).dropUnloaded).measureIdle (dPart d)).close src .ok)
        ∧ (let x := s.part (dPart d)
          (t.part (dPart d)).plans = (x.plans.put (dSlot d) { pl with unloading := true }).filter (fun e =>
            !(e.2.unloading && !(x.tickets ++ x.kerbTicket.toList ++ x.running.toList ++ x.replay.toList).any (fun k => k.slot == e.1)))))
  ∧ (∀ (src : Src) (es : List (BitVec 128)) (d : Desc) (s : State),
      s.entryOf src 4 = some d →
      field d 304 16 + 1 ≤ es.length ∧ s.portFast (srcPort src) = true →
      s.mayLoad (s.judge src) (dPart d) = true →
      ¬(s.genFirst (dPart d) ≤ field d 320 16 + field d 304 16 ∧ field d 320 16 < s.genFirst (dPart d)) →
      s.entriesCause (s.judge src) (dPart d) (field d 288 8) (field d 320 16) (es.take (field d 304 16 + 1)) = none →
      exec (.loadHandles src es) s = .next ((s.acceptEntries (dPart d) (field d 288 8) (field d 320 16) (es.take (field d 304 16 + 1))).close src .ok)
        ∧ ((s.part (dPart d)).stepState ≠ .idle → ∀ t, exec (.loadHandles src es) s = .next t →
            (t.part (dPart d)).handles = (s.part (dPart d)).handles ∧ (s.part (dPart d)).newHandles <+: (t.part (dPart d)).newHandles))
  ∧ (∀ (src : Src) (d : Desc) (s : State),
      s.entryOf src 5 = some d →
      s.mayLoad (s.judge src) (dPart d) = true →
      s.entriesCause (s.judge src) (dPart d) (field d 288 8) (field d 320 16) [BitVec.ofNat 128 (field d 368 128)] = none →
      exec (.patch src) s = .next ((s.acceptEntries (dPart d) (field d 288 8) (field d 320 16) [BitVec.ofNat 128 (field d 368 128)]).close src .ok)
        ∧ ((s.part (dPart d)).stepState ≠ .idle → ∀ t, exec (.patch src) s = .next t →
            (t.part (dPart d)).handles = (s.part (dPart d)).handles ∧ (s.part (dPart d)).newHandles <+: (t.part (dPart d)).newHandles))

/-- A DMA_IN that may run, and that no cause refuses, writes its words, decrypted from the wire, to its destination, and a DMA_OUT whose words are read clean sends them to the host; each is charged, and its
completion then carries the bytes moved. -/
def Obligations.DmaRuns : Prop :=
  (∀ (src : Src) (data : List Word) (d : Desc) (k : Nat) (s : State),
      s.entryOf src 6 = some d →
      dLength d / 32 ≤ data.length →
      s.dmaReady src d = true →
      s.dmaCause src d = none ∧ s.dmaTenant d = some k →
      s.tierUp (dDpa d / 32) = true →
      ∃ t, exec (.dmaIn src data) s = .next t
        ∧ t = (let ws := ((dmaAddrs d).zip (data.take (dLength d / 32))).map (fun (a, w) => (a, s.hostWord k false a w))
          ((if dTier d = 0 then s.writeWords ws else s.writeTier (dKey d) ws).chargeDma src d (dLength d / 32)).setMoved src (dLength d, .ok))
        ∧ t.movedOf src = some (dLength d, .ok))
  ∧ (∀ (src : Src) (d : Desc) (k : Nat) (s : State),
      s.entryOf src 7 = some d →
      s.dmaReady src d = true →
      s.dmaCause src d = none ∧ s.dmaTenant d = some k →
      s.tierUp (dDpa d / 32) = true →
      (if dTier d = 0 then readRun s.mem (dmaAddrs d) else s.readTier (dKey d) (dmaAddrs d)).failed = none →
      ∃ t, exec (.dmaOut src) s = .next t
        ∧ t = (let run := if dTier d = 0 then readRun s.mem (dmaAddrs d) else s.readTier (dKey d) (dmaAddrs d)
          let u := if dTier d = 0 then s.mended0 run.mended else s.mendedTier run.mended
          let out := List.zipWith (fun a w => u.hostWord k true a w) (dmaAddrs d) run.words
          ((u.chargeDma src d out.length).emit (.hostWrite (dAddr d) out)).setMoved src (dLength d, .ok))
        ∧ t.movedOf src = some (dLength d, .ok))
  ∧ (∀ (src : Src) (n : Nat) (c : Status) (s : State),
      s.live = true →
      s.movedOf src = some (n, c) →
      exec (.dmaCompletion src) s = .next (s.close src c n))

/-- The entry d of a source is a REQUEST of an operation that no check refuses. -/
abbrev Requested (s : State) (src : Src) (op : Nat) (d : Desc) : Prop :=
  s.live = true ∧ s.current src = some d ∧ dKind d = 0x10 ∧ rqOp d = op ∧ s.requestCause (s.judge src) d = none

/-- A REQUEST descriptor that no check refuses has its effect, and is answered OK: ADMIT enters the request in the lowest free resident entry, or where there is none in the lowest free parked one, with the fields of
the descriptor and the generation that admits; APPEND begins a new turn, of a KERBED request with its recall; PAUSE pauses the request, or waits while a step binds it; CANCEL ends it. -/
def Obligations.RequestDescriptorsRun : Prop :=
  (∀ (src : Src) (d : Desc) (n : Nat) (s : State),
      Requested s src 1 d →
      s.freeResident = some n ∨ (s.freeResident = none ∧ s.freeParked = some n) →
      ∃ (u : State) (root : BitVec 56) (record : BitVec 32), exec (.admitRequest src) s = .next ((u.count (0x9500 + dPart d) 0x06 1).close src .ok) ∧ (∀ a, u.readWord a = s.readWord a)
        ∧ u.request n = { seed := rqSeed d, deadline := (s.deadlineOf (rqDeadline d)).1, limit := rqLimit d, admitTime := s.town, reqId := rqId d,
                          ttl := if rqTtl d = 0 then s.objNat (0x5100 + dPart d) 0x03 else rqTtl d, prefill := rqCount d, input := rqInput d,
                          parked := decide (8192 ≤ n), parkIndex := n - 8192, origin := originOf src, tenant := rqTenant d, partition := dPart d,
                          priority := field d 196 4, kerbMode := field d 194 2, gen := (s.part (dPart d)).admitting, state := .admitted,
                          dirRoot := root, digestRef := record }
        ∧ ∀ m, m ≠ n → u.request m = s.request m)
  ∧ (∀ (src : Src) (d : Desc) (i : Nat) (r : Request) (s : State),
      Requested s src 2 d →
      s.findRequest (dPart d) (rqId d) = some (i, r) →
      r.fault = 0 →
      exec (.append src) s = .next ((s.setRequest i { r with
        prefill := rqCount d + 1, input := rqInput d - 4, joinLast := true, limit := rqLimit d, turnTokens := 0, expiry := 0, chunk := [], prepared := false,
        kerbWaited := false, recallWaited := false, state := if r.state = .kerbed then .recalling else .admitted }).close src .ok))
  ∧ (∀ (src : Src) (d : Desc) (i : Nat) (s : State),
      Requested s src 3 d →
      s.findRequest (dPart d) (rqId d) = some (i, s.request i) →
      (s.request i).fault = 0 →
      exec (.pause src) s = .next ((s.setRequest i (
        if s.isBound (dPart d) i then { s.request i with pauseWaits := true }
        else match (s.request i).state with
          | .active => { s.request i with state := .paused, pausedAt := s.town, pauseWaits := false }
          | .admitted => { s.request i with pauseHeld := true, pauseWaits := false }
          | _ => { s.request i with pauseWaits := false })).close src .ok))
  ∧ (∀ (src : Src) (d : Desc) (i : Nat) (s : State),
      Requested s src 4 d →
      s.findRequest (dPart d) (rqId d) = some (i, s.request i) →
      (s.request i).fault = 0 →
      exec (.cancel src) s = .next (
        (if s.isBound (dPart d) i = true ∨ (s.request i).state = .kerbing ∨ (s.request i).state = .recalling then s.setRequest i { s.request i with cancel := true }
         else s.freeRequest i { event := .cancelled }).close src .ok))

/-- With fewer than 256 resident entries free, the entry chosen moves to the lowest free parked place, and with more than 512 free one moves back; a resident ADMITTED or ACTIVE request
whose pages and chunk find room is staged, its chunk read; a KERBED request whose expiry has come is counted and freed, or ended if a word of its entry is uncorrectable; and a WAITING partition has its batch resolved, for a host ticket or a kerb ticket. -/
def Obligations.RequestTableRuns : Prop :=
  (∀ (s : State) (i j : Nat) (r : Request),
      s.live = true →
      8192 < s.residents + 256 →
      s.parkChoice = some (i, r) ∧ s.freeParked = some j →
      s.mayMove i j = true ∧ (s.request i).state ≠ .free →
      ∃ t, exec .parkEntry s = .next t ∧ (i ≠ j → (t.request i).state = .free)
        ∧ t.request j = { s.request i with parked := decide (8192 ≤ j), parkIndex := j - 8192, prepared := false, chunk := [], slot := 0xFFF }
        ∧ ∀ m, m ≠ i → m ≠ j → t.request m = s.request m)
  ∧ (∀ (s : State) (i j : Nat) (r : Request),
      s.live = true →
      s.residents + 512 < 8192 →
      s.unparkChoice = some (i, r) ∧ s.freeResident = some j →
      s.mayMove i j = true ∧ (s.request i).state ≠ .free →
      ∃ t, exec .unparkEntry s = .next t ∧ (i ≠ j → (t.request i).state = .free)
        ∧ t.request j = { s.request i with parked := decide (8192 ≤ j), parkIndex := j - 8192, prepared := false, chunk := [], slot := 0xFFF }
        ∧ ∀ m, m ≠ i → m ≠ j → t.request m = s.request m)
  ∧ (∀ (i : Nat) (s : State),
      s.live = true →
      i < 8192 ∧ s.isBound (s.request i).partition i = false →
      (s.request i).prepared = true ∨ s.cacheHolds (s.request i).partition (s.request i).dir.length = true →
      (s.request i).state = .active →
      exec (.requestPrepare i) s = .next (s.setRequest i { s.request i with prepared := true }))
  ∧ (∀ (i : Nat) (s t : State) (l : List Byte),
      s.live = true →
      i < 8192 ∧ s.isBound (s.request i).partition i = false →
      (s.request i).prepared = true ∨ s.cacheHolds (s.request i).partition (s.request i).dir.length = true →
      (s.request i).state = .admitted →
      ((s.requestsOf (s.request i).partition).filter (fun e => e.1 != i && !e.2.chunk.isEmpty)).length < s.objNat (0x5300 + (s.request i).partition) 0x01 →
      s.serviceReady (some (s.request i).tenant) ((s.request i).input / 32) = true →
      (let k := if (s.request i).joinLast then 1 else 0
     s.readBytes (s.request i).partition (s.request i).tenant ((s.request i).input + 4 * k) (4 * (s.chunkLen (s.request i).partition (s.request i) - k)) = (some l, t)) →
      ∃ u, exec (.requestPrepare i) s = .next u
        ∧ u.request i = { s.request i with
            prepared := true,
            chunk := (if (s.request i).joinLast then [(s.request i).lastToken] else [])
              ++ tokensOf (s.chunkLen (s.request i).partition (s.request i) - (if (s.request i).joinLast then 1 else 0)) l }
        ∧ ∀ m, m ≠ i → u.request m = t.request m)
  ∧ (∀ (i : Nat) (s : State),
      s.live = true →
      (s.request i).state = .kerbed ∧ (s.request i).expiry ≤ s.town →
      (s.request i).fault = 0 →
      exec (.requestExpiry i) s = .next ((s.count (0x9500 + (s.request i).partition) 0x0B 1).freeRequest i { event := .expired }))
  ∧ (∀ (i : Nat) (s : State),
      s.live = true →
      (s.request i).state = .kerbed ∧ (s.request i).expiry ≤ s.town →
      (s.request i).fault ≠ 0 →
      exec (.requestExpiry i) s = .next ((s.serviceFailed (some (s.request i).partition) (s.request i).tenant 0 .uncorrectable (s.request i).fault).freeRequest i
        { event := .ended, status := .uncorrectable }))
  ∧ (∀ (p : Fin 64) (s : State) (t : Ticket),
      s.live = true →
      (s.part p.val).nextTicket = some t →
      (s.part p.val).stepState = .waiting ∧ (s.part p.val).resolving = true →
      ∃ u, exec (.batchResolution p) s = .next u ∧ (u.part p.val).resolving = false
        ∧ u = (let z := s.setPart p.val { s.part p.val with binding := [] }
        let a := (z.switchWith p.val (leNat (z.upcoming p.val (0x5200 + p.val) 0x07) == 1)).drained p.val
        let n := leNat (a.upcoming p.val (0x5300 + p.val) 0x01)
        let b := (a.readEntries p.val).markMissed p.val
        let g := if t.kerb then t.gen else b.ticketGen p.val t
        let c := if t.kerb then b.resolveKerb p.val (List.range n) ((b.toSummarise p.val).filter (fun e => e.2.gen == g)) else b.resolveHost p.val g n (field t.desc 64 16)
        let y := c.part p.val
        c.setPart p.val (if t.kerb then { y with kerbTicket := some { t with gen := g }, resolving := false } else { y with tickets := { t with gen := g } :: y.tickets.tail, resolving := false })))

/-- The resident requests of p that kerbing takes, in their order: those paused longest first; of those that only the pool's level makes due, none
before one paused longer that is parked (R247). -/
abbrev KerbOrder (s : State) (p : Nat) (l : List (Nat × Request)) : Prop :=
  let due := (s.requestsOf p).filter (fun e => s.kerbDue e.2)
  l = (due.filter (fun e => decide (e.1 < 8192) && (s.kerbAged e.2 || due.all (fun f => decide (f.1 < 8192) || decide (e.2.pausedAt ≤ f.2.pausedAt))))).foldl
        (fun acc e => pauseInsert e acc) []

/-- The longest-paused resident request that is due enters KERBING; its lowest frame not yet copied goes to a kerb frame, charged to its tenant, and after the last it is KERBED; the lowest kerb frame of
a request that is RECALLING goes back to a pool frame; a kerb ticket is formed for the requests that wait for a summary, and taken up at once by an IDLE partition; and the oldest second with leaves that has ended is signed. -/
def Obligations.KerbingRuns : Prop :=
  (∀ (p : Fin 64) (i : Nat) (r : Request) (l : List (Nat × Request)) (s : State),
      s.live = true →
      KerbOrder s p.val ((i, r) :: l) →
      r.dir.length ≤ s.freeKerb p.val →
      ∃ t, exec (.kerbingBegin p) s = .next t ∧ (∀ a, t.readWord a = s.readWord a) ∧ t.serving.order = s.serving.order + 1
        ∧ t.request i = { r with state := .kerbing, kerbOrder := s.serving.order, kerbSum := s.kerbSummary r, summarised := false, kerbDir := [], chunk := [],
                                 kerbWaited := false }
        ∧ ∀ j, j ≠ i → t.request j = s.request j)
  ∧ (∀ (i j f k g a : Nat) (s t : State),
      s.live = true →
      (s.request i).state = .kerbing ∧ ((s.request i).kerbSum = false ∨ (s.request i).summarised = true) →
      List.find? (fun e => ((s.request i).kerbDir.find? e.1).isNone) (s.request i).dir = some (j, f) →
      s.frameAddr (s.request i).partition j f = some a ∧ s.nextKerb (s.request i).partition = some (k, g) →
      s.frameReady (s.request i).tenant a (s.kerbAddr (s.request i).partition k g) = true →
      (s.takeKerb (s.request i).partition (s.request i).tenant k g).copyFrame (s.request i).tenant a ((s.takeKerb (s.request i).partition (s.request i).tenant k g).kerbAddr (s.request i).partition k g) = some t →
      ∃ u, exec (.kerbFrameCopy i) s = .next u ∧ u =
        (let r := s.request i
        let v := ((t.serviceMove (some r.tenant) a frameWords).charge r.tenant (k + 1) (32 * frameWords)).setRequest i { r with kerbDir := r.kerbDir.put j (kerbEntry k g) }
        if (r.kerbDir.put j (kerbEntry k g)).length = r.dir.length then v.kerbed i else v)
        ∧ ((s.request i).cancel = false → (s.request i).cut = false → (((s.request i).kerbDir.put j (kerbEntry k g)).length = (s.request i).dir.length → (u.request i).state = .kerbed ∧ (u.request i).dir = [])
        ∧ (((s.request i).kerbDir.put j (kerbEntry k g)).length ≠ (s.request i).dir.length → u.request i = { s.request i with kerbDir := (s.request i).kerbDir.put j (kerbEntry k g) })))
  ∧ (∀ (i j e f a : Nat) (s t : State),
      s.live = true →
      (s.request i).state = .recalling ∧ i < 8192 →
      List.find? (fun e => ((s.request i).dir.find? e.1).isNone) (s.request i).kerbDir = some (j, e) →
      (s.request i).kerbDir.length ≤ s.freeFrames (s.request i).partition + (s.request i).dir.length →
      s.pickFrame (s.request i).partition (s.request i).tenant j = some f ∧ s.frameAddr (s.request i).partition j f = some a →
      s.frameReady (s.request i).tenant (s.kerbAddr (s.request i).partition (e / 2 ^ 26) (e % 2 ^ 26)) a = true →
      (s.takeFrame (s.request i).partition (s.request i).tenant j f).copyFrame (s.request i).tenant (s.kerbAddr (s.request i).partition (e / 2 ^ 26) (e % 2 ^ 26)) a = some t →
      ∃ u, exec (.recallFrameCopy i) s = .next u ∧ u =
        (let r := s.request i
        let v := ((t.serviceMove (some r.tenant) a frameWords).charge r.tenant (e / 2 ^ 26 + 1) (32 * frameWords)).setRequest i { r with dir := r.dir.put j f }
        if (r.dir.put j f).length = r.kerbDir.length then v.recalled i else v)
        ∧ ((s.request i).cancel = false → (s.request i).cut = false → (((s.request i).dir.put j f).length = (s.request i).kerbDir.length → (u.request i).state = .admitted ∧ (u.request i).kerbDir = [])
        ∧ (((s.request i).dir.put j f).length ≠ (s.request i).kerbDir.length → u.request i = { s.request i with dir := (s.request i).dir.put j f })))
  ∧ (∀ (p : Fin 64) (i : Nat) (r : Request) (l : List (Nat × Request)) (pl : Plan) (s : State),
      s.live = true →
      s.toSummarise p.val = (i, r) :: l →
      (s.part p.val).plans.find? (s.objNat (0x5100 + p.val) 0x0A) = some pl ∧ pl.unloading = false →
      (s.part p.val).partState = 1 ∧ (s.part p.val).kerbTicket = none ∧ ¬((s.part p.val).runKerb = true ∧ (s.part p.val).running.isSome = true) →
      s.objNat (0x5100 + p.val) 0x0D ≤ (s.part p.val).sinceSummary →
      exec (.kerbTicket p) s = .next (
        let slot := s.objNat (0x5100 + p.val) 0x0A
        let t : Ticket := { desc := kerbDesc p.val slot (s.objNat (0x5100 + p.val) 0x0B) r.gen, src := .ring ⟨0, 0⟩, kerb := true, slot := slot, gen := r.gen }
        let u := (s.abandonSlices p.val).setPart p.val { s.part p.val with kerbTicket := some t }
        if (s.part p.val).stepState = .idle then u.proceed p.val else u))
  ∧ (∀ (p : Fin 64) (u sec q : Nat) (l : List (List Byte)) (s : State),
      s.live = true →
      s.utcOf s.town = some u →
      s.serving.leaves.find? (fun e => e.1 == p.val) = some (q, sec, l) →
      sec < u / 1000000 →
      ∃ t record, exec (.rootSign p) s = .next t ∧ t = { s with serving := t.serving }
        ∧ record = natBytes 4 sec ++ natBytes 4 l.length ++ rootOf 64 (l.map (fun d => sha3 ([0#8] ++ d)))
            ++ attestSign (ascii "CAETH-ROOT" ++ natBytes 1 p.val ++ (natBytes 4 sec ++ natBytes 4 l.length ++ rootOf 64 (l.map (fun d => sha3 ([0#8] ++ d)))))
        ∧ t.serving.roots.getLast? = some (p.val, sec, record)
        ∧ t.serving.leaves = s.serving.leaves.filter (fun e => !(e.1 == p.val && e.2.1 == sec)))

/-- R246. The request that KERBING_BEGIN takes enters KERBING as a SUMMARY one exactly where its mode, its KERB_MODE if that is TIER or SUMMARY and KERB_DEFAULT otherwise, is SUMMARY and SUMMARY_PLAN then names a resident plan; and as a
TIER one otherwise. -/
def Obligations.KerbModeIsRead : Prop :=
  ∀ (p : Fin 64) (i : Nat) (r : Request) (l : List (Nat × Request)) (s : State),
      s.live = true →
      KerbOrder s p.val ((i, r) :: l) →
      r.dir.length ≤ s.freeKerb p.val →
      ∃ t, exec (.kerbingBegin p) s = .next t ∧ (t.request i).state = .kerbing ∧
        ((t.request i).kerbSum = true ↔
          (if r.kerbMode = 1 ∨ r.kerbMode = 2 then r.kerbMode else s.objNat (0x5100 + r.partition) 0x01) = 2 ∧
          ∃ pl, (s.part r.partition).plans.find? (s.objNat (0x5100 + r.partition) 0x0A) = some pl ∧ pl.unloading = false)

/-- In the first slice that begins after a step start the routine is entered at its first instruction with a0 = STEP_NO and a1 = the entry segment; a suspended routine resumes in its slice
with its registers intact, and one still running once its slice is over is suspended. A core cycle of its slice in which the instruction
before is done executes the base instruction at its pc: rd, the pc and the core cycles it takes are its own, and no other partition sees it; a core cycle of firmware executes its own, or takes
the interrupt that is pending (the base instructions, the traps and the CSRs are PRESUMED, logs 10 and 88). -/
def Obligations.RoutineEventsRun : Prop :=
  (∀ (p : Fin 64) (s : State),
      s.live = true →
      (s.part p.val).partState ≠ 0 ∧ (s.part p.val).routine.started = true ∧ (s.part p.val).routine.code ≠ [] →
      s.inSlice p.val = true ∧ s.sliceAfterStart p.val = true →
      exec (.routineEntry p) s = .next (s.setRoutine p.val { (s.part p.val).routine with
        mode := .running, started := false, busy := 0, reserved := none, pc := BitVec.ofNat 64 (slotCode (s.slotOf p.val)),
        regs := [(10, BitVec.ofNat 64 (s.part p.val).routine.stepNo), (11, BitVec.ofNat 64 (s.part p.val).routine.segment)] }))
  ∧ (∀ (p : Fin 64) (s : State),
      s.live = true →
      (s.part p.val).routine.mode = .suspended ∧ s.inSlice p.val = true →
      exec (.sliceBegin p) s = .next (s.setRoutine p.val { (s.part p.val).routine with mode := .running }))
  ∧ (∀ (p : Fin 64) (s : State),
      s.live = true →
      (s.part p.val).routine.mode = .running ∧ s.inSlice p.val = false →
      exec (.sliceEnd p) s = .next (s.setRoutine p.val { (s.part p.val).routine with mode := .suspended }))
  ∧ (∀ (k p : Nat) (s : State) (d : RvDone),
      k < 16 ∧ s.firmwareTurn k = false ∧ s.userPart k (s.calendar k / 64 - 1) = some p →
      (s.part p).routine.busy ≤ 1 →
      (s.setRoutine p { (s.part p).routine with busy := 0 }).rvNow k p = .done d →
      (s.coreCycle k).mem = s.mem ∧ ((s.coreCycle k).part p).routine.pc = d.pc ∧ ((s.coreCycle k).part p).routine.busy = d.cycles
        ∧ (d.rd ≠ 0 → ((s.coreCycle k).part p).routine.regs.get 0 d.rd = d.value)
        ∧ ((s.coreCycle k).core k).retired = (s.core k).retired + 1
        ∧ ∀ q, q ≠ p → (s.coreCycle k).part q = s.part q)
  ∧ (∀ (k : Nat) (s : State) (d : RvDone),
      s.firmwareTurn k = true →
      (s.core k).busy ≤ 1 ∧ (s.core k).interrupt = none →
      (s.setCore k { s.core k with busy := 0 }).fwNow k = .done d →
      d.csr = none ∧ d.mret = false →
      (s.coreCycle k).mem = s.mem ∧ ((s.coreCycle k).core k).pc = d.pc ∧ ((s.coreCycle k).core k).busy = d.cycles
        ∧ (d.rd ≠ 0 → ((s.coreCycle k).core k).regs.get 0 d.rd = d.value)
        ∧ (∀ j, j ≠ k → (s.coreCycle k).core j = s.core j) ∧ (s.coreCycle k).parts = s.parts)
  ∧ (∀ (k i : Nat) (s : State),
      s.firmwareTurn k = true →
      (s.core k).busy ≤ 1 ∧ (s.core k).interrupt = some i →
      s.coreCycle k = s.setCore k ((s.core k).takeInterrupt i) ∧ ((s.core k).takeInterrupt i).mepc = (s.core k).pc
        ∧ ((s.core k).takeInterrupt i).mcause = BitVec.ofNat 64 (2 ^ 63 + i) ∧ (s.core k).mip.getLsbD i = true)

/-- R166. A routine that has come in its slice to an instruction that faults leaves a running step fenced with the cause SEGMENT, CHOICE_FAULT with the pc and the cause of the fault (of an EBREAK a free value, log 23), and itself idle; and until a step start has begun it again,
no ROUTINE_ENTRY changes that. The other registers of the routine, memory and the other partitions' routines stay. -/
def Obligations.RoutineFaultFails : Prop :=
  ∀ (p : Fin 64) (cause : RoutineFault) (s : State),
      s.faultsNow p.val cause = true →
      (s.part p.val).routine.started = false →
      ∃ t v, exec (.routineFault p cause) s = .next t
        ∧ ((s.part p.val).stepState = .running → (t.part p.val).stepState = .fenced ∧ (t.part p.val).failure.map (fun f => f.cause) = some .segment)
        ∧ t.obj (0x4000 + p.val) 0x1B = natBytes 8 (place 56 8 v ||| (s.part p.val).routine.pc.toNat % 2 ^ 32)
        ∧ (cause = .access → v = 1) ∧ (cause = .illegal → v = 2) ∧ (cause = .ecall → v = 3)
        ∧ (t.part p.val).routine = { (s.part p.val).routine with mode := .idle }
        ∧ exec (.routineEntry p) t = .next t
        ∧ t.mem = s.mem ∧ ∀ q, q ≠ p.val → t.part q = s.part q

/-- Each CK instruction of a core that runs it, of a routine that has come to it at its pc, writes its result to rd and goes on to the next instruction: CK.MBCNT the records that wait; CK.MBPOP pops the oldest into 32 or 128 bytes
of data memory, and gives what is left, or −1 of an empty queue; CK.CHOOSE registers a successor of the segment and gives 0, gives 1 where no choice is awaited and 2 where one is
registered, and on any other segment fails the step and gives 3; CK.TKT stores the ticket; CK.POST puts a descriptor whose CRC holds, and that the runner may post, into the intake
of 16; CK.WAIT gives the events that hold; and CK.DONE ends the routine, with interrupt cause 21. A result is the value of rd, unless rd is register 0, which
reads zero; no other register changes, the pc moves on by 4, and the instruction takes its core cycles. -/
def Obligations.CkInstructionsRun : Prop :=
  (∀ (k : Nat) (w : Runner) (rd n : Nat) (v : BitVec 64) (s : State),
      (∀ i, (s.result k w rd v n).reg k w i = if i = rd ∧ i ≠ 0 then v else s.reg k w i)
        ∧ (∀ p, w = .routine p → ((s.result k w rd v n).part p).routine.pc = (s.part p).routine.pc + 4 ∧ ((s.result k w rd v n).part p).routine.busy = n)
        ∧ (w = .firmware → ((s.result k w rd v n).core k).pc = (s.core k).pc + 4 ∧ ((s.result k w rd v n).core k).busy = n)
        ∧ ((s.result k w rd v n).core k).retired = (s.core k).retired + 1 ∧ (s.result k w rd v n).mem = s.mem)
  ∧ (∀ (k : Fin 20) (m : CkMode) (rd rs1 : Fin 32) (s : State) (w : Runner),
      s.runner k.val 0 [(7, rd.val), (15, rs1.val)] m = some w →
      exec (.ckMbcnt k m rd rs1) s = .next (s.result k.val w rd.val (BitVec.ofNat 64 (s.waiting k.val (s.queueNamed k.val w (s.reg k.val w rs1.val).toNat))) 1))
  ∧ (∀ (k : Fin 20) (m : CkMode) (rd rs1 rs2 : Fin 32) (s t : State) (w : Runner) (l : List Byte),
      s.runner k.val 1 [(7, rd.val), (15, rs1.val), (20, rs2.val)] m = some w →
      s.writable k.val w (s.reg k.val w rs2.val).toNat (if s.queueNamed k.val w (s.reg k.val w rs1.val).toNat = .posts then 128 else 32) = true →
      s.popQueue k.val (s.queueNamed k.val w (s.reg k.val w rs1.val).toNat) = some (l, t) →
      exec (.ckMbpop k m rd rs1 rs2) s = .next ((t.store k.val (s.reg k.val w rs2.val).toNat l).result k.val w rd.val
        (BitVec.ofNat 64 (t.waiting k.val (s.queueNamed k.val w (s.reg k.val w rs1.val).toNat))) 4))
  ∧ (∀ (k : Fin 20) (m : CkMode) (rd rs1 rs2 : Fin 32) (s : State) (w : Runner),
      s.runner k.val 1 [(7, rd.val), (15, rs1.val), (20, rs2.val)] m = some w →
      s.writable k.val w (s.reg k.val w rs2.val).toNat (if s.queueNamed k.val w (s.reg k.val w rs1.val).toNat = .posts then 128 else 32) = true →
      s.popQueue k.val (s.queueNamed k.val w (s.reg k.val w rs1.val).toNat) = none →
      exec (.ckMbpop k m rd rs1 rs2) s = .next (s.result k.val w rd.val (-1) 4))
  ∧ (∀ (k : Fin 20) (m : CkMode) (rd rs1 : Fin 32) (s : State) (w : Runner) (p : Nat) (g : Segment),
      s.runner k.val 2 [(7, rd.val), (15, rs1.val)] m = some w →
      s.subject k.val w = some p ∧ (s.part p).seg = some g →
      exec (.ckChoose k m rd rs1) s = .next (
        let n := (s.reg k.val w rs1.val).toNat
        if (s.part p).stepState ≠ .running ∨ g.next ≠ 2 then s.result k.val w rd.val 1 4
        else if (s.part p).choice.isSome then s.result k.val w rd.val 2 4
        else if g.choices.contains n then (s.setPart p { s.part p with choice := some n }).result k.val w rd.val 0 4
        else (s.failStep p .segment 1).result k.val w rd.val 3 4))
  ∧ (∀ (k : Fin 20) (m : CkMode) (rd rs1 : Fin 32) (s : State) (w : Runner) (p : Nat) (t : Ticket),
      s.runner k.val 3 [(7, rd.val), (15, rs1.val)] m = some w →
      s.writable k.val w (s.reg k.val w rs1.val).toNat 64 = true →
      s.subject k.val w = some p ∧ (s.part p).runningTicket = some t →
      exec (.ckTkt k m rd rs1) s = .next ((s.store k.val (s.reg k.val w rs1.val).toNat (natBytes 64 t.desc.toNat)).result k.val w rd.val 0 6))
  ∧ (∀ (k : Fin 20) (m : CkMode) (rd rs1 : Fin 32) (s : State) (w : Runner) (d : Desc),
      s.runner k.val 4 [(7, rd.val), (15, rs1.val)] m = some w →
      s.writable k.val w (s.reg k.val w rs1.val).toNat 64 = true →
      d = BitVec.ofNat 512 (leNat (s.load k.val (s.reg k.val w rs1.val).toNat 64)) ∧ s.coreFlawed k.val (s.reg k.val w rs1.val).toNat 64 = false →
      (s.core k.val).intake.length < 16 ∧ descCrcOk d = true ∧ s.mayPost k.val w d = true →
      exec (.ckPost k m rd rs1) s = .next ((s.setCore k.val { s.core k.val with intake := (s.core k.val).intake ++ [((match w with
          | .routine p => some (s.part p).owner
          | .firmware => none), d)] }).result k.val w rd.val 0 8))
  ∧ (∀ (k : Fin 20) (m : CkMode) (rd rs1 : Fin 32) (s : State) (w : Runner),
      s.runner k.val 5 [(7, rd.val), (15, rs1.val)] m = some w →
      s.events k.val w &&& ((s.reg k.val w rs1.val).toNat ||| 16) ≠ 0 →
      exec (.ckWait k m rd rs1) s = .next (s.result k.val w rd.val (BitVec.ofNat 64 (s.events k.val w)) 1))
  ∧ (∀ (k : Fin 20) (m : CkMode) (s : State) (p : Nat),
      s.runner k.val 6 [] m = some (.routine p) →
      ∃ t, exec (.ckDone k m) s = .next t
        ∧ (t.part p).routine = { (s.part p).routine with mode := .idle, pc := (s.part p).routine.pc + 4, busy := 1 }
        ∧ (t.core k.val).mip = (s.core k.val).mip ||| BitVec.ofNat 64 (2 ^ 21) ∧ ∀ q, q ≠ p → t.part q = s.part q)
  ∧ (∀ (k : Fin 20) (m : CkMode) (s : State),
      s.runner k.val 6 [] m = some .firmware →
      exec (.ckDone k m) s = .next (s.setCore k.val { s.core k.val with pc := (s.core k.val).pc + 4, busy := 1, retired := (s.core k.val).retired + 1 }))

/-- The core k has been reset (R175). -/
def CoreReset (s : State) (k : Nat) (t : State) : Prop :=
  (t.core k).wdogAt = s.town ∧ (t.core k).downTo = s.town + 200 * Config.ticksPerUs ∧ (t.core k).pc = 0 ∧ (t.core k).intake = [] ∧
  ∀ p, (s.part p).stepState = .running → (16 ≤ k ∨ p ∈ s.slotParts k) → Fenced t p .fault

/-- Of the cores, t changes the core k alone, to c, and no partition. -/
def CoreIs (s : State) (k : Nat) (c : Core) (t : State) : Prop := t.core k = c ∧ (∀ j, j ≠ k → t.core j = s.core j) ∧ t.parts = s.parts ∧ t.mem = s.mem

/-- Firmware that has come to a write of CKWDOG restarts the interval of its watchdog; of a core that runs, 0.9 ms after that a warning raises interrupt cause 20, once; after 1 ms the core is reset, and so it is where
the instruction that it has come to meets an uncorrectable word: the steps of the partitions it leads, of a sequencer core every running step, are fenced with FAULT, and it serves again after 200 µs;
and interrupt cause 7 is raised once the town clock has reached mtimecmp. -/
def Obligations.CoreEventsRun : Prop :=
  (∀ (k : Fin 20) (s : State),
      s.fwAt k.val wdogIs = true →
      ∃ t regs, exec (.ckwdog k) s = .next t ∧ CoreIs s k.val { s.core k.val with
        regs := regs, pc := (s.core k.val).pc + 4, busy := 1, retired := (s.core k.val).retired + 1, wdogAt := s.town, warned := false } t)
  ∧ (∀ (k : Fin 20) (s : State),
      s.coreUp k.val = true →
      (s.core k.val).warned = false ∧ (s.core k.val).wdogAt + 900 * Config.ticksPerUs ≤ s.town →
      ∃ t, exec (.watchdogWarning k) s = .next t
        ∧ CoreIs s k.val { s.core k.val with warned := true, mip := (s.core k.val).mip ||| BitVec.ofNat 64 (2 ^ 20) } t)
  ∧ (∀ (k : Fin 20) (s : State),
      s.coreUp k.val = true →
      (s.core k.val).wdogAt + Config.ticksPerMs ≤ s.town →
      ∃ t, exec (.watchdogExpiry k) s = .next t ∧ CoreReset s k.val t)
  ∧ (∀ (k : Fin 20) (s : State),
      s.flawedNow k.val = true →
      ∃ t, exec (.coreFault k) s = .next t ∧ CoreReset s k.val t)
  ∧ (∀ (k : Fin 20) (s : State),
      s.coreUp k.val = true →
      (s.core k.val).mtimecmp.toNat ≤ s.town →
      ∃ t, exec (.timerInterrupt k) s = .next t ∧ CoreIs s k.val { s.core k.val with mip := (s.core k.val).mip ||| BitVec.ofNat 64 (2 ^ 7) } t)

/-- The request at the head of the queue is l of a source, a WRITE or EXEC of object (i, u) that passes the checks of R443 up to its act; it is a, and its act runs
in T. -/
abbrev Row (s : State) (src : Source) (l : List Byte) (rest : List (Source × List Byte)) (i u : Nat) (T : State) (a : Ask) : Prop :=
  Written s src l rest i u ∧ T = Taken s rest ∧ a = T.askOf src l

/-- A request of these rows that passes the checks of R443, and the conditions of its own rule, has its effect and is answered: CREATE makes a FREE partition LIVE with its blocks, owner,
channel slots and zeroed counters, admits its owner and measures it; DESTROY passes it to DESTROYING; a write of ADMITTED waits for the step boundary, and so do SWITCH, CUT_DRAINING
and the CLEAR of the slip counters; QUOTE_NONCE keeps the nonce, over which a quote is then formed. -/
def Obligations.PartitionCommandsRun : Prop :=
  (∀ (s T : State) (src : Source) (l : List Byte) (rest : List (Source × List Byte)) (a : Ask) (n : Fin 64),
      Row s src l rest (0x4000 + n.val) 0x05 T a →
      (T.part n.val).partState = 0 ∧ (T.tenant (leAt a.value 32 1)).state = 1 →
      leAt a.value 33 1 ≤ 1 ∧ T.mapOk (BitVec.ofNat 256 (leAt a.value 0 32)) (leAt a.value 33 1 == 1) = true →
      ∃ z, exec (.create .head) s = .next (({ s := z } : Done).answer l a)
        ∧ z = (((((List.range 15).foldl (fun s i => s.setCounter (0x9500 + n.val) (i + 1) 0) ((List.range 0x13).foldl (fun s i => s.setCounter (0x9100 + n.val) (i + 1) 0) (T.setPart n.val
                 { partState := 1, blockMap := BitVec.ofNat 256 (leAt a.value 0 32), owner := leAt a.value 32 1, exclusive := leAt a.value 33 1 == 1,
                   channels := (channelsOfMap (BitVec.ofNat 256 (leAt a.value 0 32))).filterMap (fun c => (T.freeSlot c).map (fun k => (c, k))), changedAt := T.town }))).setObj
                 (0x4000 + n.val) 0x04 (natBytes 32 (2 ^ leAt a.value 32 1))).measure n.val))
        ∧ (z.part n.val).partState = 1 ∧ (z.part n.val).blockMap = BitVec.ofNat 256 (leAt a.value 0 32) ∧ (z.part n.val).owner = leAt a.value 32 1
        ∧ (z.part n.val).stepState = .idle ∧ (z.part n.val).plans = [] ∧ (z.part n.val).handles = [])
  ∧ (∀ (s T : State) (src : Source) (l : List Byte) (rest : List (Source × List Byte)) (a : Ask) (n : Fin 64),
      Row s src l rest (0x4000 + n.val) 0x06 T a →
      T.destroyable n.val = true →
      ∃ z, exec (.destroy .head) s = .next (({ s := z } : Done).answer l a)
        ∧ z = (T.destroyPart n.val)
        ∧ (z.part n.val).partState = 2 ∧ (z.part n.val).plans = [] ∧ (z.part n.val).handles = [] ∧ (z.part n.val).channels = [])
  ∧ (∀ (s T : State) (src : Source) (l : List Byte) (rest : List (Source × List Byte)) (a : Ask) (n : Fin 64),
      Row s src l rest (0x4000 + n.val) 0x04 T a →
      bitAt (BitVec.ofNat 256 a.num) (T.part n.val).owner = true →
      exec (.admittedWrite .head) s = .next (
        ({ s := T.putWait n.val (0x4000 + n.val) 0x04 a.value } : Done).answer l a))
  ∧ (∀ (s T : State) (src : Source) (l : List Byte) (rest : List (Source × List Byte)) (a : Ask) (n : Fin 64),
      Row s src l rest (0x4000 + n.val) 0x0A T a →
      exec (.quoteNonce .head) s = .next (
        ({ s := T.setPart n.val { T.part n.val with nonce := some a.value } } : Done).answer l a))
  ∧ (∀ (s T : State) (src : Source) (l : List Byte) (rest : List (Source × List Byte)) (a : Ask) (n : Fin 64),
      Row s src l rest (0x5200 + n.val) 0x08 T a →
      a.num ≤ 1 →
      (T.part n.val).gen a.num = 0 ∧ T.objNat (0x5200 + n.val) (1 + a.num) ≠ 0 ∧ (T.part n.val).gen (otherGen a.num) = 1 ∧ T.genRequests n.val a.num = [] →
      exec (.switch .head) s = .next (
        ({ s := T.setPart n.val { T.part n.val with switchTo := some a.num } } : Done).answer l a))
  ∧ (∀ (s T : State) (src : Source) (l : List Byte) (rest : List (Source × List Byte)) (a : Ask) (n : Fin 64),
      Row s src l rest (0x5200 + n.val) 0x09 T a →
      (T.part n.val).gen0 = 2 ∨ (T.part n.val).gen1 = 2 →
      exec (.cutDraining .head) s = .next (
        ({ s := T.setPart n.val { T.part n.val with cutDrain := true } } : Done).answer l a))
  ∧ (∀ (s T : State) (src : Source) (l : List Byte) (rest : List (Source × List Byte)) (a : Ask) (n : Fin 64),
      Row s src l rest (0x9100 + n.val) 0x20 T a →
      exec (.clear .head) s = .next (
        ({ s := T.setPart n.val { T.part n.val with clearSlip := true } } : Done).answer l a))

/-- A request of these rows that passes the checks of R443, and the conditions of its own rule, has its effect and is answered: ENROL makes a FREE tenant LIVE with full buckets; a write of VF_MAP that meets no other
tenant's takes the VFs and stops the rings of those it gives up; KEY_LOAD of a slot that is free, whose tag holds, takes the unwrapped key once its last chunk has come; KEY_ERASE, TEARDOWN and ALLOC_FREE begin what
their rules say; ALLOC_ADD enters the allocation in the lowest free place; and a write of PC_OWNER clears a pseudo-channel that changes hands. -/
def Obligations.TenantCommandsRun : Prop :=
  (∀ (s T : State) (src : Source) (l : List Byte) (rest : List (Source × List Byte)) (a : Ask) (n : Fin 256),
      Row s src l rest (0x4100 + n.val) 0x02 T a →
      (T.tenant n.val).state = 0 →
      exec (.enrol .head) s = .next (
        ({ s := T.setTenant n.val { T.tenant n.val with state := 1, levels := [], waiting := [] } } : Done).answer l a))
  ∧ (∀ (s T : State) (src : Source) (l : List Byte) (rest : List (Source × List Byte)) (a : Ask) (n : Fin 256),
      Row s src l rest (0x4100 + n.val) 0x03 T a →
      T.tenants.all (fun e => e.1 == n.val || e.2.vfMap.toNat &&& a.num == 0) = true →
      exec (.vfMapWrite .head) s = .next (
        ({ s := (T.setTenant n.val { T.tenant n.val with vfMap := BitVec.ofNat 256 a.num }).stopRings ((T.tenant n.val).vfMap.toNat &&& (2 ^ 256 - 1 - a.num)) } : Done).answer l a))
  ∧ (∀ (s T : State) (src : Source) (l : List Byte) (rest : List (Source × List Byte)) (a : Ask) (n : Fin 256) (m : List Byte),
      Completed s src l rest (0x4100 + n.val) 0x06 T a →
      slice a.value 1636 32 = kmac256 (mlKemDecaps T.start.starts (slice a.value 4 1568)) (a.value.take 4 ++ slice a.value 4 1568 ++ slice a.value 1572 64) 256 (ascii "CAETH-KW-T") →
      (T.key (leAt a.value 0 2)).valid = false →
      m = xorBytes (slice a.value 1572 64) (kmac256 (mlKemDecaps T.start.starts (slice a.value 4 1568)) (a.value.take 4) 512 (ascii "CAETH-KW-E")) →
      m.take 32 ≠ m.drop 32 →
      1 ≤ leAt a.value 0 2 ∧ leAt a.value 0 2 ≤ 4095 ∧ leAt a.value 2 1 = n.val ∧ leAt a.value 3 1 = 1 →
      exec (.keyLoad .head) s = .next (
        ({ s := (T.setKey (leAt a.value 0 2) { valid := true, tenant := n.val, material := m }).logEvent
                 { cls := 12, code := 1, tenant := some n.val, detail := leAt a.value 0 2 } } : Done).answer l a))
  ∧ (∀ (s T : State) (src : Source) (l : List Byte) (rest : List (Source × List Byte)) (a : Ask) (n : Fin 256),
      Row s src l rest (0x4100 + n.val) 0x07 T a →
      1 ≤ a.num ∧ a.num ≤ 4095 →
      (T.key a.num).valid = true ∧ (T.key a.num).tenant = n.val →
      ∃ z, exec (.keyErase .head) s = .next (({ s := z } : Done).answer l a)
        ∧ z = (T.askErase n.val a.num)
        ∧ (T.partsOfTenant n.val = [] → (z.key a.num).valid = false)
        ∧ ∀ p ∈ T.partsOfTenant n.val, a.num ∈ (z.part p).eraseKeys)
  ∧ (∀ (s T : State) (src : Source) (l : List Byte) (rest : List (Source × List Byte)) (a : Ask) (n : Fin 256),
      Row s src l rest (0x4100 + n.val) 0x08 T a →
      (T.tenant n.val).state = 1 →
      ∃ z, exec (.teardown .head) s = .next (({ s := z } : Done).answer l a)
        ∧ z = (T.beginTeardown n.val)
        ∧ (z.tenant n.val).state = 2)
  ∧ (∀ (s T : State) (src : Source) (l : List Byte) (rest : List (Source × List Byte)) (a : Ask) (n : Fin 256) (p z b i : Nat),
      Row s src l rest (0x4100 + n.val) 0x10 T a →
      field (BitVec.ofNat 256 a.num) 232 24 = 0 ∧ field (BitVec.ofNat 256 a.num) 208 8 = n.val ∧ field (BitVec.ofNat 256 a.num) 192 16 = 0 ∧ field (BitVec.ofNat 256 a.num) 56 72 = 0 →
      p = field (BitVec.ofNat 256 a.num) 216 8 ∧ z = field (BitVec.ofNat 256 a.num) 128 64 ∧ b = field (BitVec.ofNat 256 a.num) 0 56 →
      z ≠ 0 ∧ z % 65536 = 0 ∧ b % 65536 = 0 ∧ (p < 64 ∨ p = 0xFF) →
      T.rangeOk b z = true ∧ T.allocs.all (fun e => !meets b z e.2.base e.2.size) = true →
      (b / 2 ^ 54 = 1 → p ≠ 0xFF ∧ T.objNat (0x6100 + b / 2 ^ 32 % 256) 0x01 = p) →
      (T.allocs.filter (fun e => e.2.tenant == n.val)).length < 64 →
      freeAllocIndex T.allocs 4096 0 = some i →
      exec (.allocAdd .head) s = .next (
        ({ s := ({ T with allocs := T.allocs.put i { state := 1, partition := p, tenant := n.val, size := z, base := b } } : State).bump (0x4100 + n.val) 0x12 } : Done).answer l a))
  ∧ (∀ (s T : State) (src : Source) (l : List Byte) (rest : List (Source × List Byte)) (a : Ask) (n : Fin 256) (i : Nat) (e : Alloc),
      Row s src l rest (0x4100 + n.val) 0x11 T a →
      (T.allocs.filter (fun e => e.2.tenant == n.val))[a.num]? = some (i, e) →
      e.state = 1 ∧ T.dependsOn e.base e.size = false →
      ∃ z, exec (.allocFree .head) s = .next (({ s := z } : Done).answer l a)
        ∧ z = (T.freeAlloc i)
        ∧ (z.allocs.find? i).map (fun e => e.state) = some 2)
  ∧ (∀ (s T : State) (src : Source) (l : List Byte) (rest : List (Source × List Byte)) (a : Ask) (n : Fin 256),
      Row s src l rest (0x6100 + n.val) 0x01 T a →
      a.num < 64 ∨ a.num = 0xFF →
      T.ownerIdle (T.objNat (0x6100 + n.val) 0x01) = true ∧ T.ownerIdle a.num = true →
      a.num = T.objNat (0x6100 + n.val) 0x01 ∨ T.allocs.all (fun e => tierOf (e.2.base / 32) != 1 || channelOf (e.2.base / 32) != n.val) = true →
      ∃ z, exec (.pcOwnerWrite .head) s = .next (({ s := z } : Done).answer l a)
        ∧ z = (if T.objNat (0x6100 + n.val) 0x01 ≠ 0xFF ∧ a.num ≠ T.objNat (0x6100 + n.val) 0x01 then (T.storeRaw (0x6100 + n.val) 0x01 a.value).beginClearChannel n.val else T.storeRaw (0x6100 + n.val) 0x01 a.value)
        ∧ (T.objNat (0x6100 + n.val) 0x01 ≠ 0xFF → a.num ≠ T.objNat (0x6100 + n.val) 0x01 → (z.channel n.val).clearing = true))

/-- A request of these rows that passes the checks of R443, and the conditions of its own rule, has its effect and is answered: RETRAIN and a write of LINK_ENABLE act on their port; OPEN opens a slot whose conditions
hold, and CLOSE closes one of a partition that is IDLE or HELD; a write of TIME_PARENT chooses the mode, and UTC_SET the building time; a write of QP_STATE resets a queue pair or, from RESET with a good configuration, makes it ready;
and FETCH_START begins a list that no check refuses. -/
def Obligations.RoadCommandsRun : Prop :=
  (∀ (s T : State) (src : Source) (l : List Byte) (rest : List (Source × List Byte)) (a : Ask) (n : Fin 6),
      Row s src l rest (0x7100 + n.val) 0x03 T a →
      ∃ z, exec (.retrain .head) s = .next (({ s := z } : Done).answer l a)
        ∧ z = (T.retrain n.val)
        ∧ ((T.port n.val).link ≠ 0 → (z.port n.val).link = 1 ∧ (z.port n.val).downCause = 4)
        ∧ ((T.port n.val).link = 0 → z = T))
  ∧ (∀ (s T : State) (src : Source) (l : List Byte) (rest : List (Source × List Byte)) (a : Ask) (n : Fin 6),
      Row s src l rest (0x7100 + n.val) 0x02 T a →
      ∃ z, exec (.linkEnableWrite .head) s = .next (({ s := z } : Done).answer l a)
        ∧ z = ((T.storeRaw (0x7100 + n.val) 0x02 a.value).linkEnable n.val (a.num == 1))
        ∧ (a.num = 1 → (T.port n.val).link = 0 → (z.port n.val).link = 2)
        ∧ (a.num ≠ 1 → (T.port n.val).link ≠ 0 → (z.port n.val).link = 0 ∧ (z.port n.val).downCause = 5))
  ∧ (∀ (s T : State) (src : Source) (l : List Byte) (rest : List (Source × List Byte)) (a : Ask) (n : Fin 64),
      Row s src l rest (0x7200 + n.val) 0x06 T a →
      T.openable n.val = true →
      exec (.openJob .head) s = .next (
        ({ s := (T.setJob n.val { state := 1 }).jobEvent n.val 0x01 } : Done).answer l a))
  ∧ (∀ (s T : State) (src : Source) (l : List Byte) (rest : List (Source × List Byte)) (a : Ask) (n : Fin 64),
      Row s src l rest (0x7200 + n.val) 0x07 T a →
      (T.job n.val).state = 1 →
      (T.part (T.jobPart n.val)).stepState = .idle ∨ (T.part (T.jobPart n.val)).stepState = .held →
      ∃ z, exec (.close .head) s = .next (({ s := z } : Done).answer l a)
        ∧ z = ((T.closeJob n.val).decideAlone (T.jobPart n.val))
        ∧ (z.job n.val).state = 2 ∧ (z.job n.val).closedAt = T.town)
  ∧ (∀ (s T : State) (src : Source) (l : List Byte) (rest : List (Source × List Byte)) (a : Ask) (m : TimeMode),
      Row s src l rest 0x3000 0x03 T a →
      a.num ≤ 6 ∨ a.num = 0xFF →
      m = (if a.num = 6 then .root else if a.num = 0xFF then .free else .acquiring) →
      ∃ z, exec (.timeParentWrite .head) s = .next (({ s := z } : Done).answer l a)
        ∧ z = ((({ T.storeRaw 0x3000 0x03 a.value with time := { (T.storeRaw 0x3000 0x03 a.value).time with
                   adjust := if m = TimeMode.acquiring then T.time.adjust else 0, slewLeft := 0, acqRun := 0, offRun := 0, stepDue := none, lastRecord := T.town } } : State).timeTo m 0))
        ∧ z.time.mode = m)
  ∧ (∀ (s T : State) (src : Source) (l : List Byte) (rest : List (Source × List Byte)) (a : Ask),
      Row s src l rest 0x3000 0x06 T a →
      exec (.utcSet .head) s = .next (
        ({ s := (({ T with time := { T.time with utc := some (a.num, (T.town : Int)) } } : State).logEvent { cls := 7, code := 2, detail := 0 }).bumpWhere [(true, 0x3000, 0x07), (!T.time.utc.isSome, 0x3000, 0x08)] } : Done).answer l a))
  ∧ (∀ (s T : State) (src : Source) (l : List Byte) (rest : List (Source × List Byte)) (a : Ask) (n : Fin 1024),
      Row s src l rest (0x8400 + n.val) 0x01 T a →
      a.num = 0 →
      exec (.qpStateWrite .head) s = .next (
        ({ s := ((if T.qpState n.val = 0 then T else T.setObj (0x8400 + n.val) 0x03 (natBytes 1 5)).storeRaw (0x8400 + n.val) 0x01 a.value).setQp n.val {} } : Done).answer l a))
  ∧ (∀ (s T : State) (src : Source) (l : List Byte) (rest : List (Source × List Byte)) (a : Ask) (n : Fin 1024),
      Row s src l rest (0x8400 + n.val) 0x01 T a →
      a.num = 1 →
      T.qpState n.val = 0 ∧ qpConfigOk (T.qpConfig n.val) = true →
      exec (.qpStateWrite .head) s = .next (
        ({ s := (T.storeRaw (0x8400 + n.val) 0x01 a.value).setQp n.val { psn := leAt (T.qpConfig n.val) 8 3, lastAt := T.town } } : Done).answer l a))
  ∧ (∀ (s T : State) (src : Source) (l : List Byte) (rest : List (Source × List Byte)) (a : Ask) (u : State),
      Row s src l rest 0x8100 0x02 T a →
      (pieces128 (T.obj 0x8100 0x01)).findSome? (T.fetchCause a) = none →
      T.fetchRuns = false →
      u = ({ T with fetch := (pieces128 (T.obj 0x8100 0x01)).map (fun b => { bytes := b }) } : State).bump 0x8100 0x03 →
      ∃ z, exec (.fetchStart .head) s = .next (({ s := z } : Done).answer l a)
        ∧ z = (((u.fetch.map feQp).eraseDups).foldl (fun s q => s.pumpQp q 16) u)
        ∧ z.fetch.map (fun e => e.bytes) = pieces128 (T.obj 0x8100 0x01))

/-- A request of these rows that passes the checks of R443, and the conditions of its own rule, has its effect and is answered: a write of RESET_CAUSE clears the bits it names; BLOCK_RESET resets the control state of blocks
that no partition holds, and CORE_RESET the cores named; ACTIVATE of a good slot notes its cause and begins; a chunk of a firmware slot that is not active is written to the card in its place; PERSIST and
UNPERSIST enter and remove a value, and CLEAR_RETIRED the records of blocks, each written to the store when it is due. -/
def Obligations.StartCommandsRun : Prop :=
  (∀ (s T : State) (src : Source) (l : List Byte) (rest : List (Source × List Byte)) (a : Ask),
      Row s src l rest 0x2000 0x01 T a →
      exec (.resetCauseWrite .head) s = .next (
        ({ s := T.storeRaw 0x2000 0x01 (natBytes 4 (T.objNat 0x2000 0x01 - (T.objNat 0x2000 0x01 &&& a.num))) } : Done).answer l a))
  ∧ (∀ (s T : State) (src : Source) (l : List Byte) (rest : List (Source × List Byte)) (a : Ask),
      Row s src l rest 0x2010 0x01 T a →
      (bitsSet 256 a.num).all (fun b => !(T.block b).retired && (T.partOf b).isNone) = true →
      exec (.blockReset .head) s = .next (
        ({ s := (bitsSet 256 a.num).foldl (fun (s : State) b => s.setBlock b (s.block b).reset) T } : Done).answer l a))
  ∧ (∀ (s T : State) (src : Source) (l : List Byte) (rest : List (Source × List Byte)) (a : Ask),
      Row s src l rest 0x2010 0x03 T a →
      a.num < 2 ^ 20 →
      ∃ z, exec (.coreReset .head) s = .next (({ s := z } : Done).answer l a)
        ∧ z = ((bitsSet 20 a.num).foldl (fun (s : State) k => s.resetCore k 1) T)
        ∧ ∀ k ∈ bitsSet 20 a.num, (z.core k).pc = 0 ∧ (z.core k).downTo = T.town + 200 * Config.ticksPerUs)
  ∧ (∀ (s T : State) (src : Source) (l : List Byte) (rest : List (Source × List Byte)) (a : Ask) (u : State),
      Row s src l rest 0x2100 0x04 T a →
      T.mayActivate = true →
      u = T.noteCause 2 →
      exec (.activate .head) s = .next (
        ({ s := if u.mode = .recovery then { u with mode := .starting, start := { u.start with coldDue := true, bootSlot := some (T.objNat 0x2100 0x03) } } else { u with start := { u.start with activating := true, bootSlot := some (T.objNat 0x2100 0x03) } } } : Done).answer l a))
  ∧ (∀ (s T : State) (src : Source) (l : List Byte) (rest : List (Source × List Byte)) (a : Ask) (v : List (Nat × List Byte)),
      Row s src l rest 0x2300 0x01 T a →
      a.value.length = 3 ∧ optionObject (leAt a.value 0 2) (leAt a.value 2 1) = true →
      v = T.start.values.filter (fun e => e.1 != persistKey a) ++ [(persistKey a, T.value (leAt a.value 0 2) (leAt a.value 2 1))] →
      storeFits v = true →
      exec (.persist .head) s = .next (
        ({ s := ({ T with start := { T.start with values := v, storeDue := true } } : State).bump 0x2300 0x03 } : Done).answer l a))
  ∧ (∀ (s T : State) (src : Source) (l : List Byte) (rest : List (Source × List Byte)) (a : Ask),
      Row s src l rest 0x2300 0x02 T a →
      a.value.length = 3 →
      T.start.values.any (fun e => e.1 == persistKey a) = true →
      exec (.unpersist .head) s = .next (
        ({ s := ({ T with start := { T.start with values := T.start.values.filter (fun e => e.1 != persistKey a), storeDue := true } } : State).bump 0x2300 0x03 } : Done).answer l a))
  ∧ (∀ (s T : State) (src : Source) (l : List Byte) (rest : List (Source × List Byte)) (a : Ask),
      Row s src l rest 0x2300 0x04 T a →
      exec (.clearRetired .head) s = .next (
        ({ s := { T with start := { T.start with retired := T.start.retired.filter (fun b => !(bitsSet 256 a.num).contains b), storeDue := true } } } : Done).answer l a))

/-- A request of these rows that passes the checks of R443, and the conditions of its own rule, has its effect and is answered: FREEZE triggers a freeze, FREEZE_AT and SNAPSHOT keep the town time named, 10 µs to 10 s ahead, and UNFREEZE
resumes; PARK parks a running part that is not busy, and WAKE wakes it; SESSION_OPEN of a source with room, whose proof holds, opens the lowest free session with the key agreed; SESSION_CLOSE closes the
session once answered; RELAY sends the message to an endpoint of the route table; and LOG_CLEAR empties the log. -/
def Obligations.PartCommandsRun : Prop :=
  (∀ (s T : State) (src : Source) (l : List Byte) (rest : List (Source × List Byte)) (a : Ask),
      Row s src l rest 0xB100 0x01 T a →
      T.startRuns = false →
      ∃ z, exec (.freeze .head) s = .next (({ s := z } : Done).answer l a)
        ∧ z = (T.trigger 2)
        ∧ (T.freeze.state = 0 → T.linked = true → z.freeze.state = 1 ∧ z.freeze.cause = 2 ∧ z.mode = .frozen)
        ∧ (T.freeze.state = 3 → z.freeze.again = 2))
  ∧ (∀ (s T : State) (src : Source) (l : List Byte) (rest : List (Source × List Byte)) (a : Ask),
      Row s src l rest 0xB100 0x02 T a →
      T.town + 10 * Config.ticksPerUs ≤ a.num ∧ a.num ≤ T.town + 10 * Config.ticksPerSecond →
      T.startRuns = false →
      exec (.freezeAt .head) s = .next (
        ({ s := { T with freeze := { T.freeze with timed := some a.num } } } : Done).answer l a))
  ∧ (∀ (s T : State) (src : Source) (l : List Byte) (rest : List (Source × List Byte)) (a : Ask),
      Row s src l rest 0xB100 0x03 T a →
      T.startRuns = false ∧ T.freeze.pin = false ∧ T.freeze.state ≠ 0 →
      ∃ z, exec (.unfreeze .head) s = .next (({ s := z } : Done).answer l a)
        ∧ z = (T.resumeFreeze)
        ∧ (T.freeze.state = 2 → z.freeze.state = 3)
        ∧ (T.freeze.state = 1 → z.freeze.resume = true))
  ∧ (∀ (s T : State) (src : Source) (l : List Byte) (rest : List (Source × List Byte)) (a : Ask),
      Row s src l rest 0x9F00 0x01 T a →
      T.town + 10 * Config.ticksPerUs ≤ a.num ∧ a.num ≤ T.town + 10 * Config.ticksPerSecond →
      T.snapshot.due = none →
      exec (.snapshot .head) s = .next (
        ({ s := ({ T with snapshot := { T.snapshot with due := some a.num } } : State).bump 0x9F00 0x02 } : Done).answer l a))
  ∧ (∀ (s T : State) (src : Source) (l : List Byte) (rest : List (Source × List Byte)) (a : Ask),
      Row s src l rest 0x3200 0x02 T a →
      T.mode = .running ∧ T.startRuns = false ∧ T.powerState = 1 ∧ T.busy = false →
      exec (.park .head) s = .next (
        ({ s := ((({ T with mode := .parked } : State).logPower 6 0 0).count 0x9E20 0x04 1).bump 0x3200 0x01 } : Done).answer l a))
  ∧ (∀ (s T : State) (src : Source) (l : List Byte) (rest : List (Source × List Byte)) (a : Ask) (r k np : List Byte) (i : Nat) (proof : Option (List Byte)),
      Row s src l rest 0xC020 0x01 T a →
      T.cdp.sessions.length < 64 ∧ T.sessionsOf a.src < a.src.limit →
      (T.cdp.openReqs.find? (fun e => e.1.same a.src)).map Prod.snd = some r →
      T.proofOf a.src (leAt r 0 1) (leAt r 1 1) = some proof ∧ openReqOk r proof.isSome = true →
      (∀ pk, proof = some pk → T.sigHolds pk r = true) →
      (T.mode = .recovery → leAt r 0 1 = 1) →
      i = freeSession T.cdp.sessions 64 1 ∧ np = natBytes 32 (T.draw 256).1.toNat →
      k = kmac256 (mlKemDecaps T.start.starts (slice r 36 1568)) (slice r 4 32 ++ np ++ r.take 2 ++ natBytes 2 i) 256 (ascii "CAETH-CDP-KEY") →
      exec (.sessionOpen .head) s = .next (
        ({ s := ((((T.draw 256).2.setSession i { source := a.src, role := leAt r 0 1, tenant := leAt r 1 1, key := k, lastAt := T.town }).count 0x9D00 0x05 1).logEvent
                   { cls := 12, code := 3, tenant := if leAt r 0 1 = 3 then some (leAt r 1 1) else none, detail := i }),
                 body := np ++ kmac256 k [] 256 (ascii "CAETH-CDP-CONFIRM"), opened := some i } : Done).answer l a))
  ∧ (∀ (s T : State) (src : Source) (l : List Byte) (rest : List (Source × List Byte)) (a : Ask),
      Row s src l rest 0xC020 0x03 T a →
      exec (.sessionClose .head) s = .next (
        ({ s := T, close := true } : Done).answer l a))
  ∧ (∀ (s T : State) (src : Source) (l : List Byte) (rest : List (Source × List Byte)) (a : Ask) (n r : Nat),
      Row s src l rest 0xC020 0x05 T a →
      slice a.value 2 2 = zeros 2 ∧ cLengthOk (a.value.drop 4) = true ∧ T.known (leAt a.value 0 2) = true →
      n = (T.egressFrom T.wholeTorus T.here (T.coordsOf (leAt a.value 0 2))).getD 6 →
      r = T.freeTag 65536 T.rtag →
      exec (.relay .head) s = .next (
        ({ s := ({ T with rtag := (r + 1) % 65536,
                          outstanding := T.outstanding.put r { port := n, epoch := (T.port n).txEpoch, at_ := T.town, session := a.sid, tid := a.tid } } : State).sendService
                 { type := 0x2C, dst := leAt a.value 0 2, src := 0, rtag := r, epoch := (T.port n).txEpoch } (asPayload (bytesWords ((a.value.drop 4).length / 32) (a.value.drop 4))) none } : Done).answer l a))
  ∧ (∀ (s T : State) (src : Source) (l : List Byte) (rest : List (Source × List Byte)) (a : Ask),
      Row s src l rest 0xA000 0x06 T a →
      exec (.logClear .head) s = .next (
        ({ s := ({ T with log := { T.log with first := T.log.next, records := [] } } : State).setCounter 0xA000 0x05 0 } : Done).answer l a))

/-- While the links act: a codeword of a port in LOCKED or UP that the FEC corrects brings its bytes to the parser, and one it cannot correct is counted, gives no bytes, and takes the port
DOWN (LOCK) once 32 of the last 64 are such; in TRAINING the run of clean codewords goes on or begins again. In UP, a packet of the port's RX_EPOCH gives its link-layer fields to the sender and, of a
sequenced type, is placed by its SEQ; a LINK_CTRL of it with no payload, whose SEQ is at most 2,048 ahead of E, renews the gaps. A TRAIN takes a port in UP DOWN (PARTNER_RESET); in LOCKED it names the partner,
and the port enters UP where its ECHO fields are this endpoint and port. -/
def Obligations.LinksReceive : Prop :=
  (∀ (n : Fin 6) (symbols : List (BitVec 9)) (s : State) (data : List Nat) (mended : Bool),
      272 ≤ symbols.length ∧ s.linked = true ∧ s.mode ≠ .frozen →
      3 ≤ (s.port n.val).link →
      rsDecode ((symbols.take 272).map BitVec.toNat) = some (data, mended) →
      ∃ t, t = (if mended then s.count (0x9700 + n.val) 0x03 1 else s) ∧
        exec (.codewordReceive n symbols) s = .next ((t.setPort n.val ((s.port n.val).step false (s.time.central / 2 ^ 24))).takeBytes n.val (s.port n.val).codewords (symbolBytes data)))
  ∧ (∀ (n : Fin 6) (symbols : List (BitVec 9)) (s : State) (x : Port),
      272 ≤ symbols.length ∧ s.linked = true ∧ s.mode ≠ .frozen →
      3 ≤ (s.port n.val).link →
      rsDecode ((symbols.take 272).map BitVec.toNat) = none →
      x = ((s.port n.val).lose (s.port n.val).codewords).step true (s.time.central / 2 ^ 24) →
      exec (.codewordReceive n symbols) s = .next (
        if (s.port n.val).link = 4 ∧ 32 ≤ (x.verdicts.filter id).length then ((s.portEvent n.val 0x04).setPort n.val x).leavePort n.val 1 2
        else (s.portEvent n.val 0x04).setPort n.val x))
  ∧ (∀ (n : Fin 6) (symbols : List (BitVec 9)) (s : State),
      272 ≤ symbols.length ∧ s.linked = true ∧ s.mode ≠ .frozen →
      (s.port n.val).link = 2 →
      (rsDecode ((symbols.take 272).map BitVec.toNat)).isSome = true →
      ∃ t, (t = s ∨ t = s.count (0x9700 + n.val) 0x03 1) ∧
        exec (.codewordReceive n symbols) s = .next (t.setPort n.val { s.port n.val with clean := (s.port n.val).clean + 1 }))
  ∧ (∀ (n : Fin 6) (p : Packet) (s t : State),
      s.takeRx n.val (fun p => p.type != 1 && p.type != 2) = some (p, t) →
      (t.port n.val).link = 4 ∧ p.epoch = (t.port n.val).rxEpoch ∧ 0x10 ≤ p.type ∧ p.type < 0x40 →
      exec (.packetReceive n) s = .next ((t.takeHeader n.val p).sequence n.val p))
  ∧ (∀ (n : Fin 6) (p : Packet) (s t : State),
      s.takeRx n.val (fun p => p.type == 1) = some (p, t) →
      (t.port n.val).link = 4 ∧ p.epoch = (t.port n.val).rxEpoch →
      p.len = 0 ∧ p.cls = 0 ∧ p.reservedOk = true →
      seqGap p.seq ((t.takeHeader n.val p).port n.val).expect ≤ 2048 →
      exec (.linkCtrl n) s = .next ((t.takeHeader n.val p).setPort n.val
        ({ (t.takeHeader n.val p).port n.val with ctrlSeq := p.seq }.regap (t.takeHeader n.val p).town)))
  ∧ (∀ (n : Fin 6) (p : Packet) (w : Word) (s t : State),
      s.takeRx n.val (fun p => p.type == 2) = some (p, t) →
      p.len ≤ 1 ∧ p.goodWord 0 = some w ∧ field w 16 8 = 1 ∧ field w 72 184 = 0 ∧ p.reservedOk = true ∧ p.cls = 0 →
      (t.port n.val).link = 4 →
      exec (.train n) s = .next (t.leavePort n.val 1 3))
  ∧ (∀ (n : Fin 6) (p : Packet) (w : Word) (s t u : State),
      s.takeRx n.val (fun p => p.type == 2) = some (p, t) →
      p.len ≤ 1 ∧ p.goodWord 0 = some w ∧ field w 16 8 = 1 ∧ field w 72 184 = 0 ∧ p.reservedOk = true ∧ p.cls = 0 →
      (t.port n.val).link = 3 →
      u = t.setPort n.val { t.port n.val with
      partner := field w 32 8 * 2 ^ 24 + field w 24 8 * 2 ^ 16 + field w 0 16,
      rxEpoch := if (t.port n.val).met then (t.port n.val).rxEpoch else field w 64 8, met := true } →
      exec (.train n) s = .next (if field w 48 16 = u.endpoint ∧ field w 40 8 = n.val then u.linkUp n.val else u))

/-- The packet at the head of port n's received packets is p, sequenced, and passes the checks of R306 in UP; u is the state once its link-layer fields are taken, x the port
then, and d the distance of its SEQ from E. -/
abbrev Sequenced (n : Nat) (p : Packet) (s u : State) (x : Port) (d : Nat) : Prop :=
  s.linked = true ∧ (s.port n).link = 4 ∧ (∃ k, (s.port n).rx.head? = some (k, p) ∧ k + s.fecCycles p ≤ s.now) ∧ u = (s.setPort n { s.port n with rx := (s.port n).rx.tail }).takeHeader n p ∧
  p.epoch = (s.port n).rxEpoch ∧ 0x10 ≤ p.type ∧ p.type < 0x40 ∧ x = u.port n ∧ d = (p.seq + 65536 - x.expect % 65536) % 65536

/-- R306. Of a sequenced packet in UP, of the port's RX_EPOCH, with d = (SEQ − E) mod 65,536: at d = 0 E advances past it, and past every held packet that is then in order, each of them delivered; from 1 to 2,047 it is held if its number is not,
and else dropped as a duplicate, as it is from 63,488 to 65,535, E and the buffer unchanged and an ACK called for; and from 2,048 to 63,487 it is dropped and counted in SEQ_VIOLATION, E and the buffer unchanged. -/
def Obligations.SequenceFollowsR306 : Prop :=
  (∀ (n : Fin 6) (p : Packet) (s u : State) (x : Port) (d : Nat),
      Sequenced n.val p s u x d →
      d = 0 ∧ x.held.find? ((x.expect + 1) % 65536) = none →
      ∃ t, exec (.packetReceive n) s = .next t ∧ (t.port n.val).expect = (x.expect + 1) % 65536 ∧ (t.port n.val).held = x.held ∧
        t.crossroads = ((u.setPort n.val { x with expect := (x.expect + 1) % 65536 }).deliverUp n.val p).crossroads)
  ∧ (∀ (n : Fin 6) (p q : Packet) (s u : State) (x : Port) (d : Nat),
      Sequenced n.val p s u x d →
      d = 0 ∧ x.held.find? ((x.expect + 1) % 65536) = some q ∧ x.held.find? ((x.expect + 2) % 65536) = none ∧ x.held.sorted = true →
      ∃ t, exec (.packetReceive n) s = .next t ∧ (t.port n.val).expect = (x.expect + 2) % 65536 ∧ (t.port n.val).held = x.held.del ((x.expect + 1) % 65536) ∧
        t.crossroads = (((u.setPort n.val { x with expect := (x.expect + 1) % 65536 }).deliverUp n.val p).deliverUp n.val q).crossroads)
  ∧ (∀ (n : Fin 6) (p : Packet) (s u : State) (x : Port) (d : Nat),
      Sequenced n.val p s u x d →
      1 ≤ d ∧ d ≤ 2047 ∧ x.held.find? p.seq = none →
      ∃ t, exec (.packetReceive n) s = .next t ∧ (t.port n.val).expect = x.expect ∧ (t.port n.val).held = x.held.put p.seq p ∧ t.crossroads = u.crossroads)
  ∧ (∀ (n : Fin 6) (p : Packet) (s u : State) (x : Port) (d : Nat),
      Sequenced n.val p s u x d →
      (1 ≤ d ∧ d ≤ 2047 ∧ (x.held.find? p.seq).isSome = true) ∨ (63488 ≤ d ∧ d ≤ 65535) →
      ∃ t, exec (.packetReceive n) s = .next t ∧ (t.port n.val).expect = x.expect ∧ (t.port n.val).held = x.held ∧ (t.port n.val).ctrlDue = true ∧
        t.crossroads = u.crossroads)
  ∧ (∀ (n : Fin 6) (p : Packet) (s u : State) (x : Port) (d : Nat),
      Sequenced n.val p s u x d →
      2048 ≤ d ∧ d ≤ 63487 →
      ∃ t, exec (.packetReceive n) s = .next t ∧ (t.port n.val).expect = x.expect ∧ (t.port n.val).held = x.held ∧ t.crossroads = u.crossroads ∧
        t.counters.get 0 (objKey (0x9700 + n.val) 0x0A) = (u.counters.get 0 (objKey (0x9700 + n.val) 0x0A) + 1) % 2 ^ 48)

/-- A slot that has not been served sends the first waiting retransmission that is still in the replay buffer; else, while the window is not full, the plan packet of the slot's claimed flow if it holds a credit, else a
service packet; else a LINK_CTRL if one is called for. With nothing waiting, a LINK_CTRL leaves when one is called for or 1 µs after the last packet; a gap 1 µs after its last request is requested again; all
unacknowledged packets are retransmitted 2 µs after U last moved, and every further 8 µs. In LOCKED, TRAIN is sent every 1 µs; and each stamped codeword keeps its index and the time it leaves. -/
def Obligations.LinksSend : Prop :=
  (∀ (n : Fin 6) (e : Sent) (s : State),
      s.linked = true ∧ (s.port n.val).link = 4 ∧ (s.port n.val).slot ≤ s.slotNow n.val →
      (s.port n.val).resend.head?.bind (fun q => (s.port n.val).replay.find? (fun e => e.seq == q)) = some e →
      exec (.egressSlot n) s = .next ((s.setPort n.val { s.port n.val with slot := s.slotNow n.val + 1 }).sendAgain n.val e))
  ∧ (∀ (n : Fin 6) (c : Candidate) (s t : State),
      s.linked = true ∧ (s.port n.val).link = 4 ∧ (s.port n.val).slot ≤ s.slotNow n.val →
      (s.port n.val).resend.head?.bind (fun q => (s.port n.val).replay.find? (fun e => e.seq == q)) = none ∧ (s.port n.val).windowFull = false →
      t = s.setPort n.val { s.port n.val with slot := s.slotNow n.val + 1 } →
      t.planPacket n.val (s.slotNow n.val % 960) = some c →
      exec (.egressSlot n) s = .next (t.sendNew n.val c))
  ∧ (∀ (n : Fin 6) (c : Candidate) (s t : State),
      s.linked = true ∧ (s.port n.val).link = 4 ∧ (s.port n.val).slot ≤ s.slotNow n.val →
      (s.port n.val).resend.head?.bind (fun q => (s.port n.val).replay.find? (fun e => e.seq == q)) = none ∧ (s.port n.val).windowFull = false →
      t = s.setPort n.val { s.port n.val with slot := s.slotNow n.val + 1 } →
      t.planPacket n.val (s.slotNow n.val % 960) = none ∧ t.servicePacket n.val = some c →
      exec (.egressSlot n) s = .next (t.sendNew n.val c))
  ∧ (∀ (n : Fin 6) (s : State),
      s.linked = true ∧ (s.port n.val).link = 4 ∧ (s.port n.val).resend.isEmpty = true ∧ (s.waitingFor n.val).isEmpty = true →
      (s.port n.val).callsCtrl = true ∨ (s.port n.val).sentAt + Config.ticksPerUs ≤ s.town →
      exec (.linkCtrlTimer n) s = .next (s.sendCtrl n.val))
  ∧ (∀ (n : Fin 6) (s : State) (late : Gap → Bool),
      s.linked = true ∧ (s.port n.val).link = 4 →
      late = (fun g => (g.asked.map (fun t => decide (t + Config.ticksPerUs ≤ s.town))).getD false) →
      (s.port n.val).gaps.any late = true →
      exec (.gapRerequest n) s = .next (s.setPort n.val { s.port n.val with ctrlDue := true, gaps := (s.port n.val).gaps.map (fun g => if late g then { g with asked := none } else g) }))
  ∧ (∀ (n : Fin 6) (s : State),
      s.linked = true ∧ (s.port n.val).link = 4 ∧ (s.port n.val).replay.isEmpty = false →
      ((s.port n.val).stalledAt.map (fun t => t + 8 * Config.ticksPerUs)).getD ((s.port n.val).unaSince + 2 * Config.ticksPerUs) ≤ s.town →
      exec (.stalledAckRetransmit n) s = .next (s.setPort n.val { s.port n.val with resend := (s.port n.val).replay.map Sent.seq, stalledAt := some s.town }))
  ∧ (∀ (n : Fin 6) (s : State),
      s.linked = true ∧ (s.port n.val).link = 3 ∧ (s.port n.val).trainAt + Config.ticksPerUs ≤ s.town →
      exec (.trainSend n) s = .next ((s.setPort n.val { s.port n.val with trainAt := s.town }).transmit n.val (s.trainPacket n.val).bytes))
  ∧ (∀ (n : Fin 6) (s t : State),
      s.linked = true ∧ 3 ≤ (s.port n.val).link →
      ((s.port n.val).txStamp.map (fun t => decide (t.1 < s.stampIndex n.val))).getD true = true →
      t = s.setPort n.val { s.port n.val with txStamp := some (s.stampIndex n.val, s.time.central / 2 ^ 24) } →
      exec (.stampedCodeword n) s = .next (if (s.port n.val).link = 4 then t.sendStamp n.val else t))

/-- A port 10 µs in DOWN begins its training; 64 clean codewords in TRAINING bring LOCKED, with TX_EPOCH advanced by one past 255 to 1 and the receiver begun anew; a training past its time (3 ms fast, 150 ms full)
goes DOWN (TRAINING_FAILED) and the next is full; 1 ms in LOCKED goes DOWN (TIMEOUT); and so does a port in UP with no good packet, with U unchanged while packets wait in its replay buffer, or with a gap open,
for its LINK_TIMEOUT. -/
def Obligations.LinkStatesFollowR313 : Prop :=
  (∀ (n : Fin 6) (s : State),
      s.linked = true ∧ (s.port n.val).link = 1 ∧ (s.port n.val).since + 10 * Config.ticksPerUs ≤ s.town →
      exec (.downWaitExpiry n) s = .next (s.setPort n.val { s.port n.val with
        link := 2, since := s.town, clean := 0, full := (s.port n.val).full || s.objNat (0x7100 + n.val) 0x0A == 1 }))
  ∧ (∀ (n : Fin 6) (s : State),
      s.linked = true ∧ (s.port n.val).link = 2 ∧ 64 ≤ (s.port n.val).clean →
      exec (.trainingLocked n) s = .next (s.setPort n.val { s.port n.val with
        link := 3, since := s.town, lockedAt := s.town, full := false, txEpoch := if (s.port n.val).txEpoch = 255 then 1 else (s.port n.val).txEpoch + 1,
        codewords := 0, verdicts := [], bytes := [], offset := 0, rx := [], stream := [], met := false, trainAt := s.town, txStamp := none, rxStamp := none }))
  ∧ (∀ (n : Fin 6) (s : State),
      s.linked = true ∧ (s.port n.val).link = 2 ∧ (s.port n.val).clean < 64 →
      (s.port n.val).since + (if (s.port n.val).full then 150 else 3) * Config.ticksPerMs ≤ s.town →
      ∃ t, exec (.trainingTimeout n) s = .next t ∧ t = s.leavePort n.val 1 6 ∧ (t.port n.val).link = 1 ∧ (t.port n.val).downCause = 6 ∧ (t.port n.val).full = true)
  ∧ (∀ (n : Fin 6) (s : State),
      s.linked = true ∧ (s.port n.val).link = 3 ∧ (s.port n.val).since + Config.ticksPerMs ≤ s.town →
      ∃ t, exec (.lockedTimeout n) s = .next t ∧ t = s.leavePort n.val 1 1 ∧ (t.port n.val).link = 1 ∧ (t.port n.val).downCause = 1)
  ∧ (∀ (n : Fin 6) (s : State) (limit : Nat),
      s.linked = true ∧ (s.port n.val).link = 4 →
      limit = s.objNat (0x7100 + n.val) 0x08 * Config.ticksPerUs →
      (s.port n.val).goodAt + limit ≤ s.town ∨ ((s.port n.val).replay.isEmpty = false ∧ (s.port n.val).unaSince + limit ≤ s.town) ∨
    (s.port n.val).gaps.any (fun g => decide (g.since + limit ≤ s.town)) = true →
      exec (.upTimeout n) s = .next (s.leavePort n.val 1 1))

/-- The oldest packet of an input buffer that has no route is delivered (with HOPS 0 at its destination), sent on with HOPS one less, or dropped and counted for its JOB, its bollard or its route, and its credit
falls due as it leaves the buffer; a packet that has waited 1 ms is discarded and counted in AGED; and a request with no response for RESP_TIMEOUT of its port ends with a synthetic completion. That a part decrements
HOPS as it sends a packet on is the model's reading (log 27). -/
def Obligations.PacketsRoute : Prop :=
  (∀ (i : Fin 7) (service : Bool) (vc : Fin 2) (s : State) (k j : Nat) (q : Queued),
      s.linked = true ∧ k = bufKey i.val (if service then 1 else 0) vc.val →
      (s.buffer k).findIdx? (fun q => q.out.isNone) = some j ∧ (s.buffer k)[j]? = some q →
      s.verdict i.val q.pkt = .deliver →
      ∃ t, t = (s.setBuffer k (replaceAt (s.buffer k) j none)).packetGone k q ∧
        exec (.packetRoute i service vc) s = .next ({ t with arrived := t.arrived ++ [(i.val, q.pkt)] }.count 0x9800 0x01 1))
  ∧ (∀ (i : Fin 7) (service : Bool) (vc : Fin 2) (s : State) (k j n v : Nat) (q : Queued),
      s.linked = true ∧ k = bufKey i.val (if service then 1 else 0) vc.val →
      (s.buffer k).findIdx? (fun q => q.out.isNone) = some j ∧ (s.buffer k)[j]? = some q →
      s.verdict i.val q.pkt = .forward n v →
      exec (.packetRoute i service vc) s = .next ((s.setBuffer k (replaceAt (s.buffer k) j (some { q with
        pkt := { q.pkt with header := setField (setField q.pkt.header 184 8 (q.pkt.hops - 1)) 14 1 v }, out := some n }))).count 0x9800 0x01 1))
  ∧ (∀ (i : Fin 7) (service : Bool) (vc : Fin 2) (s : State) (k j sub : Nat) (q : Queued),
      s.linked = true ∧ k = bufKey i.val (if service then 1 else 0) vc.val →
      (s.buffer k).findIdx? (fun q => q.out.isNone) = some j ∧ (s.buffer k)[j]? = some q →
      (s.verdict i.val q.pkt = .dropBollard ∧ sub = 2) ∨ (s.verdict i.val q.pkt = .dropRoute ∧ sub = 4) →
      exec (.packetRoute i service vc) s = .next (((s.setBuffer k (replaceAt (s.buffer k) j none)).packetGone k q).roadEvent sub q.pkt.job q.pkt.dst))
  ∧ (∀ (i : Fin 7) (service : Bool) (vc : Fin 2) (s : State) (k j : Nat) (q : Queued),
      s.linked = true ∧ k = bufKey i.val (if service then 1 else 0) vc.val →
      (s.buffer k).findIdx? (fun q => decide (q.at_ + Config.ticksPerMs ≤ s.town)) = some j ∧ (s.buffer k)[j]? = some q →
      exec (.agedDiscard i service vc) s = .next (((s.setBuffer k (replaceAt (s.buffer k) j none)).packetGone k q).count 0x9800 0x05 1))
  ∧ (∀ (rtag : BitVec 16) (s : State) (o : Outstanding),
      s.live = true →
      s.outstanding.find? rtag.toNat = some o ∧ o.at_ + s.objNat (0x7100 + o.port) 0x09 * Config.ticksPerUs ≤ s.town →
      exec (.respTimeout rtag) s = .next (({ s with
          outstanding := s.outstanding.del rtag.toNat,
          cdp := { s.cdp with notes := s.cdp.notes ++ [{ session := o.session, kind := 3, body := [], status := 7, tid := o.tid }] } } : State).count (0x9700 + o.port) 0x12 1))

/-- A DATA packet of an accepted job, from inside the box, of the parity of the step that runs and inside its handle, writes its words; FIRST makes the handle unready and LAST ready. A COLL_UP of a running collective
adds this position's elements, lowest first, and the sums go on up, or at the last position form the result that is written and turned down; a header goes on with the flags of both. A COLL_DOWN writes the words that
it brings and sends them on down, and the last of them ends the dimension. -/
def Obligations.FabricPacketsRun : Prop :=
  (∀ (s t u : State) (i j p : Nat) (e : BitVec 128) (pkt : Packet),
      s.takeType 0x10 = some (i, pkt, t) ∧ t.openSlot pkt.job = some j →
      p = t.jobPart j ∧ e = (if pkt.handle < 4096 then t.handle p pkt.handle else 0) →
      (decide (i < 6) && t.bollard (t.boxOf j) i) = false →
      (t.part p).stepState = .running ∧ pkt.flags / 4 % 2 = (t.part p).stepCount % 2 →
      hKind e = 3 ∧ pkt.woffset + pkt.len ≤ hSize e →
      u = (if pkt.flags % 2 = 1 then t.markTag p pkt.handle false 0 else t).receiveWords (hAddr e pkt.woffset) pkt.payload →
      exec .data s = .next (if pkt.flags / 2 % 2 = 1 then (u.markTag p pkt.handle true 0).lateReceive p else u))
  ∧ (∀ (s t : State) (pkt : Packet) (id j d f m : Nat) (c : Coll) (ws : List Word) (sums : List Nat),
      s.takeWave true = some (pkt, t) ∧ t.collRuns pkt = true ∧ t.collOf true pkt = some (id, c, d) ∧ t.openSlot pkt.job = some j →
      pkt.read = .ok ws ∧ c.agrees pkt ws = true ∧ pkt.flags / 8 % 2 = 0 →
      f = (collFormat c.header).getD 0 ∧ m = min (perPacket (c.op == 0) f) (c.count - c.got.length) →
      sums = List.zipWith (collCombine c.op f) ((c.elems.drop c.got.length).take m) (unpackPacket (c.op == 0) f m ws) →
      t.pos (t.boxOf j) d + 1 ≠ (t.boxOf j).extent d →
      exec .collUp s = .next ((t.setColl id { c with got := c.got ++ sums, upDone := (c.got ++ sums).length == c.count }).sendWave
        { c with got := c.got ++ sums } d true false (packPacket (c.op == 0) f sums)))
  ∧ (∀ (s t : State) (pkt : Packet) (id j d : Nat) (c : Coll) (ws : List Word) (h : Word),
      s.takeWave true = some (pkt, t) ∧ t.collRuns pkt = true ∧ t.collOf true pkt = some (id, c, d) ∧ t.openSlot pkt.job = some j →
      pkt.read = .ok ws ∧ c.agrees pkt ws = true ∧ pkt.flags / 8 % 2 = 1 →
      h = withFlags c.header (headFlags c.header ||| headFlags (ws.headD 0)) →
      exec .collUp s = .next (if t.pos (t.boxOf j) d + 1 = (t.boxOf j).extent d then t.setColl id { c with gotHead := some h }
        else (t.setColl id { c with gotHead := some h }).sendWave c d true true [h]))
  ∧ (∀ (s t u : State) (pkt : Packet) (id j d f m : Nat) (c c' : Coll) (ws : List Word) (sums : List Nat),
      s.takeWave true = some (pkt, t) ∧ t.collRuns pkt = true ∧ t.collOf true pkt = some (id, c, d) ∧ t.openSlot pkt.job = some j →
      pkt.read = .ok ws ∧ c.agrees pkt ws = true ∧ pkt.flags / 8 % 2 = 0 →
      f = (collFormat c.header).getD 0 ∧ m = min (perPacket (c.op == 0) f) (c.count - c.got.length) →
      sums = List.zipWith (collCombine c.op f) ((c.elems.drop c.got.length).take m) (unpackPacket (c.op == 0) f m ws) →
      t.pos (t.boxOf j) d + 1 = (t.boxOf j).extent d ∧ c.count ≤ (c.got ++ sums).length →
      (collResult c.op f (c.got ++ sums)).2.2 = false ∨ t.accFail c.part = false →
      c' = { c with
      header := withFlags (c.gotHead.getD c.header) (headFlags (c.gotHead.getD c.header) ||| (collResult c.op f (c.got ++ sums)).2.1)
      elems := (collResult c.op f (c.got ++ sums)).1, dims := c.dims.tail, got := [], gotHead := none, upDone := false } →
      u = (t.writeWords ((addrs c.dst (resultWords c'.header c'.elems).length).zip (resultWords c'.header c'.elems))).setColl id c' →
      exec .collUp s = .next (((u.sendWave c' d false true [c'.header]).sendElems c' d false c'.elems).startDim id 4))
  ∧ (∀ (s t u : State) (pkt : Packet) (id j d : Nat) (c : Coll) (ws : List Word),
      s.takeWave false = some (pkt, t) ∧ t.collRuns pkt = true ∧ t.collOf false pkt = some (id, c, d) ∧ t.openSlot pkt.job = some j →
      pkt.read = .ok ws ∧ c.agrees pkt ws = true ∧ pkt.flags / 8 % 2 = 1 →
      u = (if (collFormat c.header).getD 0 = 2 then t else t.writeWords [(c.dst, withFlags (ws.headD 0) (headFlags (ws.headD 0)))]).setColl id
      { c with gotHead := some (withFlags (ws.headD 0) (headFlags (ws.headD 0))), got := [] } →
      exec .collDown s = .next (if u.pos (u.boxOf j) d = 0 then u else u.sendWave c d false true ws))
  ∧ (∀ (s t u : State) (pkt : Packet) (id j d f m w : Nat) (c : Coll) (ws : List Word) (got : List Nat),
      s.takeWave false = some (pkt, t) ∧ t.collRuns pkt = true ∧ t.collOf false pkt = some (id, c, d) ∧ t.openSlot pkt.job = some j →
      pkt.read = .ok ws ∧ c.agrees pkt ws = true ∧ pkt.flags / 8 % 2 = 0 →
      f = (collFormat c.header).getD 0 ∧ m = min (perPacket false f) (c.count - c.got.length) ∧ got = c.got ++ unpackPacket false f m ws →
      w = c.dst + (if f = 2 then 0 else 1) + c.got.length / (256 / collBits f) →
      u = t.writeWords ((addrs w (ceilDiv m (256 / collBits f))).zip ws) →
      exec .collDown s = .next (
        let v := if u.pos (u.boxOf j) d = 0 then u else u.sendWave c d false false ws
        if got.length < c.count then v.setColl id { c with got := got }
        else (v.setColl id { c with header := c.gotHead.getD c.header, elems := got, dims := c.dims.tail, got := [], gotHead := none, upDone := false }).startDim id 4))

/-- A NOTICE or a DECIDE that is new is marked as seen, forwarded and counted; the partition of its job learns the notice, or accepts a DECIDE of a round not lower from a coordinator it does not suspect, and
sends again the notices the decision leaves out. The coordinator issues its decision 1,000 µs after its first notice; a member commits 500 µs after it accepted. At a commit that makes a partition live again
its spare changes blocks, plans, handles and allocations with it. -/
def Obligations.FaultAgreementRuns : Prop :=
  (∀ (s t u : State) (i : Nat) (pkt : Packet) (w : Word),
      s.takeType 0x20 = some (i, pkt, t) ∧ pkt.goodWord 0 = some w →
      u = (if t.seenNotices.contains (nIdentity w) then t
      else (({ t with seenNotices := nIdentity w :: t.seenNotices } : State).flood (nJob w) 0x20 [w] i).count 0x9B00 0x02 1) →
      exec .noticeReceive s = .next (match u.openSlot (nJob w) with
        | none => u
        | some j => u.learn (u.jobPart j) j w true))
  ∧ (∀ (p : Fin 64) (s : State) (j t : Nat),
      s.live = true ∧ s.agrees p.val = some j ∧ (s.part p.val).episode.since = some t →
      t + 1000 * Config.ticksPerUs ≤ s.town ∧ (s.part p.val).episode.decided = false ∧ s.coordinates j (s.part p.val).episode.notices = true →
      exec (.coordinatorDecide p) s = .next (s.issueDecision p.val j (match (s.part p.val).episode.accepted with
        | some d => dcRound d.1 + 1
        | none => 0)))
  ∧ (∀ (s t u : State) (i j : Nat) (pkt : Packet) (w v : Word),
      s.takeType 0x21 = some (i, pkt, t) ∧ pkt.goodWord 0 = some w ∧ pkt.goodWord 1 = some v →
      u = (if t.seenNotices.contains (dcIdentity w) then t
      else (({ t with seenNotices := dcIdentity w :: t.seenNotices } : State).flood (dcJob w) 0x21 [w, v] i).count 0x9B00 0x02 1) →
      u.openSlot (dcJob w) = some j →
      ((u.part (u.jobPart j)).episode.accepted.map (fun d => dcRound d.1)).getD 0 ≤ dcRound w ∧ (suspects (u.part (u.jobPart j)).episode.notices).contains (dcCoordinator w) = false →
      exec .decideReceive s = .next (((u.part (u.jobPart j)).episode.notices.filter (unaccounted (w, v))).foldl
        (fun (s : State) n => s.flood (s.jobTag j) 0x20 [BitVec.ofNat 256 (n.toNat - place 40 8 (field n 40 8) + place 40 8 (dcRound w))] 7)
        (u.setEpisode (u.jobPart j) { (u.part (u.jobPart j)).episode with accepted := some (w, v), acceptedAt := if (u.part (u.jobPart j)).episode.accepted.map (fun d => dcRound d.1) = some (dcRound w) then (u.part (u.jobPart j)).episode.acceptedAt else u.town, since := some ((u.part (u.jobPart j)).episode.since.getD u.town) })))
  ∧ (∀ (p : Fin 64) (s : State) (j : Nat) (d : Word × Word),
      s.live = true →
      (s.part p.val).episode.accepted = some d ∧ s.agrees p.val = some j ∧ (s.part p.val).episode.acceptedAt + 500 * Config.ticksPerUs ≤ s.town →
      ∃ z, exec (.faultCommit p) s = .next z ∧ z = (s.commit p.val d)
        ∧ z.obj (0x4000 + p.val) 0x17 = natBytes 64 (faultReport s.town d))
  ∧ (∀ (p : Fin 64) (s : State) (f : Failure) (d : Word × Word),
      s.live = true →
      (s.part p.val).episode.accepted = some d ∧ s.agrees p.val = none ∧ (s.part p.val).failure = some f ∧ f.closed = true →
      ∃ z, exec (.faultCommit p) s = .next z ∧ z = (s.commit p.val d)
        ∧ z.obj (0x4000 + p.val) 0x17 = natBytes 64 (faultReport s.town d))
  ∧ (∀ (p : Fin 64) (s : State) (sp : Nat),
      s.live = true ∧ (s.part p.val).exchange = true ∧ (s.part p.val).stepState ≠ .fenced ∧ (s.part p.val).stepState ≠ .running →
      sp = s.objNat (0x4000 + p.val) 0x0F ∧ sp < 64 ∧ sp ≠ p.val →
      ∃ t, exec (.spareExchange p) s = .next t ∧
        (t.part p.val).blockMap = (s.part sp).blockMap ∧ (t.part sp).blockMap = (s.part p.val).blockMap ∧
        (t.part p.val).plans = (s.part sp).plans ∧ (t.part sp).plans = (s.part p.val).plans ∧
        (t.part p.val).handles = (s.part sp).handles ∧ (t.part sp).handles = (s.part p.val).handles ∧
        (t.part p.val).exchange = false ∧ (t.part sp).takenOut = s.jobOf p.val ∧
        t.mem = s.mem)

/-- When a checkpoint is due the list of the next step's parity goes to the mirror, slice by slice, the last with LAST. The mirror writes what fits behind what it has and answers the last packet with a CKPT_SEAL, refused where it did
not fit; a seal that accepts counts the time it took, and one that refuses originates a notice; and so does a checkpoint of handles in tiers without a DMA_KEY that holds (DEDUCED, log 96). RESTORE_DATA writes its words into the handle of the partition being restored, and RESTORE_DONE ends its restore. -/
def Obligations.MirrorRuns : Prop :=
  (∀ (p : Fin 64) (s v t : State) (q : Nat) (parts : List (Nat × Nat × List Stored)),
      s.live = true ∧ s.ckptDue p.val = true ∧ q = ((s.part p.val).stepCount + 1) % 2 →
      (s.ckptTiers p.val q).all (fun e => s.ownerMoves p.val (hAddr e 0)) = true ∧ (s.ckptTiers p.val q = [] ∨ s.ownerKeyOk p.val = true) →
      parts = (s.ckptList p.val q).flatMap (fun h => let l := s.handleWords p.val h; (sliceWords l.length 0 l).map (fun e => (h, e))) →
      v = s.setPart p.val { s.part p.val with ckptSent := true, ckptSince := s.town, ckptSealed := parts.isEmpty } →
      t = (v.ckptList p.val q).foldl (fun (s : State) h => s.serviceRead p.val (hAddr (s.handle p.val h) 0) (hSize (s.handle p.val h))) v →
      ∃ z, exec (.checkpointSend p) s = .next z ∧ (z.part p.val).ckptSent = true ∧ (z.part p.val).ckptSince = s.town ∧ (z.part p.val).ckptSealed = parts.isEmpty
        ∧ z = t.sendPackets (parts.zipIdx.map (fun ((h, off, l), i) =>
        ({ type := 0x22, dst := s.mirrorOf p.val, src := t.endpoint, hops := t.hopsTo t.wholeTorus (t.coordsOf (s.mirrorOf p.val)), handle := h, woffset := off,
           flags := 4 * q + (if i + 1 = parts.length then 2 else 0) } : Heading).packet l)) none (some (s.part p.val).owner))
  ∧ (∀ (p : Fin 64) (s : State) (q : Nat),
      s.live = true ∧ s.ckptDue p.val = true ∧ q = ((s.part p.val).stepCount + 1) % 2 →
      (s.ckptTiers p.val q).all (fun e => s.ownerMoves p.val (hAddr e 0)) = true →
      s.ckptTiers p.val q ≠ [] ∧ s.ownerKeyOk p.val = false →
      exec (.checkpointSend p) s = .next (s.originate p.val 7 Status.rights.code 0xFF false))
  ∧ (∀ (s t u : State) (i m q : Nat) (pkt : Packet) (l : List (Nat × Nat × Nat)) (x y : Part) (words : Nat),
      s.takeType 0x22 = some (i, pkt, t) ∧ t.mirrorFor pkt.src = some m ∧ q = pkt.flags / 4 % 2 →
      x = (if (t.part m).mirrorOpen then t.part m else if q = 0 then { t.part m with mirror0 := [], mirrorBad := false } else { t.part m with mirror1 := [], mirrorBad := false }) →
      l = (if q = 0 then x.mirror0 else x.mirror1) ∧ words = (l.map (fun e => e.2.2)).foldl (· + ·) 0 →
      words + pkt.payload.length ≤ (t.mirrorHalf m q).2 ∧ x.mirrorBad = false ∧ t.ownerKeyOk m = true ∧ t.ownerMoves m (t.mirrorHalf m q).1 = true →
      u = (t.putWords (t.objNat (0x4100 + x.owner) 0x05) ((t.mirrorHalf m q).1 + words) pkt.payload).serviceMove (some x.owner) ((t.mirrorHalf m q).1 + words) pkt.payload.length →
      y = (if q = 0 then { x with mirror0 := l ++ [(pkt.handle, pkt.woffset, pkt.payload.length)], mirrorOpen := decide (pkt.flags / 2 % 2 ≠ 1) }
     else { x with mirror1 := l ++ [(pkt.handle, pkt.woffset, pkt.payload.length)], mirrorOpen := decide (pkt.flags / 2 % 2 ≠ 1) }) →
      ∃ z, exec .ckptData s = .next z ∧ z.part m = y ∧ z = (if pkt.flags / 2 % 2 = 1 then
          (u.setPart m y).sendService { type := 0x23, dst := pkt.src, src := 0 } (asPayload [BitVec.ofNat 256 (place 0 64 (x.stepCount + 1) ||| place 64 8 0)]) (some x.owner)
        else u.setPart m y))
  ∧ (∀ (s t : State) (i m q : Nat) (pkt : Packet) (l : List (Nat × Nat × Nat)) (x : Part),
      s.takeType 0x22 = some (i, pkt, t) ∧ t.mirrorFor pkt.src = some m ∧ q = pkt.flags / 4 % 2 ∧ pkt.flags / 2 % 2 = 1 →
      x = (if (t.part m).mirrorOpen then t.part m else if q = 0 then { t.part m with mirror0 := [], mirrorBad := false } else { t.part m with mirror1 := [], mirrorBad := false }) →
      l = (if q = 0 then x.mirror0 else x.mirror1) →
      (t.mirrorHalf m q).2 < (l.map (fun e => e.2.2)).foldl (· + ·) 0 + pkt.payload.length ∨ x.mirrorBad = true ∨ t.ownerKeyOk m = false →
      exec .ckptData s = .next ((t.setPart m { x with mirrorBad := true, mirrorOpen := false }).sendService { type := 0x23, dst := pkt.src, src := 0 }
        (asPayload [BitVec.ofNat 256 (place 0 64 (x.stepCount + 1) ||| place 64 8 1)]) (some x.owner)))
  ∧ (∀ (s t : State) (i p : Nat) (pkt : Packet) (w : Word),
      s.takeType 0x23 = some (i, pkt, t) ∧ t.waitsOn pkt.src (fun x => x.ckptSent && !x.ckptSealed) = some p →
      pkt.goodWord 0 = some w ∧ field w 64 8 = 0 →
      exec .ckptSeal s = .next ((t.setPart p { t.part p with ckptSealed := true }).count (0x9100 + p) 0x13 ((t.town - (t.part p).ckptSince) / Config.ticksPerUs)))
  ∧ (∀ (s t : State) (i p : Nat) (pkt : Packet) (w : Word),
      s.takeType 0x23 = some (i, pkt, t) ∧ t.waitsOn pkt.src (fun x => x.ckptSent && !x.ckptSealed) = some p →
      pkt.goodWord 0 = some w ∧ field w 64 8 ≠ 0 →
      exec .ckptSeal s = .next (t.originate p 7 Status.fault.code 0xFF false))
  ∧ (∀ (s t : State) (i p a : Nat) (pkt : Packet),
      s.takeType 0x24 = some (i, pkt, t) ∧ t.waitsOn pkt.src (fun x => x.restoring && !x.exchange) = some p →
      hKind (t.handle p pkt.handle) ≠ 0 ∧ pkt.woffset + pkt.payload.length ≤ hSize (t.handle p pkt.handle) ∧ a = hAddr (t.handle p pkt.handle) pkt.woffset →
      ((hKind (t.handle p pkt.handle) = 2 → t.ownerKeyOk p = true) ∧ t.ownerMoves p a = true) →
      exec .restoreData s = .next (
        let u := t.putWords (t.objNat (0x4100 + (t.part p).owner) 0x05) a pkt.payload
        if hKind (t.handle p pkt.handle) = 2 then u.serviceMove (some (t.part p).owner) a pkt.payload.length else u))
  ∧ (∀ (s t : State) (i p : Nat) (pkt : Packet),
      s.takeType 0x25 = some (i, pkt, t) ∧ t.waitsOn pkt.src (fun x => x.restoring && !x.exchange) = some p →
      exec .restoreDone s = .next (t.setPart p { t.part p with restoring := false }))

/-- R436. A tagged request of an open session whose TID and COUNT are those of a stored reply is not queued: the stored reply goes to its source. Any other whose COUNT is not above the last accepted one is not queued either: it is refused
with STALE. The replies stored are those of the session's last 8 answered requests. -/
def Obligations.ReplaysAnswerOnce : Prop :=
  (∀ (s : State) (src : Source) (l : List Byte) (x : Session) (e : Nat × Nat × List Byte),
      cLengthOk l = true ∧ s.sessionOf src l = some x ∧ tagHolds (some x.key) l = true →
      x.replies.find? (fun e => e.1 == cTid l && e.2.1 == cCount l) = some e →
      s.arrive src l = (s.setSession (cSession l) { x with authFails := 0 }).deliverReply src e.2.2 ∧ (s.arrive src l).cdp.queue = s.cdp.queue)
  ∧ (∀ (s : State) (src : Source) (l : List Byte) (x : Session),
      cLengthOk l = true ∧ s.sessionOf src l = some x ∧ tagHolds (some x.key) l = true →
      x.replies.find? (fun e => e.1 == cTid l && e.2.1 == cCount l) = none →
      cCount l ≤ x.lastCount →
      s.arrive src l = (s.setSession (cSession l) { x with authFails := 0 }).refuseEarly src l 0x0A ∧ (s.arrive src l).cdp.queue = s.cdp.queue)
  ∧ (∀ (s : State) (src : Source) (l : List Byte) (status : Nat) (a : Answer) (x : Session),
      s.sessionOf src l = some x →
      ∃ y m, (s.replyTo src l status a true).cdp.sessions.find? (cSession l) = some y ∧
        y.replies = (x.replies ++ [(cTid l, cCount l, m)]).drop (x.replies.length + 1 - 8))

/-- A request of an object without a row of its own that passes the checks of R443, and whose act succeeds, is answered with what the act leaves: a READ with the object's value and nothing else changed, a WRITE with the value written
at once or waiting for its partition's step start. A chunk in order is staged, and the last submits the whole value. LOG_WINDOW gives up to 14 records from LOG_SELECT on and moves past them; THERMAL_STATUS clears the alert; a
chunk of a firmware slot goes to the card; and WAKE, by request or by a trigger that is due, wakes a parked part. A frame that brings a request to an empty queue is executed as it arrives. -/
def Obligations.DictionaryRequestsRun : Prop :=
  (∀ (s T : State) (src : Source) (l : List Byte) (rest : List (Source × List Byte)) (a : Ask) (i u : Nat) (d : Done),
      Row s src l rest i u T a →
      ownRow (cMsg l) i u = false →
      actAny T a = .ok d →
      exec (.write .head) s = .next (d.answer l a))
  ∧ (∀ (T : State) (a : Ask) (p : Nat) (e : ObjEntry),
      a.reads = false ∧ rowAct a.index a.sub = none ∧ ¬ (a.index = 0xC020 ∧ a.sub = 0x02) →
      T.writeCause a = none ∧ objectAt a.index a.sub = some e ∧ partObject a.index = some p →
      actAny T a = .ok { s := if e.access = .rwb then T.putWait p a.index a.sub a.value else T.writeNow a })
  ∧ (∀ (s T : State) (src : Source) (l : List Byte) (rest : List (Source × List Byte)) (a : Ask) (i u : Nat) (v : List Byte),
      Commanded s src l rest i u ∧ cMsg l = 1 ∧ T = Taken s rest ∧ a = T.askOf src l →
      ownRow 1 i u = false →
      T.readValue a = .ok v ∧ v.length ≤ 448 →
      exec (.write .head) s = .next (({ s := T, body := v } : Done).answer l a))
  ∧ (∀ (s t : State) (mac : BitVec 48) (bytes : List Byte),
      s.cdpRuns = true ∧ s.cdp.queue = [] ∧ s.arrived = [] →
      t = s.arrive (.frame mac.toNat) bytes ∧ t.arrived = [] ∧ t.cdpRuns = true →
      exec (.write (.frame mac bytes)) s = exec (.write .head) t)
  ∧ (∀ (s T : State) (src : Source) (l : List Byte) (rest : List (Source × List Byte)) (a : Ask) (had : List Byte),
      s.cdpRuns = true ∧ s.arrived = [] ∧ s.cdp.queue = (src, l) :: rest ∧ (cSession l = 0 ∨ (s.sessionOf src l).isSome = true) →
      cMsg l = 5 ∧ slotImage (cIndex l) (cSub l) = false ∧ T = Taken s rest ∧ a = T.askOf src l →
      (T.stagingOf a.src a.sid).all (fun g => g.key == objKey a.index a.sub) = true ∧ had = ((T.stagingOf a.src a.sid).map Staging.bytes).getD [] →
      (T.stagingOf a.src a.sid).isSome = true ∨ T.stagings < 4 →
      T.objectCause a a.value.length false = none →
      a.offset = had.length ∧ (had ++ a.value).length ≤ 262144 ∧ a.last = false →
      ∃ t, t = T.setStaging a.src a.sid (some { key := objKey a.index a.sub, bytes := had ++ a.value, at_ := T.town }) ∧
        exec (.writeBlock .head) s = .next (t.replyTo a.src l cdpOk { t.answerAbout a.index a.sub with offset := a.offset } true))
  ∧ (∀ (s T : State) (src : Source) (l : List Byte) (rest : List (Source × List Byte)) (a : Ask) (i u : Nat) (d : Done),
      Completed s src l rest i u T a →
      actAny T a = .ok d →
      exec (.writeBlock .head) s = .next (d.answer l a))
  ∧ (∀ (s T : State) (src : Source) (l : List Byte) (rest : List (Source × List Byte)) (a : Ask) (v : List Byte),
      Commanded s src l rest 0x3230 0x01 ∧ cMsg l = 1 ∧ T = Taken s rest ∧ a = T.askOf src l →
      T.readValue a = .ok v ∧ v.length ≤ 448 →
      exec (.thermalStatusRead .head) s = .next (({
        s := if T.power.alert then ({ T with power := { T.power with alert := false } } : State).emit (.land "ALERT_N" true) else T, body := v } : Done).answer l a))
  ∧ (∀ (s T : State) (src : Source) (l : List Byte) (rest : List (Source × List Byte)) (a : Ask) (v : List Byte) (x : Session) (from_ : Nat) (recs : List Word),
      Commanded s src l rest 0xA000 0x04 ∧ cMsg l = 1 ∧ T = Taken s rest ∧ a = T.askOf src l →
      T.readValue a = .ok v ∧ v.length ≤ 448 →
      T.cdp.sessions.find? a.sid = some x ∧ x.logSelect ≠ T.log.next % 2 ^ 32 ∧ precedes 32 T.log.next x.logSelect = false →
      from_ = (if precedes 32 x.logSelect T.log.first then T.log.first else T.log.next - (T.log.next + 2 ^ 32 - x.logSelect) % 2 ^ 32) →
      recs = ((List.range 14).map (fun i => from_ + i)).filterMap (fun i => T.log.records.find? i) →
      exec (.logWindow .head) s = .next (({
        s := T.setSession a.sid { x with logSelect := (from_ + recs.length) % 2 ^ 32 }, body := recs.flatMap wordBytes } : Done).answer l a))
  ∧ (∀ (s T : State) (src : Source) (l : List Byte) (rest : List (Source × List Byte)) (a : Ask) (i u k : Nat) (c : CardImage) (had all : List Byte),
      Row s src l rest i u T a →
      slotImage i u = true ∧ cMsg l = 2 ∧ k = u - 0x10 →
      T.card = some c ∧ c.active.val ≠ k →
      had = (if a.offset = 0 then [] else (cardSlot c k).writing) ∧ all = had ++ a.value ∧ a.offset = had.length ∧ all.length ≤ 50331648 →
      exec (.firmwareSlotWrite .head) s = .next (({ s := T.writeCard (setCardSlot c k (if a.last
          then { state := .unchecked, image := some (imageOf all), writing := [], digest := (cardSlot c k).digest }
          else { state := .unchecked, image := none, writing := all, digest := (cardSlot c k).digest })) "slot" } : Done).answer l a))
  ∧ (∀ (s T : State) (src : Source) (l : List Byte) (rest : List (Source × List Byte)) (a : Ask),
      Row s src l rest 0x3200 0x03 T a →
      exec (.wake (.command .head)) s = .next (({ s := T.wakeUp } : Done).answer l a))
  ∧ (∀ (w : WakeTrigger) (s : State),
      s.wakeDue w = true ∧ s.mode = .parked →
      ∃ z, exec (.wake w) s = .next z ∧ z = s.wakeUp
        ∧ z.mode = .running)

/-- MB_DOORBELL on a function that is not busy submits the bytes of its REQ area; MB_ACK clears what it names and moves the NOTE area on. A session 300 s without an accepted request closes; a staging with no chunk for 10 s is discarded; the
next NOTIFY goes to its session, tagged with its key and count; a RELAY_REPLY that matches an outstanding request ends it and goes to the relaying session. A quote over the nonce written is formed; every 1 µs of town time the buckets of the
tenants refill; and a job closes 250 ms after CLOSE. A message that is no good TIMESTAMP is dropped and counted, and a reply that fits no body told as BUSY, is the model's choice (log 32). -/
def Obligations.SessionEventsRun : Prop :=
  (∀ (f : FnId) (value : BitVec 64) (s : State),
      s.cdpRuns = true ∧ (s.fn f).reqBusy = false →
      exec (.mbDoorbell f value) s = .next ((s.setFn f { s.fn f with reqBusy := true }).arrive (.mailbox f) ((List.range (field value 0 10)).map (fun i => (s.fn f).req.get 0 i))))
  ∧ (∀ (f : FnId) (value : BitVec 64) (s : State),
      s.cdpRuns = true ∧ (s.fn f).reqBusy = true →
      exec (.mbDoorbell f value) s = .next (s.setFn f { s.fn f with mbOverrun := true }))
  ∧ (∀ (f : FnId) (value : BitVec 64) (s : State) (x : Fn),
      s.cdpRuns = true →
      x = { s.fn f with
      reqBusy := (s.fn f).reqBusy && !bitAt value 0, respReady := (s.fn f).respReady && !bitAt value 0
      notes := if bitAt value 1 then (s.fn f).notes.tail else (s.fn f).notes
      noteLost := (s.fn f).noteLost && !bitAt value 3, mbOverrun := (s.fn f).mbOverrun && !bitAt value 4 } →
      exec (.mbAck f value) s = .next (if bitAt value 1 ∧ 2 ≤ (s.fn f).notes.length then (s.setFn f x).emit (.msix f 1) else s.setFn f x))
  ∧ (∀ (sid : Fin 65536) (s : State) (x : Session),
      s.cdpRuns = true →
      s.cdp.sessions.find? sid.val = some x ∧ x.lastAt + 300 * Config.ticksPerSecond ≤ s.town →
      exec (.sessionIdleTimeout sid) s = .next (s.closeSession sid.val true))
  ∧ (∀ (sid : Fin 65536) (s : State) (x : Session) (g : Staging),
      s.cdpRuns = true ∧ sid.val ≠ 0 →
      s.cdp.sessions.find? sid.val = some x ∧ x.staging = some g ∧ g.at_ + 10 * Config.ticksPerSecond ≤ s.town →
      exec (.stagingTimeout sid) s = .next (s.setSession sid.val { x with staging := none }))
  ∧ (∀ (s : State),
      s.cdpRuns = true →
      exec (.stagingTimeout 0) s = .next { s with cdp := { s.cdp with stage0 := s.cdp.stage0.filter (fun e => decide (s.town < e.2.at_ + 10 * Config.ticksPerSecond)) } })
  ∧ (∀ (s : State) (e : Note) (l : List Note) (x : Session),
      s.cdpRuns = true →
      s.cdp.notes = e :: l ∧ s.cdp.sessions.find? e.session = some x →
      exec (.notify false) s = .next ((({ s with cdp := { s.cdp with notes := l } } : State).setSession e.session { x with outCount := (x.outCount + 1) % 2 ^ 32 }).deliverNote x.source
        (noteMessage e.session ((x.outCount + 1) % 2 ^ 32) e.kind e.status e.tid x.key e.body)))
  ∧ (∀ (s : State) (e : Nat × Packet),
      s.cdpRuns = true →
      s.linkPacket = some e ∧ s.isStamp e = false →
      exec (.notify true) s = .next (({ s with arrived := s.arrived.erase e } : State).count 0x9D00 0x03 1))
  ∧ (∀ (s t : State) (n : Nat) (p : Packet) (o : Outstanding) (m : List Byte),
      s.cdpRuns = true →
      s.takeArrived (fun p => p.type == 0x2D) = some (n, p, t) ∧ t.outstanding.find? p.rtag = some o ∧ o.epoch = p.origEpoch →
      p.message = some m ∧ cLengthOk m = true ∧ m.length ≤ 448 →
      exec .relayReply s = .next { t with
        outstanding := t.outstanding.del p.rtag
        cdp := { t.cdp with notes := t.cdp.notes ++ [{ session := o.session, kind := 3, body := m, status := 0, tid := o.tid }] } })
  ∧ (∀ (p : Fin 64) (s : State) (nonce : List Byte),
      s.cdpRuns = true →
      (s.part p.val).nonce = some nonce →
      exec (.quoteFormed p) s = .next ((s.setPart p.val { s.part p.val with nonce := none, quote := s.quoteOf p.val nonce }).logEvent
        { cls := 12, code := 5, part := p.val, tenant := some (s.part p.val).owner }))
  ∧ (∀ (s : State) (us n : Nat),
      s.cdpRuns = true →
      us = s.town / Config.ticksPerUs ∧ s.refilled < us →
      n = us - s.refilled →
      exec .bucketRefill s = .next { s.tenants.foldl (fun (s : State) (e : Nat × Tenant) => if e.2.state = 0 then s else
          (List.range 4).foldl (fun s k => s.refill n e.1 k) s) s with refilled := us })
  ∧ (∀ (j : Fin 64) (s : State),
      s.live = true →
      (s.job j.val).state = 2 ∧ (s.job j.val).closedAt + 250 * Config.ticksPerMs ≤ s.town →
      exec (.closeExpiry j) s = .next ((s.setJob j.val { s.job j.val with state := 0 }).jobEvent j.val 0x02))

/-- At a pulse, once for each 1,600 ticks of central town time, every district removes its error. A good record of the port followed gives an offset by R368, which is published and adjusts the clock; one of another port, or one that does not
fit the stamps held, adjusts nothing. A locked part whose parent port is not UP, or with no record for 47.2 µs, enters HOLDOVER, and leaves it after HOLDOVER_LIMIT; a time step takes the offset from town time while every
partition is IDLE. A droop moves a district's oscillator to the slower setting, and after 32 district cycles with no move it goes back one. That the error goes at the pulse is the model's choice (log 43), as the rounding of the offset is (log 44). -/
def Obligations.TownClockRuns : Prop :=
  (∀ (s : State),
      s.linked = true ∧ s.time.lastPulse < s.town / Config.ticksPerUs →
      ∃ z, exec .timePulse s = .next z ∧ z = s.alignCopies
        ∧ (∀ d : Fin 16, (z.district d.val).copy = s.time.central) ∧ z.time.lastPulse = s.town / Config.ticksPerUs)
  ∧ (∀ (s t : State) (e : Nat × Packet) (w : Word) (num : Int),
      s.cdpRuns = true ∧ s.mode ≠ .frozen ∧ s.linkPacket = some e ∧ s.isStamp e = true →
      w = bytesWord (cBody ((e.2.message).getD [])) ∧ t = { s with arrived := s.arrived.erase e } →
      t.stampFits e.1 w = true ∧ t.parentPort = some e.1 →
      num = offsetNumerator (field w 192 64) ((t.port e.1).rxStamp.getD (0, 0)).2 ((t.port e.1).txStamp.getD (0, 0)).2 (field w 128 64) (signed 16 (t.objNat (0x3100 + e.1) 0x01)) →
      exec .timestamp s = .next ((t.publishOffset e.1 num).2.exchange num (t.publishOffset e.1 num).1))
  ∧ (∀ (s t : State) (e : Nat × Packet) (w : Word),
      s.cdpRuns = true ∧ s.mode ≠ .frozen ∧ s.linkPacket = some e ∧ s.isStamp e = true →
      w = bytesWord (cBody ((e.2.message).getD [])) ∧ t = { s with arrived := s.arrived.erase e } →
      (t.stampFits e.1 w = true → t.parentPort ≠ some e.1) →
      exec .timestamp s = .next (if t.stampFits e.1 w then t else t.countLog { cls := 7, counter := 0x9A00, sub := 0x02, inst := e.1 }))
  ∧ (∀ (s t : State),
      s.cdpRuns = true ∧ s.time.mode = .locked →
      (s.parentPort.all (fun n => (s.port n).link != 4)) = true ∨ s.time.lastRecord + 75520 ≤ s.town →
      t = s.timeTo .holdover s.time.lastOffset →
      ∃ z, exec .holdoverEntry s = .next z ∧ z = (({ t with time := { t.time with holdSince := t.town, slewLeft := 0 } } : State).count 0x9A00 0x03 1)
        ∧ z.time.mode = .holdover ∧ z.time.holdSince = s.town)
  ∧ (∀ (s : State),
      s.cdpRuns = true ∧ s.time.mode = .holdover ∧ s.time.holdSince + s.objNat 0x3000 0x04 * Config.ticksPerUs ≤ s.town →
      ∃ z, exec .holdoverLimitExpiry s = .next z ∧ z = (s.timeTo .acquiring s.time.lastOffset)
        ∧ z.time.mode = .acquiring)
  ∧ (∀ (s t u : State) (d by_ : Int),
      s.linked = true ∧ s.time.mode = .acquiring ∧ s.time.stepDue = some d →
      s.parts.all (fun e => e.2.stepState == .idle) = true →
      t = { s with time := { s.time with central := ((s.time.central : Int) - d).toNat, stepDue := none, acqRun := 0 } } ∧ by_ = (t.town : Int) - (s.town : Int) →
      u = { t.moveAll by_ with time := { (t.moveAll by_).time with utc := (t.moveAll by_).time.utc.map (fun (u, t) => (u, t + by_)) } } →
      exec .timeStep s = .next (u.alignCopies.countLog { cls := 7, counter := 0x9A00, sub := 0x01, detail := unsigned 64 (-d / 2 ^ 24) }))
  ∧ (∀ (d setting : Fin 16) (s : State),
      s.live = true ∧ (s.district d.val).setting < setting.val →
      exec (.droop d setting) s = .next (((s.setDistrict d.val { s.district d.val with setting := setting.val, recover := (s.district d.val).cycles }).count (0x9900 + d.val) 0x01 1).bump (0x3010 + d.val) 0x01))
  ∧ (∀ (d : Fin 16) (s : State),
      s.live = true ∧ (s.district d.val).setting ≠ 0 ∧ (s.district d.val).recover + 32 ≤ (s.district d.val).cycles →
      exec (.oscillatorRecovery d) s = .next ((s.setDistrict d.val { s.district d.val with setting := (s.district d.val).setting - 1, recover := (s.district d.val).cycles }).bump (0x3010 + d.val) 0x01))

/-- PERST# resets every function of its port, and takes the port away from the accesses behind it; FLR resets one function. A register of BAR 0 read in 8 bytes at its address gives its value, and one that no rule allows changes nothing
but its count. A window read gives the bytes from the base on, and a window write of whole words to memory the window reaches stores them; any other is refused. A correctable PCIe error is counted and logged, and the others fail what
they hit; a CXL link that drops fails its port; and a port's link that comes up is noted. -/
def Obligations.HostPortsRun : Prop :=
  (∀ (h : Fin 2) (s t : State),
      s.cdpRuns = true →
      t = (fnsOf h).foldl State.resetFn s →
      exec (.perstN h) s = .next (({ t with pcie := t.pcie.put h.val {} }.failBehind 3 h.val).bumps [(0x8000 + h.val, 0x01), (0x8000 + h.val, 0x02), (0x8000 + h.val, 0x03)]))
  ∧ (∀ (f : FnId) (s : State),
      s.cdpRuns = true →
      ∃ z, exec (.flr f) s = .next z ∧ z = (s.resetFn f)
        ∧ (z.fn f).head = (s.fn f).tail ∧ (z.fn f).enable = false ∧ (z.fn f).req = [] ∧ z.cdp.queue.all (fun e => !e.1.isFn f) = true)
  ∧ (∀ (f : FnId) (a : Access) (s : State),
      s.cdpRuns = true →
      inArea a.offset.toNat = false ∧ ¬ (0x3000 ≤ a.offset.toNat ∧ a.offset.toNat < 0x4000) →
      ((a.width ≠ 8 ∨ a.offset.toNat % 8 ≠ 0) ∨ (a.value = none ∧ s.readReg f a.offset.toNat = none) ∨ (∃ v, a.value = some v ∧ s.writeReg f a.offset.toNat v.toNat = none)) →
      exec (.barMisuse f a) s = .next (s.misuse f a))
  ∧ (∀ (f : FnId) (a : Access) (s : State) (v : Nat),
      s.cdpRuns = true ∧ a.width = 8 ∧ a.offset.toNat % 8 = 0 ∧ a.value = none →
      inArea a.offset.toNat = false ∧ ¬ (0x3000 ≤ a.offset.toNat ∧ a.offset.toNat < 0x4000) →
      s.readReg f a.offset.toNat = some v →
      exec (.barMisuse f a) s = .next (s.emit (.readData (natBytes 8 v))))
  ∧ (∀ (h : Fin 2) (offset : BitVec 36) (n base : Nat) (x : Nat) (l : List Nat) (s : State),
      s.cdpRuns = true ∧ s.mode ≠ .frozen ∧ s.mode ≠ .recovery ∧ n ≠ 0 →
      base = (s.window h.val).base.toNat + offset.toNat ∧ x :: l = addrs (base / 32) (ceilDiv (base + n) 32 - base / 32) →
      (x :: l).all s.windowWord = true ∧ s.windowDown (x :: l) = none →
      exec (.windowAccess h offset (.read n)) s = .next ((s.noteSlow x).windowRead (x :: l) (base % 32) n))
  ∧ (∀ (h : Fin 2) (offset : BitVec 36) (bytes : List Byte) (base : Nat) (x : Nat) (l : List Nat) (s : State),
      s.cdpRuns = true ∧ s.mode ≠ .frozen ∧ s.mode ≠ .recovery ∧ bytes ≠ [] →
      base = (s.window h.val).base.toNat + offset.toNat ∧ x :: l = addrs (base / 32) (ceilDiv (base + bytes.length) 32 - base / 32) →
      base % 32 = 0 ∧ bytes.length % 32 = 0 →
      (x :: l).all s.windowWord = true ∧ s.windowDown (x :: l) = none →
      exec (.windowAccess h offset (.write bytes)) s = .next ((s.noteSlow x).writeWords ((x :: l).zip (bytesWords (x :: l).length bytes))))
  ∧ (∀ (h : Fin 2) (offset : BitVec 36) (bytes : List Byte) (base : Nat) (s : State),
      s.cdpRuns = true ∧ bytes ≠ [] →
      base = (s.window h.val).base.toNat + offset.toNat ∧ (base % 32 ≠ 0 ∨ bytes.length % 32 ≠ 0) →
      exec (.windowAccess h offset (.write bytes)) s = .next (s.windowRefuse h.val false))
  ∧ (∀ (h : Fin 2) (hit : PcieVictim) (s : State),
      s.cdpRuns = true →
      exec (.pcieError h .correctable hit) s = .next (s.countLog { cls := 8, counter := 0x9C00 + h.val, sub := 0x01, inst := h.val }))
  ∧ (∀ (h : Fin 2) (err : PcieError) (hit : PcieVictim) (s : State),
      s.cdpRuns = true →
      err = .timeout ∨ err = .urOrCa →
      exec (.pcieError h err hit) s = .next ((s.countLog { cls := 8, counter := 0x9C00 + h.val, sub := 0x03, inst := h.val }).pcieFails h.val .fault hit))
  ∧ (∀ (h : Fin 2) (hit : PcieVictim) (s : State),
      s.cdpRuns = true →
      exec (.pcieError h .poisonedRead hit) s = .next ((s.countLog { cls := 8, counter := 0x9C00 + h.val, sub := 0x04, inst := h.val }).pcieFails h.val .uncorrectable hit))
  ∧ (∀ (n : Fin 4) (s : State),
      s.cdpRuns = true ∧ s.objNat (0x8020 + n.val) 0x01 = 1 →
      exec (.cxlLinkDrop n) s = .next (((s.setObj (0x8020 + n.val) 0x01 (natBytes 1 2)).logEvent { cls := 9, code := 1, inst := n.val }).failBehind 2 n.val))
  ∧ (∀ (h : Fin 2) (rate width : Nat) (s : State),
      pcieLinkOk rate width = true ∧ s.mode ≠ .off →
      exec (.pcieLinkUp h rate width) s = .next (({ s with pcie := s.pcie.put h.val { (s.pcie.get {} h.val : PciePort) with up := true, rate := rate, width := width } }).bumps
        [(0x8000 + h.val, 0x01), (0x8000 + h.val, 0x02), (0x8000 + h.val, 0x03)]))

/-- While the part runs, a packet of RoCE for a queue pair that takes it and is in RTS advances its READ or its SENDs, retries it, or takes it to ERROR with the cause of its kind; a packet that no queue pair takes, or a bad one, is dropped,
counted and logged. A queue pair with a request outstanding for its ACK timeout is retried; a fetch entry that ends takes its state and cause, clears its range where it failed, and tells its peer; and a link's state is written as it comes
and goes. -/
def Obligations.StorageRuns : Prop :=
  (∀ (e : Fin 2) (q : Nat) (psn : BitVec 24) (marked : Bool) (l : List Byte) (s : State),
      s.mode = .running ∧ s.qpTakes e.val q = true ∧ s.qpState q = 1 →
      exec (.rocePacket e (.response q psn marked l)) s = .next (if s.storeWaits q then s else s.readResponse q psn.toNat marked l)
        ∧ exec (.rocePacket e (.ack q psn)) s = .next (s.sendAcked q psn.toNat)
        ∧ exec (.rocePacket e (.nakSequence q psn)) s = .next (s.qpRetries q)
        ∧ exec (.rocePacket e (.nakFatal q psn)) s = .next (s.qpFails q 2)
        ∧ exec (.rocePacket e (.badResponse q)) s = .next (s.qpFails q 3)
        ∧ exec (.rocePacket e (.request q)) s = .next ((s.sendRoce q 0 4 []).qpFails q 4))
  ∧ (∀ (e : Fin 2) (s : State),
      s.mode = .running →
      exec (.rocePacket e .bad) s = .next (s.countLog { cls := 10, counter := 0x9C20 + e.val, sub := 0x01, inst := e.val }))
  ∧ (∀ (q : Fin 1024) (s : State),
      s.live = true ∧ s.qpState q.val = 1 ∧ (s.qp q.val).busy = true ∧ (s.qp q.val).lastAt + qcTimeout (s.qpConfig q.val) ≤ s.town →
      exec (.qpAckTimeout q) s = .next (s.qpRetries q.val))
  ∧ (∀ (i : Fin 256) (s t u v : State) (e : FetchEntry) (c : Nat),
      s.live = true ∧ s.fetch[i.val]? = some e ∧ s.fetchEnd e = some c →
      t = s.setFetch i.val { e with state := if c = 0 then 2 else 3, cause := c, data := [] } →
      u = (if c = 0 then t else (t.clearRange (feDest e / 32) (feLength e / 32)).count (0x9C20 + qcPort (s.qpConfig (feQp e))) 0x05 1) →
      v = u.setQp (feQp e) { u.qp (feQp e) with reads := (u.qp (feQp e)).reads.map (fun r => if r.entry = i.val then { r with entry := 256 } else r) } →
      exec (.fetchEntryEnd i) s = .next (
        let w := (if feNotify e then v.notifyPeer (feQp e) (notifyBytes i.val c e) else v).pumpQp (feQp e) 16
        if w.fetchRuns then w else w.logEvent { cls := 10, code := 1, tenant := some (feTenant e), detail := i.val }))
  ∧ (∀ (e : Fin 2) (s : State),
      s.mode ≠ .off ∧ s.objNat (0x8040 + e.val) 0x01 ≠ 1 →
      exec (.ethLinkUp e) s = .next (s.setObj (0x8040 + e.val) 0x01 (natBytes 1 1)))
  ∧ (∀ (e : Fin 2) (s : State),
      s.mode ≠ .off ∧ s.objNat (0x8040 + e.val) 0x01 ≠ 0 →
      exec (.ethLinkDown e) s = .next (s.setObj (0x8040 + e.val) 0x01 (natBytes 1 0)))

/-- POWER_ON leaves every register as a loss of power does, with the power-on cause alone, and a cold start due; RESET_N of a running part notes its cause and begins the prelude of a warm start, and in RECOVERY makes a cold start due. A cold start with
its references boots the slot that ACTIVATE named or the slots that the straps and the card give in order, or enters RECOVERY where the strap says so; without them it only says what it waits for. A warm start resets the PCIe ports if RESET_N
caused it, gives the request table back as the checkpoint holds it, restarts the cores and links, and ends. ACTIVATE pauses once no step runs. -/
def Obligations.StartsRun : Prop :=
  (∀ (s t : State),
      s.mode = .off ∧ t = s.bare .starting →
      exec .powerOn s = .next (({ t with start := { t.start with coldDue := true } } : State).setObj 0x2000 0x01 (natBytes 4 1)))
  ∧ (∀ (s : State),
      s.mode = .running ∨ s.mode = .frozen ∨ s.mode = .parked →
      exec .resetN s = .next (s.noteCause 1).prelude)
  ∧ (∀ (s : State),
      s.mode = .recovery →
      exec .resetN s = .next { s.noteCause 1 with mode := .starting, start := { s.start with coldDue := true, bootSlot := none } })
  ∧ (∀ (env : StartEnv) (s : State),
      s.mode = .starting ∧ s.start.coldDue = true ∧ env.refsOk = false →
      exec (.coldStart env) s = .next (s.storeRaw 0x2000 0x03 [1#8]))
  ∧ (∀ (env : StartEnv) (s : State),
      s.mode = .starting ∧ s.start.coldDue = true ∧ env.refsOk = true ∧ s.start.bootSlot = none ∧ env.straps.toNat / 8 % 2 = 1 →
      exec (.coldStart env) s = .next ((s.beginCold env.straps.toNat).bootCold (match (s.beginCold env.straps.toNat).card with
        | some c => slotsOf env.straps.toNat c.active.val
        | none => []) env))
  ∧ (∀ (env : StartEnv) (s : State),
      s.mode = .starting ∧ s.start.coldDue = true ∧ env.refsOk = true ∧ s.start.bootSlot = none ∧ env.straps.toNat / 8 % 2 = 0 →
      exec (.coldStart env) s = .next (s.beginCold env.straps.toNat).enterRecovery)
  ∧ (∀ (env : StartEnv) (k : Nat) (s : State),
      s.mode = .starting ∧ s.start.coldDue = true ∧ env.refsOk = true ∧ s.start.bootSlot = some k →
      exec (.coldStart env) s = .next (s.bootCold [k] env))
  ∧ (∀ (env : StartEnv) (kind : Nat) (s r t u v : State),
      s.mode = .starting ∧ s.start.warm = some kind ∧ env.refsOk = true →
      r = s.setObj 0x2000 0x05 (natBytes 4 env.straps.toNat) →
      t = (match r.start.bootSlot with
      | some k => r.bootWarm k
      | none => r) →
      u = (if kind = 1 then ({ (fnsOf 0 ++ fnsOf 1).foldl State.resetFn t with pcie := [] } : State) else t) →
      v = { u with
      requests := u.start.checkpoint, start := { u.start with checkpoint := [] }, cdp := { u.cdp with links := [] }
      cores := (List.range 20).map (fun k => (k, { wdogAt := u.town, imem := u.firmwareOf k })) } →
      exec (.warmStart env) s = .next (((v.findCxl env).startLinks false).startDone kind env.micros))
  ∧ (∀ (s : State),
      s.live = true ∧ s.start.activating = true ∧ s.parts.all (fun e => e.2.stepState != .running) = true →
      ∃ t, exec .activatePause s = .next t ∧ t.start.paused = true ∧ t.start.warm = some 2 ∧ t.mode = .starting ∧ t.cores = [] ∧ t.crossroads = [] ∧ t.colls = []
        ∧ t.cdp.sessions = [] ∧ t.cdp.queue = [] ∧ t.mem = s.mem)

/-- Once a card is there, a store write that is due writes the running store with the next GENERATION. A card that comes is written with the next GENERATION and the retirements and repairs of the part, and with the values in force while a store
write waits; PENDING_SLOT names its active slot where that image's digest is not the running one. A card that goes leaves the part as it is. Whose values are in force after an insertion is the model's choice (log 57). -/
def Obligations.CardsRun : Prop :=
  (∀ (s t : State) (c : CardImage),
      s.cdpRuns = true ∧ s.start.storeDue = true ∧ s.card = some c →
      t = s.writeCard { c with store := s.runningStore (c.store.generation + 1) } "store" →
      exec .storeWrite s = .next { t with start := { t.start with storeDue := false } })
  ∧ (∀ (card : CardImage) (s t : State),
      s.cdpRuns = true ∧ s.card = none →
      t = (if s.start.storeDue then s else { s with start := { s.start with values := card.store.values } }).writeCard
      { card with store := { card.store with generation := card.store.generation + 1, retired := s.start.retired, repaired := s.start.repaired } } "store" →
      exec (.cardInsert card) s = .next ((if (cardSlot card card.active.val).image.isSome ∧ (cardSlot card card.active.val).digest ≠ t.obj 0x2100 0x05
        then t.setObj 0x2100 0x03 (natBytes 1 card.active.val) else t).bumps [(0x2100, 0x01), (0x2200, 0x01), (0x2300, 0x03)]))
  ∧ (∀ (s : State) (c : CardImage),
      s.card = some c →
      exec .cardRemove s = .next (({ s with card := none } : State).bumps [(0x2100, 0x01), (0x2200, 0x01)]))

/-- A fall of RAILS_OK leaves what a loss of power leaves. An update of the voltage at most 20 mV from the last is the target, and 800 mV while a fault of VDD_CORE holds; such a fault is flagged, logged and alerted, and so is that of another
rail without the change of target. The limit's floor goes up by one above POWER_LIMIT and down by one at 5 % below it. A sensor at its warning point is logged and alerted; at its throttle point the floor is set to 8, until every sensor is 5 °C
below; and at its trip point THERMTRIP_N is asserted and the part stops. When a rail fault clears, and what THROTTLE_END says of the readings, are the model's readings (log 62), and that a reading beyond 16 bits is kept as the value next to it is its choice (log 14). -/
def Obligations.PowersRun : Prop :=
  (∀ (s : State),
      s.mode ≠ .off ∨ s.power.tripped = true →
      ∃ t, exec .railsOkFall s = .next t ∧ t = s.bare .off ∧ t.mode = .off ∧ t.power.tripped = false ∧ t.parts = [] ∧ t.blocks = [] ∧ t.cores = [] ∧ t.requests = [] ∧ t.mem = s.mem.above (2 ^ 50))
  ∧ (∀ (millivolts sensed v : Nat) (held : Bool) (s : State),
      s.cdpRuns = true →
      held = (s.power.railFault && decide (kept16 sensed + 30 < s.power.target)) ∧ (held = true ∨ (avsOk millivolts = true ∧ absDiff millivolts s.power.target ≤ 20)) →
      v = (if held then 800 else millivolts) →
      exec (.avsUpdate millivolts sensed) s = .next ((({ s with power := { s.power with target := v, railFault := held, rails := s.power.rails.put 0 (kept16 sensed) } } : State).emit (.avs 0 v)).bumpWhere
        [(kept16 sensed != s.power.rails.get 0 0, 0x3300, 0x01), (v != s.power.target, 0x3300, 0x02), (held != s.power.railFault, 0x3230, 0x01)]))
  ∧ (∀ (millivolts m : Nat) (s t : State),
      s.cdpRuns = true ∧ m = kept16 millivolts →
      s.power.railFault = false ∧ m + 30 < s.power.target →
      t = ({ s with power := { s.power with railFault := true, target := 800, rails := s.power.rails.put 0 m } } : State).emit (.avs 0 800) →
      exec (.railFault 0 millivolts) s = .next ((((t.count 0x9E20 0x03 1).logPower 5 0 m).assertAlert).bumpWhere
        [(m != s.power.rails.get 0 0, 0x3300, 0x01), (s.power.target != 800, 0x3300, 0x02), (true, 0x3230, 0x01)]))
  ∧ (∀ (r : Fin 7) (millivolts m : Nat) (s t : State),
      s.cdpRuns = true ∧ r.val ≠ 0 ∧ m = kept16 millivolts →
      m < (railTolerance r.val).1 ∨ (railTolerance r.val).2 < m →
      t = { s with power := { s.power with rails := s.power.rails.put r.val m } } →
      exec (.railFault r millivolts) s = .next (((t.logPower 5 r.val m).assertAlert).bumpWhere
        [(m != s.power.rails.get 0 r.val, 0x3300 + r.val, 0x01), (t.power.status != s.power.status, 0x3230, 0x01)]))
  ∧ (∀ (watts w f : Nat) (s t : State),
      s.cdpRuns = true ∧ w = kept16 watts →
      f = (if s.objNat 0x3200 0x04 < w then min 15 (s.power.limitFloor + 1) else if w * 100 ≤ s.objNat 0x3200 0x04 * 95 then s.power.limitFloor - 1 else s.power.limitFloor) →
      t = (s.setFloor { s.power with watts := w, limitFloor := f }).bumpWhere [(w != s.power.watts, 0x3200, 0x05)] →
      exec (.powerLimitUpdate watts) s = .next (if s.power.limitFloor = 0 ∧ f ≠ 0 then t.logPower 8 0 w else t))
  ∧ (∀ (x : Sensor) (tenths c : Int) (s : State),
      s.cdpRuns = true ∧ c = keptS16 tenths ∧ warnAt (sensorNo x) ≤ c →
      exec (.thermalWarning x tenths) s = .next (((s.sensed (sensorNo x) c).logPower 1 (sensorNo x) (unsigned 64 c)).assertAlert))
  ∧ (∀ (x : Sensor) (tenths c : Int) (s t : State),
      s.cdpRuns = true ∧ c = keptS16 tenths ∧ throttleAt (sensorNo x) ≤ c →
      t = s.sensed (sensorNo x) c →
      exec (.throttleBegin x tenths) s = .next (if s.power.throttle then t else (t.setFloor { t.power with throttle := true }).logPower 2 (sensorNo x) (unsigned 64 c)))
  ∧ (∀ (s t : State),
      s.cdpRuns = true ∧ s.power.throttle = true →
      t = s.setFloor { s.power with throttle := false, temps := s.power.temps.mapVals (fun k t => min t (throttleAt k - 50)) } →
      exec .throttleEnd s = .next ((t.logPower 3 0 0).bumpWhere ((true, 0x3230, 0x01) :: s.power.temps.map (fun e => (decide (throttleAt e.1 - 50 < e.2), sensorObject e.1, 0x01)))))
  ∧ (∀ (x : Sensor) (tenths c : Int) (s t : State),
      s.mode ≠ .off ∧ c = keptS16 tenths ∧ tripAt (sensorNo x) ≤ c →
      t = (s.sensed (sensorNo x) c).logPower 4 (sensorNo x) (unsigned 64 c) →
      exec (.thermtrip x tenths) s = .next (({ t with mode := .off, power := { t.power with tripped := true } } : State).emit (.land "THERMTRIP_N" false)))

/-- FREEZE_N, or a FREEZE_AT whose time every unit has reached, triggers a freeze unless a start runs; FREEZE_N released resumes. At the first pulse at or after u0 + 1 µs the clocks restart with every copy aligned and the timers moved by the
time frozen, and a trigger that waits begins a new freeze. A snapshot copies the counters into the shadows once every unit has reached its time. A sweeper slice that is due takes its 2,048 cycles of a block; one that passes is counted and goes
on to the next window, and one that fails retires the block and fails its partition's step, or originates a notice. -/
def Obligations.FreezesRun : Prop :=
  (∀ (s t : State),
      s.freeze.pin = false ∧ t = { s with freeze := { s.freeze with pin := true } } →
      exec .freezeN s = .next (if t.startRuns ∨ t.freeze.state = 3 then t else t.trigger 1))
  ∧ (∀ (s : State) (t : Nat),
      s.freeze.timed = some t ∧ s.freeze.state = 0 →
      s.linked = true ∧ s.startRuns = false ∧ s.reached t = true →
      exec .freezeAtTrigger s = .next (({ s with freeze := { s.freeze with timed := none } } : State).trigger 3))
  ∧ (∀ (s : State),
      s.freeze.pin = true →
      exec .freezeNDeassert s = .next ({ s with freeze := { s.freeze with pin := false } } : State).resumeFreeze)
  ∧ (∀ (s t u : State) (d again : Nat),
      s.freeze.state = 3 ∧ s.freeze.at_ + Config.ticksPerUs ≤ s.town / Config.ticksPerUs * Config.ticksPerUs →
      t = (match s.freeze.timed with
      | some t => if t ≤ s.town then s.passTimed t else s
      | none => s) →
      d = t.town - t.freeze.time ∧ u = ((t.alignCopies.moveTimers (d : Int)).idleSlots ((t.alignCopies.moveTimers (d : Int)).now + d * 7 / 8)).later (d * 7 / 8) →
      again = (if u.freeze.pin then 1 else u.freeze.again) →
      exec .clockRestart s = .next (
        let v := ({ u with mode := if u.freeze.parked then .parked else .running, freeze := { u.freeze with state := 0, again := 0, parked := false } } : State).freezeBumps
        if again = 0 then v else v.beginFreeze again))
  ∧ (∀ (s : State) (t : Nat),
      s.snapshot.due = some t ∧ s.linked = true ∧ s.reached t = true →
      exec .snapshotCopy s = .next (({ s with shadows := s.counters, snapshot := { due := none, time := t } } : State).bumps [(0x9000, 0x03), (0x9F00, 0x02)]))
  ∧ (∀ (b : Fin 256) (s : State),
      s.sweepable b.val = true →
      exec (.sweeperSlice b) s = .next (s.setBlock b.val { s.block b.val with slice := some (s.wallOf b.val), sliceSince := some s.town, retried := false }))
  ∧ (∀ (b : Fin 256) (t : Nat) (s u : State),
      s.live = true ∧ (s.block b.val).slice = some t ∧ t + 2048 ≤ s.wallOf b.val →
      u = (s.setBlock b.val { s.block b.val with slice := none, retried := false }).count 0x9E00 0x01 1 →
      exec (.sweeperSliceEnd b false) s = .next (if (s.block b.val).retried then u else u.nextWindow b.val))
  ∧ (∀ (b : Fin 256) (t p : Nat) (s u : State),
      s.live = true ∧ (s.block b.val).slice = some t ∧ t + 2048 ≤ s.wallOf b.val →
      u = ((s.setBlock b.val { s.block b.val with slice := none, retried := false }).countLog { cls := 13, counter := 0x9E00, sub := 0x04, inst := 0, detail := b.val }).retireBlock b.val →
      u.partOf b.val = some p →
      exec (.sweeperSliceEnd b true) s = .next (if (u.part p).stepState = .running then u.failStep p .fault 3 else u.originate p 3 Status.fault.code 0xFF false))

/-- Of a powered part: each instruction is selected; IDCODE shifts out the part's identity and TEST-LOGIC-RESET selects it. While debugging is allowed in a freeze, FRZ_SELECT names a district and a chain, FRZ_SCAN shifts out the cells of that chain
from where the last scan ended, FRZ_MEM_READ captures a word and its check value as stored, and FRZ_MEM_WRITE writes both exactly as given; FRZ_RESUME with 1 of a frozen part whose pin is released resumes. What the boundary cells do, the values
that FRZ_SELECT, FRZ_RESUME and BYPASS capture, and that the ring does not take what is shifted in, are the model's (log 59). -/
def Obligations.JtagRuns : Prop :=
  (∀ (s : State),
      s.powered = true →
      exec .extest s = .next { s with jtag := { s.jtag with ir := 0x00 } })
  ∧ (∀ (s : State),
      s.powered = true →
      exec .idcode s = .next (s.jtagShift 0x01 (scanBits 32 idcodeValue)))
  ∧ (∀ (s : State),
      s.powered = true →
      exec .samplePreload s = .next { s with jtag := { s.jtag with ir := 0x02 } })
  ∧ (∀ (s : State),
      s.powered = true →
      exec .bypass s = .next (s.jtagShift 0xFF [false]))
  ∧ (∀ (s : State),
      s.powered = true →
      exec .testLogicReset s = .next { s with jtag := { s.jtag with ir := 0x01 } })
  ∧ (∀ (value : BitVec 16) (s t : State),
      s.powered = true ∧ s.debugs = true →
      t = s.jtagShift 0x20 (scanBits 16 (4096 * s.jtag.district + s.jtag.chain)) →
      exec (.frzSelect value) s = .next { t with jtag := { t.jtag with district := value.toNat / 4096, chain := value.toNat % 4096, rotated := 0 } })
  ∧ (∀ (bits : List Bool) (n : Nat) (s t : State),
      s.powered = true ∧ s.debugs = true →
      n = max 1 (Config.chainLength s.jtag.district s.jtag.chain) →
      t = s.jtagShift 0x21 ((List.range bits.length).map (fun i => Config.chainBit s.freeze.time s.jtag.district s.jtag.chain ((s.jtag.rotated + i) % n))) →
      exec (.frzScan bits) s = .next { t with jtag := { t.jtag with rotated := (s.jtag.rotated + bits.length) % n } })
  ∧ (∀ (command : BitVec 64) (s : State),
      s.powered = true ∧ s.debugs = true ∧ frzCommandOk (BitVec.ofNat 64 (field command 0 63)) = true →
      exec (.frzMemRead command) s = .next (s.jtagShift 0x22 (frzRegister (BitVec.ofNat 64 (field command 0 63)) (s.readWord (frzWord (BitVec.ofNat 64 (field command 0 63)))))))
  ∧ (∀ (command : BitVec 64) (word : Word) (check : Check) (s : State),
      s.powered = true ∧ s.debugs = true ∧ frzCommandOk command = true ∧ s.mem.wf = true →
      ∃ t, exec (.frzMemWrite command word check) s = .next t ∧ t.readWord (frzWord command) = ⟨word, check⟩ ∧
        (∀ a, a ≠ frzWord command → t.readWord a = s.readWord a))
  ∧ (∀ (s : State),
      s.powered = true ∧ s.freeze.state = 2 ∧ s.freeze.pin = false →
      exec (.frzResume true) s = .next (s.jtagShift 0x23 [false]).resumeFreeze)

/-- The oldest word of a block's repair queue is read again in an unclaimed bank cycle, and written in the next one; a word of tier 1 is, in the slots that its calendar leaves. A word that the scrubber comes to, of a memory or of a
long accumulator (log 91), is left where it is clean, rewritten where it is mended, and counted and logged where it fails. A region whose clearing is over reads as
zeros: a block with its control state reset, a pseudo-channel up to its firmware's words, and an allocation, which is then no more. Which words of a pseudo-channel are cleared is the model's reading (log 34). -/
def Obligations.ScrubRuns : Prop :=
  (∀ (b : Fin 256) (a : Nat) (l : List Nat) (w : Word) (s : State),
      s.live = true ∧ (s.block b.val).reread = none ∧ (s.block b.val).repair = a :: l →
      tierOf a = 0 ∧ s.serviceFree b.val a = true ∧ decodeStored (s.readWord a) = .mended w →
      ∃ t, exec (.repairQueueWriteback b) s = .next t ∧ (t.block b.val).reread = some (a, s.wallOf b.val) ∧ (t.block b.val).repair = a :: l
        ∧ (∀ x, t.readWord x = s.readWord x) ∧ t.counter 0x9400 0x06 = (s.counter 0x9400 0x06 + 1) % 2 ^ 48)
  ∧ (∀ (b : Fin 256) (a n : Nat) (w : Word) (s : State),
      s.live = true ∧ (s.block b.val).reread = some (a, n) ∧ s.wallOf b.val = n + 1 ∧ s.serviceFree b.val a = true ∧ s.mem.wf = true →
      tierOf a = 0 ∧ decodeStored (s.readWord a) = .mended w →
      ∃ t, exec (.repairQueueWriteback b) s = .next t ∧ (t.block b.val).reread = none ∧ (t.block b.val).repair = (s.block b.val).repair.erase a
        ∧ t.readWord a = encodeWord w ∧ ∀ x, x ≠ a → t.readWord x = s.readWord x)
  ∧ (∀ (b : Fin 256) (a : Nat) (l : List Nat) (s : State),
      s.live = true ∧ (s.block b.val).reread = none ∧ (s.block b.val).repair = a :: l →
      tierOf a = 1 ∧ s.serviceOpen a = true →
      exec (.repairQueueWriteback b) s = .next ((((s.setBlock b.val { s.block b.val with repair := l }).count 0x9400 0x06 1).serviceUnits a 1).rewrite a))
  ∧ (∀ (a : BitVec 51) (s t : State) (k : Option Nat),
      s.live = true ∧ s.scrubs a.toNat = some k ∧ accWord a.toNat = none →
      t = (match k with
      | some k => s.serviceMove (some k) a.toNat 1
      | none => s.useBank (a.toNat / 2 ^ 19 % 256) a.toNat).count 0x9400 0x06 1 →
      exec (.scrubWord a) s = .next (match decodeStored (t.readWord a.toNat) with
        | .clean _ => t
        | .mended _ => t.rewrite a.toNat
        | .failing _ _ => t.countLog { cls := 3, counter := 0x9400, sub := 0x08, detail := 32 * a.toNat }))
  ∧ (∀ (a : BitVec 51) (s t : State) (n : Nat),
      s.live = true ∧ s.scrubs a.toNat = some none ∧ accWord a.toNat = some n →
      t = s.count 0x9400 0x06 1 →
      exec (.scrubWord a) s = .next (match syndromeClass (s.flaws.get 0 n) with
        | .clean _ => t
        | .mended _ => (t.wipe [n]).count 0x9400 0x07 1
        | .failing _ _ => t.countLog { cls := 3, counter := 0x9400, sub := 0x08, detail := n }))
  ∧ (∀ (b : Fin 256) (s : State),
      s.live = true ∧ (s.block b.val).clearing = true ∧ (s.block b.val).clearUntil ≤ s.wallOf b.val ∧ (s.block b.val).clearedBy = none →
      exec (.clearDone (.block b)) s = .next (((((s.clearRange (tier0 b.val 0) Config.blockWords).wipeBank b.val 0).wipeBank b.val 1).count 0x9400 0x09 20482).setBlock b.val
        { retired := (s.block b.val).retired || (s.block b.val).retiring, passAt := (s.block b.val).passAt, passLate := (s.block b.val).passLate, sliceStep := (s.block b.val).sliceStep,
          sliceSince := (s.block b.val).sliceSince }))
  ∧ (∀ (c : Fin 256) (s t : State),
      s.live = true ∧ (s.channel c.val).clearing = true ∧ (s.channel c.val).clearTo ≤ s.town →
      t = (s.clearRange (tier1 c.val 0) firmwareWord).setChannel c.val { s.channel c.val with clearing := false, clearTo := 0 } →
      exec (.clearDone (.channel c)) s = .next { t with serving := { t.serving with holders := t.serving.holders.filter (fun e => channelOf (e.1 * frameWords) != c.val) } })
  ∧ (∀ (i : Fin 4096) (s : State) (e : Alloc),
      s.live = true ∧ s.allocs.find? i.val = some e ∧ e.state = 2 ∧ e.clearTo ≤ s.town ∧ s.serviceOpen (e.base / 32) = true →
      exec (.clearDone (.alloc i)) s = .next ((({ (s.clearRange (e.base / 32) (e.size / 32)) with allocs := s.allocs.del i.val } : State).bump (0x4100 + e.tenant) 0x12).tenantEnds e.tenant))

end
end

