-- ==== Sys2Proof/Laws/Table.lean ====
section
/-! SUPPORT. What the operations of finite tables do: reading after writing, the entries after a change, and the sorted form. -/
set_option linter.all false
set_option Elab.async false
namespace Sys2Proof.Machine

section Tables
variable {α : Type}

theorem Table.above_mono {lo hi : Nat} (hl : lo ≤ hi) : ∀ {t : Table α}, Table.above hi t = true → Table.above lo t = true
  | [], _ => rfl
  | (k, v) :: t, h => by
    simp only [Table.above, Bool.and_eq_true, decide_eq_true_eq] at h ⊢
    exact ⟨by omega, h.2⟩

theorem Table.find?_above {i : Nat} : ∀ {t : Table α}, Table.above (i + 1) t = true → t.find? i = none
  | [], _ => rfl
  | (k, v) :: t, h => by
    simp only [Table.above, Bool.and_eq_true, decide_eq_true_eq] at h
    have hk : i ≠ k := by omega
    simp only [Table.find?, if_neg hk]
    exact Table.find?_above (Table.above_mono (by omega) h.2)

@[simp] theorem Table.find?_put_self (i : Nat) (v : α) : ∀ t : Table α, (t.put i v).find? i = some v
  | [] => by simp [Table.put, Table.find?]
  | (k, w) :: t => by
    unfold Table.put
    split
    · simp [Table.find?]
    · split
      · simp [Table.find?]
      · rename_i h _
        simp [Table.find?, h, Table.find?_put_self i v t]

theorem Table.find?_put_ne {i j : Nat} (h : j ≠ i) (v : α) : ∀ t : Table α, (t.put i v).find? j = t.find? j
  | [] => by simp [Table.put, Table.find?, h]
  | (k, w) :: t => by
    unfold Table.put
    split
    · next e => subst e; simp [Table.find?, h]
    · split
      · simp [Table.find?, h]
      · simp only [Table.find?]
        split
        · rfl
        · exact Table.find?_put_ne h v t

@[simp] theorem Table.get_put_self (d : α) (i : Nat) (v : α) (t : Table α) : (t.put i v).get d i = v := by simp [Table.get]

theorem Table.get_put_ne {i j : Nat} (h : j ≠ i) (d v : α) (t : Table α) : (t.put i v).get d j = t.get d j := by
  simp [Table.get, Table.find?_put_ne h]

theorem Table.get_put (i j : Nat) (d v : α) (t : Table α) : (t.put i v).get d j = if j = i then v else t.get d j := by
  split
  · next h => subst h; simp
  · next h => exact Table.get_put_ne h d v t

/-- An entry after a change is the new one or an old one. -/
theorem Table.mem_put {e : Nat × α} {i : Nat} {v : α} : ∀ {t : Table α}, e ∈ t.put i v → e = (i, v) ∨ e ∈ t
  | [], h => by simpa [Table.put] using h
  | (k, w) :: t, h => by
    unfold Table.put at h
    split at h
    · simp only [List.mem_cons] at h ⊢
      rcases h with h | h
      · exact .inl h
      · exact .inr (.inr h)
    · split at h
      · simpa using h
      · simp only [List.mem_cons] at h ⊢
        rcases h with h | h
        · exact .inr (.inl h)
        · rcases Table.mem_put h with h | h
          · exact .inl h
          · exact .inr (.inr h)

theorem Table.mem_del {e : Nat × α} {i : Nat} : ∀ {t : Table α}, e ∈ t.del i → e ∈ t
  | [], h => by simp [Table.del] at h
  | (k, w) :: t, h => by
    unfold Table.del at h
    split at h
    · exact List.mem_cons_of_mem _ h
    · simp only [List.mem_cons] at h ⊢
      rcases h with h | h
      · exact .inl h
      · exact .inr (Table.mem_del h)

theorem Table.above_put {i : Nat} {v : α} : ∀ {lo : Nat} {t : Table α}, lo ≤ i → Table.above lo t = true → Table.above lo (t.put i v) = true
  | lo, [], hl, _ => by simp [Table.put, Table.above, hl]
  | lo, (k, w) :: t, hl, h => by
    simp only [Table.above, Bool.and_eq_true, decide_eq_true_eq] at h
    unfold Table.put
    split
    · next e => subst e; simp [Table.above, h.1, h.2]
    · split
      · simp only [Table.above, Bool.and_eq_true, decide_eq_true_eq]
        exact ⟨hl, by omega, h.2⟩
      · simp only [Table.above, Bool.and_eq_true, decide_eq_true_eq]
        exact ⟨h.1, Table.above_put (by omega) h.2⟩

theorem Table.above_del {i : Nat} : ∀ {lo : Nat} {t : Table α}, Table.above lo t = true → Table.above lo (t.del i) = true
  | _, [], _ => rfl
  | lo, (k, w) :: t, h => by
    simp only [Table.above, Bool.and_eq_true, decide_eq_true_eq] at h
    unfold Table.del
    split
    · exact Table.above_mono (by omega) h.2
    · simp only [Table.above, Bool.and_eq_true, decide_eq_true_eq]
      exact ⟨h.1, Table.above_del h.2⟩

/-- A change of an entry keeps the keys in order. -/
theorem Table.sorted_put {t : Table α} (i : Nat) (v : α) (h : t.sorted = true) : (t.put i v).sorted = true := Table.above_put (Nat.zero_le i) h

theorem Table.sorted_del {t : Table α} (i : Nat) (h : t.sorted = true) : (t.del i).sorted = true := Table.above_del h

theorem Table.above_filter {p : Nat × α → Bool} : ∀ {lo : Nat} {t : Table α}, Table.above lo t = true → Table.above lo (t.filter p) = true
  | _, [], _ => rfl
  | lo, (k, w) :: t, h => by
    simp only [Table.above, Bool.and_eq_true, decide_eq_true_eq] at h
    by_cases hp : p (k, w)
    · rw [List.filter_cons_of_pos hp]
      simp only [Table.above, Bool.and_eq_true, decide_eq_true_eq]
      exact ⟨h.1, Table.above_filter h.2⟩
    · rw [List.filter_cons_of_neg hp]
      exact Table.above_mono (by omega) (Table.above_filter h.2)

/-- What is found after a deletion, in a table in order. -/
theorem Table.find?_del {i j : Nat} : ∀ {lo : Nat} {t : Table α}, Table.above lo t = true → (t.del i).find? j = if j = i then none else t.find? j
  | _, [], _ => by simp [Table.del, Table.find?]
  | lo, (k, w) :: t, h => by
    simp only [Table.above, Bool.and_eq_true, decide_eq_true_eq] at h
    unfold Table.del
    split
    · next e =>
      subst e
      split
      · next e => subst e; exact Table.find?_above h.2
      · next e => simp [Table.find?, e]
    · next e =>
      simp only [Table.find?]
      split
      · next e2 => subst e2; rw [if_neg (Ne.symm e)]
      · exact Table.find?_del h.2

theorem Table.mem_of_find? {i : Nat} {v : α} : ∀ {t : Table α}, t.find? i = some v → (i, v) ∈ t
  | [], h => by simp [Table.find?] at h
  | (k, w) :: t, h => by
    simp only [Table.find?] at h
    split at h
    · next e => subst e; simp at h; simp [h]
    · exact List.mem_cons_of_mem _ (Table.mem_of_find? h)

/-- The key of the first entry that a test accepts stays the same when that entry's value changes in nothing the test looks at. -/
theorem Table.find_put_same {f : Nat × α → Bool} {i : Nat} {d v : α} : ∀ {t : Table α}, f (i, v) = f (i, t.get d i) →
    (List.find? f t).map Prod.fst = some i → (List.find? f (t.put i v)).map Prod.fst = some i
  | [], _, h => by simp at h
  | (k, w) :: t, hv, h => by
    unfold Table.put
    cases hf : f (i, v) with
    | true =>
      split
      · simp [List.find?, hf]
      · split
        · simp [List.find?, hf]
        · next hk _ =>
          simp only [List.find?] at h ⊢
          cases hw : f (k, w) with
          | true => rw [hw] at h; simp at h; omega
          | false =>
            rw [hw] at h
            have e : Table.get d ((k, w) :: t) i = Table.get d t i := by simp [Table.get, Table.find?, hk]
            exact Table.find_put_same (e ▸ hv) h
    | false =>
      split
      · next hk =>
        subst hk
        have e : Table.get d ((i, w) :: t) i = w := by simp [Table.get, Table.find?]
        rw [e, hf] at hv
        simpa [List.find?, hf, ← hv] using h
      · next hk =>
        split
        · simpa [List.find?, hf] using h
        · simp only [List.find?] at h ⊢
          cases hw : f (k, w) with
          | true => rw [hw] at h; simp at h; omega
          | false =>
            rw [hw] at h
            have e : Table.get d ((k, w) :: t) i = Table.get d t i := by simp [Table.get, Table.find?, hk]
            exact Table.find_put_same (e ▸ hv) h

theorem Table.find?_del_ne {i j : Nat} (h : j ≠ i) : ∀ {t : Table α}, (t.del i).find? j = t.find? j
  | [] => rfl
  | (k, w) :: t => by
    unfold Table.del
    split
    · next hk => subst hk; simp [Table.find?, h]
    · simp only [Table.find?]
      split
      · rfl
      · exact Table.find?_del_ne h

theorem Table.get_del_ne {i j : Nat} (h : j ≠ i) {d : α} {t : Table α} : (t.del i).get d j = t.get d j := by
  simp [Table.get, Table.find?_del_ne h]

end Tables

end Sys2Proof.Machine
end

