-- ==== Sys2Proof/Laws/Memory.lean ====
section
/-! SUPPORT. Memory: a read after a write, every other word, and that each operation keeps the canonical form (R16, R177, R213, R214). -/
set_option linter.all false
set_option Elab.async false
namespace Sys2Proof.Machine

/-! ## Reads after writes -/

theorem Memory.wf_iff (m : Memory) :
    m.wf = true ↔ m.cells.sorted = true ∧ (∀ e ∈ m.cells, e.2 ≠ m.rest e.1) ∧ rangesOk 0 m.cleared = true := by
  simp [Memory.wf, List.all_eq_true, and_assoc]

theorem Memory.read_write_self (m : Memory) (h : m.wf = true) (a : Nat) (x : Stored) : (m.write a x).read a = x := by
  have hs := ((Memory.wf_iff m).1 h).1
  unfold Memory.write
  split
  · next e =>
    have := Table.find?_del (i := a) (j := a) hs
    simp [Memory.read, this, Memory.rest, e]
  · simp [Memory.read]

theorem Memory.read_write_ne (m : Memory) (h : m.wf = true) {a b : Nat} (hb : b ≠ a) (x : Stored) : (m.write a x).read b = m.read b := by
  have hs := ((Memory.wf_iff m).1 h).1
  unfold Memory.write
  split
  · have := Table.find?_del (i := a) (j := b) hs
    simp [Memory.read, this, hb, Memory.rest]
  · simp [Memory.read, Table.find?_put_ne hb, Memory.rest]

/-! ## The canonical form -/

theorem Memory.wf_write (m : Memory) (h : m.wf = true) (a : Nat) (x : Stored) : (m.write a x).wf = true := by
  obtain ⟨hs, hc, hr⟩ := (Memory.wf_iff m).1 h
  unfold Memory.write
  split
  · exact (Memory.wf_iff _).2 ⟨Table.sorted_del a hs, fun e he => hc e (Table.mem_del he), hr⟩
  · next hx =>
    refine (Memory.wf_iff _).2 ⟨Table.sorted_put a x hs, fun e he => ?_, hr⟩
    rcases Table.mem_put he with rfl | he
    · exact hx
    · exact hc e he

theorem rangesOk_mono {lo hi : Nat} (hl : lo ≤ hi) : ∀ {l : List (Nat × Nat)}, rangesOk hi l = true → rangesOk lo l = true
  | [], _ => rfl
  | (a, n) :: t, h => by
    simp only [rangesOk, Bool.and_eq_true, decide_eq_true_eq] at h ⊢
    exact ⟨⟨by omega, h.1.2⟩, h.2⟩

theorem inRanges_addRange (x : Nat) : ∀ (l : List (Nat × Nat)) (a n : Nat),
    inRanges (addRange l a n) x = (decide (a ≤ x ∧ x < a + n) || inRanges l x)
  | [], a, n => by
    unfold addRange
    split
    · next hn => subst hn; simp [inRanges]
    · simp [inRanges]
  | (b, k) :: t, a, n => by
    unfold addRange
    split
    · next e => subst e; simp [inRanges]; try omega
    · split
      · simp [inRanges]
      · split
        · simp only [inRanges, inRanges_addRange x t a n]
          grind
        · simp only [inRanges_addRange x t, inRanges]
          grind

theorem rangesOk_addRange : ∀ (l : List (Nat × Nat)) (lo a n : Nat), lo ≤ a → rangesOk lo l = true → rangesOk lo (addRange l a n) = true
  | [], lo, a, n, hl, _ => by
    unfold addRange
    split
    · rfl
    · next hn => simpa [rangesOk, hl] using Nat.pos_of_ne_zero hn
  | (b, k) :: t, lo, a, n, hl, h => by
    have h' := h
    simp only [rangesOk, Bool.and_eq_true, decide_eq_true_eq] at h'
    unfold addRange
    split
    · exact h
    · split
      · simp only [rangesOk, Bool.and_eq_true, decide_eq_true_eq]
        exact ⟨by omega, ⟨by omega, h'.1.2⟩, h'.2⟩
      · split
        · simp only [rangesOk, Bool.and_eq_true, decide_eq_true_eq]
          exact ⟨h'.1, rangesOk_addRange t _ a n (by omega) h'.2⟩
        · exact rangesOk_addRange t lo _ _ (by omega) (rangesOk_mono (by omega) h'.2)

theorem Memory.wf_clear (m : Memory) (h : m.wf = true) (a n : Nat) : (m.clear a n).wf = true := by
  obtain ⟨hs, hc, hr⟩ := (Memory.wf_iff m).1 h
  refine (Memory.wf_iff _).2 ⟨Table.above_filter hs, fun e he => ?_, rangesOk_addRange _ _ _ _ (Nat.zero_le a) hr⟩
  simp only [Memory.clear, List.mem_filter, Bool.not_eq_true', decide_eq_false_iff_not] at he
  have := hc e he.1
  simp only [Memory.rest, Memory.clear, inRanges_addRange] at this ⊢
  simpa [he.2] using this

theorem Memory.read_clear_in (m : Memory) {a n x : Nat} (hx : a ≤ x ∧ x < a + n) : (m.clear a n).read x = clearedWord := by
  have h1 : (m.clear a n).cells.find? x = none := by
    cases hf : (m.clear a n).cells.find? x with
    | none => rfl
    | some v =>
      have := Table.mem_of_find? hf
      simp [Memory.clear, hx] at this
  have h2 : inRanges (m.clear a n).cleared x = true := by simp [Memory.clear, inRanges_addRange, hx]
  simp [Memory.read, h1, Memory.rest, h2]

/-- Clipping of one range. -/
def clipRange (lo : Nat) (r : Nat × Nat) : Option (Nat × Nat) := if r.1 + r.2 ≤ lo then none else some (max r.1 lo, r.1 + r.2 - max r.1 lo)

theorem rangesOk_clip (c : Nat) : ∀ (l : List (Nat × Nat)) (lo : Nat), rangesOk lo l = true → rangesOk lo (l.filterMap (clipRange c)) = true
  | [], _, _ => rfl
  | (a, n) :: t, lo, h => by
    simp only [rangesOk, Bool.and_eq_true, decide_eq_true_eq] at h
    by_cases hn : a + n ≤ c
    · simp only [List.filterMap_cons, clipRange, hn, if_true]
      exact rangesOk_mono (by omega) (rangesOk_clip c t _ h.2)
    · simp only [List.filterMap_cons, clipRange, hn, if_false, rangesOk, Bool.and_eq_true, decide_eq_true_eq]
      exact ⟨by omega, rangesOk_mono (by omega) (rangesOk_clip c t _ h.2)⟩

theorem inRanges_clip (c x : Nat) (hx : c ≤ x) : ∀ l : List (Nat × Nat), inRanges (l.filterMap (clipRange c)) x = inRanges l x
  | [] => rfl
  | (a, n) :: t => by
    by_cases hn : a + n ≤ c
    · simp only [List.filterMap_cons, clipRange, hn, if_true, inRanges]
      rw [inRanges_clip c x hx t]
      have : ¬ (a ≤ x ∧ x < a + n) := by omega
      simp [this]
    · simp only [List.filterMap_cons, clipRange, hn, if_false, inRanges]
      rw [inRanges_clip c x hx t]
      have : (max a c ≤ x ∧ x < max a c + (a + n - max a c)) ↔ (a ≤ x ∧ x < a + n) := by omega
      rw [decide_eq_decide.2 this]

theorem Memory.wf_above (m : Memory) (h : m.wf = true) (lo : Nat) : (m.above lo).wf = true := by
  obtain ⟨hs, hc, hr⟩ := (Memory.wf_iff m).1 h
  refine (Memory.wf_iff _).2 ⟨Table.above_filter hs, fun e he => ?_, rangesOk_clip lo _ _ hr⟩
  simp only [Memory.above, List.mem_filter, decide_eq_true_eq] at he
  have hi : inRanges (m.above lo).cleared e.1 = inRanges m.cleared e.1 := inRanges_clip lo e.1 he.2 m.cleared
  have hrest : (m.above lo).rest e.1 = m.rest e.1 := by simp [Memory.rest, hi]
  rw [hrest]
  exact hc e he.1

theorem Memory.wf_empty : ({} : Memory).wf = true := by decide

end Sys2Proof.Machine
end

