-- ==== Sys2Proof/Laws/Kept.lean ====
section
/-! SUPPORT. What every operation keeps, as one predicate: the queue of waiting commands, the form that every state keeps, and, for an operation
that stores nothing, any property of the memory. The lemmas of the single operations are in the files named after theirs, each called by its
operation's name with _kept after it. -/
set_option linter.all false
set_option Elab.async false
namespace Sys2Proof.Machine

/-- The queue is q, the memory has the property M, and, where C is asked, the state is in its canonical form. -/
def Kept (q : List Instr) (M : Memory → Prop) (C : Prop) (s : State) : Prop := s.pending = q ∧ M s.mem ∧ (C → Canonical s)

/-- The property of every memory: what an operation that may store is said to keep. -/
def Any : Memory → Prop := fun _ => True

/-- The next state of an outcome, if there is one, keeps them. -/
def KeptOut (q : List Instr) (M : Memory → Prop) (C : Prop) (o : Host.Outcome State Fault Refusal) : Prop := ∀ t, o = .next t → Kept q M C t

/-- The state of an act, if it is not refused, keeps them. -/
def KeptAct (q : List Instr) (M : Memory → Prop) (C : Prop) (r : Except Nat Done) : Prop := ∀ d, r = .ok d → Kept q M C d.s

/-- The state, if there is one, keeps them. -/
def KeptOpt (q : List Instr) (M : Memory → Prop) (C : Prop) (o : Option State) : Prop := ∀ t, o = some t → Kept q M C t

section
variable {q : List Instr} {M : Memory → Prop} {C : Prop}

/-- A change of any field but the queue, memory, the counters, the shadows, the versions and the window pages keeps them. -/
theorem Kept.upd {s : State} {a1 : PartMode} {a2 : List Output} {a3 a4 a11 a35 a38 : Nat} {a5 : Table District} {a6 : TimeUnit} {a7 : Table Block} {a8 : Table Part} {a9 : Table Core} {a10 : Table Channel} {a12 : Table Fn} {a13 : Table PciePort} {a14 : Cdp} {a15 : EventLog} {a16 : Table Request} {a17 : Serving} {a18 : Table QueuePair} {a19 : List FetchEntry} {a20 : Table Tenant} {a21 : Table Alloc} {a22 : Table Key} {a23 : Table (List Byte)} {a24 : Startup} {a25 : Option CardImage} {a26 : FreezeUnit} {a27 : Jtag} {a28 : Power} {a29 : Snapshot} {a30 : Table Port} {a31 : Table (List Queued)} {a32 : List (Nat × Packet)} {a33 : Table Job} {a34 : Table Outstanding} {a36 : Table Coll} {a37 : List Nat} {a39 : Table Check} :
    Kept q M C ⟨a1, s.pending, a2, a3, a4, s.mem, a5, a6, a7, a8, a9, a10, a11, a12, a13, s.windows, a14, a15, a16, a17, a18, a19, a20, a21, a22, a23, s.versions, s.counters, s.shadows, a24, a25, a26, a27, a28, a29, a30, a31, a32, a33, a34, a35, a36, a37, a38, a39⟩ ↔ Kept q M C s := Iff.rfl

theorem Kept.ite {c : Prop} [Decidable c] {a b : State} (ha : c → Kept q M C a) (hb : ¬ c → Kept q M C b) : Kept q M C (if c then a else b) := by
  split
  · exact ha ‹_›
  · exact hb ‹_›

theorem KeptOut.next {s : State} (h : Kept q M C s) : KeptOut q M C (.next s) := fun _ e => by cases e; exact h

theorem KeptOut.fault {f : Fault} : KeptOut q M C (.fault f) := fun _ e => by cases e

theorem KeptOut.refused {r : Refusal} : KeptOut q M C (.refused r) := fun _ e => by cases e

theorem KeptOut.ite {c : Prop} [Decidable c] {a b : Host.Outcome State Fault Refusal} (ha : c → KeptOut q M C a) (hb : ¬ c → KeptOut q M C b) :
    KeptOut q M C (if c then a else b) := by
  split
  · exact ha ‹_›
  · exact hb ‹_›

theorem KeptAct.ok {d : Done} (h : Kept q M C d.s) : KeptAct q M C (.ok d) := fun _ e => by cases e; exact h

theorem KeptAct.state {r : Except Nat Done} {d : Done} (h : KeptAct q M C r) (e : r = .ok d) : Kept q M C d.s := h d e

theorem KeptAct.error {n : Nat} : KeptAct q M C (.error n) := fun _ e => by cases e

theorem KeptAct.ite {c : Prop} [Decidable c] {a b : Except Nat Done} (ha : c → KeptAct q M C a) (hb : ¬ c → KeptAct q M C b) :
    KeptAct q M C (if c then a else b) := by
  split
  · exact ha ‹_›
  · exact hb ‹_›

theorem KeptAct.needs {c : Bool} {n : Nat} {k : Except Nat Done} (h : KeptAct q M C k) : KeptAct q M C (needs c n k) := by
  unfold Machine.needs
  split
  · exact h
  · exact KeptAct.error

theorem KeptOpt.some {s : State} (h : Kept q M C s) : KeptOpt q M C (.some s) := fun _ e => by cases e; exact h

theorem KeptOpt.none : KeptOpt q M C .none := fun _ e => by cases e

theorem KeptOpt.ite {c : Prop} [Decidable c] {a b : Option State} (ha : c → KeptOpt q M C a) (hb : ¬ c → KeptOpt q M C b) :
    KeptOpt q M C (if c then a else b) := by
  split
  · exact ha ‹_›
  · exact hb ‹_›

theorem foldl_kept {α : Type} {f : State → α → State} (hf : ∀ s a, Kept q M C s → Kept q M C (f s a)) :
    ∀ {l : List α} {s : State}, Kept q M C s → Kept q M C (l.foldl f s)
  | [], _, h => h
  | a :: l, _, h => foldl_kept hf (l := l) (hf _ a h)

theorem foldl_kept_snd {α β : Type} {f : β × State → α → β × State} (hf : ∀ x a, Kept q M C x.2 → Kept q M C (f x a).2) :
    ∀ {l : List α} {x : β × State}, Kept q M C x.2 → Kept q M C (l.foldl f x).2
  | [], _, h => h
  | a :: l, _, h => foldl_kept_snd hf (l := l) (hf _ a h)

theorem foldl_kept_fst {α β : Type} {f : State × β → α → State × β} (hf : ∀ x a, Kept q M C x.1 → Kept q M C (f x a).1) :
    ∀ {l : List α} {x : State × β}, Kept q M C x.1 → Kept q M C (l.foldl f x).1
  | [], _, h => h
  | a :: l, _, h => foldl_kept_fst hf (l := l) (hf _ a h)

theorem findSome_kept {α : Type} {f : α → Option State} (hf : ∀ a, KeptOpt q M C (f a)) {s : State} (h : Kept q M C s) :
    ∀ {l : List α}, Kept q M C ((l.findSome? f).getD s)
  | [] => h
  | a :: l => by
    cases e : f a with
    | none => simpa [e] using findSome_kept hf h (l := l)
    | some t => simpa [e] using hf a t e

end

end Sys2Proof.Machine
end

