-- ==== Sys2Proof/Laws/OpsKeeps.lean ====
section
/-! SUPPORT. What the operations of Machine/Ops.lean keep: the queue, the form of the state and, where they store nothing, the memory. -/
set_option linter.all false
set_option Elab.async false
namespace Sys2Proof.Machine
section
variable {q : List Instr} {M : Memory → Prop} {C : Prop}

theorem State.bump_kept (s : State) (index sub : Nat) (h : Kept q M C s) : Kept q M C (s.bump index sub) := by
  refine ⟨h.1, h.2.1, fun c => ?_⟩
  obtain ⟨hm, hc, hs, hv, hw⟩ := h.2.2 c
  refine ⟨hm, hc, hs, fun e he => ?_, hw⟩
  rcases Table.mem_put he with rfl | he
  · exact Nat.mod_lt _ (by decide)
  · exact hv e he

theorem State.bumpWhere_kept : ∀ (l : List (Bool × Nat × Nat)) (s : State) (_ : Kept q M C s), Kept q M C (s.bumpWhere l)
  | [], _, h => h
  | (c, i, u) :: t, s, h => by
    unfold State.bumpWhere
    exact State.bumpWhere_kept t _ (Kept.ite (fun _ => State.bump_kept s i u h) (fun _ => h))

theorem State.setBlock_kept (s : State) (b : Nat) (x : Block)  (h : Kept q M C s) : Kept q M C (State.setBlock s b x) := by
  unfold State.setBlock
  try dsimp only
  repeat' first | with_reducible assumption | with_reducible apply Kept.ite <;> intro _ | simp only [Kept.upd] | split | intro _

theorem State.setPart_kept (s : State) (p : Nat) (x : Part)  (h : Kept q M C s) : Kept q M C (State.setPart s p x) := by
  unfold State.setPart
  try dsimp only
  repeat' first | with_reducible assumption | with_reducible apply State.bumpWhere_kept | with_reducible apply Kept.ite <;> intro _ | simp only [Kept.upd] | split | intro _

theorem State.setDistrict_kept (s : State) (d : Nat) (x : District)  (h : Kept q M C s) : Kept q M C (State.setDistrict s d x) := by
  unfold State.setDistrict
  try dsimp only
  repeat' first | with_reducible assumption | with_reducible apply Kept.ite <;> intro _ | simp only [Kept.upd] | split | intro _

theorem State.setCore_kept (s : State) (k : Nat) (x : Core)  (h : Kept q M C s) : Kept q M C (State.setCore s k x) := by
  unfold State.setCore
  try dsimp only
  repeat' first | with_reducible assumption | with_reducible apply Kept.ite <;> intro _ | simp only [Kept.upd] | split | intro _

theorem State.setChannel_kept (s : State) (c : Nat) (x : Channel)  (h : Kept q M C s) : Kept q M C (State.setChannel s c x) := by
  unfold State.setChannel
  try dsimp only
  repeat' first | with_reducible assumption | with_reducible apply Kept.ite <;> intro _ | simp only [Kept.upd] | split | intro _

theorem State.setRequest_kept (s : State) (r : Nat) (x : Request)  (h : Kept q M C s) : Kept q M C (State.setRequest s r x) := by
  unfold State.setRequest
  try dsimp only
  repeat' first | with_reducible assumption | with_reducible apply State.bumpWhere_kept | with_reducible apply Kept.ite <;> intro _ | simp only [Kept.upd] | split | intro _

theorem State.setTenant_kept (s : State) (t : Nat) (x : Tenant)  (h : Kept q M C s) : Kept q M C (State.setTenant s t x) := by
  unfold State.setTenant
  try dsimp only
  repeat' first | with_reducible assumption | with_reducible apply State.bumpWhere_kept | with_reducible apply Kept.ite <;> intro _ | simp only [Kept.upd] | split | intro _

theorem State.setKey_kept (s : State) (i : Nat) (x : Key)  (h : Kept q M C s) : Kept q M C (State.setKey s i x) := by
  unfold State.setKey
  try dsimp only
  repeat' first | with_reducible assumption | with_reducible apply State.bumpWhere_kept | with_reducible apply Kept.ite <;> intro _ | simp only [Kept.upd] | split | intro _

theorem State.setFn_kept (s : State) (f : FnId) (x : Fn)  (h : Kept q M C s) : Kept q M C (State.setFn s f x) := by
  unfold State.setFn
  try dsimp only
  repeat' first | with_reducible assumption | with_reducible apply Kept.ite <;> intro _ | simp only [Kept.upd] | split | intro _

theorem State.setWindow_kept (s : State) (i : Nat) (x : Window) (hx : C → x.base.toNat % 2 ^ 30 = 0 ∧ x.base.toNat < 2 ^ 56 ∧ x.refused < 2 ^ 48)
    (h : Kept q M C s) : Kept q M C (s.setWindow i x) := by
  refine ⟨h.1, h.2.1, fun c => ?_⟩
  obtain ⟨hm, hc, hs, hv, hw⟩ := h.2.2 c
  refine ⟨hm, hc, hs, hv, fun e he => ?_⟩
  rcases Table.mem_put he with rfl | he
  · exact hx c
  · exact hw e he

/-- The window page of a port is well formed. -/
theorem State.window_ok {s : State} (i : Nat) (h : Canonical s) :
    (s.window i).base.toNat % 2 ^ 30 = 0 ∧ (s.window i).base.toNat < 2 ^ 56 ∧ (s.window i).refused < 2 ^ 48 := by
  unfold State.window Table.get
  cases e : s.windows.find? i with
  | some w => exact h.2.2.2.2 _ (Table.mem_of_find? e)
  | none => decide

theorem State.emit_kept (s : State) (o : Output)  (h : Kept q M C s) : Kept q M C (State.emit s o) := by
  unfold State.emit
  try dsimp only
  repeat' first | with_reducible assumption | with_reducible apply Kept.ite <;> intro _ | simp only [Kept.upd] | split | intro _

theorem State.draw_kept (s : State) (w : Nat)  (h : Kept q M C s) : Kept q M C (State.draw s w).2 := by
  unfold State.draw
  try dsimp only
  repeat' first | with_reducible assumption | with_reducible apply Kept.ite <;> intro _ | simp only [Kept.upd] | split | intro _
theorem State.draw_eq {s : State} {w : Nat} {y' : _} {t' : State} (he : State.draw s w = (y', t')) (h : Kept q M C s) : Kept q M C t' := by
  have k := State.draw_kept s w h
  rwa [he] at k

theorem State.count_kept (s : State) (index sub n : Nat) (h : Kept q M C s) : Kept q M C (s.count index sub n) := by
  refine State.bumpWhere_kept _ _ ⟨h.1, h.2.1, fun c => ?_⟩
  obtain ⟨hm, hc, hs, hv, hw⟩ := h.2.2 c
  refine ⟨hm, fun e he => ?_, hs, hv, hw⟩
  rcases Table.mem_put he with rfl | he
  · exact Nat.mod_lt _ (by decide)
  · exact hc e he

theorem State.setCounter_kept (s : State) (index sub n : Nat) (h : Kept q M C s) : Kept q M C (s.setCounter index sub n) := by
  refine State.bumpWhere_kept _ _ ⟨h.1, h.2.1, fun c => ?_⟩
  obtain ⟨hm, hc, hs, hv, hw⟩ := h.2.2 c
  refine ⟨hm, fun e he => ?_, hs, hv, hw⟩
  rcases Table.mem_put he with rfl | he
  · exact Nat.mod_lt _ (by decide)
  · exact hc e he

theorem State.setObj_kept (s : State) (index : Nat) (sub : Nat) (v : List Byte)  (h : Kept q M C s) : Kept q M C (State.setObj s index sub v) := by
  unfold State.setObj
  try dsimp only
  repeat' first | with_reducible assumption | with_reducible apply State.bumpWhere_kept | with_reducible apply Kept.ite <;> intro _ | simp only [Kept.upd] | split | intro _

theorem State.resetObj_kept (s : State) (index : Nat) (sub : Nat)  (h : Kept q M C s) : Kept q M C (State.resetObj s index sub) := by
  unfold State.resetObj
  try dsimp only
  repeat' first | with_reducible assumption | with_reducible apply State.bumpWhere_kept | with_reducible apply Kept.ite <;> intro _ | simp only [Kept.upd] | split | intro _

theorem State.logEvent_kept (s : State) (e : Event)  (h : Kept q M C s) : Kept q M C (State.logEvent s e) := by
  unfold State.logEvent
  try dsimp only
  repeat' first | with_reducible assumption | with_reducible apply State.bumpWhere_kept | with_reducible apply State.count_kept | with_reducible apply Kept.ite <;> intro _ | simp only [Kept.upd] | split | intro _

theorem State.countLog_kept (s : State) (e : Event)  (h : Kept q M C s) : Kept q M C (State.countLog s e) := by
  unfold State.countLog
  try dsimp only
  repeat' first | with_reducible assumption | with_reducible apply State.count_kept | with_reducible apply State.logEvent_kept | with_reducible apply Kept.ite <;> intro _ | simp only [Kept.upd] | split | intro _

theorem State.writeWord_kept (s : State) (a : Nat) (x : Stored) (h : Kept q Any C s) : Kept q Any C (s.writeWord a x) :=
  ⟨h.1, trivial, fun c => ⟨Memory.wf_write s.mem (h.2.2 c).1 a x, (h.2.2 c).2⟩⟩

theorem State.writeWords_kept : ∀ (l : List (Nat × Word)) (s : State) (_ : Kept q Any C s), Kept q Any C (s.writeWords l)
  | [], _, h => h
  | (a, w) :: t, s, h => State.writeWords_kept t _ (State.writeWord_kept s a _ h)

theorem State.markTag_kept (s : State) (p : Nat) (h1 : Nat) (v : Bool) (writer : Nat)  (h : Kept q M C s) : Kept q M C (State.markTag s p h1 v writer) := by
  unfold State.markTag
  try dsimp only
  repeat' first | with_reducible assumption | with_reducible apply State.setPart_kept | with_reducible apply Kept.ite <;> intro _ | simp only [Kept.upd] | split | intro _

end
end Sys2Proof.Machine
end

