-- ==== Sys2Proof/Laws/StepsKeeps.lean ====
section
/-! SUPPORT. What the operations of Machine/Steps.lean keep: the queue, the form of the state and, where they store nothing, the memory. -/
set_option linter.all false
set_option Elab.async false
namespace Sys2Proof.Machine
section
variable {q : List Instr} {M : Memory → Prop} {C : Prop}

theorem State.writeRecord_kept (s : State) (f : FnId) (bytes : List Byte)  (h : Kept q M C s) : Kept q M C (State.writeRecord s f bytes) := by
  unfold State.writeRecord
  try dsimp only
  repeat' first | with_reducible assumption | with_reducible apply State.setFn_kept | with_reducible apply State.emit_kept | with_reducible apply Kept.ite <;> intro _ | simp only [Kept.upd] | split | intro _

theorem State.writeReserved_kept (s : State) (f : FnId) (bytes : List Byte)  (h : Kept q M C s) : Kept q M C (State.writeReserved s f bytes) := by
  unfold State.writeReserved
  try dsimp only
  repeat' first | with_reducible assumption | with_reducible apply State.setFn_kept | with_reducible apply State.count_kept | with_reducible apply State.writeRecord_kept | with_reducible apply Kept.ite <;> intro _ | simp only [Kept.upd] | split | intro _

theorem State.queueRecord_kept (s : State) (f : FnId) (bytes : List Byte)  (h : Kept q M C s) : Kept q M C (State.queueRecord s f bytes) := by
  unfold State.queueRecord
  try dsimp only
  repeat' first | with_reducible assumption | with_reducible apply State.setFn_kept | with_reducible apply Kept.ite <;> intro _ | simp only [Kept.upd] | split | intro _

theorem State.raise_kept (s : State) (k : Nat) (cause : Nat)  (h : Kept q M C s) : Kept q M C (State.raise s k cause) := by
  unfold State.raise
  try dsimp only
  repeat' first | with_reducible assumption | with_reducible apply State.setCore_kept | with_reducible apply Kept.ite <;> intro _ | simp only [Kept.upd] | split | intro _

theorem State.deliverCdp_kept (s : State) (index : Nat)  (h : Kept q M C s) : Kept q M C (State.deliverCdp s index) := by
  unfold State.deliverCdp
  try dsimp only
  repeat' first | with_reducible assumption | with_reducible apply State.raise_kept | with_reducible apply Kept.ite <;> intro _ | simp only [Kept.upd] | split | intro _

theorem State.answer_kept (s : State) (src : Src) (r : Record)  (h : Kept q M C s) : Kept q M C (State.answer s src r) := by
  unfold State.answer
  try dsimp only
  repeat' first | with_reducible assumption | with_reducible apply State.setCore_kept | with_reducible apply State.writeReserved_kept | with_reducible apply State.raise_kept | with_reducible apply Kept.ite <;> intro _ | simp only [Kept.upd] | split | intro _

theorem State.endFreeze_kept (s : State) (p : Nat)  (h : Kept q M C s) : Kept q M C (State.endFreeze s p) := by
  unfold State.endFreeze
  try dsimp only
  repeat' first | with_reducible assumption | with_reducible apply State.setCounter_kept | with_reducible apply Kept.ite <;> intro _ | simp only [Kept.upd] | split | intro _

theorem State.fence_kept (s : State) (p : Nat) (f : Failure)  (h : Kept q M C s) : Kept q M C (State.fence s p f) := by
  unfold State.fence
  try dsimp only
  repeat' first | with_reducible assumption | with_reducible apply State.setPart_kept | with_reducible apply State.logEvent_kept | with_reducible apply State.raise_kept | with_reducible apply State.endFreeze_kept | with_reducible apply Kept.ite <;> intro _ | simp only [Kept.upd] | split | intro _

theorem State.failDesc_kept (s : State) (p : Nat) (cause : Status) (b : Nat) (q1 : Nat) (d : Desc)  (h : Kept q M C s) : Kept q M C (State.failDesc s p cause b q1 d) := by
  unfold State.failDesc
  try dsimp only
  repeat' first | with_reducible assumption | with_reducible apply State.fence_kept | with_reducible apply Kept.ite <;> intro _ | simp only [Kept.upd] | split | intro _

theorem State.failStep_kept (s : State) (p : Nat) (cause : Status) (cls : Nat)  (h : Kept q M C s) : Kept q M C (State.failStep s p cause cls) := by
  unfold State.failStep
  try dsimp only
  repeat' first | with_reducible assumption | with_reducible apply State.fence_kept | with_reducible apply Kept.ite <;> intro _ | simp only [Kept.upd] | split | intro _

theorem State.readFailed_kept (s : State) (p : Nat) (reader : Nat) (dpa : Nat) (cause : Status) (syndrome : Check)  (h : Kept q M C s) : Kept q M C (State.readFailed s p reader dpa cause syndrome) := by
  unfold State.readFailed
  try dsimp only
  repeat' first | with_reducible assumption | with_reducible apply State.setObj_kept | with_reducible apply State.countLog_kept | with_reducible apply Kept.ite <;> intro _ | simp only [Kept.upd] | split | intro _

theorem State.serviceFailed_kept (s : State) (p : Option Nat) (tenant : Nat) (dpa : Nat) (cause : Status) (syndrome : Check)  (h : Kept q M C s) : Kept q M C (State.serviceFailed s p tenant dpa cause syndrome) := by
  unfold State.serviceFailed
  try dsimp only
  repeat' first | with_reducible assumption | with_reducible apply State.setObj_kept | with_reducible apply State.countLog_kept | with_reducible apply Kept.ite <;> intro _ | simp only [Kept.upd] | split | intro _

theorem State.readUnstarted_kept (s : State) (p : Nat) (reader : Nat) (b : Nat) (bank : Nat) (word : Nat)  (h : Kept q M C s) : Kept q M C (State.readUnstarted s p reader b bank word) := by
  unfold State.readUnstarted
  try dsimp only
  repeat' first | with_reducible assumption | with_reducible apply State.readFailed_kept | with_reducible apply Kept.ite <;> intro _ | simp only [Kept.upd] | split | intro _

theorem State.wipe_kept (s : State) (l : List Nat)  (h : Kept q M C s) : Kept q M C (State.wipe s l) := by
  unfold State.wipe
  try dsimp only
  repeat' first | with_reducible assumption | with_reducible apply Kept.ite <;> intro _ | with_reducible apply foldl_kept (fun _ _ _ => ?_) | simp only [Kept.upd] | split | intro _

theorem State.wipeBank_kept (s : State) (b : Nat) (bank : Nat)  (h : Kept q M C s) : Kept q M C (State.wipeBank s b bank) := by
  unfold State.wipeBank
  try dsimp only
  repeat' first | with_reducible assumption | with_reducible apply State.wipe_kept | with_reducible apply Kept.ite <;> intro _ | simp only [Kept.upd] | split | intro _

theorem State.failStore_kept (s : State) (p : Nat) (b : Nat) (q1 : Nat) (c : Status) (sy : Check)  (h : Kept q M C s) : Kept q M C (State.failStore s p b q1 c sy) := by
  unfold State.failStore
  try dsimp only
  repeat' first | with_reducible assumption | with_reducible apply State.fence_kept | with_reducible apply State.readFailed_kept | with_reducible apply Kept.ite <;> intro _ | simp only [Kept.upd] | split | intro _

theorem State.countMends_kept (s : State) (l : List Nat)  (h : Kept q M C s) : Kept q M C (State.countMends s l) := by
  unfold State.countMends
  try dsimp only
  repeat' first | with_reducible assumption | with_reducible apply State.count_kept | with_reducible apply State.logEvent_kept | with_reducible apply Kept.ite <;> intro _ | simp only [Kept.upd] | split | intro _

theorem State.mended0_kept (s : State) (l : List Nat)  (h : Kept q M C s) : Kept q M C (State.mended0 s l) := by
  unfold State.mended0
  try dsimp only
  repeat' first | with_reducible assumption | with_reducible apply State.setBlock_kept | with_reducible apply State.countMends_kept | with_reducible apply Kept.ite <;> intro _ | simp only [Kept.upd] | split | intro _

theorem State.settle_kept (s : State) (p : Nat)  (h : Kept q M C s) : Kept q M C (State.settle s p) := by
  unfold State.settle
  try dsimp only
  repeat' first | with_reducible assumption | with_reducible apply State.setPart_kept | with_reducible apply Kept.ite <;> intro _ | simp only [Kept.upd] | split | intro _

theorem State.doneTag_kept (s : State) (p : Nat) (h1 : Nat) (o : Op)  (h : Kept q M C s) : Kept q M C (State.doneTag s p h1 o) := by
  unfold State.doneTag
  try dsimp only
  repeat' first | with_reducible assumption | with_reducible apply State.markTag_kept | with_reducible apply Kept.ite <;> intro _ | simp only [Kept.upd] | split | intro _

theorem State.completeOp_kept (s : State) (p : Nat) (b : Nat) (o : Op) (dests : List Nat)  (h : Kept q M C s) : Kept q M C (State.completeOp s p b o dests) := by
  unfold State.completeOp
  try dsimp only
  repeat' first | with_reducible assumption | with_reducible apply State.setBlock_kept | with_reducible apply State.setPart_kept | with_reducible apply State.count_kept | with_reducible apply State.failDesc_kept | with_reducible apply State.settle_kept | with_reducible apply State.doneTag_kept | with_reducible apply Kept.ite <;> intro _ | with_reducible apply foldl_kept (fun _ _ _ => ?_) | simp only [Kept.upd] | split | intro _

theorem State.failOp_kept (s : State) (p : Nat) (b : Nat) (o : Op) (cause : Status)  (h : Kept q M C s) : Kept q M C (State.failOp s p b o cause) := by
  unfold State.failOp
  try dsimp only
  repeat' first | with_reducible assumption | with_reducible apply State.setBlock_kept | with_reducible apply State.failDesc_kept | with_reducible apply State.settle_kept | with_reducible apply Kept.ite <;> intro _ | simp only [Kept.upd] | split | intro _

end
end Sys2Proof.Machine
end

