-- ==== Sys2Proof/Laws/IssueKeeps.lean ====
section
/-! SUPPORT. What the operations of Machine/Issue.lean keep: the queue, the form of the state and, where they store nothing, the memory. -/
set_option linter.all false
set_option Elab.async false
namespace Sys2Proof.Machine
section
variable {q : List Instr} {M : Memory → Prop} {C : Prop}

theorem State.useBanks_kept (s : State) (b : Nat) (l : List Nat)  (h : Kept q M C s) : Kept q M C (State.useBanks s b l) := by
  unfold State.useBanks
  try dsimp only
  repeat' first | with_reducible assumption | with_reducible apply State.setBlock_kept | with_reducible apply Kept.ite <;> intro _ | simp only [Kept.upd] | split | intro _

theorem State.hold_kept (s : State) (p : Nat) (h1 : Hold)  (h : Kept q M C s) : Kept q M C (State.hold s p h1) := by
  unfold State.hold
  try dsimp only
  repeat' first | with_reducible assumption | with_reducible apply State.setPart_kept | with_reducible apply State.count_kept | with_reducible apply Kept.ite <;> intro _ | simp only [Kept.upd] | split | intro _

theorem State.passHeld_kept (s : State) (p : Nat) (h1 : Hold)  (h : Kept q M C s) : Kept q M C (State.passHeld s p h1) := by
  unfold State.passHeld
  try dsimp only
  repeat' first | with_reducible assumption | with_reducible apply State.setBlock_kept | with_reducible apply Kept.ite <;> intro _ | simp only [Kept.upd] | split | intro _

theorem State.pop_kept (s : State) (p : Nat) (b : Nat) (q1 : Nat)  (h : Kept q M C s) : Kept q M C (State.pop s p b q1) := by
  unfold State.pop
  try dsimp only
  repeat' first | with_reducible assumption | with_reducible apply State.setBlock_kept | with_reducible apply State.wipe_kept | with_reducible apply Kept.ite <;> intro _ | simp only [Kept.upd] | split | intro _

theorem State.clearTags_kept (s : State) (p : Nat) (id : Nat) (hs : List Nat)  (h : Kept q M C s) : Kept q M C (State.clearTags s p id hs) := by
  unfold State.clearTags
  try dsimp only
  repeat' first | with_reducible assumption | with_reducible apply State.markTag_kept | with_reducible apply Kept.ite <;> intro _ | with_reducible apply foldl_kept (fun _ _ _ => ?_) | simp only [Kept.upd] | split | intro _

theorem State.launch_kept (s : State) (p : Nat) (b : Nat) (o : Op)  (h : Kept q M C s) : Kept q M C (State.launch s p b o) := by
  unfold State.launch
  try dsimp only
  repeat' first | with_reducible assumption | with_reducible apply State.setBlock_kept | with_reducible apply State.clearTags_kept | with_reducible apply Kept.ite <;> intro _ | simp only [Kept.upd] | split | intro _

theorem State.issue_kept (s : State) (b : Nat) (q1 : Nat) (want : Desc → Bool) (more : State → Nat → Desc → List Status) (start : State → Nat → Desc → State)  (hstart : ∀ x0 x1 x2, Kept q M C x0 → Kept q M C (start x0 x1 x2)) (h : Kept q M C s) : Kept q M C (State.issue s b q1 want more start) := by
  unfold State.issue
  try dsimp only
  repeat' first | with_reducible assumption | with_reducible apply hstart | with_reducible apply State.failDesc_kept | with_reducible apply State.hold_kept | with_reducible apply State.pop_kept | with_reducible apply Kept.ite <;> intro _ | simp only [Kept.upd] | split | intro _

theorem State.postSummary_kept (s : State) (b : Nat) (r : Word)  (h : Kept q M C s) : Kept q M C (State.postSummary s b r) := by
  unfold State.postSummary
  try dsimp only
  repeat' first | with_reducible assumption | with_reducible apply State.setBlock_kept | with_reducible apply Kept.ite <;> intro _ | simp only [Kept.upd] | split | intro _

theorem State.completePosting_kept (s : State) (p : Nat) (b : Nat) (o : Op) (record : Option Word) (finish : State → State)  (hfinish : ∀ x0, Kept q M C x0 → Kept q M C (finish x0)) (h : Kept q M C s) : Kept q M C (State.completePosting s p b o record finish) := by
  unfold State.completePosting
  try dsimp only
  repeat' first | with_reducible assumption | with_reducible apply hfinish | with_reducible apply State.setBlock_kept | with_reducible apply State.hold_kept | with_reducible apply State.postSummary_kept | with_reducible apply Kept.ite <;> intro _ | simp only [Kept.upd] | split | intro _

end
end Sys2Proof.Machine
end

