-- ==== Sys2Proof/Laws/TiersKeeps.lean ====
section
/-! SUPPORT. What the operations of Machine/Tiers.lean keep: the queue, the form of the state and, where they store nothing, the memory. -/
set_option linter.all false
set_option Elab.async false
namespace Sys2Proof.Machine
section
variable {q : List Instr} {M : Memory → Prop} {C : Prop}

theorem State.writeTier_kept (key : Nat) : ∀ (l : List (Nat × Word)) (s : State) (_ : Kept q Any C s), Kept q Any C (s.writeTier key l)
  | [], _, h => h
  | (a, w) :: t, s, h => by
    unfold State.writeTier
    exact State.writeTier_kept key t _ (State.writeWord_kept s a _ h)

theorem State.mendedTier_kept (s : State) (l : List Nat)  (h : Kept q M C s) : Kept q M C (State.mendedTier s l) := by
  unfold State.mendedTier
  try dsimp only
  repeat' first | with_reducible assumption | with_reducible apply State.count_kept | with_reducible apply State.logEvent_kept | with_reducible apply Kept.ite <;> intro _ | simp only [Kept.upd] | split | intro _

theorem State.mendedBy_kept (s : State) (b : Nat) (l : List Nat)  (h : Kept q M C s) : Kept q M C (State.mendedBy s b l) := by
  unfold State.mendedBy
  try dsimp only
  repeat' first | with_reducible assumption | with_reducible apply State.setBlock_kept | with_reducible apply State.mendedTier_kept | with_reducible apply Kept.ite <;> intro _ | simp only [Kept.upd] | split | intro _

theorem State.noteSlow_kept (s : State) (a : Nat)  (h : Kept q M C s) : Kept q M C (State.noteSlow s a) := by
  unfold State.noteSlow
  try dsimp only
  repeat' first | with_reducible assumption | with_reducible apply State.count_kept | with_reducible apply Kept.ite <;> intro _ | simp only [Kept.upd] | split | intro _

theorem State.portFault_kept (s : State) (a : Nat)  (h : Kept q M C s) : Kept q M C (State.portFault s a) := by
  unfold State.portFault
  try dsimp only
  repeat' first | with_reducible assumption | with_reducible apply State.countLog_kept | with_reducible apply Kept.ite <;> intro _ | simp only [Kept.upd] | split | intro _

theorem State.charge_kept (s : State) (t : Nat) (cls : Nat) (bytes : Nat)  (h : Kept q M C s) : Kept q M C (State.charge s t cls bytes) := by
  unfold State.charge
  try dsimp only
  repeat' first | with_reducible assumption | with_reducible apply State.setTenant_kept | with_reducible apply Kept.ite <;> intro _ | simp only [Kept.upd] | split | intro _

theorem State.serviceUnits_kept (s : State) (a : Nat) (n : Nat)  (h : Kept q M C s) : Kept q M C (State.serviceUnits s a n) := by
  unfold State.serviceUnits
  try dsimp only
  repeat' first | with_reducible assumption | with_reducible apply State.setChannel_kept | with_reducible apply Kept.ite <;> intro _ | simp only [Kept.upd] | split | intro _

theorem State.serviceMove_kept (s : State) (tenant : Option Nat) (a : Nat) (n : Nat)  (h : Kept q M C s) : Kept q M C (State.serviceMove s tenant a n) := by
  unfold State.serviceMove
  try dsimp only
  repeat' first | with_reducible assumption | with_reducible apply State.charge_kept | with_reducible apply State.serviceUnits_kept | with_reducible apply Kept.ite <;> intro _ | simp only [Kept.upd] | split | intro _

theorem State.clearRange_kept (s : State) (a n : Nat) (h : Kept q Any C s) : Kept q Any C (s.clearRange a n) :=
  State.count_kept _ _ _ _ ⟨h.1, trivial, fun c => ⟨Memory.wf_clear s.mem (h.2.2 c).1 a n, (h.2.2 c).2⟩⟩

theorem State.takeFrame_kept (s : State) (p : Nat) (t : Nat) (j : Nat) (f : Nat)  (h : Kept q Any C s) : Kept q Any C (State.takeFrame s p t j f) := by
  unfold State.takeFrame
  try dsimp only
  repeat' first | with_reducible assumption | with_reducible apply State.serviceUnits_kept | with_reducible apply State.clearRange_kept | with_reducible apply Kept.ite <;> intro _ | simp only [Kept.upd] | split | intro _

end
end Sys2Proof.Machine
end

