-- ==== Sys2Proof/Laws/MatrixKeeps.lean ====
section
/-! SUPPORT. What the operations of Machine/Matrix.lean keep: the queue, the form of the state and, where they store nothing, the memory. -/
set_option linter.all false
set_option Elab.async false
namespace Sys2Proof.Machine
section
variable {q : List Instr} {M : Memory → Prop} {C : Prop}

theorem execMma_kept (b : Fin 256) (s : State)  (h : Kept q M C s) : KeptOut q M C (execMma b s) := by
  unfold execMma
  try dsimp only
  repeat' first | with_reducible assumption | with_reducible apply KeptOut.next | with_reducible apply KeptOut.ite <;> intro _ | with_reducible apply State.setBlock_kept | with_reducible apply State.failDesc_kept | with_reducible apply State.readFailed_kept | with_reducible apply State.readUnstarted_kept | with_reducible apply State.wipeBank_kept | with_reducible apply State.launch_kept | with_reducible apply State.issue_kept | with_reducible apply Kept.ite <;> intro _ | simp only [Kept.upd] | split | intro _
theorem execMma_eq {b : Fin 256} {s : State} {t' : State} (he : execMma b s = .next t') (h : Kept q M C s) : Kept q M C t' := execMma_kept b s h t' he

theorem execAccStart_kept (b : Fin 256) (s : State)  (h : Kept q M C s) : KeptOut q M C (execAccStart b s) := by
  unfold execAccStart
  try dsimp only
  repeat' first | with_reducible assumption | with_reducible apply KeptOut.next | with_reducible apply KeptOut.ite <;> intro _ | with_reducible apply State.setBlock_kept | with_reducible apply State.wipeBank_kept | with_reducible apply State.launch_kept | with_reducible apply State.issue_kept | with_reducible apply Kept.ite <;> intro _ | simp only [Kept.upd] | split | intro _
theorem execAccStart_eq {b : Fin 256} {s : State} {t' : State} (he : execAccStart b s = .next t') (h : Kept q M C s) : Kept q M C t' := execAccStart_kept b s h t' he

theorem execAccLoad_kept (b : Fin 256) (s : State)  (h : Kept q M C s) : KeptOut q M C (execAccLoad b s) := by
  unfold execAccLoad
  try dsimp only
  repeat' first | with_reducible assumption | with_reducible apply KeptOut.next | with_reducible apply KeptOut.ite <;> intro _ | with_reducible apply State.setBlock_kept | with_reducible apply State.failDesc_kept | with_reducible apply State.readFailed_kept | with_reducible apply State.wipeBank_kept | with_reducible apply State.mended0_kept | with_reducible apply State.launch_kept | with_reducible apply State.issue_kept | with_reducible apply Kept.ite <;> intro _ | simp only [Kept.upd] | split | intro _
theorem execAccLoad_eq {b : Fin 256} {s : State} {t' : State} (he : execAccLoad b s = .next t') (h : Kept q M C s) : Kept q M C t' := execAccLoad_kept b s h t' he

theorem State.takeReads_kept (s : State) (p : Nat) (b : Nat) (o : Op) (ws : List Word)  (h : Kept q M C s) : Kept q M C (State.takeReads s p b o ws) := by
  unfold State.takeReads
  try dsimp only
  repeat' first | with_reducible assumption | with_reducible apply State.setBlock_kept | with_reducible apply Kept.ite <;> intro _ | simp only [Kept.upd] | split | intro _

theorem State.stageOp_kept (s : State) (b : Nat) (o : Op)  (h : Kept q M C s) : Kept q M C (State.stageOp s b o) := by
  unfold State.stageOp
  try dsimp only
  repeat' first | with_reducible assumption | with_reducible apply State.readFailed_kept | with_reducible apply State.mended0_kept | with_reducible apply State.failOp_kept | with_reducible apply State.takeReads_kept | with_reducible apply Kept.ite <;> intro _ | simp only [Kept.upd] | split | intro _

theorem State.stageBlock_kept (s : State) (b : Nat)  (h : Kept q M C s) : Kept q M C (State.stageBlock s b) := by
  unfold State.stageBlock
  try dsimp only
  repeat' first | with_reducible assumption | with_reducible apply State.stageOp_kept | with_reducible apply Kept.ite <;> intro _ | with_reducible apply foldl_kept (fun _ _ _ => ?_) | simp only [Kept.upd] | split | intro _

theorem execFold_kept (b : Fin 256) (s : State)  (h : Kept q M C s) : KeptOut q M C (execFold b s) := by
  unfold execFold
  try dsimp only
  repeat' first | with_reducible assumption | with_reducible apply KeptOut.next | with_reducible apply KeptOut.ite <;> intro _ | with_reducible apply State.setBlock_kept | with_reducible apply State.count_kept | with_reducible apply State.readFailed_kept | with_reducible apply State.wipe_kept | with_reducible apply State.failOp_kept | with_reducible apply State.stageBlock_kept | with_reducible apply Kept.ite <;> intro _ | simp only [Kept.upd] | split | intro _
theorem execFold_eq {b : Fin 256} {s : State} {t' : State} (he : execFold b s = .next t') (h : Kept q M C s) : Kept q M C t' := execFold_kept b s h t' he

theorem execMatrixCompletion_kept (b : Fin 256) (s : State)  (h : Kept q M C s) : KeptOut q M C (execMatrixCompletion b s) := by
  unfold execMatrixCompletion
  try dsimp only
  repeat' first | with_reducible assumption | with_reducible apply KeptOut.next | with_reducible apply KeptOut.ite <;> intro _ | with_reducible apply State.setBlock_kept | with_reducible apply State.completeOp_kept | with_reducible apply Kept.ite <;> intro _ | simp only [Kept.upd] | split | intro _
theorem execMatrixCompletion_eq {b : Fin 256} {s : State} {t' : State} (he : execMatrixCompletion b s = .next t') (h : Kept q M C s) : Kept q M C t' := execMatrixCompletion_kept b s h t' he

end
end Sys2Proof.Machine
end

