-- ==== Sys2Proof/Laws/VectorKeeps.lean ====
section
/-! SUPPORT. What the operations of Machine/Vector.lean keep: the queue, the form of the state and, where they store nothing, the memory. -/
set_option linter.all false
set_option Elab.async false
namespace Sys2Proof.Machine
section
variable {q : List Instr} {M : Memory → Prop} {C : Prop}

theorem State.launchVector_kept (s : State) (p : Nat) (b : Nat) (d : Desc) (o : VecOut)  (h : Kept q M C s) : Kept q M C (State.launchVector s p b d o) := by
  unfold State.launchVector
  try dsimp only
  repeat' first | with_reducible assumption | with_reducible apply State.setBlock_kept | with_reducible apply State.launch_kept | with_reducible apply Kept.ite <;> intro _ | simp only [Kept.upd] | split | intro _

theorem State.issueVector_kept (s : State) (b : Nat) (want : Desc → Bool) (f : VecArgs → Except Status VecOut)  (h : Kept q M C s) : Kept q M C (State.issueVector s b want f) := by
  unfold State.issueVector
  try dsimp only
  repeat' first | with_reducible assumption | with_reducible apply State.count_kept | with_reducible apply State.failDesc_kept | with_reducible apply State.readFailed_kept | with_reducible apply State.readUnstarted_kept | with_reducible apply State.mended0_kept | with_reducible apply State.issue_kept | with_reducible apply State.launchVector_kept | with_reducible apply Kept.ite <;> intro _ | simp only [Kept.upd] | split | intro _

theorem execReadout_kept (b : Fin 256) (s : State)  (h : Kept q M C s) : KeptOut q M C (execReadout b s) := by
  unfold execReadout
  try dsimp only
  repeat' first | with_reducible assumption | with_reducible apply KeptOut.next | with_reducible apply KeptOut.ite <;> intro _ | with_reducible apply State.issueVector_kept | with_reducible apply Kept.ite <;> intro _ | simp only [Kept.upd] | split | intro _
theorem execReadout_eq {b : Fin 256} {s : State} {t' : State} (he : execReadout b s = .next t') (h : Kept q M C s) : Kept q M C t' := execReadout_kept b s h t' he

theorem execExportBank_kept (b : Fin 256) (s : State)  (h : Kept q M C s) : KeptOut q M C (execExportBank b s) := by
  unfold execExportBank
  try dsimp only
  repeat' first | with_reducible assumption | with_reducible apply KeptOut.next | with_reducible apply KeptOut.ite <;> intro _ | with_reducible apply State.issueVector_kept | with_reducible apply Kept.ite <;> intro _ | simp only [Kept.upd] | split | intro _
theorem execExportBank_eq {b : Fin 256} {s : State} {t' : State} (he : execExportBank b s = .next t') (h : Kept q M C s) : Kept q M C t' := execExportBank_kept b s h t' he

theorem execWpadd_kept (b : Fin 256) (s : State)  (h : Kept q M C s) : KeptOut q M C (execWpadd b s) := by
  unfold execWpadd
  try dsimp only
  repeat' first | with_reducible assumption | with_reducible apply KeptOut.next | with_reducible apply KeptOut.ite <;> intro _ | with_reducible apply State.issueVector_kept | with_reducible apply Kept.ite <;> intro _ | simp only [Kept.upd] | split | intro _
theorem execWpadd_eq {b : Fin 256} {s : State} {t' : State} (he : execWpadd b s = .next t') (h : Kept q M C s) : Kept q M C t' := execWpadd_kept b s h t' he

theorem execCvt_kept (b : Fin 256) (s : State)  (h : Kept q M C s) : KeptOut q M C (execCvt b s) := by
  unfold execCvt
  try dsimp only
  repeat' first | with_reducible assumption | with_reducible apply KeptOut.next | with_reducible apply KeptOut.ite <;> intro _ | with_reducible apply State.issueVector_kept | with_reducible apply Kept.ite <;> intro _ | simp only [Kept.upd] | split | intro _
theorem execCvt_eq {b : Fin 256} {s : State} {t' : State} (he : execCvt b s = .next t') (h : Kept q M C s) : Kept q M C t' := execCvt_kept b s h t' he

theorem execAdd_kept (b : Fin 256) (s : State)  (h : Kept q M C s) : KeptOut q M C (execAdd b s) := by
  unfold execAdd
  try dsimp only
  repeat' first | with_reducible assumption | with_reducible apply KeptOut.next | with_reducible apply KeptOut.ite <;> intro _ | with_reducible apply State.issueVector_kept | with_reducible apply Kept.ite <;> intro _ | simp only [Kept.upd] | split | intro _
theorem execAdd_eq {b : Fin 256} {s : State} {t' : State} (he : execAdd b s = .next t') (h : Kept q M C s) : Kept q M C t' := execAdd_kept b s h t' he

theorem execSub_kept (b : Fin 256) (s : State)  (h : Kept q M C s) : KeptOut q M C (execSub b s) := by
  unfold execSub
  try dsimp only
  repeat' first | with_reducible assumption | with_reducible apply KeptOut.next | with_reducible apply KeptOut.ite <;> intro _ | with_reducible apply State.issueVector_kept | with_reducible apply Kept.ite <;> intro _ | simp only [Kept.upd] | split | intro _
theorem execSub_eq {b : Fin 256} {s : State} {t' : State} (he : execSub b s = .next t') (h : Kept q M C s) : Kept q M C t' := execSub_kept b s h t' he

theorem execMul_kept (b : Fin 256) (s : State)  (h : Kept q M C s) : KeptOut q M C (execMul b s) := by
  unfold execMul
  try dsimp only
  repeat' first | with_reducible assumption | with_reducible apply KeptOut.next | with_reducible apply KeptOut.ite <;> intro _ | with_reducible apply State.issueVector_kept | with_reducible apply Kept.ite <;> intro _ | simp only [Kept.upd] | split | intro _
theorem execMul_eq {b : Fin 256} {s : State} {t' : State} (he : execMul b s = .next t') (h : Kept q M C s) : Kept q M C t' := execMul_kept b s h t' he

theorem execFma_kept (b : Fin 256) (s : State)  (h : Kept q M C s) : KeptOut q M C (execFma b s) := by
  unfold execFma
  try dsimp only
  repeat' first | with_reducible assumption | with_reducible apply KeptOut.next | with_reducible apply KeptOut.ite <;> intro _ | with_reducible apply State.issueVector_kept | with_reducible apply Kept.ite <;> intro _ | simp only [Kept.upd] | split | intro _
theorem execFma_eq {b : Fin 256} {s : State} {t' : State} (he : execFma b s = .next t') (h : Kept q M C s) : Kept q M C t' := execFma_kept b s h t' he

theorem execMax_kept (b : Fin 256) (s : State)  (h : Kept q M C s) : KeptOut q M C (execMax b s) := by
  unfold execMax
  try dsimp only
  repeat' first | with_reducible assumption | with_reducible apply KeptOut.next | with_reducible apply KeptOut.ite <;> intro _ | with_reducible apply State.issueVector_kept | with_reducible apply Kept.ite <;> intro _ | simp only [Kept.upd] | split | intro _
theorem execMax_eq {b : Fin 256} {s : State} {t' : State} (he : execMax b s = .next t') (h : Kept q M C s) : Kept q M C t' := execMax_kept b s h t' he

theorem execMin_kept (b : Fin 256) (s : State)  (h : Kept q M C s) : KeptOut q M C (execMin b s) := by
  unfold execMin
  try dsimp only
  repeat' first | with_reducible assumption | with_reducible apply KeptOut.next | with_reducible apply KeptOut.ite <;> intro _ | with_reducible apply State.issueVector_kept | with_reducible apply Kept.ite <;> intro _ | simp only [Kept.upd] | split | intro _
theorem execMin_eq {b : Fin 256} {s : State} {t' : State} (he : execMin b s = .next t') (h : Kept q M C s) : Kept q M C t' := execMin_kept b s h t' he

theorem execTransExp2_kept (b : Fin 256) (s : State)  (h : Kept q M C s) : KeptOut q M C (execTransExp2 b s) := by
  unfold execTransExp2
  try dsimp only
  repeat' first | with_reducible assumption | with_reducible apply KeptOut.next | with_reducible apply KeptOut.ite <;> intro _ | with_reducible apply State.issueVector_kept | with_reducible apply Kept.ite <;> intro _ | simp only [Kept.upd] | split | intro _
theorem execTransExp2_eq {b : Fin 256} {s : State} {t' : State} (he : execTransExp2 b s = .next t') (h : Kept q M C s) : Kept q M C t' := execTransExp2_kept b s h t' he

theorem execTransLog2_kept (b : Fin 256) (s : State)  (h : Kept q M C s) : KeptOut q M C (execTransLog2 b s) := by
  unfold execTransLog2
  try dsimp only
  repeat' first | with_reducible assumption | with_reducible apply KeptOut.next | with_reducible apply KeptOut.ite <;> intro _ | with_reducible apply State.issueVector_kept | with_reducible apply Kept.ite <;> intro _ | simp only [Kept.upd] | split | intro _
theorem execTransLog2_eq {b : Fin 256} {s : State} {t' : State} (he : execTransLog2 b s = .next t') (h : Kept q M C s) : Kept q M C t' := execTransLog2_kept b s h t' he

theorem execTransReciprocal_kept (b : Fin 256) (s : State)  (h : Kept q M C s) : KeptOut q M C (execTransReciprocal b s) := by
  unfold execTransReciprocal
  try dsimp only
  repeat' first | with_reducible assumption | with_reducible apply KeptOut.next | with_reducible apply KeptOut.ite <;> intro _ | with_reducible apply State.issueVector_kept | with_reducible apply Kept.ite <;> intro _ | simp only [Kept.upd] | split | intro _
theorem execTransReciprocal_eq {b : Fin 256} {s : State} {t' : State} (he : execTransReciprocal b s = .next t') (h : Kept q M C s) : Kept q M C t' := execTransReciprocal_kept b s h t' he

theorem execTransReciprocalSquareRoot_kept (b : Fin 256) (s : State)  (h : Kept q M C s) : KeptOut q M C (execTransReciprocalSquareRoot b s) := by
  unfold execTransReciprocalSquareRoot
  try dsimp only
  repeat' first | with_reducible assumption | with_reducible apply KeptOut.next | with_reducible apply KeptOut.ite <;> intro _ | with_reducible apply State.issueVector_kept | with_reducible apply Kept.ite <;> intro _ | simp only [Kept.upd] | split | intro _
theorem execTransReciprocalSquareRoot_eq {b : Fin 256} {s : State} {t' : State} (he : execTransReciprocalSquareRoot b s = .next t') (h : Kept q M C s) : Kept q M C t' := execTransReciprocalSquareRoot_kept b s h t' he

theorem execTransTanh_kept (b : Fin 256) (s : State)  (h : Kept q M C s) : KeptOut q M C (execTransTanh b s) := by
  unfold execTransTanh
  try dsimp only
  repeat' first | with_reducible assumption | with_reducible apply KeptOut.next | with_reducible apply KeptOut.ite <;> intro _ | with_reducible apply State.issueVector_kept | with_reducible apply Kept.ite <;> intro _ | simp only [Kept.upd] | split | intro _
theorem execTransTanh_eq {b : Fin 256} {s : State} {t' : State} (he : execTransTanh b s = .next t') (h : Kept q M C s) : Kept q M C t' := execTransTanh_kept b s h t' he

theorem execReduceSum_kept (b : Fin 256) (s : State)  (h : Kept q M C s) : KeptOut q M C (execReduceSum b s) := by
  unfold execReduceSum
  try dsimp only
  repeat' first | with_reducible assumption | with_reducible apply KeptOut.next | with_reducible apply KeptOut.ite <;> intro _ | with_reducible apply State.issueVector_kept | with_reducible apply Kept.ite <;> intro _ | simp only [Kept.upd] | split | intro _
theorem execReduceSum_eq {b : Fin 256} {s : State} {t' : State} (he : execReduceSum b s = .next t') (h : Kept q M C s) : Kept q M C t' := execReduceSum_kept b s h t' he

theorem execReduceSumsq_kept (b : Fin 256) (s : State)  (h : Kept q M C s) : KeptOut q M C (execReduceSumsq b s) := by
  unfold execReduceSumsq
  try dsimp only
  repeat' first | with_reducible assumption | with_reducible apply KeptOut.next | with_reducible apply KeptOut.ite <;> intro _ | with_reducible apply State.issueVector_kept | with_reducible apply Kept.ite <;> intro _ | simp only [Kept.upd] | split | intro _
theorem execReduceSumsq_eq {b : Fin 256} {s : State} {t' : State} (he : execReduceSumsq b s = .next t') (h : Kept q M C s) : Kept q M C t' := execReduceSumsq_kept b s h t' he

theorem execReduceMax_kept (b : Fin 256) (s : State)  (h : Kept q M C s) : KeptOut q M C (execReduceMax b s) := by
  unfold execReduceMax
  try dsimp only
  repeat' first | with_reducible assumption | with_reducible apply KeptOut.next | with_reducible apply KeptOut.ite <;> intro _ | with_reducible apply State.issueVector_kept | with_reducible apply Kept.ite <;> intro _ | simp only [Kept.upd] | split | intro _
theorem execReduceMax_eq {b : Fin 256} {s : State} {t' : State} (he : execReduceMax b s = .next t') (h : Kept q M C s) : Kept q M C t' := execReduceMax_kept b s h t' he

theorem execReduceMin_kept (b : Fin 256) (s : State)  (h : Kept q M C s) : KeptOut q M C (execReduceMin b s) := by
  unfold execReduceMin
  try dsimp only
  repeat' first | with_reducible assumption | with_reducible apply KeptOut.next | with_reducible apply KeptOut.ite <;> intro _ | with_reducible apply State.issueVector_kept | with_reducible apply Kept.ite <;> intro _ | simp only [Kept.upd] | split | intro _
theorem execReduceMin_eq {b : Fin 256} {s : State} {t' : State} (he : execReduceMin b s = .next t') (h : Kept q M C s) : Kept q M C t' := execReduceMin_kept b s h t' he

theorem execReduceArgmax_kept (b : Fin 256) (s : State)  (h : Kept q M C s) : KeptOut q M C (execReduceArgmax b s) := by
  unfold execReduceArgmax
  try dsimp only
  repeat' first | with_reducible assumption | with_reducible apply KeptOut.next | with_reducible apply KeptOut.ite <;> intro _ | with_reducible apply State.issueVector_kept | with_reducible apply Kept.ite <;> intro _ | simp only [Kept.upd] | split | intro _
theorem execReduceArgmax_eq {b : Fin 256} {s : State} {t' : State} (he : execReduceArgmax b s = .next t') (h : Kept q M C s) : Kept q M C t' := execReduceArgmax_kept b s h t' he

theorem execReduceArgmin_kept (b : Fin 256) (s : State)  (h : Kept q M C s) : KeptOut q M C (execReduceArgmin b s) := by
  unfold execReduceArgmin
  try dsimp only
  repeat' first | with_reducible assumption | with_reducible apply KeptOut.next | with_reducible apply KeptOut.ite <;> intro _ | with_reducible apply State.issueVector_kept | with_reducible apply Kept.ite <;> intro _ | simp only [Kept.upd] | split | intro _
theorem execReduceArgmin_eq {b : Fin 256} {s : State} {t' : State} (he : execReduceArgmin b s = .next t') (h : Kept q M C s) : Kept q M C t' := execReduceArgmin_kept b s h t' he

theorem execExpsum_kept (b : Fin 256) (s : State)  (h : Kept q M C s) : KeptOut q M C (execExpsum b s) := by
  unfold execExpsum
  try dsimp only
  repeat' first | with_reducible assumption | with_reducible apply KeptOut.next | with_reducible apply KeptOut.ite <;> intro _ | with_reducible apply State.issueVector_kept | with_reducible apply Kept.ite <;> intro _ | simp only [Kept.upd] | split | intro _
theorem execExpsum_eq {b : Fin 256} {s : State} {t' : State} (he : execExpsum b s = .next t') (h : Kept q M C s) : Kept q M C t' := execExpsum_kept b s h t' he

theorem execNormscale_kept (b : Fin 256) (s : State)  (h : Kept q M C s) : KeptOut q M C (execNormscale b s) := by
  unfold execNormscale
  try dsimp only
  repeat' first | with_reducible assumption | with_reducible apply KeptOut.next | with_reducible apply KeptOut.ite <;> intro _ | with_reducible apply State.issueVector_kept | with_reducible apply Kept.ite <;> intro _ | simp only [Kept.upd] | split | intro _
theorem execNormscale_eq {b : Fin 256} {s : State} {t' : State} (he : execNormscale b s = .next t') (h : Kept q M C s) : Kept q M C t' := execNormscale_kept b s h t' he

theorem execSample_kept (b : Fin 256) (s : State)  (h : Kept q M C s) : KeptOut q M C (execSample b s) := by
  unfold execSample
  try dsimp only
  repeat' first | with_reducible assumption | with_reducible apply KeptOut.next | with_reducible apply KeptOut.ite <;> intro _ | with_reducible apply State.issueVector_kept | with_reducible apply Kept.ite <;> intro _ | simp only [Kept.upd] | split | intro _
theorem execSample_eq {b : Fin 256} {s : State} {t' : State} (he : execSample b s = .next t') (h : Kept q M C s) : Kept q M C t' := execSample_kept b s h t' he

theorem execSampleMerge_kept (b : Fin 256) (s : State)  (h : Kept q M C s) : KeptOut q M C (execSampleMerge b s) := by
  unfold execSampleMerge
  try dsimp only
  repeat' first | with_reducible assumption | with_reducible apply KeptOut.next | with_reducible apply KeptOut.ite <;> intro _ | with_reducible apply State.issueVector_kept | with_reducible apply Kept.ite <;> intro _ | simp only [Kept.upd] | split | intro _
theorem execSampleMerge_eq {b : Fin 256} {s : State} {t' : State} (he : execSampleMerge b s = .next t') (h : Kept q M C s) : Kept q M C t' := execSampleMerge_kept b s h t' he

theorem State.finishVector_kept (s : State) (b : Nat) (o : Op)  (h : Kept q Any C s) : Kept q Any C (State.finishVector s b o) := by
  unfold State.finishVector
  try dsimp only
  repeat' first | with_reducible assumption | with_reducible apply State.writeWords_kept | with_reducible apply State.completeOp_kept | with_reducible apply State.useBanks_kept | with_reducible apply State.completePosting_kept | with_reducible apply Kept.ite <;> intro _ | simp only [Kept.upd] | split | intro _

theorem execVectorCompletion_kept (b : Fin 256) (s : State)  (h : Kept q Any C s) : KeptOut q Any C (execVectorCompletion b s) := by
  unfold execVectorCompletion
  try dsimp only
  repeat' first | with_reducible assumption | with_reducible apply KeptOut.next | with_reducible apply KeptOut.ite <;> intro _ | with_reducible apply State.finishVector_kept | with_reducible apply Kept.ite <;> intro _ | simp only [Kept.upd] | split | intro _
theorem execVectorCompletion_eq {b : Fin 256} {s : State} {t' : State} (he : execVectorCompletion b s = .next t') (h : Kept q Any C s) : Kept q Any C t' := execVectorCompletion_kept b s h t' he

theorem execSummaryHoldRelease_kept (b : Fin 256) (s : State)  (h : Kept q Any C s) : KeptOut q Any C (execSummaryHoldRelease b s) := by
  unfold execSummaryHoldRelease
  try dsimp only
  repeat' first | with_reducible assumption | with_reducible apply KeptOut.next | with_reducible apply KeptOut.ite <;> intro _ | with_reducible apply State.finishVector_kept | with_reducible apply Kept.ite <;> intro _ | simp only [Kept.upd] | split | intro _
theorem execSummaryHoldRelease_eq {b : Fin 256} {s : State} {t' : State} (he : execSummaryHoldRelease b s = .next t') (h : Kept q Any C s) : Kept q Any C t' := execSummaryHoldRelease_kept b s h t' he

theorem execSummaryDelivery_kept (b : Fin 256) (s : State)  (h : Kept q M C s) : KeptOut q M C (execSummaryDelivery b s) := by
  unfold execSummaryDelivery
  try dsimp only
  repeat' first | with_reducible assumption | with_reducible apply KeptOut.next | with_reducible apply KeptOut.ite <;> intro _ | with_reducible apply State.setBlock_kept | with_reducible apply State.setPart_kept | with_reducible apply State.raise_kept | with_reducible apply Kept.ite <;> intro _ | simp only [Kept.upd] | split | intro _
theorem execSummaryDelivery_eq {b : Fin 256} {s : State} {t' : State} (he : execSummaryDelivery b s = .next t') (h : Kept q M C s) : Kept q M C t' := execSummaryDelivery_kept b s h t' he

end
end Sys2Proof.Machine
end

