-- ==== Sys2Proof/Laws/BanksKeeps.lean ====
section
/-! SUPPORT. What the operations of Machine/Banks.lean keep: the queue, the form of the state and, where they store nothing, the memory. -/
set_option linter.all false
set_option Elab.async false
namespace Sys2Proof.Machine
section
variable {q : List Instr} {M : Memory → Prop} {C : Prop}

theorem State.useBank_kept (s : State) (b : Nat) (a : Nat)  (h : Kept q M C s) : Kept q M C (State.useBank s b a) := by
  unfold State.useBank
  try dsimp only
  repeat' first | with_reducible assumption | with_reducible apply State.setBlock_kept | with_reducible apply Kept.ite <;> intro _ | simp only [Kept.upd] | split | intro _

theorem State.delayOp_kept (s : State) (b : Nat) (o : Op) (n : Nat)  (h : Kept q M C s) : Kept q M C (State.delayOp s b o n) := by
  unfold State.delayOp
  try dsimp only
  repeat' first | with_reducible assumption | with_reducible apply State.setBlock_kept | with_reducible apply Kept.ite <;> intro _ | simp only [Kept.upd] | split | intro _

theorem State.delayBlock_kept (s : State) (b : Nat)  (h : Kept q M C s) : Kept q M C (State.delayBlock s b) := by
  unfold State.delayBlock
  try dsimp only
  repeat' first | with_reducible assumption | with_reducible apply State.delayOp_kept | with_reducible apply Kept.ite <;> intro _ | with_reducible apply foldl_kept (fun _ _ _ => ?_) | with_reducible apply foldl_kept_snd (fun _ _ _ => ?_) | with_reducible apply foldl_kept_fst (fun _ _ _ => ?_) | simp only [Kept.upd] | split | intro _

end
end Sys2Proof.Machine
end

