-- ==== Sys2Proof/Laws/MoverKeeps.lean ====
section
/-! SUPPORT. What the operations of Machine/Mover.lean keep: the queue, the form of the state and, where they store nothing, the memory. -/
set_option linter.all false
set_option Elab.async false
namespace Sys2Proof.Machine
section
variable {q : List Instr} {M : Memory → Prop} {C : Prop}

theorem State.crossing_kept (s : State) (p : Nat) (d : Nat) (e : Nat) (t : Nat)  (h : Kept q M C s) : Kept q M C (State.crossing s p d e t).2 := by
  unfold State.crossing
  try dsimp only
  repeat' first | with_reducible assumption | with_reducible apply State.setDistrict_kept | with_reducible apply Kept.ite <;> intro _ | simp only [Kept.upd] | split | intro _
theorem State.crossing_eq {s : State} {p : Nat} {d : Nat} {e : Nat} {t : Nat} {y' : _} {t' : State} (he : State.crossing s p d e t = (y', t')) (h : Kept q M C s) : Kept q M C t' := by
  have k := State.crossing_kept s p d e t h
  rwa [he] at k

theorem State.travel_kept (p : Nat) : ∀ (l : List Nat) (s : State) (at_ : Nat) (_ : Kept q M C s), Kept q M C (s.travel p l at_).2
  | [], _, _, h => h
  | [_], _, _, h => h
  | d :: e :: l, s, at_, h => State.travel_kept p (e :: l) _ _ (State.crossing_kept s p d e at_ h)

theorem State.sendWords_kept (s : State) (p : Nat) (b : Nat) (o : Op) (ws : List (Nat × Stored))  (h : Kept q M C s) : Kept q M C (State.sendWords s p b o ws) := by
  unfold State.sendWords
  try dsimp only
  repeat' first | with_reducible assumption | with_reducible apply State.setBlock_kept | with_reducible apply State.travel_kept | with_reducible refine State.travel_eq ‹_› ?_ | with_reducible apply Kept.ite <;> intro _ | with_reducible apply foldl_kept (fun _ _ _ => ?_) | simp only [Kept.upd] | split | intro _

theorem State.landWords_kept (s : State) (mesh : Bool) (ob : Nat) (id : Nat) (due : Nat) (ws : List (Nat × Word))  (h : Kept q M C s) : Kept q M C (State.landWords s mesh ob id due ws) := by
  unfold State.landWords
  try dsimp only
  repeat' first | with_reducible assumption | with_reducible apply State.setBlock_kept | with_reducible apply Kept.ite <;> intro _ | with_reducible apply foldl_kept (fun _ _ _ => ?_) | simp only [Kept.upd] | split | intro _

theorem State.wordDone_kept (s : State) (b : Nat) (id : Nat)  (h : Kept q M C s) : Kept q M C (State.wordDone s b id) := by
  unfold State.wordDone
  try dsimp only
  repeat' first | with_reducible assumption | with_reducible apply State.setBlock_kept | with_reducible apply Kept.ite <;> intro _ | simp only [Kept.upd] | split | intro _

theorem State.endMarch_kept (s : State) (a : Nat)  (h : Kept q M C s) : Kept q M C (State.endMarch s a) := by
  unfold State.endMarch
  try dsimp only
  repeat' first | with_reducible assumption | with_reducible apply State.setBlock_kept | with_reducible apply State.count_kept | with_reducible apply Kept.ite <;> intro _ | simp only [Kept.upd] | split | intro _

theorem State.writeDelivered_kept (s : State) (v : Delivery)  (h : Kept q Any C s) : Kept q Any C (State.writeDelivered s v) := by
  unfold State.writeDelivered
  try dsimp only
  repeat' first | with_reducible assumption | with_reducible apply State.writeWord_kept | with_reducible apply State.countMends_kept | with_reducible apply State.wordDone_kept | with_reducible apply State.endMarch_kept | with_reducible apply Kept.ite <;> intro _ | simp only [Kept.upd] | split | intro _

theorem State.presentUnit_kept (s : State) (u : HbmUnit)  (h : Kept q M C s) : Kept q M C (State.presentUnit s u) := by
  unfold State.presentUnit
  try dsimp only
  repeat' first | with_reducible assumption | with_reducible apply State.setChannel_kept | with_reducible apply Kept.ite <;> intro _ | simp only [Kept.upd] | split | intro _

theorem State.presentAll_kept (s : State) (l : List HbmUnit)  (h : Kept q M C s) : Kept q M C (State.presentAll s l) := by
  unfold State.presentAll
  try dsimp only
  repeat' first | with_reducible assumption | with_reducible apply State.presentUnit_kept | with_reducible apply Kept.ite <;> intro _ | with_reducible apply foldl_kept (fun _ _ _ => ?_) | simp only [Kept.upd] | split | intro _

theorem State.presentReads_kept (s : State) (b : Nat) (o : Op) (key : Nat) (ws : List (Nat × Nat))  (h : Kept q M C s) : Kept q M C (State.presentReads s b o key ws) := by
  unfold State.presentReads
  try dsimp only
  repeat' first | with_reducible assumption | with_reducible apply State.presentAll_kept | with_reducible apply Kept.ite <;> intro _ | simp only [Kept.upd] | split | intro _

theorem State.presentWrites_kept (s : State) (b : Nat) (o : Op) (key : Nat) (ws : List (Nat × Word))  (h : Kept q M C s) : Kept q M C (State.presentWrites s b o key ws) := by
  unfold State.presentWrites
  try dsimp only
  repeat' first | with_reducible assumption | with_reducible apply State.presentAll_kept | with_reducible apply Kept.ite <;> intro _ | simp only [Kept.upd] | split | intro _

theorem State.readSource_kept (s : State) (p : Nat) (b : Nat) (q1 : Nat) (reader : Nat) (d : Desc) (l : List Nat) (k : State → List Word → State)  (hk : ∀ x0 x1, Kept q M C x0 → Kept q M C (k x0 x1)) (h : Kept q M C s) : Kept q M C (State.readSource s p b q1 reader d l k) := by
  unfold State.readSource
  try dsimp only
  repeat' first | with_reducible assumption | with_reducible apply hk | with_reducible apply State.failDesc_kept | with_reducible apply State.readFailed_kept | with_reducible apply State.mended0_kept | with_reducible apply Kept.ite <;> intro _ | simp only [Kept.upd] | split | intro _

theorem State.launchMover_kept (s : State) (p : Nat) (b : Nat) (d : Desc) (busy : Nat) (w : Work)  (h : Kept q M C s) : Kept q M C (State.launchMover s p b d busy w).2 := by
  unfold State.launchMover
  try dsimp only
  repeat' first | with_reducible assumption | with_reducible apply State.setBlock_kept | with_reducible apply State.launch_kept | with_reducible apply State.noteSlow_kept | with_reducible apply Kept.ite <;> intro _ | simp only [Kept.upd] | split | intro _
theorem State.launchMover_eq {s : State} {p : Nat} {b : Nat} {d : Desc} {busy : Nat} {w : Work} {y' : _} {t' : State} (he : State.launchMover s p b d busy w = (y', t')) (h : Kept q M C s) : Kept q M C t' := by
  have k := State.launchMover_kept s p b d busy w h
  rwa [he] at k

theorem execCopy_kept (b : Fin 256) (s : State)  (h : Kept q M C s) : KeptOut q M C (execCopy b s) := by
  unfold execCopy
  try dsimp only
  repeat' first | with_reducible assumption | with_reducible apply KeptOut.next | with_reducible apply KeptOut.ite <;> intro _ | with_reducible apply State.setBlock_kept | with_reducible apply State.issue_kept | with_reducible apply State.sendWords_kept | with_reducible apply State.presentReads_kept | with_reducible apply State.presentWrites_kept | with_reducible apply State.readSource_kept | with_reducible apply State.launchMover_kept | with_reducible refine State.launchMover_eq ‹_› ?_ | with_reducible apply Kept.ite <;> intro _ | simp only [Kept.upd] | split | intro _
theorem execCopy_eq {b : Fin 256} {s : State} {t' : State} (he : execCopy b s = .next t') (h : Kept q M C s) : Kept q M C t' := execCopy_kept b s h t' he

theorem execFill_kept (b : Fin 256) (s : State)  (h : Kept q M C s) : KeptOut q M C (execFill b s) := by
  unfold execFill
  try dsimp only
  repeat' first | with_reducible assumption | with_reducible apply KeptOut.next | with_reducible apply KeptOut.ite <;> intro _ | with_reducible apply State.setBlock_kept | with_reducible apply State.issue_kept | with_reducible apply State.sendWords_kept | with_reducible apply State.presentWrites_kept | with_reducible apply State.readSource_kept | with_reducible apply State.launchMover_kept | with_reducible refine State.launchMover_eq ‹_› ?_ | with_reducible apply Kept.ite <;> intro _ | simp only [Kept.upd] | split | intro _
theorem execFill_eq {b : Fin 256} {s : State} {t' : State} (he : execFill b s = .next t') (h : Kept q M C s) : Kept q M C t' := execFill_kept b s h t' he

theorem State.failStream_kept (s : State) (p : Nat) (b : Nat) (o : Op) (c : Status)  (h : Kept q M C s) : Kept q M C (State.failStream s p b o c) := by
  unfold State.failStream
  try dsimp only
  repeat' first | with_reducible assumption | with_reducible apply State.count_kept | with_reducible apply State.failOp_kept | with_reducible apply Kept.ite <;> intro _ | simp only [Kept.upd] | split | intro _

theorem State.askStream_kept (s : State) (p : Nat) (b : Nat) (o : Op) (st : StreamState) (offs : List Nat) (delay : Nat)  (h : Kept q M C s) : Kept q M C (State.askStream s p b o st offs delay) := by
  unfold State.askStream
  try dsimp only
  repeat' first | with_reducible assumption | with_reducible apply State.setBlock_kept | with_reducible apply State.failOp_kept | with_reducible apply State.presentAll_kept | with_reducible apply Kept.ite <;> intro _ | simp only [Kept.upd] | split | intro _

theorem execWstream_kept (b : Fin 256) (s : State)  (h : Kept q M C s) : KeptOut q M C (execWstream b s) := by
  unfold execWstream
  try dsimp only
  repeat' first | with_reducible assumption | with_reducible apply KeptOut.next | with_reducible apply KeptOut.ite <;> intro _ | with_reducible apply State.issue_kept | with_reducible apply State.askStream_kept | with_reducible apply State.launchMover_kept | with_reducible refine State.launchMover_eq ‹_› ?_ | with_reducible apply Kept.ite <;> intro _ | simp only [Kept.upd] | split | intro _
theorem execWstream_eq {b : Fin 256} {s : State} {t' : State} (he : execWstream b s = .next t') (h : Kept q M C s) : Kept q M C t' := execWstream_kept b s h t' he

theorem State.streamCame_kept (s : State) (p : Nat) (b : Nat) (o : Op) (st : StreamState)  (h : Kept q M C s) : Kept q M C (State.streamCame s p b o st) := by
  unfold State.streamCame
  try dsimp only
  repeat' first | with_reducible assumption | with_reducible apply State.setBlock_kept | with_reducible apply State.failOp_kept | with_reducible apply State.failStream_kept | with_reducible apply State.askStream_kept | with_reducible apply Kept.ite <;> intro _ | simp only [Kept.upd] | split | intro _

theorem State.readStream_kept (p b : Nat) : ∀ (n : Nat) (s : State) (o : Op) (st : StreamState) (_ : Kept q M C s), Kept q M C (s.readStream p b o st n)
  | 0, _, _, _, h => h
  | n + 1, s, o, st, h => by
    unfold State.readStream
    (try dsimp only) <;> repeat' first | with_reducible assumption | with_reducible apply State.setBlock_kept | with_reducible apply State.readFailed_kept | with_reducible apply State.failOp_kept | with_reducible apply State.mendedBy_kept | with_reducible apply State.portFault_kept | with_reducible apply State.charge_kept | with_reducible apply State.failStream_kept | with_reducible apply State.mendedTier_kept | with_reducible apply State.readStream_kept | with_reducible apply Kept.ite <;> intro _ | with_reducible apply foldl_kept (fun _ _ _ => ?_) | simp only [Kept.upd] | split | intro _

theorem execDecompressBlock_kept (b : Fin 256) (s : State)  (h : Kept q M C s) : KeptOut q M C (execDecompressBlock b s) := by
  unfold execDecompressBlock
  try dsimp only
  repeat' first | with_reducible assumption | with_reducible apply KeptOut.next | with_reducible apply KeptOut.ite <;> intro _ | with_reducible apply State.setBlock_kept | with_reducible apply State.landWords_kept | with_reducible apply State.failStream_kept | with_reducible apply State.readStream_kept | with_reducible apply Kept.ite <;> intro _ | simp only [Kept.upd] | split | intro _
theorem execDecompressBlock_eq {b : Fin 256} {s : State} {t' : State} (he : execDecompressBlock b s = .next t') (h : Kept q M C s) : Kept q M C t' := execDecompressBlock_kept b s h t' he

theorem execGather_kept (b : Fin 256) (s : State)  (h : Kept q M C s) : KeptOut q M C (execGather b s) := by
  unfold execGather
  try dsimp only
  repeat' first | with_reducible assumption | with_reducible apply KeptOut.next | with_reducible apply KeptOut.ite <;> intro _ | with_reducible apply State.issue_kept | with_reducible apply State.presentAll_kept | with_reducible apply State.launchMover_kept | with_reducible refine State.launchMover_eq ‹_› ?_ | with_reducible apply Kept.ite <;> intro _ | simp only [Kept.upd] | split | intro _
theorem execGather_eq {b : Fin 256} {s : State} {t' : State} (he : execGather b s = .next t') (h : Kept q M C s) : Kept q M C t' := execGather_kept b s h t' he

theorem execScatter_kept (b : Fin 256) (s : State)  (h : Kept q M C s) : KeptOut q M C (execScatter b s) := by
  unfold execScatter
  try dsimp only
  repeat' first | with_reducible assumption | with_reducible apply KeptOut.next | with_reducible apply KeptOut.ite <;> intro _ | with_reducible apply State.issue_kept | with_reducible apply State.presentAll_kept | with_reducible apply State.readSource_kept | with_reducible apply State.launchMover_kept | with_reducible refine State.launchMover_eq ‹_› ?_ | with_reducible apply Kept.ite <;> intro _ | simp only [Kept.upd] | split | intro _
theorem execScatter_eq {b : Fin 256} {s : State} {t' : State} (he : execScatter b s = .next t') (h : Kept q M C s) : Kept q M C t' := execScatter_kept b s h t' he

theorem State.carry_kept (s : State) (c : Nat) (n : Nat) (u : HbmUnit)  (h : Kept q Any C s) : Kept q Any C (State.carry s c n u) := by
  unfold State.carry
  try dsimp only
  repeat' first | with_reducible assumption | with_reducible apply State.setBlock_kept | with_reducible apply State.count_kept | with_reducible apply State.readFailed_kept | with_reducible apply State.failOp_kept | with_reducible apply State.writeTier_kept | with_reducible apply State.mendedBy_kept | with_reducible apply State.landWords_kept | with_reducible apply State.wordDone_kept | with_reducible apply State.streamCame_kept | with_reducible apply Kept.ite <;> intro _ | with_reducible apply foldl_kept (fun _ _ _ => ?_) | simp only [Kept.upd] | split | intro _

theorem State.prefetchSlot_kept (s : State) (c : Nat)  (h : Kept q M C s) : Kept q M C (State.prefetchSlot s c) := by
  unfold State.prefetchSlot
  try dsimp only
  repeat' first | with_reducible assumption | with_reducible apply State.setPart_kept | with_reducible apply State.count_kept | with_reducible apply Kept.ite <;> intro _ | simp only [Kept.upd] | split | intro _

theorem execHbmUnitSlot_kept (c : Fin 256) (s : State)  (h : Kept q Any C s) : KeptOut q Any C (execHbmUnitSlot c s) := by
  unfold execHbmUnitSlot
  try dsimp only
  repeat' first | with_reducible assumption | with_reducible apply KeptOut.next | with_reducible apply KeptOut.ite <;> intro _ | with_reducible apply State.setChannel_kept | with_reducible apply State.count_kept | with_reducible apply State.carry_kept | with_reducible apply State.prefetchSlot_kept | with_reducible apply Kept.ite <;> intro _ | simp only [Kept.upd] | split | intro _
theorem execHbmUnitSlot_eq {c : Fin 256} {s : State} {t' : State} (he : execHbmUnitSlot c s = .next t') (h : Kept q Any C s) : Kept q Any C t' := execHbmUnitSlot_kept c s h t' he

theorem execHbmRefreshWindow_kept (c : Fin 256) (s : State)  (h : Kept q M C s) : KeptOut q M C (execHbmRefreshWindow c s) := by
  unfold execHbmRefreshWindow
  try dsimp only
  repeat' first | with_reducible assumption | with_reducible apply KeptOut.next | with_reducible apply KeptOut.ite <;> intro _ | with_reducible apply State.setChannel_kept | with_reducible apply State.count_kept | with_reducible apply Kept.ite <;> intro _ | simp only [Kept.upd] | split | intro _
theorem execHbmRefreshWindow_eq {c : Fin 256} {s : State} {t' : State} (he : execHbmRefreshWindow c s = .next t') (h : Kept q M C s) : Kept q M C t' := execHbmRefreshWindow_kept c s h t' he

theorem execStreetWordDelivery_kept (b : Fin 256) (s : State)  (h : Kept q Any C s) : KeptOut q Any C (execStreetWordDelivery b s) := by
  unfold execStreetWordDelivery
  try dsimp only
  repeat' first | with_reducible assumption | with_reducible apply KeptOut.next | with_reducible apply KeptOut.ite <;> intro _ | with_reducible apply State.setBlock_kept | with_reducible apply State.writeDelivered_kept | with_reducible apply Kept.ite <;> intro _ | simp only [Kept.upd] | split | intro _
theorem execStreetWordDelivery_eq {b : Fin 256} {s : State} {t' : State} (he : execStreetWordDelivery b s = .next t') (h : Kept q Any C s) : Kept q Any C t' := execStreetWordDelivery_kept b s h t' he

theorem execLandingWrite_kept (b : Fin 256) (s : State)  (h : Kept q Any C s) : KeptOut q Any C (execLandingWrite b s) := by
  unfold execLandingWrite
  try dsimp only
  repeat' first | with_reducible assumption | with_reducible apply KeptOut.next | with_reducible apply KeptOut.ite <;> intro _ | with_reducible apply State.setBlock_kept | with_reducible apply State.writeDelivered_kept | with_reducible apply Kept.ite <;> intro _ | simp only [Kept.upd] | split | intro _
theorem execLandingWrite_eq {b : Fin 256} {s : State} {t' : State} (he : execLandingWrite b s = .next t') (h : Kept q Any C s) : Kept q Any C t' := execLandingWrite_kept b s h t' he

theorem State.portTransfer_kept (s : State) (p : Nat) (b : Nat) (o : Op)  (h : Kept q Any C s) : KeptOpt q Any C (State.portTransfer s p b o) := by
  unfold State.portTransfer
  try dsimp only
  repeat' first | with_reducible assumption | with_reducible apply KeptOpt.some | with_reducible exact KeptOpt.none | with_reducible apply KeptOpt.ite <;> intro _ | with_reducible apply State.setBlock_kept | with_reducible apply State.readFailed_kept | with_reducible apply State.completeOp_kept | with_reducible apply State.failOp_kept | with_reducible apply State.writeTier_kept | with_reducible apply State.mendedBy_kept | with_reducible apply State.portFault_kept | with_reducible apply State.charge_kept | with_reducible apply State.landWords_kept | with_reducible apply Kept.ite <;> intro _ | simp only [Kept.upd] | split | intro _
theorem State.portTransfer_eq {s : State} {p : Nat} {b : Nat} {o : Op} {t' : State} (he : State.portTransfer s p b o = some t') (h : Kept q Any C s) : Kept q Any C t' := State.portTransfer_kept s p b o h t' he

theorem execMoverCompletion_kept (b : Fin 256) (s : State)  (h : Kept q Any C s) : KeptOut q Any C (execMoverCompletion b s) := by
  unfold execMoverCompletion
  try dsimp only
  repeat' first | with_reducible assumption | with_reducible apply KeptOut.next | with_reducible apply KeptOut.ite <;> intro _ | with_reducible apply State.completeOp_kept | with_reducible apply State.portTransfer_kept | with_reducible refine State.portTransfer_eq ‹_› ?_ | with_reducible apply Kept.ite <;> intro _ | with_reducible apply findSome_kept (fun _ => ?_) | simp only [Kept.upd] | split | intro _
theorem execMoverCompletion_eq {b : Fin 256} {s : State} {t' : State} (he : execMoverCompletion b s = .next t') (h : Kept q Any C s) : Kept q Any C t' := execMoverCompletion_kept b s h t' he

end
end Sys2Proof.Machine
end

