-- ==== Sys2Proof/Laws/RequestsKeeps.lean ====
section
/-! SUPPORT. What the operations of Machine/Requests.lean keep: the queue, the form of the state and, where they store nothing, the memory. -/
set_option linter.all false
set_option Elab.async false
namespace Sys2Proof.Machine
section
variable {q : List Instr} {M : Memory → Prop} {C : Prop}

theorem State.tellRequest_kept (s : State) (r : Request) (n : ReqNews)  (h : Kept q M C s) : Kept q M C (State.tellRequest s r n) := by
  unfold State.tellRequest
  try dsimp only
  repeat' first | with_reducible assumption | with_reducible apply State.queueRecord_kept | with_reducible apply Kept.ite <;> intro _ | simp only [Kept.upd] | split | intro _

theorem State.freeRequest_kept (s : State) (i : Nat) (n : ReqNews)  (h : Kept q M C s) : Kept q M C (State.freeRequest s i n) := by
  unfold State.freeRequest
  try dsimp only
  repeat' first | with_reducible assumption | with_reducible apply State.bumpWhere_kept | with_reducible apply State.logEvent_kept | with_reducible apply State.tellRequest_kept | with_reducible apply Kept.ite <;> intro _ | simp only [Kept.upd] | split | intro _

theorem State.readEntry_kept (s : State) (e : Nat × Request)  (h : Kept q M C s) : Kept q M C (State.readEntry s e) := by
  unfold State.readEntry
  repeat' first | with_reducible assumption | with_reducible apply State.serviceFailed_kept | with_reducible apply State.freeRequest_kept | with_reducible apply State.readFailed_kept | with_reducible apply Kept.ite <;> intro _ | simp only [Kept.upd] | split | intro _

theorem State.cutRequest_kept (s : State) (i : Nat)  (h : Kept q M C s) : Kept q M C (State.cutRequest s i) := by
  unfold State.cutRequest
  try dsimp only
  repeat' first | with_reducible assumption | with_reducible apply State.count_kept | with_reducible apply State.freeRequest_kept | with_reducible apply Kept.ite <;> intro _ | simp only [Kept.upd] | split | intro _

theorem State.cutOrMark_kept (s : State) (p : Nat) (i : Nat)  (h : Kept q M C s) : Kept q M C (State.cutOrMark s p i) := by
  unfold State.cutOrMark
  try dsimp only
  repeat' first | with_reducible assumption | with_reducible apply State.setRequest_kept | with_reducible apply State.cutRequest_kept | with_reducible apply Kept.ite <;> intro _ | simp only [Kept.upd] | split | intro _

theorem State.cancelRequest_kept (s : State) (p : Nat) (i : Nat)  (h : Kept q M C s) : Kept q M C (State.cancelRequest s p i) := by
  unfold State.cancelRequest
  try dsimp only
  repeat' first | with_reducible assumption | with_reducible apply State.setRequest_kept | with_reducible apply State.freeRequest_kept | with_reducible apply Kept.ite <;> intro _ | simp only [Kept.upd] | split | intro _

theorem State.endWaiting_kept (s : State) (i : Nat)  (h : Kept q M C s) : Kept q M C (State.endWaiting s i) := by
  unfold State.endWaiting
  try dsimp only
  repeat' first | with_reducible assumption | with_reducible apply State.freeRequest_kept | with_reducible apply State.cutRequest_kept | with_reducible apply Kept.ite <;> intro _ | simp only [Kept.upd] | split | intro _

theorem State.drained_kept (s : State) (p : Nat)  (h : Kept q M C s) : Kept q M C (State.drained s p) := by
  unfold State.drained
  try dsimp only
  repeat' first | with_reducible assumption | with_reducible apply State.setPart_kept | with_reducible apply Kept.ite <;> intro _ | simp only [Kept.upd] | split | intro _

theorem State.switchWith_kept (s : State) (p : Nat) (cut : Bool)  (h : Kept q M C s) : Kept q M C (State.switchWith s p cut) := by
  unfold State.switchWith
  try dsimp only
  repeat' first | with_reducible assumption | with_reducible apply State.setPart_kept | with_reducible apply State.cutOrMark_kept | with_reducible apply State.drained_kept | with_reducible apply Kept.ite <;> intro _ | with_reducible apply foldl_kept (fun _ _ _ => ?_) | with_reducible apply foldl_kept_snd (fun _ _ _ => ?_) | with_reducible apply foldl_kept_fst (fun _ _ _ => ?_) | simp only [Kept.upd] | split | intro _

theorem State.switchNow_kept (s : State) (p : Nat)  (h : Kept q M C s) : Kept q M C (State.switchNow s p) := by
  unfold State.switchNow
  try dsimp only
  repeat' first | with_reducible assumption | with_reducible apply State.switchWith_kept | with_reducible apply Kept.ite <;> intro _ | simp only [Kept.upd] | split | intro _

end
end Sys2Proof.Machine
end

