-- ==== Sys2Proof/Laws/BoundaryKeeps.lean ====
section
/-! SUPPORT. What the operations of Machine/Boundary.lean keep: the queue, the form of the state and, where they store nothing, the memory. -/
set_option linter.all false
set_option Elab.async false
namespace Sys2Proof.Machine
section
variable {q : List Instr} {M : Memory → Prop} {C : Prop}

theorem State.measure_kept (s : State) (p : Nat)  (h : Kept q M C s) : Kept q M C (State.measure s p) := by
  unfold State.measure
  try dsimp only
  repeat' first | with_reducible assumption | with_reducible apply State.setPart_kept | with_reducible apply Kept.ite <;> intro _ | simp only [Kept.upd] | split | intro _

theorem State.measureIdle_kept (s : State) (p : Nat)  (h : Kept q M C s) : Kept q M C (State.measureIdle s p) := by
  unfold State.measureIdle
  try dsimp only
  repeat' first | with_reducible assumption | with_reducible apply State.measure_kept | with_reducible apply Kept.ite <;> intro _ | simp only [Kept.upd] | split | intro _

theorem State.applyWaiting_kept (s : State) (p : Nat) (w : Waiting)  (h : Kept q M C s) : Kept q M C (State.applyWaiting s p w) := by
  unfold State.applyWaiting
  try dsimp only
  repeat' first | with_reducible assumption | with_reducible apply State.setPart_kept | with_reducible apply State.setCore_kept | with_reducible apply State.setObj_kept | with_reducible apply State.wipe_kept | with_reducible apply Kept.ite <;> intro _ | simp only [Kept.upd] | split | intro _

theorem State.eraseKey_kept (s : State) (i : Nat)  (h : Kept q M C s) : Kept q M C (State.eraseKey s i) := by
  unfold State.eraseKey
  try dsimp only
  repeat' first | with_reducible assumption | with_reducible apply State.setKey_kept | with_reducible apply State.setObj_kept | with_reducible apply State.logEvent_kept | with_reducible apply Kept.ite <;> intro _ | simp only [Kept.upd] | split | intro _

theorem State.eraseHere_kept (s : State) (p : Nat)  (h : Kept q M C s) : Kept q M C (State.eraseHere s p) := by
  unfold State.eraseHere
  try dsimp only
  repeat' first | with_reducible assumption | with_reducible apply State.setPart_kept | with_reducible apply State.eraseKey_kept | with_reducible apply Kept.ite <;> intro _ | with_reducible apply foldl_kept (fun _ _ _ => ?_) | simp only [Kept.upd] | split | intro _

theorem State.removeHere_kept (s : State) (p : Nat)  (h : Kept q M C s) : Kept q M C (State.removeHere s p) := by
  unfold State.removeHere
  try dsimp only
  repeat' first | with_reducible assumption | with_reducible apply State.setPart_kept | with_reducible apply State.setObj_kept | with_reducible apply Kept.ite <;> intro _ | with_reducible apply foldl_kept (fun _ _ _ => ?_) | simp only [Kept.upd] | split | intro _

theorem State.zeroSlip_kept (s : State) (p : Nat)  (h : Kept q M C s) : Kept q M C (State.zeroSlip s p) := by
  unfold State.zeroSlip
  try dsimp only
  repeat' first | with_reducible assumption | with_reducible apply State.setCounter_kept | with_reducible apply Kept.ite <;> intro _ | with_reducible apply foldl_kept (fun _ _ _ => ?_) | simp only [Kept.upd] | split | intro _

theorem State.leaveBlocks_kept (s : State) (p : Nat)  (h : Kept q M C s) : Kept q M C (State.leaveBlocks s p) := by
  unfold State.leaveBlocks
  try dsimp only
  repeat' first | with_reducible assumption | with_reducible apply State.bumpWhere_kept | with_reducible apply State.setBlock_kept | with_reducible apply Kept.ite <;> intro _ | with_reducible apply foldl_kept (fun _ _ _ => ?_) | simp only [Kept.upd] | split | intro _

theorem State.boundary_kept (s : State) (p : Nat)  (h : Kept q M C s) : Kept q M C (State.boundary s p) := by
  unfold State.boundary
  try dsimp only
  repeat' first | with_reducible assumption | with_reducible apply State.setPart_kept | with_reducible apply State.wipe_kept | with_reducible apply State.drained_kept | with_reducible apply State.switchNow_kept | with_reducible apply State.measure_kept | with_reducible apply State.applyWaiting_kept | with_reducible apply State.eraseHere_kept | with_reducible apply State.removeHere_kept | with_reducible apply State.zeroSlip_kept | with_reducible apply State.leaveBlocks_kept | with_reducible apply Kept.ite <;> intro _ | with_reducible apply foldl_kept (fun _ _ _ => ?_) | simp only [Kept.upd] | split | intro _

theorem State.enterSegment_kept (s : State) (p : Nat) (n : Nat)  (h : Kept q M C s) : Kept q M C (State.enterSegment s p n) := by
  unfold State.enterSegment
  try dsimp only
  repeat' first | with_reducible assumption | with_reducible apply State.setBlock_kept | with_reducible apply State.setPart_kept | with_reducible apply Kept.ite <;> intro _ | with_reducible apply foldl_kept (fun _ _ _ => ?_) | simp only [Kept.upd] | split | intro _

theorem State.loadCalendars_kept (s : State) (p : Nat)  (h : Kept q M C s) : Kept q M C (State.loadCalendars s p) := by
  unfold State.loadCalendars
  try dsimp only
  repeat' first | with_reducible assumption | with_reducible apply State.setChannel_kept | with_reducible apply Kept.ite <;> intro _ | with_reducible apply foldl_kept (fun _ _ _ => ?_) | simp only [Kept.upd] | split | intro _

theorem State.dropCalendars_kept (s : State) (p : Nat)  (h : Kept q M C s) : Kept q M C (State.dropCalendars s p) := by
  unfold State.dropCalendars
  try dsimp only
  repeat' first | with_reducible assumption | with_reducible apply State.setChannel_kept | with_reducible apply Kept.ite <;> intro _ | with_reducible apply foldl_kept (fun _ _ _ => ?_) | simp only [Kept.upd] | split | intro _

theorem State.startStep_kept (s : State) (p : Nat)  (h : Kept q M C s) : Kept q M C (State.startStep s p) := by
  unfold State.startStep
  try dsimp only
  repeat' first | with_reducible assumption | with_reducible apply State.setPart_kept | with_reducible apply State.count_kept | with_reducible apply State.raise_kept | with_reducible apply State.wipe_kept | with_reducible apply State.boundary_kept | with_reducible apply State.enterSegment_kept | with_reducible apply State.loadCalendars_kept | with_reducible apply Kept.ite <;> intro _ | simp only [Kept.upd] | split | intro _

end
end Sys2Proof.Machine
end

