-- ==== Sys2Proof/Laws/ControlKeeps.lean ====
section
/-! SUPPORT. What the operations of Machine/Control.lean keep: the queue, the form of the state and, where they store nothing, the memory. -/
set_option linter.all false
set_option Elab.async false
namespace Sys2Proof.Machine
section
variable {q : List Instr} {M : Memory → Prop} {C : Prop}

theorem execNop_kept (b : Fin 256) (s : State)  (h : Kept q M C s) : KeptOut q M C (execNop b s) := by
  unfold execNop
  try dsimp only
  repeat' first | with_reducible assumption | with_reducible apply KeptOut.next | with_reducible apply KeptOut.ite <;> intro _ | with_reducible apply State.launch_kept | with_reducible apply State.issue_kept | with_reducible apply Kept.ite <;> intro _ | simp only [Kept.upd] | split | intro _
theorem execNop_eq {b : Fin 256} {s : State} {t' : State} (he : execNop b s = .next t') (h : Kept q M C s) : Kept q M C t' := execNop_kept b s h t' he

theorem execNote_kept (b : Fin 256) (s : State)  (h : Kept q M C s) : KeptOut q M C (execNote b s) := by
  unfold execNote
  try dsimp only
  repeat' first | with_reducible assumption | with_reducible apply KeptOut.next | with_reducible apply KeptOut.ite <;> intro _ | with_reducible apply State.launch_kept | with_reducible apply State.issue_kept | with_reducible apply Kept.ite <;> intro _ | simp only [Kept.upd] | split | intro _
theorem execNote_eq {b : Fin 256} {s : State} {t' : State} (he : execNote b s = .next t') (h : Kept q M C s) : Kept q M C t' := execNote_kept b s h t' he

theorem execIssueCheck_kept (b : Fin 256) (queue : Fin 4) (s : State)  (h : Kept q M C s) : KeptOut q M C (execIssueCheck b queue s) := by
  unfold execIssueCheck
  try dsimp only
  repeat' first | with_reducible assumption | with_reducible apply KeptOut.next | with_reducible apply KeptOut.ite <;> intro _ | with_reducible apply State.setBlock_kept | with_reducible apply State.failDesc_kept | with_reducible apply State.failStore_kept | with_reducible apply State.hold_kept | with_reducible apply Kept.ite <;> intro _ | simp only [Kept.upd] | split | intro _
theorem execIssueCheck_eq {b : Fin 256} {queue : Fin 4} {s : State} {t' : State} (he : execIssueCheck b queue s = .next t') (h : Kept q M C s) : Kept q M C t' := execIssueCheck_kept b queue s h t' he

theorem execFreezeResume_kept (p : Fin 64) (s : State)  (h : Kept q M C s) : KeptOut q M C (execFreezeResume p s) := by
  unfold execFreezeResume
  try dsimp only
  repeat' first | with_reducible assumption | with_reducible apply KeptOut.next | with_reducible apply KeptOut.ite <;> intro _ | with_reducible apply State.setPart_kept | with_reducible apply State.setCounter_kept | with_reducible apply State.passHeld_kept | with_reducible apply Kept.ite <;> intro _ | with_reducible apply foldl_kept (fun _ _ _ => ?_) | with_reducible apply foldl_kept_snd (fun _ _ _ => ?_) | with_reducible apply foldl_kept_fst (fun _ _ _ => ?_) | simp only [Kept.upd] | split | intro _
theorem execFreezeResume_eq {p : Fin 64} {s : State} {t' : State} (he : execFreezeResume p s = .next t') (h : Kept q M C s) : Kept q M C t' := execFreezeResume_kept p s h t' he

theorem execDescriptorPrefetch_kept (b : Fin 256) (queue : Fin 4) (s : State)  (h : Kept q M C s) : KeptOut q M C (execDescriptorPrefetch b queue s) := by
  unfold execDescriptorPrefetch
  try dsimp only
  repeat' first | with_reducible assumption | with_reducible apply KeptOut.next | with_reducible apply KeptOut.ite <;> intro _ | with_reducible apply State.setBlock_kept | with_reducible apply State.setPart_kept | with_reducible apply State.failStore_kept | with_reducible apply Kept.ite <;> intro _ | simp only [Kept.upd] | split | intro _
theorem execDescriptorPrefetch_eq {b : Fin 256} {queue : Fin 4} {s : State} {t' : State} (he : execDescriptorPrefetch b queue s = .next t') (h : Kept q M C s) : Kept q M C t' := execDescriptorPrefetch_kept b queue s h t' he

theorem State.detect_kept (s : State) (p : Fin 64)  (h : Kept q M C s) : KeptOut q M C (State.detect s p) := by
  unfold State.detect
  try dsimp only
  repeat' first | with_reducible assumption | with_reducible apply KeptOut.next | with_reducible apply KeptOut.ite <;> intro _ | with_reducible apply State.setObj_kept | with_reducible apply State.logEvent_kept | with_reducible apply State.failDesc_kept | with_reducible apply Kept.ite <;> intro _ | with_reducible apply findSome_kept (fun _ => ?_) | simp only [Kept.upd] | split | intro _
theorem State.detect_eq {s : State} {p : Fin 64} {t' : State} (he : State.detect s p = .next t') (h : Kept q M C s) : Kept q M C t' := State.detect_kept s p h t' he

theorem execGridlockDetectorRun_kept (p : Fin 64) (s : State)  (h : Kept q M C s) : KeptOut q M C (execGridlockDetectorRun p s) := by
  unfold execGridlockDetectorRun
  try dsimp only
  repeat' first | with_reducible assumption | with_reducible apply KeptOut.next | with_reducible apply KeptOut.ite <;> intro _ | with_reducible apply State.setPart_kept | with_reducible apply State.detect_kept | with_reducible refine State.detect_eq ‹_› ?_ | with_reducible apply Kept.ite <;> intro _ | simp only [Kept.upd] | split | intro _
theorem execGridlockDetectorRun_eq {p : Fin 64} {s : State} {t' : State} (he : execGridlockDetectorRun p s = .next t') (h : Kept q M C s) : Kept q M C t' := execGridlockDetectorRun_kept p s h t' he

theorem execSegmentEnd_kept (p : Fin 64) (s : State)  (h : Kept q M C s) : KeptOut q M C (execSegmentEnd p s) := by
  unfold execSegmentEnd
  try dsimp only
  repeat' first | with_reducible assumption | with_reducible apply KeptOut.next | with_reducible apply KeptOut.ite <;> intro _ | with_reducible apply State.setPart_kept | with_reducible apply State.hold_kept | with_reducible apply Kept.ite <;> intro _ | simp only [Kept.upd] | split | intro _
theorem execSegmentEnd_eq {p : Fin 64} {s : State} {t' : State} (he : execSegmentEnd p s = .next t') (h : Kept q M C s) : Kept q M C t' := execSegmentEnd_kept p s h t' he

theorem execSegmentEntry_kept (p : Fin 64) (s : State)  (h : Kept q M C s) : KeptOut q M C (execSegmentEntry p s) := by
  unfold execSegmentEntry
  try dsimp only
  repeat' first | with_reducible assumption | with_reducible apply KeptOut.next | with_reducible apply KeptOut.ite <;> intro _ | with_reducible apply State.enterSegment_kept | with_reducible apply Kept.ite <;> intro _ | simp only [Kept.upd] | split | intro _
theorem execSegmentEntry_eq {p : Fin 64} {s : State} {t' : State} (he : execSegmentEntry p s = .next t') (h : Kept q M C s) : Kept q M C t' := execSegmentEntry_kept p s h t' he

theorem execChoiceLimitExpiry_kept (p : Fin 64) (s : State)  (h : Kept q M C s) : KeptOut q M C (execChoiceLimitExpiry p s) := by
  unfold execChoiceLimitExpiry
  try dsimp only
  repeat' first | with_reducible assumption | with_reducible apply KeptOut.next | with_reducible apply KeptOut.ite <;> intro _ | with_reducible exact KeptOut.fault | with_reducible exact KeptOut.refused | with_reducible apply State.failStep_kept | with_reducible apply Kept.ite <;> intro _ | simp only [Kept.upd] | split | intro _
theorem execChoiceLimitExpiry_eq {p : Fin 64} {s : State} {t' : State} (he : execChoiceLimitExpiry p s = .next t') (h : Kept q M C s) : Kept q M C t' := execChoiceLimitExpiry_kept p s h t' he

theorem State.answerTicket_kept (s : State) (t : Ticket) (again : Bool) (r : Record)  (h : Kept q M C s) : Kept q M C (State.answerTicket s t again r) := by
  unfold State.answerTicket
  try dsimp only
  repeat' first | with_reducible assumption | with_reducible apply State.queueRecord_kept | with_reducible apply State.answer_kept | with_reducible apply Kept.ite <;> intro _ | simp only [Kept.upd] | split | intro _

theorem execStepEnd_kept (p : Fin 64) (s : State)  (h : Kept q M C s) : KeptOut q M C (execStepEnd p s) := by
  unfold execStepEnd
  try dsimp only
  repeat' first | with_reducible assumption | with_reducible apply KeptOut.next | with_reducible apply KeptOut.ite <;> intro _ | with_reducible apply State.setPart_kept | with_reducible apply State.raise_kept | with_reducible apply Kept.ite <;> intro _ | simp only [Kept.upd] | split | intro _
theorem execStepEnd_eq {p : Fin 64} {s : State} {t' : State} (he : execStepEnd p s = .next t') (h : Kept q M C s) : Kept q M C t' := execStepEnd_kept p s h t' he

theorem State.proceed_kept (s : State) (p : Nat)  (h : Kept q M C s) : Kept q M C (State.proceed s p) := by
  unfold State.proceed
  try dsimp only
  repeat' first | with_reducible assumption | with_reducible apply State.setPart_kept | with_reducible apply State.measure_kept | with_reducible apply State.dropCalendars_kept | with_reducible apply Kept.ite <;> intro _ | simp only [Kept.upd] | split | intro _

end
end Sys2Proof.Machine
end

