-- ==== Sys2Proof/Laws/IntakeKeeps.lean ====
section
/-! SUPPORT. What the operations of Machine/Intake.lean keep: the queue, the form of the state and, where they store nothing, the memory. -/
set_option linter.all false
set_option Elab.async false
namespace Sys2Proof.Machine
section
variable {q : List Instr} {M : Memory → Prop} {C : Prop}

theorem State.retire_kept (s : State) (y0 : Src)  (h : Kept q M C s) : Kept q M C (State.retire s y0) := by
  unfold State.retire
  try dsimp only
  repeat' first | with_reducible assumption | with_reducible apply State.setCore_kept | with_reducible apply State.setFn_kept | with_reducible apply Kept.ite <;> intro _ | simp only [Kept.upd] | split | intro _

theorem State.close_kept (s : State) (src : Src) (status : Status) (body : Nat)  (h : Kept q M C s) : Kept q M C (State.close s src status body) := by
  unfold State.close
  try dsimp only
  repeat' first | with_reducible assumption | with_reducible apply State.answer_kept | with_reducible apply State.retire_kept | with_reducible apply Kept.ite <;> intro _ | simp only [Kept.upd] | split | intro _

theorem State.vet_kept (s : State) (src : Src)  (h : Kept q M C s) : Kept q M C (State.vet s src) := by
  unfold State.vet
  try dsimp only
  repeat' first | with_reducible assumption | with_reducible apply State.setFn_kept | with_reducible apply State.close_kept | with_reducible apply Kept.ite <;> intro _ | simp only [Kept.upd] | split | intro _

theorem execIntakeFetch_kept (src : Src) (entry : Desc) (s : State)  (h : Kept q M C s) : KeptOut q M C (execIntakeFetch src entry s) := by
  unfold execIntakeFetch
  try dsimp only
  repeat' first | with_reducible assumption | with_reducible apply KeptOut.next | with_reducible apply KeptOut.ite <;> intro _ | with_reducible apply State.setCore_kept | with_reducible apply State.setFn_kept | with_reducible apply State.count_kept | with_reducible apply State.vet_kept | with_reducible apply Kept.ite <;> intro _ | simp only [Kept.upd] | split | intro _
theorem execIntakeFetch_eq {src : Src} {entry : Desc} {s : State} {t' : State} (he : execIntakeFetch src entry s = .next t') (h : Kept q M C s) : Kept q M C t' := execIntakeFetch_kept src entry s h t' he

theorem State.abandonSlices_kept (s : State) (p : Nat)  (h : Kept q M C s) : Kept q M C (State.abandonSlices s p) := by
  unfold State.abandonSlices
  try dsimp only
  repeat' first | with_reducible assumption | with_reducible apply State.setBlock_kept | with_reducible apply State.count_kept | with_reducible apply Kept.ite <;> intro _ | with_reducible apply foldl_kept (fun _ _ _ => ?_) | with_reducible apply foldl_kept_snd (fun _ _ _ => ?_) | with_reducible apply foldl_kept_fst (fun _ _ _ => ?_) | simp only [Kept.upd] | split | intro _

theorem State.acceptTicket_kept (s : State) (p : Nat) (t : Ticket)  (h : Kept q M C s) : Kept q M C (State.acceptTicket s p t) := by
  unfold State.acceptTicket
  try dsimp only
  repeat' first | with_reducible assumption | with_reducible apply State.setPart_kept | with_reducible apply State.proceed_kept | with_reducible apply State.abandonSlices_kept | with_reducible apply Kept.ite <;> intro _ | simp only [Kept.upd] | split | intro _

theorem execStep_kept (src : Src) (s : State)  (h : Kept q M C s) : KeptOut q M C (execStep src s) := by
  unfold execStep
  try dsimp only
  repeat' first | with_reducible assumption | with_reducible apply KeptOut.next | with_reducible apply KeptOut.ite <;> intro _ | with_reducible apply State.retire_kept | with_reducible apply State.close_kept | with_reducible apply State.vet_kept | with_reducible apply State.acceptTicket_kept | with_reducible apply Kept.ite <;> intro _ | simp only [Kept.upd] | split | intro _
theorem execStep_eq {src : Src} {s : State} {t' : State} (he : execStep src s = .next t') (h : Kept q M C s) : Kept q M C t' := execStep_kept src s h t' he

theorem execIntakeTail_kept (f : FnId) (value : BitVec 64) (s : State)  (h : Kept q M C s) : KeptOut q M C (execIntakeTail f value s) := by
  unfold execIntakeTail
  try dsimp only
  repeat' first | with_reducible assumption | with_reducible apply KeptOut.next | with_reducible apply KeptOut.ite <;> intro _ | with_reducible apply State.setFn_kept | with_reducible apply Kept.ite <;> intro _ | simp only [Kept.upd] | split | intro _
theorem execIntakeTail_eq {f : FnId} {value : BitVec 64} {s : State} {t' : State} (he : execIntakeTail f value s = .next t') (h : Kept q M C s) : Kept q M C t' := execIntakeTail_kept f value s h t' he

theorem execComplHead_kept (f : FnId) (value : BitVec 64) (s : State)  (h : Kept q M C s) : KeptOut q M C (execComplHead f value s) := by
  unfold execComplHead
  try dsimp only
  repeat' first | with_reducible assumption | with_reducible apply KeptOut.next | with_reducible apply KeptOut.ite <;> intro _ | with_reducible apply State.setFn_kept | with_reducible apply Kept.ite <;> intro _ | simp only [Kept.upd] | split | intro _
theorem execComplHead_eq {f : FnId} {value : BitVec 64} {s : State} {t' : State} (he : execComplHead f value s = .next t') (h : Kept q M C s) : Kept q M C t' := execComplHead_kept f value s h t' he

theorem State.writeRingCtrl_kept (s : State) (f : FnId) (value : BitVec 64)  (h : Kept q M C s) : Kept q M C (State.writeRingCtrl s f value) := by
  unfold State.writeRingCtrl
  try dsimp only
  repeat' first | with_reducible assumption | with_reducible apply State.setFn_kept | with_reducible apply Kept.ite <;> intro _ | simp only [Kept.upd] | split | intro _

theorem execRingReset_kept (f : FnId) (value : BitVec 64) (s : State)  (h : Kept q M C s) : KeptOut q M C (execRingReset f value s) := by
  unfold execRingReset
  try dsimp only
  repeat' first | with_reducible assumption | with_reducible apply KeptOut.next | with_reducible apply KeptOut.ite <;> intro _ | with_reducible apply State.writeRingCtrl_kept | with_reducible apply Kept.ite <;> intro _ | simp only [Kept.upd] | split | intro _
theorem execRingReset_eq {f : FnId} {value : BitVec 64} {s : State} {t' : State} (he : execRingReset f value s = .next t') (h : Kept q M C s) : Kept q M C t' := execRingReset_kept f value s h t' he

theorem execRingEnable_kept (f : FnId) (value : BitVec 64) (s : State)  (h : Kept q M C s) : KeptOut q M C (execRingEnable f value s) := by
  unfold execRingEnable
  try dsimp only
  repeat' first | with_reducible assumption | with_reducible apply KeptOut.next | with_reducible apply KeptOut.ite <;> intro _ | with_reducible apply State.writeRingCtrl_kept | with_reducible apply Kept.ite <;> intro _ | simp only [Kept.upd] | split | intro _
theorem execRingEnable_eq {f : FnId} {value : BitVec 64} {s : State} {t' : State} (he : execRingEnable f value s = .next t') (h : Kept q M C s) : Kept q M C t' := execRingEnable_kept f value s h t' he

theorem execIrqArm_kept (f : FnId) (value : BitVec 64) (s : State)  (h : Kept q M C s) : KeptOut q M C (execIrqArm f value s) := by
  unfold execIrqArm
  try dsimp only
  repeat' first | with_reducible assumption | with_reducible apply KeptOut.next | with_reducible apply KeptOut.ite <;> intro _ | with_reducible apply State.writeRingCtrl_kept | with_reducible apply Kept.ite <;> intro _ | simp only [Kept.upd] | split | intro _
theorem execIrqArm_eq {f : FnId} {value : BitVec 64} {s : State} {t' : State} (he : execIrqArm f value s = .next t') (h : Kept q M C s) : Kept q M C t' := execIrqArm_kept f value s h t' he

theorem execQueuedCompletionWrite_kept (f : FnId) (s : State)  (h : Kept q M C s) : KeptOut q M C (execQueuedCompletionWrite f s) := by
  unfold execQueuedCompletionWrite
  try dsimp only
  repeat' first | with_reducible assumption | with_reducible apply KeptOut.next | with_reducible apply KeptOut.ite <;> intro _ | with_reducible apply State.setFn_kept | with_reducible apply State.writeRecord_kept | with_reducible apply Kept.ite <;> intro _ | simp only [Kept.upd] | split | intro _
theorem execQueuedCompletionWrite_eq {f : FnId} {s : State} {t' : State} (he : execQueuedCompletionWrite f s = .next t') (h : Kept q M C s) : Kept q M C t' := execQueuedCompletionWrite_kept f s h t' he

end
end Sys2Proof.Machine
end

