-- ==== Sys2Proof/Laws/AdmitKeeps.lean ====
section
/-! SUPPORT. What the operations of Machine/Admit.lean keep: the queue, the form of the state and, where they store nothing, the memory. -/
set_option linter.all false
set_option Elab.async false
namespace Sys2Proof.Machine
section
variable {q : List Instr} {M : Memory → Prop} {C : Prop}

theorem State.deadlineOf_kept (s : State) (u : Nat)  (h : Kept q M C s) : Kept q M C (State.deadlineOf s u).2 := by
  unfold State.deadlineOf
  try dsimp only
  repeat' first | with_reducible assumption | with_reducible apply State.count_kept | with_reducible apply Kept.ite <;> intro _ | simp only [Kept.upd] | split | intro _
theorem State.deadlineOf_eq {s : State} {u : Nat} {y' : _} {t' : State} (he : State.deadlineOf s u = (y', t')) (h : Kept q M C s) : Kept q M C t' := by
  have k := State.deadlineOf_kept s u h
  rwa [he] at k

/-- Reading a sound entry changes nothing. -/
theorem State.readEntry_sound {s : State} {e : Nat × Request} (h : e.2.fault = 0) : s.readEntry e = s := by simp [State.readEntry, h]

/-- A REQUEST that names a sound entry reads it with no effect. -/
theorem State.readNamed_sound {s : State} {j : Judge} {d : Desc} {i : Nat} {r : Request} (hf : s.findRequest (dPart d) (rqId d) = some (i, r))
    (hr : r.fault = 0) : s.readNamed j d = s := by
  unfold State.readNamed
  rw [hf]
  cases s.mayRequest j d <;> simp [State.readEntry, hr]

/-- An ADMIT that no check refuses names no entry. -/
theorem State.readNamed_fresh {s : State} {j : Judge} {d : Desc} (ho : rqOp d = 1) (hc : s.requestCause j d = none) : s.readNamed j d = s := by
  unfold State.readNamed
  split
  · next e hm hf =>
    simp [State.requestCause, ho, hm, hf] at hc
  · rfl

theorem State.readNamed_kept (s : State) (j : Judge) (d : Desc)  (h : Kept q M C s) : Kept q M C (State.readNamed s j d) := by
  unfold State.readNamed
  repeat' first | with_reducible assumption | with_reducible apply State.readEntry_kept | with_reducible apply Kept.ite <;> intro _ | simp only [Kept.upd] | split | intro _

theorem State.requestRow_kept (s : State) (src : Src) (op : Nat) (act : State → Desc → State)  (hact : ∀ x0 x1, Kept q M C x0 → Kept q M C (act x0 x1)) (h : Kept q M C s) : Kept q M C (State.requestRow s src op act) := by
  unfold State.requestRow
  try dsimp only
  repeat' first | with_reducible assumption | with_reducible apply hact | with_reducible apply State.close_kept | with_reducible apply State.readNamed_kept | with_reducible apply Kept.ite <;> intro _ | simp only [Kept.upd] | split | intro _

theorem execAdmitRequest_kept (src : Src) (s : State)  (h : Kept q M C s) : KeptOut q M C (execAdmitRequest src s) := by
  unfold execAdmitRequest
  try dsimp only
  repeat' first | with_reducible assumption | with_reducible apply KeptOut.next | with_reducible apply KeptOut.ite <;> intro _ | with_reducible apply State.setRequest_kept | with_reducible apply State.count_kept | with_reducible apply State.requestRow_kept | with_reducible apply State.draw_kept | with_reducible refine State.draw_eq ‹_› ?_ | with_reducible apply State.deadlineOf_kept | with_reducible refine State.deadlineOf_eq ‹_› ?_ | with_reducible apply Kept.ite <;> intro _ | simp only [Kept.upd] | split | intro _
theorem execAdmitRequest_eq {src : Src} {s : State} {t' : State} (he : execAdmitRequest src s = .next t') (h : Kept q M C s) : Kept q M C t' := execAdmitRequest_kept src s h t' he

theorem execAppend_kept (src : Src) (s : State)  (h : Kept q M C s) : KeptOut q M C (execAppend src s) := by
  unfold execAppend
  try dsimp only
  repeat' first | with_reducible assumption | with_reducible apply KeptOut.next | with_reducible apply KeptOut.ite <;> intro _ | with_reducible apply State.setRequest_kept | with_reducible apply State.requestRow_kept | with_reducible apply Kept.ite <;> intro _ | simp only [Kept.upd] | split | intro _
theorem execAppend_eq {src : Src} {s : State} {t' : State} (he : execAppend src s = .next t') (h : Kept q M C s) : Kept q M C t' := execAppend_kept src s h t' he

theorem State.pauseNow_kept (s : State) (i : Nat)  (h : Kept q M C s) : Kept q M C (State.pauseNow s i) := by
  unfold State.pauseNow
  try dsimp only
  repeat' first | with_reducible assumption | with_reducible apply State.setRequest_kept | with_reducible apply Kept.ite <;> intro _ | simp only [Kept.upd] | split | intro _

theorem execPause_kept (src : Src) (s : State)  (h : Kept q M C s) : KeptOut q M C (execPause src s) := by
  unfold execPause
  try dsimp only
  repeat' first | with_reducible assumption | with_reducible apply KeptOut.next | with_reducible apply KeptOut.ite <;> intro _ | with_reducible apply State.setRequest_kept | with_reducible apply State.requestRow_kept | with_reducible apply State.pauseNow_kept | with_reducible apply Kept.ite <;> intro _ | simp only [Kept.upd] | split | intro _
theorem execPause_eq {src : Src} {s : State} {t' : State} (he : execPause src s = .next t') (h : Kept q M C s) : Kept q M C t' := execPause_kept src s h t' he

theorem execCancel_kept (src : Src) (s : State)  (h : Kept q M C s) : KeptOut q M C (execCancel src s) := by
  unfold execCancel
  try dsimp only
  repeat' first | with_reducible assumption | with_reducible apply KeptOut.next | with_reducible apply KeptOut.ite <;> intro _ | with_reducible apply State.cancelRequest_kept | with_reducible apply State.requestRow_kept | with_reducible apply Kept.ite <;> intro _ | simp only [Kept.upd] | split | intro _
theorem execCancel_eq {src : Src} {s : State} {t' : State} (he : execCancel src s = .next t') (h : Kept q M C s) : Kept q M C t' := execCancel_kept src s h t' he

theorem State.moveEntry_kept (s : State) (i : Nat) (j : Nat)  (h : Kept q M C s) : Kept q M C (State.moveEntry s i j) := by
  unfold State.moveEntry
  try dsimp only
  repeat' first | with_reducible assumption | with_reducible apply State.bumpWhere_kept | with_reducible apply State.serviceMove_kept | with_reducible apply Kept.ite <;> intro _ | simp only [Kept.upd] | split | intro _

theorem execParkEntry_kept (s : State)  (h : Kept q M C s) : KeptOut q M C (execParkEntry s) := by
  unfold execParkEntry
  try dsimp only
  repeat' first | with_reducible assumption | with_reducible apply KeptOut.next | with_reducible apply KeptOut.ite <;> intro _ | with_reducible apply State.moveEntry_kept | with_reducible apply Kept.ite <;> intro _ | simp only [Kept.upd] | split | intro _
theorem execParkEntry_eq {s : State} {t' : State} (he : execParkEntry s = .next t') (h : Kept q M C s) : Kept q M C t' := execParkEntry_kept s h t' he

theorem execUnparkEntry_kept (s : State)  (h : Kept q M C s) : KeptOut q M C (execUnparkEntry s) := by
  unfold execUnparkEntry
  try dsimp only
  repeat' first | with_reducible assumption | with_reducible apply KeptOut.next | with_reducible apply KeptOut.ite <;> intro _ | with_reducible apply State.moveEntry_kept | with_reducible apply Kept.ite <;> intro _ | simp only [Kept.upd] | split | intro _
theorem execUnparkEntry_eq {s : State} {t' : State} (he : execUnparkEntry s = .next t') (h : Kept q M C s) : Kept q M C t' := execUnparkEntry_kept s h t' he

theorem State.readBytes_kept (s : State) (p : Nat) (t : Nat) (a : Nat) (n : Nat)  (h : Kept q M C s) : Kept q M C (State.readBytes s p t a n).2 := by
  unfold State.readBytes
  try dsimp only
  repeat' first | with_reducible assumption | with_reducible apply State.serviceFailed_kept | with_reducible apply State.mendedTier_kept | with_reducible apply Kept.ite <;> intro _ | simp only [Kept.upd] | split | intro _
theorem State.readBytes_eq {s : State} {p : Nat} {t : Nat} {a : Nat} {n : Nat} {y' : _} {t' : State} (he : State.readBytes s p t a n = (y', t')) (h : Kept q M C s) : Kept q M C t' := by
  have k := State.readBytes_kept s p t a n h
  rwa [he] at k

theorem execRequestPrepare_kept (i : Nat) (s : State)  (h : Kept q M C s) : KeptOut q M C (execRequestPrepare i s) := by
  unfold execRequestPrepare
  try dsimp only
  repeat' first | with_reducible assumption | with_reducible apply KeptOut.next | with_reducible apply KeptOut.ite <;> intro _ | with_reducible apply State.setRequest_kept | with_reducible apply State.serviceMove_kept | with_reducible apply State.readBytes_kept | with_reducible refine State.readBytes_eq ‹_› ?_ | with_reducible apply Kept.ite <;> intro _ | simp only [Kept.upd] | split | intro _
theorem execRequestPrepare_eq {i : Nat} {s : State} {t' : State} (he : execRequestPrepare i s = .next t') (h : Kept q M C s) : Kept q M C t' := execRequestPrepare_kept i s h t' he

theorem State.takeAll_kept (p i t : Nat) (shadow : Bool) : ∀ (l : List Nat) (s : State) (_ : Kept q Any C s), KeptOpt q Any C (s.takeAll p i t shadow l)
  | [], _, h => KeptOpt.some h
  | j :: js, s, h => by
    unfold State.takeAll
    (try dsimp only) <;> repeat' first | with_reducible assumption | with_reducible apply KeptOpt.some | with_reducible exact KeptOpt.none | with_reducible apply KeptOpt.ite <;> intro _ | with_reducible apply State.setRequest_kept | with_reducible apply State.takeFrame_kept | with_reducible apply State.takeAll_kept | with_reducible refine State.takeAll_eq ‹_› ?_ | with_reducible apply Kept.ite <;> intro _ | simp only [Kept.upd] | split | intro _

theorem State.takeAll_eq {p i t : Nat} {shadow : Bool} {l : List Nat} {s u : State} (e : s.takeAll p i t shadow l = some u) (h : Kept q Any C s) : Kept q Any C u :=
  State.takeAll_kept p i t shadow l s h u e

theorem State.bindSlot_kept (s : State) (p : Nat) (g : Nat) (slot : Nat) (e : Nat × Request)  (h : Kept q Any C s) : Kept q Any C (State.bindSlot s p g slot e).1 := by
  unfold State.bindSlot
  try dsimp only
  repeat' first | with_reducible assumption | with_reducible apply State.setPart_kept | with_reducible apply State.count_kept | with_reducible apply State.takeAll_kept | with_reducible refine State.takeAll_eq ‹_› ?_ | with_reducible apply Kept.ite <;> intro _ | simp only [Kept.upd] | split | intro _
theorem State.bindSlot_eq {s : State} {p : Nat} {g : Nat} {slot : Nat} {e : Nat × Request} {y' : _} {t' : State} (he : State.bindSlot s p g slot e = (t', y')) (h : Kept q Any C s) : Kept q Any C t' := by
  have k := State.bindSlot_kept s p g slot e h
  rwa [he] at k

theorem State.fillSlots_kept (p g : Nat) : ∀ (es : List (Nat × Request)) (l : List Nat) (s : State) (_ : Kept q Any C s), Kept q Any C (s.fillSlots p g l es)
  | [], l, s, h => by cases l <;> exact h
  | _ :: _, [], _, h => h
  | e :: es, slot :: slots, s, h => by
    unfold State.fillSlots
    (try dsimp only) <;> repeat' first | with_reducible assumption | with_reducible apply State.bindSlot_kept | with_reducible refine State.bindSlot_eq ‹_› ?_ | with_reducible apply State.fillSlots_kept | with_reducible apply Kept.ite <;> intro _ | simp only [Kept.upd] | split | intro _

theorem State.resolveHost_kept (s : State) (p : Nat) (g : Nat) (n : Nat) (binding : Nat)  (h : Kept q Any C s) : Kept q Any C (State.resolveHost s p g n binding) := by
  unfold State.resolveHost
  try dsimp only
  repeat' first | with_reducible assumption | with_reducible apply State.fillSlots_kept | with_reducible apply State.bindSlot_kept | with_reducible refine State.bindSlot_eq ‹_› ?_ | with_reducible apply Kept.ite <;> intro _ | with_reducible apply foldl_kept (fun _ _ _ => ?_) | with_reducible apply foldl_kept_snd (fun _ _ _ => ?_) | with_reducible apply foldl_kept_fst (fun _ _ _ => ?_) | simp only [Kept.upd] | split | intro _

theorem State.resolveKerb_kept (p : Nat) : ∀ (es : List (Nat × Request)) (l : List Nat) (s : State) (_ : Kept q Any C s), Kept q Any C (s.resolveKerb p l es)
  | [], l, s, h => by cases l <;> exact h
  | _ :: _, [], _, h => h
  | e :: es, slot :: slots, s, h => by
    unfold State.resolveKerb
    (try dsimp only) <;> repeat' first | with_reducible assumption | with_reducible apply State.setPart_kept | with_reducible apply State.count_kept | with_reducible apply State.takeAll_kept | with_reducible refine State.takeAll_eq ‹_› ?_ | with_reducible apply State.resolveKerb_kept | with_reducible apply Kept.ite <;> intro _ | simp only [Kept.upd] | split | intro _

theorem State.markMissed_kept (s : State) (p : Nat)  (h : Kept q M C s) : Kept q M C (State.markMissed s p) := by
  unfold State.markMissed
  try dsimp only
  repeat' first | with_reducible assumption | with_reducible apply State.setRequest_kept | with_reducible apply State.count_kept | with_reducible apply Kept.ite <;> intro _ | with_reducible apply foldl_kept (fun _ _ _ => ?_) | with_reducible apply foldl_kept_snd (fun _ _ _ => ?_) | with_reducible apply foldl_kept_fst (fun _ _ _ => ?_) | simp only [Kept.upd] | split | intro _

theorem State.readEntries_kept (s : State) (p : Nat)  (h : Kept q M C s) : Kept q M C (State.readEntries s p) :=
  foldl_kept (fun _ _ h => State.readEntry_kept _ _ h) h

theorem execBatchResolution_kept (p : Fin 64) (s : State)  (h : Kept q Any C s) : KeptOut q Any C (execBatchResolution p s) := by
  unfold execBatchResolution
  try dsimp only
  repeat' first | with_reducible assumption | with_reducible apply KeptOut.next | with_reducible apply KeptOut.ite <;> intro _ | with_reducible apply State.setPart_kept | with_reducible apply State.drained_kept | with_reducible apply State.switchWith_kept | with_reducible apply State.resolveHost_kept | with_reducible apply State.resolveKerb_kept | with_reducible apply State.markMissed_kept | with_reducible apply State.readEntries_kept | with_reducible apply Kept.ite <;> intro _ | simp only [Kept.upd] | split | intro _
theorem execBatchResolution_eq {p : Fin 64} {s : State} {t' : State} (he : execBatchResolution p s = .next t') (h : Kept q Any C s) : Kept q Any C t' := execBatchResolution_kept p s h t' he

end
end Sys2Proof.Machine
end

