-- ==== Sys2Proof/Laws/ServingKeeps.lean ====
section
/-! SUPPORT. What the operations of Machine/Serving.lean keep: the queue, the form of the state and, where they store nothing, the memory. -/
set_option linter.all false
set_option Elab.async false
namespace Sys2Proof.Machine
section
variable {q : List Instr} {M : Memory → Prop} {C : Prop}

theorem State.launchServing_kept (s : State) (p : Nat) (b : Nat) (d : Desc) (w : Nat) (writes : List (Nat × Word))  (h : Kept q M C s) : Kept q M C (State.launchServing s p b d w writes) := by
  unfold State.launchServing
  try dsimp only
  repeat' first | with_reducible assumption | with_reducible apply State.setPart_kept | with_reducible apply State.launch_kept | with_reducible apply Kept.ite <;> intro _ | simp only [Kept.upd] | split | intro _

theorem State.issueBind_kept (s : State) (b : Nat) (kind : Nat) (f : State → Nat → Desc → Option Request → List Word)  (h : Kept q M C s) : Kept q M C (State.issueBind s b kind f) := by
  unfold State.issueBind
  try dsimp only
  repeat' first | with_reducible assumption | with_reducible apply State.issue_kept | with_reducible apply State.launchServing_kept | with_reducible apply Kept.ite <;> intro _ | simp only [Kept.upd] | split | intro _

theorem execBindSeedrec_kept (b : Fin 256) (s : State)  (h : Kept q M C s) : KeptOut q M C (execBindSeedrec b s) := by
  unfold execBindSeedrec
  try dsimp only
  repeat' first | with_reducible assumption | with_reducible apply KeptOut.next | with_reducible apply KeptOut.ite <;> intro _ | with_reducible apply State.issueBind_kept | with_reducible apply Kept.ite <;> intro _ | simp only [Kept.upd] | split | intro _
theorem execBindSeedrec_eq {b : Fin 256} {s : State} {t' : State} (he : execBindSeedrec b s = .next t') (h : Kept q M C s) : Kept q M C t' := execBindSeedrec_kept b s h t' he

theorem execBindSlotinfo_kept (b : Fin 256) (s : State)  (h : Kept q M C s) : KeptOut q M C (execBindSlotinfo b s) := by
  unfold execBindSlotinfo
  try dsimp only
  repeat' first | with_reducible assumption | with_reducible apply KeptOut.next | with_reducible apply KeptOut.ite <;> intro _ | with_reducible apply State.issueBind_kept | with_reducible apply Kept.ite <;> intro _ | simp only [Kept.upd] | split | intro _
theorem execBindSlotinfo_eq {b : Fin 256} {s : State} {t' : State} (he : execBindSlotinfo b s = .next t') (h : Kept q M C s) : Kept q M C t' := execBindSlotinfo_kept b s h t' he

theorem execBindInput_kept (b : Fin 256) (s : State)  (h : Kept q M C s) : KeptOut q M C (execBindInput b s) := by
  unfold execBindInput
  try dsimp only
  repeat' first | with_reducible assumption | with_reducible apply KeptOut.next | with_reducible apply KeptOut.ite <;> intro _ | with_reducible apply State.issueBind_kept | with_reducible apply Kept.ite <;> intro _ | simp only [Kept.upd] | split | intro _
theorem execBindInput_eq {b : Fin 256} {s : State} {t' : State} (he : execBindInput b s = .next t') (h : Kept q M C s) : Kept q M C t' := execBindInput_kept b s h t' he

theorem execRoute_kept (b : Fin 256) (s : State)  (h : Kept q M C s) : KeptOut q M C (execRoute b s) := by
  unfold execRoute
  try dsimp only
  repeat' first | with_reducible assumption | with_reducible apply KeptOut.next | with_reducible apply KeptOut.ite <;> intro _ | with_reducible apply State.issue_kept | with_reducible apply State.readSource_kept | with_reducible apply State.launchServing_kept | with_reducible apply Kept.ite <;> intro _ | simp only [Kept.upd] | split | intro _
theorem execRoute_eq {b : Fin 256} {s : State} {t' : State} (he : execRoute b s = .next t') (h : Kept q M C s) : Kept q M C t' := execRoute_kept b s h t' he

theorem execKvappend_kept (b : Fin 256) (s : State)  (h : Kept q M C s) : KeptOut q M C (execKvappend b s) := by
  unfold execKvappend
  try dsimp only
  repeat' first | with_reducible assumption | with_reducible apply KeptOut.next | with_reducible apply KeptOut.ite <;> intro _ | with_reducible apply State.setPart_kept | with_reducible apply State.launch_kept | with_reducible apply State.issue_kept | with_reducible apply Kept.ite <;> intro _ | simp only [Kept.upd] | split | intro _
theorem execKvappend_eq {b : Fin 256} {s : State} {t' : State} (he : execKvappend b s = .next t') (h : Kept q M C s) : Kept q M C t' := execKvappend_kept b s h t' he

theorem execEmit_kept (b : Fin 256) (s : State)  (h : Kept q M C s) : KeptOut q M C (execEmit b s) := by
  unfold execEmit
  try dsimp only
  repeat' first | with_reducible assumption | with_reducible apply KeptOut.next | with_reducible apply KeptOut.ite <;> intro _ | with_reducible apply State.setPart_kept | with_reducible apply State.issue_kept | with_reducible apply State.readSource_kept | with_reducible apply State.launchServing_kept | with_reducible apply Kept.ite <;> intro _ | simp only [Kept.upd] | split | intro _
theorem execEmit_eq {b : Fin 256} {s : State} {t' : State} (he : execEmit b s = .next t') (h : Kept q M C s) : Kept q M C t' := execEmit_kept b s h t' he

theorem execDigest_kept (b : Fin 256) (s : State)  (h : Kept q M C s) : KeptOut q M C (execDigest b s) := by
  unfold execDigest
  try dsimp only
  repeat' first | with_reducible assumption | with_reducible apply KeptOut.next | with_reducible apply KeptOut.ite <;> intro _ | with_reducible apply State.setPart_kept | with_reducible apply State.launch_kept | with_reducible apply State.issue_kept | with_reducible apply Kept.ite <;> intro _ | simp only [Kept.upd] | split | intro _
theorem execDigest_eq {b : Fin 256} {s : State} {t' : State} (he : execDigest b s = .next t') (h : Kept q M C s) : Kept q M C t' := execDigest_kept b s h t' he

theorem execServingCompletion_kept (p : Fin 64) (s : State)  (h : Kept q Any C s) : KeptOut q Any C (execServingCompletion p s) := by
  unfold execServingCompletion
  try dsimp only
  repeat' first | with_reducible assumption | with_reducible apply KeptOut.next | with_reducible apply KeptOut.ite <;> intro _ | with_reducible apply State.writeWords_kept | with_reducible apply State.completeOp_kept | with_reducible apply Kept.ite <;> intro _ | simp only [Kept.upd] | split | intro _
theorem execServingCompletion_eq {p : Fin 64} {s : State} {t' : State} (he : execServingCompletion p s = .next t') (h : Kept q Any C s) : Kept q Any C t' := execServingCompletion_kept p s h t' he

theorem State.leafOf_kept (s : State) (p : Nat) (d : List Byte)  (h : Kept q M C s) : Kept q M C (State.leafOf s p d).2 := by
  unfold State.leafOf
  try dsimp only
  repeat' first | with_reducible assumption | with_reducible apply Kept.ite <;> intro _ | simp only [Kept.upd] | split | intro _
theorem State.leafOf_eq {s : State} {p : Nat} {d : List Byte} {y' : _} {t' : State} (he : State.leafOf s p d = (y', t')) (h : Kept q M C s) : Kept q M C t' := by
  have k := State.leafOf_kept s p d h
  rwa [he] at k

theorem State.finishSlot_kept (s : State) (p : Nat) (t : Ticket) (slot : Nat) (i : Nat)  (h : Kept q M C s) : Kept q M C (State.finishSlot s p t slot i) := by
  unfold State.finishSlot
  try dsimp only
  repeat' first | with_reducible assumption | with_reducible apply State.setRequest_kept | with_reducible apply State.count_kept | with_reducible apply State.tellRequest_kept | with_reducible apply State.readEntry_kept | with_reducible apply State.leafOf_kept | with_reducible refine State.leafOf_eq ‹_› ?_ | with_reducible apply Kept.ite <;> intro _ | simp only [Kept.upd] | split | intro _

theorem State.finishSummary_kept (s : State) (p : Nat) (t : Ticket) (slot : Nat) (i : Nat)  (h : Kept q M C s) : Kept q M C (State.finishSummary s p t slot i) := by
  unfold State.finishSummary
  try dsimp only
  repeat' first | with_reducible assumption | with_reducible apply State.setRequest_kept | with_reducible apply State.tellRequest_kept | with_reducible apply State.readEntry_kept | with_reducible apply Kept.ite <;> intro _ | simp only [Kept.upd] | split | intro _

theorem State.waitedCommands_kept (s : State) (i : Nat)  (h : Kept q M C s) : Kept q M C (State.waitedCommands s i) := by
  unfold State.waitedCommands
  try dsimp only
  repeat' first | with_reducible assumption | with_reducible apply State.endWaiting_kept | with_reducible apply State.pauseNow_kept | with_reducible apply Kept.ite <;> intro _ | simp only [Kept.upd] | split | intro _

theorem State.unslot_kept (s : State) (p : Nat) (g : Nat) (bound : List Nat)  (h : Kept q M C s) : Kept q M C (State.unslot s p g bound) := by
  unfold State.unslot
  try dsimp only
  repeat' first | with_reducible assumption | with_reducible apply Kept.ite <;> intro _ | simp only [Kept.upd] | split | intro _

theorem execServingDone_kept (p : Fin 64) (s : State)  (h : Kept q M C s) : KeptOut q M C (execServingDone p s) := by
  unfold execServingDone
  try dsimp only
  repeat' first | with_reducible assumption | with_reducible apply KeptOut.next | with_reducible apply KeptOut.ite <;> intro _ | with_reducible apply State.setPart_kept | with_reducible apply State.count_kept | with_reducible apply State.setCounter_kept | with_reducible apply State.drained_kept | with_reducible apply State.answerTicket_kept | with_reducible apply State.proceed_kept | with_reducible apply State.finishSlot_kept | with_reducible apply State.finishSummary_kept | with_reducible apply State.waitedCommands_kept | with_reducible apply State.unslot_kept | with_reducible apply Kept.ite <;> intro _ | with_reducible apply foldl_kept (fun _ _ _ => ?_) | with_reducible apply foldl_kept_snd (fun _ _ _ => ?_) | with_reducible apply foldl_kept_fst (fun _ _ _ => ?_) | simp only [Kept.upd] | split | intro _
theorem execServingDone_eq {p : Fin 64} {s : State} {t' : State} (he : execServingDone p s = .next t') (h : Kept q M C s) : Kept q M C t' := execServingDone_kept p s h t' he

theorem State.reportFailure_kept (s : State) (p : Nat)  (h : Kept q M C s) : Kept q M C (State.reportFailure s p) := by
  unfold State.reportFailure
  try dsimp only
  repeat' first | with_reducible assumption | with_reducible apply State.setPart_kept | with_reducible apply State.setRequest_kept | with_reducible apply State.setCounter_kept | with_reducible apply State.settle_kept | with_reducible apply State.tellRequest_kept | with_reducible apply State.answerTicket_kept | with_reducible apply Kept.ite <;> intro _ | with_reducible apply foldl_kept (fun _ _ _ => ?_) | with_reducible apply foldl_kept_snd (fun _ _ _ => ?_) | with_reducible apply foldl_kept_fst (fun _ _ _ => ?_) | simp only [Kept.upd] | split | intro _

end
end Sys2Proof.Machine
end

