-- ==== Sys2Proof/Laws/KerbKeeps.lean ====
section
/-! SUPPORT. What the operations of Machine/Kerb.lean keep: the queue, the form of the state and, where they store nothing, the memory. -/
set_option linter.all false
set_option Elab.async false
namespace Sys2Proof.Machine
section
variable {q : List Instr} {M : Memory → Prop} {C : Prop}

theorem State.beginFirst_kept (p : Nat) : ∀ (l : List (Nat × Request)) (s : State) (_ : Kept q M C s), Kept q M C (s.beginFirst p l)
  | [], _, h => h
  | _ :: t, s, h => by
    unfold State.beginFirst
    (try dsimp only) <;> repeat' first | with_reducible assumption | with_reducible apply State.setRequest_kept | with_reducible apply State.count_kept | with_reducible apply State.beginFirst_kept | with_reducible apply Kept.ite <;> intro _ | simp only [Kept.upd] | split | intro _

theorem execKerbingBegin_kept (p : Fin 64) (s : State)  (h : Kept q M C s) : KeptOut q M C (execKerbingBegin p s) := by
  unfold execKerbingBegin
  try dsimp only
  repeat' first | with_reducible assumption | with_reducible apply KeptOut.next | with_reducible apply KeptOut.ite <;> intro _ | with_reducible apply State.beginFirst_kept | with_reducible apply Kept.ite <;> intro _ | with_reducible apply foldl_kept (fun _ _ _ => ?_) | with_reducible apply foldl_kept_snd (fun _ _ _ => ?_) | with_reducible apply foldl_kept_fst (fun _ _ _ => ?_) | simp only [Kept.upd] | split | intro _
theorem execKerbingBegin_eq {p : Fin 64} {s : State} {t' : State} (he : execKerbingBegin p s = .next t') (h : Kept q M C s) : Kept q M C t' := execKerbingBegin_kept p s h t' he

theorem State.copyFrame_kept (s : State) (t : Nat) (a : Nat) (b : Nat)  (h : Kept q Any C s) : KeptOpt q Any C (State.copyFrame s t a b) := by
  unfold State.copyFrame
  try dsimp only
  repeat' first | with_reducible assumption | with_reducible apply KeptOpt.some | with_reducible exact KeptOpt.none | with_reducible apply KeptOpt.ite <;> intro _ | with_reducible apply State.writeTier_kept | with_reducible apply State.mendedTier_kept | with_reducible apply Kept.ite <;> intro _ | simp only [Kept.upd] | split | intro _
theorem State.copyFrame_eq {s : State} {t : Nat} {a : Nat} {b : Nat} {t' : State} (he : State.copyFrame s t a b = some t') (h : Kept q Any C s) : Kept q Any C t' := State.copyFrame_kept s t a b h t' he

theorem State.endMove_kept (s : State) (i : Nat) (a : Nat)  (h : Kept q M C s) : Kept q M C (State.endMove s i a) := by
  unfold State.endMove
  try dsimp only
  repeat' first | with_reducible assumption | with_reducible apply State.serviceFailed_kept | with_reducible apply State.mendedTier_kept | with_reducible apply State.freeRequest_kept | with_reducible apply Kept.ite <;> intro _ | simp only [Kept.upd] | split | intro _

theorem State.kerbed_kept (s : State) (i : Nat)  (h : Kept q M C s) : Kept q M C (State.kerbed s i) := by
  unfold State.kerbed
  try dsimp only
  repeat' first | with_reducible assumption | with_reducible apply State.setRequest_kept | with_reducible apply State.count_kept | with_reducible apply State.tellRequest_kept | with_reducible apply State.endWaiting_kept | with_reducible apply Kept.ite <;> intro _ | simp only [Kept.upd] | split | intro _

theorem State.takeKerb_kept (s : State) (p : Nat) (t : Nat) (k : Nat) (f : Nat)  (h : Kept q Any C s) : Kept q Any C (State.takeKerb s p t k f) := by
  unfold State.takeKerb
  try dsimp only
  repeat' first | with_reducible assumption | with_reducible apply State.clearRange_kept | with_reducible apply Kept.ite <;> intro _ | simp only [Kept.upd] | split | intro _

theorem execKerbFrameCopy_kept (i : Nat) (s : State)  (h : Kept q Any C s) : KeptOut q Any C (execKerbFrameCopy i s) := by
  unfold execKerbFrameCopy
  try dsimp only
  repeat' first | with_reducible assumption | with_reducible apply KeptOut.next | with_reducible apply KeptOut.ite <;> intro _ | with_reducible apply State.setRequest_kept | with_reducible apply State.charge_kept | with_reducible apply State.serviceMove_kept | with_reducible apply State.endMove_kept | with_reducible apply State.kerbed_kept | with_reducible apply State.takeKerb_kept | with_reducible apply State.copyFrame_kept | with_reducible refine State.copyFrame_eq ‹_› ?_ | with_reducible apply Kept.ite <;> intro _ | simp only [Kept.upd] | split | intro _
theorem execKerbFrameCopy_eq {i : Nat} {s : State} {t' : State} (he : execKerbFrameCopy i s = .next t') (h : Kept q Any C s) : Kept q Any C t' := execKerbFrameCopy_kept i s h t' he

theorem execKerbTicket_kept (p : Fin 64) (s : State)  (h : Kept q M C s) : KeptOut q M C (execKerbTicket p s) := by
  unfold execKerbTicket
  try dsimp only
  repeat' first | with_reducible assumption | with_reducible apply KeptOut.next | with_reducible apply KeptOut.ite <;> intro _ | with_reducible apply State.setPart_kept | with_reducible apply State.proceed_kept | with_reducible apply State.abandonSlices_kept | with_reducible apply Kept.ite <;> intro _ | simp only [Kept.upd] | split | intro _
theorem execKerbTicket_eq {p : Fin 64} {s : State} {t' : State} (he : execKerbTicket p s = .next t') (h : Kept q M C s) : Kept q M C t' := execKerbTicket_kept p s h t' he

theorem execRequestExpiry_kept (i : Nat) (s : State)  (h : Kept q M C s) : KeptOut q M C (execRequestExpiry i s) := by
  unfold execRequestExpiry
  try dsimp only
  repeat' first | with_reducible assumption | with_reducible apply KeptOut.next | with_reducible apply KeptOut.ite <;> intro _ | with_reducible exact KeptOut.fault | with_reducible exact KeptOut.refused | with_reducible apply State.count_kept | with_reducible apply State.freeRequest_kept | with_reducible apply State.readEntry_kept | with_reducible apply State.kerbed_kept | with_reducible apply Kept.ite <;> intro _ | simp only [Kept.upd] | split | intro _
theorem execRequestExpiry_eq {i : Nat} {s : State} {t' : State} (he : execRequestExpiry i s = .next t') (h : Kept q M C s) : Kept q M C t' := execRequestExpiry_kept i s h t' he

theorem State.recalled_kept (s : State) (i : Nat)  (h : Kept q M C s) : Kept q M C (State.recalled s i) := by
  unfold State.recalled
  try dsimp only
  repeat' first | with_reducible assumption | with_reducible apply State.setRequest_kept | with_reducible apply State.count_kept | with_reducible apply State.tellRequest_kept | with_reducible apply State.endWaiting_kept | with_reducible apply Kept.ite <;> intro _ | simp only [Kept.upd] | split | intro _

theorem execRecallFrameCopy_kept (i : Nat) (s : State)  (h : Kept q Any C s) : KeptOut q Any C (execRecallFrameCopy i s) := by
  unfold execRecallFrameCopy
  try dsimp only
  repeat' first | with_reducible assumption | with_reducible apply KeptOut.next | with_reducible apply KeptOut.ite <;> intro _ | with_reducible apply State.setRequest_kept | with_reducible apply State.count_kept | with_reducible apply State.charge_kept | with_reducible apply State.serviceMove_kept | with_reducible apply State.takeFrame_kept | with_reducible apply State.endMove_kept | with_reducible apply State.recalled_kept | with_reducible apply State.copyFrame_kept | with_reducible refine State.copyFrame_eq ‹_› ?_ | with_reducible apply Kept.ite <;> intro _ | simp only [Kept.upd] | split | intro _
theorem execRecallFrameCopy_eq {i : Nat} {s : State} {t' : State} (he : execRecallFrameCopy i s = .next t') (h : Kept q Any C s) : Kept q Any C t' := execRecallFrameCopy_kept i s h t' he

theorem execRootSign_kept (p : Fin 64) (s : State)  (h : Kept q M C s) : KeptOut q M C (execRootSign p s) := by
  unfold execRootSign
  try dsimp only
  repeat' first | with_reducible assumption | with_reducible apply KeptOut.next | with_reducible apply KeptOut.ite <;> intro _ | with_reducible apply Kept.ite <;> intro _ | simp only [Kept.upd] | split | intro _
theorem execRootSign_eq {p : Fin 64} {s : State} {t' : State} (he : execRootSign p s = .next t') (h : Kept q M C s) : Kept q M C t' := execRootSign_kept p s h t' he

end
end Sys2Proof.Machine
end

