-- ==== Sys2Proof/Laws/LoaderKeeps.lean ====
section
/-! SUPPORT. What the operations of Machine/Loader.lean keep: the queue, the form of the state and, where they store nothing, the memory. -/
set_option linter.all false
set_option Elab.async false
namespace Sys2Proof.Machine
section
variable {q : List Instr} {M : Memory → Prop} {C : Prop}

theorem State.assignSlots_kept (s : State) (p : Nat)  (h : Kept q M C s) : Kept q M C (State.assignSlots s p) := by
  unfold State.assignSlots
  try dsimp only
  repeat' first | with_reducible assumption | with_reducible apply State.setPart_kept | with_reducible apply Kept.ite <;> intro _ | simp only [Kept.upd] | split | intro _

theorem execLoadPlan_kept (src : Src) (image : List Byte) (s : State)  (h : Kept q M C s) : KeptOut q M C (execLoadPlan src image s) := by
  unfold execLoadPlan
  try dsimp only
  repeat' first | with_reducible assumption | with_reducible apply KeptOut.next | with_reducible apply KeptOut.ite <;> intro _ | with_reducible apply State.setPart_kept | with_reducible apply State.wipe_kept | with_reducible apply State.measureIdle_kept | with_reducible apply State.close_kept | with_reducible apply State.assignSlots_kept | with_reducible apply Kept.ite <;> intro _ | simp only [Kept.upd] | split | intro _
theorem execLoadPlan_eq {src : Src} {image : List Byte} {s : State} {t' : State} (he : execLoadPlan src image s = .next t') (h : Kept q M C s) : Kept q M C t' := execLoadPlan_kept src image s h t' he

theorem execUnloadPlan_kept (src : Src) (s : State)  (h : Kept q M C s) : KeptOut q M C (execUnloadPlan src s) := by
  unfold execUnloadPlan
  try dsimp only
  repeat' first | with_reducible assumption | with_reducible apply KeptOut.next | with_reducible apply KeptOut.ite <;> intro _ | with_reducible apply State.setPart_kept | with_reducible apply State.measureIdle_kept | with_reducible apply State.close_kept | with_reducible apply Kept.ite <;> intro _ | simp only [Kept.upd] | split | intro _
theorem execUnloadPlan_eq {src : Src} {s : State} {t' : State} (he : execUnloadPlan src s = .next t') (h : Kept q M C s) : Kept q M C t' := execUnloadPlan_kept src s h t' he

theorem State.acceptEntries_kept (s : State) (p : Nat) (gen : Nat) (h1 : Nat) (es : List (BitVec 128))  (h : Kept q M C s) : Kept q M C (State.acceptEntries s p gen h1 es) := by
  unfold State.acceptEntries
  try dsimp only
  repeat' first | with_reducible assumption | with_reducible apply State.setPart_kept | with_reducible apply State.wipe_kept | with_reducible apply State.measureIdle_kept | with_reducible apply Kept.ite <;> intro _ | with_reducible apply foldl_kept (fun _ _ _ => ?_) | simp only [Kept.upd] | split | intro _

theorem State.loadEntries_kept (s : State) (src : Src) (d : Desc) (es : List (BitVec 128))  (h : Kept q M C s) : Kept q M C (State.loadEntries s src d es) := by
  unfold State.loadEntries
  try dsimp only
  repeat' first | with_reducible assumption | with_reducible apply State.close_kept | with_reducible apply State.acceptEntries_kept | with_reducible apply Kept.ite <;> intro _ | simp only [Kept.upd] | split | intro _

theorem execLoadHandles_kept (src : Src) (entries : List (BitVec 128)) (s : State)  (h : Kept q M C s) : KeptOut q M C (execLoadHandles src entries s) := by
  unfold execLoadHandles
  try dsimp only
  repeat' first | with_reducible assumption | with_reducible apply KeptOut.next | with_reducible apply KeptOut.ite <;> intro _ | with_reducible apply State.loadEntries_kept | with_reducible apply Kept.ite <;> intro _ | simp only [Kept.upd] | split | intro _
theorem execLoadHandles_eq {src : Src} {entries : List (BitVec 128)} {s : State} {t' : State} (he : execLoadHandles src entries s = .next t') (h : Kept q M C s) : Kept q M C t' := execLoadHandles_kept src entries s h t' he

theorem execPatch_kept (src : Src) (s : State)  (h : Kept q M C s) : KeptOut q M C (execPatch src s) := by
  unfold execPatch
  try dsimp only
  repeat' first | with_reducible assumption | with_reducible apply KeptOut.next | with_reducible apply KeptOut.ite <;> intro _ | with_reducible apply State.loadEntries_kept | with_reducible apply Kept.ite <;> intro _ | simp only [Kept.upd] | split | intro _
theorem execPatch_eq {src : Src} {s : State} {t' : State} (he : execPatch src s = .next t') (h : Kept q M C s) : Kept q M C t' := execPatch_kept src s h t' he

theorem State.setMoved_kept (s : State) (src : Src) (v : Nat × Status)  (h : Kept q M C s) : Kept q M C (State.setMoved s src v) := by
  unfold State.setMoved
  try dsimp only
  repeat' first | with_reducible assumption | with_reducible apply State.setCore_kept | with_reducible apply State.setFn_kept | with_reducible apply Kept.ite <;> intro _ | simp only [Kept.upd] | split | intro _

theorem State.dmaWait_kept (s : State) (src : Src)  (h : Kept q M C s) : Kept q M C (State.dmaWait s src) := by
  unfold State.dmaWait
  try dsimp only
  repeat' first | with_reducible assumption | with_reducible apply State.count_kept | with_reducible apply Kept.ite <;> intro _ | simp only [Kept.upd] | split | intro _

theorem State.chargeDma_kept (s : State) (src : Src) (d : Desc) (n : Nat)  (h : Kept q M C s) : Kept q M C (State.chargeDma s src d n) := by
  unfold State.chargeDma
  try dsimp only
  repeat' first | with_reducible assumption | with_reducible apply State.charge_kept | with_reducible apply State.serviceMove_kept | with_reducible apply Kept.ite <;> intro _ | simp only [Kept.upd] | split | intro _

theorem execDmaIn_kept (src : Src) (data : List Word) (s : State)  (h : Kept q Any C s) : KeptOut q Any C (execDmaIn src data s) := by
  unfold execDmaIn
  try dsimp only
  repeat' first | with_reducible assumption | with_reducible apply KeptOut.next | with_reducible apply KeptOut.ite <;> intro _ | with_reducible exact KeptOut.fault | with_reducible exact KeptOut.refused | with_reducible apply State.writeWords_kept | with_reducible apply State.writeTier_kept | with_reducible apply State.portFault_kept | with_reducible apply State.close_kept | with_reducible apply State.setMoved_kept | with_reducible apply State.dmaWait_kept | with_reducible apply State.chargeDma_kept | with_reducible apply Kept.ite <;> intro _ | simp only [Kept.upd] | split | intro _
theorem execDmaIn_eq {src : Src} {data : List Word} {s : State} {t' : State} (he : execDmaIn src data s = .next t') (h : Kept q Any C s) : Kept q Any C t' := execDmaIn_kept src data s h t' he

theorem execDmaOut_kept (src : Src) (s : State)  (h : Kept q M C s) : KeptOut q M C (execDmaOut src s) := by
  unfold execDmaOut
  try dsimp only
  repeat' first | with_reducible assumption | with_reducible apply KeptOut.next | with_reducible apply KeptOut.ite <;> intro _ | with_reducible exact KeptOut.fault | with_reducible exact KeptOut.refused | with_reducible apply State.emit_kept | with_reducible apply State.serviceFailed_kept | with_reducible apply State.mended0_kept | with_reducible apply State.mendedTier_kept | with_reducible apply State.portFault_kept | with_reducible apply State.close_kept | with_reducible apply State.setMoved_kept | with_reducible apply State.dmaWait_kept | with_reducible apply State.chargeDma_kept | with_reducible apply Kept.ite <;> intro _ | simp only [Kept.upd] | split | intro _
theorem execDmaOut_eq {src : Src} {s : State} {t' : State} (he : execDmaOut src s = .next t') (h : Kept q M C s) : Kept q M C t' := execDmaOut_kept src s h t' he

theorem execDmaCompletion_kept (src : Src) (s : State)  (h : Kept q M C s) : KeptOut q M C (execDmaCompletion src s) := by
  unfold execDmaCompletion
  try dsimp only
  repeat' first | with_reducible assumption | with_reducible apply KeptOut.next | with_reducible apply KeptOut.ite <;> intro _ | with_reducible apply State.close_kept | with_reducible apply Kept.ite <;> intro _ | simp only [Kept.upd] | split | intro _
theorem execDmaCompletion_eq {src : Src} {s : State} {t' : State} (he : execDmaCompletion src s = .next t') (h : Kept q M C s) : Kept q M C t' := execDmaCompletion_kept src s h t' he

end
end Sys2Proof.Machine
end

