-- ==== Sys2Proof/Laws/RoutinesKeeps.lean ====
section
/-! SUPPORT. What the operations of Machine/Routines.lean keep: the queue, the form of the state and, where they store nothing, the memory. -/
set_option linter.all false
set_option Elab.async false
namespace Sys2Proof.Machine
section
variable {q : List Instr} {M : Memory → Prop} {C : Prop}

theorem State.setRoutine_kept (s : State) (p : Nat) (r : Routine)  (h : Kept q M C s) : Kept q M C (State.setRoutine s p r) := by
  unfold State.setRoutine
  try dsimp only
  repeat' first | with_reducible assumption | with_reducible apply State.setPart_kept | with_reducible apply Kept.ite <;> intro _ | simp only [Kept.upd] | split | intro _

theorem execRoutineEntry_kept (p : Fin 64) (s : State)  (h : Kept q M C s) : KeptOut q M C (execRoutineEntry p s) := by
  unfold execRoutineEntry
  try dsimp only
  repeat' first | with_reducible assumption | with_reducible apply KeptOut.next | with_reducible apply KeptOut.ite <;> intro _ | with_reducible apply State.setRoutine_kept | with_reducible apply Kept.ite <;> intro _ | simp only [Kept.upd] | split | intro _
theorem execRoutineEntry_eq {p : Fin 64} {s : State} {t' : State} (he : execRoutineEntry p s = .next t') (h : Kept q M C s) : Kept q M C t' := execRoutineEntry_kept p s h t' he

theorem execSliceBegin_kept (p : Fin 64) (s : State)  (h : Kept q M C s) : KeptOut q M C (execSliceBegin p s) := by
  unfold execSliceBegin
  try dsimp only
  repeat' first | with_reducible assumption | with_reducible apply KeptOut.next | with_reducible apply KeptOut.ite <;> intro _ | with_reducible apply State.setRoutine_kept | with_reducible apply Kept.ite <;> intro _ | simp only [Kept.upd] | split | intro _
theorem execSliceBegin_eq {p : Fin 64} {s : State} {t' : State} (he : execSliceBegin p s = .next t') (h : Kept q M C s) : Kept q M C t' := execSliceBegin_kept p s h t' he

theorem execSliceEnd_kept (p : Fin 64) (s : State)  (h : Kept q M C s) : KeptOut q M C (execSliceEnd p s) := by
  unfold execSliceEnd
  try dsimp only
  repeat' first | with_reducible assumption | with_reducible apply KeptOut.next | with_reducible apply KeptOut.ite <;> intro _ | with_reducible apply State.setRoutine_kept | with_reducible apply Kept.ite <;> intro _ | simp only [Kept.upd] | split | intro _
theorem execSliceEnd_eq {p : Fin 64} {s : State} {t' : State} (he : execSliceEnd p s = .next t') (h : Kept q M C s) : Kept q M C t' := execSliceEnd_kept p s h t' he

theorem State.setReg_kept (s : State) (k : Nat) (w : Runner) (i : Nat) (v : BitVec 64)  (h : Kept q M C s) : Kept q M C (State.setReg s k w i v) := by
  unfold State.setReg
  try dsimp only
  repeat' first | with_reducible assumption | with_reducible apply State.setCore_kept | with_reducible apply State.setRoutine_kept | with_reducible apply Kept.ite <;> intro _ | simp only [Kept.upd] | split | intro _

theorem State.retireInstr_kept (s : State) (k : Nat)  (h : Kept q M C s) : Kept q M C (State.retireInstr s k) := by
  unfold State.retireInstr
  try dsimp only
  repeat' first | with_reducible assumption | with_reducible apply State.setCore_kept | with_reducible apply Kept.ite <;> intro _ | simp only [Kept.upd] | split | intro _

theorem State.advance_kept (s : State) (k : Nat) (w : Runner) (n : Nat)  (h : Kept q M C s) : Kept q M C (State.advance s k w n) := by
  unfold State.advance
  try dsimp only
  repeat' first | with_reducible assumption | with_reducible apply State.setCore_kept | with_reducible apply State.setRoutine_kept | with_reducible apply State.retireInstr_kept | with_reducible apply Kept.ite <;> intro _ | simp only [Kept.upd] | split | intro _

theorem State.result_kept (s : State) (k : Nat) (w : Runner) (rd : Nat) (v : BitVec 64) (n : Nat)  (h : Kept q M C s) : Kept q M C (State.result s k w rd v n) := by
  unfold State.result
  try dsimp only
  repeat' first | with_reducible assumption | with_reducible apply State.setReg_kept | with_reducible apply State.advance_kept | with_reducible apply Kept.ite <;> intro _ | simp only [Kept.upd] | split | intro _

theorem State.routineFault_kept (s : State) (p : Nat) (cause : RoutineFault)  (h : Kept q M C s) : Kept q M C (State.routineFault s p cause) := by
  unfold State.routineFault
  try dsimp only
  repeat' first | with_reducible assumption | with_reducible apply State.setObj_kept | with_reducible apply State.raise_kept | with_reducible apply State.failStep_kept | with_reducible apply State.setRoutine_kept | with_reducible apply State.draw_kept | with_reducible refine State.draw_eq ‹_› ?_ | with_reducible apply Kept.ite <;> intro _ | simp only [Kept.upd] | split | intro _

theorem State.trap_kept (s : State) (k : Nat) (cause : Nat) (tval : Nat)  (h : Kept q M C s) : Kept q M C (State.trap s k cause tval) := by
  unfold State.trap
  try dsimp only
  repeat' first | with_reducible assumption | with_reducible apply State.setCore_kept | with_reducible apply Kept.ite <;> intro _ | simp only [Kept.upd] | split | intro _

theorem State.accessFault_kept (s : State) (k : Nat) (w : Runner) (cause : Nat) (a : Nat)  (h : Kept q M C s) : Kept q M C (State.accessFault s k w cause a) := by
  unfold State.accessFault
  try dsimp only
  repeat' first | with_reducible assumption | with_reducible apply State.routineFault_kept | with_reducible apply State.trap_kept | with_reducible apply Kept.ite <;> intro _ | simp only [Kept.upd] | split | intro _

theorem State.store_kept (s : State) (k : Nat) (a : Nat) (l : List Byte)  (h : Kept q M C s) : Kept q M C (State.store s k a l) := by
  unfold State.store
  try dsimp only
  repeat' first | with_reducible assumption | with_reducible apply State.setCore_kept | with_reducible apply State.wipe_kept | with_reducible apply Kept.ite <;> intro _ | simp only [Kept.upd] | split | intro _

theorem State.rvEffect_kept (s : State) (k : Nat) (p : Nat) (d : RvDone)  (h : Kept q M C s) : Kept q M C (State.rvEffect s k p d) := by
  unfold State.rvEffect
  try dsimp only
  repeat' first | with_reducible assumption | with_reducible apply State.setRoutine_kept | with_reducible apply State.setReg_kept | with_reducible apply State.retireInstr_kept | with_reducible apply State.store_kept | with_reducible apply Kept.ite <;> intro _ | simp only [Kept.upd] | split | intro _

theorem State.fwEffect_kept (s : State) (k : Nat) (d : RvDone)  (h : Kept q M C s) : Kept q M C (State.fwEffect s k d) := by
  unfold State.fwEffect
  try dsimp only
  repeat' first | with_reducible assumption | with_reducible apply State.setCore_kept | with_reducible apply State.setReg_kept | with_reducible apply State.store_kept | with_reducible apply Kept.ite <;> intro _ | simp only [Kept.upd] | split | intro _

theorem State.fwTrap_kept (s : State) (k : Nat) (cause : RoutineFault)  (h : Kept q M C s) : Kept q M C (State.fwTrap s k cause) := by
  unfold State.fwTrap
  try dsimp only
  repeat' first | with_reducible assumption | with_reducible apply State.trap_kept | with_reducible apply Kept.ite <;> intro _ | simp only [Kept.upd] | split | intro _

theorem State.fwCycle_kept (s : State) (k : Nat)  (h : Kept q M C s) : Kept q M C (State.fwCycle s k) := by
  unfold State.fwCycle
  try dsimp only
  repeat' first | with_reducible assumption | with_reducible apply State.setCore_kept | with_reducible apply State.fwEffect_kept | with_reducible apply State.fwTrap_kept | with_reducible apply Kept.ite <;> intro _ | simp only [Kept.upd] | split | intro _

theorem State.routineCycle_kept (s : State) (k : Nat) (p : Nat)  (h : Kept q M C s) : Kept q M C (State.routineCycle s k p) := by
  unfold State.routineCycle
  try dsimp only
  repeat' first | with_reducible assumption | with_reducible apply State.setRoutine_kept | with_reducible apply State.rvEffect_kept | with_reducible apply Kept.ite <;> intro _ | simp only [Kept.upd] | split | intro _

theorem State.coreCycle_kept (s : State) (k : Nat)  (h : Kept q M C s) : Kept q M C (State.coreCycle s k) := by
  unfold State.coreCycle
  try dsimp only
  repeat' first | with_reducible assumption | with_reducible apply State.fwCycle_kept | with_reducible apply State.routineCycle_kept | with_reducible apply Kept.ite <;> intro _ | simp only [Kept.upd] | split | intro _

theorem execRoutineFault_kept (p : Fin 64) (cause : RoutineFault) (s : State)  (h : Kept q M C s) : KeptOut q M C (execRoutineFault p cause s) := by
  unfold execRoutineFault
  try dsimp only
  repeat' first | with_reducible assumption | with_reducible apply KeptOut.next | with_reducible apply KeptOut.ite <;> intro _ | with_reducible exact KeptOut.fault | with_reducible exact KeptOut.refused | with_reducible apply State.routineFault_kept | with_reducible apply Kept.ite <;> intro _ | simp only [Kept.upd] | split | intro _
theorem execRoutineFault_eq {p : Fin 64} {cause : RoutineFault} {s : State} {t' : State} (he : execRoutineFault p cause s = .next t') (h : Kept q M C s) : Kept q M C t' := execRoutineFault_kept p cause s h t' he

theorem execCkMbcnt_kept (k : Fin 20) (m : CkMode) (rd : Fin 32) (rs1 : Fin 32) (s : State)  (h : Kept q M C s) : KeptOut q M C (execCkMbcnt k m rd rs1 s) := by
  unfold execCkMbcnt
  try dsimp only
  repeat' first | with_reducible assumption | with_reducible apply KeptOut.next | with_reducible apply KeptOut.ite <;> intro _ | with_reducible apply State.result_kept | with_reducible apply Kept.ite <;> intro _ | simp only [Kept.upd] | split | intro _
theorem execCkMbcnt_eq {k : Fin 20} {m : CkMode} {rd : Fin 32} {rs1 : Fin 32} {s : State} {t' : State} (he : execCkMbcnt k m rd rs1 s = .next t') (h : Kept q M C s) : Kept q M C t' := execCkMbcnt_kept k m rd rs1 s h t' he

theorem State.mailRead_kept (s : State) (p : Nat)  (h : Kept q M C s) : Kept q M C (State.mailRead s p) := by
  unfold State.mailRead
  try dsimp only
  repeat' first | with_reducible assumption | with_reducible apply State.failStep_kept | with_reducible apply State.readFailed_kept | with_reducible apply State.wipe_kept | with_reducible apply Kept.ite <;> intro _ | simp only [Kept.upd] | split | intro _

theorem State.popQueue_kept (s : State) (k : Nat) (y0 : QueueName)  (h : Kept q M C s) : ∀ x, State.popQueue s k y0 = some x → Kept q M C x.2 := by
  unfold State.popQueue
  try dsimp only
  repeat' first | with_reducible assumption | with_reducible apply State.setCore_kept | with_reducible apply State.setRoutine_kept | with_reducible apply State.mailRead_kept | with_reducible apply Kept.ite <;> intro _ | simp only [Kept.upd] | split | rintro _ ⟨⟩ | dsimp only | intro _
theorem State.popQueue_eq {s : State} {k : Nat} {y0 : QueueName} {y' : _} {t' : State} (he : State.popQueue s k y0 = some (y', t')) (h : Kept q M C s) : Kept q M C t' := State.popQueue_kept s k y0 h _ he

theorem execCkMbpop_kept (k : Fin 20) (m : CkMode) (rd : Fin 32) (rs1 : Fin 32) (rs2 : Fin 32) (s : State)  (h : Kept q M C s) : KeptOut q M C (execCkMbpop k m rd rs1 rs2 s) := by
  unfold execCkMbpop
  try dsimp only
  repeat' first | with_reducible assumption | with_reducible apply KeptOut.next | with_reducible apply KeptOut.ite <;> intro _ | with_reducible apply State.result_kept | with_reducible apply State.accessFault_kept | with_reducible apply State.store_kept | with_reducible refine State.popQueue_eq ‹_› ?_ | with_reducible apply Kept.ite <;> intro _ | simp only [Kept.upd] | split | intro _
theorem execCkMbpop_eq {k : Fin 20} {m : CkMode} {rd : Fin 32} {rs1 : Fin 32} {rs2 : Fin 32} {s : State} {t' : State} (he : execCkMbpop k m rd rs1 rs2 s = .next t') (h : Kept q M C s) : Kept q M C t' := execCkMbpop_kept k m rd rs1 rs2 s h t' he

theorem execCkChoose_kept (k : Fin 20) (m : CkMode) (rd : Fin 32) (rs1 : Fin 32) (s : State)  (h : Kept q M C s) : KeptOut q M C (execCkChoose k m rd rs1 s) := by
  unfold execCkChoose
  try dsimp only
  repeat' first | with_reducible assumption | with_reducible apply KeptOut.next | with_reducible apply KeptOut.ite <;> intro _ | with_reducible apply State.setPart_kept | with_reducible apply State.failStep_kept | with_reducible apply State.result_kept | with_reducible apply Kept.ite <;> intro _ | simp only [Kept.upd] | split | intro _
theorem execCkChoose_eq {k : Fin 20} {m : CkMode} {rd : Fin 32} {rs1 : Fin 32} {s : State} {t' : State} (he : execCkChoose k m rd rs1 s = .next t') (h : Kept q M C s) : Kept q M C t' := execCkChoose_kept k m rd rs1 s h t' he

theorem execCkTkt_kept (k : Fin 20) (m : CkMode) (rd : Fin 32) (rs1 : Fin 32) (s : State)  (h : Kept q M C s) : KeptOut q M C (execCkTkt k m rd rs1 s) := by
  unfold execCkTkt
  try dsimp only
  repeat' first | with_reducible assumption | with_reducible apply KeptOut.next | with_reducible apply KeptOut.ite <;> intro _ | with_reducible apply State.result_kept | with_reducible apply State.accessFault_kept | with_reducible apply State.store_kept | with_reducible apply Kept.ite <;> intro _ | simp only [Kept.upd] | split | intro _
theorem execCkTkt_eq {k : Fin 20} {m : CkMode} {rd : Fin 32} {rs1 : Fin 32} {s : State} {t' : State} (he : execCkTkt k m rd rs1 s = .next t') (h : Kept q M C s) : Kept q M C t' := execCkTkt_kept k m rd rs1 s h t' he

theorem State.resetCore_kept (s : State) (k : Nat) (code : Nat)  (h : Kept q M C s) : Kept q M C (State.resetCore s k code) := by
  unfold State.resetCore
  try dsimp only
  repeat' first | with_reducible assumption | with_reducible apply State.setCore_kept | with_reducible apply State.setObj_kept | with_reducible apply State.logEvent_kept | with_reducible apply State.failStep_kept | with_reducible apply State.wipe_kept | with_reducible apply State.setRoutine_kept | with_reducible apply Kept.ite <;> intro _ | with_reducible apply foldl_kept (fun _ _ _ => ?_) | with_reducible apply foldl_kept_snd (fun _ _ _ => ?_) | with_reducible apply foldl_kept_fst (fun _ _ _ => ?_) | simp only [Kept.upd] | split | intro _

theorem execCkPost_kept (k : Fin 20) (m : CkMode) (rd : Fin 32) (rs1 : Fin 32) (s : State)  (h : Kept q M C s) : KeptOut q M C (execCkPost k m rd rs1 s) := by
  unfold execCkPost
  try dsimp only
  repeat' first | with_reducible assumption | with_reducible apply KeptOut.next | with_reducible apply KeptOut.ite <;> intro _ | with_reducible apply State.setCore_kept | with_reducible apply State.result_kept | with_reducible apply State.accessFault_kept | with_reducible apply State.resetCore_kept | with_reducible apply Kept.ite <;> intro _ | simp only [Kept.upd] | split | intro _
theorem execCkPost_eq {k : Fin 20} {m : CkMode} {rd : Fin 32} {rs1 : Fin 32} {s : State} {t' : State} (he : execCkPost k m rd rs1 s = .next t') (h : Kept q M C s) : Kept q M C t' := execCkPost_kept k m rd rs1 s h t' he

theorem execCkWait_kept (k : Fin 20) (m : CkMode) (rd : Fin 32) (rs1 : Fin 32) (s : State)  (h : Kept q M C s) : KeptOut q M C (execCkWait k m rd rs1 s) := by
  unfold execCkWait
  try dsimp only
  repeat' first | with_reducible assumption | with_reducible apply KeptOut.next | with_reducible apply KeptOut.ite <;> intro _ | with_reducible apply State.result_kept | with_reducible apply Kept.ite <;> intro _ | simp only [Kept.upd] | split | intro _
theorem execCkWait_eq {k : Fin 20} {m : CkMode} {rd : Fin 32} {rs1 : Fin 32} {s : State} {t' : State} (he : execCkWait k m rd rs1 s = .next t') (h : Kept q M C s) : Kept q M C t' := execCkWait_kept k m rd rs1 s h t' he

theorem execCkDone_kept (k : Fin 20) (m : CkMode) (s : State)  (h : Kept q M C s) : KeptOut q M C (execCkDone k m s) := by
  unfold execCkDone
  try dsimp only
  repeat' first | with_reducible assumption | with_reducible apply KeptOut.next | with_reducible apply KeptOut.ite <;> intro _ | with_reducible apply State.raise_kept | with_reducible apply State.setRoutine_kept | with_reducible apply State.advance_kept | with_reducible apply Kept.ite <;> intro _ | simp only [Kept.upd] | split | intro _
theorem execCkDone_eq {k : Fin 20} {m : CkMode} {s : State} {t' : State} (he : execCkDone k m s = .next t') (h : Kept q M C s) : Kept q M C t' := execCkDone_kept k m s h t' he

theorem execCkwdog_kept (k : Fin 20) (s : State)  (h : Kept q M C s) : KeptOut q M C (execCkwdog k s) := by
  unfold execCkwdog
  try dsimp only
  repeat' first | with_reducible assumption | with_reducible apply KeptOut.next | with_reducible apply KeptOut.ite <;> intro _ | with_reducible apply State.setCore_kept | with_reducible apply State.setReg_kept | with_reducible apply State.advance_kept | with_reducible apply State.draw_kept | with_reducible refine State.draw_eq ‹_› ?_ | with_reducible apply Kept.ite <;> intro _ | simp only [Kept.upd] | split | intro _
theorem execCkwdog_eq {k : Fin 20} {s : State} {t' : State} (he : execCkwdog k s = .next t') (h : Kept q M C s) : Kept q M C t' := execCkwdog_kept k s h t' he

theorem execWatchdogWarning_kept (k : Fin 20) (s : State)  (h : Kept q M C s) : KeptOut q M C (execWatchdogWarning k s) := by
  unfold execWatchdogWarning
  try dsimp only
  repeat' first | with_reducible assumption | with_reducible apply KeptOut.next | with_reducible apply KeptOut.ite <;> intro _ | with_reducible apply State.setCore_kept | with_reducible apply State.raise_kept | with_reducible apply Kept.ite <;> intro _ | simp only [Kept.upd] | split | intro _
theorem execWatchdogWarning_eq {k : Fin 20} {s : State} {t' : State} (he : execWatchdogWarning k s = .next t') (h : Kept q M C s) : Kept q M C t' := execWatchdogWarning_kept k s h t' he

theorem execWatchdogExpiry_kept (k : Fin 20) (s : State)  (h : Kept q M C s) : KeptOut q M C (execWatchdogExpiry k s) := by
  unfold execWatchdogExpiry
  try dsimp only
  repeat' first | with_reducible assumption | with_reducible apply KeptOut.next | with_reducible apply KeptOut.ite <;> intro _ | with_reducible apply State.resetCore_kept | with_reducible apply Kept.ite <;> intro _ | simp only [Kept.upd] | split | intro _
theorem execWatchdogExpiry_eq {k : Fin 20} {s : State} {t' : State} (he : execWatchdogExpiry k s = .next t') (h : Kept q M C s) : Kept q M C t' := execWatchdogExpiry_kept k s h t' he

theorem execCoreFault_kept (k : Fin 20) (s : State)  (h : Kept q M C s) : KeptOut q M C (execCoreFault k s) := by
  unfold execCoreFault
  try dsimp only
  repeat' first | with_reducible assumption | with_reducible apply KeptOut.next | with_reducible apply KeptOut.ite <;> intro _ | with_reducible apply State.resetCore_kept | with_reducible apply Kept.ite <;> intro _ | simp only [Kept.upd] | split | intro _
theorem execCoreFault_eq {k : Fin 20} {s : State} {t' : State} (he : execCoreFault k s = .next t') (h : Kept q M C s) : Kept q M C t' := execCoreFault_kept k s h t' he

theorem execTimerInterrupt_kept (k : Fin 20) (s : State)  (h : Kept q M C s) : KeptOut q M C (execTimerInterrupt k s) := by
  unfold execTimerInterrupt
  try dsimp only
  repeat' first | with_reducible assumption | with_reducible apply KeptOut.next | with_reducible apply KeptOut.ite <;> intro _ | with_reducible apply State.raise_kept | with_reducible apply Kept.ite <;> intro _ | simp only [Kept.upd] | split | intro _
theorem execTimerInterrupt_eq {k : Fin 20} {s : State} {t' : State} (he : execTimerInterrupt k s = .next t') (h : Kept q M C s) : Kept q M C t' := execTimerInterrupt_kept k s h t' he

end
end Sys2Proof.Machine
end

