-- ==== Sys2Proof/Laws/FabricKeeps.lean ====
section
/-! SUPPORT. What the operations of Machine/Fabric.lean keep: the queue, the form of the state and, where they store nothing, the memory. -/
set_option linter.all false
set_option Elab.async false
namespace Sys2Proof.Machine
section
variable {q : List Instr} {M : Memory → Prop} {C : Prop}

theorem State.setPort_kept (s : State) (n : Nat) (x : Port)  (h : Kept q M C s) : Kept q M C (State.setPort s n x) := by
  unfold State.setPort
  try dsimp only
  repeat' first | with_reducible assumption | with_reducible apply State.bumpWhere_kept | with_reducible apply Kept.ite <;> intro _ | simp only [Kept.upd] | split | intro _

theorem State.setJob_kept (s : State) (j : Nat) (x : Job)  (h : Kept q M C s) : Kept q M C (State.setJob s j x) := by
  unfold State.setJob
  try dsimp only
  repeat' first | with_reducible assumption | with_reducible apply State.bumpWhere_kept | with_reducible apply Kept.ite <;> intro _ | simp only [Kept.upd] | split | intro _

theorem State.setBuffer_kept (s : State) (k : Nat) (l : List Queued)  (h : Kept q M C s) : Kept q M C (State.setBuffer s k l) := by
  unfold State.setBuffer
  try dsimp only
  repeat' first | with_reducible assumption | with_reducible apply Kept.ite <;> intro _ | simp only [Kept.upd] | split | intro _

theorem State.portEvent_kept (s : State) (n : Nat) (sub : Nat)  (h : Kept q M C s) : Kept q M C (State.portEvent s n sub) := by
  unfold State.portEvent
  try dsimp only
  repeat' first | with_reducible assumption | with_reducible apply State.countLog_kept | with_reducible apply Kept.ite <;> intro _ | simp only [Kept.upd] | split | intro _

theorem State.roadEvent_kept (s : State) (sub : Nat) (job : Nat) (endpoint : Nat)  (h : Kept q M C s) : Kept q M C (State.roadEvent s sub job endpoint) := by
  unfold State.roadEvent
  try dsimp only
  repeat' first | with_reducible assumption | with_reducible apply State.countLog_kept | with_reducible apply Kept.ite <;> intro _ | simp only [Kept.upd] | split | intro _

theorem State.sendPackets_kept (s : State) (l : List Packet) (op : Option (Nat × Nat)) (tenant : Option Nat)  (h : Kept q M C s) : Kept q M C (State.sendPackets s l op tenant) := by
  unfold State.sendPackets
  try dsimp only
  repeat' first | with_reducible assumption | with_reducible apply State.setBuffer_kept | with_reducible apply Kept.ite <;> intro _ | with_reducible apply foldl_kept (fun _ _ _ => ?_) | simp only [Kept.upd] | split | intro _

theorem State.sendService_kept (s : State) (h1 : Heading) (payload : List Stored) (tenant : Option Nat)  (h : Kept q M C s) : Kept q M C (State.sendService s h1 payload tenant) := by
  unfold State.sendService
  try dsimp only
  repeat' first | with_reducible assumption | with_reducible apply State.sendPackets_kept | with_reducible apply Kept.ite <;> intro _ | simp only [Kept.upd] | split | intro _

theorem State.sendPartner_kept (s : State) (n : Nat) (h1 : Heading) (payload : List Stored)  (h : Kept q M C s) : Kept q M C (State.sendPartner s n h1 payload) := by
  unfold State.sendPartner
  try dsimp only
  repeat' first | with_reducible assumption | with_reducible apply State.setBuffer_kept | with_reducible apply Kept.ite <;> intro _ | simp only [Kept.upd] | split | intro _

theorem State.oweCredit_kept (s : State) (i : Nat) (cls : Nat) (vc : Nat)  (h : Kept q M C s) : Kept q M C (State.oweCredit s i cls vc) := by
  unfold State.oweCredit
  try dsimp only
  repeat' first | with_reducible assumption | with_reducible apply State.setPort_kept | with_reducible apply Kept.ite <;> intro _ | simp only [Kept.upd] | split | intro _

theorem State.packetGone_kept (s : State) (k : Nat) (q1 : Queued)  (h : Kept q M C s) : Kept q M C (State.packetGone s k q1) := by
  unfold State.packetGone
  try dsimp only
  repeat' first | with_reducible assumption | with_reducible apply State.wordDone_kept | with_reducible apply State.oweCredit_kept | with_reducible apply Kept.ite <;> intro _ | simp only [Kept.upd] | split | intro _

theorem execPacketRoute_kept (i : Fin 7) (service : Bool) (vc : Fin 2) (s : State)  (h : Kept q M C s) : KeptOut q M C (execPacketRoute i service vc s) := by
  unfold execPacketRoute
  try dsimp only
  repeat' first | with_reducible assumption | with_reducible apply KeptOut.next | with_reducible apply KeptOut.ite <;> intro _ | with_reducible apply State.count_kept | with_reducible apply State.setBuffer_kept | with_reducible apply State.portEvent_kept | with_reducible apply State.roadEvent_kept | with_reducible apply State.packetGone_kept | with_reducible apply Kept.ite <;> intro _ | simp only [Kept.upd] | split | intro _
theorem execPacketRoute_eq {i : Fin 7} {service : Bool} {vc : Fin 2} {s : State} {t' : State} (he : execPacketRoute i service vc s = .next t') (h : Kept q M C s) : Kept q M C t' := execPacketRoute_kept i service vc s h t' he

theorem execAgedDiscard_kept (i : Fin 7) (service : Bool) (vc : Fin 2) (s : State)  (h : Kept q M C s) : KeptOut q M C (execAgedDiscard i service vc s) := by
  unfold execAgedDiscard
  try dsimp only
  repeat' first | with_reducible assumption | with_reducible apply KeptOut.next | with_reducible apply KeptOut.ite <;> intro _ | with_reducible apply State.count_kept | with_reducible apply State.setBuffer_kept | with_reducible apply State.packetGone_kept | with_reducible apply Kept.ite <;> intro _ | simp only [Kept.upd] | split | intro _
theorem execAgedDiscard_eq {i : Fin 7} {service : Bool} {vc : Fin 2} {s : State} {t' : State} (he : execAgedDiscard i service vc s = .next t') (h : Kept q M C s) : Kept q M C t' := execAgedDiscard_kept i service vc s h t' he

end
end Sys2Proof.Machine
end

