-- ==== Sys2Proof/Laws/AgreeKeeps.lean ====
section
/-! SUPPORT. What the operations of Machine/Agree.lean keep: the queue, the form of the state and, where they store nothing, the memory. -/
set_option linter.all false
set_option Elab.async false
namespace Sys2Proof.Machine
section
variable {q : List Instr} {M : Memory → Prop} {C : Prop}

theorem State.flood_kept (s : State) (tag : Nat) (type : Nat) (words : List Word) (except : Nat)  (h : Kept q M C s) : Kept q M C (State.flood s tag type words except) := by
  unfold State.flood
  try dsimp only
  repeat' first | with_reducible assumption | with_reducible apply State.sendPartner_kept | with_reducible apply Kept.ite <;> intro _ | with_reducible apply foldl_kept (fun _ _ _ => ?_) | simp only [Kept.upd] | split | intro _

theorem State.setEpisode_kept (s : State) (p : Nat) (e : Episode)  (h : Kept q M C s) : Kept q M C (State.setEpisode s p e) := by
  unfold State.setEpisode
  try dsimp only
  repeat' first | with_reducible assumption | with_reducible apply State.setPart_kept | with_reducible apply Kept.ite <;> intro _ | simp only [Kept.upd] | split | intro _

theorem State.issueDecision_kept (s : State) (p : Nat) (j : Nat) (round : Nat)  (h : Kept q M C s) : Kept q M C (State.issueDecision s p j round) := by
  unfold State.issueDecision
  try dsimp only
  repeat' first | with_reducible assumption | with_reducible apply State.flood_kept | with_reducible apply State.setEpisode_kept | with_reducible apply Kept.ite <;> intro _ | simp only [Kept.upd] | split | intro _

theorem State.learn_kept (s : State) (p : Nat) (j : Nat) (w : Word) (fenceIt : Bool)  (h : Kept q M C s) : Kept q M C (State.learn s p j w fenceIt) := by
  unfold State.learn
  try dsimp only
  repeat' first | with_reducible assumption | with_reducible apply State.failStep_kept | with_reducible apply State.flood_kept | with_reducible apply State.setEpisode_kept | with_reducible apply State.issueDecision_kept | with_reducible apply Kept.ite <;> intro _ | simp only [Kept.upd] | split | intro _

theorem State.originate_kept (s : State) (p : Nat) (cls : Nat) (cause : Nat) (port : Nat) (restored : Bool)  (h : Kept q M C s) : Kept q M C (State.originate s p cls cause port restored) := by
  unfold State.originate
  try dsimp only
  repeat' first | with_reducible assumption | with_reducible apply State.count_kept | with_reducible apply State.flood_kept | with_reducible apply State.setEpisode_kept | with_reducible apply State.learn_kept | with_reducible apply Kept.ite <;> intro _ | simp only [Kept.upd] | split | intro _

theorem State.takeArrived_kept (s : State) (f : Packet → Bool)  (h : Kept q M C s) : ∀ x, State.takeArrived s f = some x → Kept q M C x.2.2 := by
  unfold State.takeArrived
  try dsimp only
  repeat' first | with_reducible assumption | with_reducible apply Kept.ite <;> intro _ | simp only [Kept.upd] | split | rintro _ ⟨⟩ | dsimp only | intro _
theorem State.takeArrived_eq {s : State} {f : Packet → Bool} {y' z' : _} {t' : State} (he : State.takeArrived s f = some (y', z', t')) (h : Kept q M C s) : Kept q M C t' := State.takeArrived_kept s f h _ he

theorem State.takeType_kept (s : State) (t : Nat)  (h : Kept q M C s) : ∀ x, State.takeType s t = some x → Kept q M C x.2.2 := by
  unfold State.takeType
  try dsimp only
  repeat' first | with_reducible assumption | with_reducible refine State.takeArrived_eq ‹_› ?_ | with_reducible apply Kept.ite <;> intro _ | simp only [Kept.upd] | split | rintro _ ⟨⟩ | dsimp only | intro _
theorem State.takeType_eq {s : State} {t : Nat} {y' z' : _} {t' : State} (he : State.takeType s t = some (y', z', t')) (h : Kept q M C s) : Kept q M C t' := State.takeType_kept s t h _ he

theorem execNoticeReceive_kept (s : State)  (h : Kept q M C s) : KeptOut q M C (execNoticeReceive s) := by
  unfold execNoticeReceive
  try dsimp only
  repeat' first | with_reducible assumption | with_reducible apply KeptOut.next | with_reducible apply KeptOut.ite <;> intro _ | with_reducible apply State.count_kept | with_reducible apply State.flood_kept | with_reducible apply State.learn_kept | with_reducible refine State.takeType_eq ‹_› ?_ | with_reducible apply Kept.ite <;> intro _ | simp only [Kept.upd] | split | intro _
theorem execNoticeReceive_eq {s : State} {t' : State} (he : execNoticeReceive s = .next t') (h : Kept q M C s) : Kept q M C t' := execNoticeReceive_kept s h t' he

theorem execCoordinatorDecide_kept (p : Fin 64) (s : State)  (h : Kept q M C s) : KeptOut q M C (execCoordinatorDecide p s) := by
  unfold execCoordinatorDecide
  try dsimp only
  repeat' first | with_reducible assumption | with_reducible apply KeptOut.next | with_reducible apply KeptOut.ite <;> intro _ | with_reducible apply State.issueDecision_kept | with_reducible apply Kept.ite <;> intro _ | simp only [Kept.upd] | split | intro _
theorem execCoordinatorDecide_eq {p : Fin 64} {s : State} {t' : State} (he : execCoordinatorDecide p s = .next t') (h : Kept q M C s) : Kept q M C t' := execCoordinatorDecide_kept p s h t' he

theorem execDecideReceive_kept (s : State)  (h : Kept q M C s) : KeptOut q M C (execDecideReceive s) := by
  unfold execDecideReceive
  try dsimp only
  repeat' first | with_reducible assumption | with_reducible apply KeptOut.next | with_reducible apply KeptOut.ite <;> intro _ | with_reducible apply State.count_kept | with_reducible apply State.flood_kept | with_reducible apply State.setEpisode_kept | with_reducible refine State.takeType_eq ‹_› ?_ | with_reducible apply Kept.ite <;> intro _ | with_reducible apply foldl_kept (fun _ _ _ => ?_) | with_reducible apply foldl_kept_snd (fun _ _ _ => ?_) | with_reducible apply foldl_kept_fst (fun _ _ _ => ?_) | simp only [Kept.upd] | split | intro _
theorem execDecideReceive_eq {s : State} {t' : State} (he : execDecideReceive s = .next t') (h : Kept q M C s) : Kept q M C t' := execDecideReceive_kept s h t' he

theorem State.discardTicket_kept (s : State) (p : Nat) (t : Ticket)  (h : Kept q M C s) : Kept q M C (State.discardTicket s p t) := by
  unfold State.discardTicket
  try dsimp only
  repeat' first | with_reducible assumption | with_reducible apply State.answerTicket_kept | with_reducible apply Kept.ite <;> intro _ | simp only [Kept.upd] | split | intro _

theorem State.restartPart_kept (s : State) (p : Nat)  (h : Kept q M C s) : Kept q M C (State.restartPart s p) := by
  unfold State.restartPart
  try dsimp only
  repeat' first | with_reducible assumption | with_reducible apply State.setPart_kept | with_reducible apply State.setRequest_kept | with_reducible apply State.measure_kept | with_reducible apply State.dropCalendars_kept | with_reducible apply State.waitedCommands_kept | with_reducible apply State.discardTicket_kept | with_reducible apply Kept.ite <;> intro _ | with_reducible apply foldl_kept (fun _ _ _ => ?_) | simp only [Kept.upd] | split | intro _

theorem State.replayPart_kept (s : State) (p : Nat)  (h : Kept q M C s) : Kept q M C (State.replayPart s p) := by
  unfold State.replayPart
  try dsimp only
  repeat' first | with_reducible assumption | with_reducible apply State.setPart_kept | with_reducible apply Kept.ite <;> intro _ | simp only [Kept.upd] | split | intro _

theorem State.carryOut_kept (s : State) (p : Nat)  (h : Kept q M C s) : Kept q M C (State.carryOut s p) := by
  unfold State.carryOut
  try dsimp only
  repeat' first | with_reducible assumption | with_reducible apply State.restartPart_kept | with_reducible apply State.replayPart_kept | with_reducible apply Kept.ite <;> intro _ | simp only [Kept.upd] | split | intro _

theorem State.serviceRead_kept (s : State) (p : Nat) (a : Nat) (n : Nat)  (h : Kept q M C s) : Kept q M C (State.serviceRead s p a n) := by
  unfold State.serviceRead
  try dsimp only
  repeat' first | with_reducible assumption | with_reducible apply State.serviceFailed_kept | with_reducible apply State.mended0_kept | with_reducible apply State.mendedTier_kept | with_reducible apply State.serviceMove_kept | with_reducible apply Kept.ite <;> intro _ | with_reducible apply foldl_kept (fun _ _ _ => ?_) | with_reducible apply foldl_kept_snd (fun _ _ _ => ?_) | with_reducible apply foldl_kept_fst (fun _ _ _ => ?_) | simp only [Kept.upd] | split | intro _

theorem State.startRestores_kept (s : State) (d : Word × Word)  (h : Kept q M C s) : Kept q M C (State.startRestores s d) := by
  unfold State.startRestores
  try dsimp only
  repeat' first | with_reducible assumption | with_reducible apply State.sendPackets_kept | with_reducible apply State.sendService_kept | with_reducible apply State.serviceRead_kept | with_reducible apply Kept.ite <;> intro _ | with_reducible apply foldl_kept (fun _ _ _ => ?_) | simp only [Kept.upd] | split | intro _

theorem State.abandonBarriers_kept (s : State) (p : Nat)  (h : Kept q M C s) : Kept q M C (State.abandonBarriers s p) := by
  unfold State.abandonBarriers
  try dsimp only
  repeat' first | with_reducible assumption | with_reducible apply State.setBlock_kept | with_reducible apply State.settle_kept | with_reducible apply State.setJob_kept | with_reducible apply Kept.ite <;> intro _ | with_reducible apply foldl_kept (fun _ _ _ => ?_) | with_reducible apply foldl_kept_snd (fun _ _ _ => ?_) | with_reducible apply foldl_kept_fst (fun _ _ _ => ?_) | simp only [Kept.upd] | split | intro _

theorem State.commit_kept (s : State) (p : Nat) (d : Word × Word)  (h : Kept q M C s) : Kept q M C (State.commit s p d) := by
  unfold State.commit
  try dsimp only
  repeat' first | with_reducible assumption | with_reducible apply State.setPart_kept | with_reducible apply State.count_kept | with_reducible apply State.setObj_kept | with_reducible apply State.countLog_kept | with_reducible apply State.queueRecord_kept | with_reducible apply State.carryOut_kept | with_reducible apply State.startRestores_kept | with_reducible apply State.abandonBarriers_kept | with_reducible apply Kept.ite <;> intro _ | simp only [Kept.upd] | split | intro _

theorem execFaultCommit_kept (p : Fin 64) (s : State)  (h : Kept q M C s) : KeptOut q M C (execFaultCommit p s) := by
  unfold execFaultCommit
  try dsimp only
  repeat' first | with_reducible assumption | with_reducible apply KeptOut.next | with_reducible apply KeptOut.ite <;> intro _ | with_reducible apply State.commit_kept | with_reducible apply Kept.ite <;> intro _ | simp only [Kept.upd] | split | intro _
theorem execFaultCommit_eq {p : Fin 64} {s : State} {t' : State} (he : execFaultCommit p s = .next t') (h : Kept q M C s) : Kept q M C t' := execFaultCommit_kept p s h t' he

theorem execSpareExchange_kept (p : Fin 64) (s : State)  (h : Kept q M C s) : KeptOut q M C (execSpareExchange p s) := by
  unfold execSpareExchange
  try dsimp only
  repeat' first | with_reducible assumption | with_reducible apply KeptOut.next | with_reducible apply KeptOut.ite <;> intro _ | with_reducible apply State.setPart_kept | with_reducible apply State.count_kept | with_reducible apply State.setObj_kept | with_reducible apply State.measureIdle_kept | with_reducible apply State.dropCalendars_kept | with_reducible apply Kept.ite <;> intro _ | with_reducible apply foldl_kept (fun _ _ _ => ?_) | with_reducible apply foldl_kept_snd (fun _ _ _ => ?_) | with_reducible apply foldl_kept_fst (fun _ _ _ => ?_) | simp only [Kept.upd] | split | intro _
theorem execSpareExchange_eq {p : Fin 64} {s : State} {t' : State} (he : execSpareExchange p s = .next t') (h : Kept q M C s) : Kept q M C t' := execSpareExchange_kept p s h t' he

theorem State.putSealed_kept (s : State) (key : Nat) (a : Nat) (x : Stored)  (h : Kept q Any C s) : Kept q Any C (State.putSealed s key a x) := by
  unfold State.putSealed
  try dsimp only
  repeat' first | with_reducible assumption | with_reducible apply State.writeWord_kept | with_reducible apply Kept.ite <;> intro _ | simp only [Kept.upd] | split | intro _

theorem State.putWords_kept (s : State) (key : Nat) (a : Nat) (l : List Stored)  (h : Kept q Any C s) : Kept q Any C (State.putWords s key a l) := by
  unfold State.putWords
  try dsimp only
  repeat' first | with_reducible assumption | with_reducible apply State.writeWord_kept | with_reducible apply State.putSealed_kept | with_reducible apply Kept.ite <;> intro _ | with_reducible apply foldl_kept (fun _ _ _ => ?_) | simp only [Kept.upd] | split | intro _

theorem execCheckpointSend_kept (p : Fin 64) (s : State)  (h : Kept q M C s) : KeptOut q M C (execCheckpointSend p s) := by
  unfold execCheckpointSend
  try dsimp only
  repeat' first | with_reducible assumption | with_reducible apply KeptOut.next | with_reducible apply KeptOut.ite <;> intro _ | with_reducible apply State.setPart_kept | with_reducible apply State.sendPackets_kept | with_reducible apply State.originate_kept | with_reducible apply State.serviceRead_kept | with_reducible apply Kept.ite <;> intro _ | with_reducible apply foldl_kept (fun _ _ _ => ?_) | with_reducible apply foldl_kept_snd (fun _ _ _ => ?_) | with_reducible apply foldl_kept_fst (fun _ _ _ => ?_) | simp only [Kept.upd] | split | intro _
theorem execCheckpointSend_eq {p : Fin 64} {s : State} {t' : State} (he : execCheckpointSend p s = .next t') (h : Kept q M C s) : Kept q M C t' := execCheckpointSend_kept p s h t' he

theorem execCkptData_kept (s0 : State)  (h : Kept q Any C s0) : KeptOut q Any C (execCkptData s0) := by
  unfold execCkptData
  try dsimp only
  repeat' first | with_reducible assumption | with_reducible apply KeptOut.next | with_reducible apply KeptOut.ite <;> intro _ | with_reducible apply State.setPart_kept | with_reducible apply State.serviceMove_kept | with_reducible apply State.sendService_kept | with_reducible apply State.putWords_kept | with_reducible refine State.takeType_eq ‹_› ?_ | with_reducible apply Kept.ite <;> intro _ | with_reducible apply foldl_kept (fun _ _ _ => ?_) | simp only [Kept.upd] | split | intro _
theorem execCkptData_eq {s0 : State} {t' : State} (he : execCkptData s0 = .next t') (h : Kept q Any C s0) : Kept q Any C t' := execCkptData_kept s0 h t' he

theorem execCkptSeal_kept (s : State)  (h : Kept q M C s) : KeptOut q M C (execCkptSeal s) := by
  unfold execCkptSeal
  try dsimp only
  repeat' first | with_reducible assumption | with_reducible apply KeptOut.next | with_reducible apply KeptOut.ite <;> intro _ | with_reducible exact KeptOut.fault | with_reducible exact KeptOut.refused | with_reducible apply State.setPart_kept | with_reducible apply State.count_kept | with_reducible apply State.originate_kept | with_reducible refine State.takeType_eq ‹_› ?_ | with_reducible apply Kept.ite <;> intro _ | simp only [Kept.upd] | split | intro _
theorem execCkptSeal_eq {s : State} {t' : State} (he : execCkptSeal s = .next t') (h : Kept q M C s) : Kept q M C t' := execCkptSeal_kept s h t' he

theorem execRestoreData_kept (s0 : State)  (h : Kept q Any C s0) : KeptOut q Any C (execRestoreData s0) := by
  unfold execRestoreData
  try dsimp only
  repeat' first | with_reducible assumption | with_reducible apply KeptOut.next | with_reducible apply KeptOut.ite <;> intro _ | with_reducible apply State.serviceMove_kept | with_reducible apply State.putWords_kept | with_reducible refine State.takeType_eq ‹_› ?_ | with_reducible apply Kept.ite <;> intro _ | simp only [Kept.upd] | split | intro _
theorem execRestoreData_eq {s0 : State} {t' : State} (he : execRestoreData s0 = .next t') (h : Kept q Any C s0) : Kept q Any C t' := execRestoreData_kept s0 h t' he

theorem execRestoreDone_kept (s : State)  (h : Kept q M C s) : KeptOut q M C (execRestoreDone s) := by
  unfold execRestoreDone
  try dsimp only
  repeat' first | with_reducible assumption | with_reducible apply KeptOut.next | with_reducible apply KeptOut.ite <;> intro _ | with_reducible apply State.setPart_kept | with_reducible refine State.takeType_eq ‹_› ?_ | with_reducible apply Kept.ite <;> intro _ | simp only [Kept.upd] | split | intro _
theorem execRestoreDone_eq {s : State} {t' : State} (he : execRestoreDone s = .next t') (h : Kept q M C s) : Kept q M C t' := execRestoreDone_kept s h t' he

end
end Sys2Proof.Machine
end

