-- ==== Sys2Proof/Laws/LinkKeeps.lean ====
section
/-! SUPPORT. What the operations of Machine/Link.lean keep: the queue, the form of the state and, where they store nothing, the memory. -/
set_option linter.all false
set_option Elab.async false
namespace Sys2Proof.Machine
section
variable {q : List Instr} {M : Memory → Prop} {C : Prop}

theorem State.endRequest_kept (s : State) (rtag : Nat)  (h : Kept q M C s) : Kept q M C (State.endRequest s rtag) := by
  unfold State.endRequest
  try dsimp only
  repeat' first | with_reducible assumption | with_reducible apply State.count_kept | with_reducible apply Kept.ite <;> intro _ | simp only [Kept.upd] | split | intro _

theorem State.closeSession_kept (s : State) (i : Nat) (tell : Bool)  (h : Kept q M C s) : Kept q M C (State.closeSession s i tell) := by
  unfold State.closeSession
  try dsimp only
  repeat' first | with_reducible assumption | with_reducible apply State.logEvent_kept | with_reducible apply Kept.ite <;> intro _ | simp only [Kept.upd] | split | intro _

theorem State.closeSessions_kept (s : State) (f : Session → Bool) (tell : Bool)  (h : Kept q M C s) : Kept q M C (State.closeSessions s f tell) := by
  unfold State.closeSessions
  try dsimp only
  repeat' first | with_reducible assumption | with_reducible apply State.closeSession_kept | with_reducible apply Kept.ite <;> intro _ | with_reducible apply foldl_kept (fun _ _ _ => ?_) | simp only [Kept.upd] | split | intro _

theorem State.closeSources_kept (s : State) (f : Source → Bool)  (h : Kept q M C s) : Kept q M C (State.closeSources s f) := by
  unfold State.closeSources
  try dsimp only
  repeat' first | with_reducible assumption | with_reducible apply State.closeSessions_kept | with_reducible apply Kept.ite <;> intro _ | simp only [Kept.upd] | split | intro _

theorem State.fencePort_kept (s : State) (n : Nat)  (h : Kept q M C s) : Kept q M C (State.fencePort s n) := by
  unfold State.fencePort
  try dsimp only
  repeat' first | with_reducible assumption | with_reducible apply State.fence_kept | with_reducible apply Kept.ite <;> intro _ | with_reducible apply foldl_kept (fun _ _ _ => ?_) | simp only [Kept.upd] | split | intro _

theorem State.discardOut_kept (s : State) (n : Nat)  (h : Kept q M C s) : Kept q M C (State.discardOut s n).2 := by
  unfold State.discardOut
  try dsimp only
  repeat' first | with_reducible assumption | with_reducible apply State.setBuffer_kept | with_reducible apply State.packetGone_kept | with_reducible apply Kept.ite <;> intro _ | with_reducible apply foldl_kept (fun _ _ _ => ?_) | with_reducible apply foldl_kept_snd (fun _ _ _ => ?_) | with_reducible apply foldl_kept_fst (fun _ _ _ => ?_) | simp only [Kept.upd] | split | intro _
theorem State.discardOut_eq {s : State} {n : Nat} {y' : _} {t' : State} (he : State.discardOut s n = (y', t')) (h : Kept q M C s) : Kept q M C t' := by
  have k := State.discardOut_kept s n h
  rwa [he] at k

theorem State.leaveUp_kept (s : State) (n : Nat) (old : Port)  (h : Kept q M C s) : Kept q M C (State.leaveUp s n old) := by
  unfold State.leaveUp
  try dsimp only
  repeat' first | with_reducible assumption | with_reducible apply State.count_kept | with_reducible apply State.portEvent_kept | with_reducible apply State.endRequest_kept | with_reducible apply State.closeSources_kept | with_reducible apply State.fencePort_kept | with_reducible apply State.discardOut_kept | with_reducible refine State.discardOut_eq ‹_› ?_ | with_reducible apply Kept.ite <;> intro _ | with_reducible apply foldl_kept (fun _ _ _ => ?_) | simp only [Kept.upd] | split | intro _

theorem State.leavePort_kept (s : State) (n : Nat) (dest_ : Nat) (cause : Nat)  (h : Kept q M C s) : Kept q M C (State.leavePort s n dest_ cause) := by
  unfold State.leavePort
  try dsimp only
  repeat' first | with_reducible assumption | with_reducible apply State.setPort_kept | with_reducible apply State.leaveUp_kept | with_reducible apply Kept.ite <;> intro _ | simp only [Kept.upd] | split | intro _

theorem State.beginTraining_kept (s : State) (n : Nat)  (h : Kept q M C s) : Kept q M C (State.beginTraining s n) := by
  unfold State.beginTraining
  try dsimp only
  repeat' first | with_reducible assumption | with_reducible apply State.setPort_kept | with_reducible apply Kept.ite <;> intro _ | simp only [Kept.upd] | split | intro _

theorem State.retrain_kept (s : State) (n : Nat)  (h : Kept q M C s) : Kept q M C (State.retrain s n) := by
  unfold State.retrain
  try dsimp only
  repeat' first | with_reducible assumption | with_reducible apply State.leavePort_kept | with_reducible apply Kept.ite <;> intro _ | simp only [Kept.upd] | split | intro _

theorem State.linkEnable_kept (s : State) (n : Nat) (on : Bool)  (h : Kept q M C s) : Kept q M C (State.linkEnable s n on) := by
  unfold State.linkEnable
  try dsimp only
  repeat' first | with_reducible assumption | with_reducible apply State.leavePort_kept | with_reducible apply State.beginTraining_kept | with_reducible apply Kept.ite <;> intro _ | simp only [Kept.upd] | split | intro _

theorem State.linkUp_kept (s : State) (n : Nat)  (h : Kept q M C s) : Kept q M C (State.linkUp s n) := by
  unfold State.linkUp
  try dsimp only
  repeat' first | with_reducible assumption | with_reducible apply State.logEvent_kept | with_reducible apply State.setPort_kept | with_reducible apply State.originate_kept | with_reducible apply Kept.ite <;> intro _ | with_reducible apply foldl_kept (fun _ _ _ => ?_) | simp only [Kept.upd] | split | intro _

theorem State.portEvents_kept (k sub : Nat) : ∀ (n : Nat) (s : State) (_ : Kept q M C s), Kept q M C (s.portEvents k sub n)
  | 0, _, h => h
  | n + 1, s, h => by
    unfold State.portEvents
    (try dsimp only) <;> repeat' first | with_reducible assumption | with_reducible apply State.portEvent_kept | with_reducible apply State.portEvents_kept | with_reducible apply Kept.ite <;> intro _ | simp only [Kept.upd] | split | intro _

theorem State.takeBytes_kept (s : State) (n : Nat) (k : Nat) (l : List Byte)  (h : Kept q M C s) : Kept q M C (State.takeBytes s n k l) := by
  unfold State.takeBytes
  try dsimp only
  repeat' first | with_reducible assumption | with_reducible apply State.setPort_kept | with_reducible apply State.portEvents_kept | with_reducible apply Kept.ite <;> intro _ | simp only [Kept.upd] | split | intro _

theorem execCodewordReceive_kept (n : Fin 6) (symbols : List (BitVec 9)) (s : State)  (h : Kept q M C s) : KeptOut q M C (execCodewordReceive n symbols s) := by
  unfold execCodewordReceive
  try dsimp only
  repeat' first | with_reducible assumption | with_reducible apply KeptOut.next | with_reducible apply KeptOut.ite <;> intro _ | with_reducible apply State.count_kept | with_reducible apply State.setPort_kept | with_reducible apply State.portEvent_kept | with_reducible apply State.leavePort_kept | with_reducible apply State.takeBytes_kept | with_reducible apply Kept.ite <;> intro _ | simp only [Kept.upd] | split | intro _
theorem execCodewordReceive_eq {n : Fin 6} {symbols : List (BitVec 9)} {s : State} {t' : State} (he : execCodewordReceive n symbols s = .next t') (h : Kept q M C s) : Kept q M C t' := execCodewordReceive_kept n symbols s h t' he

theorem State.takeHeader_kept (s : State) (n : Nat) (p : Packet)  (h : Kept q M C s) : Kept q M C (State.takeHeader s n p) := by
  unfold State.takeHeader
  try dsimp only
  repeat' first | with_reducible assumption | with_reducible apply State.setPort_kept | with_reducible apply State.portEvent_kept | with_reducible apply Kept.ite <;> intro _ | simp only [Kept.upd] | split | intro _

theorem State.deliverUp_kept (s : State) (n : Nat) (p : Packet)  (h : Kept q M C s) : Kept q M C (State.deliverUp s n p) := by
  unfold State.deliverUp
  try dsimp only
  repeat' first | with_reducible assumption | with_reducible apply State.count_kept | with_reducible apply State.setBuffer_kept | with_reducible apply State.portEvent_kept | with_reducible apply State.oweCredit_kept | with_reducible apply Kept.ite <;> intro _ | simp only [Kept.upd] | split | intro _

theorem State.releaseHeld_kept (k : Nat) : ∀ (n : Nat) (s : State) (_ : Kept q M C s), Kept q M C (s.releaseHeld k n)
  | 0, _, h => h
  | n + 1, s, h => by
    unfold State.releaseHeld
    (try dsimp only) <;> repeat' first | with_reducible assumption | with_reducible apply State.setPort_kept | with_reducible apply State.deliverUp_kept | with_reducible apply State.releaseHeld_kept | with_reducible apply Kept.ite <;> intro _ | simp only [Kept.upd] | split | intro _

theorem State.sequence_kept (s : State) (n : Nat) (p : Packet)  (h : Kept q M C s) : Kept q M C (State.sequence s n p) := by
  unfold State.sequence
  try dsimp only
  repeat' first | with_reducible assumption | with_reducible apply State.setPort_kept | with_reducible apply State.portEvent_kept | with_reducible apply State.deliverUp_kept | with_reducible apply State.releaseHeld_kept | with_reducible apply Kept.ite <;> intro _ | simp only [Kept.upd] | split | intro _

theorem State.takeRx_kept (s : State) (n : Nat) (want : Packet → Bool)  (h : Kept q M C s) : ∀ x, State.takeRx s n want = some x → Kept q M C x.2 := by
  unfold State.takeRx
  try dsimp only
  repeat' first | with_reducible assumption | with_reducible apply State.setPort_kept | with_reducible apply Kept.ite <;> intro _ | simp only [Kept.upd] | split | rintro _ ⟨⟩ | dsimp only | intro _
theorem State.takeRx_eq {s : State} {n : Nat} {want : Packet → Bool} {y' : _} {t' : State} (he : State.takeRx s n want = some (y', t')) (h : Kept q M C s) : Kept q M C t' := State.takeRx_kept s n want h _ he

theorem execPacketReceive_kept (n : Fin 6) (s : State)  (h : Kept q M C s) : KeptOut q M C (execPacketReceive n s) := by
  unfold execPacketReceive
  try dsimp only
  repeat' first | with_reducible assumption | with_reducible apply KeptOut.next | with_reducible apply KeptOut.ite <;> intro _ | with_reducible apply State.portEvent_kept | with_reducible apply State.takeHeader_kept | with_reducible apply State.sequence_kept | with_reducible refine State.takeRx_eq ‹_› ?_ | with_reducible apply Kept.ite <;> intro _ | simp only [Kept.upd] | split | intro _
theorem execPacketReceive_eq {n : Fin 6} {s : State} {t' : State} (he : execPacketReceive n s = .next t') (h : Kept q M C s) : Kept q M C t' := execPacketReceive_kept n s h t' he

theorem execLinkCtrl_kept (n : Fin 6) (s : State)  (h : Kept q M C s) : KeptOut q M C (execLinkCtrl n s) := by
  unfold execLinkCtrl
  try dsimp only
  repeat' first | with_reducible assumption | with_reducible apply KeptOut.next | with_reducible apply KeptOut.ite <;> intro _ | with_reducible apply State.setPort_kept | with_reducible apply State.portEvent_kept | with_reducible apply State.takeHeader_kept | with_reducible refine State.takeRx_eq ‹_› ?_ | with_reducible apply Kept.ite <;> intro _ | simp only [Kept.upd] | split | intro _
theorem execLinkCtrl_eq {n : Fin 6} {s : State} {t' : State} (he : execLinkCtrl n s = .next t') (h : Kept q M C s) : Kept q M C t' := execLinkCtrl_kept n s h t' he

theorem State.transmit_kept (s : State) (n : Nat) (l : List Byte)  (h : Kept q M C s) : Kept q M C (State.transmit s n l) := by
  unfold State.transmit
  try dsimp only
  repeat' first | with_reducible assumption | with_reducible apply State.emit_kept | with_reducible apply State.setPort_kept | with_reducible apply Kept.ite <;> intro _ | simp only [Kept.upd] | split | intro _

theorem State.sendOn_kept (s : State) (n : Nat) (p : Packet) (seq : Nat)  (h : Kept q M C s) : Kept q M C (State.sendOn s n p seq) := by
  unfold State.sendOn
  try dsimp only
  repeat' first | with_reducible assumption | with_reducible apply State.count_kept | with_reducible apply State.setPort_kept | with_reducible apply State.transmit_kept | with_reducible apply Kept.ite <;> intro _ | simp only [Kept.upd] | split | intro _

theorem State.sendCtrl_kept (s : State) (n : Nat)  (h : Kept q M C s) : Kept q M C (State.sendCtrl s n) := by
  unfold State.sendCtrl
  try dsimp only
  repeat' first | with_reducible assumption | with_reducible apply State.setPort_kept | with_reducible apply State.sendOn_kept | with_reducible apply Kept.ite <;> intro _ | simp only [Kept.upd] | split | intro _

theorem State.sendNew_kept (s : State) (n : Nat) (c : Candidate)  (h : Kept q M C s) : Kept q M C (State.sendNew s n c) := by
  unfold State.sendNew
  try dsimp only
  repeat' first | with_reducible assumption | with_reducible apply State.count_kept | with_reducible apply State.charge_kept | with_reducible apply State.setPort_kept | with_reducible apply State.setBuffer_kept | with_reducible apply State.packetGone_kept | with_reducible apply State.sendOn_kept | with_reducible apply Kept.ite <;> intro _ | simp only [Kept.upd] | split | intro _

theorem State.sendAgain_kept (s : State) (n : Nat) (e : Sent)  (h : Kept q M C s) : Kept q M C (State.sendAgain s n e) := by
  unfold State.sendAgain
  try dsimp only
  repeat' first | with_reducible assumption | with_reducible apply State.count_kept | with_reducible apply State.setPort_kept | with_reducible apply State.sendOn_kept | with_reducible apply Kept.ite <;> intro _ | simp only [Kept.upd] | split | intro _

theorem execEgressSlot_kept (n : Fin 6) (s : State)  (h : Kept q M C s) : KeptOut q M C (execEgressSlot n s) := by
  unfold execEgressSlot
  try dsimp only
  repeat' first | with_reducible assumption | with_reducible apply KeptOut.next | with_reducible apply KeptOut.ite <;> intro _ | with_reducible apply State.setPort_kept | with_reducible apply State.sendCtrl_kept | with_reducible apply State.sendNew_kept | with_reducible apply State.sendAgain_kept | with_reducible apply Kept.ite <;> intro _ | simp only [Kept.upd] | split | intro _
theorem execEgressSlot_eq {n : Fin 6} {s : State} {t' : State} (he : execEgressSlot n s = .next t') (h : Kept q M C s) : Kept q M C t' := execEgressSlot_kept n s h t' he

theorem execLinkCtrlTimer_kept (n : Fin 6) (s : State)  (h : Kept q M C s) : KeptOut q M C (execLinkCtrlTimer n s) := by
  unfold execLinkCtrlTimer
  try dsimp only
  repeat' first | with_reducible assumption | with_reducible apply KeptOut.next | with_reducible apply KeptOut.ite <;> intro _ | with_reducible apply State.sendCtrl_kept | with_reducible apply Kept.ite <;> intro _ | simp only [Kept.upd] | split | intro _
theorem execLinkCtrlTimer_eq {n : Fin 6} {s : State} {t' : State} (he : execLinkCtrlTimer n s = .next t') (h : Kept q M C s) : Kept q M C t' := execLinkCtrlTimer_kept n s h t' he

theorem execGapRerequest_kept (n : Fin 6) (s : State)  (h : Kept q M C s) : KeptOut q M C (execGapRerequest n s) := by
  unfold execGapRerequest
  try dsimp only
  repeat' first | with_reducible assumption | with_reducible apply KeptOut.next | with_reducible apply KeptOut.ite <;> intro _ | with_reducible apply State.setPort_kept | with_reducible apply Kept.ite <;> intro _ | simp only [Kept.upd] | split | intro _
theorem execGapRerequest_eq {n : Fin 6} {s : State} {t' : State} (he : execGapRerequest n s = .next t') (h : Kept q M C s) : Kept q M C t' := execGapRerequest_kept n s h t' he

theorem execStalledAckRetransmit_kept (n : Fin 6) (s : State)  (h : Kept q M C s) : KeptOut q M C (execStalledAckRetransmit n s) := by
  unfold execStalledAckRetransmit
  try dsimp only
  repeat' first | with_reducible assumption | with_reducible apply KeptOut.next | with_reducible apply KeptOut.ite <;> intro _ | with_reducible apply State.setPort_kept | with_reducible apply Kept.ite <;> intro _ | simp only [Kept.upd] | split | intro _
theorem execStalledAckRetransmit_eq {n : Fin 6} {s : State} {t' : State} (he : execStalledAckRetransmit n s = .next t') (h : Kept q M C s) : Kept q M C t' := execStalledAckRetransmit_kept n s h t' he

theorem execDownWaitExpiry_kept (n : Fin 6) (s : State)  (h : Kept q M C s) : KeptOut q M C (execDownWaitExpiry n s) := by
  unfold execDownWaitExpiry
  try dsimp only
  repeat' first | with_reducible assumption | with_reducible apply KeptOut.next | with_reducible apply KeptOut.ite <;> intro _ | with_reducible apply State.beginTraining_kept | with_reducible apply Kept.ite <;> intro _ | simp only [Kept.upd] | split | intro _
theorem execDownWaitExpiry_eq {n : Fin 6} {s : State} {t' : State} (he : execDownWaitExpiry n s = .next t') (h : Kept q M C s) : Kept q M C t' := execDownWaitExpiry_kept n s h t' he

theorem execTrainingLocked_kept (n : Fin 6) (s : State)  (h : Kept q M C s) : KeptOut q M C (execTrainingLocked n s) := by
  unfold execTrainingLocked
  try dsimp only
  repeat' first | with_reducible assumption | with_reducible apply KeptOut.next | with_reducible apply KeptOut.ite <;> intro _ | with_reducible apply State.setPort_kept | with_reducible apply Kept.ite <;> intro _ | simp only [Kept.upd] | split | intro _
theorem execTrainingLocked_eq {n : Fin 6} {s : State} {t' : State} (he : execTrainingLocked n s = .next t') (h : Kept q M C s) : Kept q M C t' := execTrainingLocked_kept n s h t' he

theorem execTrainingTimeout_kept (n : Fin 6) (s : State)  (h : Kept q M C s) : KeptOut q M C (execTrainingTimeout n s) := by
  unfold execTrainingTimeout
  try dsimp only
  repeat' first | with_reducible assumption | with_reducible apply KeptOut.next | with_reducible apply KeptOut.ite <;> intro _ | with_reducible apply State.leavePort_kept | with_reducible apply Kept.ite <;> intro _ | simp only [Kept.upd] | split | intro _
theorem execTrainingTimeout_eq {n : Fin 6} {s : State} {t' : State} (he : execTrainingTimeout n s = .next t') (h : Kept q M C s) : Kept q M C t' := execTrainingTimeout_kept n s h t' he

theorem execTrainSend_kept (n : Fin 6) (s : State)  (h : Kept q M C s) : KeptOut q M C (execTrainSend n s) := by
  unfold execTrainSend
  try dsimp only
  repeat' first | with_reducible assumption | with_reducible apply KeptOut.next | with_reducible apply KeptOut.ite <;> intro _ | with_reducible apply State.setPort_kept | with_reducible apply State.transmit_kept | with_reducible apply Kept.ite <;> intro _ | simp only [Kept.upd] | split | intro _
theorem execTrainSend_eq {n : Fin 6} {s : State} {t' : State} (he : execTrainSend n s = .next t') (h : Kept q M C s) : Kept q M C t' := execTrainSend_kept n s h t' he

theorem execTrain_kept (n : Fin 6) (s : State)  (h : Kept q M C s) : KeptOut q M C (execTrain n s) := by
  unfold execTrain
  try dsimp only
  repeat' first | with_reducible assumption | with_reducible apply KeptOut.next | with_reducible apply KeptOut.ite <;> intro _ | with_reducible apply State.setPort_kept | with_reducible apply State.portEvent_kept | with_reducible apply State.leavePort_kept | with_reducible apply State.linkUp_kept | with_reducible refine State.takeRx_eq ‹_› ?_ | with_reducible apply Kept.ite <;> intro _ | simp only [Kept.upd] | split | intro _
theorem execTrain_eq {n : Fin 6} {s : State} {t' : State} (he : execTrain n s = .next t') (h : Kept q M C s) : Kept q M C t' := execTrain_kept n s h t' he

theorem execLockedTimeout_kept (n : Fin 6) (s : State)  (h : Kept q M C s) : KeptOut q M C (execLockedTimeout n s) := by
  unfold execLockedTimeout
  try dsimp only
  repeat' first | with_reducible assumption | with_reducible apply KeptOut.next | with_reducible apply KeptOut.ite <;> intro _ | with_reducible apply State.leavePort_kept | with_reducible apply Kept.ite <;> intro _ | simp only [Kept.upd] | split | intro _
theorem execLockedTimeout_eq {n : Fin 6} {s : State} {t' : State} (he : execLockedTimeout n s = .next t') (h : Kept q M C s) : Kept q M C t' := execLockedTimeout_kept n s h t' he

theorem execUpTimeout_kept (n : Fin 6) (s : State)  (h : Kept q M C s) : KeptOut q M C (execUpTimeout n s) := by
  unfold execUpTimeout
  try dsimp only
  repeat' first | with_reducible assumption | with_reducible apply KeptOut.next | with_reducible apply KeptOut.ite <;> intro _ | with_reducible apply State.leavePort_kept | with_reducible apply Kept.ite <;> intro _ | simp only [Kept.upd] | split | intro _
theorem execUpTimeout_eq {n : Fin 6} {s : State} {t' : State} (he : execUpTimeout n s = .next t') (h : Kept q M C s) : Kept q M C t' := execUpTimeout_kept n s h t' he

theorem execRespTimeout_kept (rtag : BitVec 16) (s : State)  (h : Kept q M C s) : KeptOut q M C (execRespTimeout rtag s) := by
  unfold execRespTimeout
  try dsimp only
  repeat' first | with_reducible assumption | with_reducible apply KeptOut.next | with_reducible apply KeptOut.ite <;> intro _ | with_reducible apply State.endRequest_kept | with_reducible apply Kept.ite <;> intro _ | simp only [Kept.upd] | split | intro _
theorem execRespTimeout_eq {rtag : BitVec 16} {s : State} {t' : State} (he : execRespTimeout rtag s = .next t') (h : Kept q M C s) : Kept q M C t' := execRespTimeout_kept rtag s h t' he

end
end Sys2Proof.Machine
end

