-- ==== Sys2Proof/Laws/JoinKeeps.lean ====
section
/-! SUPPORT. What the operations of Machine/Join.lean keep: the queue, the form of the state and, where they store nothing, the memory. -/
set_option linter.all false
set_option Elab.async false
namespace Sys2Proof.Machine
section
variable {q : List Instr} {M : Memory → Prop} {C : Prop}

theorem State.setBarrier_kept (s : State) (j : Nat) (v : Barrier)  (h : Kept q M C s) : Kept q M C (State.setBarrier s j v) := by
  unfold State.setBarrier
  try dsimp only
  repeat' first | with_reducible assumption | with_reducible apply State.setJob_kept | with_reducible apply Kept.ite <;> intro _ | simp only [Kept.upd] | split | intro _

theorem State.sendBarrier_kept (s : State) (j : Nat) (type : Nat) (dest_ : Nat) (v : Barrier) (payload : List Word)  (h : Kept q M C s) : Kept q M C (State.sendBarrier s j type dest_ v payload) := by
  unfold State.sendBarrier
  try dsimp only
  repeat' first | with_reducible assumption | with_reducible apply State.sendPackets_kept | with_reducible apply Kept.ite <;> intro _ | simp only [Kept.upd] | split | intro _

theorem State.sendJoin_kept (s : State) (j : Nat) (v : Barrier)  (h : Kept q M C s) : Kept q M C (State.sendJoin s j v) := by
  unfold State.sendJoin
  try dsimp only
  repeat' first | with_reducible assumption | with_reducible apply State.sendBarrier_kept | with_reducible apply Kept.ite <;> intro _ | simp only [Kept.upd] | split | intro _

theorem State.sendRelease_kept (s : State) (j : Nat) (dest_ : List Nat) (v : Barrier)  (h : Kept q M C s) : Kept q M C (State.sendRelease s j dest_ v) := by
  unfold State.sendRelease
  try dsimp only
  repeat' first | with_reducible assumption | with_reducible apply State.sendBarrier_kept | with_reducible apply Kept.ite <;> intro _ | with_reducible apply foldl_kept (fun _ _ _ => ?_) | simp only [Kept.upd] | split | intro _

theorem State.joinOn_kept (s : State) (j : Nat) (kind : Nat) (seq : Nat)  (h : Kept q M C s) : Kept q M C (State.joinOn s j kind seq) := by
  unfold State.joinOn
  try dsimp only
  repeat' first | with_reducible assumption | with_reducible apply State.setBarrier_kept | with_reducible apply State.sendJoin_kept | with_reducible apply State.sendRelease_kept | with_reducible apply Kept.ite <;> intro _ | simp only [Kept.upd] | split | intro _

theorem State.joinBarrier_kept (s : State) (j : Nat) (kind : Nat) (seq : Nat)  (h : Kept q M C s) : Kept q M C (State.joinBarrier s j kind seq) := by
  unfold State.joinBarrier
  try dsimp only
  repeat' first | with_reducible assumption | with_reducible apply State.setBarrier_kept | with_reducible apply State.joinOn_kept | with_reducible apply Kept.ite <;> intro _ | simp only [Kept.upd] | split | intro _

theorem execStepBarrierJoin_kept (p : Fin 64) (s : State)  (h : Kept q M C s) : KeptOut q M C (execStepBarrierJoin p s) := by
  unfold execStepBarrierJoin
  try dsimp only
  repeat' first | with_reducible assumption | with_reducible apply KeptOut.next | with_reducible apply KeptOut.ite <;> intro _ | with_reducible apply State.setPart_kept | with_reducible apply State.count_kept | with_reducible apply State.joinBarrier_kept | with_reducible apply Kept.ite <;> intro _ | simp only [Kept.upd] | split | intro _
theorem execStepBarrierJoin_eq {p : Fin 64} {s : State} {t' : State} (he : execStepBarrierJoin p s = .next t') (h : Kept q M C s) : Kept q M C t' := execStepBarrierJoin_kept p s h t' he

theorem State.freeBarrier_kept (s : State) (p : Nat) (seq : Nat)  (h : Kept q M C s) : Kept q M C (State.freeBarrier s p seq) := by
  unfold State.freeBarrier
  try dsimp only
  repeat' first | with_reducible assumption | with_reducible apply State.completeOp_kept | with_reducible apply Kept.ite <;> intro _ | with_reducible apply foldl_kept (fun _ _ _ => ?_) | simp only [Kept.upd] | split | intro _

theorem execBarrierRelease_kept (p : Fin 64) (s : State)  (h : Kept q M C s) : KeptOut q M C (execBarrierRelease p s) := by
  unfold execBarrierRelease
  try dsimp only
  repeat' first | with_reducible assumption | with_reducible apply KeptOut.next | with_reducible apply KeptOut.ite <;> intro _ | with_reducible apply State.startStep_kept | with_reducible apply State.setJob_kept | with_reducible apply State.setBarrier_kept | with_reducible apply State.freeBarrier_kept | with_reducible apply Kept.ite <;> intro _ | simp only [Kept.upd] | split | intro _
theorem execBarrierRelease_eq {p : Fin 64} {s : State} {t' : State} (he : execBarrierRelease p s = .next t') (h : Kept q M C s) : Kept q M C t' := execBarrierRelease_kept p s h t' he

theorem execBarrierJoin_kept (s : State)  (h : Kept q M C s) : KeptOut q M C (execBarrierJoin s) := by
  unfold execBarrierJoin
  try dsimp only
  repeat' first | with_reducible assumption | with_reducible apply KeptOut.next | with_reducible apply KeptOut.ite <;> intro _ | with_reducible apply State.setBarrier_kept | with_reducible apply State.sendRelease_kept | with_reducible apply State.joinOn_kept | with_reducible refine State.takeType_eq ‹_› ?_ | with_reducible apply Kept.ite <;> intro _ | simp only [Kept.upd] | split | intro _
theorem execBarrierJoin_eq {s : State} {t' : State} (he : execBarrierJoin s = .next t') (h : Kept q M C s) : Kept q M C t' := execBarrierJoin_kept s h t' he

theorem execBarrierReleasePacket_kept (s : State)  (h : Kept q M C s) : KeptOut q M C (execBarrierReleasePacket s) := by
  unfold execBarrierReleasePacket
  try dsimp only
  repeat' first | with_reducible assumption | with_reducible apply KeptOut.next | with_reducible apply KeptOut.ite <;> intro _ | with_reducible apply State.count_kept | with_reducible apply State.setBarrier_kept | with_reducible apply State.sendRelease_kept | with_reducible refine State.takeType_eq ‹_› ?_ | with_reducible apply Kept.ite <;> intro _ | simp only [Kept.upd] | split | intro _
theorem execBarrierReleasePacket_eq {s : State} {t' : State} (he : execBarrierReleasePacket s = .next t') (h : Kept q M C s) : Kept q M C t' := execBarrierReleasePacket_kept s h t' he

theorem execJoinRepeat_kept (p : Fin 64) (s : State)  (h : Kept q M C s) : KeptOut q M C (execJoinRepeat p s) := by
  unfold execJoinRepeat
  try dsimp only
  repeat' first | with_reducible assumption | with_reducible apply KeptOut.next | with_reducible apply KeptOut.ite <;> intro _ | with_reducible apply State.setBarrier_kept | with_reducible apply State.sendJoin_kept | with_reducible apply Kept.ite <;> intro _ | simp only [Kept.upd] | split | intro _
theorem execJoinRepeat_eq {p : Fin 64} {s : State} {t' : State} (he : execJoinRepeat p s = .next t') (h : Kept q M C s) : Kept q M C t' := execJoinRepeat_kept p s h t' he

theorem execBarrierTimeout_kept (p : Fin 64) (s : State)  (h : Kept q M C s) : KeptOut q M C (execBarrierTimeout p s) := by
  unfold execBarrierTimeout
  try dsimp only
  repeat' first | with_reducible assumption | with_reducible apply KeptOut.next | with_reducible apply KeptOut.ite <;> intro _ | with_reducible exact KeptOut.fault | with_reducible exact KeptOut.refused | with_reducible apply State.failStep_kept | with_reducible apply State.originate_kept | with_reducible apply State.setBarrier_kept | with_reducible apply Kept.ite <;> intro _ | simp only [Kept.upd] | split | intro _
theorem execBarrierTimeout_eq {p : Fin 64} {s : State} {t' : State} (he : execBarrierTimeout p s = .next t') (h : Kept q M C s) : Kept q M C t' := execBarrierTimeout_kept p s h t' he

theorem execBarrier_kept (b : Fin 256) (s : State)  (h : Kept q M C s) : KeptOut q M C (execBarrier b s) := by
  unfold execBarrier
  try dsimp only
  repeat' first | with_reducible assumption | with_reducible apply KeptOut.next | with_reducible apply KeptOut.ite <;> intro _ | with_reducible apply State.setBlock_kept | with_reducible apply State.setPart_kept | with_reducible apply State.launch_kept | with_reducible apply State.issue_kept | with_reducible apply State.joinBarrier_kept | with_reducible apply Kept.ite <;> intro _ | simp only [Kept.upd] | split | intro _
theorem execBarrier_eq {b : Fin 256} {s : State} {t' : State} (he : execBarrier b s = .next t') (h : Kept q M C s) : Kept q M C t' := execBarrier_kept b s h t' he

theorem State.closeJob_kept (s : State) (j : Nat)  (h : Kept q M C s) : Kept q M C (State.closeJob s j) := by
  unfold State.closeJob
  try dsimp only
  repeat' first | with_reducible assumption | with_reducible apply State.count_kept | with_reducible apply State.setJob_kept | with_reducible apply State.setBuffer_kept | with_reducible apply State.packetGone_kept | with_reducible apply Kept.ite <;> intro _ | with_reducible apply foldl_kept (fun _ _ _ => ?_) | simp only [Kept.upd] | split | intro _

end
end Sys2Proof.Machine
end

