-- ==== Sys2Proof/Laws/CollKeeps.lean ====
section
/-! SUPPORT. What the operations of Machine/Coll.lean keep: the queue, the form of the state and, where they store nothing, the memory. -/
set_option linter.all false
set_option Elab.async false
namespace Sys2Proof.Machine
section
variable {q : List Instr} {M : Memory → Prop} {C : Prop}

theorem execSend_kept (b : Fin 256) (s : State)  (h : Kept q M C s) : KeptOut q M C (execSend b s) := by
  unfold execSend
  try dsimp only
  repeat' first | with_reducible assumption | with_reducible apply KeptOut.next | with_reducible apply KeptOut.ite <;> intro _ | with_reducible apply State.issue_kept | with_reducible apply State.sendPackets_kept | with_reducible apply State.launchMover_kept | with_reducible refine State.launchMover_eq ‹_› ?_ | with_reducible apply Kept.ite <;> intro _ | simp only [Kept.upd] | split | intro _
theorem execSend_eq {b : Fin 256} {s : State} {t' : State} (he : execSend b s = .next t') (h : Kept q M C s) : Kept q M C t' := execSend_kept b s h t' he

theorem State.receiveWords_kept (s : State) (a : Nat) (l : List Stored)  (h : Kept q Any C s) : Kept q Any C (State.receiveWords s a l) := by
  unfold State.receiveWords
  try dsimp only
  repeat' first | with_reducible assumption | with_reducible apply State.writeDelivered_kept | with_reducible apply Kept.ite <;> intro _ | with_reducible apply foldl_kept (fun _ _ _ => ?_) | simp only [Kept.upd] | split | intro _

theorem State.lateReceive_kept (s : State) (p : Nat)  (h : Kept q M C s) : Kept q M C (State.lateReceive s p) := by
  unfold State.lateReceive
  try dsimp only
  repeat' first | with_reducible assumption | with_reducible apply State.count_kept | with_reducible apply Kept.ite <;> intro _ | simp only [Kept.upd] | split | intro _

theorem execData_kept (s : State)  (h : Kept q Any C s) : KeptOut q Any C (execData s) := by
  unfold execData
  try dsimp only
  repeat' first | with_reducible assumption | with_reducible apply KeptOut.next | with_reducible apply KeptOut.ite <;> intro _ | with_reducible apply State.markTag_kept | with_reducible apply State.failStep_kept | with_reducible apply State.roadEvent_kept | with_reducible apply State.receiveWords_kept | with_reducible apply State.lateReceive_kept | with_reducible refine State.takeType_eq ‹_› ?_ | with_reducible apply Kept.ite <;> intro _ | simp only [Kept.upd] | split | intro _
theorem execData_eq {s : State} {t' : State} (he : execData s = .next t') (h : Kept q Any C s) : Kept q Any C t' := execData_kept s h t' he

theorem State.setColl_kept (s : State) (id : Nat) (c : Coll)  (h : Kept q M C s) : Kept q M C (State.setColl s id c) := by
  unfold State.setColl
  try dsimp only
  repeat' first | with_reducible assumption | with_reducible apply Kept.ite <;> intro _ | simp only [Kept.upd] | split | intro _

theorem State.sendWave_kept (s : State) (c : Coll) (d : Nat) (up : Bool) (hdr : Bool) (ws : List Word)  (h : Kept q M C s) : Kept q M C (State.sendWave s c d up hdr ws) := by
  unfold State.sendWave
  try dsimp only
  repeat' first | with_reducible assumption | with_reducible apply State.setBuffer_kept | with_reducible apply Kept.ite <;> intro _ | simp only [Kept.upd] | split | intro _

theorem State.sendElems_kept (s : State) (c : Coll) (d : Nat) (up : Bool) (l : List Nat)  (h : Kept q M C s) : Kept q M C (State.sendElems s c d up l) := by
  unfold State.sendElems
  try dsimp only
  repeat' first | with_reducible assumption | with_reducible apply State.sendWave_kept | with_reducible apply Kept.ite <;> intro _ | with_reducible apply foldl_kept (fun _ _ _ => ?_) | simp only [Kept.upd] | split | intro _

theorem State.failColl_kept (s : State) (id : Nat) (c : Coll) (cause : Status)  (h : Kept q M C s) : Kept q M C (State.failColl s id c cause) := by
  unfold State.failColl
  try dsimp only
  repeat' first | with_reducible assumption | with_reducible apply State.failOp_kept | with_reducible apply Kept.ite <;> intro _ | simp only [Kept.upd] | split | intro _

theorem State.startDim_kept (id : Nat) : ∀ (n : Nat) (s : State) (_ : Kept q Any C s), Kept q Any C (s.startDim id n)
  | 0, _, h => h
  | n + 1, s, h => by
    unfold State.startDim
    (try dsimp only) <;> repeat' first | with_reducible assumption | with_reducible apply State.writeWords_kept | with_reducible apply State.setColl_kept | with_reducible apply State.sendWave_kept | with_reducible apply State.sendElems_kept | with_reducible apply State.failColl_kept | with_reducible apply State.startDim_kept | with_reducible apply Kept.ite <;> intro _ | simp only [Kept.upd] | split | intro _

theorem State.issueColl_kept (s : State) (b : Nat) (op : Nat)  (h : Kept q Any C s) : Kept q Any C (State.issueColl s b op) := by
  unfold State.issueColl
  try dsimp only
  repeat' first | with_reducible assumption | with_reducible apply State.failDesc_kept | with_reducible apply State.issue_kept | with_reducible apply State.readSource_kept | with_reducible apply State.setColl_kept | with_reducible apply State.startDim_kept | with_reducible apply State.launchMover_kept | with_reducible refine State.launchMover_eq ‹_› ?_ | with_reducible apply Kept.ite <;> intro _ | simp only [Kept.upd] | split | intro _

theorem execCsum_kept (b : Fin 256) (s : State)  (h : Kept q Any C s) : KeptOut q Any C (execCsum b s) := by
  unfold execCsum
  try dsimp only
  repeat' first | with_reducible assumption | with_reducible apply KeptOut.next | with_reducible apply KeptOut.ite <;> intro _ | with_reducible apply State.issueColl_kept | with_reducible apply Kept.ite <;> intro _ | simp only [Kept.upd] | split | intro _
theorem execCsum_eq {b : Fin 256} {s : State} {t' : State} (he : execCsum b s = .next t') (h : Kept q Any C s) : Kept q Any C t' := execCsum_kept b s h t' he

theorem execCmax_kept (b : Fin 256) (s : State)  (h : Kept q Any C s) : KeptOut q Any C (execCmax b s) := by
  unfold execCmax
  try dsimp only
  repeat' first | with_reducible assumption | with_reducible apply KeptOut.next | with_reducible apply KeptOut.ite <;> intro _ | with_reducible apply State.issueColl_kept | with_reducible apply Kept.ite <;> intro _ | simp only [Kept.upd] | split | intro _
theorem execCmax_eq {b : Fin 256} {s : State} {t' : State} (he : execCmax b s = .next t') (h : Kept q Any C s) : Kept q Any C t' := execCmax_kept b s h t' he

theorem execCmin_kept (b : Fin 256) (s : State)  (h : Kept q Any C s) : KeptOut q Any C (execCmin b s) := by
  unfold execCmin
  try dsimp only
  repeat' first | with_reducible assumption | with_reducible apply KeptOut.next | with_reducible apply KeptOut.ite <;> intro _ | with_reducible apply State.issueColl_kept | with_reducible apply Kept.ite <;> intro _ | simp only [Kept.upd] | split | intro _
theorem execCmin_eq {b : Fin 256} {s : State} {t' : State} (he : execCmin b s = .next t') (h : Kept q Any C s) : Kept q Any C t' := execCmin_kept b s h t' he

theorem State.takeWave_eq {s : State} {up : Bool} {y' : Packet} {t' : State} (he : s.takeWave up = some (y', t')) (h : Kept q M C s) : Kept q M C t' := by
  unfold State.takeWave at he
  split at he
  · cases he
  · split at he
    all_goals
      simp only [Option.map_eq_some_iff] at he
      obtain ⟨⟨n, p, u⟩, hu, he⟩ := he
      cases he
      exact State.count_kept _ _ _ _ (State.takeArrived_eq hu h)

theorem execCollUp_kept (s : State)  (h : Kept q Any C s) : KeptOut q Any C (execCollUp s) := by
  unfold execCollUp
  try dsimp only
  repeat' first | with_reducible assumption | with_reducible apply KeptOut.next | with_reducible apply KeptOut.ite <;> intro _ | with_reducible apply State.count_kept | with_reducible apply State.writeWords_kept | with_reducible apply State.setColl_kept | with_reducible apply State.sendWave_kept | with_reducible apply State.sendElems_kept | with_reducible apply State.failColl_kept | with_reducible apply State.startDim_kept | with_reducible refine State.takeWave_eq ‹_› ?_ | with_reducible apply Kept.ite <;> intro _ | simp only [Kept.upd] | split | intro _
theorem execCollUp_eq {s : State} {t' : State} (he : execCollUp s = .next t') (h : Kept q Any C s) : Kept q Any C t' := execCollUp_kept s h t' he

theorem execCollDown_kept (s : State)  (h : Kept q Any C s) : KeptOut q Any C (execCollDown s) := by
  unfold execCollDown
  try dsimp only
  repeat' first | with_reducible assumption | with_reducible apply KeptOut.next | with_reducible apply KeptOut.ite <;> intro _ | with_reducible apply State.count_kept | with_reducible apply State.writeWords_kept | with_reducible apply State.setColl_kept | with_reducible apply State.sendWave_kept | with_reducible apply State.failColl_kept | with_reducible apply State.startDim_kept | with_reducible refine State.takeWave_eq ‹_› ?_ | with_reducible apply Kept.ite <;> intro _ | simp only [Kept.upd] | split | intro _
theorem execCollDown_eq {s : State} {t' : State} (he : execCollDown s = .next t') (h : Kept q Any C s) : Kept q Any C t' := execCollDown_kept s h t' he

theorem State.stopColls_kept (s : State) (p : Nat)  (h : Kept q M C s) : Kept q M C (State.stopColls s p) := by
  unfold State.stopColls
  try dsimp only
  repeat' first | with_reducible assumption | with_reducible apply State.setBlock_kept | with_reducible apply State.settle_kept | with_reducible apply Kept.ite <;> intro _ | with_reducible apply foldl_kept (fun _ _ _ => ?_) | simp only [Kept.upd] | split | intro _

theorem execCollectiveCompletion_kept (b : Fin 256) (s : State)  (h : Kept q M C s) : KeptOut q M C (execCollectiveCompletion b s) := by
  unfold execCollectiveCompletion
  try dsimp only
  repeat' first | with_reducible assumption | with_reducible apply KeptOut.next | with_reducible apply KeptOut.ite <;> intro _ | with_reducible apply State.completeOp_kept | with_reducible apply State.stopColls_kept | with_reducible apply Kept.ite <;> intro _ | simp only [Kept.upd] | split | intro _
theorem execCollectiveCompletion_eq {b : Fin 256} {s : State} {t' : State} (he : execCollectiveCompletion b s = .next t') (h : Kept q M C s) : Kept q M C t' := execCollectiveCompletion_kept b s h t' he

end
end Sys2Proof.Machine
end

