-- ==== Sys2Proof/Laws/ScrubKeeps.lean ====
section
/-! SUPPORT. What the operations of Machine/Scrub.lean keep: the queue, the form of the state and, where they store nothing, the memory. -/
set_option linter.all false
set_option Elab.async false
namespace Sys2Proof.Machine
section
variable {q : List Instr} {M : Memory → Prop} {C : Prop}

theorem State.rewrite_kept (s : State) (a : Nat)  (h : Kept q Any C s) : Kept q Any C (State.rewrite s a) := by
  unfold State.rewrite
  try dsimp only
  repeat' first | with_reducible assumption | with_reducible apply State.count_kept | with_reducible apply State.writeWord_kept | with_reducible apply Kept.ite <;> intro _ | simp only [Kept.upd] | split | intro _

theorem State.writeBack_kept (s : State) (b : Nat) (a : Nat) (t : Nat)  (h : Kept q Any C s) : Kept q Any C (State.writeBack s b a t) := by
  unfold State.writeBack
  try dsimp only
  repeat' first | with_reducible assumption | with_reducible apply State.setBlock_kept | with_reducible apply State.useBank_kept | with_reducible apply State.rewrite_kept | with_reducible apply Kept.ite <;> intro _ | simp only [Kept.upd] | split | intro _

theorem State.readBack_kept (s : State) (b : Nat) (a : Nat)  (h : Kept q Any C s) : Kept q Any C (State.readBack s b a) := by
  unfold State.readBack
  try dsimp only
  repeat' first | with_reducible assumption | with_reducible apply State.setBlock_kept | with_reducible apply State.count_kept | with_reducible apply State.serviceUnits_kept | with_reducible apply State.useBank_kept | with_reducible apply State.rewrite_kept | with_reducible apply Kept.ite <;> intro _ | simp only [Kept.upd] | split | intro _

theorem execRepairQueueWriteback_kept (b : Fin 256) (s : State)  (h : Kept q Any C s) : KeptOut q Any C (execRepairQueueWriteback b s) := by
  unfold execRepairQueueWriteback
  try dsimp only
  repeat' first | with_reducible assumption | with_reducible apply KeptOut.next | with_reducible apply KeptOut.ite <;> intro _ | with_reducible apply State.writeBack_kept | with_reducible apply State.readBack_kept | with_reducible apply Kept.ite <;> intro _ | simp only [Kept.upd] | split | intro _
theorem execRepairQueueWriteback_eq {b : Fin 256} {s : State} {t' : State} (he : execRepairQueueWriteback b s = .next t') (h : Kept q Any C s) : Kept q Any C t' := execRepairQueueWriteback_kept b s h t' he

theorem State.scrubAcc_kept (s : State) (k : Nat)  (h : Kept q M C s) : Kept q M C (State.scrubAcc s k) := by
  unfold State.scrubAcc
  try dsimp only
  repeat' first | with_reducible assumption | with_reducible apply State.count_kept | with_reducible apply State.countLog_kept | with_reducible apply State.wipe_kept | with_reducible apply Kept.ite <;> intro _ | simp only [Kept.upd] | split | intro _

theorem execScrubWord_kept (a : BitVec 51) (s : State)  (h : Kept q Any C s) : KeptOut q Any C (execScrubWord a s) := by
  unfold execScrubWord
  try dsimp only
  repeat' first | with_reducible assumption | with_reducible apply KeptOut.next | with_reducible apply KeptOut.ite <;> intro _ | with_reducible apply State.count_kept | with_reducible apply State.countLog_kept | with_reducible apply State.serviceMove_kept | with_reducible apply State.useBank_kept | with_reducible apply State.rewrite_kept | with_reducible apply State.scrubAcc_kept | with_reducible apply Kept.ite <;> intro _ | simp only [Kept.upd] | split | intro _
theorem execScrubWord_eq {a : BitVec 51} {s : State} {t' : State} (he : execScrubWord a s = .next t') (h : Kept q Any C s) : Kept q Any C t' := execScrubWord_kept a s h t' he

theorem State.beginClear_kept (s : State) (b : Nat) (by_ : Nat)  (h : Kept q M C s) : Kept q M C (State.beginClear s b by_) := by
  unfold State.beginClear
  try dsimp only
  repeat' first | with_reducible assumption | with_reducible apply State.setBlock_kept | with_reducible apply Kept.ite <;> intro _ | simp only [Kept.upd] | split | intro _

theorem State.beginClearChannel_kept (s : State) (c : Nat)  (h : Kept q M C s) : Kept q M C (State.beginClearChannel s c) := by
  unfold State.beginClearChannel
  try dsimp only
  repeat' first | with_reducible assumption | with_reducible apply State.setChannel_kept | with_reducible apply Kept.ite <;> intro _ | simp only [Kept.upd] | split | intro _

theorem State.freeAlloc_kept (s : State) (i : Nat)  (h : Kept q M C s) : Kept q M C (State.freeAlloc s i) := by
  unfold State.freeAlloc
  try dsimp only
  repeat' first | with_reducible assumption | with_reducible apply State.bump_kept | with_reducible apply Kept.ite <;> intro _ | simp only [Kept.upd] | split | intro _

theorem State.freePart_kept (s : State) (p : Nat)  (h : Kept q M C s) : Kept q M C (State.freePart s p) := by
  unfold State.freePart
  try dsimp only
  repeat' first | with_reducible assumption | with_reducible apply State.setPart_kept | with_reducible apply Kept.ite <;> intro _ | simp only [Kept.upd] | split | intro _

theorem State.tenantEnds_kept (s : State) (t : Nat)  (h : Kept q M C s) : Kept q M C (State.tenantEnds s t) := by
  unfold State.tenantEnds
  try dsimp only
  repeat' first | with_reducible assumption | with_reducible apply State.bumpWhere_kept | with_reducible apply State.setTenant_kept | with_reducible apply Kept.ite <;> intro _ | simp only [Kept.upd] | split | intro _

theorem execClearDone_kept (r : Region) (s : State)  (h : Kept q Any C s) : KeptOut q Any C (execClearDone r s) := by
  unfold execClearDone
  try dsimp only
  repeat' first | with_reducible assumption | with_reducible apply KeptOut.next | with_reducible apply KeptOut.ite <;> intro _ | with_reducible apply State.bump_kept | with_reducible apply State.setBlock_kept | with_reducible apply State.setChannel_kept | with_reducible apply State.count_kept | with_reducible apply State.wipeBank_kept | with_reducible apply State.clearRange_kept | with_reducible apply State.freePart_kept | with_reducible apply State.tenantEnds_kept | with_reducible apply Kept.ite <;> intro _ | simp only [Kept.upd] | split | intro _
theorem execClearDone_eq {r : Region} {s : State} {t' : State} (he : execClearDone r s = .next t') (h : Kept q Any C s) : Kept q Any C t' := execClearDone_kept r s h t' he

end
end Sys2Proof.Machine
end

