-- ==== Sys2Proof/Laws/CdpKeeps.lean ====
section
/-! SUPPORT. What the operations of Machine/Cdp.lean keep: the queue, the form of the state and, where they store nothing, the memory. -/
set_option linter.all false
set_option Elab.async false
namespace Sys2Proof.Machine
section
variable {q : List Instr} {M : Memory → Prop} {C : Prop}

theorem State.setSession_kept (s : State) (i : Nat) (x : Session)  (h : Kept q M C s) : Kept q M C (State.setSession s i x) := by
  unfold State.setSession
  try dsimp only
  repeat' first | with_reducible assumption | with_reducible apply Kept.ite <;> intro _ | simp only [Kept.upd] | split | intro _

theorem State.deliverReply_kept (s : State) (dest_ : Source) (m : List Byte)  (h : Kept q M C s) : Kept q M C (State.deliverReply s dest_ m) := by
  unfold State.deliverReply
  try dsimp only
  repeat' first | with_reducible assumption | with_reducible apply State.setFn_kept | with_reducible apply State.emit_kept | with_reducible apply State.sendService_kept | with_reducible apply Kept.ite <;> intro _ | simp only [Kept.upd] | split | intro _

theorem State.replyTo_kept (s : State) (src : Source) (l : List Byte) (status : Nat) (a : Answer) (store : Bool)  (h : Kept q M C s) : Kept q M C (State.replyTo s src l status a store) := by
  unfold State.replyTo
  try dsimp only
  repeat' first | with_reducible assumption | with_reducible apply State.setSession_kept | with_reducible apply State.deliverReply_kept | with_reducible apply Kept.ite <;> intro _ | simp only [Kept.upd] | split | intro _

theorem State.replyBare_kept (s : State) (src : Source) (l : List Byte) (status : Nat)  (h : Kept q M C s) : Kept q M C (State.replyBare s src l status) := by
  unfold State.replyBare
  try dsimp only
  repeat' first | with_reducible assumption | with_reducible apply State.deliverReply_kept | with_reducible apply Kept.ite <;> intro _ | simp only [Kept.upd] | split | intro _

theorem State.refuseEarly_kept (s : State) (src : Source) (l : List Byte) (code : Nat)  (h : Kept q M C s) : Kept q M C (State.refuseEarly s src l code) := by
  unfold State.refuseEarly
  try dsimp only
  repeat' first | with_reducible assumption | with_reducible apply State.countLog_kept | with_reducible apply State.replyTo_kept | with_reducible apply State.replyBare_kept | with_reducible apply Kept.ite <;> intro _ | simp only [Kept.upd] | split | intro _

theorem State.rated_kept (s : State) (src : Source) (l : List Byte)  (h : Kept q M C s) : KeptOpt q M C (State.rated s src l) := by
  unfold State.rated
  try dsimp only
  repeat' first | with_reducible assumption | with_reducible apply KeptOpt.some | with_reducible exact KeptOpt.none | with_reducible apply KeptOpt.ite <;> intro _ | with_reducible apply State.setSession_kept | with_reducible apply Kept.ite <;> intro _ | simp only [Kept.upd] | split | intro _
theorem State.rated_eq {s : State} {src : Source} {l : List Byte} {t' : State} (he : State.rated s src l = some t') (h : Kept q M C s) : Kept q M C t' := State.rated_kept s src l h t' he

theorem State.tagFails_kept (s : State) (src : Source) (l : List Byte)  (h : Kept q M C s) : Kept q M C (State.tagFails s src l) := by
  unfold State.tagFails
  try dsimp only
  repeat' first | with_reducible assumption | with_reducible apply State.closeSession_kept | with_reducible apply State.setSession_kept | with_reducible apply Kept.ite <;> intro _ | simp only [Kept.upd] | split | intro _

theorem State.arrive_kept (s : State) (src : Source) (l : List Byte)  (h : Kept q M C s) : Kept q M C (State.arrive s src l) := by
  unfold State.arrive
  try dsimp only
  repeat' first | with_reducible assumption | with_reducible apply State.setSession_kept | with_reducible apply State.deliverReply_kept | with_reducible apply State.refuseEarly_kept | with_reducible apply State.tagFails_kept | with_reducible apply State.rated_kept | with_reducible refine State.rated_eq ‹_› ?_ | with_reducible apply Kept.ite <;> intro _ | simp only [Kept.upd] | split | intro _

theorem State.pullRequests_kept : ∀ (n : Nat) (s : State) (_ : Kept q M C s), Kept q M C (s.pullRequests n)
  | 0, _, h => h
  | n + 1, s, h => by
    unfold State.pullRequests
    (try dsimp only) <;> repeat' first | with_reducible assumption | with_reducible apply State.arrive_kept | with_reducible refine State.takeArrived_eq ‹_› ?_ | with_reducible apply State.pullRequests_kept | with_reducible apply Kept.ite <;> intro _ | simp only [Kept.upd] | split | intro _

theorem State.refuseLate_kept (s : State) (src : Source) (l : List Byte) (code : Nat)  (h : Kept q M C s) : Kept q M C (State.refuseLate s src l code) := by
  unfold State.refuseLate
  try dsimp only
  repeat' first | with_reducible assumption | with_reducible apply State.count_kept | with_reducible apply State.replyTo_kept | with_reducible apply Kept.ite <;> intro _ | simp only [Kept.upd] | split | intro _

theorem Done.answer_kept (d : Done) (l : List Byte) (a : Ask) (h : Kept q M C d.s) : Kept q M C (d.answer l a) := by
  unfold Done.answer
  (try dsimp only) <;> repeat' first | with_reducible assumption | with_reducible apply State.bump_kept | with_reducible apply State.close_kept | with_reducible apply State.closeSession_kept | with_reducible apply State.replyTo_kept | with_reducible apply Kept.ite <;> intro _ | simp only [Kept.upd] | split | intro _

theorem State.perform_kept (s : State) (l : List Byte) (a : Ask) (act : State → Ask → Except Nat Done)  (hact : ∀ x0 x1, Kept q M C x0 → KeptAct q M C (act x0 x1)) (h : Kept q M C s) : Kept q M C (State.perform s l a act) := by
  unfold State.perform
  try dsimp only
  repeat' first | with_reducible assumption | with_reducible refine KeptAct.state (hact _ _ ?_) ‹_› | with_reducible apply hact | with_reducible apply State.answer_kept | with_reducible apply State.refuseLate_kept | with_reducible apply Done.answer_kept | with_reducible apply Kept.ite <;> intro _ | simp only [Kept.upd] | split | intro _

theorem State.setStaging_kept (s : State) (src : Source) (sid : Nat) (v : Option Staging)  (h : Kept q M C s) : Kept q M C (State.setStaging s src sid v) := by
  unfold State.setStaging
  try dsimp only
  repeat' first | with_reducible assumption | with_reducible apply State.setSession_kept | with_reducible apply Kept.ite <;> intro _ | simp only [Kept.upd] | split | intro _

theorem State.takeChunk_kept (s : State) (l : List Byte) (a : Ask) (act : State → Ask → Except Nat Done)  (hact : ∀ x0 x1, Kept q M C x0 → KeptAct q M C (act x0 x1)) (h : Kept q M C s) : Kept q M C (State.takeChunk s l a act) := by
  unfold State.takeChunk
  try dsimp only
  repeat' first | with_reducible assumption | with_reducible refine KeptAct.state (hact _ _ ?_) ‹_› | with_reducible apply hact | with_reducible apply State.replyTo_kept | with_reducible apply State.refuseEarly_kept | with_reducible apply State.refuseLate_kept | with_reducible apply State.perform_kept | with_reducible apply State.setStaging_kept | with_reducible apply Kept.ite <;> intro _ | simp only [Kept.upd] | split | intro _

theorem State.execute_kept (s : State) (src : Source) (l : List Byte) (act : State → Ask → Except Nat Done)  (hact : ∀ x0 x1, Kept q M C x0 → KeptAct q M C (act x0 x1)) (h : Kept q M C s) : Kept q M C (State.execute s src l act) := by
  unfold State.execute
  try dsimp only
  repeat' first | with_reducible assumption | with_reducible refine KeptAct.state (hact _ _ ?_) ‹_› | with_reducible apply hact | with_reducible apply State.count_kept | with_reducible apply State.deliverCdp_kept | with_reducible apply State.refuseEarly_kept | with_reducible apply State.refuseLate_kept | with_reducible apply State.perform_kept | with_reducible apply State.takeChunk_kept | with_reducible apply Kept.ite <;> intro _ | simp only [Kept.upd] | split | intro _

theorem State.runHead_kept (s : State) (mine : Mine) (act : State → Ask → Except Nat Done)  (hact : ∀ x0 x1, Kept q M C x0 → KeptAct q M C (act x0 x1)) (h : Kept q M C s) : Kept q M C (State.runHead s mine act) := by
  unfold State.runHead
  try dsimp only
  repeat' first | with_reducible assumption | with_reducible refine KeptAct.state (hact _ _ ?_) ‹_› | with_reducible apply hact | with_reducible apply State.execute_kept | with_reducible apply Kept.ite <;> intro _ | simp only [Kept.upd] | split | intro _

theorem State.cdpRow_kept (s : State) (via : Via) (mine : Mine) (act : State → Ask → Except Nat Done)  (hact : ∀ x0 x1, Kept q M C x0 → KeptAct q M C (act x0 x1)) (h : Kept q M C s) : Kept q M C (State.cdpRow s via mine act) := by
  unfold State.cdpRow
  try dsimp only
  repeat' first | with_reducible assumption | with_reducible refine KeptAct.state (hact _ _ ?_) ‹_› | with_reducible apply hact | with_reducible apply State.arrive_kept | with_reducible apply State.pullRequests_kept | with_reducible apply State.runHead_kept | with_reducible apply Kept.ite <;> intro _ | simp only [Kept.upd] | split | intro _

theorem actRead_kept (s : State) (a : Ask)  (h : Kept q M C s) : KeptAct q M C (actRead s a) := by
  unfold actRead
  try dsimp only
  repeat' first | with_reducible assumption | with_reducible apply KeptAct.ok | with_reducible exact KeptAct.error | with_reducible apply KeptAct.needs | with_reducible apply KeptAct.ite <;> intro _ | with_reducible apply Kept.ite <;> intro _ | simp only [Kept.upd] | split | intro _
theorem actRead_eq {s : State} {a : Ask} {d : Done} (he : actRead s a = .ok d) (h : Kept q M C s) : Kept q M C d.s := actRead_kept s a h d he

theorem State.storeRaw_kept (s : State) (index : Nat) (sub : Nat) (v : List Byte)  (h : Kept q M C s) : Kept q M C (State.storeRaw s index sub v) := by
  unfold State.storeRaw
  try dsimp only
  repeat' first | with_reducible assumption | with_reducible apply Kept.ite <;> intro _ | simp only [Kept.upd] | split | intro _

end
end Sys2Proof.Machine
end

