-- ==== Sys2Proof/Laws/Commands.lean ====
section
/-! SUPPORT. What the execution of a request comes to once it passes the checks of R443. -/
set_option linter.all false
set_option Elab.async false
namespace Sys2Proof
open Machine

/-- A request that passes orders 6 to 9 of R443 is about an object. -/
theorem Machine.State.objectCause_entry {s : State} {a : Ask} {n : Nat} {w : Bool} (h : s.objectCause a n w = none) : ∃ e, a.entry = some e := by
  unfold State.objectCause at h
  cases he : a.entry with
  | none => simp [he] at h
  | some e => exact ⟨e, rfl⟩

/-- A request that passes the checks up to its act, and whose act succeeds, is answered with what the act leaves. -/
theorem Commanded.runs {s : State} {src : Source} {l : List Byte} {rest : List (Source × List Byte)} {i u : Nat} {mine : Mine}
    {act : State → Ask → Except Nat Done} {d : Done} (h : Written s src l rest i u) (hm : mine (cMsg l) i u = true)
    (ha : act (Taken s rest) ((Taken s rest).askOf src l) = .ok d) :
    s.cdpRow .head mine act = d.answer l ((Taken s rest).askOf src l) := by
  obtain ⟨⟨hr, hq, hc, hs, h5, hi, hu, ho, hb, hst, hse⟩, hmsg⟩ := h
  subst hi hu
  have hmsg' : ((Taken s rest).askOf src l).msg = cMsg l := rfl
  have hix : ((Taken s rest).askOf src l).index = cIndex l := rfl
  have hsub : ((Taken s rest).askOf src l).sub = cSub l := rfl
  have hsrc : ((Taken s rest).askOf src l).src = src := rfl
  have hrd : ((Taken s rest).askOf src l).reads = false := by
    unfold Ask.reads
    rw [hmsg']
    rcases hmsg with h | h <;> simp [h]
  have hses : ¬(cSession l ≠ 0 ∧ ((({ s with cdp := { s.cdp with queue := rest } } : State)).sessionOf src l).isNone = true) := by
    rintro ⟨a, b⟩
    rcases hs with h | h
    · exact a h
    · have : (({ s with cdp := { s.cdp with queue := rest } } : State)).sessionOf src l = s.sessionOf src l := rfl
      rw [this] at b
      cases hx : s.sessionOf src l <;> simp [hx] at h b
  obtain ⟨e, he⟩ := State.objectCause_entry ho
  have hbb : boolBad e ((Taken s rest).askOf src l) = false := by simpa [he] using hb
  have hrow : s.cdpRow .head mine act = s.runHead mine act := by
    simp [State.cdpRow, hr, hq, State.pullRequests]
  rw [hrow]
  unfold State.runHead
  rw [hc]
  simp only [hm, if_true]
  unfold State.execute
  rw [if_neg hses]
  have hT : (({ s with cdp := { s.cdp with queue := rest } } : State).count 0x9D00 0x01 1).deliverCdp (cIndex l) = Taken s rest := by simp [Taken, hc]
  simp only [hT]
  have h5' : ¬(((Taken s rest).askOf src l).msg = 5 ∧ (!slotImage ((Taken s rest).askOf src l).index ((Taken s rest).askOf src l).sub) = true) := by
    rw [hmsg']
    rintro ⟨a, _⟩
    exact h5 a
  rw [if_neg h5', hix, hsub, ho]
  simp only [hrd]
  unfold State.perform
  rw [he]
  simp only [hbb, ha, hst, hse, hsrc]
  simp
/-- The same of a READ, whose value there is and fits one reply. -/
theorem Commanded.reads {s T : State} {src : Source} {l : List Byte} {rest : List (Source × List Byte)} {a : Ask} {i u : Nat} {v : List Byte} {mine : Mine}
    {act : State → Ask → Except Nat Done} {d : Done}
    (h1 : Commanded s src l rest i u ∧ cMsg l = 1 ∧ T = Taken s rest ∧ a = T.askOf src l)
  (hm : mine 1 i u = true) (h3 : T.readValue a = .ok v ∧ v.length ≤ 448) (hd : act T a = .ok d) :
  s.cdpRow .head mine act = d.answer l a := by
  obtain ⟨⟨hr, hq, hc, hs, h5, hi, hu, ho, hb, hst, hse⟩, h6, hT, ha⟩ := h1
  subst hi hu hT
  have hrow : s.cdpRow .head mine act = s.runHead mine act := by
    simp [State.cdpRow, hr, hq, State.pullRequests]
  have hses : ¬(cSession l ≠ 0 ∧ ((({ s with cdp := { s.cdp with queue := rest } } : State)).sessionOf src l).isNone = true) := by
    rintro ⟨a, b⟩
    rcases hs with h | h
    · exact a h
    · have : (({ s with cdp := { s.cdp with queue := rest } } : State)).sessionOf src l = s.sessionOf src l := rfl
      rw [this] at b
      cases hx : s.sessionOf src l <;> simp [hx] at h b
  rw [hrow]
  unfold State.runHead
  rw [hc]
  simp only [h6, hm, if_true]
  unfold State.execute
  rw [if_neg hses]
  have hT : (({ s with cdp := { s.cdp with queue := rest } } : State).count 0x9D00 0x01 1).deliverCdp (cIndex l) = Taken s rest := by simp [Taken, hc]
  simp only [hT]
  have hmsg' : a.msg = cMsg l := by rw [ha]; rfl
  have hix : a.index = cIndex l := by rw [ha]; rfl
  have hsub : a.sub = cSub l := by rw [ha]; rfl
  have hsrc : a.src = src := by rw [ha]; rfl
  rw [← ha] at ho hb hst hse ⊢
  have hrd : a.reads = true := by unfold Ask.reads; rw [hmsg', h6]; rfl
  rw [if_neg (by rw [hmsg', h6]; simp), hix, hsub, ho]
  simp only [hrd, h3.1, if_true]
  have : ¬ 448 < v.length := by omega
  rw [if_neg (by rw [hmsg', h6]; simp), if_neg (by simp [this])]
  obtain ⟨e, he⟩ := State.objectCause_entry ho
  have hbb : boolBad e a = false := by simpa [he] using hb
  unfold State.perform
  rw [he]
  simp only [hbb, hd, hst, hse]
  simp

/-- A chunk of an object that is staged, at the head of the queue (R433). -/
theorem State.cdpRow_chunk {s T : State} {src : Source} {l : List Byte} {rest : List (Source × List Byte)} {a : Ask} {mine : Mine}
    {act : State → Ask → Except Nat Done}
    (h1 : s.cdpRuns = true ∧ s.arrived = [] ∧ s.cdp.queue = (src, l) :: rest ∧ (cSession l = 0 ∨ (s.sessionOf src l).isSome = true))
    (h2 : cMsg l = 5 ∧ slotImage (cIndex l) (cSub l) = false ∧ T = Taken s rest ∧ a = T.askOf src l)
    (hm : mine 5 (cIndex l) (cSub l) = true) :
    s.cdpRow .head mine act = T.takeChunk l a act := by
  obtain ⟨hr, hq, hc, hs⟩ := h1
  obtain ⟨h6, h7, hT, ha⟩ := h2
  subst hT
  have hrow : s.cdpRow .head mine act = s.runHead mine act := by
    simp [State.cdpRow, hr, hq, State.pullRequests]
  have hses : ¬(cSession l ≠ 0 ∧ ((({ s with cdp := { s.cdp with queue := rest } } : State)).sessionOf src l).isNone = true) := by
    rintro ⟨a, b⟩
    rcases hs with h | h
    · exact a h
    · have : (({ s with cdp := { s.cdp with queue := rest } } : State)).sessionOf src l = s.sessionOf src l := rfl
      rw [this] at b
      cases hx : s.sessionOf src l <;> simp [hx] at h b
  rw [hrow]
  unfold State.runHead
  rw [hc]
  simp only [h6, hm, if_true]
  unfold State.execute
  rw [if_neg hses]
  have hT : (({ s with cdp := { s.cdp with queue := rest } } : State).count 0x9D00 0x01 1).deliverCdp (cIndex l) = Taken s rest := by simp [Taken, hc]
  simp only [hT]
  rw [← ha]
  have hmsg' : a.msg = cMsg l := by rw [ha]; rfl
  have hix : a.index = cIndex l := by rw [ha]; rfl
  have hsub : a.sub = cSub l := by rw [ha]; rfl
  rw [if_pos (by rw [hmsg', hix, hsub, h6, h7]; simp)]

/-- A request whose whole value the last chunk completes, and whose act succeeds, is answered with what the act leaves. -/
theorem Completed.runs {s T : State} {src : Source} {l : List Byte} {rest : List (Source × List Byte)} {a : Ask} {i u : Nat} {mine : Mine}
    {act : State → Ask → Except Nat Done} {d : Done} (h : Completed s src l rest i u T a) (hm : mine 5 i u = true) (hd : act T a = .ok d) :
    s.cdpRow .head mine act = d.answer l a := by
  obtain ⟨hr, hq, hc, hs, ⟨h5, hi, hu, himg, hlast⟩, ⟨hk, hroom, ho⟩, ⟨hT, ha, hoff, hlen⟩, hwhole, hb, hst, hse⟩ := h
  subst hi hu
  rw [State.cdpRow_chunk ⟨hr, hq, hc, hs⟩ ⟨h5, himg, rfl, rfl⟩ hm]
  have hv : a.value = (((Taken s rest).stagingOf src (cSession l)).map Staging.bytes).getD [] ++ cBody l := by rw [ha]
  obtain ⟨e, he'⟩ := State.objectCause_entry ho
  have he : a.entry = some e := by rw [ha]; exact he'
  have hbb : boolBad e a = false := by simpa [he] using hb
  have hbig : ¬ 262144 < ((((Taken s rest).stagingOf src (cSession l)).map Staging.bytes).getD [] ++ cBody l).length := by rw [← hv]; omega
  have hperf : T.perform l a act = d.answer l a := by
    unfold State.perform
    rw [he]
    simp only [hbb, hd, hst, hse]
    simp
  rw [← hperf, ha]
  rw [hv] at hwhole
  subst hT
  unfold State.takeChunk
  have e1 : ((Taken s rest).askOf src l).src = src := rfl
  have e2 : ((Taken s rest).askOf src l).sid = cSession l := rfl
  have e3 : ((Taken s rest).askOf src l).index = cIndex l := rfl
  have e4 : ((Taken s rest).askOf src l).sub = cSub l := rfl
  have e5 : ((Taken s rest).askOf src l).value = cBody l := rfl
  have e6 : ((Taken s rest).askOf src l).offset = cOffset l := rfl
  have e7 : ((Taken s rest).askOf src l).last = cLast l := rfl
  simp only [e1, e2, e3, e4, e5, e6, e7]
  cases hg : (Taken s rest).stagingOf src (cSession l) with
  | none =>
    rw [hg] at hroom hoff hbig hwhole
    have hroom' : ¬ 4 ≤ (Taken s rest).stagings := by simpa using hroom
    simp only [Option.map_none, Option.getD_none, List.nil_append] at hoff hbig hwhole
    simp only [hg, hroom', ho, Option.map_none, Option.getD_none, List.nil_append, hbig, hlast, hwhole]
    simp [hoff]
  | some g =>
    rw [hg] at hk hoff hbig hwhole
    simp at hk
    simp only [Option.map_some, Option.getD_some] at hoff hbig hwhole
    simp only [hk, if_true, hg, ho, Option.map_some, Option.getD_some, hbig, hlast, hwhole]
    simp [hoff]

end Sys2Proof
end

