-- ==== Sys2Proof/Laws/SessionKeeps.lean ====
section
/-! SUPPORT. What the operations of Machine/Session.lean keep: the queue, the form of the state and, where they store nothing, the memory. -/
set_option linter.all false
set_option Elab.async false
namespace Sys2Proof.Machine
section
variable {q : List Instr} {M : Memory → Prop} {C : Prop}

theorem actSessionOpen_kept (s : State) (a : Ask)  (h : Kept q M C s) : KeptAct q M C (actSessionOpen s a) := by
  unfold actSessionOpen
  try dsimp only
  repeat' first | with_reducible assumption | with_reducible apply KeptAct.ok | with_reducible exact KeptAct.error | with_reducible apply KeptAct.needs | with_reducible apply KeptAct.ite <;> intro _ | with_reducible apply State.count_kept | with_reducible apply State.logEvent_kept | with_reducible apply State.setSession_kept | with_reducible apply State.draw_kept | with_reducible refine State.draw_eq ‹_› ?_ | with_reducible apply Kept.ite <;> intro _ | simp only [Kept.upd] | split | intro _
theorem actSessionOpen_eq {s : State} {a : Ask} {d : Done} (he : actSessionOpen s a = .ok d) (h : Kept q M C s) : Kept q M C d.s := actSessionOpen_kept s a h d he

theorem execSessionOpen_kept (via : Via) (s : State)  (h : Kept q M C s) : KeptOut q M C (execSessionOpen via s) := by
  unfold execSessionOpen
  try dsimp only
  repeat' first | with_reducible assumption | with_reducible apply KeptOut.next | with_reducible apply KeptOut.ite <;> intro _ | with_reducible apply State.cdpRow_kept | with_reducible apply actSessionOpen_kept | with_reducible refine actSessionOpen_eq ‹_› ?_ | with_reducible apply Kept.ite <;> intro _ | simp only [Kept.upd] | split | intro _
theorem execSessionOpen_eq {via : Via} {s : State} {t' : State} (he : execSessionOpen via s = .next t') (h : Kept q M C s) : Kept q M C t' := execSessionOpen_kept via s h t' he

theorem actOpenReq_kept (s : State) (a : Ask)  (h : Kept q M C s) : KeptAct q M C (actOpenReq s a) := by
  unfold actOpenReq
  try dsimp only
  repeat' first | with_reducible assumption | with_reducible apply KeptAct.ok | with_reducible exact KeptAct.error | with_reducible apply KeptAct.needs | with_reducible apply KeptAct.ite <;> intro _ | with_reducible apply Kept.ite <;> intro _ | simp only [Kept.upd] | split | intro _
theorem actOpenReq_eq {s : State} {a : Ask} {d : Done} (he : actOpenReq s a = .ok d) (h : Kept q M C s) : Kept q M C d.s := actOpenReq_kept s a h d he

theorem actSessionClose_kept (s : State) (a1_ : Ask)  (h : Kept q M C s) : KeptAct q M C (actSessionClose s a1_) := by
  unfold actSessionClose
  try dsimp only
  repeat' first | with_reducible assumption | with_reducible apply KeptAct.ok | with_reducible exact KeptAct.error | with_reducible apply KeptAct.needs | with_reducible apply KeptAct.ite <;> intro _ | with_reducible apply Kept.ite <;> intro _ | simp only [Kept.upd] | split | intro _
theorem actSessionClose_eq {s : State} {a1_ : Ask} {d : Done} (he : actSessionClose s a1_ = .ok d) (h : Kept q M C s) : Kept q M C d.s := actSessionClose_kept s a1_ h d he

theorem execSessionClose_kept (via : Via) (s : State)  (h : Kept q M C s) : KeptOut q M C (execSessionClose via s) := by
  unfold execSessionClose
  try dsimp only
  repeat' first | with_reducible assumption | with_reducible apply KeptOut.next | with_reducible apply KeptOut.ite <;> intro _ | with_reducible apply State.cdpRow_kept | with_reducible apply actSessionClose_kept | with_reducible refine actSessionClose_eq ‹_› ?_ | with_reducible apply Kept.ite <;> intro _ | simp only [Kept.upd] | split | intro _
theorem execSessionClose_eq {via : Via} {s : State} {t' : State} (he : execSessionClose via s = .next t') (h : Kept q M C s) : Kept q M C t' := execSessionClose_kept via s h t' he

theorem execSessionIdleTimeout_kept (sid : Fin 65536) (s : State)  (h : Kept q M C s) : KeptOut q M C (execSessionIdleTimeout sid s) := by
  unfold execSessionIdleTimeout
  try dsimp only
  repeat' first | with_reducible assumption | with_reducible apply KeptOut.next | with_reducible apply KeptOut.ite <;> intro _ | with_reducible apply State.closeSession_kept | with_reducible apply Kept.ite <;> intro _ | simp only [Kept.upd] | split | intro _
theorem execSessionIdleTimeout_eq {sid : Fin 65536} {s : State} {t' : State} (he : execSessionIdleTimeout sid s = .next t') (h : Kept q M C s) : Kept q M C t' := execSessionIdleTimeout_kept sid s h t' he

theorem execStagingTimeout_kept (sid : Fin 65536) (s : State)  (h : Kept q M C s) : KeptOut q M C (execStagingTimeout sid s) := by
  unfold execStagingTimeout
  try dsimp only
  repeat' first | with_reducible assumption | with_reducible apply KeptOut.next | with_reducible apply KeptOut.ite <;> intro _ | with_reducible apply State.setSession_kept | with_reducible apply Kept.ite <;> intro _ | simp only [Kept.upd] | split | intro _
theorem execStagingTimeout_eq {sid : Fin 65536} {s : State} {t' : State} (he : execStagingTimeout sid s = .next t') (h : Kept q M C s) : Kept q M C t' := execStagingTimeout_kept sid s h t' he

theorem execMbDoorbell_kept (f : FnId) (value : BitVec 64) (s : State)  (h : Kept q M C s) : KeptOut q M C (execMbDoorbell f value s) := by
  unfold execMbDoorbell
  try dsimp only
  repeat' first | with_reducible assumption | with_reducible apply KeptOut.next | with_reducible apply KeptOut.ite <;> intro _ | with_reducible apply State.setFn_kept | with_reducible apply State.arrive_kept | with_reducible apply Kept.ite <;> intro _ | simp only [Kept.upd] | split | intro _
theorem execMbDoorbell_eq {f : FnId} {value : BitVec 64} {s : State} {t' : State} (he : execMbDoorbell f value s = .next t') (h : Kept q M C s) : Kept q M C t' := execMbDoorbell_kept f value s h t' he

theorem execMbAck_kept (f : FnId) (value : BitVec 64) (s : State)  (h : Kept q M C s) : KeptOut q M C (execMbAck f value s) := by
  unfold execMbAck
  try dsimp only
  repeat' first | with_reducible assumption | with_reducible apply KeptOut.next | with_reducible apply KeptOut.ite <;> intro _ | with_reducible apply State.setFn_kept | with_reducible apply State.emit_kept | with_reducible apply Kept.ite <;> intro _ | simp only [Kept.upd] | split | intro _
theorem execMbAck_eq {f : FnId} {value : BitVec 64} {s : State} {t' : State} (he : execMbAck f value s = .next t') (h : Kept q M C s) : Kept q M C t' := execMbAck_kept f value s h t' he

theorem State.deliverNote_kept (s : State) (dest_ : Source) (m : List Byte)  (h : Kept q M C s) : Kept q M C (State.deliverNote s dest_ m) := by
  unfold State.deliverNote
  try dsimp only
  repeat' first | with_reducible assumption | with_reducible apply State.setFn_kept | with_reducible apply State.emit_kept | with_reducible apply State.deliverReply_kept | with_reducible apply Kept.ite <;> intro _ | simp only [Kept.upd] | split | intro _

theorem State.sendNote_kept (s : State)  (h : Kept q M C s) : Kept q M C (State.sendNote s) := by
  unfold State.sendNote
  try dsimp only
  repeat' first | with_reducible assumption | with_reducible apply State.setSession_kept | with_reducible apply State.deliverNote_kept | with_reducible apply Kept.ite <;> intro _ | simp only [Kept.upd] | split | intro _

theorem execNotify_kept (received : Bool) (s : State)  (h : Kept q M C s) : KeptOut q M C (execNotify received s) := by
  unfold execNotify
  try dsimp only
  repeat' first | with_reducible assumption | with_reducible apply KeptOut.next | with_reducible apply KeptOut.ite <;> intro _ | with_reducible apply State.count_kept | with_reducible apply State.sendNote_kept | with_reducible apply Kept.ite <;> intro _ | simp only [Kept.upd] | split | intro _
theorem execNotify_eq {received : Bool} {s : State} {t' : State} (he : execNotify received s = .next t') (h : Kept q M C s) : Kept q M C t' := execNotify_kept received s h t' he

theorem actRelay_kept (s : State) (a : Ask)  (h : Kept q M C s) : KeptAct q M C (actRelay s a) := by
  unfold actRelay
  try dsimp only
  repeat' first | with_reducible assumption | with_reducible apply KeptAct.ok | with_reducible exact KeptAct.error | with_reducible apply KeptAct.needs | with_reducible apply KeptAct.ite <;> intro _ | with_reducible apply State.sendService_kept | with_reducible apply Kept.ite <;> intro _ | simp only [Kept.upd] | split | intro _
theorem actRelay_eq {s : State} {a : Ask} {d : Done} (he : actRelay s a = .ok d) (h : Kept q M C s) : Kept q M C d.s := actRelay_kept s a h d he

theorem execRelay_kept (via : Via) (s : State)  (h : Kept q M C s) : KeptOut q M C (execRelay via s) := by
  unfold execRelay
  try dsimp only
  repeat' first | with_reducible assumption | with_reducible apply KeptOut.next | with_reducible apply KeptOut.ite <;> intro _ | with_reducible apply State.cdpRow_kept | with_reducible apply actRelay_kept | with_reducible refine actRelay_eq ‹_› ?_ | with_reducible apply Kept.ite <;> intro _ | simp only [Kept.upd] | split | intro _
theorem execRelay_eq {via : Via} {s : State} {t' : State} (he : execRelay via s = .next t') (h : Kept q M C s) : Kept q M C t' := execRelay_kept via s h t' he

theorem execRelayReply_kept (s : State)  (h : Kept q M C s) : KeptOut q M C (execRelayReply s) := by
  unfold execRelayReply
  try dsimp only
  repeat' first | with_reducible assumption | with_reducible apply KeptOut.next | with_reducible apply KeptOut.ite <;> intro _ | with_reducible apply State.portEvent_kept | with_reducible refine State.takeArrived_eq ‹_› ?_ | with_reducible apply Kept.ite <;> intro _ | simp only [Kept.upd] | split | intro _
theorem execRelayReply_eq {s : State} {t' : State} (he : execRelayReply s = .next t') (h : Kept q M C s) : Kept q M C t' := execRelayReply_kept s h t' he

theorem actLogWindow_kept (s : State) (a : Ask)  (h : Kept q M C s) : KeptAct q M C (actLogWindow s a) := by
  unfold actLogWindow
  try dsimp only
  repeat' first | with_reducible assumption | with_reducible apply KeptAct.ok | with_reducible exact KeptAct.error | with_reducible apply KeptAct.needs | with_reducible apply KeptAct.ite <;> intro _ | with_reducible apply State.setSession_kept | with_reducible apply Kept.ite <;> intro _ | simp only [Kept.upd] | split | intro _
theorem actLogWindow_eq {s : State} {a : Ask} {d : Done} (he : actLogWindow s a = .ok d) (h : Kept q M C s) : Kept q M C d.s := actLogWindow_kept s a h d he

theorem execLogWindow_kept (via : Via) (s : State)  (h : Kept q M C s) : KeptOut q M C (execLogWindow via s) := by
  unfold execLogWindow
  try dsimp only
  repeat' first | with_reducible assumption | with_reducible apply KeptOut.next | with_reducible apply KeptOut.ite <;> intro _ | with_reducible apply State.cdpRow_kept | with_reducible apply actLogWindow_kept | with_reducible refine actLogWindow_eq ‹_› ?_ | with_reducible apply Kept.ite <;> intro _ | simp only [Kept.upd] | split | intro _
theorem execLogWindow_eq {via : Via} {s : State} {t' : State} (he : execLogWindow via s = .next t') (h : Kept q M C s) : Kept q M C t' := execLogWindow_kept via s h t' he

theorem actLogClear_kept (s : State) (a1_ : Ask)  (h : Kept q M C s) : KeptAct q M C (actLogClear s a1_) := by
  unfold actLogClear
  try dsimp only
  repeat' first | with_reducible assumption | with_reducible apply KeptAct.ok | with_reducible exact KeptAct.error | with_reducible apply KeptAct.needs | with_reducible apply KeptAct.ite <;> intro _ | with_reducible apply State.setCounter_kept | with_reducible apply Kept.ite <;> intro _ | simp only [Kept.upd] | split | intro _
theorem actLogClear_eq {s : State} {a1_ : Ask} {d : Done} (he : actLogClear s a1_ = .ok d) (h : Kept q M C s) : Kept q M C d.s := actLogClear_kept s a1_ h d he

theorem execLogClear_kept (via : Via) (s : State)  (h : Kept q M C s) : KeptOut q M C (execLogClear via s) := by
  unfold execLogClear
  try dsimp only
  repeat' first | with_reducible assumption | with_reducible apply KeptOut.next | with_reducible apply KeptOut.ite <;> intro _ | with_reducible apply State.cdpRow_kept | with_reducible apply actLogClear_kept | with_reducible refine actLogClear_eq ‹_› ?_ | with_reducible apply Kept.ite <;> intro _ | simp only [Kept.upd] | split | intro _
theorem execLogClear_eq {via : Via} {s : State} {t' : State} (he : execLogClear via s = .next t') (h : Kept q M C s) : Kept q M C t' := execLogClear_kept via s h t' he

theorem actClear_kept (s : State) (a : Ask)  (h : Kept q M C s) : KeptAct q M C (actClear s a) := by
  unfold actClear
  try dsimp only
  repeat' first | with_reducible assumption | with_reducible apply KeptAct.ok | with_reducible exact KeptAct.error | with_reducible apply KeptAct.needs | with_reducible apply KeptAct.ite <;> intro _ | with_reducible apply State.setPart_kept | with_reducible apply Kept.ite <;> intro _ | simp only [Kept.upd] | split | intro _
theorem actClear_eq {s : State} {a : Ask} {d : Done} (he : actClear s a = .ok d) (h : Kept q M C s) : Kept q M C d.s := actClear_kept s a h d he

theorem execClear_kept (via : Via) (s : State)  (h : Kept q M C s) : KeptOut q M C (execClear via s) := by
  unfold execClear
  try dsimp only
  repeat' first | with_reducible assumption | with_reducible apply KeptOut.next | with_reducible apply KeptOut.ite <;> intro _ | with_reducible apply State.cdpRow_kept | with_reducible apply actClear_kept | with_reducible refine actClear_eq ‹_› ?_ | with_reducible apply Kept.ite <;> intro _ | simp only [Kept.upd] | split | intro _
theorem execClear_eq {via : Via} {s : State} {t' : State} (he : execClear via s = .next t') (h : Kept q M C s) : Kept q M C t' := execClear_kept via s h t' he

end
end Sys2Proof.Machine
end

