-- ==== Sys2Proof/Laws/ManageKeeps.lean ====
section
/-! SUPPORT. What the operations of Machine/Manage.lean keep: the queue, the form of the state and, where they store nothing, the memory. -/
set_option linter.all false
set_option Elab.async false
namespace Sys2Proof.Machine
section
variable {q : List Instr} {M : Memory → Prop} {C : Prop}

theorem State.bumps_kept (s : State) (l : List (Nat × Nat))  (h : Kept q M C s) : Kept q M C (State.bumps s l) := by
  unfold State.bumps
  try dsimp only
  repeat' first | with_reducible assumption | with_reducible apply State.bump_kept | with_reducible apply Kept.ite <;> intro _ | with_reducible apply foldl_kept (fun _ _ _ => ?_) | simp only [Kept.upd] | split | intro _

theorem State.putWait_kept (s : State) (p : Nat) (index : Nat) (sub : Nat) (v : List Byte)  (h : Kept q M C s) : Kept q M C (State.putWait s p index sub v) := by
  unfold State.putWait
  try dsimp only
  repeat' first | with_reducible assumption | with_reducible apply State.setPart_kept | with_reducible apply Kept.ite <;> intro _ | simp only [Kept.upd] | split | intro _

theorem actSwitch_kept (s : State) (a : Ask)  (h : Kept q M C s) : KeptAct q M C (actSwitch s a) := by
  unfold actSwitch
  try dsimp only
  repeat' first | with_reducible assumption | with_reducible apply KeptAct.ok | with_reducible exact KeptAct.error | with_reducible apply KeptAct.needs | with_reducible apply KeptAct.ite <;> intro _ | with_reducible apply State.setPart_kept | with_reducible apply Kept.ite <;> intro _ | simp only [Kept.upd] | split | intro _
theorem actSwitch_eq {s : State} {a : Ask} {d : Done} (he : actSwitch s a = .ok d) (h : Kept q M C s) : Kept q M C d.s := actSwitch_kept s a h d he

theorem execSwitch_kept (via : Via) (s : State)  (h : Kept q M C s) : KeptOut q M C (execSwitch via s) := by
  unfold execSwitch
  try dsimp only
  repeat' first | with_reducible assumption | with_reducible apply KeptOut.next | with_reducible apply KeptOut.ite <;> intro _ | with_reducible apply State.cdpRow_kept | with_reducible apply actSwitch_kept | with_reducible refine actSwitch_eq ‹_› ?_ | with_reducible apply Kept.ite <;> intro _ | simp only [Kept.upd] | split | intro _
theorem execSwitch_eq {via : Via} {s : State} {t' : State} (he : execSwitch via s = .next t') (h : Kept q M C s) : Kept q M C t' := execSwitch_kept via s h t' he

theorem actCutDraining_kept (s : State) (a : Ask)  (h : Kept q M C s) : KeptAct q M C (actCutDraining s a) := by
  unfold actCutDraining
  try dsimp only
  repeat' first | with_reducible assumption | with_reducible apply KeptAct.ok | with_reducible exact KeptAct.error | with_reducible apply KeptAct.needs | with_reducible apply KeptAct.ite <;> intro _ | with_reducible apply State.setPart_kept | with_reducible apply Kept.ite <;> intro _ | simp only [Kept.upd] | split | intro _
theorem actCutDraining_eq {s : State} {a : Ask} {d : Done} (he : actCutDraining s a = .ok d) (h : Kept q M C s) : Kept q M C d.s := actCutDraining_kept s a h d he

theorem execCutDraining_kept (via : Via) (s : State)  (h : Kept q M C s) : KeptOut q M C (execCutDraining via s) := by
  unfold execCutDraining
  try dsimp only
  repeat' first | with_reducible assumption | with_reducible apply KeptOut.next | with_reducible apply KeptOut.ite <;> intro _ | with_reducible apply State.cdpRow_kept | with_reducible apply actCutDraining_kept | with_reducible refine actCutDraining_eq ‹_› ?_ | with_reducible apply Kept.ite <;> intro _ | simp only [Kept.upd] | split | intro _
theorem execCutDraining_eq {via : Via} {s : State} {t' : State} (he : execCutDraining via s = .next t') (h : Kept q M C s) : Kept q M C t' := execCutDraining_kept via s h t' he

theorem actCreate_kept (s : State) (a : Ask)  (h : Kept q M C s) : KeptAct q M C (actCreate s a) := by
  unfold actCreate
  try dsimp only
  repeat' first | with_reducible assumption | with_reducible apply KeptAct.ok | with_reducible exact KeptAct.error | with_reducible apply KeptAct.needs | with_reducible apply KeptAct.ite <;> intro _ | with_reducible apply State.setPart_kept | with_reducible apply State.setCounter_kept | with_reducible apply State.setObj_kept | with_reducible apply State.measure_kept | with_reducible apply Kept.ite <;> intro _ | with_reducible apply foldl_kept (fun _ _ _ => ?_) | simp only [Kept.upd] | split | intro _
theorem actCreate_eq {s : State} {a : Ask} {d : Done} (he : actCreate s a = .ok d) (h : Kept q M C s) : Kept q M C d.s := actCreate_kept s a h d he

theorem execCreate_kept (via : Via) (s : State)  (h : Kept q M C s) : KeptOut q M C (execCreate via s) := by
  unfold execCreate
  try dsimp only
  repeat' first | with_reducible assumption | with_reducible apply KeptOut.next | with_reducible apply KeptOut.ite <;> intro _ | with_reducible apply State.cdpRow_kept | with_reducible apply actCreate_kept | with_reducible refine actCreate_eq ‹_› ?_ | with_reducible apply Kept.ite <;> intro _ | simp only [Kept.upd] | split | intro _
theorem execCreate_eq {via : Via} {s : State} {t' : State} (he : execCreate via s = .next t') (h : Kept q M C s) : Kept q M C t' := execCreate_kept via s h t' he

theorem State.destroyPart_kept (s : State) (p : Nat)  (h : Kept q M C s) : Kept q M C (State.destroyPart s p) := by
  unfold State.destroyPart
  try dsimp only
  repeat' first | with_reducible assumption | with_reducible apply State.setPart_kept | with_reducible apply State.setObj_kept | with_reducible apply State.eraseHere_kept | with_reducible apply State.beginClear_kept | with_reducible apply State.beginClearChannel_kept | with_reducible apply Kept.ite <;> intro _ | with_reducible apply foldl_kept (fun _ _ _ => ?_) | simp only [Kept.upd] | split | intro _

theorem actDestroy_kept (s : State) (a : Ask)  (h : Kept q M C s) : KeptAct q M C (actDestroy s a) := by
  unfold actDestroy
  try dsimp only
  repeat' first | with_reducible assumption | with_reducible apply KeptAct.ok | with_reducible exact KeptAct.error | with_reducible apply KeptAct.needs | with_reducible apply KeptAct.ite <;> intro _ | with_reducible apply State.destroyPart_kept | with_reducible apply Kept.ite <;> intro _ | simp only [Kept.upd] | split | intro _
theorem actDestroy_eq {s : State} {a : Ask} {d : Done} (he : actDestroy s a = .ok d) (h : Kept q M C s) : Kept q M C d.s := actDestroy_kept s a h d he

theorem execDestroy_kept (via : Via) (s : State)  (h : Kept q M C s) : KeptOut q M C (execDestroy via s) := by
  unfold execDestroy
  try dsimp only
  repeat' first | with_reducible assumption | with_reducible apply KeptOut.next | with_reducible apply KeptOut.ite <;> intro _ | with_reducible apply State.cdpRow_kept | with_reducible apply actDestroy_kept | with_reducible refine actDestroy_eq ‹_› ?_ | with_reducible apply Kept.ite <;> intro _ | simp only [Kept.upd] | split | intro _
theorem execDestroy_eq {via : Via} {s : State} {t' : State} (he : execDestroy via s = .next t') (h : Kept q M C s) : Kept q M C t' := execDestroy_kept via s h t' he

theorem actAdmitted_kept (s : State) (a : Ask)  (h : Kept q M C s) : KeptAct q M C (actAdmitted s a) := by
  unfold actAdmitted
  try dsimp only
  repeat' first | with_reducible assumption | with_reducible apply KeptAct.ok | with_reducible exact KeptAct.error | with_reducible apply KeptAct.needs | with_reducible apply KeptAct.ite <;> intro _ | with_reducible apply State.putWait_kept | with_reducible apply Kept.ite <;> intro _ | simp only [Kept.upd] | split | intro _
theorem actAdmitted_eq {s : State} {a : Ask} {d : Done} (he : actAdmitted s a = .ok d) (h : Kept q M C s) : Kept q M C d.s := actAdmitted_kept s a h d he

theorem execAdmittedWrite_kept (via : Via) (s : State)  (h : Kept q M C s) : KeptOut q M C (execAdmittedWrite via s) := by
  unfold execAdmittedWrite
  try dsimp only
  repeat' first | with_reducible assumption | with_reducible apply KeptOut.next | with_reducible apply KeptOut.ite <;> intro _ | with_reducible apply State.cdpRow_kept | with_reducible apply actAdmitted_kept | with_reducible refine actAdmitted_eq ‹_› ?_ | with_reducible apply Kept.ite <;> intro _ | simp only [Kept.upd] | split | intro _
theorem execAdmittedWrite_eq {via : Via} {s : State} {t' : State} (he : execAdmittedWrite via s = .next t') (h : Kept q M C s) : Kept q M C t' := execAdmittedWrite_kept via s h t' he

theorem actQuoteNonce_kept (s : State) (a : Ask)  (h : Kept q M C s) : KeptAct q M C (actQuoteNonce s a) := by
  unfold actQuoteNonce
  try dsimp only
  repeat' first | with_reducible assumption | with_reducible apply KeptAct.ok | with_reducible exact KeptAct.error | with_reducible apply KeptAct.needs | with_reducible apply KeptAct.ite <;> intro _ | with_reducible apply State.setPart_kept | with_reducible apply Kept.ite <;> intro _ | simp only [Kept.upd] | split | intro _
theorem actQuoteNonce_eq {s : State} {a : Ask} {d : Done} (he : actQuoteNonce s a = .ok d) (h : Kept q M C s) : Kept q M C d.s := actQuoteNonce_kept s a h d he

theorem execQuoteNonce_kept (via : Via) (s : State)  (h : Kept q M C s) : KeptOut q M C (execQuoteNonce via s) := by
  unfold execQuoteNonce
  try dsimp only
  repeat' first | with_reducible assumption | with_reducible apply KeptOut.next | with_reducible apply KeptOut.ite <;> intro _ | with_reducible apply State.cdpRow_kept | with_reducible apply actQuoteNonce_kept | with_reducible refine actQuoteNonce_eq ‹_› ?_ | with_reducible apply Kept.ite <;> intro _ | simp only [Kept.upd] | split | intro _
theorem execQuoteNonce_eq {via : Via} {s : State} {t' : State} (he : execQuoteNonce via s = .next t') (h : Kept q M C s) : Kept q M C t' := execQuoteNonce_kept via s h t' he

theorem execQuoteFormed_kept (p : Fin 64) (s : State)  (h : Kept q M C s) : KeptOut q M C (execQuoteFormed p s) := by
  unfold execQuoteFormed
  try dsimp only
  repeat' first | with_reducible assumption | with_reducible apply KeptOut.next | with_reducible apply KeptOut.ite <;> intro _ | with_reducible apply State.setPart_kept | with_reducible apply State.logEvent_kept | with_reducible apply Kept.ite <;> intro _ | simp only [Kept.upd] | split | intro _
theorem execQuoteFormed_eq {p : Fin 64} {s : State} {t' : State} (he : execQuoteFormed p s = .next t') (h : Kept q M C s) : Kept q M C t' := execQuoteFormed_kept p s h t' he

theorem actEnrol_kept (s : State) (a : Ask)  (h : Kept q M C s) : KeptAct q M C (actEnrol s a) := by
  unfold actEnrol
  try dsimp only
  repeat' first | with_reducible assumption | with_reducible apply KeptAct.ok | with_reducible exact KeptAct.error | with_reducible apply KeptAct.needs | with_reducible apply KeptAct.ite <;> intro _ | with_reducible apply State.setTenant_kept | with_reducible apply Kept.ite <;> intro _ | simp only [Kept.upd] | split | intro _
theorem actEnrol_eq {s : State} {a : Ask} {d : Done} (he : actEnrol s a = .ok d) (h : Kept q M C s) : Kept q M C d.s := actEnrol_kept s a h d he

theorem execEnrol_kept (via : Via) (s : State)  (h : Kept q M C s) : KeptOut q M C (execEnrol via s) := by
  unfold execEnrol
  try dsimp only
  repeat' first | with_reducible assumption | with_reducible apply KeptOut.next | with_reducible apply KeptOut.ite <;> intro _ | with_reducible apply State.cdpRow_kept | with_reducible apply actEnrol_kept | with_reducible refine actEnrol_eq ‹_› ?_ | with_reducible apply Kept.ite <;> intro _ | simp only [Kept.upd] | split | intro _
theorem execEnrol_eq {via : Via} {s : State} {t' : State} (he : execEnrol via s = .next t') (h : Kept q M C s) : Kept q M C t' := execEnrol_kept via s h t' he

theorem State.stopRings_kept (s : State) (m : Nat)  (h : Kept q M C s) : Kept q M C (State.stopRings s m) := by
  unfold State.stopRings
  try dsimp only
  repeat' first | with_reducible assumption | with_reducible apply State.setFn_kept | with_reducible apply Kept.ite <;> intro _ | with_reducible apply foldl_kept (fun _ _ _ => ?_) | simp only [Kept.upd] | split | intro _

theorem actVfMap_kept (s : State) (a : Ask)  (h : Kept q M C s) : KeptAct q M C (actVfMap s a) := by
  unfold actVfMap
  try dsimp only
  repeat' first | with_reducible assumption | with_reducible apply KeptAct.ok | with_reducible exact KeptAct.error | with_reducible apply KeptAct.needs | with_reducible apply KeptAct.ite <;> intro _ | with_reducible apply State.setTenant_kept | with_reducible apply State.stopRings_kept | with_reducible apply Kept.ite <;> intro _ | simp only [Kept.upd] | split | intro _
theorem actVfMap_eq {s : State} {a : Ask} {d : Done} (he : actVfMap s a = .ok d) (h : Kept q M C s) : Kept q M C d.s := actVfMap_kept s a h d he

theorem execVfMapWrite_kept (via : Via) (s : State)  (h : Kept q M C s) : KeptOut q M C (execVfMapWrite via s) := by
  unfold execVfMapWrite
  try dsimp only
  repeat' first | with_reducible assumption | with_reducible apply KeptOut.next | with_reducible apply KeptOut.ite <;> intro _ | with_reducible apply State.cdpRow_kept | with_reducible apply actVfMap_kept | with_reducible refine actVfMap_eq ‹_› ?_ | with_reducible apply Kept.ite <;> intro _ | simp only [Kept.upd] | split | intro _
theorem execVfMapWrite_eq {via : Via} {s : State} {t' : State} (he : execVfMapWrite via s = .next t') (h : Kept q M C s) : Kept q M C t' := execVfMapWrite_kept via s h t' he

theorem actKeyLoad_kept (s : State) (a : Ask)  (h : Kept q M C s) : KeptAct q M C (actKeyLoad s a) := by
  unfold actKeyLoad
  try dsimp only
  repeat' first | with_reducible assumption | with_reducible apply KeptAct.ok | with_reducible exact KeptAct.error | with_reducible apply KeptAct.needs | with_reducible apply KeptAct.ite <;> intro _ | with_reducible apply State.setKey_kept | with_reducible apply State.logEvent_kept | with_reducible apply Kept.ite <;> intro _ | simp only [Kept.upd] | split | intro _
theorem actKeyLoad_eq {s : State} {a : Ask} {d : Done} (he : actKeyLoad s a = .ok d) (h : Kept q M C s) : Kept q M C d.s := actKeyLoad_kept s a h d he

theorem execKeyLoad_kept (via : Via) (s : State)  (h : Kept q M C s) : KeptOut q M C (execKeyLoad via s) := by
  unfold execKeyLoad
  try dsimp only
  repeat' first | with_reducible assumption | with_reducible apply KeptOut.next | with_reducible apply KeptOut.ite <;> intro _ | with_reducible apply State.cdpRow_kept | with_reducible apply actKeyLoad_kept | with_reducible refine actKeyLoad_eq ‹_› ?_ | with_reducible apply Kept.ite <;> intro _ | simp only [Kept.upd] | split | intro _
theorem execKeyLoad_eq {via : Via} {s : State} {t' : State} (he : execKeyLoad via s = .next t') (h : Kept q M C s) : Kept q M C t' := execKeyLoad_kept via s h t' he

theorem State.askErase_kept (s : State) (t : Nat) (i : Nat)  (h : Kept q M C s) : Kept q M C (State.askErase s t i) := by
  unfold State.askErase
  try dsimp only
  repeat' first | with_reducible assumption | with_reducible apply State.setPart_kept | with_reducible apply State.eraseKey_kept | with_reducible apply Kept.ite <;> intro _ | with_reducible apply foldl_kept (fun _ _ _ => ?_) | simp only [Kept.upd] | split | intro _

theorem actKeyErase_kept (s : State) (a : Ask)  (h : Kept q M C s) : KeptAct q M C (actKeyErase s a) := by
  unfold actKeyErase
  try dsimp only
  repeat' first | with_reducible assumption | with_reducible apply KeptAct.ok | with_reducible exact KeptAct.error | with_reducible apply KeptAct.needs | with_reducible apply KeptAct.ite <;> intro _ | with_reducible apply State.askErase_kept | with_reducible apply Kept.ite <;> intro _ | simp only [Kept.upd] | split | intro _
theorem actKeyErase_eq {s : State} {a : Ask} {d : Done} (he : actKeyErase s a = .ok d) (h : Kept q M C s) : Kept q M C d.s := actKeyErase_kept s a h d he

theorem execKeyErase_kept (via : Via) (s : State)  (h : Kept q M C s) : KeptOut q M C (execKeyErase via s) := by
  unfold execKeyErase
  try dsimp only
  repeat' first | with_reducible assumption | with_reducible apply KeptOut.next | with_reducible apply KeptOut.ite <;> intro _ | with_reducible apply State.cdpRow_kept | with_reducible apply actKeyErase_kept | with_reducible refine actKeyErase_eq ‹_› ?_ | with_reducible apply Kept.ite <;> intro _ | simp only [Kept.upd] | split | intro _
theorem execKeyErase_eq {via : Via} {s : State} {t' : State} (he : execKeyErase via s = .next t') (h : Kept q M C s) : Kept q M C t' := execKeyErase_kept via s h t' he

theorem State.beginTeardown_kept (s : State) (t : Nat)  (h : Kept q M C s) : Kept q M C (State.beginTeardown s t) := by
  unfold State.beginTeardown
  try dsimp only
  repeat' first | with_reducible assumption | with_reducible apply State.setPart_kept | with_reducible apply State.setRequest_kept | with_reducible apply State.setTenant_kept | with_reducible apply State.cancelRequest_kept | with_reducible apply State.closeSessions_kept | with_reducible apply State.stopRings_kept | with_reducible apply Kept.ite <;> intro _ | with_reducible apply foldl_kept (fun _ _ _ => ?_) | with_reducible apply foldl_kept_snd (fun _ _ _ => ?_) | with_reducible apply foldl_kept_fst (fun _ _ _ => ?_) | simp only [Kept.upd] | split | intro _

theorem actTeardown_kept (s : State) (a : Ask)  (h : Kept q M C s) : KeptAct q M C (actTeardown s a) := by
  unfold actTeardown
  try dsimp only
  repeat' first | with_reducible assumption | with_reducible apply KeptAct.ok | with_reducible exact KeptAct.error | with_reducible apply KeptAct.needs | with_reducible apply KeptAct.ite <;> intro _ | with_reducible apply State.beginTeardown_kept | with_reducible apply Kept.ite <;> intro _ | simp only [Kept.upd] | split | intro _
theorem actTeardown_eq {s : State} {a : Ask} {d : Done} (he : actTeardown s a = .ok d) (h : Kept q M C s) : Kept q M C d.s := actTeardown_kept s a h d he

theorem execTeardown_kept (via : Via) (s : State)  (h : Kept q M C s) : KeptOut q M C (execTeardown via s) := by
  unfold execTeardown
  try dsimp only
  repeat' first | with_reducible assumption | with_reducible apply KeptOut.next | with_reducible apply KeptOut.ite <;> intro _ | with_reducible apply State.cdpRow_kept | with_reducible apply actTeardown_kept | with_reducible refine actTeardown_eq ‹_› ?_ | with_reducible apply Kept.ite <;> intro _ | simp only [Kept.upd] | split | intro _
theorem execTeardown_eq {via : Via} {s : State} {t' : State} (he : execTeardown via s = .next t') (h : Kept q M C s) : Kept q M C t' := execTeardown_kept via s h t' he

theorem State.teardownStep_kept (s : State) (t : Nat)  (h : Kept q M C s) : Kept q M C (State.teardownStep s t) := by
  unfold State.teardownStep
  try dsimp only
  repeat' first | with_reducible assumption | with_reducible apply State.bumpWhere_kept | with_reducible apply State.setTenant_kept | with_reducible apply State.eraseKey_kept | with_reducible apply State.freeAlloc_kept | with_reducible apply State.tenantEnds_kept | with_reducible apply State.destroyPart_kept | with_reducible apply Kept.ite <;> intro _ | with_reducible apply foldl_kept (fun _ _ _ => ?_) | with_reducible apply foldl_kept_snd (fun _ _ _ => ?_) | with_reducible apply foldl_kept_fst (fun _ _ _ => ?_) | simp only [Kept.upd] | split | intro _

theorem actAllocAdd_kept (s : State) (a : Ask)  (h : Kept q M C s) : KeptAct q M C (actAllocAdd s a) := by
  unfold actAllocAdd
  try dsimp only
  repeat' first | with_reducible assumption | with_reducible apply KeptAct.ok | with_reducible exact KeptAct.error | with_reducible apply KeptAct.needs | with_reducible apply KeptAct.ite <;> intro _ | with_reducible apply State.bump_kept | with_reducible apply Kept.ite <;> intro _ | simp only [Kept.upd] | split | intro _
theorem actAllocAdd_eq {s : State} {a : Ask} {d : Done} (he : actAllocAdd s a = .ok d) (h : Kept q M C s) : Kept q M C d.s := actAllocAdd_kept s a h d he

theorem execAllocAdd_kept (via : Via) (s : State)  (h : Kept q M C s) : KeptOut q M C (execAllocAdd via s) := by
  unfold execAllocAdd
  try dsimp only
  repeat' first | with_reducible assumption | with_reducible apply KeptOut.next | with_reducible apply KeptOut.ite <;> intro _ | with_reducible apply State.cdpRow_kept | with_reducible apply actAllocAdd_kept | with_reducible refine actAllocAdd_eq ‹_› ?_ | with_reducible apply Kept.ite <;> intro _ | simp only [Kept.upd] | split | intro _
theorem execAllocAdd_eq {via : Via} {s : State} {t' : State} (he : execAllocAdd via s = .next t') (h : Kept q M C s) : Kept q M C t' := execAllocAdd_kept via s h t' he

theorem actAllocFree_kept (s : State) (a : Ask)  (h : Kept q M C s) : KeptAct q M C (actAllocFree s a) := by
  unfold actAllocFree
  try dsimp only
  repeat' first | with_reducible assumption | with_reducible apply KeptAct.ok | with_reducible exact KeptAct.error | with_reducible apply KeptAct.needs | with_reducible apply KeptAct.ite <;> intro _ | with_reducible apply State.freeAlloc_kept | with_reducible apply Kept.ite <;> intro _ | simp only [Kept.upd] | split | intro _
theorem actAllocFree_eq {s : State} {a : Ask} {d : Done} (he : actAllocFree s a = .ok d) (h : Kept q M C s) : Kept q M C d.s := actAllocFree_kept s a h d he

theorem execAllocFree_kept (via : Via) (s : State)  (h : Kept q M C s) : KeptOut q M C (execAllocFree via s) := by
  unfold execAllocFree
  try dsimp only
  repeat' first | with_reducible assumption | with_reducible apply KeptOut.next | with_reducible apply KeptOut.ite <;> intro _ | with_reducible apply State.cdpRow_kept | with_reducible apply actAllocFree_kept | with_reducible refine actAllocFree_eq ‹_› ?_ | with_reducible apply Kept.ite <;> intro _ | simp only [Kept.upd] | split | intro _
theorem execAllocFree_eq {via : Via} {s : State} {t' : State} (he : execAllocFree via s = .next t') (h : Kept q M C s) : Kept q M C t' := execAllocFree_kept via s h t' he

theorem actPcOwner_kept (s : State) (a : Ask)  (h : Kept q M C s) : KeptAct q M C (actPcOwner s a) := by
  unfold actPcOwner
  try dsimp only
  repeat' first | with_reducible assumption | with_reducible apply KeptAct.ok | with_reducible exact KeptAct.error | with_reducible apply KeptAct.needs | with_reducible apply KeptAct.ite <;> intro _ | with_reducible apply State.beginClearChannel_kept | with_reducible apply State.storeRaw_kept | with_reducible apply Kept.ite <;> intro _ | simp only [Kept.upd] | split | intro _
theorem actPcOwner_eq {s : State} {a : Ask} {d : Done} (he : actPcOwner s a = .ok d) (h : Kept q M C s) : Kept q M C d.s := actPcOwner_kept s a h d he

theorem execPcOwnerWrite_kept (via : Via) (s : State)  (h : Kept q M C s) : KeptOut q M C (execPcOwnerWrite via s) := by
  unfold execPcOwnerWrite
  try dsimp only
  repeat' first | with_reducible assumption | with_reducible apply KeptOut.next | with_reducible apply KeptOut.ite <;> intro _ | with_reducible apply State.cdpRow_kept | with_reducible apply actPcOwner_kept | with_reducible refine actPcOwner_eq ‹_› ?_ | with_reducible apply Kept.ite <;> intro _ | simp only [Kept.upd] | split | intro _
theorem execPcOwnerWrite_eq {via : Via} {s : State} {t' : State} (he : execPcOwnerWrite via s = .next t') (h : Kept q M C s) : Kept q M C t' := execPcOwnerWrite_kept via s h t' he

theorem State.refill_kept (s : State) (n : Nat) (t : Nat) (cls : Nat)  (h : Kept q M C s) : Kept q M C (State.refill s n t cls) := by
  unfold State.refill
  try dsimp only
  repeat' first | with_reducible assumption | with_reducible apply State.setTenant_kept | with_reducible apply State.count_kept | with_reducible apply Kept.ite <;> intro _ | simp only [Kept.upd] | split | intro _

theorem execBucketRefill_kept (s : State)  (h : Kept q M C s) : KeptOut q M C (execBucketRefill s) := by
  unfold execBucketRefill
  try dsimp only
  repeat' first | with_reducible assumption | with_reducible apply KeptOut.next | with_reducible apply KeptOut.ite <;> intro _ | with_reducible apply State.refill_kept | with_reducible apply Kept.ite <;> intro _ | with_reducible apply foldl_kept (fun _ _ _ => ?_) | with_reducible apply foldl_kept_snd (fun _ _ _ => ?_) | with_reducible apply foldl_kept_fst (fun _ _ _ => ?_) | simp only [Kept.upd] | split | intro _
theorem execBucketRefill_eq {s : State} {t' : State} (he : execBucketRefill s = .next t') (h : Kept q M C s) : Kept q M C t' := execBucketRefill_kept s h t' he

end
end Sys2Proof.Machine
end

