-- ==== Sys2Proof/Laws/RoadsKeeps.lean ====
section
/-! SUPPORT. What the operations of Machine/Roads.lean keep: the queue, the form of the state and, where they store nothing, the memory. -/
set_option linter.all false
set_option Elab.async false
namespace Sys2Proof.Machine
section
variable {q : List Instr} {M : Memory → Prop} {C : Prop}

theorem actRetrain_kept (s : State) (a : Ask)  (h : Kept q M C s) : KeptAct q M C (actRetrain s a) := by
  unfold actRetrain
  try dsimp only
  repeat' first | with_reducible assumption | with_reducible apply KeptAct.ok | with_reducible exact KeptAct.error | with_reducible apply KeptAct.needs | with_reducible apply KeptAct.ite <;> intro _ | with_reducible apply State.retrain_kept | with_reducible apply Kept.ite <;> intro _ | simp only [Kept.upd] | split | intro _
theorem actRetrain_eq {s : State} {a : Ask} {d : Done} (he : actRetrain s a = .ok d) (h : Kept q M C s) : Kept q M C d.s := actRetrain_kept s a h d he

theorem execRetrain_kept (via : Via) (s : State)  (h : Kept q M C s) : KeptOut q M C (execRetrain via s) := by
  unfold execRetrain
  try dsimp only
  repeat' first | with_reducible assumption | with_reducible apply KeptOut.next | with_reducible apply KeptOut.ite <;> intro _ | with_reducible apply State.cdpRow_kept | with_reducible apply actRetrain_kept | with_reducible refine actRetrain_eq ‹_› ?_ | with_reducible apply Kept.ite <;> intro _ | simp only [Kept.upd] | split | intro _
theorem execRetrain_eq {via : Via} {s : State} {t' : State} (he : execRetrain via s = .next t') (h : Kept q M C s) : Kept q M C t' := execRetrain_kept via s h t' he

theorem actLinkEnable_kept (s : State) (a : Ask)  (h : Kept q M C s) : KeptAct q M C (actLinkEnable s a) := by
  unfold actLinkEnable
  try dsimp only
  repeat' first | with_reducible assumption | with_reducible apply KeptAct.ok | with_reducible exact KeptAct.error | with_reducible apply KeptAct.needs | with_reducible apply KeptAct.ite <;> intro _ | with_reducible apply State.linkEnable_kept | with_reducible apply State.storeRaw_kept | with_reducible apply Kept.ite <;> intro _ | simp only [Kept.upd] | split | intro _
theorem actLinkEnable_eq {s : State} {a : Ask} {d : Done} (he : actLinkEnable s a = .ok d) (h : Kept q M C s) : Kept q M C d.s := actLinkEnable_kept s a h d he

theorem execLinkEnableWrite_kept (via : Via) (s : State)  (h : Kept q M C s) : KeptOut q M C (execLinkEnableWrite via s) := by
  unfold execLinkEnableWrite
  try dsimp only
  repeat' first | with_reducible assumption | with_reducible apply KeptOut.next | with_reducible apply KeptOut.ite <;> intro _ | with_reducible apply State.cdpRow_kept | with_reducible apply actLinkEnable_kept | with_reducible refine actLinkEnable_eq ‹_› ?_ | with_reducible apply Kept.ite <;> intro _ | simp only [Kept.upd] | split | intro _
theorem execLinkEnableWrite_eq {via : Via} {s : State} {t' : State} (he : execLinkEnableWrite via s = .next t') (h : Kept q M C s) : Kept q M C t' := execLinkEnableWrite_kept via s h t' he

theorem State.jobEvent_kept (s : State) (j : Nat) (code : Nat)  (h : Kept q M C s) : Kept q M C (State.jobEvent s j code) := by
  unfold State.jobEvent
  try dsimp only
  repeat' first | with_reducible assumption | with_reducible apply State.logEvent_kept | with_reducible apply Kept.ite <;> intro _ | simp only [Kept.upd] | split | intro _

theorem actOpen_kept (s : State) (a : Ask)  (h : Kept q M C s) : KeptAct q M C (actOpen s a) := by
  unfold actOpen
  try dsimp only
  repeat' first | with_reducible assumption | with_reducible apply KeptAct.ok | with_reducible exact KeptAct.error | with_reducible apply KeptAct.needs | with_reducible apply KeptAct.ite <;> intro _ | with_reducible apply State.setJob_kept | with_reducible apply State.jobEvent_kept | with_reducible apply Kept.ite <;> intro _ | simp only [Kept.upd] | split | intro _
theorem actOpen_eq {s : State} {a : Ask} {d : Done} (he : actOpen s a = .ok d) (h : Kept q M C s) : Kept q M C d.s := actOpen_kept s a h d he

theorem execOpenJob_kept (via : Via) (s : State)  (h : Kept q M C s) : KeptOut q M C (execOpenJob via s) := by
  unfold execOpenJob
  try dsimp only
  repeat' first | with_reducible assumption | with_reducible apply KeptOut.next | with_reducible apply KeptOut.ite <;> intro _ | with_reducible apply State.cdpRow_kept | with_reducible apply actOpen_kept | with_reducible refine actOpen_eq ‹_› ?_ | with_reducible apply Kept.ite <;> intro _ | simp only [Kept.upd] | split | intro _
theorem execOpenJob_eq {via : Via} {s : State} {t' : State} (he : execOpenJob via s = .next t') (h : Kept q M C s) : Kept q M C t' := execOpenJob_kept via s h t' he

theorem State.decideAlone_kept (s : State) (p : Nat)  (h : Kept q M C s) : Kept q M C (State.decideAlone s p) := by
  unfold State.decideAlone
  try dsimp only
  repeat' first | with_reducible assumption | with_reducible apply State.setEpisode_kept | with_reducible apply Kept.ite <;> intro _ | simp only [Kept.upd] | split | intro _

theorem actClose_kept (s : State) (a : Ask)  (h : Kept q M C s) : KeptAct q M C (actClose s a) := by
  unfold actClose
  try dsimp only
  repeat' first | with_reducible assumption | with_reducible apply KeptAct.ok | with_reducible exact KeptAct.error | with_reducible apply KeptAct.needs | with_reducible apply KeptAct.ite <;> intro _ | with_reducible apply State.closeJob_kept | with_reducible apply State.decideAlone_kept | with_reducible apply Kept.ite <;> intro _ | simp only [Kept.upd] | split | intro _
theorem actClose_eq {s : State} {a : Ask} {d : Done} (he : actClose s a = .ok d) (h : Kept q M C s) : Kept q M C d.s := actClose_kept s a h d he

theorem execClose_kept (via : Via) (s : State)  (h : Kept q M C s) : KeptOut q M C (execClose via s) := by
  unfold execClose
  try dsimp only
  repeat' first | with_reducible assumption | with_reducible apply KeptOut.next | with_reducible apply KeptOut.ite <;> intro _ | with_reducible apply State.cdpRow_kept | with_reducible apply actClose_kept | with_reducible refine actClose_eq ‹_› ?_ | with_reducible apply Kept.ite <;> intro _ | simp only [Kept.upd] | split | intro _
theorem execClose_eq {via : Via} {s : State} {t' : State} (he : execClose via s = .next t') (h : Kept q M C s) : Kept q M C t' := execClose_kept via s h t' he

theorem execCloseExpiry_kept (j : Fin 64) (s : State)  (h : Kept q M C s) : KeptOut q M C (execCloseExpiry j s) := by
  unfold execCloseExpiry
  try dsimp only
  repeat' first | with_reducible assumption | with_reducible apply KeptOut.next | with_reducible apply KeptOut.ite <;> intro _ | with_reducible apply State.setJob_kept | with_reducible apply State.jobEvent_kept | with_reducible apply Kept.ite <;> intro _ | simp only [Kept.upd] | split | intro _
theorem execCloseExpiry_eq {j : Fin 64} {s : State} {t' : State} (he : execCloseExpiry j s = .next t') (h : Kept q M C s) : Kept q M C t' := execCloseExpiry_kept j s h t' he

end
end Sys2Proof.Machine
end

