-- ==== Sys2Proof/Laws/TimeKeeps.lean ====
section
/-! SUPPORT. What the operations of Machine/Time.lean keep: the queue, the form of the state and, where they store nothing, the memory. -/
set_option linter.all false
set_option Elab.async false
namespace Sys2Proof.Machine
section
variable {q : List Instr} {M : Memory → Prop} {C : Prop}

theorem State.moveTimers_kept (s : State) (d : Int)  (h : Kept q M C s) : Kept q M C (State.moveTimers s d) := by
  unfold State.moveTimers
  try dsimp only
  repeat' first | with_reducible assumption | with_reducible apply Kept.ite <;> intro _ | simp only [Kept.upd] | split | intro _

theorem State.moveAll_kept (s : State) (d : Int)  (h : Kept q M C s) : Kept q M C (State.moveAll s d) := by
  unfold State.moveAll
  try dsimp only
  repeat' first | with_reducible assumption | with_reducible apply State.moveTimers_kept | with_reducible apply Kept.ite <;> intro _ | simp only [Kept.upd] | split | intro _

theorem execDroop_kept (d : Fin 16) (setting : Fin 16) (s : State)  (h : Kept q M C s) : KeptOut q M C (execDroop d setting s) := by
  unfold execDroop
  try dsimp only
  repeat' first | with_reducible assumption | with_reducible apply KeptOut.next | with_reducible apply KeptOut.ite <;> intro _ | with_reducible apply State.bump_kept | with_reducible apply State.setDistrict_kept | with_reducible apply State.count_kept | with_reducible apply Kept.ite <;> intro _ | simp only [Kept.upd] | split | intro _
theorem execDroop_eq {d : Fin 16} {setting : Fin 16} {s : State} {t' : State} (he : execDroop d setting s = .next t') (h : Kept q M C s) : Kept q M C t' := execDroop_kept d setting s h t' he

theorem execOscillatorRecovery_kept (d : Fin 16) (s : State)  (h : Kept q M C s) : KeptOut q M C (execOscillatorRecovery d s) := by
  unfold execOscillatorRecovery
  try dsimp only
  repeat' first | with_reducible assumption | with_reducible apply KeptOut.next | with_reducible apply KeptOut.ite <;> intro _ | with_reducible apply State.bump_kept | with_reducible apply State.setDistrict_kept | with_reducible apply Kept.ite <;> intro _ | simp only [Kept.upd] | split | intro _
theorem execOscillatorRecovery_eq {d : Fin 16} {s : State} {t' : State} (he : execOscillatorRecovery d s = .next t') (h : Kept q M C s) : Kept q M C t' := execOscillatorRecovery_kept d s h t' he

theorem State.alignCopies_kept (s : State)  (h : Kept q M C s) : Kept q M C (State.alignCopies s) := by
  unfold State.alignCopies
  try dsimp only
  repeat' first | with_reducible assumption | with_reducible apply Kept.ite <;> intro _ | with_reducible apply foldl_kept (fun _ _ _ => ?_) | with_reducible apply foldl_kept_snd (fun _ _ _ => ?_) | with_reducible apply foldl_kept_fst (fun _ _ _ => ?_) | simp only [Kept.upd] | split | intro _

theorem execTimePulse_kept (s : State)  (h : Kept q M C s) : KeptOut q M C (execTimePulse s) := by
  unfold execTimePulse
  try dsimp only
  repeat' first | with_reducible assumption | with_reducible apply KeptOut.next | with_reducible apply KeptOut.ite <;> intro _ | with_reducible apply State.alignCopies_kept | with_reducible apply Kept.ite <;> intro _ | simp only [Kept.upd] | split | intro _
theorem execTimePulse_eq {s : State} {t' : State} (he : execTimePulse s = .next t') (h : Kept q M C s) : Kept q M C t' := execTimePulse_kept s h t' he

theorem State.sendStamp_kept (s : State) (n : Nat)  (h : Kept q M C s) : Kept q M C (State.sendStamp s n) := by
  unfold State.sendStamp
  try dsimp only
  repeat' first | with_reducible assumption | with_reducible apply State.sendPartner_kept | with_reducible apply Kept.ite <;> intro _ | simp only [Kept.upd] | split | intro _

theorem execStampedCodeword_kept (n : Fin 6) (s : State)  (h : Kept q M C s) : KeptOut q M C (execStampedCodeword n s) := by
  unfold execStampedCodeword
  try dsimp only
  repeat' first | with_reducible assumption | with_reducible apply KeptOut.next | with_reducible apply KeptOut.ite <;> intro _ | with_reducible apply State.setPort_kept | with_reducible apply State.sendStamp_kept | with_reducible apply Kept.ite <;> intro _ | simp only [Kept.upd] | split | intro _
theorem execStampedCodeword_eq {n : Fin 6} {s : State} {t' : State} (he : execStampedCodeword n s = .next t') (h : Kept q M C s) : Kept q M C t' := execStampedCodeword_kept n s h t' he

theorem State.timeTo_kept (s : State) (m : TimeMode) (theta : Int)  (h : Kept q M C s) : Kept q M C (State.timeTo s m theta) := by
  unfold State.timeTo
  try dsimp only
  repeat' first | with_reducible assumption | with_reducible apply State.bump_kept | with_reducible apply State.logEvent_kept | with_reducible apply Kept.ite <;> intro _ | simp only [Kept.upd] | split | intro _

theorem State.publishOffset_kept (s : State) (n : Nat) (num : Int)  (h : Kept q M C s) : Kept q M C (State.publishOffset s n num).2 := by
  unfold State.publishOffset
  try dsimp only
  repeat' first | with_reducible assumption | with_reducible apply State.setObj_kept | with_reducible apply State.draw_kept | with_reducible refine State.draw_eq ‹_› ?_ | with_reducible apply Kept.ite <;> intro _ | simp only [Kept.upd] | split | intro _
theorem State.publishOffset_eq {s : State} {n : Nat} {num : Int} {y' : _} {t' : State} (he : State.publishOffset s n num = (y', t')) (h : Kept q M C s) : Kept q M C t' := by
  have k := State.publishOffset_kept s n num h
  rwa [he] at k

theorem State.slew_kept (s : State) (num : Int)  (h : Kept q M C s) : Kept q M C (State.slew s num) := by
  unfold State.slew
  try dsimp only
  repeat' first | with_reducible assumption | with_reducible apply State.bump_kept | with_reducible apply State.draw_kept | with_reducible refine State.draw_eq ‹_› ?_ | with_reducible apply Kept.ite <;> intro _ | simp only [Kept.upd] | split | intro _

theorem State.exchange_kept (s : State) (num : Int) (theta : Int)  (h : Kept q M C s) : Kept q M C (State.exchange s num theta) := by
  unfold State.exchange
  try dsimp only
  repeat' first | with_reducible assumption | with_reducible apply State.timeTo_kept | with_reducible apply State.slew_kept | with_reducible apply Kept.ite <;> intro _ | simp only [Kept.upd] | split | intro _

theorem execTimestamp_kept (s : State)  (h : Kept q M C s) : KeptOut q M C (execTimestamp s) := by
  unfold execTimestamp
  try dsimp only
  repeat' first | with_reducible assumption | with_reducible apply KeptOut.next | with_reducible apply KeptOut.ite <;> intro _ | with_reducible apply State.countLog_kept | with_reducible apply State.exchange_kept | with_reducible apply State.publishOffset_kept | with_reducible refine State.publishOffset_eq ‹_› ?_ | with_reducible apply Kept.ite <;> intro _ | simp only [Kept.upd] | split | intro _
theorem execTimestamp_eq {s : State} {t' : State} (he : execTimestamp s = .next t') (h : Kept q M C s) : Kept q M C t' := execTimestamp_kept s h t' he

theorem actTimeParent_kept (s : State) (a : Ask)  (h : Kept q M C s) : KeptAct q M C (actTimeParent s a) := by
  unfold actTimeParent
  try dsimp only
  repeat' first | with_reducible assumption | with_reducible apply KeptAct.ok | with_reducible exact KeptAct.error | with_reducible apply KeptAct.needs | with_reducible apply KeptAct.ite <;> intro _ | with_reducible apply State.storeRaw_kept | with_reducible apply State.timeTo_kept | with_reducible apply Kept.ite <;> intro _ | simp only [Kept.upd] | split | intro _
theorem actTimeParent_eq {s : State} {a : Ask} {d : Done} (he : actTimeParent s a = .ok d) (h : Kept q M C s) : Kept q M C d.s := actTimeParent_kept s a h d he

theorem execTimeParentWrite_kept (via : Via) (s : State)  (h : Kept q M C s) : KeptOut q M C (execTimeParentWrite via s) := by
  unfold execTimeParentWrite
  try dsimp only
  repeat' first | with_reducible assumption | with_reducible apply KeptOut.next | with_reducible apply KeptOut.ite <;> intro _ | with_reducible apply State.cdpRow_kept | with_reducible apply actTimeParent_kept | with_reducible refine actTimeParent_eq ‹_› ?_ | with_reducible apply Kept.ite <;> intro _ | simp only [Kept.upd] | split | intro _
theorem execTimeParentWrite_eq {via : Via} {s : State} {t' : State} (he : execTimeParentWrite via s = .next t') (h : Kept q M C s) : Kept q M C t' := execTimeParentWrite_kept via s h t' he

theorem execHoldoverEntry_kept (s : State)  (h : Kept q M C s) : KeptOut q M C (execHoldoverEntry s) := by
  unfold execHoldoverEntry
  try dsimp only
  repeat' first | with_reducible assumption | with_reducible apply KeptOut.next | with_reducible apply KeptOut.ite <;> intro _ | with_reducible apply State.count_kept | with_reducible apply State.timeTo_kept | with_reducible apply Kept.ite <;> intro _ | simp only [Kept.upd] | split | intro _
theorem execHoldoverEntry_eq {s : State} {t' : State} (he : execHoldoverEntry s = .next t') (h : Kept q M C s) : Kept q M C t' := execHoldoverEntry_kept s h t' he

theorem execHoldoverLimitExpiry_kept (s : State)  (h : Kept q M C s) : KeptOut q M C (execHoldoverLimitExpiry s) := by
  unfold execHoldoverLimitExpiry
  try dsimp only
  repeat' first | with_reducible assumption | with_reducible apply KeptOut.next | with_reducible apply KeptOut.ite <;> intro _ | with_reducible apply State.timeTo_kept | with_reducible apply Kept.ite <;> intro _ | simp only [Kept.upd] | split | intro _
theorem execHoldoverLimitExpiry_eq {s : State} {t' : State} (he : execHoldoverLimitExpiry s = .next t') (h : Kept q M C s) : Kept q M C t' := execHoldoverLimitExpiry_kept s h t' he

theorem execTimeStep_kept (s : State)  (h : Kept q M C s) : KeptOut q M C (execTimeStep s) := by
  unfold execTimeStep
  try dsimp only
  repeat' first | with_reducible assumption | with_reducible apply KeptOut.next | with_reducible apply KeptOut.ite <;> intro _ | with_reducible apply State.countLog_kept | with_reducible apply State.moveAll_kept | with_reducible apply State.alignCopies_kept | with_reducible apply Kept.ite <;> intro _ | simp only [Kept.upd] | split | intro _
theorem execTimeStep_eq {s : State} {t' : State} (he : execTimeStep s = .next t') (h : Kept q M C s) : Kept q M C t' := execTimeStep_kept s h t' he

theorem actUtcSet_kept (s : State) (a : Ask)  (h : Kept q M C s) : KeptAct q M C (actUtcSet s a) := by
  unfold actUtcSet
  try dsimp only
  repeat' first | with_reducible assumption | with_reducible apply KeptAct.ok | with_reducible exact KeptAct.error | with_reducible apply KeptAct.needs | with_reducible apply KeptAct.ite <;> intro _ | with_reducible apply State.bumpWhere_kept | with_reducible apply State.logEvent_kept | with_reducible apply Kept.ite <;> intro _ | simp only [Kept.upd] | split | intro _
theorem actUtcSet_eq {s : State} {a : Ask} {d : Done} (he : actUtcSet s a = .ok d) (h : Kept q M C s) : Kept q M C d.s := actUtcSet_kept s a h d he

theorem execUtcSet_kept (via : Via) (s : State)  (h : Kept q M C s) : KeptOut q M C (execUtcSet via s) := by
  unfold execUtcSet
  try dsimp only
  repeat' first | with_reducible assumption | with_reducible apply KeptOut.next | with_reducible apply KeptOut.ite <;> intro _ | with_reducible apply State.cdpRow_kept | with_reducible apply actUtcSet_kept | with_reducible refine actUtcSet_eq ‹_› ?_ | with_reducible apply Kept.ite <;> intro _ | simp only [Kept.upd] | split | intro _
theorem execUtcSet_eq {via : Via} {s : State} {t' : State} (he : execUtcSet via s = .next t') (h : Kept q M C s) : Kept q M C t' := execUtcSet_kept via s h t' he

end
end Sys2Proof.Machine
end

