-- ==== Sys2Proof/Laws/HostPortKeeps.lean ====
section
/-! SUPPORT. What the operations of Machine/HostPort.lean keep: the queue, the form of the state and, where they store nothing, the memory. -/
set_option linter.all false
set_option Elab.async false
namespace Sys2Proof.Machine
section
variable {q : List Instr} {M : Memory → Prop} {C : Prop}

theorem State.resetFn_kept (s : State) (f : FnId)  (h : Kept q M C s) : Kept q M C (State.resetFn s f) := by
  unfold State.resetFn
  try dsimp only
  repeat' first | with_reducible assumption | with_reducible apply State.setFn_kept | with_reducible apply State.closeSources_kept | with_reducible apply Kept.ite <;> intro _ | simp only [Kept.upd] | split | intro _

theorem execFlr_kept (f : FnId) (s : State)  (h : Kept q M C s) : KeptOut q M C (execFlr f s) := by
  unfold execFlr
  try dsimp only
  repeat' first | with_reducible assumption | with_reducible apply KeptOut.next | with_reducible apply KeptOut.ite <;> intro _ | with_reducible apply State.resetFn_kept | with_reducible apply Kept.ite <;> intro _ | simp only [Kept.upd] | split | intro _
theorem execFlr_eq {f : FnId} {s : State} {t' : State} (he : execFlr f s = .next t') (h : Kept q M C s) : Kept q M C t' := execFlr_kept f s h t' he

theorem State.failBehind_kept (s : State) (tier : Nat) (port : Nat)  (h : Kept q M C s) : Kept q M C (State.failBehind s tier port) := by
  unfold State.failBehind
  try dsimp only
  repeat' first | with_reducible assumption | with_reducible apply State.failOp_kept | with_reducible apply State.portFault_kept | with_reducible apply Kept.ite <;> intro _ | with_reducible apply foldl_kept (fun _ _ _ => ?_) | with_reducible apply foldl_kept_snd (fun _ _ _ => ?_) | with_reducible apply foldl_kept_fst (fun _ _ _ => ?_) | simp only [Kept.upd] | split | intro _

theorem execPerstN_kept (h1 : Fin 2) (s : State)  (h : Kept q M C s) : KeptOut q M C (execPerstN h1 s) := by
  unfold execPerstN
  try dsimp only
  repeat' first | with_reducible assumption | with_reducible apply KeptOut.next | with_reducible apply KeptOut.ite <;> intro _ | with_reducible apply State.bumps_kept | with_reducible apply State.resetFn_kept | with_reducible apply State.failBehind_kept | with_reducible apply Kept.ite <;> intro _ | with_reducible apply foldl_kept (fun _ _ _ => ?_) | simp only [Kept.upd] | split | intro _
theorem execPerstN_eq {h1 : Fin 2} {s : State} {t' : State} (he : execPerstN h1 s = .next t') (h : Kept q M C s) : Kept q M C t' := execPerstN_kept h1 s h t' he

theorem execPcieLinkUp_kept (h1 : Fin 2) (rate : Nat) (width : Nat) (s : State)  (h : Kept q M C s) : KeptOut q M C (execPcieLinkUp h1 rate width s) := by
  unfold execPcieLinkUp
  try dsimp only
  repeat' first | with_reducible assumption | with_reducible apply KeptOut.next | with_reducible apply KeptOut.ite <;> intro _ | with_reducible apply State.bumps_kept | with_reducible apply Kept.ite <;> intro _ | simp only [Kept.upd] | split | intro _
theorem execPcieLinkUp_eq {h1 : Fin 2} {rate : Nat} {width : Nat} {s : State} {t' : State} (he : execPcieLinkUp h1 rate width s = .next t') (h : Kept q M C s) : Kept q M C t' := execPcieLinkUp_kept h1 rate width s h t' he

theorem execCxlLinkDrop_kept (n : Fin 4) (s : State)  (h : Kept q M C s) : KeptOut q M C (execCxlLinkDrop n s) := by
  unfold execCxlLinkDrop
  try dsimp only
  repeat' first | with_reducible assumption | with_reducible apply KeptOut.next | with_reducible apply KeptOut.ite <;> intro _ | with_reducible apply State.setObj_kept | with_reducible apply State.logEvent_kept | with_reducible apply State.failBehind_kept | with_reducible apply Kept.ite <;> intro _ | simp only [Kept.upd] | split | intro _
theorem execCxlLinkDrop_eq {n : Fin 4} {s : State} {t' : State} (he : execCxlLinkDrop n s = .next t') (h : Kept q M C s) : Kept q M C t' := execCxlLinkDrop_kept n s h t' he

theorem State.misuse_kept (s : State) (f : FnId) (a : Access)  (h : Kept q M C s) : Kept q M C (State.misuse s f a) := by
  unfold State.misuse
  try dsimp only
  repeat' first | with_reducible assumption | with_reducible apply State.emit_kept | with_reducible apply State.countLog_kept | with_reducible apply Kept.ite <;> intro _ | simp only [Kept.upd] | split | intro _

theorem baseBits_ok (v : Nat) : (BitVec.ofNat 64 (place 30 26 (v / 2 ^ 30))).toNat % 2 ^ 30 = 0 ∧ (BitVec.ofNat 64 (place 30 26 (v / 2 ^ 30))).toNat < 2 ^ 56 := by
  simp only [place, BitVec.toNat_ofNat]
  omega

theorem State.writeReg_kept (s : State) (f : FnId) (offset : Nat) (v : Nat) (h : Kept q M C s) :
    ∀ o, State.writeReg s f offset v = some o → KeptOut q M C o := by
  have hb := baseBits_ok v
  unfold State.writeReg
  (try dsimp only) <;> repeat' first | with_reducible assumption | with_reducible apply State.setWindow_kept | with_reducible apply State.setFn_kept | with_reducible apply State.writeRingCtrl_kept | with_reducible apply execComplHead_kept | with_reducible refine execComplHead_eq ‹_› ?_ | with_reducible apply execIntakeTail_kept | with_reducible refine execIntakeTail_eq ‹_› ?_ | with_reducible apply execMbDoorbell_kept | with_reducible refine execMbDoorbell_eq ‹_› ?_ | with_reducible apply execMbAck_kept | with_reducible refine execMbAck_eq ‹_› ?_ | with_reducible apply Kept.ite <;> intro _ | simp only [Kept.upd] | split | rintro _ ⟨⟩ | dsimp only | intro _
  exact ⟨hb.1, hb.2, (State.window_ok f.port.val (h.2.2 (by assumption))).2.2⟩

theorem State.writeReg_eq {s : State} {f : FnId} {offset : Nat} {v : Nat} {o : _} (he : State.writeReg s f offset v = some o) (h : Kept q M C s) : KeptOut q M C o :=
  State.writeReg_kept s f offset v h o he

theorem State.areaAccess_kept (s : State) (f : FnId) (a : Access)  (h : Kept q M C s) : Kept q M C (State.areaAccess s f a) := by
  unfold State.areaAccess
  try dsimp only
  repeat' first | with_reducible assumption | with_reducible apply State.setFn_kept | with_reducible apply State.emit_kept | with_reducible apply State.misuse_kept | with_reducible apply Kept.ite <;> intro _ | with_reducible apply foldl_kept (fun _ _ _ => ?_) | simp only [Kept.upd] | split | intro _

theorem execBarMisuse_kept (f : FnId) (a : Access) (s : State)  (h : Kept q M C s) : KeptOut q M C (execBarMisuse f a s) := by
  unfold execBarMisuse
  try dsimp only
  repeat' first | with_reducible assumption | with_reducible apply KeptOut.next | with_reducible apply KeptOut.ite <;> intro _ | with_reducible apply State.emit_kept | with_reducible apply State.misuse_kept | with_reducible apply State.areaAccess_kept | with_reducible apply State.draw_kept | with_reducible refine State.draw_eq ‹_› ?_ | with_reducible refine State.writeReg_eq ‹_› ?_ | with_reducible apply Kept.ite <;> intro _ | simp only [Kept.upd] | split | intro _
theorem execBarMisuse_eq {f : FnId} {a : Access} {s : State} {t' : State} (he : execBarMisuse f a s = .next t') (h : Kept q M C s) : Kept q M C t' := execBarMisuse_kept f a s h t' he

theorem State.windowRefuse_kept (s : State) (i : Nat) (read : Bool) (h : Kept q M C s) : Kept q M C (s.windowRefuse i read) := by
  have := State.setWindow_kept s i { s.window i with refused := ((s.window i).refused + 1) % 2 ^ 48 }
    (fun c => ⟨(State.window_ok i (h.2.2 c)).1, (State.window_ok i (h.2.2 c)).2.1, Nat.mod_lt _ (by decide)⟩) h
  unfold State.windowRefuse
  split
  · exact State.emit_kept _ _ this
  · exact this

theorem State.windowRead_kept (s : State) (l : List Nat) (skip : Nat) (n : Nat)  (h : Kept q M C s) : Kept q M C (State.windowRead s l skip n) := by
  unfold State.windowRead
  try dsimp only
  repeat' first | with_reducible assumption | with_reducible apply State.emit_kept | with_reducible apply State.countLog_kept | with_reducible apply State.mended0_kept | with_reducible apply State.mendedTier_kept | with_reducible apply Kept.ite <;> intro _ | simp only [Kept.upd] | split | intro _

theorem execWindowAccess_kept (h1 : Fin 2) (offset : BitVec 36) (a : WindowOp) (s : State)  (h : Kept q Any C s) : KeptOut q Any C (execWindowAccess h1 offset a s) := by
  unfold execWindowAccess
  try dsimp only
  repeat' first | with_reducible assumption | with_reducible apply KeptOut.next | with_reducible apply KeptOut.ite <;> intro _ | with_reducible apply State.emit_kept | with_reducible apply State.writeWords_kept | with_reducible apply State.noteSlow_kept | with_reducible apply State.portFault_kept | with_reducible apply State.windowRefuse_kept | with_reducible apply State.windowRead_kept | with_reducible apply Kept.ite <;> intro _ | simp only [Kept.upd] | split | intro _
theorem execWindowAccess_eq {h1 : Fin 2} {offset : BitVec 36} {a : WindowOp} {s : State} {t' : State} (he : execWindowAccess h1 offset a s = .next t') (h : Kept q Any C s) : Kept q Any C t' := execWindowAccess_kept h1 offset a s h t' he

theorem State.pcieFails_kept (s : State) (h1 : Nat) (c : Status) (y0 : PcieVictim)  (h : Kept q M C s) : Kept q M C (State.pcieFails s h1 c y0) := by
  unfold State.pcieFails
  try dsimp only
  repeat' first | with_reducible assumption | with_reducible apply State.setFn_kept | with_reducible apply State.failOp_kept | with_reducible apply State.close_kept | with_reducible apply State.setMoved_kept | with_reducible apply Kept.ite <;> intro _ | simp only [Kept.upd] | split | intro _

theorem execPcieError_kept (h1 : Fin 2) (err : PcieError) (hit : PcieVictim) (s : State)  (h : Kept q M C s) : KeptOut q M C (execPcieError h1 err hit s) := by
  unfold execPcieError
  try dsimp only
  repeat' first | with_reducible assumption | with_reducible apply KeptOut.next | with_reducible apply KeptOut.ite <;> intro _ | with_reducible exact KeptOut.fault | with_reducible exact KeptOut.refused | with_reducible apply State.countLog_kept | with_reducible apply State.pcieFails_kept | with_reducible apply Kept.ite <;> intro _ | simp only [Kept.upd] | split | intro _
theorem execPcieError_eq {h1 : Fin 2} {err : PcieError} {hit : PcieVictim} {s : State} {t' : State} (he : execPcieError h1 err hit s = .next t') (h : Kept q M C s) : Kept q M C t' := execPcieError_kept h1 err hit s h t' he

end
end Sys2Proof.Machine
end

