-- ==== Sys2Proof/Laws/StorageKeeps.lean ====
section
/-! SUPPORT. What the operations of Machine/Storage.lean keep: the queue, the form of the state and, where they store nothing, the memory. -/
set_option linter.all false
set_option Elab.async false
namespace Sys2Proof.Machine
section
variable {q : List Instr} {M : Memory → Prop} {C : Prop}

theorem execEthLinkUp_kept (e : Fin 2) (s : State)  (h : Kept q M C s) : KeptOut q M C (execEthLinkUp e s) := by
  unfold execEthLinkUp
  try dsimp only
  repeat' first | with_reducible assumption | with_reducible apply KeptOut.next | with_reducible apply KeptOut.ite <;> intro _ | with_reducible apply State.setObj_kept | with_reducible apply Kept.ite <;> intro _ | simp only [Kept.upd] | split | intro _
theorem execEthLinkUp_eq {e : Fin 2} {s : State} {t' : State} (he : execEthLinkUp e s = .next t') (h : Kept q M C s) : Kept q M C t' := execEthLinkUp_kept e s h t' he

theorem execEthLinkDown_kept (e : Fin 2) (s : State)  (h : Kept q M C s) : KeptOut q M C (execEthLinkDown e s) := by
  unfold execEthLinkDown
  try dsimp only
  repeat' first | with_reducible assumption | with_reducible apply KeptOut.next | with_reducible apply KeptOut.ite <;> intro _ | with_reducible apply State.setObj_kept | with_reducible apply Kept.ite <;> intro _ | simp only [Kept.upd] | split | intro _
theorem execEthLinkDown_eq {e : Fin 2} {s : State} {t' : State} (he : execEthLinkDown e s = .next t') (h : Kept q M C s) : Kept q M C t' := execEthLinkDown_kept e s h t' he

theorem State.setQp_kept (s : State) (q1 : Nat) (x : QueuePair)  (h : Kept q M C s) : Kept q M C (State.setQp s q1 x) := by
  unfold State.setQp
  try dsimp only
  repeat' first | with_reducible assumption | with_reducible apply Kept.ite <;> intro _ | simp only [Kept.upd] | split | intro _

theorem State.sendRoce_kept (s : State) (q1 : Nat) (psn : Nat) (kind : Nat) (l : List Byte)  (h : Kept q M C s) : Kept q M C (State.sendRoce s q1 psn kind l) := by
  unfold State.sendRoce
  try dsimp only
  repeat' first | with_reducible assumption | with_reducible apply State.emit_kept | with_reducible apply Kept.ite <;> intro _ | simp only [Kept.upd] | split | intro _

theorem State.resendQp_kept (s : State) (q1 : Nat)  (h : Kept q M C s) : Kept q M C (State.resendQp s q1) := by
  unfold State.resendQp
  try dsimp only
  repeat' first | with_reducible assumption | with_reducible apply State.sendRoce_kept | with_reducible apply Kept.ite <;> intro _ | with_reducible apply foldl_kept (fun _ _ _ => ?_) | simp only [Kept.upd] | split | intro _

theorem State.qpFails_kept (s : State) (q1 : Nat) (cause : Nat)  (h : Kept q M C s) : Kept q M C (State.qpFails s q1 cause) := by
  unfold State.qpFails
  try dsimp only
  repeat' first | with_reducible assumption | with_reducible apply State.setObj_kept | with_reducible apply State.countLog_kept | with_reducible apply State.setQp_kept | with_reducible apply Kept.ite <;> intro _ | simp only [Kept.upd] | split | intro _

theorem State.qpRetries_kept (s : State) (q1 : Nat)  (h : Kept q M C s) : Kept q M C (State.qpRetries s q1) := by
  unfold State.qpRetries
  try dsimp only
  repeat' first | with_reducible assumption | with_reducible apply State.setQp_kept | with_reducible apply State.resendQp_kept | with_reducible apply State.qpFails_kept | with_reducible apply Kept.ite <;> intro _ | simp only [Kept.upd] | split | intro _

theorem actQpState_kept (s : State) (a : Ask)  (h : Kept q M C s) : KeptAct q M C (actQpState s a) := by
  unfold actQpState
  try dsimp only
  repeat' first | with_reducible assumption | with_reducible apply KeptAct.ok | with_reducible exact KeptAct.error | with_reducible apply KeptAct.needs | with_reducible apply KeptAct.ite <;> intro _ | with_reducible apply State.setObj_kept | with_reducible apply State.storeRaw_kept | with_reducible apply State.setQp_kept | with_reducible apply Kept.ite <;> intro _ | simp only [Kept.upd] | split | intro _
theorem actQpState_eq {s : State} {a : Ask} {d : Done} (he : actQpState s a = .ok d) (h : Kept q M C s) : Kept q M C d.s := actQpState_kept s a h d he

theorem execQpStateWrite_kept (via : Via) (s : State)  (h : Kept q M C s) : KeptOut q M C (execQpStateWrite via s) := by
  unfold execQpStateWrite
  try dsimp only
  repeat' first | with_reducible assumption | with_reducible apply KeptOut.next | with_reducible apply KeptOut.ite <;> intro _ | with_reducible apply State.cdpRow_kept | with_reducible apply actQpState_kept | with_reducible refine actQpState_eq ‹_› ?_ | with_reducible apply Kept.ite <;> intro _ | simp only [Kept.upd] | split | intro _
theorem execQpStateWrite_eq {via : Via} {s : State} {t' : State} (he : execQpStateWrite via s = .next t') (h : Kept q M C s) : Kept q M C t' := execQpStateWrite_kept via s h t' he

theorem execQpAckTimeout_kept (q1 : Fin 1024) (s : State)  (h : Kept q M C s) : KeptOut q M C (execQpAckTimeout q1 s) := by
  unfold execQpAckTimeout
  try dsimp only
  repeat' first | with_reducible assumption | with_reducible apply KeptOut.next | with_reducible apply KeptOut.ite <;> intro _ | with_reducible apply State.qpRetries_kept | with_reducible apply Kept.ite <;> intro _ | simp only [Kept.upd] | split | intro _
theorem execQpAckTimeout_eq {q1 : Fin 1024} {s : State} {t' : State} (he : execQpAckTimeout q1 s = .next t') (h : Kept q M C s) : Kept q M C t' := execQpAckTimeout_kept q1 s h t' he

theorem State.setFetch_kept (s : State) (i : Nat) (e : FetchEntry)  (h : Kept q M C s) : Kept q M C (State.setFetch s i e) := by
  unfold State.setFetch
  try dsimp only
  repeat' first | with_reducible assumption | with_reducible apply State.bump_kept | with_reducible apply Kept.ite <;> intro _ | simp only [Kept.upd] | split | intro _

theorem State.pumpQp_kept (k : Nat) : ∀ (n : Nat) (s : State) (_ : Kept q M C s), Kept q M C (s.pumpQp k n)
  | 0, _, h => h
  | n + 1, s, h => by
    unfold State.pumpQp
    (try dsimp only) <;> repeat' first | with_reducible assumption | with_reducible apply State.count_kept | with_reducible apply State.setQp_kept | with_reducible apply State.sendRoce_kept | with_reducible apply State.setFetch_kept | with_reducible apply State.pumpQp_kept | with_reducible apply Kept.ite <;> intro _ | simp only [Kept.upd] | split | intro _

theorem actFetchStart_kept (s : State) (a : Ask)  (h : Kept q M C s) : KeptAct q M C (actFetchStart s a) := by
  unfold actFetchStart
  try dsimp only
  repeat' first | with_reducible assumption | with_reducible apply KeptAct.ok | with_reducible exact KeptAct.error | with_reducible apply KeptAct.needs | with_reducible apply KeptAct.ite <;> intro _ | with_reducible apply State.bump_kept | with_reducible apply State.pumpQp_kept | with_reducible apply Kept.ite <;> intro _ | with_reducible apply foldl_kept (fun _ _ _ => ?_) | with_reducible apply findSome_kept (fun _ => ?_) | simp only [Kept.upd] | split | intro _
theorem actFetchStart_eq {s : State} {a : Ask} {d : Done} (he : actFetchStart s a = .ok d) (h : Kept q M C s) : Kept q M C d.s := actFetchStart_kept s a h d he

theorem execFetchStart_kept (via : Via) (s : State)  (h : Kept q M C s) : KeptOut q M C (execFetchStart via s) := by
  unfold execFetchStart
  try dsimp only
  repeat' first | with_reducible assumption | with_reducible apply KeptOut.next | with_reducible apply KeptOut.ite <;> intro _ | with_reducible apply State.cdpRow_kept | with_reducible apply actFetchStart_kept | with_reducible refine actFetchStart_eq ‹_› ?_ | with_reducible apply Kept.ite <;> intro _ | simp only [Kept.upd] | split | intro _
theorem execFetchStart_eq {via : Via} {s : State} {t' : State} (he : execFetchStart via s = .next t') (h : Kept q M C s) : Kept q M C t' := execFetchStart_kept via s h t' he

theorem State.fetchBytes_kept (s : State) (i : Nat) (e : FetchEntry) (offset : Nat) (l : List Byte)  (h : Kept q Any C s) : Kept q Any C (State.fetchBytes s i e offset l) := by
  unfold State.fetchBytes
  try dsimp only
  repeat' first | with_reducible assumption | with_reducible apply State.count_kept | with_reducible apply State.writeTier_kept | with_reducible apply State.serviceMove_kept | with_reducible apply State.setFetch_kept | with_reducible apply Kept.ite <;> intro _ | simp only [Kept.upd] | split | intro _

theorem State.congested_kept (s : State) (q1 : Nat)  (h : Kept q M C s) : Kept q M C (State.congested s q1) := by
  unfold State.congested
  try dsimp only
  repeat' first | with_reducible assumption | with_reducible apply State.count_kept | with_reducible apply State.setQp_kept | with_reducible apply State.sendRoce_kept | with_reducible apply Kept.ite <;> intro _ | simp only [Kept.upd] | split | intro _

theorem State.readResponse_kept (s : State) (q1 : Nat) (psn : Nat) (marked : Bool) (l : List Byte)  (h : Kept q Any C s) : Kept q Any C (State.readResponse s q1 psn marked l) := by
  unfold State.readResponse
  try dsimp only
  repeat' first | with_reducible assumption | with_reducible apply State.count_kept | with_reducible apply State.setQp_kept | with_reducible apply State.qpFails_kept | with_reducible apply State.qpRetries_kept | with_reducible apply State.pumpQp_kept | with_reducible apply State.fetchBytes_kept | with_reducible apply State.congested_kept | with_reducible apply Kept.ite <;> intro _ | simp only [Kept.upd] | split | intro _

theorem State.sendAcked_kept (s : State) (q1 : Nat) (psn : Nat)  (h : Kept q M C s) : Kept q M C (State.sendAcked s q1 psn) := by
  unfold State.sendAcked
  try dsimp only
  repeat' first | with_reducible assumption | with_reducible apply State.setQp_kept | with_reducible apply State.qpFails_kept | with_reducible apply Kept.ite <;> intro _ | simp only [Kept.upd] | split | intro _

theorem execRocePacket_kept (e : Fin 2) (pkt : RocePacket) (s : State)  (h : Kept q Any C s) : KeptOut q Any C (execRocePacket e pkt s) := by
  unfold execRocePacket
  try dsimp only
  repeat' first | with_reducible assumption | with_reducible apply KeptOut.next | with_reducible apply KeptOut.ite <;> intro _ | with_reducible apply State.countLog_kept | with_reducible apply State.sendRoce_kept | with_reducible apply State.qpFails_kept | with_reducible apply State.qpRetries_kept | with_reducible apply State.readResponse_kept | with_reducible apply State.sendAcked_kept | with_reducible apply Kept.ite <;> intro _ | simp only [Kept.upd] | split | intro _
theorem execRocePacket_eq {e : Fin 2} {pkt : RocePacket} {s : State} {t' : State} (he : execRocePacket e pkt s = .next t') (h : Kept q Any C s) : Kept q Any C t' := execRocePacket_kept e pkt s h t' he

theorem State.notifyPeer_kept (s : State) (q1 : Nat) (l : List Byte)  (h : Kept q M C s) : Kept q M C (State.notifyPeer s q1 l) := by
  unfold State.notifyPeer
  try dsimp only
  repeat' first | with_reducible assumption | with_reducible apply State.setQp_kept | with_reducible apply State.sendRoce_kept | with_reducible apply Kept.ite <;> intro _ | simp only [Kept.upd] | split | intro _

theorem execFetchEntryEnd_kept (i : Fin 256) (s : State)  (h : Kept q Any C s) : KeptOut q Any C (execFetchEntryEnd i s) := by
  unfold execFetchEntryEnd
  try dsimp only
  repeat' first | with_reducible assumption | with_reducible apply KeptOut.next | with_reducible apply KeptOut.ite <;> intro _ | with_reducible apply State.count_kept | with_reducible apply State.logEvent_kept | with_reducible apply State.clearRange_kept | with_reducible apply State.setQp_kept | with_reducible apply State.setFetch_kept | with_reducible apply State.pumpQp_kept | with_reducible apply State.notifyPeer_kept | with_reducible apply Kept.ite <;> intro _ | simp only [Kept.upd] | split | intro _
theorem execFetchEntryEnd_eq {i : Fin 256} {s : State} {t' : State} (he : execFetchEntryEnd i s = .next t') (h : Kept q Any C s) : Kept q Any C t' := execFetchEntryEnd_kept i s h t' he

end
end Sys2Proof.Machine
end

