-- ==== Sys2Proof/Laws/WritesKeeps.lean ====
section
/-! SUPPORT. What the operations of Machine/Writes.lean keep: the queue, the form of the state and, where they store nothing, the memory. -/
set_option linter.all false
set_option Elab.async false
namespace Sys2Proof.Machine
section
variable {q : List Instr} {M : Memory → Prop} {C : Prop}

theorem State.setSessionObject_kept (s : State) (a : Ask)  (h : Kept q M C s) : Kept q M C (State.setSessionObject s a) := by
  unfold State.setSessionObject
  try dsimp only
  repeat' first | with_reducible assumption | with_reducible apply State.setSession_kept | with_reducible apply Kept.ite <;> intro _ | simp only [Kept.upd] | split | intro _

theorem State.writeNow_kept (s : State) (a : Ask)  (h : Kept q M C s) : Kept q M C (State.writeNow s a) := by
  unfold State.writeNow
  try dsimp only
  repeat' first | with_reducible assumption | with_reducible apply State.bump_kept | with_reducible apply State.emit_kept | with_reducible apply State.measureIdle_kept | with_reducible apply State.closeSessions_kept | with_reducible apply State.storeRaw_kept | with_reducible apply State.setSessionObject_kept | with_reducible apply Kept.ite <;> intro _ | simp only [Kept.upd] | split | intro _

theorem actPlain_kept (s : State) (a : Ask)  (h : Kept q M C s) : KeptAct q M C (actPlain s a) := by
  unfold actPlain
  try dsimp only
  repeat' first | with_reducible assumption | with_reducible apply KeptAct.ok | with_reducible exact KeptAct.error | with_reducible apply KeptAct.needs | with_reducible apply KeptAct.ite <;> intro _ | with_reducible apply State.putWait_kept | with_reducible apply State.writeNow_kept | with_reducible apply actOpenReq_kept | with_reducible refine actOpenReq_eq ‹_› ?_ | with_reducible apply Kept.ite <;> intro _ | simp only [Kept.upd] | split | intro _
theorem actPlain_eq {s : State} {a : Ask} {d : Done} (he : actPlain s a = .ok d) (h : Kept q M C s) : Kept q M C d.s := actPlain_kept s a h d he

theorem actOption_kept (s : State) (a : Ask)  (h : Kept q M C s) : KeptAct q M C (actOption s a) := by
  unfold actOption
  try dsimp only
  repeat' first | with_reducible assumption | with_reducible apply KeptAct.ok | with_reducible exact KeptAct.error | with_reducible apply KeptAct.needs | with_reducible apply KeptAct.ite <;> intro _ | with_reducible apply actLinkEnable_kept | with_reducible refine actLinkEnable_eq ‹_› ?_ | with_reducible apply actTimeParent_kept | with_reducible refine actTimeParent_eq ‹_› ?_ | with_reducible apply actQpState_kept | with_reducible refine actQpState_eq ‹_› ?_ | with_reducible apply actPlain_kept | with_reducible refine actPlain_eq ‹_› ?_ | with_reducible apply Kept.ite <;> intro _ | simp only [Kept.upd] | split | intro _
theorem actOption_eq {s : State} {a : Ask} {d : Done} (he : actOption s a = .ok d) (h : Kept q M C s) : Kept q M C d.s := actOption_kept s a h d he

end
end Sys2Proof.Machine
end

