-- ==== Sys2Proof/Laws/StartsKeeps.lean ====
section
/-! SUPPORT. What the operations of Machine/Starts.lean keep: the queue, the form of the state and, where they store nothing, the memory. -/
set_option linter.all false
set_option Elab.async false
namespace Sys2Proof.Machine
section
variable {q : List Instr} {M : Memory → Prop} {C : Prop}

theorem State.writeCard_kept (s : State) (c : CardImage) (what : String)  (h : Kept q M C s) : Kept q M C (State.writeCard s c what) := by
  unfold State.writeCard
  try dsimp only
  repeat' first | with_reducible assumption | with_reducible apply State.bump_kept | with_reducible apply State.emit_kept | with_reducible apply Kept.ite <;> intro _ | simp only [Kept.upd] | split | intro _

theorem State.trySlot_kept (s : State) (k : Nat)  (h : Kept q M C s) : Kept q M C (State.trySlot s k).2 := by
  unfold State.trySlot
  try dsimp only
  repeat' first | with_reducible assumption | with_reducible apply State.logEvent_kept | with_reducible apply State.writeCard_kept | with_reducible apply Kept.ite <;> intro _ | simp only [Kept.upd] | split | intro _
theorem State.trySlot_eq {s : State} {k : Nat} {y' : _} {t' : State} (he : State.trySlot s k = (y', t')) (h : Kept q M C s) : Kept q M C t' := by
  have k := State.trySlot_kept s k h
  rwa [he] at k

theorem State.tryBoot_kept : ∀ (l : List Nat) (s : State) (_ : Kept q M C s), Kept q M C (s.tryBoot l).2
  | [], _, h => h
  | k :: t, s, h => by
    have hk := State.trySlot_kept s k h
    unfold State.tryBoot
    split
    · rename_i e
      rwa [e] at hk
    · rename_i e
      rw [e] at hk
      exact State.tryBoot_kept t _ hk

theorem State.tryBoot_eq {l : List Nat} {s : State} {y : _} {t : State} (e : s.tryBoot l = (y, t)) (h : Kept q M C s) : Kept q M C t := by
  have k := State.tryBoot_kept l s h
  rwa [e] at k

theorem State.runImage_kept (s : State) (i : FirmwareImage)  (h : Kept q M C s) : Kept q M C (State.runImage s i) := by
  unfold State.runImage
  try dsimp only
  repeat' first | with_reducible assumption | with_reducible apply State.setCore_kept | with_reducible apply State.setObj_kept | with_reducible apply State.measureIdle_kept | with_reducible apply State.bumps_kept | with_reducible apply Kept.ite <;> intro _ | with_reducible apply foldl_kept (fun _ _ _ => ?_) | with_reducible apply foldl_kept_snd (fun _ _ _ => ?_) | with_reducible apply foldl_kept_fst (fun _ _ _ => ?_) | simp only [Kept.upd] | split | intro _

theorem State.applyOption_kept (s : State) (index : Nat) (sub : Nat) (type : Nat) (v : List Byte)  (h : Kept q M C s) : Kept q M C (State.applyOption s index sub type v) := by
  unfold State.applyOption
  try dsimp only
  repeat' first | with_reducible assumption | with_reducible apply State.bump_kept | with_reducible apply State.logEvent_kept | with_reducible apply actOption_kept | with_reducible refine actOption_eq ‹_› ?_ | with_reducible apply Kept.ite <;> intro _ | simp only [Kept.upd] | split | intro _

theorem State.applyOptions_kept (s : State) (l : List Byte)  (h : Kept q M C s) : Kept q M C (State.applyOptions s l) := by
  unfold State.applyOptions
  try dsimp only
  repeat' first | with_reducible assumption | with_reducible apply State.logEvent_kept | with_reducible apply State.applyOption_kept | with_reducible apply Kept.ite <;> intro _ | with_reducible apply foldl_kept (fun _ _ _ => ?_) | simp only [Kept.upd] | split | intro _

theorem State.applyStore_kept (s : State) (st : Store)  (h : Kept q M C s) : Kept q M C (State.applyStore s st) := by
  unfold State.applyStore
  try dsimp only
  repeat' first | with_reducible assumption | with_reducible apply State.setBlock_kept | with_reducible apply State.logEvent_kept | with_reducible apply State.applyOption_kept | with_reducible apply Kept.ite <;> intro _ | with_reducible apply foldl_kept (fun _ _ _ => ?_) | with_reducible apply foldl_kept_snd (fun _ _ _ => ?_) | with_reducible apply foldl_kept_fst (fun _ _ _ => ?_) | simp only [Kept.upd] | split | intro _

theorem State.retireBlock_kept (s : State) (b : Nat)  (h : Kept q M C s) : Kept q M C (State.retireBlock s b) := by
  unfold State.retireBlock
  try dsimp only
  repeat' first | with_reducible assumption | with_reducible apply State.setBlock_kept | with_reducible apply State.logEvent_kept | with_reducible apply State.bumps_kept | with_reducible apply Kept.ite <;> intro _ | simp only [Kept.upd] | split | intro _

theorem State.bare_kept (s : State) (mode : PartMode) (h : Kept q Any C s) : Kept q Any C (s.bare mode) := by
  refine ⟨h.1, trivial, fun c => ⟨Memory.wf_above _ (h.2.2 c).1 _, ?_, ?_, ?_, ?_⟩⟩
  all_goals
    intro e he
    cases he

theorem State.noteCause_kept (s : State) (bit : Nat)  (h : Kept q M C s) : Kept q M C (State.noteCause s bit) := by
  unfold State.noteCause
  try dsimp only
  repeat' first | with_reducible assumption | with_reducible apply State.setObj_kept | with_reducible apply Kept.ite <;> intro _ | simp only [Kept.upd] | split | intro _

theorem execPowerOn_kept (s : State)  (h : Kept q Any C s) : KeptOut q Any C (execPowerOn s) := by
  unfold execPowerOn
  try dsimp only
  repeat' first | with_reducible assumption | with_reducible apply KeptOut.next | with_reducible apply KeptOut.ite <;> intro _ | with_reducible apply State.setObj_kept | with_reducible apply State.bare_kept | with_reducible apply Kept.ite <;> intro _ | simp only [Kept.upd] | split | intro _
theorem execPowerOn_eq {s : State} {t' : State} (he : execPowerOn s = .next t') (h : Kept q Any C s) : Kept q Any C t' := execPowerOn_kept s h t' he

theorem State.abandonPart_kept (s : State) (p : Nat)  (h : Kept q M C s) : Kept q M C (State.abandonPart s p) := by
  unfold State.abandonPart
  try dsimp only
  repeat' first | with_reducible assumption | with_reducible apply State.setPart_kept | with_reducible apply State.setRequest_kept | with_reducible apply Kept.ite <;> intro _ | with_reducible apply foldl_kept (fun _ _ _ => ?_) | with_reducible apply foldl_kept_snd (fun _ _ _ => ?_) | with_reducible apply foldl_kept_fst (fun _ _ _ => ?_) | simp only [Kept.upd] | split | intro _

theorem State.quiesce_kept (s : State)  (h : Kept q M C s) : Kept q M C (State.quiesce s) := by
  unfold State.quiesce
  try dsimp only
  repeat' first | with_reducible assumption | with_reducible apply State.closeSessions_kept | with_reducible apply State.abandonPart_kept | with_reducible apply Kept.ite <;> intro _ | with_reducible apply foldl_kept (fun _ _ _ => ?_) | simp only [Kept.upd] | split | intro _

theorem State.prelude_kept (s : State)  (h : Kept q M C s) : Kept q M C (State.prelude s) := by
  unfold State.prelude
  try dsimp only
  repeat' first | with_reducible assumption | with_reducible apply State.quiesce_kept | with_reducible apply Kept.ite <;> intro _ | simp only [Kept.upd] | split | intro _

theorem execResetN_kept (s : State)  (h : Kept q M C s) : KeptOut q M C (execResetN s) := by
  unfold execResetN
  try dsimp only
  repeat' first | with_reducible assumption | with_reducible apply KeptOut.next | with_reducible apply KeptOut.ite <;> intro _ | with_reducible apply State.noteCause_kept | with_reducible apply State.prelude_kept | with_reducible apply Kept.ite <;> intro _ | simp only [Kept.upd] | split | intro _
theorem execResetN_eq {s : State} {t' : State} (he : execResetN s = .next t') (h : Kept q M C s) : Kept q M C t' := execResetN_kept s h t' he

theorem State.findCxl_kept (s : State) (env : StartEnv)  (h : Kept q M C s) : Kept q M C (State.findCxl s env) := by
  unfold State.findCxl
  try dsimp only
  repeat' first | with_reducible assumption | with_reducible apply State.setObj_kept | with_reducible apply Kept.ite <;> intro _ | with_reducible apply foldl_kept (fun _ _ _ => ?_) | with_reducible apply foldl_kept_snd (fun _ _ _ => ?_) | with_reducible apply foldl_kept_fst (fun _ _ _ => ?_) | simp only [Kept.upd] | split | intro _

theorem State.startLinks_kept (s : State) (full : Bool)  (h : Kept q M C s) : Kept q M C (State.startLinks s full) := by
  unfold State.startLinks
  try dsimp only
  repeat' first | with_reducible assumption | with_reducible apply State.setPort_kept | with_reducible apply Kept.ite <;> intro _ | with_reducible apply foldl_kept (fun _ _ _ => ?_) | with_reducible apply foldl_kept_snd (fun _ _ _ => ?_) | with_reducible apply foldl_kept_fst (fun _ _ _ => ?_) | simp only [Kept.upd] | split | intro _

theorem State.freezeBumps_kept (s : State)  (h : Kept q M C s) : Kept q M C (State.freezeBumps s) := by
  unfold State.freezeBumps
  try dsimp only
  repeat' first | with_reducible assumption | with_reducible apply State.bumps_kept | with_reducible apply Kept.ite <;> intro _ | simp only [Kept.upd] | split | intro _

theorem State.beginFreeze_kept (s : State) (cause : Nat)  (h : Kept q M C s) : Kept q M C (State.beginFreeze s cause) := by
  unfold State.beginFreeze
  try dsimp only
  repeat' first | with_reducible assumption | with_reducible apply State.countLog_kept | with_reducible apply State.freezeBumps_kept | with_reducible apply Kept.ite <;> intro _ | simp only [Kept.upd] | split | intro _

theorem State.startDone_kept (s : State) (kind : Nat) (micros : Nat)  (h : Kept q M C s) : Kept q M C (State.startDone s kind micros) := by
  unfold State.startDone
  try dsimp only
  repeat' first | with_reducible assumption | with_reducible apply State.setObj_kept | with_reducible apply State.resetObj_kept | with_reducible apply State.logEvent_kept | with_reducible apply State.beginFreeze_kept | with_reducible apply Kept.ite <;> intro _ | simp only [Kept.upd] | split | intro _

theorem State.finishCold_kept (s : State) (env : StartEnv)  (h : Kept q M C s) : Kept q M C (State.finishCold s env) := by
  unfold State.finishCold
  try dsimp only
  repeat' first | with_reducible assumption | with_reducible apply State.setObj_kept | with_reducible apply State.retireBlock_kept | with_reducible apply State.findCxl_kept | with_reducible apply State.startLinks_kept | with_reducible apply State.startDone_kept | with_reducible apply Kept.ite <;> intro _ | with_reducible apply foldl_kept (fun _ _ _ => ?_) | simp only [Kept.upd] | split | intro _

theorem State.enterRecovery_kept (s : State)  (h : Kept q M C s) : Kept q M C (State.enterRecovery s) := by
  unfold State.enterRecovery
  try dsimp only
  repeat' first | with_reducible assumption | with_reducible apply State.setObj_kept | with_reducible apply Kept.ite <;> intro _ | simp only [Kept.upd] | split | intro _

theorem State.bootCold_kept (s : State) (slots : List Nat) (env : StartEnv)  (h : Kept q M C s) : Kept q M C (State.bootCold s slots env) := by
  unfold State.bootCold
  try dsimp only
  repeat' first | with_reducible assumption | with_reducible apply State.runImage_kept | with_reducible apply State.finishCold_kept | with_reducible apply State.enterRecovery_kept | with_reducible apply State.tryBoot_kept | with_reducible refine State.tryBoot_eq ‹_› ?_ | with_reducible apply Kept.ite <;> intro _ | simp only [Kept.upd] | split | intro _

theorem State.beginCold_kept (s : State) (straps : Nat)  (h : Kept q Any C s) : Kept q Any C (State.beginCold s straps) := by
  unfold State.beginCold
  try dsimp only
  repeat' first | with_reducible assumption | with_reducible apply State.store_kept | with_reducible apply State.storeRaw_kept | with_reducible apply State.applyOptions_kept | with_reducible apply State.applyStore_kept | with_reducible apply State.bare_kept | with_reducible apply Kept.ite <;> intro _ | simp only [Kept.upd] | split | intro _

theorem execColdStart_kept (env : StartEnv) (s : State)  (h : Kept q Any C s) : KeptOut q Any C (execColdStart env s) := by
  unfold execColdStart
  try dsimp only
  repeat' first | with_reducible assumption | with_reducible apply KeptOut.next | with_reducible apply KeptOut.ite <;> intro _ | with_reducible apply State.storeRaw_kept | with_reducible apply State.enterRecovery_kept | with_reducible apply State.bootCold_kept | with_reducible apply State.beginCold_kept | with_reducible apply Kept.ite <;> intro _ | simp only [Kept.upd] | split | intro _
theorem execColdStart_eq {env : StartEnv} {s : State} {t' : State} (he : execColdStart env s = .next t') (h : Kept q Any C s) : Kept q Any C t' := execColdStart_kept env s h t' he

theorem State.bootWarm_kept (s : State) (k : Nat)  (h : Kept q M C s) : Kept q M C (State.bootWarm s k) := by
  unfold State.bootWarm
  try dsimp only
  repeat' first | with_reducible assumption | with_reducible apply State.runImage_kept | with_reducible apply State.trySlot_kept | with_reducible refine State.trySlot_eq ‹_› ?_ | with_reducible apply Kept.ite <;> intro _ | simp only [Kept.upd] | split | intro _

theorem execWarmStart_kept (env : StartEnv) (s : State)  (h : Kept q M C s) : KeptOut q M C (execWarmStart env s) := by
  unfold execWarmStart
  try dsimp only
  repeat' first | with_reducible assumption | with_reducible apply KeptOut.next | with_reducible apply KeptOut.ite <;> intro _ | with_reducible apply State.setObj_kept | with_reducible apply State.resetFn_kept | with_reducible apply State.findCxl_kept | with_reducible apply State.startLinks_kept | with_reducible apply State.startDone_kept | with_reducible apply State.bootWarm_kept | with_reducible apply Kept.ite <;> intro _ | with_reducible apply foldl_kept (fun _ _ _ => ?_) | simp only [Kept.upd] | split | intro _
theorem execWarmStart_eq {env : StartEnv} {s : State} {t' : State} (he : execWarmStart env s = .next t') (h : Kept q M C s) : Kept q M C t' := execWarmStart_kept env s h t' he

theorem actResetCause_kept (s : State) (a : Ask)  (h : Kept q M C s) : KeptAct q M C (actResetCause s a) := by
  unfold actResetCause
  try dsimp only
  repeat' first | with_reducible assumption | with_reducible apply KeptAct.ok | with_reducible exact KeptAct.error | with_reducible apply KeptAct.needs | with_reducible apply KeptAct.ite <;> intro _ | with_reducible apply State.storeRaw_kept | with_reducible apply Kept.ite <;> intro _ | simp only [Kept.upd] | split | intro _
theorem actResetCause_eq {s : State} {a : Ask} {d : Done} (he : actResetCause s a = .ok d) (h : Kept q M C s) : Kept q M C d.s := actResetCause_kept s a h d he

theorem execResetCauseWrite_kept (via : Via) (s : State)  (h : Kept q M C s) : KeptOut q M C (execResetCauseWrite via s) := by
  unfold execResetCauseWrite
  try dsimp only
  repeat' first | with_reducible assumption | with_reducible apply KeptOut.next | with_reducible apply KeptOut.ite <;> intro _ | with_reducible apply State.cdpRow_kept | with_reducible apply actResetCause_kept | with_reducible refine actResetCause_eq ‹_› ?_ | with_reducible apply Kept.ite <;> intro _ | simp only [Kept.upd] | split | intro _
theorem execResetCauseWrite_eq {via : Via} {s : State} {t' : State} (he : execResetCauseWrite via s = .next t') (h : Kept q M C s) : Kept q M C t' := execResetCauseWrite_kept via s h t' he

theorem actBlockReset_kept (s : State) (a : Ask)  (h : Kept q M C s) : KeptAct q M C (actBlockReset s a) := by
  unfold actBlockReset
  try dsimp only
  repeat' first | with_reducible assumption | with_reducible apply KeptAct.ok | with_reducible exact KeptAct.error | with_reducible apply KeptAct.needs | with_reducible apply KeptAct.ite <;> intro _ | with_reducible apply State.reset_kept | with_reducible apply State.setBlock_kept | with_reducible apply Kept.ite <;> intro _ | with_reducible apply foldl_kept (fun _ _ _ => ?_) | with_reducible apply foldl_kept_snd (fun _ _ _ => ?_) | with_reducible apply foldl_kept_fst (fun _ _ _ => ?_) | simp only [Kept.upd] | split | intro _
theorem actBlockReset_eq {s : State} {a : Ask} {d : Done} (he : actBlockReset s a = .ok d) (h : Kept q M C s) : Kept q M C d.s := actBlockReset_kept s a h d he

theorem execBlockReset_kept (via : Via) (s : State)  (h : Kept q M C s) : KeptOut q M C (execBlockReset via s) := by
  unfold execBlockReset
  try dsimp only
  repeat' first | with_reducible assumption | with_reducible apply KeptOut.next | with_reducible apply KeptOut.ite <;> intro _ | with_reducible apply State.cdpRow_kept | with_reducible apply actBlockReset_kept | with_reducible refine actBlockReset_eq ‹_› ?_ | with_reducible apply Kept.ite <;> intro _ | simp only [Kept.upd] | split | intro _
theorem execBlockReset_eq {via : Via} {s : State} {t' : State} (he : execBlockReset via s = .next t') (h : Kept q M C s) : Kept q M C t' := execBlockReset_kept via s h t' he

theorem actCoreReset_kept (s : State) (a : Ask)  (h : Kept q M C s) : KeptAct q M C (actCoreReset s a) := by
  unfold actCoreReset
  try dsimp only
  repeat' first | with_reducible assumption | with_reducible apply KeptAct.ok | with_reducible exact KeptAct.error | with_reducible apply KeptAct.needs | with_reducible apply KeptAct.ite <;> intro _ | with_reducible apply State.resetCore_kept | with_reducible apply Kept.ite <;> intro _ | with_reducible apply foldl_kept (fun _ _ _ => ?_) | with_reducible apply foldl_kept_snd (fun _ _ _ => ?_) | with_reducible apply foldl_kept_fst (fun _ _ _ => ?_) | simp only [Kept.upd] | split | intro _
theorem actCoreReset_eq {s : State} {a : Ask} {d : Done} (he : actCoreReset s a = .ok d) (h : Kept q M C s) : Kept q M C d.s := actCoreReset_kept s a h d he

theorem execCoreReset_kept (via : Via) (s : State)  (h : Kept q M C s) : KeptOut q M C (execCoreReset via s) := by
  unfold execCoreReset
  try dsimp only
  repeat' first | with_reducible assumption | with_reducible apply KeptOut.next | with_reducible apply KeptOut.ite <;> intro _ | with_reducible apply State.cdpRow_kept | with_reducible apply actCoreReset_kept | with_reducible refine actCoreReset_eq ‹_› ?_ | with_reducible apply Kept.ite <;> intro _ | simp only [Kept.upd] | split | intro _
theorem execCoreReset_eq {via : Via} {s : State} {t' : State} (he : execCoreReset via s = .next t') (h : Kept q M C s) : Kept q M C t' := execCoreReset_kept via s h t' he

theorem actActivate_kept (s : State) (a1_ : Ask)  (h : Kept q M C s) : KeptAct q M C (actActivate s a1_) := by
  unfold actActivate
  try dsimp only
  repeat' first | with_reducible assumption | with_reducible apply KeptAct.ok | with_reducible exact KeptAct.error | with_reducible apply KeptAct.needs | with_reducible apply KeptAct.ite <;> intro _ | with_reducible apply State.noteCause_kept | with_reducible apply Kept.ite <;> intro _ | simp only [Kept.upd] | split | intro _
theorem actActivate_eq {s : State} {a1_ : Ask} {d : Done} (he : actActivate s a1_ = .ok d) (h : Kept q M C s) : Kept q M C d.s := actActivate_kept s a1_ h d he

theorem execActivate_kept (via : Via) (s : State)  (h : Kept q M C s) : KeptOut q M C (execActivate via s) := by
  unfold execActivate
  try dsimp only
  repeat' first | with_reducible assumption | with_reducible apply KeptOut.next | with_reducible apply KeptOut.ite <;> intro _ | with_reducible apply State.cdpRow_kept | with_reducible apply actActivate_kept | with_reducible refine actActivate_eq ‹_› ?_ | with_reducible apply Kept.ite <;> intro _ | simp only [Kept.upd] | split | intro _
theorem execActivate_eq {via : Via} {s : State} {t' : State} (he : execActivate via s = .next t') (h : Kept q M C s) : Kept q M C t' := execActivate_kept via s h t' he

theorem execActivatePause_kept (s : State)  (h : Kept q M C s) : KeptOut q M C (execActivatePause s) := by
  unfold execActivatePause
  try dsimp only
  repeat' first | with_reducible assumption | with_reducible apply KeptOut.next | with_reducible apply KeptOut.ite <;> intro _ | with_reducible apply State.quiesce_kept | with_reducible apply Kept.ite <;> intro _ | simp only [Kept.upd] | split | intro _
theorem execActivatePause_eq {s : State} {t' : State} (he : execActivatePause s = .next t') (h : Kept q M C s) : Kept q M C t' := execActivatePause_kept s h t' he

theorem actSlotChunk_kept (s : State) (a : Ask)  (h : Kept q M C s) : KeptAct q M C (actSlotChunk s a) := by
  unfold actSlotChunk
  try dsimp only
  repeat' first | with_reducible assumption | with_reducible apply KeptAct.ok | with_reducible exact KeptAct.error | with_reducible apply KeptAct.needs | with_reducible apply KeptAct.ite <;> intro _ | with_reducible apply State.writeCard_kept | with_reducible apply Kept.ite <;> intro _ | simp only [Kept.upd] | split | intro _
theorem actSlotChunk_eq {s : State} {a : Ask} {d : Done} (he : actSlotChunk s a = .ok d) (h : Kept q M C s) : Kept q M C d.s := actSlotChunk_kept s a h d he

theorem execFirmwareSlotWrite_kept (via : Via) (s : State)  (h : Kept q M C s) : KeptOut q M C (execFirmwareSlotWrite via s) := by
  unfold execFirmwareSlotWrite
  try dsimp only
  repeat' first | with_reducible assumption | with_reducible apply KeptOut.next | with_reducible apply KeptOut.ite <;> intro _ | with_reducible apply State.cdpRow_kept | with_reducible apply actSlotChunk_kept | with_reducible refine actSlotChunk_eq ‹_› ?_ | with_reducible apply Kept.ite <;> intro _ | simp only [Kept.upd] | split | intro _
theorem execFirmwareSlotWrite_eq {via : Via} {s : State} {t' : State} (he : execFirmwareSlotWrite via s = .next t') (h : Kept q M C s) : Kept q M C t' := execFirmwareSlotWrite_kept via s h t' he

theorem actPersist_kept (s : State) (a : Ask)  (h : Kept q M C s) : KeptAct q M C (actPersist s a) := by
  unfold actPersist
  try dsimp only
  repeat' first | with_reducible assumption | with_reducible apply KeptAct.ok | with_reducible exact KeptAct.error | with_reducible apply KeptAct.needs | with_reducible apply KeptAct.ite <;> intro _ | with_reducible apply State.bump_kept | with_reducible apply Kept.ite <;> intro _ | simp only [Kept.upd] | split | intro _
theorem actPersist_eq {s : State} {a : Ask} {d : Done} (he : actPersist s a = .ok d) (h : Kept q M C s) : Kept q M C d.s := actPersist_kept s a h d he

theorem execPersist_kept (via : Via) (s : State)  (h : Kept q M C s) : KeptOut q M C (execPersist via s) := by
  unfold execPersist
  try dsimp only
  repeat' first | with_reducible assumption | with_reducible apply KeptOut.next | with_reducible apply KeptOut.ite <;> intro _ | with_reducible apply State.cdpRow_kept | with_reducible apply actPersist_kept | with_reducible refine actPersist_eq ‹_› ?_ | with_reducible apply Kept.ite <;> intro _ | simp only [Kept.upd] | split | intro _
theorem execPersist_eq {via : Via} {s : State} {t' : State} (he : execPersist via s = .next t') (h : Kept q M C s) : Kept q M C t' := execPersist_kept via s h t' he

theorem actUnpersist_kept (s : State) (a : Ask)  (h : Kept q M C s) : KeptAct q M C (actUnpersist s a) := by
  unfold actUnpersist
  try dsimp only
  repeat' first | with_reducible assumption | with_reducible apply KeptAct.ok | with_reducible exact KeptAct.error | with_reducible apply KeptAct.needs | with_reducible apply KeptAct.ite <;> intro _ | with_reducible apply State.bump_kept | with_reducible apply Kept.ite <;> intro _ | simp only [Kept.upd] | split | intro _
theorem actUnpersist_eq {s : State} {a : Ask} {d : Done} (he : actUnpersist s a = .ok d) (h : Kept q M C s) : Kept q M C d.s := actUnpersist_kept s a h d he

theorem execUnpersist_kept (via : Via) (s : State)  (h : Kept q M C s) : KeptOut q M C (execUnpersist via s) := by
  unfold execUnpersist
  try dsimp only
  repeat' first | with_reducible assumption | with_reducible apply KeptOut.next | with_reducible apply KeptOut.ite <;> intro _ | with_reducible apply State.cdpRow_kept | with_reducible apply actUnpersist_kept | with_reducible refine actUnpersist_eq ‹_› ?_ | with_reducible apply Kept.ite <;> intro _ | simp only [Kept.upd] | split | intro _
theorem execUnpersist_eq {via : Via} {s : State} {t' : State} (he : execUnpersist via s = .next t') (h : Kept q M C s) : Kept q M C t' := execUnpersist_kept via s h t' he

theorem actClearRetired_kept (s : State) (a : Ask)  (h : Kept q M C s) : KeptAct q M C (actClearRetired s a) := by
  unfold actClearRetired
  try dsimp only
  repeat' first | with_reducible assumption | with_reducible apply KeptAct.ok | with_reducible exact KeptAct.error | with_reducible apply KeptAct.needs | with_reducible apply KeptAct.ite <;> intro _ | with_reducible apply Kept.ite <;> intro _ | simp only [Kept.upd] | split | intro _
theorem actClearRetired_eq {s : State} {a : Ask} {d : Done} (he : actClearRetired s a = .ok d) (h : Kept q M C s) : Kept q M C d.s := actClearRetired_kept s a h d he

theorem execClearRetired_kept (via : Via) (s : State)  (h : Kept q M C s) : KeptOut q M C (execClearRetired via s) := by
  unfold execClearRetired
  try dsimp only
  repeat' first | with_reducible assumption | with_reducible apply KeptOut.next | with_reducible apply KeptOut.ite <;> intro _ | with_reducible apply State.cdpRow_kept | with_reducible apply actClearRetired_kept | with_reducible refine actClearRetired_eq ‹_› ?_ | with_reducible apply Kept.ite <;> intro _ | simp only [Kept.upd] | split | intro _
theorem execClearRetired_eq {via : Via} {s : State} {t' : State} (he : execClearRetired via s = .next t') (h : Kept q M C s) : Kept q M C t' := execClearRetired_kept via s h t' he

theorem execStoreWrite_kept (s : State)  (h : Kept q M C s) : KeptOut q M C (execStoreWrite s) := by
  unfold execStoreWrite
  try dsimp only
  repeat' first | with_reducible assumption | with_reducible apply KeptOut.next | with_reducible apply KeptOut.ite <;> intro _ | with_reducible apply State.store_kept | with_reducible apply State.writeCard_kept | with_reducible apply Kept.ite <;> intro _ | simp only [Kept.upd] | split | intro _
theorem execStoreWrite_eq {s : State} {t' : State} (he : execStoreWrite s = .next t') (h : Kept q M C s) : Kept q M C t' := execStoreWrite_kept s h t' he

theorem execCardInsert_kept (card : CardImage) (s : State)  (h : Kept q M C s) : KeptOut q M C (execCardInsert card s) := by
  unfold execCardInsert
  try dsimp only
  repeat' first | with_reducible assumption | with_reducible apply KeptOut.next | with_reducible apply KeptOut.ite <;> intro _ | with_reducible apply State.setObj_kept | with_reducible apply State.store_kept | with_reducible apply State.bumps_kept | with_reducible apply State.writeCard_kept | with_reducible apply Kept.ite <;> intro _ | simp only [Kept.upd] | split | intro _
theorem execCardInsert_eq {card : CardImage} {s : State} {t' : State} (he : execCardInsert card s = .next t') (h : Kept q M C s) : Kept q M C t' := execCardInsert_kept card s h t' he

theorem execCardRemove_kept (s : State)  (h : Kept q M C s) : KeptOut q M C (execCardRemove s) := by
  unfold execCardRemove
  try dsimp only
  repeat' first | with_reducible assumption | with_reducible apply KeptOut.next | with_reducible apply KeptOut.ite <;> intro _ | with_reducible apply State.bumps_kept | with_reducible apply Kept.ite <;> intro _ | simp only [Kept.upd] | split | intro _
theorem execCardRemove_eq {s : State} {t' : State} (he : execCardRemove s = .next t') (h : Kept q M C s) : Kept q M C t' := execCardRemove_kept s h t' he

end
end Sys2Proof.Machine
end

