-- ==== Sys2Proof/Laws/FreezesKeeps.lean ====
section
/-! SUPPORT. What the operations of Machine/Freezes.lean keep: the queue, the form of the state and, where they store nothing, the memory. -/
set_option linter.all false
set_option Elab.async false
namespace Sys2Proof.Machine
section
variable {q : List Instr} {M : Memory → Prop} {C : Prop}

theorem State.trigger_kept (s : State) (cause : Nat)  (h : Kept q M C s) : Kept q M C (State.trigger s cause) := by
  unfold State.trigger
  try dsimp only
  repeat' first | with_reducible assumption | with_reducible apply State.beginFreeze_kept | with_reducible apply Kept.ite <;> intro _ | simp only [Kept.upd] | split | intro _

theorem execFreezeN_kept (s : State)  (h : Kept q M C s) : KeptOut q M C (execFreezeN s) := by
  unfold execFreezeN
  try dsimp only
  repeat' first | with_reducible assumption | with_reducible apply KeptOut.next | with_reducible apply KeptOut.ite <;> intro _ | with_reducible apply State.trigger_kept | with_reducible apply Kept.ite <;> intro _ | simp only [Kept.upd] | split | intro _
theorem execFreezeN_eq {s : State} {t' : State} (he : execFreezeN s = .next t') (h : Kept q M C s) : Kept q M C t' := execFreezeN_kept s h t' he

theorem actFreeze_kept (s : State) (a1_ : Ask)  (h : Kept q M C s) : KeptAct q M C (actFreeze s a1_) := by
  unfold actFreeze
  try dsimp only
  repeat' first | with_reducible assumption | with_reducible apply KeptAct.ok | with_reducible exact KeptAct.error | with_reducible apply KeptAct.needs | with_reducible apply KeptAct.ite <;> intro _ | with_reducible apply State.trigger_kept | with_reducible apply Kept.ite <;> intro _ | simp only [Kept.upd] | split | intro _
theorem actFreeze_eq {s : State} {a1_ : Ask} {d : Done} (he : actFreeze s a1_ = .ok d) (h : Kept q M C s) : Kept q M C d.s := actFreeze_kept s a1_ h d he

theorem execFreeze_kept (via : Via) (s : State)  (h : Kept q M C s) : KeptOut q M C (execFreeze via s) := by
  unfold execFreeze
  try dsimp only
  repeat' first | with_reducible assumption | with_reducible apply KeptOut.next | with_reducible apply KeptOut.ite <;> intro _ | with_reducible apply State.cdpRow_kept | with_reducible apply actFreeze_kept | with_reducible refine actFreeze_eq ‹_› ?_ | with_reducible apply Kept.ite <;> intro _ | simp only [Kept.upd] | split | intro _
theorem execFreeze_eq {via : Via} {s : State} {t' : State} (he : execFreeze via s = .next t') (h : Kept q M C s) : Kept q M C t' := execFreeze_kept via s h t' he

theorem actFreezeAt_kept (s : State) (a : Ask)  (h : Kept q M C s) : KeptAct q M C (actFreezeAt s a) := by
  unfold actFreezeAt
  try dsimp only
  repeat' first | with_reducible assumption | with_reducible apply KeptAct.ok | with_reducible exact KeptAct.error | with_reducible apply KeptAct.needs | with_reducible apply KeptAct.ite <;> intro _ | with_reducible apply Kept.ite <;> intro _ | simp only [Kept.upd] | split | intro _
theorem actFreezeAt_eq {s : State} {a : Ask} {d : Done} (he : actFreezeAt s a = .ok d) (h : Kept q M C s) : Kept q M C d.s := actFreezeAt_kept s a h d he

theorem execFreezeAt_kept (via : Via) (s : State)  (h : Kept q M C s) : KeptOut q M C (execFreezeAt via s) := by
  unfold execFreezeAt
  try dsimp only
  repeat' first | with_reducible assumption | with_reducible apply KeptOut.next | with_reducible apply KeptOut.ite <;> intro _ | with_reducible apply State.cdpRow_kept | with_reducible apply actFreezeAt_kept | with_reducible refine actFreezeAt_eq ‹_› ?_ | with_reducible apply Kept.ite <;> intro _ | simp only [Kept.upd] | split | intro _
theorem execFreezeAt_eq {via : Via} {s : State} {t' : State} (he : execFreezeAt via s = .next t') (h : Kept q M C s) : Kept q M C t' := execFreezeAt_kept via s h t' he

theorem State.passTimed_kept (s : State) (t : Nat)  (h : Kept q M C s) : Kept q M C (State.passTimed s t) := by
  unfold State.passTimed
  try dsimp only
  repeat' first | with_reducible assumption | with_reducible apply Kept.ite <;> intro _ | simp only [Kept.upd] | split | intro _

theorem execFreezeAtTrigger_kept (s : State)  (h : Kept q M C s) : KeptOut q M C (execFreezeAtTrigger s) := by
  unfold execFreezeAtTrigger
  try dsimp only
  repeat' first | with_reducible assumption | with_reducible apply KeptOut.next | with_reducible apply KeptOut.ite <;> intro _ | with_reducible apply State.trigger_kept | with_reducible apply State.passTimed_kept | with_reducible apply Kept.ite <;> intro _ | simp only [Kept.upd] | split | intro _
theorem execFreezeAtTrigger_eq {s : State} {t' : State} (he : execFreezeAtTrigger s = .next t') (h : Kept q M C s) : Kept q M C t' := execFreezeAtTrigger_kept s h t' he

theorem State.resumeFreeze_kept (s : State)  (h : Kept q M C s) : Kept q M C (State.resumeFreeze s) := by
  unfold State.resumeFreeze
  try dsimp only
  repeat' first | with_reducible assumption | with_reducible apply State.freezeBumps_kept | with_reducible apply Kept.ite <;> intro _ | simp only [Kept.upd] | split | intro _

theorem State.freezeDone_kept (s : State)  (h : Kept q M C s) : Kept q M C (State.freezeDone s) := by
  unfold State.freezeDone
  try dsimp only
  repeat' first | with_reducible assumption | with_reducible apply State.freezeBumps_kept | with_reducible apply State.resumeFreeze_kept | with_reducible apply Kept.ite <;> intro _ | simp only [Kept.upd] | split | intro _

theorem actUnfreeze_kept (s : State) (a1_ : Ask)  (h : Kept q M C s) : KeptAct q M C (actUnfreeze s a1_) := by
  unfold actUnfreeze
  try dsimp only
  repeat' first | with_reducible assumption | with_reducible apply KeptAct.ok | with_reducible exact KeptAct.error | with_reducible apply KeptAct.needs | with_reducible apply KeptAct.ite <;> intro _ | with_reducible apply State.resumeFreeze_kept | with_reducible apply Kept.ite <;> intro _ | simp only [Kept.upd] | split | intro _
theorem actUnfreeze_eq {s : State} {a1_ : Ask} {d : Done} (he : actUnfreeze s a1_ = .ok d) (h : Kept q M C s) : Kept q M C d.s := actUnfreeze_kept s a1_ h d he

theorem execUnfreeze_kept (via : Via) (s : State)  (h : Kept q M C s) : KeptOut q M C (execUnfreeze via s) := by
  unfold execUnfreeze
  try dsimp only
  repeat' first | with_reducible assumption | with_reducible apply KeptOut.next | with_reducible apply KeptOut.ite <;> intro _ | with_reducible apply State.cdpRow_kept | with_reducible apply actUnfreeze_kept | with_reducible refine actUnfreeze_eq ‹_› ?_ | with_reducible apply Kept.ite <;> intro _ | simp only [Kept.upd] | split | intro _
theorem execUnfreeze_eq {via : Via} {s : State} {t' : State} (he : execUnfreeze via s = .next t') (h : Kept q M C s) : Kept q M C t' := execUnfreeze_kept via s h t' he

theorem execFreezeNDeassert_kept (s : State)  (h : Kept q M C s) : KeptOut q M C (execFreezeNDeassert s) := by
  unfold execFreezeNDeassert
  try dsimp only
  repeat' first | with_reducible assumption | with_reducible apply KeptOut.next | with_reducible apply KeptOut.ite <;> intro _ | with_reducible apply State.resumeFreeze_kept | with_reducible apply Kept.ite <;> intro _ | simp only [Kept.upd] | split | intro _
theorem execFreezeNDeassert_eq {s : State} {t' : State} (he : execFreezeNDeassert s = .next t') (h : Kept q M C s) : Kept q M C t' := execFreezeNDeassert_kept s h t' he

theorem State.idleSlots_kept (s : State) (now : Nat)  (h : Kept q M C s) : Kept q M C (State.idleSlots s now) := by
  unfold State.idleSlots
  try dsimp only
  repeat' first | with_reducible assumption | with_reducible apply State.count_kept | with_reducible apply Kept.ite <;> intro _ | with_reducible apply foldl_kept (fun _ _ _ => ?_) | with_reducible apply foldl_kept_snd (fun _ _ _ => ?_) | with_reducible apply foldl_kept_fst (fun _ _ _ => ?_) | simp only [Kept.upd] | split | intro _

theorem State.later_kept (s : State) (e : Nat)  (h : Kept q M C s) : Kept q M C (State.later s e) := by
  unfold State.later
  try dsimp only
  repeat' first | with_reducible assumption | with_reducible apply Kept.ite <;> intro _ | simp only [Kept.upd] | split | intro _

theorem execClockRestart_kept (s : State)  (h : Kept q M C s) : KeptOut q M C (execClockRestart s) := by
  unfold execClockRestart
  try dsimp only
  repeat' first | with_reducible assumption | with_reducible apply KeptOut.next | with_reducible apply KeptOut.ite <;> intro _ | with_reducible apply State.moveTimers_kept | with_reducible apply State.alignCopies_kept | with_reducible apply State.freezeBumps_kept | with_reducible apply State.beginFreeze_kept | with_reducible apply State.passTimed_kept | with_reducible apply State.idleSlots_kept | with_reducible apply State.later_kept | with_reducible apply Kept.ite <;> intro _ | simp only [Kept.upd] | split | intro _
theorem execClockRestart_eq {s : State} {t' : State} (he : execClockRestart s = .next t') (h : Kept q M C s) : Kept q M C t' := execClockRestart_kept s h t' he

theorem State.jtagShift_kept (s : State) (ir : Nat) (bits : List Bool)  (h : Kept q M C s) : Kept q M C (State.jtagShift s ir bits) := by
  unfold State.jtagShift
  try dsimp only
  repeat' first | with_reducible assumption | with_reducible apply State.emit_kept | with_reducible apply Kept.ite <;> intro _ | simp only [Kept.upd] | split | intro _

theorem execExtest_kept (s : State)  (h : Kept q M C s) : KeptOut q M C (execExtest s) := by
  unfold execExtest
  try dsimp only
  repeat' first | with_reducible assumption | with_reducible apply KeptOut.next | with_reducible apply KeptOut.ite <;> intro _ | with_reducible apply Kept.ite <;> intro _ | simp only [Kept.upd] | split | intro _
theorem execExtest_eq {s : State} {t' : State} (he : execExtest s = .next t') (h : Kept q M C s) : Kept q M C t' := execExtest_kept s h t' he

theorem execIdcode_kept (s : State)  (h : Kept q M C s) : KeptOut q M C (execIdcode s) := by
  unfold execIdcode
  try dsimp only
  repeat' first | with_reducible assumption | with_reducible apply KeptOut.next | with_reducible apply KeptOut.ite <;> intro _ | with_reducible apply State.jtagShift_kept | with_reducible apply Kept.ite <;> intro _ | simp only [Kept.upd] | split | intro _
theorem execIdcode_eq {s : State} {t' : State} (he : execIdcode s = .next t') (h : Kept q M C s) : Kept q M C t' := execIdcode_kept s h t' he

theorem execSamplePreload_kept (s : State)  (h : Kept q M C s) : KeptOut q M C (execSamplePreload s) := by
  unfold execSamplePreload
  try dsimp only
  repeat' first | with_reducible assumption | with_reducible apply KeptOut.next | with_reducible apply KeptOut.ite <;> intro _ | with_reducible apply Kept.ite <;> intro _ | simp only [Kept.upd] | split | intro _
theorem execSamplePreload_eq {s : State} {t' : State} (he : execSamplePreload s = .next t') (h : Kept q M C s) : Kept q M C t' := execSamplePreload_kept s h t' he

theorem execBypass_kept (s : State)  (h : Kept q M C s) : KeptOut q M C (execBypass s) := by
  unfold execBypass
  try dsimp only
  repeat' first | with_reducible assumption | with_reducible apply KeptOut.next | with_reducible apply KeptOut.ite <;> intro _ | with_reducible apply State.jtagShift_kept | with_reducible apply Kept.ite <;> intro _ | simp only [Kept.upd] | split | intro _
theorem execBypass_eq {s : State} {t' : State} (he : execBypass s = .next t') (h : Kept q M C s) : Kept q M C t' := execBypass_kept s h t' he

theorem execTestLogicReset_kept (s : State)  (h : Kept q M C s) : KeptOut q M C (execTestLogicReset s) := by
  unfold execTestLogicReset
  try dsimp only
  repeat' first | with_reducible assumption | with_reducible apply KeptOut.next | with_reducible apply KeptOut.ite <;> intro _ | with_reducible apply Kept.ite <;> intro _ | simp only [Kept.upd] | split | intro _
theorem execTestLogicReset_eq {s : State} {t' : State} (he : execTestLogicReset s = .next t') (h : Kept q M C s) : Kept q M C t' := execTestLogicReset_kept s h t' he

theorem execFrzSelect_kept (value : BitVec 16) (s : State)  (h : Kept q M C s) : KeptOut q M C (execFrzSelect value s) := by
  unfold execFrzSelect
  try dsimp only
  repeat' first | with_reducible assumption | with_reducible apply KeptOut.next | with_reducible apply KeptOut.ite <;> intro _ | with_reducible apply State.jtagShift_kept | with_reducible apply Kept.ite <;> intro _ | simp only [Kept.upd] | split | intro _
theorem execFrzSelect_eq {value : BitVec 16} {s : State} {t' : State} (he : execFrzSelect value s = .next t') (h : Kept q M C s) : Kept q M C t' := execFrzSelect_kept value s h t' he

theorem execFrzScan_kept (bits : List Bool) (s : State)  (h : Kept q M C s) : KeptOut q M C (execFrzScan bits s) := by
  unfold execFrzScan
  try dsimp only
  repeat' first | with_reducible assumption | with_reducible apply KeptOut.next | with_reducible apply KeptOut.ite <;> intro _ | with_reducible apply State.jtagShift_kept | with_reducible apply Kept.ite <;> intro _ | simp only [Kept.upd] | split | intro _
theorem execFrzScan_eq {bits : List Bool} {s : State} {t' : State} (he : execFrzScan bits s = .next t') (h : Kept q M C s) : Kept q M C t' := execFrzScan_kept bits s h t' he

theorem execFrzMemRead_kept (command : BitVec 64) (s : State)  (h : Kept q M C s) : KeptOut q M C (execFrzMemRead command s) := by
  unfold execFrzMemRead
  try dsimp only
  repeat' first | with_reducible assumption | with_reducible apply KeptOut.next | with_reducible apply KeptOut.ite <;> intro _ | with_reducible apply State.jtagShift_kept | with_reducible apply Kept.ite <;> intro _ | simp only [Kept.upd] | split | intro _
theorem execFrzMemRead_eq {command : BitVec 64} {s : State} {t' : State} (he : execFrzMemRead command s = .next t') (h : Kept q M C s) : Kept q M C t' := execFrzMemRead_kept command s h t' he

theorem execFrzMemWrite_kept (command : BitVec 64) (word : Word) (check : Check) (s : State)  (h : Kept q Any C s) : KeptOut q Any C (execFrzMemWrite command word check s) := by
  unfold execFrzMemWrite
  try dsimp only
  repeat' first | with_reducible assumption | with_reducible apply KeptOut.next | with_reducible apply KeptOut.ite <;> intro _ | with_reducible apply State.writeWord_kept | with_reducible apply Kept.ite <;> intro _ | simp only [Kept.upd] | split | intro _
theorem execFrzMemWrite_eq {command : BitVec 64} {word : Word} {check : Check} {s : State} {t' : State} (he : execFrzMemWrite command word check s = .next t') (h : Kept q Any C s) : Kept q Any C t' := execFrzMemWrite_kept command word check s h t' he

theorem execFrzResume_kept (value : Bool) (s : State)  (h : Kept q M C s) : KeptOut q M C (execFrzResume value s) := by
  unfold execFrzResume
  try dsimp only
  repeat' first | with_reducible assumption | with_reducible apply KeptOut.next | with_reducible apply KeptOut.ite <;> intro _ | with_reducible apply State.resumeFreeze_kept | with_reducible apply State.jtagShift_kept | with_reducible apply Kept.ite <;> intro _ | simp only [Kept.upd] | split | intro _
theorem execFrzResume_eq {value : Bool} {s : State} {t' : State} (he : execFrzResume value s = .next t') (h : Kept q M C s) : Kept q M C t' := execFrzResume_kept value s h t' he

theorem actSnapshot_kept (s : State) (a : Ask)  (h : Kept q M C s) : KeptAct q M C (actSnapshot s a) := by
  unfold actSnapshot
  try dsimp only
  repeat' first | with_reducible assumption | with_reducible apply KeptAct.ok | with_reducible exact KeptAct.error | with_reducible apply KeptAct.needs | with_reducible apply KeptAct.ite <;> intro _ | with_reducible apply State.bump_kept | with_reducible apply Kept.ite <;> intro _ | simp only [Kept.upd] | split | intro _
theorem actSnapshot_eq {s : State} {a : Ask} {d : Done} (he : actSnapshot s a = .ok d) (h : Kept q M C s) : Kept q M C d.s := actSnapshot_kept s a h d he

theorem execSnapshot_kept (via : Via) (s : State)  (h : Kept q M C s) : KeptOut q M C (execSnapshot via s) := by
  unfold execSnapshot
  try dsimp only
  repeat' first | with_reducible assumption | with_reducible apply KeptOut.next | with_reducible apply KeptOut.ite <;> intro _ | with_reducible apply State.cdpRow_kept | with_reducible apply actSnapshot_kept | with_reducible refine actSnapshot_eq ‹_› ?_ | with_reducible apply Kept.ite <;> intro _ | simp only [Kept.upd] | split | intro _
theorem execSnapshot_eq {via : Via} {s : State} {t' : State} (he : execSnapshot via s = .next t') (h : Kept q M C s) : Kept q M C t' := execSnapshot_kept via s h t' he

theorem execSnapshotCopy_kept (s : State) (h : Kept q M C s) : KeptOut q M C (execSnapshotCopy s) := by
  have hs : ∀ t, Kept q M C { s with shadows := s.counters, snapshot := t } := fun _ => ⟨h.1, h.2.1, fun c => ⟨(h.2.2 c).1, (h.2.2 c).2.1, (h.2.2 c).2.1, (h.2.2 c).2.2.2⟩⟩
  unfold execSnapshotCopy
  (try dsimp only) <;> repeat' first | with_reducible assumption | with_reducible apply KeptOut.next | with_reducible apply KeptOut.ite <;> intro _ | with_reducible apply State.bumps_kept | with_reducible apply Kept.ite <;> intro _ | simp only [Kept.upd] | split | intro _
  exact hs _

theorem execSweeperSlice_kept (b : Fin 256) (s : State)  (h : Kept q M C s) : KeptOut q M C (execSweeperSlice b s) := by
  unfold execSweeperSlice
  try dsimp only
  repeat' first | with_reducible assumption | with_reducible apply KeptOut.next | with_reducible apply KeptOut.ite <;> intro _ | with_reducible apply State.setBlock_kept | with_reducible apply Kept.ite <;> intro _ | simp only [Kept.upd] | split | intro _
theorem execSweeperSlice_eq {b : Fin 256} {s : State} {t' : State} (he : execSweeperSlice b s = .next t') (h : Kept q M C s) : Kept q M C t' := execSweeperSlice_kept b s h t' he

theorem State.nextWindow_kept (s : State) (b : Nat)  (h : Kept q M C s) : Kept q M C (State.nextWindow s b) := by
  unfold State.nextWindow
  try dsimp only
  repeat' first | with_reducible assumption | with_reducible apply State.setBlock_kept | with_reducible apply State.count_kept | with_reducible apply Kept.ite <;> intro _ | simp only [Kept.upd] | split | intro _

theorem execSweeperSliceEnd_kept (b : Fin 256) (failed : Bool) (s : State)  (h : Kept q M C s) : KeptOut q M C (execSweeperSliceEnd b failed s) := by
  unfold execSweeperSliceEnd
  try dsimp only
  repeat' first | with_reducible assumption | with_reducible apply KeptOut.next | with_reducible apply KeptOut.ite <;> intro _ | with_reducible exact KeptOut.fault | with_reducible exact KeptOut.refused | with_reducible apply State.setBlock_kept | with_reducible apply State.count_kept | with_reducible apply State.countLog_kept | with_reducible apply State.failStep_kept | with_reducible apply State.originate_kept | with_reducible apply State.retireBlock_kept | with_reducible apply State.nextWindow_kept | with_reducible apply Kept.ite <;> intro _ | simp only [Kept.upd] | split | intro _
theorem execSweeperSliceEnd_eq {b : Fin 256} {failed : Bool} {s : State} {t' : State} (he : execSweeperSliceEnd b failed s = .next t') (h : Kept q M C s) : Kept q M C t' := execSweeperSliceEnd_kept b failed s h t' he

end
end Sys2Proof.Machine
end

