-- ==== Sys2Proof/Laws/PowersKeeps.lean ====
section
/-! SUPPORT. What the operations of Machine/Powers.lean keep: the queue, the form of the state and, where they store nothing, the memory. -/
set_option linter.all false
set_option Elab.async false
namespace Sys2Proof.Machine
section
variable {q : List Instr} {M : Memory → Prop} {C : Prop}

theorem execRailsOkFall_kept (s : State)  (h : Kept q Any C s) : KeptOut q Any C (execRailsOkFall s) := by
  unfold execRailsOkFall
  try dsimp only
  repeat' first | with_reducible assumption | with_reducible apply KeptOut.next | with_reducible apply KeptOut.ite <;> intro _ | with_reducible apply State.bare_kept | with_reducible apply Kept.ite <;> intro _ | simp only [Kept.upd] | split | intro _
theorem execRailsOkFall_eq {s : State} {t' : State} (he : execRailsOkFall s = .next t') (h : Kept q Any C s) : Kept q Any C t' := execRailsOkFall_kept s h t' he

theorem State.logPower_kept (s : State) (code : Nat) (inst : Nat) (detail : Nat)  (h : Kept q M C s) : Kept q M C (State.logPower s code inst detail) := by
  unfold State.logPower
  try dsimp only
  repeat' first | with_reducible assumption | with_reducible apply State.logEvent_kept | with_reducible apply Kept.ite <;> intro _ | simp only [Kept.upd] | split | intro _

theorem State.assertAlert_kept (s : State)  (h : Kept q M C s) : Kept q M C (State.assertAlert s) := by
  unfold State.assertAlert
  try dsimp only
  repeat' first | with_reducible assumption | with_reducible apply State.emit_kept | with_reducible apply Kept.ite <;> intro _ | simp only [Kept.upd] | split | intro _

theorem execAvsUpdate_kept (millivolts : Nat) (sensed : Nat) (s : State)  (h : Kept q M C s) : KeptOut q M C (execAvsUpdate millivolts sensed s) := by
  unfold execAvsUpdate
  try dsimp only
  repeat' first | with_reducible assumption | with_reducible apply KeptOut.next | with_reducible apply KeptOut.ite <;> intro _ | with_reducible apply State.bumpWhere_kept | with_reducible apply State.emit_kept | with_reducible apply Kept.ite <;> intro _ | simp only [Kept.upd] | split | intro _
theorem execAvsUpdate_eq {millivolts : Nat} {sensed : Nat} {s : State} {t' : State} (he : execAvsUpdate millivolts sensed s = .next t') (h : Kept q M C s) : Kept q M C t' := execAvsUpdate_kept millivolts sensed s h t' he

theorem execRailFault_kept (r : Fin 7) (millivolts : Nat) (s : State)  (h : Kept q M C s) : KeptOut q M C (execRailFault r millivolts s) := by
  unfold execRailFault
  try dsimp only
  repeat' first | with_reducible assumption | with_reducible apply KeptOut.next | with_reducible apply KeptOut.ite <;> intro _ | with_reducible apply State.bumpWhere_kept | with_reducible apply State.emit_kept | with_reducible apply State.count_kept | with_reducible apply State.logPower_kept | with_reducible apply State.assertAlert_kept | with_reducible apply Kept.ite <;> intro _ | simp only [Kept.upd] | split | intro _
theorem execRailFault_eq {r : Fin 7} {millivolts : Nat} {s : State} {t' : State} (he : execRailFault r millivolts s = .next t') (h : Kept q M C s) : Kept q M C t' := execRailFault_kept r millivolts s h t' he

theorem State.setFloor_kept (s : State) (x : Power)  (h : Kept q M C s) : Kept q M C (State.setFloor s x) := by
  unfold State.setFloor
  try dsimp only
  repeat' first | with_reducible assumption | with_reducible apply State.bumpWhere_kept | with_reducible apply Kept.ite <;> intro _ | simp only [Kept.upd] | split | intro _

theorem execPowerLimitUpdate_kept (watts : Nat) (s : State)  (h : Kept q M C s) : KeptOut q M C (execPowerLimitUpdate watts s) := by
  unfold execPowerLimitUpdate
  try dsimp only
  repeat' first | with_reducible assumption | with_reducible apply KeptOut.next | with_reducible apply KeptOut.ite <;> intro _ | with_reducible apply State.bumpWhere_kept | with_reducible apply State.logPower_kept | with_reducible apply State.setFloor_kept | with_reducible apply Kept.ite <;> intro _ | simp only [Kept.upd] | split | intro _
theorem execPowerLimitUpdate_eq {watts : Nat} {s : State} {t' : State} (he : execPowerLimitUpdate watts s = .next t') (h : Kept q M C s) : Kept q M C t' := execPowerLimitUpdate_kept watts s h t' he

theorem State.sensed_kept (s : State) (k : Nat) (t : Int)  (h : Kept q M C s) : Kept q M C (State.sensed s k t) := by
  unfold State.sensed
  try dsimp only
  repeat' first | with_reducible assumption | with_reducible apply State.bumpWhere_kept | with_reducible apply Kept.ite <;> intro _ | simp only [Kept.upd] | split | intro _

theorem execThermalWarning_kept (x : Sensor) (tenths : Int) (s : State)  (h : Kept q M C s) : KeptOut q M C (execThermalWarning x tenths s) := by
  unfold execThermalWarning
  try dsimp only
  repeat' first | with_reducible assumption | with_reducible apply KeptOut.next | with_reducible apply KeptOut.ite <;> intro _ | with_reducible apply State.logPower_kept | with_reducible apply State.assertAlert_kept | with_reducible apply State.sensed_kept | with_reducible apply Kept.ite <;> intro _ | simp only [Kept.upd] | split | intro _
theorem execThermalWarning_eq {x : Sensor} {tenths : Int} {s : State} {t' : State} (he : execThermalWarning x tenths s = .next t') (h : Kept q M C s) : Kept q M C t' := execThermalWarning_kept x tenths s h t' he

theorem execThrottleBegin_kept (x : Sensor) (tenths : Int) (s : State)  (h : Kept q M C s) : KeptOut q M C (execThrottleBegin x tenths s) := by
  unfold execThrottleBegin
  try dsimp only
  repeat' first | with_reducible assumption | with_reducible apply KeptOut.next | with_reducible apply KeptOut.ite <;> intro _ | with_reducible apply State.logPower_kept | with_reducible apply State.setFloor_kept | with_reducible apply State.sensed_kept | with_reducible apply Kept.ite <;> intro _ | simp only [Kept.upd] | split | intro _
theorem execThrottleBegin_eq {x : Sensor} {tenths : Int} {s : State} {t' : State} (he : execThrottleBegin x tenths s = .next t') (h : Kept q M C s) : Kept q M C t' := execThrottleBegin_kept x tenths s h t' he

theorem execThrottleEnd_kept (s : State)  (h : Kept q M C s) : KeptOut q M C (execThrottleEnd s) := by
  unfold execThrottleEnd
  try dsimp only
  repeat' first | with_reducible assumption | with_reducible apply KeptOut.next | with_reducible apply KeptOut.ite <;> intro _ | with_reducible apply State.bumpWhere_kept | with_reducible apply State.logPower_kept | with_reducible apply State.setFloor_kept | with_reducible apply Kept.ite <;> intro _ | simp only [Kept.upd] | split | intro _
theorem execThrottleEnd_eq {s : State} {t' : State} (he : execThrottleEnd s = .next t') (h : Kept q M C s) : Kept q M C t' := execThrottleEnd_kept s h t' he

theorem execThermtrip_kept (x : Sensor) (tenths : Int) (s : State)  (h : Kept q M C s) : KeptOut q M C (execThermtrip x tenths s) := by
  unfold execThermtrip
  try dsimp only
  repeat' first | with_reducible assumption | with_reducible apply KeptOut.next | with_reducible apply KeptOut.ite <;> intro _ | with_reducible apply State.emit_kept | with_reducible apply State.logPower_kept | with_reducible apply State.sensed_kept | with_reducible apply Kept.ite <;> intro _ | simp only [Kept.upd] | split | intro _
theorem execThermtrip_eq {x : Sensor} {tenths : Int} {s : State} {t' : State} (he : execThermtrip x tenths s = .next t') (h : Kept q M C s) : Kept q M C t' := execThermtrip_kept x tenths s h t' he

theorem actThermalStatus_kept (s : State) (a : Ask)  (h : Kept q M C s) : KeptAct q M C (actThermalStatus s a) := by
  unfold actThermalStatus
  try dsimp only
  repeat' first | with_reducible assumption | with_reducible apply KeptAct.ok | with_reducible exact KeptAct.error | with_reducible apply KeptAct.needs | with_reducible apply KeptAct.ite <;> intro _ | with_reducible apply State.emit_kept | with_reducible apply actRead_kept | with_reducible refine actRead_eq ‹_› ?_ | with_reducible apply Kept.ite <;> intro _ | simp only [Kept.upd] | split | intro _
theorem actThermalStatus_eq {s : State} {a : Ask} {d : Done} (he : actThermalStatus s a = .ok d) (h : Kept q M C s) : Kept q M C d.s := actThermalStatus_kept s a h d he

theorem execThermalStatusRead_kept (via : Via) (s : State)  (h : Kept q M C s) : KeptOut q M C (execThermalStatusRead via s) := by
  unfold execThermalStatusRead
  try dsimp only
  repeat' first | with_reducible assumption | with_reducible apply KeptOut.next | with_reducible apply KeptOut.ite <;> intro _ | with_reducible apply State.cdpRow_kept | with_reducible apply actThermalStatus_kept | with_reducible refine actThermalStatus_eq ‹_› ?_ | with_reducible apply Kept.ite <;> intro _ | simp only [Kept.upd] | split | intro _
theorem execThermalStatusRead_eq {via : Via} {s : State} {t' : State} (he : execThermalStatusRead via s = .next t') (h : Kept q M C s) : Kept q M C t' := execThermalStatusRead_kept via s h t' he

theorem actPark_kept (s : State) (a1_ : Ask)  (h : Kept q M C s) : KeptAct q M C (actPark s a1_) := by
  unfold actPark
  try dsimp only
  repeat' first | with_reducible assumption | with_reducible apply KeptAct.ok | with_reducible exact KeptAct.error | with_reducible apply KeptAct.needs | with_reducible apply KeptAct.ite <;> intro _ | with_reducible apply State.bump_kept | with_reducible apply State.count_kept | with_reducible apply State.logPower_kept | with_reducible apply Kept.ite <;> intro _ | simp only [Kept.upd] | split | intro _
theorem actPark_eq {s : State} {a1_ : Ask} {d : Done} (he : actPark s a1_ = .ok d) (h : Kept q M C s) : Kept q M C d.s := actPark_kept s a1_ h d he

theorem execPark_kept (via : Via) (s : State)  (h : Kept q M C s) : KeptOut q M C (execPark via s) := by
  unfold execPark
  try dsimp only
  repeat' first | with_reducible assumption | with_reducible apply KeptOut.next | with_reducible apply KeptOut.ite <;> intro _ | with_reducible apply State.cdpRow_kept | with_reducible apply actPark_kept | with_reducible refine actPark_eq ‹_› ?_ | with_reducible apply Kept.ite <;> intro _ | simp only [Kept.upd] | split | intro _
theorem execPark_eq {via : Via} {s : State} {t' : State} (he : execPark via s = .next t') (h : Kept q M C s) : Kept q M C t' := execPark_kept via s h t' he

theorem State.wakeUp_kept (s : State)  (h : Kept q M C s) : Kept q M C (State.wakeUp s) := by
  unfold State.wakeUp
  try dsimp only
  repeat' first | with_reducible assumption | with_reducible apply State.bump_kept | with_reducible apply State.logPower_kept | with_reducible apply Kept.ite <;> intro _ | simp only [Kept.upd] | split | intro _

theorem actWake_kept (s : State) (a1_ : Ask)  (h : Kept q M C s) : KeptAct q M C (actWake s a1_) := by
  unfold actWake
  try dsimp only
  repeat' first | with_reducible assumption | with_reducible apply KeptAct.ok | with_reducible exact KeptAct.error | with_reducible apply KeptAct.needs | with_reducible apply KeptAct.ite <;> intro _ | with_reducible apply State.wakeUp_kept | with_reducible apply Kept.ite <;> intro _ | simp only [Kept.upd] | split | intro _
theorem actWake_eq {s : State} {a1_ : Ask} {d : Done} (he : actWake s a1_ = .ok d) (h : Kept q M C s) : Kept q M C d.s := actWake_kept s a1_ h d he

theorem execWake_kept (w : WakeTrigger) (s : State)  (h : Kept q M C s) : KeptOut q M C (execWake w s) := by
  unfold execWake
  try dsimp only
  repeat' first | with_reducible assumption | with_reducible apply KeptOut.next | with_reducible apply KeptOut.ite <;> intro _ | with_reducible apply State.cdpRow_kept | with_reducible apply State.wakeUp_kept | with_reducible apply actWake_kept | with_reducible refine actWake_eq ‹_› ?_ | with_reducible apply Kept.ite <;> intro _ | simp only [Kept.upd] | split | intro _
theorem execWake_eq {w : WakeTrigger} {s : State} {t' : State} (he : execWake w s = .next t') (h : Kept q M C s) : Kept q M C t' := execWake_kept w s h t' he

end
end Sys2Proof.Machine
end

