-- ==== Sys2Proof/Laws/DictionaryKeeps.lean ====
section
/-! SUPPORT. What the operations of Machine/Dictionary.lean keep: the queue, the form of the state and, where they store nothing, the memory. -/
set_option linter.all false
set_option Elab.async false
namespace Sys2Proof.Machine
section
variable {q : List Instr} {M : Memory → Prop} {C : Prop}

/-- Each act of the table keeps both. -/
theorem actTable_kept : ∀ e ∈ actTable, ∀ s a, Kept q M C s → KeptAct q M C (e.2.2.2 s a) := by
  simp only [actTable, List.forall_mem_cons]
  exact ⟨actFreeze_kept, actFreezeAt_kept, actUnfreeze_kept, actSnapshot_kept, actSwitch_kept, actCutDraining_kept, actCreate_kept, actDestroy_kept, actAdmitted_kept, actQuoteNonce_kept, actEnrol_kept, actVfMap_kept, actKeyLoad_kept, actKeyErase_kept, actTeardown_kept, actAllocAdd_kept, actAllocFree_kept, actPcOwner_kept, actPark_kept, actWake_kept, actRetrain_kept, actLinkEnable_kept, actOpen_kept, actClose_kept, actSessionOpen_kept, actSessionClose_kept, actRelay_kept, actLogClear_kept, actClear_kept, actResetCause_kept, actBlockReset_kept, actCoreReset_kept, actActivate_kept, actPersist_kept, actUnpersist_kept, actClearRetired_kept, actQpState_kept, actFetchStart_kept, actTimeParent_kept, actUtcSet_kept, fun _ h => nomatch h⟩

theorem rowAct_kept {i u : Nat} {f : State → Ask → Except Nat Done} (he : rowAct i u = some f) (s : State) (a : Ask) (h : Kept q M C s) :
    KeptAct q M C (f s a) := by
  simp only [rowAct, Option.map_eq_some_iff] at he
  obtain ⟨e, hf, rfl⟩ := he
  exact actTable_kept e (List.mem_of_find?_eq_some hf) s a h

theorem actAny_kept (s : State) (a : Ask) (h : Kept q M C s) : KeptAct q M C (actAny s a) := by
  unfold actAny
  repeat' first | with_reducible apply KeptAct.ite <;> intro _ | with_reducible apply actRead_kept _ _ h | with_reducible apply actLogWindow_kept _ _ h | with_reducible apply actThermalStatus_kept _ _ h | with_reducible apply actPlain_kept _ _ h | split
  exact rowAct_kept (by assumption) s a h

theorem execWrite_kept (via : Via) (s : State)  (h : Kept q M C s) : KeptOut q M C (execWrite via s) := by
  unfold execWrite
  try dsimp only
  repeat' first | with_reducible assumption | with_reducible apply KeptOut.next | with_reducible apply KeptOut.ite <;> intro _ | with_reducible apply State.cdpRow_kept | with_reducible apply actAny_kept | with_reducible refine actAny_eq ‹_› ?_ | with_reducible apply Kept.ite <;> intro _ | simp only [Kept.upd] | split | intro _
theorem execWrite_eq {via : Via} {s : State} {t' : State} (he : execWrite via s = .next t') (h : Kept q M C s) : Kept q M C t' := execWrite_kept via s h t' he

theorem execWriteBlock_kept (via : Via) (s : State)  (h : Kept q M C s) : KeptOut q M C (execWriteBlock via s) := by
  unfold execWriteBlock
  try dsimp only
  repeat' first | with_reducible assumption | with_reducible apply KeptOut.next | with_reducible apply KeptOut.ite <;> intro _ | with_reducible apply State.cdpRow_kept | with_reducible apply actAny_kept | with_reducible refine actAny_eq ‹_› ?_ | with_reducible apply Kept.ite <;> intro _ | simp only [Kept.upd] | split | intro _
theorem execWriteBlock_eq {via : Via} {s : State} {t' : State} (he : execWriteBlock via s = .next t') (h : Kept q M C s) : Kept q M C t' := execWriteBlock_kept via s h t' he

end
end Sys2Proof.Machine
end

