-- ==== Sys2Proof/Laws/State.lean ====
section
/-! SUPPORT. The state's fields after each named update: one lemma for each field, so that no later proof unfolds a record update, and what is
read back from each table. -/
namespace Sys2Proof.Machine

/-! ## bump -/

@[simp] theorem State.bump_mode (s : State) (i u : Nat) : (s.bump i u).mode = s.mode := rfl
@[simp] theorem State.bump_pending (s : State) (i u : Nat) : (s.bump i u).pending = s.pending := rfl
@[simp] theorem State.bump_out (s : State) (i u : Nat) : (s.bump i u).out = s.out := rfl
@[simp] theorem State.bump_draws (s : State) (i u : Nat) : (s.bump i u).draws = s.draws := rfl
@[simp] theorem State.bump_now (s : State) (i u : Nat) : (s.bump i u).now = s.now := rfl
@[simp] theorem State.bump_mem (s : State) (i u : Nat) : (s.bump i u).mem = s.mem := rfl
@[simp] theorem State.bump_districts (s : State) (i u : Nat) : (s.bump i u).districts = s.districts := rfl
@[simp] theorem State.bump_time (s : State) (i u : Nat) : (s.bump i u).time = s.time := rfl
@[simp] theorem State.bump_blocks (s : State) (i u : Nat) : (s.bump i u).blocks = s.blocks := rfl
@[simp] theorem State.bump_parts (s : State) (i u : Nat) : (s.bump i u).parts = s.parts := rfl
@[simp] theorem State.bump_cores (s : State) (i u : Nat) : (s.bump i u).cores = s.cores := rfl
@[simp] theorem State.bump_channels (s : State) (i u : Nat) : (s.bump i u).channels = s.channels := rfl
@[simp] theorem State.bump_opCount (s : State) (i u : Nat) : (s.bump i u).opCount = s.opCount := rfl
@[simp] theorem State.bump_fns (s : State) (i u : Nat) : (s.bump i u).fns = s.fns := rfl
@[simp] theorem State.bump_pcie (s : State) (i u : Nat) : (s.bump i u).pcie = s.pcie := rfl
@[simp] theorem State.bump_windows (s : State) (i u : Nat) : (s.bump i u).windows = s.windows := rfl
@[simp] theorem State.bump_cdp (s : State) (i u : Nat) : (s.bump i u).cdp = s.cdp := rfl
@[simp] theorem State.bump_log (s : State) (i u : Nat) : (s.bump i u).log = s.log := rfl
@[simp] theorem State.bump_requests (s : State) (i u : Nat) : (s.bump i u).requests = s.requests := rfl
@[simp] theorem State.bump_serving (s : State) (i u : Nat) : (s.bump i u).serving = s.serving := rfl
@[simp] theorem State.bump_qps (s : State) (i u : Nat) : (s.bump i u).qps = s.qps := rfl
@[simp] theorem State.bump_fetch (s : State) (i u : Nat) : (s.bump i u).fetch = s.fetch := rfl
@[simp] theorem State.bump_tenants (s : State) (i u : Nat) : (s.bump i u).tenants = s.tenants := rfl
@[simp] theorem State.bump_allocs (s : State) (i u : Nat) : (s.bump i u).allocs = s.allocs := rfl
@[simp] theorem State.bump_keys (s : State) (i u : Nat) : (s.bump i u).keys = s.keys := rfl
@[simp] theorem State.bump_objects (s : State) (i u : Nat) : (s.bump i u).objects = s.objects := rfl
@[simp] theorem State.bump_counters (s : State) (i u : Nat) : (s.bump i u).counters = s.counters := rfl
@[simp] theorem State.bump_shadows (s : State) (i u : Nat) : (s.bump i u).shadows = s.shadows := rfl
@[simp] theorem State.bump_start (s : State) (i u : Nat) : (s.bump i u).start = s.start := rfl
@[simp] theorem State.bump_card (s : State) (i u : Nat) : (s.bump i u).card = s.card := rfl
@[simp] theorem State.bump_freeze (s : State) (i u : Nat) : (s.bump i u).freeze = s.freeze := rfl
@[simp] theorem State.bump_jtag (s : State) (i u : Nat) : (s.bump i u).jtag = s.jtag := rfl
@[simp] theorem State.bump_power (s : State) (i u : Nat) : (s.bump i u).power = s.power := rfl
@[simp] theorem State.bump_snapshot (s : State) (i u : Nat) : (s.bump i u).snapshot = s.snapshot := rfl
@[simp] theorem State.bump_ports (s : State) (i u : Nat) : (s.bump i u).ports = s.ports := rfl
@[simp] theorem State.bump_crossroads (s : State) (i u : Nat) : (s.bump i u).crossroads = s.crossroads := rfl
@[simp] theorem State.bump_arrived (s : State) (i u : Nat) : (s.bump i u).arrived = s.arrived := rfl
@[simp] theorem State.bump_jobs (s : State) (i u : Nat) : (s.bump i u).jobs = s.jobs := rfl
@[simp] theorem State.bump_outstanding (s : State) (i u : Nat) : (s.bump i u).outstanding = s.outstanding := rfl
@[simp] theorem State.bump_rtag (s : State) (i u : Nat) : (s.bump i u).rtag = s.rtag := rfl
@[simp] theorem State.bump_colls (s : State) (i u : Nat) : (s.bump i u).colls = s.colls := rfl
@[simp] theorem State.bump_seenNotices (s : State) (i u : Nat) : (s.bump i u).seenNotices = s.seenNotices := rfl
@[simp] theorem State.bump_refilled (s : State) (i u : Nat) : (s.bump i u).refilled = s.refilled := rfl
@[simp] theorem State.bump_flaws (s : State) (i u : Nat) : (s.bump i u).flaws = s.flaws := rfl

/-! ## bumpWhere -/

@[simp] theorem State.bumpWhere_mode : ∀ (l : List (Bool × Nat × Nat)) (s : State), (s.bumpWhere l).mode = s.mode
  | [], _ => rfl
  | (true, i, u) :: t, s => State.bumpWhere_mode t (s.bump i u)
  | (false, _, _) :: t, s => State.bumpWhere_mode t s
@[simp] theorem State.bumpWhere_pending : ∀ (l : List (Bool × Nat × Nat)) (s : State), (s.bumpWhere l).pending = s.pending
  | [], _ => rfl
  | (true, i, u) :: t, s => State.bumpWhere_pending t (s.bump i u)
  | (false, _, _) :: t, s => State.bumpWhere_pending t s
@[simp] theorem State.bumpWhere_out : ∀ (l : List (Bool × Nat × Nat)) (s : State), (s.bumpWhere l).out = s.out
  | [], _ => rfl
  | (true, i, u) :: t, s => State.bumpWhere_out t (s.bump i u)
  | (false, _, _) :: t, s => State.bumpWhere_out t s
@[simp] theorem State.bumpWhere_draws : ∀ (l : List (Bool × Nat × Nat)) (s : State), (s.bumpWhere l).draws = s.draws
  | [], _ => rfl
  | (true, i, u) :: t, s => State.bumpWhere_draws t (s.bump i u)
  | (false, _, _) :: t, s => State.bumpWhere_draws t s
@[simp] theorem State.bumpWhere_now : ∀ (l : List (Bool × Nat × Nat)) (s : State), (s.bumpWhere l).now = s.now
  | [], _ => rfl
  | (true, i, u) :: t, s => State.bumpWhere_now t (s.bump i u)
  | (false, _, _) :: t, s => State.bumpWhere_now t s
@[simp] theorem State.bumpWhere_mem : ∀ (l : List (Bool × Nat × Nat)) (s : State), (s.bumpWhere l).mem = s.mem
  | [], _ => rfl
  | (true, i, u) :: t, s => State.bumpWhere_mem t (s.bump i u)
  | (false, _, _) :: t, s => State.bumpWhere_mem t s
@[simp] theorem State.bumpWhere_districts : ∀ (l : List (Bool × Nat × Nat)) (s : State), (s.bumpWhere l).districts = s.districts
  | [], _ => rfl
  | (true, i, u) :: t, s => State.bumpWhere_districts t (s.bump i u)
  | (false, _, _) :: t, s => State.bumpWhere_districts t s
@[simp] theorem State.bumpWhere_time : ∀ (l : List (Bool × Nat × Nat)) (s : State), (s.bumpWhere l).time = s.time
  | [], _ => rfl
  | (true, i, u) :: t, s => State.bumpWhere_time t (s.bump i u)
  | (false, _, _) :: t, s => State.bumpWhere_time t s
@[simp] theorem State.bumpWhere_blocks : ∀ (l : List (Bool × Nat × Nat)) (s : State), (s.bumpWhere l).blocks = s.blocks
  | [], _ => rfl
  | (true, i, u) :: t, s => State.bumpWhere_blocks t (s.bump i u)
  | (false, _, _) :: t, s => State.bumpWhere_blocks t s
@[simp] theorem State.bumpWhere_parts : ∀ (l : List (Bool × Nat × Nat)) (s : State), (s.bumpWhere l).parts = s.parts
  | [], _ => rfl
  | (true, i, u) :: t, s => State.bumpWhere_parts t (s.bump i u)
  | (false, _, _) :: t, s => State.bumpWhere_parts t s
@[simp] theorem State.bumpWhere_cores : ∀ (l : List (Bool × Nat × Nat)) (s : State), (s.bumpWhere l).cores = s.cores
  | [], _ => rfl
  | (true, i, u) :: t, s => State.bumpWhere_cores t (s.bump i u)
  | (false, _, _) :: t, s => State.bumpWhere_cores t s
@[simp] theorem State.bumpWhere_channels : ∀ (l : List (Bool × Nat × Nat)) (s : State), (s.bumpWhere l).channels = s.channels
  | [], _ => rfl
  | (true, i, u) :: t, s => State.bumpWhere_channels t (s.bump i u)
  | (false, _, _) :: t, s => State.bumpWhere_channels t s
@[simp] theorem State.bumpWhere_opCount : ∀ (l : List (Bool × Nat × Nat)) (s : State), (s.bumpWhere l).opCount = s.opCount
  | [], _ => rfl
  | (true, i, u) :: t, s => State.bumpWhere_opCount t (s.bump i u)
  | (false, _, _) :: t, s => State.bumpWhere_opCount t s
@[simp] theorem State.bumpWhere_fns : ∀ (l : List (Bool × Nat × Nat)) (s : State), (s.bumpWhere l).fns = s.fns
  | [], _ => rfl
  | (true, i, u) :: t, s => State.bumpWhere_fns t (s.bump i u)
  | (false, _, _) :: t, s => State.bumpWhere_fns t s
@[simp] theorem State.bumpWhere_pcie : ∀ (l : List (Bool × Nat × Nat)) (s : State), (s.bumpWhere l).pcie = s.pcie
  | [], _ => rfl
  | (true, i, u) :: t, s => State.bumpWhere_pcie t (s.bump i u)
  | (false, _, _) :: t, s => State.bumpWhere_pcie t s
@[simp] theorem State.bumpWhere_windows : ∀ (l : List (Bool × Nat × Nat)) (s : State), (s.bumpWhere l).windows = s.windows
  | [], _ => rfl
  | (true, i, u) :: t, s => State.bumpWhere_windows t (s.bump i u)
  | (false, _, _) :: t, s => State.bumpWhere_windows t s
@[simp] theorem State.bumpWhere_cdp : ∀ (l : List (Bool × Nat × Nat)) (s : State), (s.bumpWhere l).cdp = s.cdp
  | [], _ => rfl
  | (true, i, u) :: t, s => State.bumpWhere_cdp t (s.bump i u)
  | (false, _, _) :: t, s => State.bumpWhere_cdp t s
@[simp] theorem State.bumpWhere_log : ∀ (l : List (Bool × Nat × Nat)) (s : State), (s.bumpWhere l).log = s.log
  | [], _ => rfl
  | (true, i, u) :: t, s => State.bumpWhere_log t (s.bump i u)
  | (false, _, _) :: t, s => State.bumpWhere_log t s
@[simp] theorem State.bumpWhere_requests : ∀ (l : List (Bool × Nat × Nat)) (s : State), (s.bumpWhere l).requests = s.requests
  | [], _ => rfl
  | (true, i, u) :: t, s => State.bumpWhere_requests t (s.bump i u)
  | (false, _, _) :: t, s => State.bumpWhere_requests t s
@[simp] theorem State.bumpWhere_serving : ∀ (l : List (Bool × Nat × Nat)) (s : State), (s.bumpWhere l).serving = s.serving
  | [], _ => rfl
  | (true, i, u) :: t, s => State.bumpWhere_serving t (s.bump i u)
  | (false, _, _) :: t, s => State.bumpWhere_serving t s
@[simp] theorem State.bumpWhere_qps : ∀ (l : List (Bool × Nat × Nat)) (s : State), (s.bumpWhere l).qps = s.qps
  | [], _ => rfl
  | (true, i, u) :: t, s => State.bumpWhere_qps t (s.bump i u)
  | (false, _, _) :: t, s => State.bumpWhere_qps t s
@[simp] theorem State.bumpWhere_fetch : ∀ (l : List (Bool × Nat × Nat)) (s : State), (s.bumpWhere l).fetch = s.fetch
  | [], _ => rfl
  | (true, i, u) :: t, s => State.bumpWhere_fetch t (s.bump i u)
  | (false, _, _) :: t, s => State.bumpWhere_fetch t s
@[simp] theorem State.bumpWhere_tenants : ∀ (l : List (Bool × Nat × Nat)) (s : State), (s.bumpWhere l).tenants = s.tenants
  | [], _ => rfl
  | (true, i, u) :: t, s => State.bumpWhere_tenants t (s.bump i u)
  | (false, _, _) :: t, s => State.bumpWhere_tenants t s
@[simp] theorem State.bumpWhere_allocs : ∀ (l : List (Bool × Nat × Nat)) (s : State), (s.bumpWhere l).allocs = s.allocs
  | [], _ => rfl
  | (true, i, u) :: t, s => State.bumpWhere_allocs t (s.bump i u)
  | (false, _, _) :: t, s => State.bumpWhere_allocs t s
@[simp] theorem State.bumpWhere_keys : ∀ (l : List (Bool × Nat × Nat)) (s : State), (s.bumpWhere l).keys = s.keys
  | [], _ => rfl
  | (true, i, u) :: t, s => State.bumpWhere_keys t (s.bump i u)
  | (false, _, _) :: t, s => State.bumpWhere_keys t s
@[simp] theorem State.bumpWhere_objects : ∀ (l : List (Bool × Nat × Nat)) (s : State), (s.bumpWhere l).objects = s.objects
  | [], _ => rfl
  | (true, i, u) :: t, s => State.bumpWhere_objects t (s.bump i u)
  | (false, _, _) :: t, s => State.bumpWhere_objects t s
@[simp] theorem State.bumpWhere_counters : ∀ (l : List (Bool × Nat × Nat)) (s : State), (s.bumpWhere l).counters = s.counters
  | [], _ => rfl
  | (true, i, u) :: t, s => State.bumpWhere_counters t (s.bump i u)
  | (false, _, _) :: t, s => State.bumpWhere_counters t s
@[simp] theorem State.bumpWhere_shadows : ∀ (l : List (Bool × Nat × Nat)) (s : State), (s.bumpWhere l).shadows = s.shadows
  | [], _ => rfl
  | (true, i, u) :: t, s => State.bumpWhere_shadows t (s.bump i u)
  | (false, _, _) :: t, s => State.bumpWhere_shadows t s
@[simp] theorem State.bumpWhere_start : ∀ (l : List (Bool × Nat × Nat)) (s : State), (s.bumpWhere l).start = s.start
  | [], _ => rfl
  | (true, i, u) :: t, s => State.bumpWhere_start t (s.bump i u)
  | (false, _, _) :: t, s => State.bumpWhere_start t s
@[simp] theorem State.bumpWhere_card : ∀ (l : List (Bool × Nat × Nat)) (s : State), (s.bumpWhere l).card = s.card
  | [], _ => rfl
  | (true, i, u) :: t, s => State.bumpWhere_card t (s.bump i u)
  | (false, _, _) :: t, s => State.bumpWhere_card t s
@[simp] theorem State.bumpWhere_freeze : ∀ (l : List (Bool × Nat × Nat)) (s : State), (s.bumpWhere l).freeze = s.freeze
  | [], _ => rfl
  | (true, i, u) :: t, s => State.bumpWhere_freeze t (s.bump i u)
  | (false, _, _) :: t, s => State.bumpWhere_freeze t s
@[simp] theorem State.bumpWhere_jtag : ∀ (l : List (Bool × Nat × Nat)) (s : State), (s.bumpWhere l).jtag = s.jtag
  | [], _ => rfl
  | (true, i, u) :: t, s => State.bumpWhere_jtag t (s.bump i u)
  | (false, _, _) :: t, s => State.bumpWhere_jtag t s
@[simp] theorem State.bumpWhere_power : ∀ (l : List (Bool × Nat × Nat)) (s : State), (s.bumpWhere l).power = s.power
  | [], _ => rfl
  | (true, i, u) :: t, s => State.bumpWhere_power t (s.bump i u)
  | (false, _, _) :: t, s => State.bumpWhere_power t s
@[simp] theorem State.bumpWhere_snapshot : ∀ (l : List (Bool × Nat × Nat)) (s : State), (s.bumpWhere l).snapshot = s.snapshot
  | [], _ => rfl
  | (true, i, u) :: t, s => State.bumpWhere_snapshot t (s.bump i u)
  | (false, _, _) :: t, s => State.bumpWhere_snapshot t s
@[simp] theorem State.bumpWhere_ports : ∀ (l : List (Bool × Nat × Nat)) (s : State), (s.bumpWhere l).ports = s.ports
  | [], _ => rfl
  | (true, i, u) :: t, s => State.bumpWhere_ports t (s.bump i u)
  | (false, _, _) :: t, s => State.bumpWhere_ports t s
@[simp] theorem State.bumpWhere_crossroads : ∀ (l : List (Bool × Nat × Nat)) (s : State), (s.bumpWhere l).crossroads = s.crossroads
  | [], _ => rfl
  | (true, i, u) :: t, s => State.bumpWhere_crossroads t (s.bump i u)
  | (false, _, _) :: t, s => State.bumpWhere_crossroads t s
@[simp] theorem State.bumpWhere_arrived : ∀ (l : List (Bool × Nat × Nat)) (s : State), (s.bumpWhere l).arrived = s.arrived
  | [], _ => rfl
  | (true, i, u) :: t, s => State.bumpWhere_arrived t (s.bump i u)
  | (false, _, _) :: t, s => State.bumpWhere_arrived t s
@[simp] theorem State.bumpWhere_jobs : ∀ (l : List (Bool × Nat × Nat)) (s : State), (s.bumpWhere l).jobs = s.jobs
  | [], _ => rfl
  | (true, i, u) :: t, s => State.bumpWhere_jobs t (s.bump i u)
  | (false, _, _) :: t, s => State.bumpWhere_jobs t s
@[simp] theorem State.bumpWhere_outstanding : ∀ (l : List (Bool × Nat × Nat)) (s : State), (s.bumpWhere l).outstanding = s.outstanding
  | [], _ => rfl
  | (true, i, u) :: t, s => State.bumpWhere_outstanding t (s.bump i u)
  | (false, _, _) :: t, s => State.bumpWhere_outstanding t s
@[simp] theorem State.bumpWhere_rtag : ∀ (l : List (Bool × Nat × Nat)) (s : State), (s.bumpWhere l).rtag = s.rtag
  | [], _ => rfl
  | (true, i, u) :: t, s => State.bumpWhere_rtag t (s.bump i u)
  | (false, _, _) :: t, s => State.bumpWhere_rtag t s
@[simp] theorem State.bumpWhere_colls : ∀ (l : List (Bool × Nat × Nat)) (s : State), (s.bumpWhere l).colls = s.colls
  | [], _ => rfl
  | (true, i, u) :: t, s => State.bumpWhere_colls t (s.bump i u)
  | (false, _, _) :: t, s => State.bumpWhere_colls t s
@[simp] theorem State.bumpWhere_seenNotices : ∀ (l : List (Bool × Nat × Nat)) (s : State), (s.bumpWhere l).seenNotices = s.seenNotices
  | [], _ => rfl
  | (true, i, u) :: t, s => State.bumpWhere_seenNotices t (s.bump i u)
  | (false, _, _) :: t, s => State.bumpWhere_seenNotices t s
@[simp] theorem State.bumpWhere_refilled : ∀ (l : List (Bool × Nat × Nat)) (s : State), (s.bumpWhere l).refilled = s.refilled
  | [], _ => rfl
  | (true, i, u) :: t, s => State.bumpWhere_refilled t (s.bump i u)
  | (false, _, _) :: t, s => State.bumpWhere_refilled t s
@[simp] theorem State.bumpWhere_flaws : ∀ (l : List (Bool × Nat × Nat)) (s : State), (s.bumpWhere l).flaws = s.flaws
  | [], _ => rfl
  | (true, i, u) :: t, s => State.bumpWhere_flaws t (s.bump i u)
  | (false, _, _) :: t, s => State.bumpWhere_flaws t s

/-! ## setBlock -/

@[simp] theorem State.setBlock_mode (s : State) (i : Nat) (x : Block) : (s.setBlock i x).mode = s.mode := rfl
@[simp] theorem State.setBlock_pending (s : State) (i : Nat) (x : Block) : (s.setBlock i x).pending = s.pending := rfl
@[simp] theorem State.setBlock_out (s : State) (i : Nat) (x : Block) : (s.setBlock i x).out = s.out := rfl
@[simp] theorem State.setBlock_draws (s : State) (i : Nat) (x : Block) : (s.setBlock i x).draws = s.draws := rfl
@[simp] theorem State.setBlock_now (s : State) (i : Nat) (x : Block) : (s.setBlock i x).now = s.now := rfl
@[simp] theorem State.setBlock_mem (s : State) (i : Nat) (x : Block) : (s.setBlock i x).mem = s.mem := rfl
@[simp] theorem State.setBlock_districts (s : State) (i : Nat) (x : Block) : (s.setBlock i x).districts = s.districts := rfl
@[simp] theorem State.setBlock_time (s : State) (i : Nat) (x : Block) : (s.setBlock i x).time = s.time := rfl
@[simp] theorem State.setBlock_parts (s : State) (i : Nat) (x : Block) : (s.setBlock i x).parts = s.parts := rfl
@[simp] theorem State.setBlock_cores (s : State) (i : Nat) (x : Block) : (s.setBlock i x).cores = s.cores := rfl
@[simp] theorem State.setBlock_channels (s : State) (i : Nat) (x : Block) : (s.setBlock i x).channels = s.channels := rfl
@[simp] theorem State.setBlock_opCount (s : State) (i : Nat) (x : Block) : (s.setBlock i x).opCount = s.opCount := rfl
@[simp] theorem State.setBlock_fns (s : State) (i : Nat) (x : Block) : (s.setBlock i x).fns = s.fns := rfl
@[simp] theorem State.setBlock_pcie (s : State) (i : Nat) (x : Block) : (s.setBlock i x).pcie = s.pcie := rfl
@[simp] theorem State.setBlock_windows (s : State) (i : Nat) (x : Block) : (s.setBlock i x).windows = s.windows := rfl
@[simp] theorem State.setBlock_cdp (s : State) (i : Nat) (x : Block) : (s.setBlock i x).cdp = s.cdp := rfl
@[simp] theorem State.setBlock_log (s : State) (i : Nat) (x : Block) : (s.setBlock i x).log = s.log := rfl
@[simp] theorem State.setBlock_requests (s : State) (i : Nat) (x : Block) : (s.setBlock i x).requests = s.requests := rfl
@[simp] theorem State.setBlock_serving (s : State) (i : Nat) (x : Block) : (s.setBlock i x).serving = s.serving := rfl
@[simp] theorem State.setBlock_qps (s : State) (i : Nat) (x : Block) : (s.setBlock i x).qps = s.qps := rfl
@[simp] theorem State.setBlock_fetch (s : State) (i : Nat) (x : Block) : (s.setBlock i x).fetch = s.fetch := rfl
@[simp] theorem State.setBlock_tenants (s : State) (i : Nat) (x : Block) : (s.setBlock i x).tenants = s.tenants := rfl
@[simp] theorem State.setBlock_allocs (s : State) (i : Nat) (x : Block) : (s.setBlock i x).allocs = s.allocs := rfl
@[simp] theorem State.setBlock_keys (s : State) (i : Nat) (x : Block) : (s.setBlock i x).keys = s.keys := rfl
@[simp] theorem State.setBlock_objects (s : State) (i : Nat) (x : Block) : (s.setBlock i x).objects = s.objects := rfl
@[simp] theorem State.setBlock_versions (s : State) (i : Nat) (x : Block) : (s.setBlock i x).versions = s.versions := rfl
@[simp] theorem State.setBlock_counters (s : State) (i : Nat) (x : Block) : (s.setBlock i x).counters = s.counters := rfl
@[simp] theorem State.setBlock_shadows (s : State) (i : Nat) (x : Block) : (s.setBlock i x).shadows = s.shadows := rfl
@[simp] theorem State.setBlock_start (s : State) (i : Nat) (x : Block) : (s.setBlock i x).start = s.start := rfl
@[simp] theorem State.setBlock_card (s : State) (i : Nat) (x : Block) : (s.setBlock i x).card = s.card := rfl
@[simp] theorem State.setBlock_freeze (s : State) (i : Nat) (x : Block) : (s.setBlock i x).freeze = s.freeze := rfl
@[simp] theorem State.setBlock_jtag (s : State) (i : Nat) (x : Block) : (s.setBlock i x).jtag = s.jtag := rfl
@[simp] theorem State.setBlock_power (s : State) (i : Nat) (x : Block) : (s.setBlock i x).power = s.power := rfl
@[simp] theorem State.setBlock_snapshot (s : State) (i : Nat) (x : Block) : (s.setBlock i x).snapshot = s.snapshot := rfl
@[simp] theorem State.setBlock_ports (s : State) (i : Nat) (x : Block) : (s.setBlock i x).ports = s.ports := rfl
@[simp] theorem State.setBlock_crossroads (s : State) (i : Nat) (x : Block) : (s.setBlock i x).crossroads = s.crossroads := rfl
@[simp] theorem State.setBlock_arrived (s : State) (i : Nat) (x : Block) : (s.setBlock i x).arrived = s.arrived := rfl
@[simp] theorem State.setBlock_jobs (s : State) (i : Nat) (x : Block) : (s.setBlock i x).jobs = s.jobs := rfl
@[simp] theorem State.setBlock_outstanding (s : State) (i : Nat) (x : Block) : (s.setBlock i x).outstanding = s.outstanding := rfl
@[simp] theorem State.setBlock_rtag (s : State) (i : Nat) (x : Block) : (s.setBlock i x).rtag = s.rtag := rfl
@[simp] theorem State.setBlock_colls (s : State) (i : Nat) (x : Block) : (s.setBlock i x).colls = s.colls := rfl
@[simp] theorem State.setBlock_seenNotices (s : State) (i : Nat) (x : Block) : (s.setBlock i x).seenNotices = s.seenNotices := rfl
@[simp] theorem State.setBlock_refilled (s : State) (i : Nat) (x : Block) : (s.setBlock i x).refilled = s.refilled := rfl
@[simp] theorem State.setBlock_flaws (s : State) (i : Nat) (x : Block) : (s.setBlock i x).flaws = s.flaws := rfl

/-! ## setDistrict -/

@[simp] theorem State.setDistrict_mode (s : State) (i : Nat) (x : District) : (s.setDistrict i x).mode = s.mode := rfl
@[simp] theorem State.setDistrict_pending (s : State) (i : Nat) (x : District) : (s.setDistrict i x).pending = s.pending := rfl
@[simp] theorem State.setDistrict_out (s : State) (i : Nat) (x : District) : (s.setDistrict i x).out = s.out := rfl
@[simp] theorem State.setDistrict_draws (s : State) (i : Nat) (x : District) : (s.setDistrict i x).draws = s.draws := rfl
@[simp] theorem State.setDistrict_now (s : State) (i : Nat) (x : District) : (s.setDistrict i x).now = s.now := rfl
@[simp] theorem State.setDistrict_mem (s : State) (i : Nat) (x : District) : (s.setDistrict i x).mem = s.mem := rfl
@[simp] theorem State.setDistrict_time (s : State) (i : Nat) (x : District) : (s.setDistrict i x).time = s.time := rfl
@[simp] theorem State.setDistrict_blocks (s : State) (i : Nat) (x : District) : (s.setDistrict i x).blocks = s.blocks := rfl
@[simp] theorem State.setDistrict_parts (s : State) (i : Nat) (x : District) : (s.setDistrict i x).parts = s.parts := rfl
@[simp] theorem State.setDistrict_cores (s : State) (i : Nat) (x : District) : (s.setDistrict i x).cores = s.cores := rfl
@[simp] theorem State.setDistrict_channels (s : State) (i : Nat) (x : District) : (s.setDistrict i x).channels = s.channels := rfl
@[simp] theorem State.setDistrict_opCount (s : State) (i : Nat) (x : District) : (s.setDistrict i x).opCount = s.opCount := rfl
@[simp] theorem State.setDistrict_fns (s : State) (i : Nat) (x : District) : (s.setDistrict i x).fns = s.fns := rfl
@[simp] theorem State.setDistrict_pcie (s : State) (i : Nat) (x : District) : (s.setDistrict i x).pcie = s.pcie := rfl
@[simp] theorem State.setDistrict_windows (s : State) (i : Nat) (x : District) : (s.setDistrict i x).windows = s.windows := rfl
@[simp] theorem State.setDistrict_cdp (s : State) (i : Nat) (x : District) : (s.setDistrict i x).cdp = s.cdp := rfl
@[simp] theorem State.setDistrict_log (s : State) (i : Nat) (x : District) : (s.setDistrict i x).log = s.log := rfl
@[simp] theorem State.setDistrict_requests (s : State) (i : Nat) (x : District) : (s.setDistrict i x).requests = s.requests := rfl
@[simp] theorem State.setDistrict_serving (s : State) (i : Nat) (x : District) : (s.setDistrict i x).serving = s.serving := rfl
@[simp] theorem State.setDistrict_qps (s : State) (i : Nat) (x : District) : (s.setDistrict i x).qps = s.qps := rfl
@[simp] theorem State.setDistrict_fetch (s : State) (i : Nat) (x : District) : (s.setDistrict i x).fetch = s.fetch := rfl
@[simp] theorem State.setDistrict_tenants (s : State) (i : Nat) (x : District) : (s.setDistrict i x).tenants = s.tenants := rfl
@[simp] theorem State.setDistrict_allocs (s : State) (i : Nat) (x : District) : (s.setDistrict i x).allocs = s.allocs := rfl
@[simp] theorem State.setDistrict_keys (s : State) (i : Nat) (x : District) : (s.setDistrict i x).keys = s.keys := rfl
@[simp] theorem State.setDistrict_objects (s : State) (i : Nat) (x : District) : (s.setDistrict i x).objects = s.objects := rfl
@[simp] theorem State.setDistrict_versions (s : State) (i : Nat) (x : District) : (s.setDistrict i x).versions = s.versions := rfl
@[simp] theorem State.setDistrict_counters (s : State) (i : Nat) (x : District) : (s.setDistrict i x).counters = s.counters := rfl
@[simp] theorem State.setDistrict_shadows (s : State) (i : Nat) (x : District) : (s.setDistrict i x).shadows = s.shadows := rfl
@[simp] theorem State.setDistrict_start (s : State) (i : Nat) (x : District) : (s.setDistrict i x).start = s.start := rfl
@[simp] theorem State.setDistrict_card (s : State) (i : Nat) (x : District) : (s.setDistrict i x).card = s.card := rfl
@[simp] theorem State.setDistrict_freeze (s : State) (i : Nat) (x : District) : (s.setDistrict i x).freeze = s.freeze := rfl
@[simp] theorem State.setDistrict_jtag (s : State) (i : Nat) (x : District) : (s.setDistrict i x).jtag = s.jtag := rfl
@[simp] theorem State.setDistrict_power (s : State) (i : Nat) (x : District) : (s.setDistrict i x).power = s.power := rfl
@[simp] theorem State.setDistrict_snapshot (s : State) (i : Nat) (x : District) : (s.setDistrict i x).snapshot = s.snapshot := rfl
@[simp] theorem State.setDistrict_ports (s : State) (i : Nat) (x : District) : (s.setDistrict i x).ports = s.ports := rfl
@[simp] theorem State.setDistrict_crossroads (s : State) (i : Nat) (x : District) : (s.setDistrict i x).crossroads = s.crossroads := rfl
@[simp] theorem State.setDistrict_arrived (s : State) (i : Nat) (x : District) : (s.setDistrict i x).arrived = s.arrived := rfl
@[simp] theorem State.setDistrict_jobs (s : State) (i : Nat) (x : District) : (s.setDistrict i x).jobs = s.jobs := rfl
@[simp] theorem State.setDistrict_outstanding (s : State) (i : Nat) (x : District) : (s.setDistrict i x).outstanding = s.outstanding := rfl
@[simp] theorem State.setDistrict_rtag (s : State) (i : Nat) (x : District) : (s.setDistrict i x).rtag = s.rtag := rfl
@[simp] theorem State.setDistrict_colls (s : State) (i : Nat) (x : District) : (s.setDistrict i x).colls = s.colls := rfl
@[simp] theorem State.setDistrict_seenNotices (s : State) (i : Nat) (x : District) : (s.setDistrict i x).seenNotices = s.seenNotices := rfl
@[simp] theorem State.setDistrict_refilled (s : State) (i : Nat) (x : District) : (s.setDistrict i x).refilled = s.refilled := rfl
@[simp] theorem State.setDistrict_flaws (s : State) (i : Nat) (x : District) : (s.setDistrict i x).flaws = s.flaws := rfl

/-! ## setCore -/

@[simp] theorem State.setCore_mode (s : State) (i : Nat) (x : Core) : (s.setCore i x).mode = s.mode := rfl
@[simp] theorem State.setCore_pending (s : State) (i : Nat) (x : Core) : (s.setCore i x).pending = s.pending := rfl
@[simp] theorem State.setCore_out (s : State) (i : Nat) (x : Core) : (s.setCore i x).out = s.out := rfl
@[simp] theorem State.setCore_draws (s : State) (i : Nat) (x : Core) : (s.setCore i x).draws = s.draws := rfl
@[simp] theorem State.setCore_now (s : State) (i : Nat) (x : Core) : (s.setCore i x).now = s.now := rfl
@[simp] theorem State.setCore_mem (s : State) (i : Nat) (x : Core) : (s.setCore i x).mem = s.mem := rfl
@[simp] theorem State.setCore_districts (s : State) (i : Nat) (x : Core) : (s.setCore i x).districts = s.districts := rfl
@[simp] theorem State.setCore_time (s : State) (i : Nat) (x : Core) : (s.setCore i x).time = s.time := rfl
@[simp] theorem State.setCore_blocks (s : State) (i : Nat) (x : Core) : (s.setCore i x).blocks = s.blocks := rfl
@[simp] theorem State.setCore_parts (s : State) (i : Nat) (x : Core) : (s.setCore i x).parts = s.parts := rfl
@[simp] theorem State.setCore_channels (s : State) (i : Nat) (x : Core) : (s.setCore i x).channels = s.channels := rfl
@[simp] theorem State.setCore_opCount (s : State) (i : Nat) (x : Core) : (s.setCore i x).opCount = s.opCount := rfl
@[simp] theorem State.setCore_fns (s : State) (i : Nat) (x : Core) : (s.setCore i x).fns = s.fns := rfl
@[simp] theorem State.setCore_pcie (s : State) (i : Nat) (x : Core) : (s.setCore i x).pcie = s.pcie := rfl
@[simp] theorem State.setCore_windows (s : State) (i : Nat) (x : Core) : (s.setCore i x).windows = s.windows := rfl
@[simp] theorem State.setCore_cdp (s : State) (i : Nat) (x : Core) : (s.setCore i x).cdp = s.cdp := rfl
@[simp] theorem State.setCore_log (s : State) (i : Nat) (x : Core) : (s.setCore i x).log = s.log := rfl
@[simp] theorem State.setCore_requests (s : State) (i : Nat) (x : Core) : (s.setCore i x).requests = s.requests := rfl
@[simp] theorem State.setCore_serving (s : State) (i : Nat) (x : Core) : (s.setCore i x).serving = s.serving := rfl
@[simp] theorem State.setCore_qps (s : State) (i : Nat) (x : Core) : (s.setCore i x).qps = s.qps := rfl
@[simp] theorem State.setCore_fetch (s : State) (i : Nat) (x : Core) : (s.setCore i x).fetch = s.fetch := rfl
@[simp] theorem State.setCore_tenants (s : State) (i : Nat) (x : Core) : (s.setCore i x).tenants = s.tenants := rfl
@[simp] theorem State.setCore_allocs (s : State) (i : Nat) (x : Core) : (s.setCore i x).allocs = s.allocs := rfl
@[simp] theorem State.setCore_keys (s : State) (i : Nat) (x : Core) : (s.setCore i x).keys = s.keys := rfl
@[simp] theorem State.setCore_objects (s : State) (i : Nat) (x : Core) : (s.setCore i x).objects = s.objects := rfl
@[simp] theorem State.setCore_versions (s : State) (i : Nat) (x : Core) : (s.setCore i x).versions = s.versions := rfl
@[simp] theorem State.setCore_counters (s : State) (i : Nat) (x : Core) : (s.setCore i x).counters = s.counters := rfl
@[simp] theorem State.setCore_shadows (s : State) (i : Nat) (x : Core) : (s.setCore i x).shadows = s.shadows := rfl
@[simp] theorem State.setCore_start (s : State) (i : Nat) (x : Core) : (s.setCore i x).start = s.start := rfl
@[simp] theorem State.setCore_card (s : State) (i : Nat) (x : Core) : (s.setCore i x).card = s.card := rfl
@[simp] theorem State.setCore_freeze (s : State) (i : Nat) (x : Core) : (s.setCore i x).freeze = s.freeze := rfl
@[simp] theorem State.setCore_jtag (s : State) (i : Nat) (x : Core) : (s.setCore i x).jtag = s.jtag := rfl
@[simp] theorem State.setCore_power (s : State) (i : Nat) (x : Core) : (s.setCore i x).power = s.power := rfl
@[simp] theorem State.setCore_snapshot (s : State) (i : Nat) (x : Core) : (s.setCore i x).snapshot = s.snapshot := rfl
@[simp] theorem State.setCore_ports (s : State) (i : Nat) (x : Core) : (s.setCore i x).ports = s.ports := rfl
@[simp] theorem State.setCore_crossroads (s : State) (i : Nat) (x : Core) : (s.setCore i x).crossroads = s.crossroads := rfl
@[simp] theorem State.setCore_arrived (s : State) (i : Nat) (x : Core) : (s.setCore i x).arrived = s.arrived := rfl
@[simp] theorem State.setCore_jobs (s : State) (i : Nat) (x : Core) : (s.setCore i x).jobs = s.jobs := rfl
@[simp] theorem State.setCore_outstanding (s : State) (i : Nat) (x : Core) : (s.setCore i x).outstanding = s.outstanding := rfl
@[simp] theorem State.setCore_rtag (s : State) (i : Nat) (x : Core) : (s.setCore i x).rtag = s.rtag := rfl
@[simp] theorem State.setCore_colls (s : State) (i : Nat) (x : Core) : (s.setCore i x).colls = s.colls := rfl
@[simp] theorem State.setCore_seenNotices (s : State) (i : Nat) (x : Core) : (s.setCore i x).seenNotices = s.seenNotices := rfl
@[simp] theorem State.setCore_refilled (s : State) (i : Nat) (x : Core) : (s.setCore i x).refilled = s.refilled := rfl
@[simp] theorem State.setCore_flaws (s : State) (i : Nat) (x : Core) : (s.setCore i x).flaws = s.flaws := rfl

/-! ## setChannel -/

@[simp] theorem State.setChannel_mode (s : State) (i : Nat) (x : Channel) : (s.setChannel i x).mode = s.mode := rfl
@[simp] theorem State.setChannel_pending (s : State) (i : Nat) (x : Channel) : (s.setChannel i x).pending = s.pending := rfl
@[simp] theorem State.setChannel_out (s : State) (i : Nat) (x : Channel) : (s.setChannel i x).out = s.out := rfl
@[simp] theorem State.setChannel_draws (s : State) (i : Nat) (x : Channel) : (s.setChannel i x).draws = s.draws := rfl
@[simp] theorem State.setChannel_now (s : State) (i : Nat) (x : Channel) : (s.setChannel i x).now = s.now := rfl
@[simp] theorem State.setChannel_mem (s : State) (i : Nat) (x : Channel) : (s.setChannel i x).mem = s.mem := rfl
@[simp] theorem State.setChannel_districts (s : State) (i : Nat) (x : Channel) : (s.setChannel i x).districts = s.districts := rfl
@[simp] theorem State.setChannel_time (s : State) (i : Nat) (x : Channel) : (s.setChannel i x).time = s.time := rfl
@[simp] theorem State.setChannel_blocks (s : State) (i : Nat) (x : Channel) : (s.setChannel i x).blocks = s.blocks := rfl
@[simp] theorem State.setChannel_parts (s : State) (i : Nat) (x : Channel) : (s.setChannel i x).parts = s.parts := rfl
@[simp] theorem State.setChannel_cores (s : State) (i : Nat) (x : Channel) : (s.setChannel i x).cores = s.cores := rfl
@[simp] theorem State.setChannel_opCount (s : State) (i : Nat) (x : Channel) : (s.setChannel i x).opCount = s.opCount := rfl
@[simp] theorem State.setChannel_fns (s : State) (i : Nat) (x : Channel) : (s.setChannel i x).fns = s.fns := rfl
@[simp] theorem State.setChannel_pcie (s : State) (i : Nat) (x : Channel) : (s.setChannel i x).pcie = s.pcie := rfl
@[simp] theorem State.setChannel_windows (s : State) (i : Nat) (x : Channel) : (s.setChannel i x).windows = s.windows := rfl
@[simp] theorem State.setChannel_cdp (s : State) (i : Nat) (x : Channel) : (s.setChannel i x).cdp = s.cdp := rfl
@[simp] theorem State.setChannel_log (s : State) (i : Nat) (x : Channel) : (s.setChannel i x).log = s.log := rfl
@[simp] theorem State.setChannel_requests (s : State) (i : Nat) (x : Channel) : (s.setChannel i x).requests = s.requests := rfl
@[simp] theorem State.setChannel_serving (s : State) (i : Nat) (x : Channel) : (s.setChannel i x).serving = s.serving := rfl
@[simp] theorem State.setChannel_qps (s : State) (i : Nat) (x : Channel) : (s.setChannel i x).qps = s.qps := rfl
@[simp] theorem State.setChannel_fetch (s : State) (i : Nat) (x : Channel) : (s.setChannel i x).fetch = s.fetch := rfl
@[simp] theorem State.setChannel_tenants (s : State) (i : Nat) (x : Channel) : (s.setChannel i x).tenants = s.tenants := rfl
@[simp] theorem State.setChannel_allocs (s : State) (i : Nat) (x : Channel) : (s.setChannel i x).allocs = s.allocs := rfl
@[simp] theorem State.setChannel_keys (s : State) (i : Nat) (x : Channel) : (s.setChannel i x).keys = s.keys := rfl
@[simp] theorem State.setChannel_objects (s : State) (i : Nat) (x : Channel) : (s.setChannel i x).objects = s.objects := rfl
@[simp] theorem State.setChannel_versions (s : State) (i : Nat) (x : Channel) : (s.setChannel i x).versions = s.versions := rfl
@[simp] theorem State.setChannel_counters (s : State) (i : Nat) (x : Channel) : (s.setChannel i x).counters = s.counters := rfl
@[simp] theorem State.setChannel_shadows (s : State) (i : Nat) (x : Channel) : (s.setChannel i x).shadows = s.shadows := rfl
@[simp] theorem State.setChannel_start (s : State) (i : Nat) (x : Channel) : (s.setChannel i x).start = s.start := rfl
@[simp] theorem State.setChannel_card (s : State) (i : Nat) (x : Channel) : (s.setChannel i x).card = s.card := rfl
@[simp] theorem State.setChannel_freeze (s : State) (i : Nat) (x : Channel) : (s.setChannel i x).freeze = s.freeze := rfl
@[simp] theorem State.setChannel_jtag (s : State) (i : Nat) (x : Channel) : (s.setChannel i x).jtag = s.jtag := rfl
@[simp] theorem State.setChannel_power (s : State) (i : Nat) (x : Channel) : (s.setChannel i x).power = s.power := rfl
@[simp] theorem State.setChannel_snapshot (s : State) (i : Nat) (x : Channel) : (s.setChannel i x).snapshot = s.snapshot := rfl
@[simp] theorem State.setChannel_ports (s : State) (i : Nat) (x : Channel) : (s.setChannel i x).ports = s.ports := rfl
@[simp] theorem State.setChannel_crossroads (s : State) (i : Nat) (x : Channel) : (s.setChannel i x).crossroads = s.crossroads := rfl
@[simp] theorem State.setChannel_arrived (s : State) (i : Nat) (x : Channel) : (s.setChannel i x).arrived = s.arrived := rfl
@[simp] theorem State.setChannel_jobs (s : State) (i : Nat) (x : Channel) : (s.setChannel i x).jobs = s.jobs := rfl
@[simp] theorem State.setChannel_outstanding (s : State) (i : Nat) (x : Channel) : (s.setChannel i x).outstanding = s.outstanding := rfl
@[simp] theorem State.setChannel_rtag (s : State) (i : Nat) (x : Channel) : (s.setChannel i x).rtag = s.rtag := rfl
@[simp] theorem State.setChannel_colls (s : State) (i : Nat) (x : Channel) : (s.setChannel i x).colls = s.colls := rfl
@[simp] theorem State.setChannel_seenNotices (s : State) (i : Nat) (x : Channel) : (s.setChannel i x).seenNotices = s.seenNotices := rfl
@[simp] theorem State.setChannel_refilled (s : State) (i : Nat) (x : Channel) : (s.setChannel i x).refilled = s.refilled := rfl
@[simp] theorem State.setChannel_flaws (s : State) (i : Nat) (x : Channel) : (s.setChannel i x).flaws = s.flaws := rfl

/-! ## setWindow -/

@[simp] theorem State.setWindow_mode (s : State) (i : Nat) (x : Window) : (s.setWindow i x).mode = s.mode := rfl
@[simp] theorem State.setWindow_pending (s : State) (i : Nat) (x : Window) : (s.setWindow i x).pending = s.pending := rfl
@[simp] theorem State.setWindow_out (s : State) (i : Nat) (x : Window) : (s.setWindow i x).out = s.out := rfl
@[simp] theorem State.setWindow_draws (s : State) (i : Nat) (x : Window) : (s.setWindow i x).draws = s.draws := rfl
@[simp] theorem State.setWindow_now (s : State) (i : Nat) (x : Window) : (s.setWindow i x).now = s.now := rfl
@[simp] theorem State.setWindow_mem (s : State) (i : Nat) (x : Window) : (s.setWindow i x).mem = s.mem := rfl
@[simp] theorem State.setWindow_districts (s : State) (i : Nat) (x : Window) : (s.setWindow i x).districts = s.districts := rfl
@[simp] theorem State.setWindow_time (s : State) (i : Nat) (x : Window) : (s.setWindow i x).time = s.time := rfl
@[simp] theorem State.setWindow_blocks (s : State) (i : Nat) (x : Window) : (s.setWindow i x).blocks = s.blocks := rfl
@[simp] theorem State.setWindow_parts (s : State) (i : Nat) (x : Window) : (s.setWindow i x).parts = s.parts := rfl
@[simp] theorem State.setWindow_cores (s : State) (i : Nat) (x : Window) : (s.setWindow i x).cores = s.cores := rfl
@[simp] theorem State.setWindow_channels (s : State) (i : Nat) (x : Window) : (s.setWindow i x).channels = s.channels := rfl
@[simp] theorem State.setWindow_opCount (s : State) (i : Nat) (x : Window) : (s.setWindow i x).opCount = s.opCount := rfl
@[simp] theorem State.setWindow_fns (s : State) (i : Nat) (x : Window) : (s.setWindow i x).fns = s.fns := rfl
@[simp] theorem State.setWindow_pcie (s : State) (i : Nat) (x : Window) : (s.setWindow i x).pcie = s.pcie := rfl
@[simp] theorem State.setWindow_cdp (s : State) (i : Nat) (x : Window) : (s.setWindow i x).cdp = s.cdp := rfl
@[simp] theorem State.setWindow_log (s : State) (i : Nat) (x : Window) : (s.setWindow i x).log = s.log := rfl
@[simp] theorem State.setWindow_requests (s : State) (i : Nat) (x : Window) : (s.setWindow i x).requests = s.requests := rfl
@[simp] theorem State.setWindow_serving (s : State) (i : Nat) (x : Window) : (s.setWindow i x).serving = s.serving := rfl
@[simp] theorem State.setWindow_qps (s : State) (i : Nat) (x : Window) : (s.setWindow i x).qps = s.qps := rfl
@[simp] theorem State.setWindow_fetch (s : State) (i : Nat) (x : Window) : (s.setWindow i x).fetch = s.fetch := rfl
@[simp] theorem State.setWindow_tenants (s : State) (i : Nat) (x : Window) : (s.setWindow i x).tenants = s.tenants := rfl
@[simp] theorem State.setWindow_allocs (s : State) (i : Nat) (x : Window) : (s.setWindow i x).allocs = s.allocs := rfl
@[simp] theorem State.setWindow_keys (s : State) (i : Nat) (x : Window) : (s.setWindow i x).keys = s.keys := rfl
@[simp] theorem State.setWindow_objects (s : State) (i : Nat) (x : Window) : (s.setWindow i x).objects = s.objects := rfl
@[simp] theorem State.setWindow_versions (s : State) (i : Nat) (x : Window) : (s.setWindow i x).versions = s.versions := rfl
@[simp] theorem State.setWindow_counters (s : State) (i : Nat) (x : Window) : (s.setWindow i x).counters = s.counters := rfl
@[simp] theorem State.setWindow_shadows (s : State) (i : Nat) (x : Window) : (s.setWindow i x).shadows = s.shadows := rfl
@[simp] theorem State.setWindow_start (s : State) (i : Nat) (x : Window) : (s.setWindow i x).start = s.start := rfl
@[simp] theorem State.setWindow_card (s : State) (i : Nat) (x : Window) : (s.setWindow i x).card = s.card := rfl
@[simp] theorem State.setWindow_freeze (s : State) (i : Nat) (x : Window) : (s.setWindow i x).freeze = s.freeze := rfl
@[simp] theorem State.setWindow_jtag (s : State) (i : Nat) (x : Window) : (s.setWindow i x).jtag = s.jtag := rfl
@[simp] theorem State.setWindow_power (s : State) (i : Nat) (x : Window) : (s.setWindow i x).power = s.power := rfl
@[simp] theorem State.setWindow_snapshot (s : State) (i : Nat) (x : Window) : (s.setWindow i x).snapshot = s.snapshot := rfl
@[simp] theorem State.setWindow_ports (s : State) (i : Nat) (x : Window) : (s.setWindow i x).ports = s.ports := rfl
@[simp] theorem State.setWindow_crossroads (s : State) (i : Nat) (x : Window) : (s.setWindow i x).crossroads = s.crossroads := rfl
@[simp] theorem State.setWindow_arrived (s : State) (i : Nat) (x : Window) : (s.setWindow i x).arrived = s.arrived := rfl
@[simp] theorem State.setWindow_jobs (s : State) (i : Nat) (x : Window) : (s.setWindow i x).jobs = s.jobs := rfl
@[simp] theorem State.setWindow_outstanding (s : State) (i : Nat) (x : Window) : (s.setWindow i x).outstanding = s.outstanding := rfl
@[simp] theorem State.setWindow_rtag (s : State) (i : Nat) (x : Window) : (s.setWindow i x).rtag = s.rtag := rfl
@[simp] theorem State.setWindow_colls (s : State) (i : Nat) (x : Window) : (s.setWindow i x).colls = s.colls := rfl
@[simp] theorem State.setWindow_seenNotices (s : State) (i : Nat) (x : Window) : (s.setWindow i x).seenNotices = s.seenNotices := rfl
@[simp] theorem State.setWindow_refilled (s : State) (i : Nat) (x : Window) : (s.setWindow i x).refilled = s.refilled := rfl
@[simp] theorem State.setWindow_flaws (s : State) (i : Nat) (x : Window) : (s.setWindow i x).flaws = s.flaws := rfl

/-! ## setFn -/

@[simp] theorem State.setFn_mode (s : State) (f : FnId) (x : Fn) : (s.setFn f x).mode = s.mode := rfl
@[simp] theorem State.setFn_pending (s : State) (f : FnId) (x : Fn) : (s.setFn f x).pending = s.pending := rfl
@[simp] theorem State.setFn_out (s : State) (f : FnId) (x : Fn) : (s.setFn f x).out = s.out := rfl
@[simp] theorem State.setFn_draws (s : State) (f : FnId) (x : Fn) : (s.setFn f x).draws = s.draws := rfl
@[simp] theorem State.setFn_now (s : State) (f : FnId) (x : Fn) : (s.setFn f x).now = s.now := rfl
@[simp] theorem State.setFn_mem (s : State) (f : FnId) (x : Fn) : (s.setFn f x).mem = s.mem := rfl
@[simp] theorem State.setFn_districts (s : State) (f : FnId) (x : Fn) : (s.setFn f x).districts = s.districts := rfl
@[simp] theorem State.setFn_time (s : State) (f : FnId) (x : Fn) : (s.setFn f x).time = s.time := rfl
@[simp] theorem State.setFn_blocks (s : State) (f : FnId) (x : Fn) : (s.setFn f x).blocks = s.blocks := rfl
@[simp] theorem State.setFn_parts (s : State) (f : FnId) (x : Fn) : (s.setFn f x).parts = s.parts := rfl
@[simp] theorem State.setFn_cores (s : State) (f : FnId) (x : Fn) : (s.setFn f x).cores = s.cores := rfl
@[simp] theorem State.setFn_channels (s : State) (f : FnId) (x : Fn) : (s.setFn f x).channels = s.channels := rfl
@[simp] theorem State.setFn_opCount (s : State) (f : FnId) (x : Fn) : (s.setFn f x).opCount = s.opCount := rfl
@[simp] theorem State.setFn_pcie (s : State) (f : FnId) (x : Fn) : (s.setFn f x).pcie = s.pcie := rfl
@[simp] theorem State.setFn_windows (s : State) (f : FnId) (x : Fn) : (s.setFn f x).windows = s.windows := rfl
@[simp] theorem State.setFn_cdp (s : State) (f : FnId) (x : Fn) : (s.setFn f x).cdp = s.cdp := rfl
@[simp] theorem State.setFn_log (s : State) (f : FnId) (x : Fn) : (s.setFn f x).log = s.log := rfl
@[simp] theorem State.setFn_requests (s : State) (f : FnId) (x : Fn) : (s.setFn f x).requests = s.requests := rfl
@[simp] theorem State.setFn_serving (s : State) (f : FnId) (x : Fn) : (s.setFn f x).serving = s.serving := rfl
@[simp] theorem State.setFn_qps (s : State) (f : FnId) (x : Fn) : (s.setFn f x).qps = s.qps := rfl
@[simp] theorem State.setFn_fetch (s : State) (f : FnId) (x : Fn) : (s.setFn f x).fetch = s.fetch := rfl
@[simp] theorem State.setFn_tenants (s : State) (f : FnId) (x : Fn) : (s.setFn f x).tenants = s.tenants := rfl
@[simp] theorem State.setFn_allocs (s : State) (f : FnId) (x : Fn) : (s.setFn f x).allocs = s.allocs := rfl
@[simp] theorem State.setFn_keys (s : State) (f : FnId) (x : Fn) : (s.setFn f x).keys = s.keys := rfl
@[simp] theorem State.setFn_objects (s : State) (f : FnId) (x : Fn) : (s.setFn f x).objects = s.objects := rfl
@[simp] theorem State.setFn_versions (s : State) (f : FnId) (x : Fn) : (s.setFn f x).versions = s.versions := rfl
@[simp] theorem State.setFn_counters (s : State) (f : FnId) (x : Fn) : (s.setFn f x).counters = s.counters := rfl
@[simp] theorem State.setFn_shadows (s : State) (f : FnId) (x : Fn) : (s.setFn f x).shadows = s.shadows := rfl
@[simp] theorem State.setFn_start (s : State) (f : FnId) (x : Fn) : (s.setFn f x).start = s.start := rfl
@[simp] theorem State.setFn_card (s : State) (f : FnId) (x : Fn) : (s.setFn f x).card = s.card := rfl
@[simp] theorem State.setFn_freeze (s : State) (f : FnId) (x : Fn) : (s.setFn f x).freeze = s.freeze := rfl
@[simp] theorem State.setFn_jtag (s : State) (f : FnId) (x : Fn) : (s.setFn f x).jtag = s.jtag := rfl
@[simp] theorem State.setFn_power (s : State) (f : FnId) (x : Fn) : (s.setFn f x).power = s.power := rfl
@[simp] theorem State.setFn_snapshot (s : State) (f : FnId) (x : Fn) : (s.setFn f x).snapshot = s.snapshot := rfl
@[simp] theorem State.setFn_ports (s : State) (f : FnId) (x : Fn) : (s.setFn f x).ports = s.ports := rfl
@[simp] theorem State.setFn_crossroads (s : State) (f : FnId) (x : Fn) : (s.setFn f x).crossroads = s.crossroads := rfl
@[simp] theorem State.setFn_arrived (s : State) (f : FnId) (x : Fn) : (s.setFn f x).arrived = s.arrived := rfl
@[simp] theorem State.setFn_jobs (s : State) (f : FnId) (x : Fn) : (s.setFn f x).jobs = s.jobs := rfl
@[simp] theorem State.setFn_outstanding (s : State) (f : FnId) (x : Fn) : (s.setFn f x).outstanding = s.outstanding := rfl
@[simp] theorem State.setFn_rtag (s : State) (f : FnId) (x : Fn) : (s.setFn f x).rtag = s.rtag := rfl
@[simp] theorem State.setFn_colls (s : State) (f : FnId) (x : Fn) : (s.setFn f x).colls = s.colls := rfl
@[simp] theorem State.setFn_seenNotices (s : State) (f : FnId) (x : Fn) : (s.setFn f x).seenNotices = s.seenNotices := rfl
@[simp] theorem State.setFn_refilled (s : State) (f : FnId) (x : Fn) : (s.setFn f x).refilled = s.refilled := rfl
@[simp] theorem State.setFn_flaws (s : State) (f : FnId) (x : Fn) : (s.setFn f x).flaws = s.flaws := rfl

/-! ## emit -/

@[simp] theorem State.emit_mode (s : State) (o : Output) : (s.emit o).mode = s.mode := rfl
@[simp] theorem State.emit_pending (s : State) (o : Output) : (s.emit o).pending = s.pending := rfl
@[simp] theorem State.emit_draws (s : State) (o : Output) : (s.emit o).draws = s.draws := rfl
@[simp] theorem State.emit_now (s : State) (o : Output) : (s.emit o).now = s.now := rfl
@[simp] theorem State.emit_mem (s : State) (o : Output) : (s.emit o).mem = s.mem := rfl
@[simp] theorem State.emit_districts (s : State) (o : Output) : (s.emit o).districts = s.districts := rfl
@[simp] theorem State.emit_time (s : State) (o : Output) : (s.emit o).time = s.time := rfl
@[simp] theorem State.emit_blocks (s : State) (o : Output) : (s.emit o).blocks = s.blocks := rfl
@[simp] theorem State.emit_parts (s : State) (o : Output) : (s.emit o).parts = s.parts := rfl
@[simp] theorem State.emit_cores (s : State) (o : Output) : (s.emit o).cores = s.cores := rfl
@[simp] theorem State.emit_channels (s : State) (o : Output) : (s.emit o).channels = s.channels := rfl
@[simp] theorem State.emit_opCount (s : State) (o : Output) : (s.emit o).opCount = s.opCount := rfl
@[simp] theorem State.emit_fns (s : State) (o : Output) : (s.emit o).fns = s.fns := rfl
@[simp] theorem State.emit_pcie (s : State) (o : Output) : (s.emit o).pcie = s.pcie := rfl
@[simp] theorem State.emit_windows (s : State) (o : Output) : (s.emit o).windows = s.windows := rfl
@[simp] theorem State.emit_cdp (s : State) (o : Output) : (s.emit o).cdp = s.cdp := rfl
@[simp] theorem State.emit_log (s : State) (o : Output) : (s.emit o).log = s.log := rfl
@[simp] theorem State.emit_requests (s : State) (o : Output) : (s.emit o).requests = s.requests := rfl
@[simp] theorem State.emit_serving (s : State) (o : Output) : (s.emit o).serving = s.serving := rfl
@[simp] theorem State.emit_qps (s : State) (o : Output) : (s.emit o).qps = s.qps := rfl
@[simp] theorem State.emit_fetch (s : State) (o : Output) : (s.emit o).fetch = s.fetch := rfl
@[simp] theorem State.emit_tenants (s : State) (o : Output) : (s.emit o).tenants = s.tenants := rfl
@[simp] theorem State.emit_allocs (s : State) (o : Output) : (s.emit o).allocs = s.allocs := rfl
@[simp] theorem State.emit_keys (s : State) (o : Output) : (s.emit o).keys = s.keys := rfl
@[simp] theorem State.emit_objects (s : State) (o : Output) : (s.emit o).objects = s.objects := rfl
@[simp] theorem State.emit_versions (s : State) (o : Output) : (s.emit o).versions = s.versions := rfl
@[simp] theorem State.emit_counters (s : State) (o : Output) : (s.emit o).counters = s.counters := rfl
@[simp] theorem State.emit_shadows (s : State) (o : Output) : (s.emit o).shadows = s.shadows := rfl
@[simp] theorem State.emit_start (s : State) (o : Output) : (s.emit o).start = s.start := rfl
@[simp] theorem State.emit_card (s : State) (o : Output) : (s.emit o).card = s.card := rfl
@[simp] theorem State.emit_freeze (s : State) (o : Output) : (s.emit o).freeze = s.freeze := rfl
@[simp] theorem State.emit_jtag (s : State) (o : Output) : (s.emit o).jtag = s.jtag := rfl
@[simp] theorem State.emit_power (s : State) (o : Output) : (s.emit o).power = s.power := rfl
@[simp] theorem State.emit_snapshot (s : State) (o : Output) : (s.emit o).snapshot = s.snapshot := rfl
@[simp] theorem State.emit_ports (s : State) (o : Output) : (s.emit o).ports = s.ports := rfl
@[simp] theorem State.emit_crossroads (s : State) (o : Output) : (s.emit o).crossroads = s.crossroads := rfl
@[simp] theorem State.emit_arrived (s : State) (o : Output) : (s.emit o).arrived = s.arrived := rfl
@[simp] theorem State.emit_jobs (s : State) (o : Output) : (s.emit o).jobs = s.jobs := rfl
@[simp] theorem State.emit_outstanding (s : State) (o : Output) : (s.emit o).outstanding = s.outstanding := rfl
@[simp] theorem State.emit_rtag (s : State) (o : Output) : (s.emit o).rtag = s.rtag := rfl
@[simp] theorem State.emit_colls (s : State) (o : Output) : (s.emit o).colls = s.colls := rfl
@[simp] theorem State.emit_seenNotices (s : State) (o : Output) : (s.emit o).seenNotices = s.seenNotices := rfl
@[simp] theorem State.emit_refilled (s : State) (o : Output) : (s.emit o).refilled = s.refilled := rfl
@[simp] theorem State.emit_flaws (s : State) (o : Output) : (s.emit o).flaws = s.flaws := rfl

/-! ## setPart -/

@[simp] theorem State.setPart_mode (s : State) (i : Nat) (x : Part) : (s.setPart i x).mode = s.mode := State.bumpWhere_mode _ _
@[simp] theorem State.setPart_pending (s : State) (i : Nat) (x : Part) : (s.setPart i x).pending = s.pending := State.bumpWhere_pending _ _
@[simp] theorem State.setPart_out (s : State) (i : Nat) (x : Part) : (s.setPart i x).out = s.out := State.bumpWhere_out _ _
@[simp] theorem State.setPart_draws (s : State) (i : Nat) (x : Part) : (s.setPart i x).draws = s.draws := State.bumpWhere_draws _ _
@[simp] theorem State.setPart_now (s : State) (i : Nat) (x : Part) : (s.setPart i x).now = s.now := State.bumpWhere_now _ _
@[simp] theorem State.setPart_mem (s : State) (i : Nat) (x : Part) : (s.setPart i x).mem = s.mem := State.bumpWhere_mem _ _
@[simp] theorem State.setPart_districts (s : State) (i : Nat) (x : Part) : (s.setPart i x).districts = s.districts := State.bumpWhere_districts _ _
@[simp] theorem State.setPart_time (s : State) (i : Nat) (x : Part) : (s.setPart i x).time = s.time := State.bumpWhere_time _ _
@[simp] theorem State.setPart_blocks (s : State) (i : Nat) (x : Part) : (s.setPart i x).blocks = s.blocks := State.bumpWhere_blocks _ _
@[simp] theorem State.setPart_cores (s : State) (i : Nat) (x : Part) : (s.setPart i x).cores = s.cores := State.bumpWhere_cores _ _
@[simp] theorem State.setPart_channels (s : State) (i : Nat) (x : Part) : (s.setPart i x).channels = s.channels := State.bumpWhere_channels _ _
@[simp] theorem State.setPart_opCount (s : State) (i : Nat) (x : Part) : (s.setPart i x).opCount = s.opCount := State.bumpWhere_opCount _ _
@[simp] theorem State.setPart_fns (s : State) (i : Nat) (x : Part) : (s.setPart i x).fns = s.fns := State.bumpWhere_fns _ _
@[simp] theorem State.setPart_pcie (s : State) (i : Nat) (x : Part) : (s.setPart i x).pcie = s.pcie := State.bumpWhere_pcie _ _
@[simp] theorem State.setPart_windows (s : State) (i : Nat) (x : Part) : (s.setPart i x).windows = s.windows := State.bumpWhere_windows _ _
@[simp] theorem State.setPart_cdp (s : State) (i : Nat) (x : Part) : (s.setPart i x).cdp = s.cdp := State.bumpWhere_cdp _ _
@[simp] theorem State.setPart_log (s : State) (i : Nat) (x : Part) : (s.setPart i x).log = s.log := State.bumpWhere_log _ _
@[simp] theorem State.setPart_requests (s : State) (i : Nat) (x : Part) : (s.setPart i x).requests = s.requests := State.bumpWhere_requests _ _
@[simp] theorem State.setPart_serving (s : State) (i : Nat) (x : Part) : (s.setPart i x).serving = s.serving := State.bumpWhere_serving _ _
@[simp] theorem State.setPart_qps (s : State) (i : Nat) (x : Part) : (s.setPart i x).qps = s.qps := State.bumpWhere_qps _ _
@[simp] theorem State.setPart_fetch (s : State) (i : Nat) (x : Part) : (s.setPart i x).fetch = s.fetch := State.bumpWhere_fetch _ _
@[simp] theorem State.setPart_tenants (s : State) (i : Nat) (x : Part) : (s.setPart i x).tenants = s.tenants := State.bumpWhere_tenants _ _
@[simp] theorem State.setPart_allocs (s : State) (i : Nat) (x : Part) : (s.setPart i x).allocs = s.allocs := State.bumpWhere_allocs _ _
@[simp] theorem State.setPart_keys (s : State) (i : Nat) (x : Part) : (s.setPart i x).keys = s.keys := State.bumpWhere_keys _ _
@[simp] theorem State.setPart_objects (s : State) (i : Nat) (x : Part) : (s.setPart i x).objects = s.objects := State.bumpWhere_objects _ _
@[simp] theorem State.setPart_counters (s : State) (i : Nat) (x : Part) : (s.setPart i x).counters = s.counters := State.bumpWhere_counters _ _
@[simp] theorem State.setPart_shadows (s : State) (i : Nat) (x : Part) : (s.setPart i x).shadows = s.shadows := State.bumpWhere_shadows _ _
@[simp] theorem State.setPart_start (s : State) (i : Nat) (x : Part) : (s.setPart i x).start = s.start := State.bumpWhere_start _ _
@[simp] theorem State.setPart_card (s : State) (i : Nat) (x : Part) : (s.setPart i x).card = s.card := State.bumpWhere_card _ _
@[simp] theorem State.setPart_freeze (s : State) (i : Nat) (x : Part) : (s.setPart i x).freeze = s.freeze := State.bumpWhere_freeze _ _
@[simp] theorem State.setPart_jtag (s : State) (i : Nat) (x : Part) : (s.setPart i x).jtag = s.jtag := State.bumpWhere_jtag _ _
@[simp] theorem State.setPart_power (s : State) (i : Nat) (x : Part) : (s.setPart i x).power = s.power := State.bumpWhere_power _ _
@[simp] theorem State.setPart_snapshot (s : State) (i : Nat) (x : Part) : (s.setPart i x).snapshot = s.snapshot := State.bumpWhere_snapshot _ _
@[simp] theorem State.setPart_ports (s : State) (i : Nat) (x : Part) : (s.setPart i x).ports = s.ports := State.bumpWhere_ports _ _
@[simp] theorem State.setPart_crossroads (s : State) (i : Nat) (x : Part) : (s.setPart i x).crossroads = s.crossroads := State.bumpWhere_crossroads _ _
@[simp] theorem State.setPart_arrived (s : State) (i : Nat) (x : Part) : (s.setPart i x).arrived = s.arrived := State.bumpWhere_arrived _ _
@[simp] theorem State.setPart_jobs (s : State) (i : Nat) (x : Part) : (s.setPart i x).jobs = s.jobs := State.bumpWhere_jobs _ _
@[simp] theorem State.setPart_outstanding (s : State) (i : Nat) (x : Part) : (s.setPart i x).outstanding = s.outstanding := State.bumpWhere_outstanding _ _
@[simp] theorem State.setPart_rtag (s : State) (i : Nat) (x : Part) : (s.setPart i x).rtag = s.rtag := State.bumpWhere_rtag _ _
@[simp] theorem State.setPart_colls (s : State) (i : Nat) (x : Part) : (s.setPart i x).colls = s.colls := State.bumpWhere_colls _ _
@[simp] theorem State.setPart_seenNotices (s : State) (i : Nat) (x : Part) : (s.setPart i x).seenNotices = s.seenNotices := State.bumpWhere_seenNotices _ _
@[simp] theorem State.setPart_refilled (s : State) (i : Nat) (x : Part) : (s.setPart i x).refilled = s.refilled := State.bumpWhere_refilled _ _
@[simp] theorem State.setPart_flaws (s : State) (i : Nat) (x : Part) : (s.setPart i x).flaws = s.flaws := State.bumpWhere_flaws _ _

@[simp] theorem State.setPart_parts (s : State) (i : Nat) (x : Part) : (s.setPart i x).parts = s.parts.put i x := State.bumpWhere_parts _ _

/-! ## setRequest -/

@[simp] theorem State.setRequest_mode (s : State) (i : Nat) (x : Request) : (s.setRequest i x).mode = s.mode := State.bumpWhere_mode _ _
@[simp] theorem State.setRequest_pending (s : State) (i : Nat) (x : Request) : (s.setRequest i x).pending = s.pending := State.bumpWhere_pending _ _
@[simp] theorem State.setRequest_out (s : State) (i : Nat) (x : Request) : (s.setRequest i x).out = s.out := State.bumpWhere_out _ _
@[simp] theorem State.setRequest_draws (s : State) (i : Nat) (x : Request) : (s.setRequest i x).draws = s.draws := State.bumpWhere_draws _ _
@[simp] theorem State.setRequest_now (s : State) (i : Nat) (x : Request) : (s.setRequest i x).now = s.now := State.bumpWhere_now _ _
@[simp] theorem State.setRequest_mem (s : State) (i : Nat) (x : Request) : (s.setRequest i x).mem = s.mem := State.bumpWhere_mem _ _
@[simp] theorem State.setRequest_districts (s : State) (i : Nat) (x : Request) : (s.setRequest i x).districts = s.districts := State.bumpWhere_districts _ _
@[simp] theorem State.setRequest_time (s : State) (i : Nat) (x : Request) : (s.setRequest i x).time = s.time := State.bumpWhere_time _ _
@[simp] theorem State.setRequest_blocks (s : State) (i : Nat) (x : Request) : (s.setRequest i x).blocks = s.blocks := State.bumpWhere_blocks _ _
@[simp] theorem State.setRequest_parts (s : State) (i : Nat) (x : Request) : (s.setRequest i x).parts = s.parts := State.bumpWhere_parts _ _
@[simp] theorem State.setRequest_cores (s : State) (i : Nat) (x : Request) : (s.setRequest i x).cores = s.cores := State.bumpWhere_cores _ _
@[simp] theorem State.setRequest_channels (s : State) (i : Nat) (x : Request) : (s.setRequest i x).channels = s.channels := State.bumpWhere_channels _ _
@[simp] theorem State.setRequest_opCount (s : State) (i : Nat) (x : Request) : (s.setRequest i x).opCount = s.opCount := State.bumpWhere_opCount _ _
@[simp] theorem State.setRequest_fns (s : State) (i : Nat) (x : Request) : (s.setRequest i x).fns = s.fns := State.bumpWhere_fns _ _
@[simp] theorem State.setRequest_pcie (s : State) (i : Nat) (x : Request) : (s.setRequest i x).pcie = s.pcie := State.bumpWhere_pcie _ _
@[simp] theorem State.setRequest_windows (s : State) (i : Nat) (x : Request) : (s.setRequest i x).windows = s.windows := State.bumpWhere_windows _ _
@[simp] theorem State.setRequest_cdp (s : State) (i : Nat) (x : Request) : (s.setRequest i x).cdp = s.cdp := State.bumpWhere_cdp _ _
@[simp] theorem State.setRequest_log (s : State) (i : Nat) (x : Request) : (s.setRequest i x).log = s.log := State.bumpWhere_log _ _
@[simp] theorem State.setRequest_serving (s : State) (i : Nat) (x : Request) : (s.setRequest i x).serving = s.serving := State.bumpWhere_serving _ _
@[simp] theorem State.setRequest_qps (s : State) (i : Nat) (x : Request) : (s.setRequest i x).qps = s.qps := State.bumpWhere_qps _ _
@[simp] theorem State.setRequest_fetch (s : State) (i : Nat) (x : Request) : (s.setRequest i x).fetch = s.fetch := State.bumpWhere_fetch _ _
@[simp] theorem State.setRequest_tenants (s : State) (i : Nat) (x : Request) : (s.setRequest i x).tenants = s.tenants := State.bumpWhere_tenants _ _
@[simp] theorem State.setRequest_allocs (s : State) (i : Nat) (x : Request) : (s.setRequest i x).allocs = s.allocs := State.bumpWhere_allocs _ _
@[simp] theorem State.setRequest_keys (s : State) (i : Nat) (x : Request) : (s.setRequest i x).keys = s.keys := State.bumpWhere_keys _ _
@[simp] theorem State.setRequest_objects (s : State) (i : Nat) (x : Request) : (s.setRequest i x).objects = s.objects := State.bumpWhere_objects _ _
@[simp] theorem State.setRequest_counters (s : State) (i : Nat) (x : Request) : (s.setRequest i x).counters = s.counters := State.bumpWhere_counters _ _
@[simp] theorem State.setRequest_shadows (s : State) (i : Nat) (x : Request) : (s.setRequest i x).shadows = s.shadows := State.bumpWhere_shadows _ _
@[simp] theorem State.setRequest_start (s : State) (i : Nat) (x : Request) : (s.setRequest i x).start = s.start := State.bumpWhere_start _ _
@[simp] theorem State.setRequest_card (s : State) (i : Nat) (x : Request) : (s.setRequest i x).card = s.card := State.bumpWhere_card _ _
@[simp] theorem State.setRequest_freeze (s : State) (i : Nat) (x : Request) : (s.setRequest i x).freeze = s.freeze := State.bumpWhere_freeze _ _
@[simp] theorem State.setRequest_jtag (s : State) (i : Nat) (x : Request) : (s.setRequest i x).jtag = s.jtag := State.bumpWhere_jtag _ _
@[simp] theorem State.setRequest_power (s : State) (i : Nat) (x : Request) : (s.setRequest i x).power = s.power := State.bumpWhere_power _ _
@[simp] theorem State.setRequest_snapshot (s : State) (i : Nat) (x : Request) : (s.setRequest i x).snapshot = s.snapshot := State.bumpWhere_snapshot _ _
@[simp] theorem State.setRequest_ports (s : State) (i : Nat) (x : Request) : (s.setRequest i x).ports = s.ports := State.bumpWhere_ports _ _
@[simp] theorem State.setRequest_crossroads (s : State) (i : Nat) (x : Request) : (s.setRequest i x).crossroads = s.crossroads := State.bumpWhere_crossroads _ _
@[simp] theorem State.setRequest_arrived (s : State) (i : Nat) (x : Request) : (s.setRequest i x).arrived = s.arrived := State.bumpWhere_arrived _ _
@[simp] theorem State.setRequest_jobs (s : State) (i : Nat) (x : Request) : (s.setRequest i x).jobs = s.jobs := State.bumpWhere_jobs _ _
@[simp] theorem State.setRequest_outstanding (s : State) (i : Nat) (x : Request) : (s.setRequest i x).outstanding = s.outstanding := State.bumpWhere_outstanding _ _
@[simp] theorem State.setRequest_rtag (s : State) (i : Nat) (x : Request) : (s.setRequest i x).rtag = s.rtag := State.bumpWhere_rtag _ _
@[simp] theorem State.setRequest_colls (s : State) (i : Nat) (x : Request) : (s.setRequest i x).colls = s.colls := State.bumpWhere_colls _ _
@[simp] theorem State.setRequest_seenNotices (s : State) (i : Nat) (x : Request) : (s.setRequest i x).seenNotices = s.seenNotices := State.bumpWhere_seenNotices _ _
@[simp] theorem State.setRequest_refilled (s : State) (i : Nat) (x : Request) : (s.setRequest i x).refilled = s.refilled := State.bumpWhere_refilled _ _
@[simp] theorem State.setRequest_flaws (s : State) (i : Nat) (x : Request) : (s.setRequest i x).flaws = s.flaws := State.bumpWhere_flaws _ _

@[simp] theorem State.setRequest_requests (s : State) (i : Nat) (x : Request) : (s.setRequest i x).requests = s.requests.put i x := State.bumpWhere_requests _ _

/-! ## setTenant -/

@[simp] theorem State.setTenant_mode (s : State) (i : Nat) (x : Tenant) : (s.setTenant i x).mode = s.mode := State.bumpWhere_mode _ _
@[simp] theorem State.setTenant_pending (s : State) (i : Nat) (x : Tenant) : (s.setTenant i x).pending = s.pending := State.bumpWhere_pending _ _
@[simp] theorem State.setTenant_out (s : State) (i : Nat) (x : Tenant) : (s.setTenant i x).out = s.out := State.bumpWhere_out _ _
@[simp] theorem State.setTenant_draws (s : State) (i : Nat) (x : Tenant) : (s.setTenant i x).draws = s.draws := State.bumpWhere_draws _ _
@[simp] theorem State.setTenant_now (s : State) (i : Nat) (x : Tenant) : (s.setTenant i x).now = s.now := State.bumpWhere_now _ _
@[simp] theorem State.setTenant_mem (s : State) (i : Nat) (x : Tenant) : (s.setTenant i x).mem = s.mem := State.bumpWhere_mem _ _
@[simp] theorem State.setTenant_districts (s : State) (i : Nat) (x : Tenant) : (s.setTenant i x).districts = s.districts := State.bumpWhere_districts _ _
@[simp] theorem State.setTenant_time (s : State) (i : Nat) (x : Tenant) : (s.setTenant i x).time = s.time := State.bumpWhere_time _ _
@[simp] theorem State.setTenant_blocks (s : State) (i : Nat) (x : Tenant) : (s.setTenant i x).blocks = s.blocks := State.bumpWhere_blocks _ _
@[simp] theorem State.setTenant_parts (s : State) (i : Nat) (x : Tenant) : (s.setTenant i x).parts = s.parts := State.bumpWhere_parts _ _
@[simp] theorem State.setTenant_cores (s : State) (i : Nat) (x : Tenant) : (s.setTenant i x).cores = s.cores := State.bumpWhere_cores _ _
@[simp] theorem State.setTenant_channels (s : State) (i : Nat) (x : Tenant) : (s.setTenant i x).channels = s.channels := State.bumpWhere_channels _ _
@[simp] theorem State.setTenant_opCount (s : State) (i : Nat) (x : Tenant) : (s.setTenant i x).opCount = s.opCount := State.bumpWhere_opCount _ _
@[simp] theorem State.setTenant_fns (s : State) (i : Nat) (x : Tenant) : (s.setTenant i x).fns = s.fns := State.bumpWhere_fns _ _
@[simp] theorem State.setTenant_pcie (s : State) (i : Nat) (x : Tenant) : (s.setTenant i x).pcie = s.pcie := State.bumpWhere_pcie _ _
@[simp] theorem State.setTenant_windows (s : State) (i : Nat) (x : Tenant) : (s.setTenant i x).windows = s.windows := State.bumpWhere_windows _ _
@[simp] theorem State.setTenant_cdp (s : State) (i : Nat) (x : Tenant) : (s.setTenant i x).cdp = s.cdp := State.bumpWhere_cdp _ _
@[simp] theorem State.setTenant_log (s : State) (i : Nat) (x : Tenant) : (s.setTenant i x).log = s.log := State.bumpWhere_log _ _
@[simp] theorem State.setTenant_requests (s : State) (i : Nat) (x : Tenant) : (s.setTenant i x).requests = s.requests := State.bumpWhere_requests _ _
@[simp] theorem State.setTenant_serving (s : State) (i : Nat) (x : Tenant) : (s.setTenant i x).serving = s.serving := State.bumpWhere_serving _ _
@[simp] theorem State.setTenant_qps (s : State) (i : Nat) (x : Tenant) : (s.setTenant i x).qps = s.qps := State.bumpWhere_qps _ _
@[simp] theorem State.setTenant_fetch (s : State) (i : Nat) (x : Tenant) : (s.setTenant i x).fetch = s.fetch := State.bumpWhere_fetch _ _
@[simp] theorem State.setTenant_allocs (s : State) (i : Nat) (x : Tenant) : (s.setTenant i x).allocs = s.allocs := State.bumpWhere_allocs _ _
@[simp] theorem State.setTenant_keys (s : State) (i : Nat) (x : Tenant) : (s.setTenant i x).keys = s.keys := State.bumpWhere_keys _ _
@[simp] theorem State.setTenant_objects (s : State) (i : Nat) (x : Tenant) : (s.setTenant i x).objects = s.objects := State.bumpWhere_objects _ _
@[simp] theorem State.setTenant_counters (s : State) (i : Nat) (x : Tenant) : (s.setTenant i x).counters = s.counters := State.bumpWhere_counters _ _
@[simp] theorem State.setTenant_shadows (s : State) (i : Nat) (x : Tenant) : (s.setTenant i x).shadows = s.shadows := State.bumpWhere_shadows _ _
@[simp] theorem State.setTenant_start (s : State) (i : Nat) (x : Tenant) : (s.setTenant i x).start = s.start := State.bumpWhere_start _ _
@[simp] theorem State.setTenant_card (s : State) (i : Nat) (x : Tenant) : (s.setTenant i x).card = s.card := State.bumpWhere_card _ _
@[simp] theorem State.setTenant_freeze (s : State) (i : Nat) (x : Tenant) : (s.setTenant i x).freeze = s.freeze := State.bumpWhere_freeze _ _
@[simp] theorem State.setTenant_jtag (s : State) (i : Nat) (x : Tenant) : (s.setTenant i x).jtag = s.jtag := State.bumpWhere_jtag _ _
@[simp] theorem State.setTenant_power (s : State) (i : Nat) (x : Tenant) : (s.setTenant i x).power = s.power := State.bumpWhere_power _ _
@[simp] theorem State.setTenant_snapshot (s : State) (i : Nat) (x : Tenant) : (s.setTenant i x).snapshot = s.snapshot := State.bumpWhere_snapshot _ _
@[simp] theorem State.setTenant_ports (s : State) (i : Nat) (x : Tenant) : (s.setTenant i x).ports = s.ports := State.bumpWhere_ports _ _
@[simp] theorem State.setTenant_crossroads (s : State) (i : Nat) (x : Tenant) : (s.setTenant i x).crossroads = s.crossroads := State.bumpWhere_crossroads _ _
@[simp] theorem State.setTenant_arrived (s : State) (i : Nat) (x : Tenant) : (s.setTenant i x).arrived = s.arrived := State.bumpWhere_arrived _ _
@[simp] theorem State.setTenant_jobs (s : State) (i : Nat) (x : Tenant) : (s.setTenant i x).jobs = s.jobs := State.bumpWhere_jobs _ _
@[simp] theorem State.setTenant_outstanding (s : State) (i : Nat) (x : Tenant) : (s.setTenant i x).outstanding = s.outstanding := State.bumpWhere_outstanding _ _
@[simp] theorem State.setTenant_rtag (s : State) (i : Nat) (x : Tenant) : (s.setTenant i x).rtag = s.rtag := State.bumpWhere_rtag _ _
@[simp] theorem State.setTenant_colls (s : State) (i : Nat) (x : Tenant) : (s.setTenant i x).colls = s.colls := State.bumpWhere_colls _ _
@[simp] theorem State.setTenant_seenNotices (s : State) (i : Nat) (x : Tenant) : (s.setTenant i x).seenNotices = s.seenNotices := State.bumpWhere_seenNotices _ _
@[simp] theorem State.setTenant_refilled (s : State) (i : Nat) (x : Tenant) : (s.setTenant i x).refilled = s.refilled := State.bumpWhere_refilled _ _
@[simp] theorem State.setTenant_flaws (s : State) (i : Nat) (x : Tenant) : (s.setTenant i x).flaws = s.flaws := State.bumpWhere_flaws _ _

@[simp] theorem State.setTenant_tenants (s : State) (i : Nat) (x : Tenant) : (s.setTenant i x).tenants = s.tenants.put i x := State.bumpWhere_tenants _ _

/-! ## setKey -/

@[simp] theorem State.setKey_mode (s : State) (i : Nat) (x : Key) : (s.setKey i x).mode = s.mode := State.bumpWhere_mode _ _
@[simp] theorem State.setKey_pending (s : State) (i : Nat) (x : Key) : (s.setKey i x).pending = s.pending := State.bumpWhere_pending _ _
@[simp] theorem State.setKey_out (s : State) (i : Nat) (x : Key) : (s.setKey i x).out = s.out := State.bumpWhere_out _ _
@[simp] theorem State.setKey_draws (s : State) (i : Nat) (x : Key) : (s.setKey i x).draws = s.draws := State.bumpWhere_draws _ _
@[simp] theorem State.setKey_now (s : State) (i : Nat) (x : Key) : (s.setKey i x).now = s.now := State.bumpWhere_now _ _
@[simp] theorem State.setKey_mem (s : State) (i : Nat) (x : Key) : (s.setKey i x).mem = s.mem := State.bumpWhere_mem _ _
@[simp] theorem State.setKey_districts (s : State) (i : Nat) (x : Key) : (s.setKey i x).districts = s.districts := State.bumpWhere_districts _ _
@[simp] theorem State.setKey_time (s : State) (i : Nat) (x : Key) : (s.setKey i x).time = s.time := State.bumpWhere_time _ _
@[simp] theorem State.setKey_blocks (s : State) (i : Nat) (x : Key) : (s.setKey i x).blocks = s.blocks := State.bumpWhere_blocks _ _
@[simp] theorem State.setKey_parts (s : State) (i : Nat) (x : Key) : (s.setKey i x).parts = s.parts := State.bumpWhere_parts _ _
@[simp] theorem State.setKey_cores (s : State) (i : Nat) (x : Key) : (s.setKey i x).cores = s.cores := State.bumpWhere_cores _ _
@[simp] theorem State.setKey_channels (s : State) (i : Nat) (x : Key) : (s.setKey i x).channels = s.channels := State.bumpWhere_channels _ _
@[simp] theorem State.setKey_opCount (s : State) (i : Nat) (x : Key) : (s.setKey i x).opCount = s.opCount := State.bumpWhere_opCount _ _
@[simp] theorem State.setKey_fns (s : State) (i : Nat) (x : Key) : (s.setKey i x).fns = s.fns := State.bumpWhere_fns _ _
@[simp] theorem State.setKey_pcie (s : State) (i : Nat) (x : Key) : (s.setKey i x).pcie = s.pcie := State.bumpWhere_pcie _ _
@[simp] theorem State.setKey_windows (s : State) (i : Nat) (x : Key) : (s.setKey i x).windows = s.windows := State.bumpWhere_windows _ _
@[simp] theorem State.setKey_cdp (s : State) (i : Nat) (x : Key) : (s.setKey i x).cdp = s.cdp := State.bumpWhere_cdp _ _
@[simp] theorem State.setKey_log (s : State) (i : Nat) (x : Key) : (s.setKey i x).log = s.log := State.bumpWhere_log _ _
@[simp] theorem State.setKey_requests (s : State) (i : Nat) (x : Key) : (s.setKey i x).requests = s.requests := State.bumpWhere_requests _ _
@[simp] theorem State.setKey_serving (s : State) (i : Nat) (x : Key) : (s.setKey i x).serving = s.serving := State.bumpWhere_serving _ _
@[simp] theorem State.setKey_qps (s : State) (i : Nat) (x : Key) : (s.setKey i x).qps = s.qps := State.bumpWhere_qps _ _
@[simp] theorem State.setKey_fetch (s : State) (i : Nat) (x : Key) : (s.setKey i x).fetch = s.fetch := State.bumpWhere_fetch _ _
@[simp] theorem State.setKey_tenants (s : State) (i : Nat) (x : Key) : (s.setKey i x).tenants = s.tenants := State.bumpWhere_tenants _ _
@[simp] theorem State.setKey_allocs (s : State) (i : Nat) (x : Key) : (s.setKey i x).allocs = s.allocs := State.bumpWhere_allocs _ _
@[simp] theorem State.setKey_objects (s : State) (i : Nat) (x : Key) : (s.setKey i x).objects = s.objects := State.bumpWhere_objects _ _
@[simp] theorem State.setKey_counters (s : State) (i : Nat) (x : Key) : (s.setKey i x).counters = s.counters := State.bumpWhere_counters _ _
@[simp] theorem State.setKey_shadows (s : State) (i : Nat) (x : Key) : (s.setKey i x).shadows = s.shadows := State.bumpWhere_shadows _ _
@[simp] theorem State.setKey_start (s : State) (i : Nat) (x : Key) : (s.setKey i x).start = s.start := State.bumpWhere_start _ _
@[simp] theorem State.setKey_card (s : State) (i : Nat) (x : Key) : (s.setKey i x).card = s.card := State.bumpWhere_card _ _
@[simp] theorem State.setKey_freeze (s : State) (i : Nat) (x : Key) : (s.setKey i x).freeze = s.freeze := State.bumpWhere_freeze _ _
@[simp] theorem State.setKey_jtag (s : State) (i : Nat) (x : Key) : (s.setKey i x).jtag = s.jtag := State.bumpWhere_jtag _ _
@[simp] theorem State.setKey_power (s : State) (i : Nat) (x : Key) : (s.setKey i x).power = s.power := State.bumpWhere_power _ _
@[simp] theorem State.setKey_snapshot (s : State) (i : Nat) (x : Key) : (s.setKey i x).snapshot = s.snapshot := State.bumpWhere_snapshot _ _
@[simp] theorem State.setKey_ports (s : State) (i : Nat) (x : Key) : (s.setKey i x).ports = s.ports := State.bumpWhere_ports _ _
@[simp] theorem State.setKey_crossroads (s : State) (i : Nat) (x : Key) : (s.setKey i x).crossroads = s.crossroads := State.bumpWhere_crossroads _ _
@[simp] theorem State.setKey_arrived (s : State) (i : Nat) (x : Key) : (s.setKey i x).arrived = s.arrived := State.bumpWhere_arrived _ _
@[simp] theorem State.setKey_jobs (s : State) (i : Nat) (x : Key) : (s.setKey i x).jobs = s.jobs := State.bumpWhere_jobs _ _
@[simp] theorem State.setKey_outstanding (s : State) (i : Nat) (x : Key) : (s.setKey i x).outstanding = s.outstanding := State.bumpWhere_outstanding _ _
@[simp] theorem State.setKey_rtag (s : State) (i : Nat) (x : Key) : (s.setKey i x).rtag = s.rtag := State.bumpWhere_rtag _ _
@[simp] theorem State.setKey_colls (s : State) (i : Nat) (x : Key) : (s.setKey i x).colls = s.colls := State.bumpWhere_colls _ _
@[simp] theorem State.setKey_seenNotices (s : State) (i : Nat) (x : Key) : (s.setKey i x).seenNotices = s.seenNotices := State.bumpWhere_seenNotices _ _
@[simp] theorem State.setKey_refilled (s : State) (i : Nat) (x : Key) : (s.setKey i x).refilled = s.refilled := State.bumpWhere_refilled _ _
@[simp] theorem State.setKey_flaws (s : State) (i : Nat) (x : Key) : (s.setKey i x).flaws = s.flaws := State.bumpWhere_flaws _ _

@[simp] theorem State.setKey_keys (s : State) (i : Nat) (x : Key) : (s.setKey i x).keys = s.keys.put i x := State.bumpWhere_keys _ _

/-! ## count -/

@[simp] theorem State.count_mode (s : State) (i u n : Nat) : (s.count i u n).mode = s.mode := State.bumpWhere_mode _ _
@[simp] theorem State.count_pending (s : State) (i u n : Nat) : (s.count i u n).pending = s.pending := State.bumpWhere_pending _ _
@[simp] theorem State.count_out (s : State) (i u n : Nat) : (s.count i u n).out = s.out := State.bumpWhere_out _ _
@[simp] theorem State.count_draws (s : State) (i u n : Nat) : (s.count i u n).draws = s.draws := State.bumpWhere_draws _ _
@[simp] theorem State.count_now (s : State) (i u n : Nat) : (s.count i u n).now = s.now := State.bumpWhere_now _ _
@[simp] theorem State.count_mem (s : State) (i u n : Nat) : (s.count i u n).mem = s.mem := State.bumpWhere_mem _ _
@[simp] theorem State.count_districts (s : State) (i u n : Nat) : (s.count i u n).districts = s.districts := State.bumpWhere_districts _ _
@[simp] theorem State.count_time (s : State) (i u n : Nat) : (s.count i u n).time = s.time := State.bumpWhere_time _ _
@[simp] theorem State.count_blocks (s : State) (i u n : Nat) : (s.count i u n).blocks = s.blocks := State.bumpWhere_blocks _ _
@[simp] theorem State.count_parts (s : State) (i u n : Nat) : (s.count i u n).parts = s.parts := State.bumpWhere_parts _ _
@[simp] theorem State.count_cores (s : State) (i u n : Nat) : (s.count i u n).cores = s.cores := State.bumpWhere_cores _ _
@[simp] theorem State.count_channels (s : State) (i u n : Nat) : (s.count i u n).channels = s.channels := State.bumpWhere_channels _ _
@[simp] theorem State.count_opCount (s : State) (i u n : Nat) : (s.count i u n).opCount = s.opCount := State.bumpWhere_opCount _ _
@[simp] theorem State.count_fns (s : State) (i u n : Nat) : (s.count i u n).fns = s.fns := State.bumpWhere_fns _ _
@[simp] theorem State.count_pcie (s : State) (i u n : Nat) : (s.count i u n).pcie = s.pcie := State.bumpWhere_pcie _ _
@[simp] theorem State.count_windows (s : State) (i u n : Nat) : (s.count i u n).windows = s.windows := State.bumpWhere_windows _ _
@[simp] theorem State.count_cdp (s : State) (i u n : Nat) : (s.count i u n).cdp = s.cdp := State.bumpWhere_cdp _ _
@[simp] theorem State.count_log (s : State) (i u n : Nat) : (s.count i u n).log = s.log := State.bumpWhere_log _ _
@[simp] theorem State.count_requests (s : State) (i u n : Nat) : (s.count i u n).requests = s.requests := State.bumpWhere_requests _ _
@[simp] theorem State.count_serving (s : State) (i u n : Nat) : (s.count i u n).serving = s.serving := State.bumpWhere_serving _ _
@[simp] theorem State.count_qps (s : State) (i u n : Nat) : (s.count i u n).qps = s.qps := State.bumpWhere_qps _ _
@[simp] theorem State.count_fetch (s : State) (i u n : Nat) : (s.count i u n).fetch = s.fetch := State.bumpWhere_fetch _ _
@[simp] theorem State.count_tenants (s : State) (i u n : Nat) : (s.count i u n).tenants = s.tenants := State.bumpWhere_tenants _ _
@[simp] theorem State.count_allocs (s : State) (i u n : Nat) : (s.count i u n).allocs = s.allocs := State.bumpWhere_allocs _ _
@[simp] theorem State.count_keys (s : State) (i u n : Nat) : (s.count i u n).keys = s.keys := State.bumpWhere_keys _ _
@[simp] theorem State.count_objects (s : State) (i u n : Nat) : (s.count i u n).objects = s.objects := State.bumpWhere_objects _ _
@[simp] theorem State.count_shadows (s : State) (i u n : Nat) : (s.count i u n).shadows = s.shadows := State.bumpWhere_shadows _ _
@[simp] theorem State.count_start (s : State) (i u n : Nat) : (s.count i u n).start = s.start := State.bumpWhere_start _ _
@[simp] theorem State.count_card (s : State) (i u n : Nat) : (s.count i u n).card = s.card := State.bumpWhere_card _ _
@[simp] theorem State.count_freeze (s : State) (i u n : Nat) : (s.count i u n).freeze = s.freeze := State.bumpWhere_freeze _ _
@[simp] theorem State.count_jtag (s : State) (i u n : Nat) : (s.count i u n).jtag = s.jtag := State.bumpWhere_jtag _ _
@[simp] theorem State.count_power (s : State) (i u n : Nat) : (s.count i u n).power = s.power := State.bumpWhere_power _ _
@[simp] theorem State.count_snapshot (s : State) (i u n : Nat) : (s.count i u n).snapshot = s.snapshot := State.bumpWhere_snapshot _ _
@[simp] theorem State.count_ports (s : State) (i u n : Nat) : (s.count i u n).ports = s.ports := State.bumpWhere_ports _ _
@[simp] theorem State.count_crossroads (s : State) (i u n : Nat) : (s.count i u n).crossroads = s.crossroads := State.bumpWhere_crossroads _ _
@[simp] theorem State.count_arrived (s : State) (i u n : Nat) : (s.count i u n).arrived = s.arrived := State.bumpWhere_arrived _ _
@[simp] theorem State.count_jobs (s : State) (i u n : Nat) : (s.count i u n).jobs = s.jobs := State.bumpWhere_jobs _ _
@[simp] theorem State.count_outstanding (s : State) (i u n : Nat) : (s.count i u n).outstanding = s.outstanding := State.bumpWhere_outstanding _ _
@[simp] theorem State.count_rtag (s : State) (i u n : Nat) : (s.count i u n).rtag = s.rtag := State.bumpWhere_rtag _ _
@[simp] theorem State.count_colls (s : State) (i u n : Nat) : (s.count i u n).colls = s.colls := State.bumpWhere_colls _ _
@[simp] theorem State.count_seenNotices (s : State) (i u n : Nat) : (s.count i u n).seenNotices = s.seenNotices := State.bumpWhere_seenNotices _ _
@[simp] theorem State.count_refilled (s : State) (i u n : Nat) : (s.count i u n).refilled = s.refilled := State.bumpWhere_refilled _ _
@[simp] theorem State.count_flaws (s : State) (i u n : Nat) : (s.count i u n).flaws = s.flaws := State.bumpWhere_flaws _ _

/-! ## setCounter -/

@[simp] theorem State.setCounter_mode (s : State) (i u n : Nat) : (s.setCounter i u n).mode = s.mode := State.bumpWhere_mode _ _
@[simp] theorem State.setCounter_pending (s : State) (i u n : Nat) : (s.setCounter i u n).pending = s.pending := State.bumpWhere_pending _ _
@[simp] theorem State.setCounter_out (s : State) (i u n : Nat) : (s.setCounter i u n).out = s.out := State.bumpWhere_out _ _
@[simp] theorem State.setCounter_draws (s : State) (i u n : Nat) : (s.setCounter i u n).draws = s.draws := State.bumpWhere_draws _ _
@[simp] theorem State.setCounter_now (s : State) (i u n : Nat) : (s.setCounter i u n).now = s.now := State.bumpWhere_now _ _
@[simp] theorem State.setCounter_mem (s : State) (i u n : Nat) : (s.setCounter i u n).mem = s.mem := State.bumpWhere_mem _ _
@[simp] theorem State.setCounter_districts (s : State) (i u n : Nat) : (s.setCounter i u n).districts = s.districts := State.bumpWhere_districts _ _
@[simp] theorem State.setCounter_time (s : State) (i u n : Nat) : (s.setCounter i u n).time = s.time := State.bumpWhere_time _ _
@[simp] theorem State.setCounter_blocks (s : State) (i u n : Nat) : (s.setCounter i u n).blocks = s.blocks := State.bumpWhere_blocks _ _
@[simp] theorem State.setCounter_parts (s : State) (i u n : Nat) : (s.setCounter i u n).parts = s.parts := State.bumpWhere_parts _ _
@[simp] theorem State.setCounter_cores (s : State) (i u n : Nat) : (s.setCounter i u n).cores = s.cores := State.bumpWhere_cores _ _
@[simp] theorem State.setCounter_channels (s : State) (i u n : Nat) : (s.setCounter i u n).channels = s.channels := State.bumpWhere_channels _ _
@[simp] theorem State.setCounter_opCount (s : State) (i u n : Nat) : (s.setCounter i u n).opCount = s.opCount := State.bumpWhere_opCount _ _
@[simp] theorem State.setCounter_fns (s : State) (i u n : Nat) : (s.setCounter i u n).fns = s.fns := State.bumpWhere_fns _ _
@[simp] theorem State.setCounter_pcie (s : State) (i u n : Nat) : (s.setCounter i u n).pcie = s.pcie := State.bumpWhere_pcie _ _
@[simp] theorem State.setCounter_windows (s : State) (i u n : Nat) : (s.setCounter i u n).windows = s.windows := State.bumpWhere_windows _ _
@[simp] theorem State.setCounter_cdp (s : State) (i u n : Nat) : (s.setCounter i u n).cdp = s.cdp := State.bumpWhere_cdp _ _
@[simp] theorem State.setCounter_log (s : State) (i u n : Nat) : (s.setCounter i u n).log = s.log := State.bumpWhere_log _ _
@[simp] theorem State.setCounter_requests (s : State) (i u n : Nat) : (s.setCounter i u n).requests = s.requests := State.bumpWhere_requests _ _
@[simp] theorem State.setCounter_serving (s : State) (i u n : Nat) : (s.setCounter i u n).serving = s.serving := State.bumpWhere_serving _ _
@[simp] theorem State.setCounter_qps (s : State) (i u n : Nat) : (s.setCounter i u n).qps = s.qps := State.bumpWhere_qps _ _
@[simp] theorem State.setCounter_fetch (s : State) (i u n : Nat) : (s.setCounter i u n).fetch = s.fetch := State.bumpWhere_fetch _ _
@[simp] theorem State.setCounter_tenants (s : State) (i u n : Nat) : (s.setCounter i u n).tenants = s.tenants := State.bumpWhere_tenants _ _
@[simp] theorem State.setCounter_allocs (s : State) (i u n : Nat) : (s.setCounter i u n).allocs = s.allocs := State.bumpWhere_allocs _ _
@[simp] theorem State.setCounter_keys (s : State) (i u n : Nat) : (s.setCounter i u n).keys = s.keys := State.bumpWhere_keys _ _
@[simp] theorem State.setCounter_objects (s : State) (i u n : Nat) : (s.setCounter i u n).objects = s.objects := State.bumpWhere_objects _ _
@[simp] theorem State.setCounter_shadows (s : State) (i u n : Nat) : (s.setCounter i u n).shadows = s.shadows := State.bumpWhere_shadows _ _
@[simp] theorem State.setCounter_start (s : State) (i u n : Nat) : (s.setCounter i u n).start = s.start := State.bumpWhere_start _ _
@[simp] theorem State.setCounter_card (s : State) (i u n : Nat) : (s.setCounter i u n).card = s.card := State.bumpWhere_card _ _
@[simp] theorem State.setCounter_freeze (s : State) (i u n : Nat) : (s.setCounter i u n).freeze = s.freeze := State.bumpWhere_freeze _ _
@[simp] theorem State.setCounter_jtag (s : State) (i u n : Nat) : (s.setCounter i u n).jtag = s.jtag := State.bumpWhere_jtag _ _
@[simp] theorem State.setCounter_power (s : State) (i u n : Nat) : (s.setCounter i u n).power = s.power := State.bumpWhere_power _ _
@[simp] theorem State.setCounter_snapshot (s : State) (i u n : Nat) : (s.setCounter i u n).snapshot = s.snapshot := State.bumpWhere_snapshot _ _
@[simp] theorem State.setCounter_ports (s : State) (i u n : Nat) : (s.setCounter i u n).ports = s.ports := State.bumpWhere_ports _ _
@[simp] theorem State.setCounter_crossroads (s : State) (i u n : Nat) : (s.setCounter i u n).crossroads = s.crossroads := State.bumpWhere_crossroads _ _
@[simp] theorem State.setCounter_arrived (s : State) (i u n : Nat) : (s.setCounter i u n).arrived = s.arrived := State.bumpWhere_arrived _ _
@[simp] theorem State.setCounter_jobs (s : State) (i u n : Nat) : (s.setCounter i u n).jobs = s.jobs := State.bumpWhere_jobs _ _
@[simp] theorem State.setCounter_outstanding (s : State) (i u n : Nat) : (s.setCounter i u n).outstanding = s.outstanding := State.bumpWhere_outstanding _ _
@[simp] theorem State.setCounter_rtag (s : State) (i u n : Nat) : (s.setCounter i u n).rtag = s.rtag := State.bumpWhere_rtag _ _
@[simp] theorem State.setCounter_colls (s : State) (i u n : Nat) : (s.setCounter i u n).colls = s.colls := State.bumpWhere_colls _ _
@[simp] theorem State.setCounter_seenNotices (s : State) (i u n : Nat) : (s.setCounter i u n).seenNotices = s.seenNotices := State.bumpWhere_seenNotices _ _
@[simp] theorem State.setCounter_refilled (s : State) (i u n : Nat) : (s.setCounter i u n).refilled = s.refilled := State.bumpWhere_refilled _ _
@[simp] theorem State.setCounter_flaws (s : State) (i u n : Nat) : (s.setCounter i u n).flaws = s.flaws := State.bumpWhere_flaws _ _

/-! ## setObj -/

@[simp] theorem State.setObj_mode (s : State) (i u : Nat) (v : List Byte) : (s.setObj i u v).mode = s.mode := State.bumpWhere_mode _ _
@[simp] theorem State.setObj_pending (s : State) (i u : Nat) (v : List Byte) : (s.setObj i u v).pending = s.pending := State.bumpWhere_pending _ _
@[simp] theorem State.setObj_out (s : State) (i u : Nat) (v : List Byte) : (s.setObj i u v).out = s.out := State.bumpWhere_out _ _
@[simp] theorem State.setObj_draws (s : State) (i u : Nat) (v : List Byte) : (s.setObj i u v).draws = s.draws := State.bumpWhere_draws _ _
@[simp] theorem State.setObj_now (s : State) (i u : Nat) (v : List Byte) : (s.setObj i u v).now = s.now := State.bumpWhere_now _ _
@[simp] theorem State.setObj_mem (s : State) (i u : Nat) (v : List Byte) : (s.setObj i u v).mem = s.mem := State.bumpWhere_mem _ _
@[simp] theorem State.setObj_districts (s : State) (i u : Nat) (v : List Byte) : (s.setObj i u v).districts = s.districts := State.bumpWhere_districts _ _
@[simp] theorem State.setObj_time (s : State) (i u : Nat) (v : List Byte) : (s.setObj i u v).time = s.time := State.bumpWhere_time _ _
@[simp] theorem State.setObj_blocks (s : State) (i u : Nat) (v : List Byte) : (s.setObj i u v).blocks = s.blocks := State.bumpWhere_blocks _ _
@[simp] theorem State.setObj_parts (s : State) (i u : Nat) (v : List Byte) : (s.setObj i u v).parts = s.parts := State.bumpWhere_parts _ _
@[simp] theorem State.setObj_cores (s : State) (i u : Nat) (v : List Byte) : (s.setObj i u v).cores = s.cores := State.bumpWhere_cores _ _
@[simp] theorem State.setObj_channels (s : State) (i u : Nat) (v : List Byte) : (s.setObj i u v).channels = s.channels := State.bumpWhere_channels _ _
@[simp] theorem State.setObj_opCount (s : State) (i u : Nat) (v : List Byte) : (s.setObj i u v).opCount = s.opCount := State.bumpWhere_opCount _ _
@[simp] theorem State.setObj_fns (s : State) (i u : Nat) (v : List Byte) : (s.setObj i u v).fns = s.fns := State.bumpWhere_fns _ _
@[simp] theorem State.setObj_pcie (s : State) (i u : Nat) (v : List Byte) : (s.setObj i u v).pcie = s.pcie := State.bumpWhere_pcie _ _
@[simp] theorem State.setObj_windows (s : State) (i u : Nat) (v : List Byte) : (s.setObj i u v).windows = s.windows := State.bumpWhere_windows _ _
@[simp] theorem State.setObj_cdp (s : State) (i u : Nat) (v : List Byte) : (s.setObj i u v).cdp = s.cdp := State.bumpWhere_cdp _ _
@[simp] theorem State.setObj_log (s : State) (i u : Nat) (v : List Byte) : (s.setObj i u v).log = s.log := State.bumpWhere_log _ _
@[simp] theorem State.setObj_requests (s : State) (i u : Nat) (v : List Byte) : (s.setObj i u v).requests = s.requests := State.bumpWhere_requests _ _
@[simp] theorem State.setObj_serving (s : State) (i u : Nat) (v : List Byte) : (s.setObj i u v).serving = s.serving := State.bumpWhere_serving _ _
@[simp] theorem State.setObj_qps (s : State) (i u : Nat) (v : List Byte) : (s.setObj i u v).qps = s.qps := State.bumpWhere_qps _ _
@[simp] theorem State.setObj_fetch (s : State) (i u : Nat) (v : List Byte) : (s.setObj i u v).fetch = s.fetch := State.bumpWhere_fetch _ _
@[simp] theorem State.setObj_tenants (s : State) (i u : Nat) (v : List Byte) : (s.setObj i u v).tenants = s.tenants := State.bumpWhere_tenants _ _
@[simp] theorem State.setObj_allocs (s : State) (i u : Nat) (v : List Byte) : (s.setObj i u v).allocs = s.allocs := State.bumpWhere_allocs _ _
@[simp] theorem State.setObj_keys (s : State) (i u : Nat) (v : List Byte) : (s.setObj i u v).keys = s.keys := State.bumpWhere_keys _ _
@[simp] theorem State.setObj_counters (s : State) (i u : Nat) (v : List Byte) : (s.setObj i u v).counters = s.counters := State.bumpWhere_counters _ _
@[simp] theorem State.setObj_shadows (s : State) (i u : Nat) (v : List Byte) : (s.setObj i u v).shadows = s.shadows := State.bumpWhere_shadows _ _
@[simp] theorem State.setObj_start (s : State) (i u : Nat) (v : List Byte) : (s.setObj i u v).start = s.start := State.bumpWhere_start _ _
@[simp] theorem State.setObj_card (s : State) (i u : Nat) (v : List Byte) : (s.setObj i u v).card = s.card := State.bumpWhere_card _ _
@[simp] theorem State.setObj_freeze (s : State) (i u : Nat) (v : List Byte) : (s.setObj i u v).freeze = s.freeze := State.bumpWhere_freeze _ _
@[simp] theorem State.setObj_jtag (s : State) (i u : Nat) (v : List Byte) : (s.setObj i u v).jtag = s.jtag := State.bumpWhere_jtag _ _
@[simp] theorem State.setObj_power (s : State) (i u : Nat) (v : List Byte) : (s.setObj i u v).power = s.power := State.bumpWhere_power _ _
@[simp] theorem State.setObj_snapshot (s : State) (i u : Nat) (v : List Byte) : (s.setObj i u v).snapshot = s.snapshot := State.bumpWhere_snapshot _ _
@[simp] theorem State.setObj_ports (s : State) (i u : Nat) (v : List Byte) : (s.setObj i u v).ports = s.ports := State.bumpWhere_ports _ _
@[simp] theorem State.setObj_crossroads (s : State) (i u : Nat) (v : List Byte) : (s.setObj i u v).crossroads = s.crossroads := State.bumpWhere_crossroads _ _
@[simp] theorem State.setObj_arrived (s : State) (i u : Nat) (v : List Byte) : (s.setObj i u v).arrived = s.arrived := State.bumpWhere_arrived _ _
@[simp] theorem State.setObj_jobs (s : State) (i u : Nat) (v : List Byte) : (s.setObj i u v).jobs = s.jobs := State.bumpWhere_jobs _ _
@[simp] theorem State.setObj_outstanding (s : State) (i u : Nat) (v : List Byte) : (s.setObj i u v).outstanding = s.outstanding := State.bumpWhere_outstanding _ _
@[simp] theorem State.setObj_rtag (s : State) (i u : Nat) (v : List Byte) : (s.setObj i u v).rtag = s.rtag := State.bumpWhere_rtag _ _
@[simp] theorem State.setObj_colls (s : State) (i u : Nat) (v : List Byte) : (s.setObj i u v).colls = s.colls := State.bumpWhere_colls _ _
@[simp] theorem State.setObj_seenNotices (s : State) (i u : Nat) (v : List Byte) : (s.setObj i u v).seenNotices = s.seenNotices := State.bumpWhere_seenNotices _ _
@[simp] theorem State.setObj_refilled (s : State) (i u : Nat) (v : List Byte) : (s.setObj i u v).refilled = s.refilled := State.bumpWhere_refilled _ _
@[simp] theorem State.setObj_flaws (s : State) (i u : Nat) (v : List Byte) : (s.setObj i u v).flaws = s.flaws := State.bumpWhere_flaws _ _

@[simp] theorem State.setObj_objects (s : State) (i u : Nat) (v : List Byte) : (s.setObj i u v).objects = s.objects.put (objKey i u) v := State.bumpWhere_objects _ _

/-! ## writeWord -/

@[simp] theorem State.writeWord_mode (s : State) (a : Nat) (x : Stored) : (s.writeWord a x).mode = s.mode := rfl
@[simp] theorem State.writeWord_pending (s : State) (a : Nat) (x : Stored) : (s.writeWord a x).pending = s.pending := rfl
@[simp] theorem State.writeWord_out (s : State) (a : Nat) (x : Stored) : (s.writeWord a x).out = s.out := rfl
@[simp] theorem State.writeWord_draws (s : State) (a : Nat) (x : Stored) : (s.writeWord a x).draws = s.draws := rfl
@[simp] theorem State.writeWord_now (s : State) (a : Nat) (x : Stored) : (s.writeWord a x).now = s.now := rfl
@[simp] theorem State.writeWord_districts (s : State) (a : Nat) (x : Stored) : (s.writeWord a x).districts = s.districts := rfl
@[simp] theorem State.writeWord_time (s : State) (a : Nat) (x : Stored) : (s.writeWord a x).time = s.time := rfl
@[simp] theorem State.writeWord_blocks (s : State) (a : Nat) (x : Stored) : (s.writeWord a x).blocks = s.blocks := rfl
@[simp] theorem State.writeWord_parts (s : State) (a : Nat) (x : Stored) : (s.writeWord a x).parts = s.parts := rfl
@[simp] theorem State.writeWord_cores (s : State) (a : Nat) (x : Stored) : (s.writeWord a x).cores = s.cores := rfl
@[simp] theorem State.writeWord_channels (s : State) (a : Nat) (x : Stored) : (s.writeWord a x).channels = s.channels := rfl
@[simp] theorem State.writeWord_opCount (s : State) (a : Nat) (x : Stored) : (s.writeWord a x).opCount = s.opCount := rfl
@[simp] theorem State.writeWord_fns (s : State) (a : Nat) (x : Stored) : (s.writeWord a x).fns = s.fns := rfl
@[simp] theorem State.writeWord_pcie (s : State) (a : Nat) (x : Stored) : (s.writeWord a x).pcie = s.pcie := rfl
@[simp] theorem State.writeWord_windows (s : State) (a : Nat) (x : Stored) : (s.writeWord a x).windows = s.windows := rfl
@[simp] theorem State.writeWord_cdp (s : State) (a : Nat) (x : Stored) : (s.writeWord a x).cdp = s.cdp := rfl
@[simp] theorem State.writeWord_log (s : State) (a : Nat) (x : Stored) : (s.writeWord a x).log = s.log := rfl
@[simp] theorem State.writeWord_requests (s : State) (a : Nat) (x : Stored) : (s.writeWord a x).requests = s.requests := rfl
@[simp] theorem State.writeWord_serving (s : State) (a : Nat) (x : Stored) : (s.writeWord a x).serving = s.serving := rfl
@[simp] theorem State.writeWord_qps (s : State) (a : Nat) (x : Stored) : (s.writeWord a x).qps = s.qps := rfl
@[simp] theorem State.writeWord_fetch (s : State) (a : Nat) (x : Stored) : (s.writeWord a x).fetch = s.fetch := rfl
@[simp] theorem State.writeWord_tenants (s : State) (a : Nat) (x : Stored) : (s.writeWord a x).tenants = s.tenants := rfl
@[simp] theorem State.writeWord_allocs (s : State) (a : Nat) (x : Stored) : (s.writeWord a x).allocs = s.allocs := rfl
@[simp] theorem State.writeWord_keys (s : State) (a : Nat) (x : Stored) : (s.writeWord a x).keys = s.keys := rfl
@[simp] theorem State.writeWord_objects (s : State) (a : Nat) (x : Stored) : (s.writeWord a x).objects = s.objects := rfl
@[simp] theorem State.writeWord_versions (s : State) (a : Nat) (x : Stored) : (s.writeWord a x).versions = s.versions := rfl
@[simp] theorem State.writeWord_counters (s : State) (a : Nat) (x : Stored) : (s.writeWord a x).counters = s.counters := rfl
@[simp] theorem State.writeWord_shadows (s : State) (a : Nat) (x : Stored) : (s.writeWord a x).shadows = s.shadows := rfl
@[simp] theorem State.writeWord_start (s : State) (a : Nat) (x : Stored) : (s.writeWord a x).start = s.start := rfl
@[simp] theorem State.writeWord_card (s : State) (a : Nat) (x : Stored) : (s.writeWord a x).card = s.card := rfl
@[simp] theorem State.writeWord_freeze (s : State) (a : Nat) (x : Stored) : (s.writeWord a x).freeze = s.freeze := rfl
@[simp] theorem State.writeWord_jtag (s : State) (a : Nat) (x : Stored) : (s.writeWord a x).jtag = s.jtag := rfl
@[simp] theorem State.writeWord_power (s : State) (a : Nat) (x : Stored) : (s.writeWord a x).power = s.power := rfl
@[simp] theorem State.writeWord_snapshot (s : State) (a : Nat) (x : Stored) : (s.writeWord a x).snapshot = s.snapshot := rfl
@[simp] theorem State.writeWord_ports (s : State) (a : Nat) (x : Stored) : (s.writeWord a x).ports = s.ports := rfl
@[simp] theorem State.writeWord_crossroads (s : State) (a : Nat) (x : Stored) : (s.writeWord a x).crossroads = s.crossroads := rfl
@[simp] theorem State.writeWord_arrived (s : State) (a : Nat) (x : Stored) : (s.writeWord a x).arrived = s.arrived := rfl
@[simp] theorem State.writeWord_jobs (s : State) (a : Nat) (x : Stored) : (s.writeWord a x).jobs = s.jobs := rfl
@[simp] theorem State.writeWord_outstanding (s : State) (a : Nat) (x : Stored) : (s.writeWord a x).outstanding = s.outstanding := rfl
@[simp] theorem State.writeWord_rtag (s : State) (a : Nat) (x : Stored) : (s.writeWord a x).rtag = s.rtag := rfl
@[simp] theorem State.writeWord_colls (s : State) (a : Nat) (x : Stored) : (s.writeWord a x).colls = s.colls := rfl
@[simp] theorem State.writeWord_seenNotices (s : State) (a : Nat) (x : Stored) : (s.writeWord a x).seenNotices = s.seenNotices := rfl
@[simp] theorem State.writeWord_refilled (s : State) (a : Nat) (x : Stored) : (s.writeWord a x).refilled = s.refilled := rfl
@[simp] theorem State.writeWord_flaws (s : State) (a : Nat) (x : Stored) : (s.writeWord a x).flaws = s.flaws := rfl

/-! ## What is read back -/

@[simp] theorem State.block_setBlock (s : State) (i : Nat) (x : Block) : (s.setBlock i x).block i = x := Table.get_put_self _ _ _ _
theorem State.block_setBlock_ne (s : State) {i j : Nat} (h : j ≠ i) (x : Block) : (s.setBlock i x).block j = s.block j := Table.get_put_ne h _ _ _

@[simp] theorem State.district_setDistrict (s : State) (i : Nat) (x : District) : (s.setDistrict i x).district i = x := Table.get_put_self _ _ _ _
theorem State.district_setDistrict_ne (s : State) {i j : Nat} (h : j ≠ i) (x : District) : (s.setDistrict i x).district j = s.district j := Table.get_put_ne h _ _ _

@[simp] theorem State.core_setCore (s : State) (i : Nat) (x : Core) : (s.setCore i x).core i = x := Table.get_put_self _ _ _ _
theorem State.core_setCore_ne (s : State) {i j : Nat} (h : j ≠ i) (x : Core) : (s.setCore i x).core j = s.core j := Table.get_put_ne h _ _ _

@[simp] theorem State.channel_setChannel (s : State) (i : Nat) (x : Channel) : (s.setChannel i x).channel i = x := Table.get_put_self _ _ _ _
theorem State.channel_setChannel_ne (s : State) {i j : Nat} (h : j ≠ i) (x : Channel) : (s.setChannel i x).channel j = s.channel j := Table.get_put_ne h _ _ _

@[simp] theorem State.window_setWindow (s : State) (i : Nat) (x : Window) : (s.setWindow i x).window i = x := Table.get_put_self _ _ _ _
theorem State.window_setWindow_ne (s : State) {i j : Nat} (h : j ≠ i) (x : Window) : (s.setWindow i x).window j = s.window j := Table.get_put_ne h _ _ _

@[simp] theorem State.part_setPart (s : State) (i : Nat) (x : Part) : (s.setPart i x).part i = x := by simp [State.part]
theorem State.part_setPart_ne (s : State) {i j : Nat} (h : j ≠ i) (x : Part) : (s.setPart i x).part j = s.part j := by simp [State.part, Table.get_put_ne h]

@[simp] theorem State.request_setRequest (s : State) (i : Nat) (x : Request) : (s.setRequest i x).request i = x := by simp [State.request]
theorem State.request_setRequest_ne (s : State) {i j : Nat} (h : j ≠ i) (x : Request) : (s.setRequest i x).request j = s.request j := by simp [State.request, Table.get_put_ne h]

@[simp] theorem State.tenant_setTenant (s : State) (i : Nat) (x : Tenant) : (s.setTenant i x).tenant i = x := by simp [State.tenant]
theorem State.tenant_setTenant_ne (s : State) {i j : Nat} (h : j ≠ i) (x : Tenant) : (s.setTenant i x).tenant j = s.tenant j := by simp [State.tenant, Table.get_put_ne h]

@[simp] theorem State.key_setKey (s : State) (i : Nat) (x : Key) : (s.setKey i x).key i = x := by simp [State.key]
theorem State.key_setKey_ne (s : State) {i j : Nat} (h : j ≠ i) (x : Key) : (s.setKey i x).key j = s.key j := by simp [State.key, Table.get_put_ne h]

@[simp] theorem State.fn_setFn (s : State) (f : FnId) (x : Fn) : (s.setFn f x).fn f = x := Table.get_put_self _ _ _ _

@[simp] theorem State.counter_count (s : State) (i u n : Nat) : (s.count i u n).counter i u = (s.counter i u + n) % 2 ^ 48 := by
  simp [State.count, State.counter]

theorem State.counter_count_ne (s : State) {i u j v : Nat} (h : objKey j v ≠ objKey i u) (n : Nat) : (s.count i u n).counter j v = s.counter j v := by
  simp [State.count, State.counter, Table.get_put_ne h]

@[simp] theorem State.obj_setObj (s : State) (i u : Nat) (v : List Byte) : (s.setObj i u v).obj i u = v := by
  simp [State.obj]

/-! ## Readers of other tables -/

@[simp] theorem State.part_setBlock (s : State) (i : Nat) (x : Block) (j : Nat) : (s.setBlock i x).part j = s.part j := by simp [State.part]
@[simp] theorem State.district_setBlock (s : State) (i : Nat) (x : Block) (j : Nat) : (s.setBlock i x).district j = s.district j := by simp [State.district]
@[simp] theorem State.core_setBlock (s : State) (i : Nat) (x : Block) (j : Nat) : (s.setBlock i x).core j = s.core j := by simp [State.core]
@[simp] theorem State.channel_setBlock (s : State) (i : Nat) (x : Block) (j : Nat) : (s.setBlock i x).channel j = s.channel j := by simp [State.channel]
@[simp] theorem State.request_setBlock (s : State) (i : Nat) (x : Block) (j : Nat) : (s.setBlock i x).request j = s.request j := by simp [State.request]
@[simp] theorem State.tenant_setBlock (s : State) (i : Nat) (x : Block) (j : Nat) : (s.setBlock i x).tenant j = s.tenant j := by simp [State.tenant]
@[simp] theorem State.key_setBlock (s : State) (i : Nat) (x : Block) (j : Nat) : (s.setBlock i x).key j = s.key j := by simp [State.key]
@[simp] theorem State.window_setBlock (s : State) (i : Nat) (x : Block) (j : Nat) : (s.setBlock i x).window j = s.window j := by simp [State.window]
@[simp] theorem State.fn_setBlock (s : State) (i : Nat) (x : Block) (g : FnId) : (s.setBlock i x).fn g = s.fn g := by simp [State.fn]
@[simp] theorem State.counter_setBlock (s : State) (i : Nat) (x : Block) (j v : Nat) : (s.setBlock i x).counter j v = s.counter j v := by simp [State.counter]
@[simp] theorem State.obj_setBlock (s : State) (i : Nat) (x : Block) (j v : Nat) : (s.setBlock i x).obj j v = s.obj j v := by simp [State.obj]
@[simp] theorem State.town_setBlock (s : State) (i : Nat) (x : Block)  : (s.setBlock i x).town  = s.town  := by simp [State.town]
@[simp] theorem State.live_setBlock (s : State) (i : Nat) (x : Block)  : (s.setBlock i x).live  = s.live  := by simp [State.live]
@[simp] theorem State.readWord_setBlock (s : State) (i : Nat) (x : Block) (j : Nat) : (s.setBlock i x).readWord j = s.readWord j := by simp [State.readWord]

@[simp] theorem State.block_setDistrict (s : State) (i : Nat) (x : District) (j : Nat) : (s.setDistrict i x).block j = s.block j := by simp [State.block]
@[simp] theorem State.part_setDistrict (s : State) (i : Nat) (x : District) (j : Nat) : (s.setDistrict i x).part j = s.part j := by simp [State.part]
@[simp] theorem State.core_setDistrict (s : State) (i : Nat) (x : District) (j : Nat) : (s.setDistrict i x).core j = s.core j := by simp [State.core]
@[simp] theorem State.channel_setDistrict (s : State) (i : Nat) (x : District) (j : Nat) : (s.setDistrict i x).channel j = s.channel j := by simp [State.channel]
@[simp] theorem State.request_setDistrict (s : State) (i : Nat) (x : District) (j : Nat) : (s.setDistrict i x).request j = s.request j := by simp [State.request]
@[simp] theorem State.tenant_setDistrict (s : State) (i : Nat) (x : District) (j : Nat) : (s.setDistrict i x).tenant j = s.tenant j := by simp [State.tenant]
@[simp] theorem State.key_setDistrict (s : State) (i : Nat) (x : District) (j : Nat) : (s.setDistrict i x).key j = s.key j := by simp [State.key]
@[simp] theorem State.window_setDistrict (s : State) (i : Nat) (x : District) (j : Nat) : (s.setDistrict i x).window j = s.window j := by simp [State.window]
@[simp] theorem State.fn_setDistrict (s : State) (i : Nat) (x : District) (g : FnId) : (s.setDistrict i x).fn g = s.fn g := by simp [State.fn]
@[simp] theorem State.counter_setDistrict (s : State) (i : Nat) (x : District) (j v : Nat) : (s.setDistrict i x).counter j v = s.counter j v := by simp [State.counter]
@[simp] theorem State.obj_setDistrict (s : State) (i : Nat) (x : District) (j v : Nat) : (s.setDistrict i x).obj j v = s.obj j v := by simp [State.obj]
@[simp] theorem State.town_setDistrict (s : State) (i : Nat) (x : District)  : (s.setDistrict i x).town  = s.town  := by simp [State.town]
@[simp] theorem State.live_setDistrict (s : State) (i : Nat) (x : District)  : (s.setDistrict i x).live  = s.live  := by simp [State.live]
@[simp] theorem State.readWord_setDistrict (s : State) (i : Nat) (x : District) (j : Nat) : (s.setDistrict i x).readWord j = s.readWord j := by simp [State.readWord]

@[simp] theorem State.block_setCore (s : State) (i : Nat) (x : Core) (j : Nat) : (s.setCore i x).block j = s.block j := by simp [State.block]
@[simp] theorem State.part_setCore (s : State) (i : Nat) (x : Core) (j : Nat) : (s.setCore i x).part j = s.part j := by simp [State.part]
@[simp] theorem State.district_setCore (s : State) (i : Nat) (x : Core) (j : Nat) : (s.setCore i x).district j = s.district j := by simp [State.district]
@[simp] theorem State.channel_setCore (s : State) (i : Nat) (x : Core) (j : Nat) : (s.setCore i x).channel j = s.channel j := by simp [State.channel]
@[simp] theorem State.request_setCore (s : State) (i : Nat) (x : Core) (j : Nat) : (s.setCore i x).request j = s.request j := by simp [State.request]
@[simp] theorem State.tenant_setCore (s : State) (i : Nat) (x : Core) (j : Nat) : (s.setCore i x).tenant j = s.tenant j := by simp [State.tenant]
@[simp] theorem State.key_setCore (s : State) (i : Nat) (x : Core) (j : Nat) : (s.setCore i x).key j = s.key j := by simp [State.key]
@[simp] theorem State.window_setCore (s : State) (i : Nat) (x : Core) (j : Nat) : (s.setCore i x).window j = s.window j := by simp [State.window]
@[simp] theorem State.fn_setCore (s : State) (i : Nat) (x : Core) (g : FnId) : (s.setCore i x).fn g = s.fn g := by simp [State.fn]
@[simp] theorem State.counter_setCore (s : State) (i : Nat) (x : Core) (j v : Nat) : (s.setCore i x).counter j v = s.counter j v := by simp [State.counter]
@[simp] theorem State.obj_setCore (s : State) (i : Nat) (x : Core) (j v : Nat) : (s.setCore i x).obj j v = s.obj j v := by simp [State.obj]
@[simp] theorem State.town_setCore (s : State) (i : Nat) (x : Core)  : (s.setCore i x).town  = s.town  := by simp [State.town]
@[simp] theorem State.live_setCore (s : State) (i : Nat) (x : Core)  : (s.setCore i x).live  = s.live  := by simp [State.live]
@[simp] theorem State.readWord_setCore (s : State) (i : Nat) (x : Core) (j : Nat) : (s.setCore i x).readWord j = s.readWord j := by simp [State.readWord]

@[simp] theorem State.block_setChannel (s : State) (i : Nat) (x : Channel) (j : Nat) : (s.setChannel i x).block j = s.block j := by simp [State.block]
@[simp] theorem State.part_setChannel (s : State) (i : Nat) (x : Channel) (j : Nat) : (s.setChannel i x).part j = s.part j := by simp [State.part]
@[simp] theorem State.district_setChannel (s : State) (i : Nat) (x : Channel) (j : Nat) : (s.setChannel i x).district j = s.district j := by simp [State.district]
@[simp] theorem State.core_setChannel (s : State) (i : Nat) (x : Channel) (j : Nat) : (s.setChannel i x).core j = s.core j := by simp [State.core]
@[simp] theorem State.request_setChannel (s : State) (i : Nat) (x : Channel) (j : Nat) : (s.setChannel i x).request j = s.request j := by simp [State.request]
@[simp] theorem State.tenant_setChannel (s : State) (i : Nat) (x : Channel) (j : Nat) : (s.setChannel i x).tenant j = s.tenant j := by simp [State.tenant]
@[simp] theorem State.key_setChannel (s : State) (i : Nat) (x : Channel) (j : Nat) : (s.setChannel i x).key j = s.key j := by simp [State.key]
@[simp] theorem State.window_setChannel (s : State) (i : Nat) (x : Channel) (j : Nat) : (s.setChannel i x).window j = s.window j := by simp [State.window]
@[simp] theorem State.fn_setChannel (s : State) (i : Nat) (x : Channel) (g : FnId) : (s.setChannel i x).fn g = s.fn g := by simp [State.fn]
@[simp] theorem State.counter_setChannel (s : State) (i : Nat) (x : Channel) (j v : Nat) : (s.setChannel i x).counter j v = s.counter j v := by simp [State.counter]
@[simp] theorem State.obj_setChannel (s : State) (i : Nat) (x : Channel) (j v : Nat) : (s.setChannel i x).obj j v = s.obj j v := by simp [State.obj]
@[simp] theorem State.town_setChannel (s : State) (i : Nat) (x : Channel)  : (s.setChannel i x).town  = s.town  := by simp [State.town]
@[simp] theorem State.live_setChannel (s : State) (i : Nat) (x : Channel)  : (s.setChannel i x).live  = s.live  := by simp [State.live]
@[simp] theorem State.readWord_setChannel (s : State) (i : Nat) (x : Channel) (j : Nat) : (s.setChannel i x).readWord j = s.readWord j := by simp [State.readWord]

@[simp] theorem State.block_setWindow (s : State) (i : Nat) (x : Window) (j : Nat) : (s.setWindow i x).block j = s.block j := by simp [State.block]
@[simp] theorem State.part_setWindow (s : State) (i : Nat) (x : Window) (j : Nat) : (s.setWindow i x).part j = s.part j := by simp [State.part]
@[simp] theorem State.district_setWindow (s : State) (i : Nat) (x : Window) (j : Nat) : (s.setWindow i x).district j = s.district j := by simp [State.district]
@[simp] theorem State.core_setWindow (s : State) (i : Nat) (x : Window) (j : Nat) : (s.setWindow i x).core j = s.core j := by simp [State.core]
@[simp] theorem State.channel_setWindow (s : State) (i : Nat) (x : Window) (j : Nat) : (s.setWindow i x).channel j = s.channel j := by simp [State.channel]
@[simp] theorem State.request_setWindow (s : State) (i : Nat) (x : Window) (j : Nat) : (s.setWindow i x).request j = s.request j := by simp [State.request]
@[simp] theorem State.tenant_setWindow (s : State) (i : Nat) (x : Window) (j : Nat) : (s.setWindow i x).tenant j = s.tenant j := by simp [State.tenant]
@[simp] theorem State.key_setWindow (s : State) (i : Nat) (x : Window) (j : Nat) : (s.setWindow i x).key j = s.key j := by simp [State.key]
@[simp] theorem State.fn_setWindow (s : State) (i : Nat) (x : Window) (g : FnId) : (s.setWindow i x).fn g = s.fn g := by simp [State.fn]
@[simp] theorem State.counter_setWindow (s : State) (i : Nat) (x : Window) (j v : Nat) : (s.setWindow i x).counter j v = s.counter j v := by simp [State.counter]
@[simp] theorem State.obj_setWindow (s : State) (i : Nat) (x : Window) (j v : Nat) : (s.setWindow i x).obj j v = s.obj j v := by simp [State.obj]
@[simp] theorem State.town_setWindow (s : State) (i : Nat) (x : Window)  : (s.setWindow i x).town  = s.town  := by simp [State.town]
@[simp] theorem State.live_setWindow (s : State) (i : Nat) (x : Window)  : (s.setWindow i x).live  = s.live  := by simp [State.live]
@[simp] theorem State.readWord_setWindow (s : State) (i : Nat) (x : Window) (j : Nat) : (s.setWindow i x).readWord j = s.readWord j := by simp [State.readWord]

@[simp] theorem State.block_setFn (s : State) (f : FnId) (x : Fn) (j : Nat) : (s.setFn f x).block j = s.block j := by simp [State.block]
@[simp] theorem State.part_setFn (s : State) (f : FnId) (x : Fn) (j : Nat) : (s.setFn f x).part j = s.part j := by simp [State.part]
@[simp] theorem State.district_setFn (s : State) (f : FnId) (x : Fn) (j : Nat) : (s.setFn f x).district j = s.district j := by simp [State.district]
@[simp] theorem State.core_setFn (s : State) (f : FnId) (x : Fn) (j : Nat) : (s.setFn f x).core j = s.core j := by simp [State.core]
@[simp] theorem State.channel_setFn (s : State) (f : FnId) (x : Fn) (j : Nat) : (s.setFn f x).channel j = s.channel j := by simp [State.channel]
@[simp] theorem State.request_setFn (s : State) (f : FnId) (x : Fn) (j : Nat) : (s.setFn f x).request j = s.request j := by simp [State.request]
@[simp] theorem State.tenant_setFn (s : State) (f : FnId) (x : Fn) (j : Nat) : (s.setFn f x).tenant j = s.tenant j := by simp [State.tenant]
@[simp] theorem State.key_setFn (s : State) (f : FnId) (x : Fn) (j : Nat) : (s.setFn f x).key j = s.key j := by simp [State.key]
@[simp] theorem State.window_setFn (s : State) (f : FnId) (x : Fn) (j : Nat) : (s.setFn f x).window j = s.window j := by simp [State.window]
@[simp] theorem State.counter_setFn (s : State) (f : FnId) (x : Fn) (j v : Nat) : (s.setFn f x).counter j v = s.counter j v := by simp [State.counter]
@[simp] theorem State.obj_setFn (s : State) (f : FnId) (x : Fn) (j v : Nat) : (s.setFn f x).obj j v = s.obj j v := by simp [State.obj]
@[simp] theorem State.town_setFn (s : State) (f : FnId) (x : Fn)  : (s.setFn f x).town  = s.town  := by simp [State.town]
@[simp] theorem State.live_setFn (s : State) (f : FnId) (x : Fn)  : (s.setFn f x).live  = s.live  := by simp [State.live]
@[simp] theorem State.readWord_setFn (s : State) (f : FnId) (x : Fn) (j : Nat) : (s.setFn f x).readWord j = s.readWord j := by simp [State.readWord]

@[simp] theorem State.block_emit (s : State) (o : Output) (j : Nat) : (s.emit o).block j = s.block j := by simp [State.block]
@[simp] theorem State.part_emit (s : State) (o : Output) (j : Nat) : (s.emit o).part j = s.part j := by simp [State.part]
@[simp] theorem State.district_emit (s : State) (o : Output) (j : Nat) : (s.emit o).district j = s.district j := by simp [State.district]
@[simp] theorem State.core_emit (s : State) (o : Output) (j : Nat) : (s.emit o).core j = s.core j := by simp [State.core]
@[simp] theorem State.channel_emit (s : State) (o : Output) (j : Nat) : (s.emit o).channel j = s.channel j := by simp [State.channel]
@[simp] theorem State.request_emit (s : State) (o : Output) (j : Nat) : (s.emit o).request j = s.request j := by simp [State.request]
@[simp] theorem State.tenant_emit (s : State) (o : Output) (j : Nat) : (s.emit o).tenant j = s.tenant j := by simp [State.tenant]
@[simp] theorem State.key_emit (s : State) (o : Output) (j : Nat) : (s.emit o).key j = s.key j := by simp [State.key]
@[simp] theorem State.window_emit (s : State) (o : Output) (j : Nat) : (s.emit o).window j = s.window j := by simp [State.window]
@[simp] theorem State.fn_emit (s : State) (o : Output) (g : FnId) : (s.emit o).fn g = s.fn g := by simp [State.fn]
@[simp] theorem State.counter_emit (s : State) (o : Output) (j v : Nat) : (s.emit o).counter j v = s.counter j v := by simp [State.counter]
@[simp] theorem State.obj_emit (s : State) (o : Output) (j v : Nat) : (s.emit o).obj j v = s.obj j v := by simp [State.obj]
@[simp] theorem State.town_emit (s : State) (o : Output)  : (s.emit o).town  = s.town  := by simp [State.town]
@[simp] theorem State.live_emit (s : State) (o : Output)  : (s.emit o).live  = s.live  := by simp [State.live]
@[simp] theorem State.readWord_emit (s : State) (o : Output) (j : Nat) : (s.emit o).readWord j = s.readWord j := by simp [State.readWord]

@[simp] theorem State.block_bump (s : State) (i u : Nat) (j : Nat) : (s.bump i u).block j = s.block j := by simp [State.block]
@[simp] theorem State.part_bump (s : State) (i u : Nat) (j : Nat) : (s.bump i u).part j = s.part j := by simp [State.part]
@[simp] theorem State.district_bump (s : State) (i u : Nat) (j : Nat) : (s.bump i u).district j = s.district j := by simp [State.district]
@[simp] theorem State.core_bump (s : State) (i u : Nat) (j : Nat) : (s.bump i u).core j = s.core j := by simp [State.core]
@[simp] theorem State.channel_bump (s : State) (i u : Nat) (j : Nat) : (s.bump i u).channel j = s.channel j := by simp [State.channel]
@[simp] theorem State.request_bump (s : State) (i u : Nat) (j : Nat) : (s.bump i u).request j = s.request j := by simp [State.request]
@[simp] theorem State.tenant_bump (s : State) (i u : Nat) (j : Nat) : (s.bump i u).tenant j = s.tenant j := by simp [State.tenant]
@[simp] theorem State.key_bump (s : State) (i u : Nat) (j : Nat) : (s.bump i u).key j = s.key j := by simp [State.key]
@[simp] theorem State.window_bump (s : State) (i u : Nat) (j : Nat) : (s.bump i u).window j = s.window j := by simp [State.window]
@[simp] theorem State.fn_bump (s : State) (i u : Nat) (g : FnId) : (s.bump i u).fn g = s.fn g := by simp [State.fn]
@[simp] theorem State.counter_bump (s : State) (i u : Nat) (j v : Nat) : (s.bump i u).counter j v = s.counter j v := by simp [State.counter]
@[simp] theorem State.obj_bump (s : State) (i u : Nat) (j v : Nat) : (s.bump i u).obj j v = s.obj j v := by simp [State.obj]
@[simp] theorem State.town_bump (s : State) (i u : Nat)  : (s.bump i u).town  = s.town  := by simp [State.town]
@[simp] theorem State.live_bump (s : State) (i u : Nat)  : (s.bump i u).live  = s.live  := by simp [State.live]
@[simp] theorem State.readWord_bump (s : State) (i u : Nat) (j : Nat) : (s.bump i u).readWord j = s.readWord j := by simp [State.readWord]

@[simp] theorem State.block_setPart (s : State) (i : Nat) (x : Part) (j : Nat) : (s.setPart i x).block j = s.block j := by simp [State.block]
@[simp] theorem State.district_setPart (s : State) (i : Nat) (x : Part) (j : Nat) : (s.setPart i x).district j = s.district j := by simp [State.district]
@[simp] theorem State.core_setPart (s : State) (i : Nat) (x : Part) (j : Nat) : (s.setPart i x).core j = s.core j := by simp [State.core]
@[simp] theorem State.channel_setPart (s : State) (i : Nat) (x : Part) (j : Nat) : (s.setPart i x).channel j = s.channel j := by simp [State.channel]
@[simp] theorem State.request_setPart (s : State) (i : Nat) (x : Part) (j : Nat) : (s.setPart i x).request j = s.request j := by simp [State.request]
@[simp] theorem State.tenant_setPart (s : State) (i : Nat) (x : Part) (j : Nat) : (s.setPart i x).tenant j = s.tenant j := by simp [State.tenant]
@[simp] theorem State.key_setPart (s : State) (i : Nat) (x : Part) (j : Nat) : (s.setPart i x).key j = s.key j := by simp [State.key]
@[simp] theorem State.window_setPart (s : State) (i : Nat) (x : Part) (j : Nat) : (s.setPart i x).window j = s.window j := by simp [State.window]
@[simp] theorem State.fn_setPart (s : State) (i : Nat) (x : Part) (g : FnId) : (s.setPart i x).fn g = s.fn g := by simp [State.fn]
@[simp] theorem State.counter_setPart (s : State) (i : Nat) (x : Part) (j v : Nat) : (s.setPart i x).counter j v = s.counter j v := by simp [State.counter]
@[simp] theorem State.obj_setPart (s : State) (i : Nat) (x : Part) (j v : Nat) : (s.setPart i x).obj j v = s.obj j v := by simp [State.obj]
@[simp] theorem State.town_setPart (s : State) (i : Nat) (x : Part)  : (s.setPart i x).town  = s.town  := by simp [State.town]
@[simp] theorem State.live_setPart (s : State) (i : Nat) (x : Part)  : (s.setPart i x).live  = s.live  := by simp [State.live]
@[simp] theorem State.readWord_setPart (s : State) (i : Nat) (x : Part) (j : Nat) : (s.setPart i x).readWord j = s.readWord j := by simp [State.readWord]

@[simp] theorem State.block_setRequest (s : State) (i : Nat) (x : Request) (j : Nat) : (s.setRequest i x).block j = s.block j := by simp [State.block]
@[simp] theorem State.part_setRequest (s : State) (i : Nat) (x : Request) (j : Nat) : (s.setRequest i x).part j = s.part j := by simp [State.part]
@[simp] theorem State.district_setRequest (s : State) (i : Nat) (x : Request) (j : Nat) : (s.setRequest i x).district j = s.district j := by simp [State.district]
@[simp] theorem State.core_setRequest (s : State) (i : Nat) (x : Request) (j : Nat) : (s.setRequest i x).core j = s.core j := by simp [State.core]
@[simp] theorem State.channel_setRequest (s : State) (i : Nat) (x : Request) (j : Nat) : (s.setRequest i x).channel j = s.channel j := by simp [State.channel]
@[simp] theorem State.tenant_setRequest (s : State) (i : Nat) (x : Request) (j : Nat) : (s.setRequest i x).tenant j = s.tenant j := by simp [State.tenant]
@[simp] theorem State.key_setRequest (s : State) (i : Nat) (x : Request) (j : Nat) : (s.setRequest i x).key j = s.key j := by simp [State.key]
@[simp] theorem State.window_setRequest (s : State) (i : Nat) (x : Request) (j : Nat) : (s.setRequest i x).window j = s.window j := by simp [State.window]
@[simp] theorem State.fn_setRequest (s : State) (i : Nat) (x : Request) (g : FnId) : (s.setRequest i x).fn g = s.fn g := by simp [State.fn]
@[simp] theorem State.counter_setRequest (s : State) (i : Nat) (x : Request) (j v : Nat) : (s.setRequest i x).counter j v = s.counter j v := by simp [State.counter]
@[simp] theorem State.obj_setRequest (s : State) (i : Nat) (x : Request) (j v : Nat) : (s.setRequest i x).obj j v = s.obj j v := by simp [State.obj]
@[simp] theorem State.town_setRequest (s : State) (i : Nat) (x : Request)  : (s.setRequest i x).town  = s.town  := by simp [State.town]
@[simp] theorem State.live_setRequest (s : State) (i : Nat) (x : Request)  : (s.setRequest i x).live  = s.live  := by simp [State.live]
@[simp] theorem State.readWord_setRequest (s : State) (i : Nat) (x : Request) (j : Nat) : (s.setRequest i x).readWord j = s.readWord j := by simp [State.readWord]

@[simp] theorem State.block_setTenant (s : State) (i : Nat) (x : Tenant) (j : Nat) : (s.setTenant i x).block j = s.block j := by simp [State.block]
@[simp] theorem State.part_setTenant (s : State) (i : Nat) (x : Tenant) (j : Nat) : (s.setTenant i x).part j = s.part j := by simp [State.part]
@[simp] theorem State.district_setTenant (s : State) (i : Nat) (x : Tenant) (j : Nat) : (s.setTenant i x).district j = s.district j := by simp [State.district]
@[simp] theorem State.core_setTenant (s : State) (i : Nat) (x : Tenant) (j : Nat) : (s.setTenant i x).core j = s.core j := by simp [State.core]
@[simp] theorem State.channel_setTenant (s : State) (i : Nat) (x : Tenant) (j : Nat) : (s.setTenant i x).channel j = s.channel j := by simp [State.channel]
@[simp] theorem State.request_setTenant (s : State) (i : Nat) (x : Tenant) (j : Nat) : (s.setTenant i x).request j = s.request j := by simp [State.request]
@[simp] theorem State.key_setTenant (s : State) (i : Nat) (x : Tenant) (j : Nat) : (s.setTenant i x).key j = s.key j := by simp [State.key]
@[simp] theorem State.window_setTenant (s : State) (i : Nat) (x : Tenant) (j : Nat) : (s.setTenant i x).window j = s.window j := by simp [State.window]
@[simp] theorem State.fn_setTenant (s : State) (i : Nat) (x : Tenant) (g : FnId) : (s.setTenant i x).fn g = s.fn g := by simp [State.fn]
@[simp] theorem State.counter_setTenant (s : State) (i : Nat) (x : Tenant) (j v : Nat) : (s.setTenant i x).counter j v = s.counter j v := by simp [State.counter]
@[simp] theorem State.obj_setTenant (s : State) (i : Nat) (x : Tenant) (j v : Nat) : (s.setTenant i x).obj j v = s.obj j v := by simp [State.obj]
@[simp] theorem State.town_setTenant (s : State) (i : Nat) (x : Tenant)  : (s.setTenant i x).town  = s.town  := by simp [State.town]
@[simp] theorem State.live_setTenant (s : State) (i : Nat) (x : Tenant)  : (s.setTenant i x).live  = s.live  := by simp [State.live]
@[simp] theorem State.readWord_setTenant (s : State) (i : Nat) (x : Tenant) (j : Nat) : (s.setTenant i x).readWord j = s.readWord j := by simp [State.readWord]

@[simp] theorem State.block_setKey (s : State) (i : Nat) (x : Key) (j : Nat) : (s.setKey i x).block j = s.block j := by simp [State.block]
@[simp] theorem State.part_setKey (s : State) (i : Nat) (x : Key) (j : Nat) : (s.setKey i x).part j = s.part j := by simp [State.part]
@[simp] theorem State.district_setKey (s : State) (i : Nat) (x : Key) (j : Nat) : (s.setKey i x).district j = s.district j := by simp [State.district]
@[simp] theorem State.core_setKey (s : State) (i : Nat) (x : Key) (j : Nat) : (s.setKey i x).core j = s.core j := by simp [State.core]
@[simp] theorem State.channel_setKey (s : State) (i : Nat) (x : Key) (j : Nat) : (s.setKey i x).channel j = s.channel j := by simp [State.channel]
@[simp] theorem State.request_setKey (s : State) (i : Nat) (x : Key) (j : Nat) : (s.setKey i x).request j = s.request j := by simp [State.request]
@[simp] theorem State.tenant_setKey (s : State) (i : Nat) (x : Key) (j : Nat) : (s.setKey i x).tenant j = s.tenant j := by simp [State.tenant]
@[simp] theorem State.window_setKey (s : State) (i : Nat) (x : Key) (j : Nat) : (s.setKey i x).window j = s.window j := by simp [State.window]
@[simp] theorem State.fn_setKey (s : State) (i : Nat) (x : Key) (g : FnId) : (s.setKey i x).fn g = s.fn g := by simp [State.fn]
@[simp] theorem State.counter_setKey (s : State) (i : Nat) (x : Key) (j v : Nat) : (s.setKey i x).counter j v = s.counter j v := by simp [State.counter]
@[simp] theorem State.obj_setKey (s : State) (i : Nat) (x : Key) (j v : Nat) : (s.setKey i x).obj j v = s.obj j v := by simp [State.obj]
@[simp] theorem State.town_setKey (s : State) (i : Nat) (x : Key)  : (s.setKey i x).town  = s.town  := by simp [State.town]
@[simp] theorem State.live_setKey (s : State) (i : Nat) (x : Key)  : (s.setKey i x).live  = s.live  := by simp [State.live]
@[simp] theorem State.readWord_setKey (s : State) (i : Nat) (x : Key) (j : Nat) : (s.setKey i x).readWord j = s.readWord j := by simp [State.readWord]

@[simp] theorem State.block_count (s : State) (i u n : Nat) (j : Nat) : (s.count i u n).block j = s.block j := by simp [State.block]
@[simp] theorem State.part_count (s : State) (i u n : Nat) (j : Nat) : (s.count i u n).part j = s.part j := by simp [State.part]
@[simp] theorem State.district_count (s : State) (i u n : Nat) (j : Nat) : (s.count i u n).district j = s.district j := by simp [State.district]
@[simp] theorem State.core_count (s : State) (i u n : Nat) (j : Nat) : (s.count i u n).core j = s.core j := by simp [State.core]
@[simp] theorem State.channel_count (s : State) (i u n : Nat) (j : Nat) : (s.count i u n).channel j = s.channel j := by simp [State.channel]
@[simp] theorem State.request_count (s : State) (i u n : Nat) (j : Nat) : (s.count i u n).request j = s.request j := by simp [State.request]
@[simp] theorem State.tenant_count (s : State) (i u n : Nat) (j : Nat) : (s.count i u n).tenant j = s.tenant j := by simp [State.tenant]
@[simp] theorem State.key_count (s : State) (i u n : Nat) (j : Nat) : (s.count i u n).key j = s.key j := by simp [State.key]
@[simp] theorem State.window_count (s : State) (i u n : Nat) (j : Nat) : (s.count i u n).window j = s.window j := by simp [State.window]
@[simp] theorem State.fn_count (s : State) (i u n : Nat) (g : FnId) : (s.count i u n).fn g = s.fn g := by simp [State.fn]
@[simp] theorem State.obj_count (s : State) (i u n : Nat) (j v : Nat) : (s.count i u n).obj j v = s.obj j v := by simp [State.obj]
@[simp] theorem State.town_count (s : State) (i u n : Nat)  : (s.count i u n).town  = s.town  := by simp [State.town]
@[simp] theorem State.live_count (s : State) (i u n : Nat)  : (s.count i u n).live  = s.live  := by simp [State.live]
@[simp] theorem State.readWord_count (s : State) (i u n : Nat) (j : Nat) : (s.count i u n).readWord j = s.readWord j := by simp [State.readWord]

@[simp] theorem State.block_setCounter (s : State) (i u n : Nat) (j : Nat) : (s.setCounter i u n).block j = s.block j := by simp [State.block]
@[simp] theorem State.part_setCounter (s : State) (i u n : Nat) (j : Nat) : (s.setCounter i u n).part j = s.part j := by simp [State.part]
@[simp] theorem State.district_setCounter (s : State) (i u n : Nat) (j : Nat) : (s.setCounter i u n).district j = s.district j := by simp [State.district]
@[simp] theorem State.core_setCounter (s : State) (i u n : Nat) (j : Nat) : (s.setCounter i u n).core j = s.core j := by simp [State.core]
@[simp] theorem State.channel_setCounter (s : State) (i u n : Nat) (j : Nat) : (s.setCounter i u n).channel j = s.channel j := by simp [State.channel]
@[simp] theorem State.request_setCounter (s : State) (i u n : Nat) (j : Nat) : (s.setCounter i u n).request j = s.request j := by simp [State.request]
@[simp] theorem State.tenant_setCounter (s : State) (i u n : Nat) (j : Nat) : (s.setCounter i u n).tenant j = s.tenant j := by simp [State.tenant]
@[simp] theorem State.key_setCounter (s : State) (i u n : Nat) (j : Nat) : (s.setCounter i u n).key j = s.key j := by simp [State.key]
@[simp] theorem State.window_setCounter (s : State) (i u n : Nat) (j : Nat) : (s.setCounter i u n).window j = s.window j := by simp [State.window]
@[simp] theorem State.fn_setCounter (s : State) (i u n : Nat) (g : FnId) : (s.setCounter i u n).fn g = s.fn g := by simp [State.fn]
@[simp] theorem State.obj_setCounter (s : State) (i u n : Nat) (j v : Nat) : (s.setCounter i u n).obj j v = s.obj j v := by simp [State.obj]
@[simp] theorem State.town_setCounter (s : State) (i u n : Nat)  : (s.setCounter i u n).town  = s.town  := by simp [State.town]
@[simp] theorem State.live_setCounter (s : State) (i u n : Nat)  : (s.setCounter i u n).live  = s.live  := by simp [State.live]
@[simp] theorem State.readWord_setCounter (s : State) (i u n : Nat) (j : Nat) : (s.setCounter i u n).readWord j = s.readWord j := by simp [State.readWord]

@[simp] theorem State.block_setObj (s : State) (i u : Nat) (w : List Byte) (j : Nat) : (s.setObj i u w).block j = s.block j := by simp [State.block]
@[simp] theorem State.part_setObj (s : State) (i u : Nat) (w : List Byte) (j : Nat) : (s.setObj i u w).part j = s.part j := by simp [State.part]
@[simp] theorem State.district_setObj (s : State) (i u : Nat) (w : List Byte) (j : Nat) : (s.setObj i u w).district j = s.district j := by simp [State.district]
@[simp] theorem State.core_setObj (s : State) (i u : Nat) (w : List Byte) (j : Nat) : (s.setObj i u w).core j = s.core j := by simp [State.core]
@[simp] theorem State.channel_setObj (s : State) (i u : Nat) (w : List Byte) (j : Nat) : (s.setObj i u w).channel j = s.channel j := by simp [State.channel]
@[simp] theorem State.request_setObj (s : State) (i u : Nat) (w : List Byte) (j : Nat) : (s.setObj i u w).request j = s.request j := by simp [State.request]
@[simp] theorem State.tenant_setObj (s : State) (i u : Nat) (w : List Byte) (j : Nat) : (s.setObj i u w).tenant j = s.tenant j := by simp [State.tenant]
@[simp] theorem State.key_setObj (s : State) (i u : Nat) (w : List Byte) (j : Nat) : (s.setObj i u w).key j = s.key j := by simp [State.key]
@[simp] theorem State.window_setObj (s : State) (i u : Nat) (w : List Byte) (j : Nat) : (s.setObj i u w).window j = s.window j := by simp [State.window]
@[simp] theorem State.fn_setObj (s : State) (i u : Nat) (w : List Byte) (g : FnId) : (s.setObj i u w).fn g = s.fn g := by simp [State.fn]
@[simp] theorem State.counter_setObj (s : State) (i u : Nat) (w : List Byte) (j v : Nat) : (s.setObj i u w).counter j v = s.counter j v := by simp [State.counter]
@[simp] theorem State.town_setObj (s : State) (i u : Nat) (w : List Byte)  : (s.setObj i u w).town  = s.town  := by simp [State.town]
@[simp] theorem State.live_setObj (s : State) (i u : Nat) (w : List Byte)  : (s.setObj i u w).live  = s.live  := by simp [State.live]
@[simp] theorem State.readWord_setObj (s : State) (i u : Nat) (w : List Byte) (j : Nat) : (s.setObj i u w).readWord j = s.readWord j := by simp [State.readWord]

@[simp] theorem State.block_writeWord (s : State) (a : Nat) (x : Stored) (j : Nat) : (s.writeWord a x).block j = s.block j := by simp [State.block]
@[simp] theorem State.part_writeWord (s : State) (a : Nat) (x : Stored) (j : Nat) : (s.writeWord a x).part j = s.part j := by simp [State.part]
@[simp] theorem State.district_writeWord (s : State) (a : Nat) (x : Stored) (j : Nat) : (s.writeWord a x).district j = s.district j := by simp [State.district]
@[simp] theorem State.core_writeWord (s : State) (a : Nat) (x : Stored) (j : Nat) : (s.writeWord a x).core j = s.core j := by simp [State.core]
@[simp] theorem State.channel_writeWord (s : State) (a : Nat) (x : Stored) (j : Nat) : (s.writeWord a x).channel j = s.channel j := by simp [State.channel]
@[simp] theorem State.request_writeWord (s : State) (a : Nat) (x : Stored) (j : Nat) : (s.writeWord a x).request j = s.request j := by simp [State.request]
@[simp] theorem State.tenant_writeWord (s : State) (a : Nat) (x : Stored) (j : Nat) : (s.writeWord a x).tenant j = s.tenant j := by simp [State.tenant]
@[simp] theorem State.key_writeWord (s : State) (a : Nat) (x : Stored) (j : Nat) : (s.writeWord a x).key j = s.key j := by simp [State.key]
@[simp] theorem State.window_writeWord (s : State) (a : Nat) (x : Stored) (j : Nat) : (s.writeWord a x).window j = s.window j := by simp [State.window]
@[simp] theorem State.fn_writeWord (s : State) (a : Nat) (x : Stored) (g : FnId) : (s.writeWord a x).fn g = s.fn g := by simp [State.fn]
@[simp] theorem State.counter_writeWord (s : State) (a : Nat) (x : Stored) (j v : Nat) : (s.writeWord a x).counter j v = s.counter j v := by simp [State.counter]
@[simp] theorem State.obj_writeWord (s : State) (a : Nat) (x : Stored) (j v : Nat) : (s.writeWord a x).obj j v = s.obj j v := by simp [State.obj]
@[simp] theorem State.town_writeWord (s : State) (a : Nat) (x : Stored)  : (s.writeWord a x).town  = s.town  := by simp [State.town]
@[simp] theorem State.live_writeWord (s : State) (a : Nat) (x : Stored)  : (s.writeWord a x).live  = s.live  := by simp [State.live]

end Sys2Proof.Machine
end

