-- ==== Sys2Proof/Laws/Issue.lean ====
section
/-! SUPPORT. Issue: what leaving the queue, the clearing of tags and taking a place change, and when a head issues (R119 to R123). -/
set_option linter.all false
set_option Elab.async false
namespace Sys2Proof.Machine

/-! ## Tags -/

@[simp] theorem State.markTag_blocks (s : State) (p h : Nat) (v : Bool) (w : Nat) : (s.markTag p h v w).blocks = s.blocks := by simp [State.markTag]
@[simp] theorem State.markTag_mem (s : State) (p h : Nat) (v : Bool) (w : Nat) : (s.markTag p h v w).mem = s.mem := by simp [State.markTag]
@[simp] theorem State.markTag_opCount (s : State) (p h : Nat) (v : Bool) (w : Nat) : (s.markTag p h v w).opCount = s.opCount := by simp [State.markTag]
@[simp] theorem State.markTag_districts (s : State) (p h : Nat) (v : Bool) (w : Nat) : (s.markTag p h v w).districts = s.districts := by simp [State.markTag]

@[simp] theorem State.clearTags_blocks (p id : Nat) : ∀ (hs : List Nat) (s : State), (s.clearTags p id hs).blocks = s.blocks
  | [], _ => rfl
  | h :: t, s => by
    have := State.clearTags_blocks p id t (s.markTag p h false id)
    simpa [State.clearTags] using this
@[simp] theorem State.clearTags_mem (p id : Nat) : ∀ (hs : List Nat) (s : State), (s.clearTags p id hs).mem = s.mem
  | [], _ => rfl
  | h :: t, s => by
    have := State.clearTags_mem p id t (s.markTag p h false id)
    simpa [State.clearTags] using this
@[simp] theorem State.clearTags_districts (p id : Nat) : ∀ (hs : List Nat) (s : State), (s.clearTags p id hs).districts = s.districts
  | [], _ => rfl
  | h :: t, s => by
    have := State.clearTags_districts p id t (s.markTag p h false id)
    simpa [State.clearTags] using this

/-! ## Leaving the queue -/

@[simp] theorem State.wipe_block (s : State) (l : List Nat) (b : Nat) : (s.wipe l).block b = s.block b := rfl
@[simp] theorem State.wipe_part (s : State) (l : List Nat) (p : Nat) : (s.wipe l).part p = s.part p := rfl
@[simp] theorem State.wipe_mem (s : State) (l : List Nat) : (s.wipe l).mem = s.mem := rfl

@[simp] theorem State.pop_block (s : State) (p b q : Nat) : (s.pop p b q).block b =
    (s.block b).setQueue q { (s.block b).queue q with descs := ((s.block b).queue q).descs.tail, delivered := ((s.block b).queue q).delivered - 1,
                                                      checked := false, prevIssue := (s.part p).lcycle } := by
  simp [State.pop]
@[simp] theorem State.pop_part (s : State) (p b q i : Nat) : (s.pop p b q).part i = s.part i := rfl
@[simp] theorem State.pop_mem (s : State) (p b q : Nat) : (s.pop p b q).mem = s.mem := rfl
@[simp] theorem State.pop_opCount (s : State) (p b q : Nat) : (s.pop p b q).opCount = s.opCount := rfl
@[simp] theorem State.pop_cyclesOf (s : State) (p b q i : Nat) : (s.pop p b q).cyclesOf i = s.cyclesOf i := rfl
@[simp] theorem State.pop_newOp (s : State) (p b q i j k : Nat) (d : Desc) (n : Nat) (w : Work) : (s.pop p b q).newOp i j k d n w = s.newOp i j k d n w := rfl

@[simp] theorem Block.setQueue_queue (x : Block) (q : Nat) (v : Queue) : (x.setQueue q v).queue q = v := by simp [Block.setQueue, Block.queue]
@[simp] theorem Block.setQueue_inflight (x : Block) (q : Nat) (v : Queue) : (x.setQueue q v).inflight = x.inflight := rfl
@[simp] theorem Block.setQueue_bank (x : Block) (q : Nat) (v : Queue) (n : Nat) : (x.setQueue q v).bank n = x.bank n := rfl
@[simp] theorem Block.setBank_bank (x : Block) (n : Nat) (k : Bank) : (x.setBank n k).bank n = k := by
  unfold Block.setBank Block.bank
  split <;> rfl
@[simp] theorem Block.setBank_inflight (x : Block) (n : Nat) (k : Bank) : (x.setBank n k).inflight = x.inflight := by
  unfold Block.setBank
  split <;> rfl
@[simp] theorem Block.setBank_queues (x : Block) (n : Nat) (k : Bank) : (x.setBank n k).queues = x.queues := by
  unfold Block.setBank
  split <;> rfl

/-! ## Taking a place -/

@[simp] theorem State.launch_block (s : State) (p b : Nat) (o : Op) : (s.launch p b o).block b = { s.block b with inflight := (s.block b).inflight ++ [o] } := by
  simp [State.launch, State.block, State.setBlock]
@[simp] theorem State.launch_mem (s : State) (p b : Nat) (o : Op) : (s.launch p b o).mem = s.mem := by simp [State.launch]

/-- A partition's block stays its own, and keeps its clock, when only what neither looks at changes. -/
theorem State.setPart_partOf {s : State} {p b : Nat} {x : Part} (h : s.partOf b = some p) (hs : x.partState = (s.part p).partState)
    (hm : x.blockMap = (s.part p).blockMap) : (s.setPart p x).partOf b = some p := by
  unfold State.partOf
  rw [State.setPart_parts]
  exact Table.find_put_same (d := {}) (by simp only [hs, hm]; rfl) h

theorem State.setPart_cyclesOf {s : State} {p b : Nat} {x : Part} (h : s.partOf b = some p) (hs : x.partState = (s.part p).partState)
    (hm : x.blockMap = (s.part p).blockMap) (hc : x.clocks = (s.part p).clocks) : (s.setPart p x).cyclesOf b = s.cyclesOf b := by
  unfold State.cyclesOf
  rw [State.setPart_partOf h hs hm, h]
  simp [hc]

theorem State.clearTags_cyclesOf {p b id : Nat} : ∀ {hs : List Nat} {s : State}, s.partOf b = some p →
    (s.clearTags p id hs).partOf b = some p ∧ (s.clearTags p id hs).cyclesOf b = s.cyclesOf b
  | [], s, h => ⟨h, rfl⟩
  | k :: t, s, h => by
    have hp : (s.markTag p k false id).partOf b = some p := State.setPart_partOf h rfl rfl
    have hc : (s.markTag p k false id).cyclesOf b = s.cyclesOf b := State.setPart_cyclesOf h rfl rfl rfl
    obtain ⟨h1, h2⟩ := State.clearTags_cyclesOf (hs := t) hp
    exact ⟨h1, h2.trans hc⟩

/-- An operation that takes a place changes no clock. -/
theorem State.launch_cyclesOf {s : State} {p b : Nat} {o : Op} (h : s.partOf b = some p) : (s.launch p b o).cyclesOf b = s.cyclesOf b :=
  (State.clearTags_cyclesOf (s := ({ s with opCount := s.opCount + 1 } : State).setBlock b _) h).2

@[simp] theorem State.wipe_cyclesOf (s : State) (l : List Nat) (b : Nat) : (s.wipe l).cyclesOf b = s.cyclesOf b := rfl
@[simp] theorem State.wipe_opCount (s : State) (l : List Nat) : (s.wipe l).opCount = s.opCount := rfl
@[simp] theorem State.wipe_partOf (s : State) (l : List Nat) (b : Nat) : (s.wipe l).partOf b = s.partOf b := rfl
@[simp] theorem State.pop_partOf (s : State) (p b q i : Nat) : (s.pop p b q).partOf i = s.partOf i := rfl
@[simp] theorem State.wipeBank_block (s : State) (b k i : Nat) : (s.wipeBank b k).block i = s.block i := rfl
@[simp] theorem State.wipeBank_mem (s : State) (b k : Nat) : (s.wipeBank b k).mem = s.mem := rfl
@[simp] theorem State.wipeBank_part (s : State) (b k p : Nat) : (s.wipeBank b k).part p = s.part p := rfl
@[simp] theorem State.wipeBank_cyclesOf (s : State) (b k i : Nat) : (s.wipeBank b k).cyclesOf i = s.cyclesOf i := rfl
@[simp] theorem State.wipeBank_opCount (s : State) (b k : Nat) : (s.wipeBank b k).opCount = s.opCount := rfl
@[simp] theorem State.wipeBank_partOf (s : State) (b k i : Nat) : (s.wipeBank b k).partOf i = s.partOf i := rfl
@[simp] theorem State.wipeBank_newOp (s : State) (b k i j q n : Nat) (d : Desc) (w : Work) : (s.wipeBank b k).newOp i j q d n w = s.newOp i j q d n w := rfl

/-- A head that issues: it leaves its queue, and its family starts it. -/
theorem State.issue_eq {s : State} {b q p : Nat} {d : Desc} {want : Desc → Bool} {more : State → Nat → Desc → List Status}
    {start : State → Nat → Desc → State} (hr : s.ready b q = some (p, d)) (hw : want d = true) (he : s.engineHeld b q d = false)
    (hp : s.hasPlace p b q = true) (hc : firstCause (s.operandCauses p b d ++ more s p d) = none) :
    s.issue b q want more start = start (s.pop p b q) p d := by
  simp [State.issue, hr, hw, he, hp, hc]

/-- A ready head belongs to the partition of its block. -/
theorem State.ready_part {s : State} {b q p : Nat} {d : Desc} (hr : s.ready b q = some (p, d)) : s.partOf b = some p ∧ s.head b q = some d := by
  unfold State.ready at hr
  split at hr
  · next hp hd =>
    split at hr
    · simp only [Option.some.injEq, Prod.mk.injEq] at hr
      exact ⟨hr.1 ▸ hp, hr.2 ▸ hd⟩
    · cases hr
  · cases hr

end Sys2Proof.Machine
end

