-- ==== Sys2Proof/Laws/Log.lean ====
section
/-! SUPPORT. Logging an event and counting mended words change the log, counters, counts of changes, and the notes that wait; a mended read also
queues a repair. One lemma for each field left as it was. -/
namespace Sys2Proof.Machine

/-- A field that both branches leave alike. -/
theorem fieldIte {α β : Type} (f : α → β) {c : Prop} [Decidable c] {a b : α} {x : β} (ha : f a = x) (hb : f b = x) : f (if c then a else b) = x := by
  split
  · exact ha
  · exact hb

/-! ## logEvent -/

@[simp] theorem State.logEvent_mode (s : State) (e : Event) : (s.logEvent e).mode = s.mode := by
  unfold State.logEvent
  dsimp only
  refine fieldIte State.mode ?_ ?_ <;> simp
@[simp] theorem State.logEvent_pending (s : State) (e : Event) : (s.logEvent e).pending = s.pending := by
  unfold State.logEvent
  dsimp only
  refine fieldIte State.pending ?_ ?_ <;> simp
@[simp] theorem State.logEvent_out (s : State) (e : Event) : (s.logEvent e).out = s.out := by
  unfold State.logEvent
  dsimp only
  refine fieldIte State.out ?_ ?_ <;> simp
@[simp] theorem State.logEvent_draws (s : State) (e : Event) : (s.logEvent e).draws = s.draws := by
  unfold State.logEvent
  dsimp only
  refine fieldIte State.draws ?_ ?_ <;> simp
@[simp] theorem State.logEvent_now (s : State) (e : Event) : (s.logEvent e).now = s.now := by
  unfold State.logEvent
  dsimp only
  refine fieldIte State.now ?_ ?_ <;> simp
@[simp] theorem State.logEvent_mem (s : State) (e : Event) : (s.logEvent e).mem = s.mem := by
  unfold State.logEvent
  dsimp only
  refine fieldIte State.mem ?_ ?_ <;> simp
@[simp] theorem State.logEvent_districts (s : State) (e : Event) : (s.logEvent e).districts = s.districts := by
  unfold State.logEvent
  dsimp only
  refine fieldIte State.districts ?_ ?_ <;> simp
@[simp] theorem State.logEvent_time (s : State) (e : Event) : (s.logEvent e).time = s.time := by
  unfold State.logEvent
  dsimp only
  refine fieldIte State.time ?_ ?_ <;> simp
@[simp] theorem State.logEvent_blocks (s : State) (e : Event) : (s.logEvent e).blocks = s.blocks := by
  unfold State.logEvent
  dsimp only
  refine fieldIte State.blocks ?_ ?_ <;> simp
@[simp] theorem State.logEvent_parts (s : State) (e : Event) : (s.logEvent e).parts = s.parts := by
  unfold State.logEvent
  dsimp only
  refine fieldIte State.parts ?_ ?_ <;> simp
@[simp] theorem State.logEvent_cores (s : State) (e : Event) : (s.logEvent e).cores = s.cores := by
  unfold State.logEvent
  dsimp only
  refine fieldIte State.cores ?_ ?_ <;> simp
@[simp] theorem State.logEvent_channels (s : State) (e : Event) : (s.logEvent e).channels = s.channels := by
  unfold State.logEvent
  dsimp only
  refine fieldIte State.channels ?_ ?_ <;> simp
@[simp] theorem State.logEvent_opCount (s : State) (e : Event) : (s.logEvent e).opCount = s.opCount := by
  unfold State.logEvent
  dsimp only
  refine fieldIte State.opCount ?_ ?_ <;> simp
@[simp] theorem State.logEvent_fns (s : State) (e : Event) : (s.logEvent e).fns = s.fns := by
  unfold State.logEvent
  dsimp only
  refine fieldIte State.fns ?_ ?_ <;> simp
@[simp] theorem State.logEvent_pcie (s : State) (e : Event) : (s.logEvent e).pcie = s.pcie := by
  unfold State.logEvent
  dsimp only
  refine fieldIte State.pcie ?_ ?_ <;> simp
@[simp] theorem State.logEvent_windows (s : State) (e : Event) : (s.logEvent e).windows = s.windows := by
  unfold State.logEvent
  dsimp only
  refine fieldIte State.windows ?_ ?_ <;> simp
@[simp] theorem State.logEvent_requests (s : State) (e : Event) : (s.logEvent e).requests = s.requests := by
  unfold State.logEvent
  dsimp only
  refine fieldIte State.requests ?_ ?_ <;> simp
@[simp] theorem State.logEvent_serving (s : State) (e : Event) : (s.logEvent e).serving = s.serving := by
  unfold State.logEvent
  dsimp only
  refine fieldIte State.serving ?_ ?_ <;> simp
@[simp] theorem State.logEvent_qps (s : State) (e : Event) : (s.logEvent e).qps = s.qps := by
  unfold State.logEvent
  dsimp only
  refine fieldIte State.qps ?_ ?_ <;> simp
@[simp] theorem State.logEvent_fetch (s : State) (e : Event) : (s.logEvent e).fetch = s.fetch := by
  unfold State.logEvent
  dsimp only
  refine fieldIte State.fetch ?_ ?_ <;> simp
@[simp] theorem State.logEvent_tenants (s : State) (e : Event) : (s.logEvent e).tenants = s.tenants := by
  unfold State.logEvent
  dsimp only
  refine fieldIte State.tenants ?_ ?_ <;> simp
@[simp] theorem State.logEvent_allocs (s : State) (e : Event) : (s.logEvent e).allocs = s.allocs := by
  unfold State.logEvent
  dsimp only
  refine fieldIte State.allocs ?_ ?_ <;> simp
@[simp] theorem State.logEvent_keys (s : State) (e : Event) : (s.logEvent e).keys = s.keys := by
  unfold State.logEvent
  dsimp only
  refine fieldIte State.keys ?_ ?_ <;> simp
@[simp] theorem State.logEvent_objects (s : State) (e : Event) : (s.logEvent e).objects = s.objects := by
  unfold State.logEvent
  dsimp only
  refine fieldIte State.objects ?_ ?_ <;> simp
@[simp] theorem State.logEvent_shadows (s : State) (e : Event) : (s.logEvent e).shadows = s.shadows := by
  unfold State.logEvent
  dsimp only
  refine fieldIte State.shadows ?_ ?_ <;> simp
@[simp] theorem State.logEvent_start (s : State) (e : Event) : (s.logEvent e).start = s.start := by
  unfold State.logEvent
  dsimp only
  refine fieldIte State.start ?_ ?_ <;> simp
@[simp] theorem State.logEvent_card (s : State) (e : Event) : (s.logEvent e).card = s.card := by
  unfold State.logEvent
  dsimp only
  refine fieldIte State.card ?_ ?_ <;> simp
@[simp] theorem State.logEvent_freeze (s : State) (e : Event) : (s.logEvent e).freeze = s.freeze := by
  unfold State.logEvent
  dsimp only
  refine fieldIte State.freeze ?_ ?_ <;> simp
@[simp] theorem State.logEvent_jtag (s : State) (e : Event) : (s.logEvent e).jtag = s.jtag := by
  unfold State.logEvent
  dsimp only
  refine fieldIte State.jtag ?_ ?_ <;> simp
@[simp] theorem State.logEvent_power (s : State) (e : Event) : (s.logEvent e).power = s.power := by
  unfold State.logEvent
  dsimp only
  refine fieldIte State.power ?_ ?_ <;> simp
@[simp] theorem State.logEvent_snapshot (s : State) (e : Event) : (s.logEvent e).snapshot = s.snapshot := by
  unfold State.logEvent
  dsimp only
  refine fieldIte State.snapshot ?_ ?_ <;> simp
@[simp] theorem State.logEvent_ports (s : State) (e : Event) : (s.logEvent e).ports = s.ports := by
  unfold State.logEvent
  dsimp only
  refine fieldIte State.ports ?_ ?_ <;> simp
@[simp] theorem State.logEvent_crossroads (s : State) (e : Event) : (s.logEvent e).crossroads = s.crossroads := by
  unfold State.logEvent
  dsimp only
  refine fieldIte State.crossroads ?_ ?_ <;> simp
@[simp] theorem State.logEvent_arrived (s : State) (e : Event) : (s.logEvent e).arrived = s.arrived := by
  unfold State.logEvent
  dsimp only
  refine fieldIte State.arrived ?_ ?_ <;> simp
@[simp] theorem State.logEvent_jobs (s : State) (e : Event) : (s.logEvent e).jobs = s.jobs := by
  unfold State.logEvent
  dsimp only
  refine fieldIte State.jobs ?_ ?_ <;> simp
@[simp] theorem State.logEvent_outstanding (s : State) (e : Event) : (s.logEvent e).outstanding = s.outstanding := by
  unfold State.logEvent
  dsimp only
  refine fieldIte State.outstanding ?_ ?_ <;> simp
@[simp] theorem State.logEvent_rtag (s : State) (e : Event) : (s.logEvent e).rtag = s.rtag := by
  unfold State.logEvent
  dsimp only
  refine fieldIte State.rtag ?_ ?_ <;> simp
@[simp] theorem State.logEvent_colls (s : State) (e : Event) : (s.logEvent e).colls = s.colls := by
  unfold State.logEvent
  dsimp only
  refine fieldIte State.colls ?_ ?_ <;> simp
@[simp] theorem State.logEvent_seenNotices (s : State) (e : Event) : (s.logEvent e).seenNotices = s.seenNotices := by
  unfold State.logEvent
  dsimp only
  refine fieldIte State.seenNotices ?_ ?_ <;> simp
@[simp] theorem State.logEvent_refilled (s : State) (e : Event) : (s.logEvent e).refilled = s.refilled := by
  unfold State.logEvent
  dsimp only
  refine fieldIte State.refilled ?_ ?_ <;> simp
@[simp] theorem State.logEvent_flaws (s : State) (e : Event) : (s.logEvent e).flaws = s.flaws := by
  unfold State.logEvent
  dsimp only
  refine fieldIte State.flaws ?_ ?_ <;> simp
@[simp] theorem State.block_logEvent (s : State) (e : Event) (j : Nat) : (s.logEvent e).block j = s.block j := by simp [State.block]
@[simp] theorem State.part_logEvent (s : State) (e : Event) (j : Nat) : (s.logEvent e).part j = s.part j := by simp [State.part]
@[simp] theorem State.district_logEvent (s : State) (e : Event) (j : Nat) : (s.logEvent e).district j = s.district j := by simp [State.district]
@[simp] theorem State.core_logEvent (s : State) (e : Event) (j : Nat) : (s.logEvent e).core j = s.core j := by simp [State.core]
@[simp] theorem State.channel_logEvent (s : State) (e : Event) (j : Nat) : (s.logEvent e).channel j = s.channel j := by simp [State.channel]
@[simp] theorem State.request_logEvent (s : State) (e : Event) (j : Nat) : (s.logEvent e).request j = s.request j := by simp [State.request]
@[simp] theorem State.tenant_logEvent (s : State) (e : Event) (j : Nat) : (s.logEvent e).tenant j = s.tenant j := by simp [State.tenant]
@[simp] theorem State.key_logEvent (s : State) (e : Event) (j : Nat) : (s.logEvent e).key j = s.key j := by simp [State.key]
@[simp] theorem State.window_logEvent (s : State) (e : Event) (j : Nat) : (s.logEvent e).window j = s.window j := by simp [State.window]
@[simp] theorem State.fn_logEvent (s : State) (e : Event) (g : FnId) : (s.logEvent e).fn g = s.fn g := by simp [State.fn]
@[simp] theorem State.obj_logEvent (s : State) (e : Event) (j v : Nat) : (s.logEvent e).obj j v = s.obj j v := by simp [State.obj]
@[simp] theorem State.town_logEvent (s : State) (e : Event)  : (s.logEvent e).town  = s.town  := by simp [State.town]
@[simp] theorem State.live_logEvent (s : State) (e : Event)  : (s.logEvent e).live  = s.live  := by simp [State.live]
@[simp] theorem State.readWord_logEvent (s : State) (e : Event) (j : Nat) : (s.logEvent e).readWord j = s.readWord j := by simp [State.readWord]

/-! ## countLog -/

@[simp] theorem State.countLog_mode (s : State) (e : Event) : (s.countLog e).mode = s.mode := by simp [State.countLog]
@[simp] theorem State.countLog_pending (s : State) (e : Event) : (s.countLog e).pending = s.pending := by simp [State.countLog]
@[simp] theorem State.countLog_out (s : State) (e : Event) : (s.countLog e).out = s.out := by simp [State.countLog]
@[simp] theorem State.countLog_draws (s : State) (e : Event) : (s.countLog e).draws = s.draws := by simp [State.countLog]
@[simp] theorem State.countLog_now (s : State) (e : Event) : (s.countLog e).now = s.now := by simp [State.countLog]
@[simp] theorem State.countLog_mem (s : State) (e : Event) : (s.countLog e).mem = s.mem := by simp [State.countLog]
@[simp] theorem State.countLog_districts (s : State) (e : Event) : (s.countLog e).districts = s.districts := by simp [State.countLog]
@[simp] theorem State.countLog_time (s : State) (e : Event) : (s.countLog e).time = s.time := by simp [State.countLog]
@[simp] theorem State.countLog_blocks (s : State) (e : Event) : (s.countLog e).blocks = s.blocks := by simp [State.countLog]
@[simp] theorem State.countLog_parts (s : State) (e : Event) : (s.countLog e).parts = s.parts := by simp [State.countLog]
@[simp] theorem State.countLog_cores (s : State) (e : Event) : (s.countLog e).cores = s.cores := by simp [State.countLog]
@[simp] theorem State.countLog_channels (s : State) (e : Event) : (s.countLog e).channels = s.channels := by simp [State.countLog]
@[simp] theorem State.countLog_opCount (s : State) (e : Event) : (s.countLog e).opCount = s.opCount := by simp [State.countLog]
@[simp] theorem State.countLog_fns (s : State) (e : Event) : (s.countLog e).fns = s.fns := by simp [State.countLog]
@[simp] theorem State.countLog_pcie (s : State) (e : Event) : (s.countLog e).pcie = s.pcie := by simp [State.countLog]
@[simp] theorem State.countLog_windows (s : State) (e : Event) : (s.countLog e).windows = s.windows := by simp [State.countLog]
@[simp] theorem State.countLog_requests (s : State) (e : Event) : (s.countLog e).requests = s.requests := by simp [State.countLog]
@[simp] theorem State.countLog_serving (s : State) (e : Event) : (s.countLog e).serving = s.serving := by simp [State.countLog]
@[simp] theorem State.countLog_qps (s : State) (e : Event) : (s.countLog e).qps = s.qps := by simp [State.countLog]
@[simp] theorem State.countLog_fetch (s : State) (e : Event) : (s.countLog e).fetch = s.fetch := by simp [State.countLog]
@[simp] theorem State.countLog_tenants (s : State) (e : Event) : (s.countLog e).tenants = s.tenants := by simp [State.countLog]
@[simp] theorem State.countLog_allocs (s : State) (e : Event) : (s.countLog e).allocs = s.allocs := by simp [State.countLog]
@[simp] theorem State.countLog_keys (s : State) (e : Event) : (s.countLog e).keys = s.keys := by simp [State.countLog]
@[simp] theorem State.countLog_objects (s : State) (e : Event) : (s.countLog e).objects = s.objects := by simp [State.countLog]
@[simp] theorem State.countLog_shadows (s : State) (e : Event) : (s.countLog e).shadows = s.shadows := by simp [State.countLog]
@[simp] theorem State.countLog_start (s : State) (e : Event) : (s.countLog e).start = s.start := by simp [State.countLog]
@[simp] theorem State.countLog_card (s : State) (e : Event) : (s.countLog e).card = s.card := by simp [State.countLog]
@[simp] theorem State.countLog_freeze (s : State) (e : Event) : (s.countLog e).freeze = s.freeze := by simp [State.countLog]
@[simp] theorem State.countLog_jtag (s : State) (e : Event) : (s.countLog e).jtag = s.jtag := by simp [State.countLog]
@[simp] theorem State.countLog_power (s : State) (e : Event) : (s.countLog e).power = s.power := by simp [State.countLog]
@[simp] theorem State.countLog_snapshot (s : State) (e : Event) : (s.countLog e).snapshot = s.snapshot := by simp [State.countLog]
@[simp] theorem State.countLog_ports (s : State) (e : Event) : (s.countLog e).ports = s.ports := by simp [State.countLog]
@[simp] theorem State.countLog_crossroads (s : State) (e : Event) : (s.countLog e).crossroads = s.crossroads := by simp [State.countLog]
@[simp] theorem State.countLog_arrived (s : State) (e : Event) : (s.countLog e).arrived = s.arrived := by simp [State.countLog]
@[simp] theorem State.countLog_jobs (s : State) (e : Event) : (s.countLog e).jobs = s.jobs := by simp [State.countLog]
@[simp] theorem State.countLog_outstanding (s : State) (e : Event) : (s.countLog e).outstanding = s.outstanding := by simp [State.countLog]
@[simp] theorem State.countLog_rtag (s : State) (e : Event) : (s.countLog e).rtag = s.rtag := by simp [State.countLog]
@[simp] theorem State.countLog_colls (s : State) (e : Event) : (s.countLog e).colls = s.colls := by simp [State.countLog]
@[simp] theorem State.countLog_seenNotices (s : State) (e : Event) : (s.countLog e).seenNotices = s.seenNotices := by simp [State.countLog]
@[simp] theorem State.countLog_refilled (s : State) (e : Event) : (s.countLog e).refilled = s.refilled := by simp [State.countLog]
@[simp] theorem State.countLog_flaws (s : State) (e : Event) : (s.countLog e).flaws = s.flaws := by simp [State.countLog]
@[simp] theorem State.block_countLog (s : State) (e : Event) (j : Nat) : (s.countLog e).block j = s.block j := by simp [State.block]
@[simp] theorem State.part_countLog (s : State) (e : Event) (j : Nat) : (s.countLog e).part j = s.part j := by simp [State.part]
@[simp] theorem State.district_countLog (s : State) (e : Event) (j : Nat) : (s.countLog e).district j = s.district j := by simp [State.district]
@[simp] theorem State.core_countLog (s : State) (e : Event) (j : Nat) : (s.countLog e).core j = s.core j := by simp [State.core]
@[simp] theorem State.channel_countLog (s : State) (e : Event) (j : Nat) : (s.countLog e).channel j = s.channel j := by simp [State.channel]
@[simp] theorem State.request_countLog (s : State) (e : Event) (j : Nat) : (s.countLog e).request j = s.request j := by simp [State.request]
@[simp] theorem State.tenant_countLog (s : State) (e : Event) (j : Nat) : (s.countLog e).tenant j = s.tenant j := by simp [State.tenant]
@[simp] theorem State.key_countLog (s : State) (e : Event) (j : Nat) : (s.countLog e).key j = s.key j := by simp [State.key]
@[simp] theorem State.window_countLog (s : State) (e : Event) (j : Nat) : (s.countLog e).window j = s.window j := by simp [State.window]
@[simp] theorem State.fn_countLog (s : State) (e : Event) (g : FnId) : (s.countLog e).fn g = s.fn g := by simp [State.fn]
@[simp] theorem State.obj_countLog (s : State) (e : Event) (j v : Nat) : (s.countLog e).obj j v = s.obj j v := by simp [State.obj]
@[simp] theorem State.town_countLog (s : State) (e : Event)  : (s.countLog e).town  = s.town  := by simp [State.town]
@[simp] theorem State.live_countLog (s : State) (e : Event)  : (s.countLog e).live  = s.live  := by simp [State.live]
@[simp] theorem State.readWord_countLog (s : State) (e : Event) (j : Nat) : (s.countLog e).readWord j = s.readWord j := by simp [State.readWord]

/-! ## countMends -/

@[simp] theorem State.countMends_mode (s : State) (l : List Nat) : (s.countMends l).mode = s.mode := by
  unfold State.countMends
  split
  · rfl
  · dsimp only
    split
    · refine fieldIte State.mode ?_ ?_ <;> simp
    · simp
@[simp] theorem State.countMends_pending (s : State) (l : List Nat) : (s.countMends l).pending = s.pending := by
  unfold State.countMends
  split
  · rfl
  · dsimp only
    split
    · refine fieldIte State.pending ?_ ?_ <;> simp
    · simp
@[simp] theorem State.countMends_out (s : State) (l : List Nat) : (s.countMends l).out = s.out := by
  unfold State.countMends
  split
  · rfl
  · dsimp only
    split
    · refine fieldIte State.out ?_ ?_ <;> simp
    · simp
@[simp] theorem State.countMends_draws (s : State) (l : List Nat) : (s.countMends l).draws = s.draws := by
  unfold State.countMends
  split
  · rfl
  · dsimp only
    split
    · refine fieldIte State.draws ?_ ?_ <;> simp
    · simp
@[simp] theorem State.countMends_now (s : State) (l : List Nat) : (s.countMends l).now = s.now := by
  unfold State.countMends
  split
  · rfl
  · dsimp only
    split
    · refine fieldIte State.now ?_ ?_ <;> simp
    · simp
@[simp] theorem State.countMends_mem (s : State) (l : List Nat) : (s.countMends l).mem = s.mem := by
  unfold State.countMends
  split
  · rfl
  · dsimp only
    split
    · refine fieldIte State.mem ?_ ?_ <;> simp
    · simp
@[simp] theorem State.countMends_districts (s : State) (l : List Nat) : (s.countMends l).districts = s.districts := by
  unfold State.countMends
  split
  · rfl
  · dsimp only
    split
    · refine fieldIte State.districts ?_ ?_ <;> simp
    · simp
@[simp] theorem State.countMends_time (s : State) (l : List Nat) : (s.countMends l).time = s.time := by
  unfold State.countMends
  split
  · rfl
  · dsimp only
    split
    · refine fieldIte State.time ?_ ?_ <;> simp
    · simp
@[simp] theorem State.countMends_blocks (s : State) (l : List Nat) : (s.countMends l).blocks = s.blocks := by
  unfold State.countMends
  split
  · rfl
  · dsimp only
    split
    · refine fieldIte State.blocks ?_ ?_ <;> simp
    · simp
@[simp] theorem State.countMends_parts (s : State) (l : List Nat) : (s.countMends l).parts = s.parts := by
  unfold State.countMends
  split
  · rfl
  · dsimp only
    split
    · refine fieldIte State.parts ?_ ?_ <;> simp
    · simp
@[simp] theorem State.countMends_cores (s : State) (l : List Nat) : (s.countMends l).cores = s.cores := by
  unfold State.countMends
  split
  · rfl
  · dsimp only
    split
    · refine fieldIte State.cores ?_ ?_ <;> simp
    · simp
@[simp] theorem State.countMends_channels (s : State) (l : List Nat) : (s.countMends l).channels = s.channels := by
  unfold State.countMends
  split
  · rfl
  · dsimp only
    split
    · refine fieldIte State.channels ?_ ?_ <;> simp
    · simp
@[simp] theorem State.countMends_opCount (s : State) (l : List Nat) : (s.countMends l).opCount = s.opCount := by
  unfold State.countMends
  split
  · rfl
  · dsimp only
    split
    · refine fieldIte State.opCount ?_ ?_ <;> simp
    · simp
@[simp] theorem State.countMends_fns (s : State) (l : List Nat) : (s.countMends l).fns = s.fns := by
  unfold State.countMends
  split
  · rfl
  · dsimp only
    split
    · refine fieldIte State.fns ?_ ?_ <;> simp
    · simp
@[simp] theorem State.countMends_pcie (s : State) (l : List Nat) : (s.countMends l).pcie = s.pcie := by
  unfold State.countMends
  split
  · rfl
  · dsimp only
    split
    · refine fieldIte State.pcie ?_ ?_ <;> simp
    · simp
@[simp] theorem State.countMends_windows (s : State) (l : List Nat) : (s.countMends l).windows = s.windows := by
  unfold State.countMends
  split
  · rfl
  · dsimp only
    split
    · refine fieldIte State.windows ?_ ?_ <;> simp
    · simp
@[simp] theorem State.countMends_requests (s : State) (l : List Nat) : (s.countMends l).requests = s.requests := by
  unfold State.countMends
  split
  · rfl
  · dsimp only
    split
    · refine fieldIte State.requests ?_ ?_ <;> simp
    · simp
@[simp] theorem State.countMends_serving (s : State) (l : List Nat) : (s.countMends l).serving = s.serving := by
  unfold State.countMends
  split
  · rfl
  · dsimp only
    split
    · refine fieldIte State.serving ?_ ?_ <;> simp
    · simp
@[simp] theorem State.countMends_qps (s : State) (l : List Nat) : (s.countMends l).qps = s.qps := by
  unfold State.countMends
  split
  · rfl
  · dsimp only
    split
    · refine fieldIte State.qps ?_ ?_ <;> simp
    · simp
@[simp] theorem State.countMends_fetch (s : State) (l : List Nat) : (s.countMends l).fetch = s.fetch := by
  unfold State.countMends
  split
  · rfl
  · dsimp only
    split
    · refine fieldIte State.fetch ?_ ?_ <;> simp
    · simp
@[simp] theorem State.countMends_tenants (s : State) (l : List Nat) : (s.countMends l).tenants = s.tenants := by
  unfold State.countMends
  split
  · rfl
  · dsimp only
    split
    · refine fieldIte State.tenants ?_ ?_ <;> simp
    · simp
@[simp] theorem State.countMends_allocs (s : State) (l : List Nat) : (s.countMends l).allocs = s.allocs := by
  unfold State.countMends
  split
  · rfl
  · dsimp only
    split
    · refine fieldIte State.allocs ?_ ?_ <;> simp
    · simp
@[simp] theorem State.countMends_keys (s : State) (l : List Nat) : (s.countMends l).keys = s.keys := by
  unfold State.countMends
  split
  · rfl
  · dsimp only
    split
    · refine fieldIte State.keys ?_ ?_ <;> simp
    · simp
@[simp] theorem State.countMends_objects (s : State) (l : List Nat) : (s.countMends l).objects = s.objects := by
  unfold State.countMends
  split
  · rfl
  · dsimp only
    split
    · refine fieldIte State.objects ?_ ?_ <;> simp
    · simp
@[simp] theorem State.countMends_shadows (s : State) (l : List Nat) : (s.countMends l).shadows = s.shadows := by
  unfold State.countMends
  split
  · rfl
  · dsimp only
    split
    · refine fieldIte State.shadows ?_ ?_ <;> simp
    · simp
@[simp] theorem State.countMends_start (s : State) (l : List Nat) : (s.countMends l).start = s.start := by
  unfold State.countMends
  split
  · rfl
  · dsimp only
    split
    · refine fieldIte State.start ?_ ?_ <;> simp
    · simp
@[simp] theorem State.countMends_card (s : State) (l : List Nat) : (s.countMends l).card = s.card := by
  unfold State.countMends
  split
  · rfl
  · dsimp only
    split
    · refine fieldIte State.card ?_ ?_ <;> simp
    · simp
@[simp] theorem State.countMends_freeze (s : State) (l : List Nat) : (s.countMends l).freeze = s.freeze := by
  unfold State.countMends
  split
  · rfl
  · dsimp only
    split
    · refine fieldIte State.freeze ?_ ?_ <;> simp
    · simp
@[simp] theorem State.countMends_jtag (s : State) (l : List Nat) : (s.countMends l).jtag = s.jtag := by
  unfold State.countMends
  split
  · rfl
  · dsimp only
    split
    · refine fieldIte State.jtag ?_ ?_ <;> simp
    · simp
@[simp] theorem State.countMends_power (s : State) (l : List Nat) : (s.countMends l).power = s.power := by
  unfold State.countMends
  split
  · rfl
  · dsimp only
    split
    · refine fieldIte State.power ?_ ?_ <;> simp
    · simp
@[simp] theorem State.countMends_snapshot (s : State) (l : List Nat) : (s.countMends l).snapshot = s.snapshot := by
  unfold State.countMends
  split
  · rfl
  · dsimp only
    split
    · refine fieldIte State.snapshot ?_ ?_ <;> simp
    · simp
@[simp] theorem State.countMends_ports (s : State) (l : List Nat) : (s.countMends l).ports = s.ports := by
  unfold State.countMends
  split
  · rfl
  · dsimp only
    split
    · refine fieldIte State.ports ?_ ?_ <;> simp
    · simp
@[simp] theorem State.countMends_crossroads (s : State) (l : List Nat) : (s.countMends l).crossroads = s.crossroads := by
  unfold State.countMends
  split
  · rfl
  · dsimp only
    split
    · refine fieldIte State.crossroads ?_ ?_ <;> simp
    · simp
@[simp] theorem State.countMends_arrived (s : State) (l : List Nat) : (s.countMends l).arrived = s.arrived := by
  unfold State.countMends
  split
  · rfl
  · dsimp only
    split
    · refine fieldIte State.arrived ?_ ?_ <;> simp
    · simp
@[simp] theorem State.countMends_jobs (s : State) (l : List Nat) : (s.countMends l).jobs = s.jobs := by
  unfold State.countMends
  split
  · rfl
  · dsimp only
    split
    · refine fieldIte State.jobs ?_ ?_ <;> simp
    · simp
@[simp] theorem State.countMends_outstanding (s : State) (l : List Nat) : (s.countMends l).outstanding = s.outstanding := by
  unfold State.countMends
  split
  · rfl
  · dsimp only
    split
    · refine fieldIte State.outstanding ?_ ?_ <;> simp
    · simp
@[simp] theorem State.countMends_rtag (s : State) (l : List Nat) : (s.countMends l).rtag = s.rtag := by
  unfold State.countMends
  split
  · rfl
  · dsimp only
    split
    · refine fieldIte State.rtag ?_ ?_ <;> simp
    · simp
@[simp] theorem State.countMends_colls (s : State) (l : List Nat) : (s.countMends l).colls = s.colls := by
  unfold State.countMends
  split
  · rfl
  · dsimp only
    split
    · refine fieldIte State.colls ?_ ?_ <;> simp
    · simp
@[simp] theorem State.countMends_seenNotices (s : State) (l : List Nat) : (s.countMends l).seenNotices = s.seenNotices := by
  unfold State.countMends
  split
  · rfl
  · dsimp only
    split
    · refine fieldIte State.seenNotices ?_ ?_ <;> simp
    · simp
@[simp] theorem State.countMends_refilled (s : State) (l : List Nat) : (s.countMends l).refilled = s.refilled := by
  unfold State.countMends
  split
  · rfl
  · dsimp only
    split
    · refine fieldIte State.refilled ?_ ?_ <;> simp
    · simp
@[simp] theorem State.countMends_flaws (s : State) (l : List Nat) : (s.countMends l).flaws = s.flaws := by
  unfold State.countMends
  split
  · rfl
  · dsimp only
    split
    · refine fieldIte State.flaws ?_ ?_ <;> simp
    · simp
@[simp] theorem State.block_countMends (s : State) (l : List Nat) (j : Nat) : (s.countMends l).block j = s.block j := by simp [State.block]
@[simp] theorem State.part_countMends (s : State) (l : List Nat) (j : Nat) : (s.countMends l).part j = s.part j := by simp [State.part]
@[simp] theorem State.district_countMends (s : State) (l : List Nat) (j : Nat) : (s.countMends l).district j = s.district j := by simp [State.district]
@[simp] theorem State.core_countMends (s : State) (l : List Nat) (j : Nat) : (s.countMends l).core j = s.core j := by simp [State.core]
@[simp] theorem State.channel_countMends (s : State) (l : List Nat) (j : Nat) : (s.countMends l).channel j = s.channel j := by simp [State.channel]
@[simp] theorem State.request_countMends (s : State) (l : List Nat) (j : Nat) : (s.countMends l).request j = s.request j := by simp [State.request]
@[simp] theorem State.tenant_countMends (s : State) (l : List Nat) (j : Nat) : (s.countMends l).tenant j = s.tenant j := by simp [State.tenant]
@[simp] theorem State.key_countMends (s : State) (l : List Nat) (j : Nat) : (s.countMends l).key j = s.key j := by simp [State.key]
@[simp] theorem State.window_countMends (s : State) (l : List Nat) (j : Nat) : (s.countMends l).window j = s.window j := by simp [State.window]
@[simp] theorem State.fn_countMends (s : State) (l : List Nat) (g : FnId) : (s.countMends l).fn g = s.fn g := by simp [State.fn]
@[simp] theorem State.obj_countMends (s : State) (l : List Nat) (j v : Nat) : (s.countMends l).obj j v = s.obj j v := by simp [State.obj]
@[simp] theorem State.town_countMends (s : State) (l : List Nat)  : (s.countMends l).town  = s.town  := by simp [State.town]
@[simp] theorem State.live_countMends (s : State) (l : List Nat)  : (s.countMends l).live  = s.live  := by simp [State.live]
@[simp] theorem State.readWord_countMends (s : State) (l : List Nat) (j : Nat) : (s.countMends l).readWord j = s.readWord j := by simp [State.readWord]

/-! ## mended0 -/

@[simp] theorem State.mended0_mode (s : State) (l : List Nat) : (s.mended0 l).mode = s.mode := by
  unfold State.mended0
  split <;> simp
@[simp] theorem State.mended0_pending (s : State) (l : List Nat) : (s.mended0 l).pending = s.pending := by
  unfold State.mended0
  split <;> simp
@[simp] theorem State.mended0_out (s : State) (l : List Nat) : (s.mended0 l).out = s.out := by
  unfold State.mended0
  split <;> simp
@[simp] theorem State.mended0_draws (s : State) (l : List Nat) : (s.mended0 l).draws = s.draws := by
  unfold State.mended0
  split <;> simp
@[simp] theorem State.mended0_now (s : State) (l : List Nat) : (s.mended0 l).now = s.now := by
  unfold State.mended0
  split <;> simp
@[simp] theorem State.mended0_mem (s : State) (l : List Nat) : (s.mended0 l).mem = s.mem := by
  unfold State.mended0
  split <;> simp
@[simp] theorem State.mended0_districts (s : State) (l : List Nat) : (s.mended0 l).districts = s.districts := by
  unfold State.mended0
  split <;> simp
@[simp] theorem State.mended0_time (s : State) (l : List Nat) : (s.mended0 l).time = s.time := by
  unfold State.mended0
  split <;> simp
@[simp] theorem State.mended0_parts (s : State) (l : List Nat) : (s.mended0 l).parts = s.parts := by
  unfold State.mended0
  split <;> simp
@[simp] theorem State.mended0_cores (s : State) (l : List Nat) : (s.mended0 l).cores = s.cores := by
  unfold State.mended0
  split <;> simp
@[simp] theorem State.mended0_channels (s : State) (l : List Nat) : (s.mended0 l).channels = s.channels := by
  unfold State.mended0
  split <;> simp
@[simp] theorem State.mended0_opCount (s : State) (l : List Nat) : (s.mended0 l).opCount = s.opCount := by
  unfold State.mended0
  split <;> simp
@[simp] theorem State.mended0_fns (s : State) (l : List Nat) : (s.mended0 l).fns = s.fns := by
  unfold State.mended0
  split <;> simp
@[simp] theorem State.mended0_pcie (s : State) (l : List Nat) : (s.mended0 l).pcie = s.pcie := by
  unfold State.mended0
  split <;> simp
@[simp] theorem State.mended0_windows (s : State) (l : List Nat) : (s.mended0 l).windows = s.windows := by
  unfold State.mended0
  split <;> simp
@[simp] theorem State.mended0_requests (s : State) (l : List Nat) : (s.mended0 l).requests = s.requests := by
  unfold State.mended0
  split <;> simp
@[simp] theorem State.mended0_serving (s : State) (l : List Nat) : (s.mended0 l).serving = s.serving := by
  unfold State.mended0
  split <;> simp
@[simp] theorem State.mended0_qps (s : State) (l : List Nat) : (s.mended0 l).qps = s.qps := by
  unfold State.mended0
  split <;> simp
@[simp] theorem State.mended0_fetch (s : State) (l : List Nat) : (s.mended0 l).fetch = s.fetch := by
  unfold State.mended0
  split <;> simp
@[simp] theorem State.mended0_tenants (s : State) (l : List Nat) : (s.mended0 l).tenants = s.tenants := by
  unfold State.mended0
  split <;> simp
@[simp] theorem State.mended0_allocs (s : State) (l : List Nat) : (s.mended0 l).allocs = s.allocs := by
  unfold State.mended0
  split <;> simp
@[simp] theorem State.mended0_keys (s : State) (l : List Nat) : (s.mended0 l).keys = s.keys := by
  unfold State.mended0
  split <;> simp
@[simp] theorem State.mended0_objects (s : State) (l : List Nat) : (s.mended0 l).objects = s.objects := by
  unfold State.mended0
  split <;> simp
@[simp] theorem State.mended0_shadows (s : State) (l : List Nat) : (s.mended0 l).shadows = s.shadows := by
  unfold State.mended0
  split <;> simp
@[simp] theorem State.mended0_start (s : State) (l : List Nat) : (s.mended0 l).start = s.start := by
  unfold State.mended0
  split <;> simp
@[simp] theorem State.mended0_card (s : State) (l : List Nat) : (s.mended0 l).card = s.card := by
  unfold State.mended0
  split <;> simp
@[simp] theorem State.mended0_freeze (s : State) (l : List Nat) : (s.mended0 l).freeze = s.freeze := by
  unfold State.mended0
  split <;> simp
@[simp] theorem State.mended0_jtag (s : State) (l : List Nat) : (s.mended0 l).jtag = s.jtag := by
  unfold State.mended0
  split <;> simp
@[simp] theorem State.mended0_power (s : State) (l : List Nat) : (s.mended0 l).power = s.power := by
  unfold State.mended0
  split <;> simp
@[simp] theorem State.mended0_snapshot (s : State) (l : List Nat) : (s.mended0 l).snapshot = s.snapshot := by
  unfold State.mended0
  split <;> simp
@[simp] theorem State.mended0_ports (s : State) (l : List Nat) : (s.mended0 l).ports = s.ports := by
  unfold State.mended0
  split <;> simp
@[simp] theorem State.mended0_crossroads (s : State) (l : List Nat) : (s.mended0 l).crossroads = s.crossroads := by
  unfold State.mended0
  split <;> simp
@[simp] theorem State.mended0_arrived (s : State) (l : List Nat) : (s.mended0 l).arrived = s.arrived := by
  unfold State.mended0
  split <;> simp
@[simp] theorem State.mended0_jobs (s : State) (l : List Nat) : (s.mended0 l).jobs = s.jobs := by
  unfold State.mended0
  split <;> simp
@[simp] theorem State.mended0_outstanding (s : State) (l : List Nat) : (s.mended0 l).outstanding = s.outstanding := by
  unfold State.mended0
  split <;> simp
@[simp] theorem State.mended0_rtag (s : State) (l : List Nat) : (s.mended0 l).rtag = s.rtag := by
  unfold State.mended0
  split <;> simp
@[simp] theorem State.mended0_colls (s : State) (l : List Nat) : (s.mended0 l).colls = s.colls := by
  unfold State.mended0
  split <;> simp
@[simp] theorem State.mended0_seenNotices (s : State) (l : List Nat) : (s.mended0 l).seenNotices = s.seenNotices := by
  unfold State.mended0
  split <;> simp
@[simp] theorem State.mended0_refilled (s : State) (l : List Nat) : (s.mended0 l).refilled = s.refilled := by
  unfold State.mended0
  split <;> simp
@[simp] theorem State.mended0_flaws (s : State) (l : List Nat) : (s.mended0 l).flaws = s.flaws := by
  unfold State.mended0
  split <;> simp
@[simp] theorem State.part_mended0 (s : State) (l : List Nat) (j : Nat) : (s.mended0 l).part j = s.part j := by simp [State.part]
@[simp] theorem State.district_mended0 (s : State) (l : List Nat) (j : Nat) : (s.mended0 l).district j = s.district j := by simp [State.district]
@[simp] theorem State.core_mended0 (s : State) (l : List Nat) (j : Nat) : (s.mended0 l).core j = s.core j := by simp [State.core]
@[simp] theorem State.channel_mended0 (s : State) (l : List Nat) (j : Nat) : (s.mended0 l).channel j = s.channel j := by simp [State.channel]
@[simp] theorem State.request_mended0 (s : State) (l : List Nat) (j : Nat) : (s.mended0 l).request j = s.request j := by simp [State.request]
@[simp] theorem State.tenant_mended0 (s : State) (l : List Nat) (j : Nat) : (s.mended0 l).tenant j = s.tenant j := by simp [State.tenant]
@[simp] theorem State.key_mended0 (s : State) (l : List Nat) (j : Nat) : (s.mended0 l).key j = s.key j := by simp [State.key]
@[simp] theorem State.window_mended0 (s : State) (l : List Nat) (j : Nat) : (s.mended0 l).window j = s.window j := by simp [State.window]
@[simp] theorem State.fn_mended0 (s : State) (l : List Nat) (g : FnId) : (s.mended0 l).fn g = s.fn g := by simp [State.fn]
@[simp] theorem State.obj_mended0 (s : State) (l : List Nat) (j v : Nat) : (s.mended0 l).obj j v = s.obj j v := by simp [State.obj]
@[simp] theorem State.town_mended0 (s : State) (l : List Nat)  : (s.mended0 l).town  = s.town  := by simp [State.town]
@[simp] theorem State.live_mended0 (s : State) (l : List Nat)  : (s.mended0 l).live  = s.live  := by simp [State.live]
@[simp] theorem State.readWord_mended0 (s : State) (l : List Nat) (j : Nat) : (s.mended0 l).readWord j = s.readWord j := by simp [State.readWord]

/-- A mended read leaves everything of a block but its repair queue (R215). -/
theorem State.mended0_block (s : State) (l : List Nat) (b : Nat) : ∃ r, (s.mended0 l).block b = { s.block b with repair := r } := by
  unfold State.mended0
  split
  · exact ⟨_, rfl⟩
  · next a t =>
    simp only [State.block_countMends]
    by_cases h : b = a / 2 ^ 19 % 256
    · subst h
      exact ⟨((s.block (a / 2 ^ 19 % 256)).repair ++ a :: t).take 16, by simp [Block.repairAll]⟩
    · exact ⟨(s.block b).repair, State.block_setBlock_ne _ h _⟩

end Sys2Proof.Machine
end

