-- ==== Sys2Proof/Laws/Launches.lean ====
section
/-! SUPPORT. What starting an operation of the mover, of the collectives, of the barriers and of the serving unit does, and what it leaves. -/
set_option linter.all false
set_option Elab.async false
namespace Sys2Proof.Machine

/-! ## Starting a mover operation -/

@[simp] theorem State.noteSlow_blocks (s : State) (a : Nat) : (s.noteSlow a).blocks = s.blocks := by unfold State.noteSlow; split <;> simp
@[simp] theorem State.noteSlow_block (s : State) (a b : Nat) : (s.noteSlow a).block b = s.block b := by simp [State.block]
@[simp] theorem State.noteSlow_mem (s : State) (a : Nat) : (s.noteSlow a).mem = s.mem := by unfold State.noteSlow; split <;> simp
@[simp] theorem State.noteSlow_parts (s : State) (a : Nat) : (s.noteSlow a).parts = s.parts := by unfold State.noteSlow; split <;> simp
@[simp] theorem State.noteSlow_part (s : State) (a p : Nat) : (s.noteSlow a).part p = s.part p := by simp [State.part]
@[simp] theorem State.noteSlow_channels (s : State) (a : Nat) : (s.noteSlow a).channels = s.channels := by unfold State.noteSlow; split <;> simp
@[simp] theorem State.noteSlow_districts (s : State) (a : Nat) : (s.noteSlow a).districts = s.districts := by unfold State.noteSlow; split <;> simp
@[simp] theorem State.noteSlow_now (s : State) (a : Nat) : (s.noteSlow a).now = s.now := by unfold State.noteSlow; split <;> simp
@[simp] theorem State.noteSlow_cyclesOf (s : State) (a b : Nat) : (s.noteSlow a).cyclesOf b = s.cyclesOf b := by
  simp [State.cyclesOf, State.partOf, State.part, State.wallOf, State.district]

@[simp] theorem State.clearTags_channels (p id : Nat) : ∀ (hs : List Nat) (s : State), (s.clearTags p id hs).channels = s.channels
  | [], _ => rfl
  | h :: t, s => by simpa [State.clearTags, State.markTag] using State.clearTags_channels p id t (s.markTag p h false id)
@[simp] theorem State.clearTags_now (p id : Nat) : ∀ (hs : List Nat) (s : State), (s.clearTags p id hs).now = s.now
  | [], _ => rfl
  | h :: t, s => by simpa [State.clearTags, State.markTag] using State.clearTags_now p id t (s.markTag p h false id)
theorem State.clearTags_lcycle (p id i : Nat) : ∀ (hs : List Nat) (s : State), ((s.clearTags p id hs).part i).lcycle = (s.part i).lcycle
  | [], _ => rfl
  | h :: t, s => by
    have e : ((s.markTag p h false id).part i).lcycle = (s.part i).lcycle := by
      unfold State.markTag
      by_cases hi : i = p
      · subst hi; simp
      · simp [State.part_setPart_ne _ hi]
    have := State.clearTags_lcycle p id i t (s.markTag p h false id)
    simpa [State.clearTags, e] using this

@[simp] theorem State.launch_lcycle (s : State) (p b i : Nat) (o : Op) : ((s.launch p b o).part i).lcycle = (s.part i).lcycle := by
  unfold State.launch
  rw [State.clearTags_lcycle]
  rfl

/-- What starting a mover operation on a block of its partition does: the operation takes a place, the mover is held, and memory, the other blocks and the
channels stay as they are. -/
theorem State.launchMover_spec {s : State} {p b : Nat} {d : Desc} {busy : Nat} {w : Work} (h : s.partOf b = some p) :
    (s.launchMover p b d busy w).1 = s.newOp p b 2 d 0 w ∧
    (s.launchMover p b d busy w).2.block b = { s.block b with inflight := (s.block b).inflight ++ [s.newOp p b 2 d 0 w], moverFree := s.cyclesOf b + busy } ∧
    (∀ c, c ≠ b → (s.launchMover p b d busy w).2.block c = s.block c) ∧ (s.launchMover p b d busy w).2.mem = s.mem ∧
    (s.launchMover p b d busy w).2.channels = s.channels ∧ (s.launchMover p b d busy w).2.now = s.now ∧
    ((s.launchMover p b d busy w).2.part p).lcycle = (s.part p).lcycle := by
  have hc : ∀ o, (s.launch p b o).cyclesOf b = s.cyclesOf b := fun o => State.launch_cyclesOf h
  unfold State.launchMover
  refine ⟨rfl, ?_, fun c hc => ?_, ?_, ?_, ?_, ?_⟩
  · dsimp only
    split <;> split <;> simp [hc]
  · dsimp only
    split <;> split <;> simp [State.block_setBlock_ne _ hc, State.launch, State.block, State.setBlock, Table.get_put_ne hc]
  · dsimp only
    split <;> split <;> simp
  · dsimp only
    split <;> split <;> simp [State.launch]
  · dsimp only
    split <;> split <;> simp [State.launch]
  · dsimp only
    split <;> split <;> simp

/-! ## Words on the streets -/

@[simp] theorem State.travel_blocks (p : Nat) : ∀ (l : List Nat) (s : State) (a : Nat), (s.travel p l a).2.blocks = s.blocks
  | [], _, _ => rfl
  | [_], _, _ => rfl
  | d :: e :: l, s, a => by
    have := State.travel_blocks p (e :: l) (s.crossing p d e a).2 ((s.crossing p d e a).1 + 15)
    simpa [State.travel, State.crossing] using this
@[simp] theorem State.travel_block (p : Nat) (l : List Nat) (s : State) (a b : Nat) : (s.travel p l a).2.block b = s.block b := by simp [State.block]
@[simp] theorem State.travel_mem (p : Nat) : ∀ (l : List Nat) (s : State) (a : Nat), (s.travel p l a).2.mem = s.mem
  | [], _, _ => rfl
  | [_], _, _ => rfl
  | d :: e :: l, s, a => by
    have := State.travel_mem p (e :: l) (s.crossing p d e a).2 ((s.crossing p d e a).1 + 15)
    simpa [State.travel, State.crossing] using this

/-- One word on its way (R20, R25, R26): what `sendWords` does with each of its words. -/
theorem State.sendWords_block (s : State) (p b : Nat) (o : Op) (ws : List (Nat × Stored)) (c : Nat) : ∃ e a,
    (s.sendWords p b o ws).block c = { s.block c with equaliser := (s.block c).equaliser ++ e, arriving := (s.block c).arriving ++ a } := by
  unfold State.sendWords
  dsimp only
  generalize ws.zipIdx = l
  generalize (s.part p).lcycle = t
  induction l generalizing s with
  | nil => exact ⟨[], [], by simp⟩
  | cons x l ih =>
    simp only [List.foldl_cons]
    obtain ⟨e, a, h⟩ := ih _
    rw [h]
    split
    · by_cases hc : c = x.1.1 / 2 ^ 19 % 256
      · subst hc
        simp only [State.block_setBlock, List.append_assoc]
        exact ⟨_, _, rfl⟩
      · simp only [State.block_setBlock_ne _ hc]
        exact ⟨_, _, rfl⟩
    · by_cases hc : c = x.1.1 / 2 ^ 19 % 256
      · subst hc
        simp only [State.block_setBlock, List.append_assoc, State.travel_block]
        exact ⟨_, _, rfl⟩
      · simp only [State.block_setBlock_ne _ hc, State.travel_block]
        exact ⟨_, _, rfl⟩

@[simp] theorem State.sendWords_mem (s : State) (p b : Nat) (o : Op) (ws : List (Nat × Stored)) : (s.sendWords p b o ws).mem = s.mem := by
  unfold State.sendWords
  dsimp only
  generalize ws.zipIdx = l
  generalize (s.part p).lcycle = t
  induction l generalizing s with
  | nil => rfl
  | cons x l ih =>
    simp only [List.foldl_cons]
    rw [ih]
    split <;> simp

theorem State.slotCycle_le (s : State) (d : Nat) (slots : List Nat) (t : Nat) : t ≤ s.slotCycle d slots t := by
  unfold State.slotCycle
  cases h : (addrs t 16).find? _ with
  | none => exact Nat.le_refl _
  | some c =>
    have := List.mem_of_find?_eq_some h
    simp only [addrs, List.mem_map, List.mem_range] at this
    obtain ⟨i, _, rfl⟩ := this
    simp

theorem State.crossing_le (s : State) (p d e t : Nat) : t ≤ (s.crossing p d e t).1 := by
  have h1 := s.slotCycle_le d ((s.part p).roadSlots d e) (max t ((s.district d).roads.get (0, 0) (64 * e + p)).1)
  have h2 := s.slotCycle_le d ((s.part p).roadSlots d e) (s.slotCycle d ((s.part p).roadSlots d e) (max t ((s.district d).roads.get (0, 0) (64 * e + p)).1) + 1)
  unfold State.crossing
  dsimp only
  split
  · dsimp only; omega
  · split
    · dsimp only; omega
    · dsimp only; omega

/-- A word takes at least 15 cycles for each crossing (R26). -/
theorem State.travel_le (p : Nat) : ∀ (l : List Nat) (s : State) (a : Nat), a + 15 * (l.length - 1) ≤ (s.travel p l a).1
  | [], _, _ => by simp [State.travel]
  | [_], _, _ => by simp [State.travel]
  | d :: e :: l, s, a => by
    have h1 := State.travel_le p (e :: l) (s.crossing p d e a).2 ((s.crossing p d e a).1 + 15)
    have h2 := State.crossing_le s p d e a
    simp only [State.travel, List.length_cons] at h1 ⊢
    omega

@[simp] theorem State.travel_now (p : Nat) : ∀ (l : List Nat) (s : State) (a : Nat), (s.travel p l a).2.now = s.now
  | [], _, _ => rfl
  | [_], _, _ => rfl
  | d :: e :: l, s, a => by
    have := State.travel_now p (e :: l) (s.crossing p d e a).2 ((s.crossing p d e a).1 + 15)
    simpa [State.travel, State.crossing] using this

/-- What one step of a fold makes so, and every step keeps so, is so at its end. -/
theorem foldl_established {α β : Type} {P : β → Prop} {f : β → α → β} {x : α} (he : ∀ s, P (f s x)) (hk : ∀ s y, P s → P (f s y)) :
    ∀ {l : List α} {s : β}, x ∈ l → P (l.foldl f s)
  | y :: l, s, h => by
    simp only [List.foldl_cons]
    rcases List.mem_cons.mp h with rfl | h
    · have : ∀ (l : List α) (s : β), P s → P (l.foldl f s) := fun l => by
        induction l with
        | nil => exact fun s h => h
        | cons y l ih => exact fun s h => ih _ (hk s y h)
      exact this l _ (he s)
    · exact foldl_established he hk h

/-- Each word of a street transfer is on its way: in the equaliser of a block of the same district (R20), or over the channels to another, no earlier
than R26 allows. -/
theorem State.sendWords_way {s : State} {p b : Nat} {o : Op} {ws : List (Nat × Stored)} {k a : Nat} {w : Stored} (h : ws[k]? = some (a, w)) :
    if districtOf (a / 2 ^ 19 % 256) = districtOf b then
      ({ addr := a, word := w, due := (s.part p).lcycle + 24 + k / 2, source := b, index := k, opBlock := b, opId := o.id } : Delivery)
        ∈ ((s.sendWords p b o ws).block (a / 2 ^ 19 % 256)).equaliser
    else ∃ due, s.now + 20 + k / 2 + 15 * ((route (districtOf b) (districtOf (a / 2 ^ 19 % 256))).length - 1) ≤ due ∧
      ({ addr := a, word := w, due := due, source := b, index := k, opBlock := b, opId := o.id } : Delivery)
        ∈ ((s.sendWords p b o ws).block (a / 2 ^ 19 % 256)).arriving := by
  have hm : ((a, w), k) ∈ ws.zipIdx := by
    rw [List.mem_zipIdx_iff_getElem?]
    exact h
  have hn : (s.sendWords p b o ws).now = s.now ∧ (if districtOf (a / 2 ^ 19 % 256) = districtOf b then
      ({ addr := a, word := w, due := (s.part p).lcycle + 24 + k / 2, source := b, index := k, opBlock := b, opId := o.id } : Delivery)
        ∈ ((s.sendWords p b o ws).block (a / 2 ^ 19 % 256)).equaliser
    else ∃ due, (s.sendWords p b o ws).now + 20 + k / 2 + 15 * ((route (districtOf b) (districtOf (a / 2 ^ 19 % 256))).length - 1) ≤ due ∧
      ({ addr := a, word := w, due := due, source := b, index := k, opBlock := b, opId := o.id } : Delivery)
        ∈ ((s.sendWords p b o ws).block (a / 2 ^ 19 % 256)).arriving) := by
    constructor
    · unfold State.sendWords
      dsimp only
      generalize ws.zipIdx = l
      generalize (s.part p).lcycle = t
      clear hm h
      induction l generalizing s with
      | nil => rfl
      | cons x l ih =>
        simp only [List.foldl_cons]
        rw [ih]
        split <;> simp
    · unfold State.sendWords
      dsimp only
      refine foldl_established (P := fun u : State => if districtOf (a / 2 ^ 19 % 256) = districtOf b then
          ({ addr := a, word := w, due := (s.part p).lcycle + 24 + k / 2, source := b, index := k, opBlock := b, opId := o.id } : Delivery)
            ∈ (u.block (a / 2 ^ 19 % 256)).equaliser
        else ∃ due, u.now + 20 + k / 2 + 15 * ((route (districtOf b) (districtOf (a / 2 ^ 19 % 256))).length - 1) ≤ due ∧
          ({ addr := a, word := w, due := due, source := b, index := k, opBlock := b, opId := o.id } : Delivery)
            ∈ (u.block (a / 2 ^ 19 % 256)).arriving) ?_ ?_ hm
      · intro u
        dsimp only
        split
        · next hd => simp
        · next hd =>
          refine ⟨(u.travel p (route (districtOf b) (districtOf (a / 2 ^ 19 % 256))) (u.now + 20 + k / 2)).1, ?_, ?_⟩
          · have := State.travel_le p (route (districtOf b) (districtOf (a / 2 ^ 19 % 256))) u (u.now + 20 + k / 2)
            simpa using this
          · simp only [State.block_setBlock, State.travel_block]
            exact List.mem_append_right _ (List.mem_singleton.mpr rfl)
      · intro u y hu
        split at hu
        · next hd =>
          rw [if_pos hd]
          split
          · by_cases hc : a / 2 ^ 19 % 256 = y.1.1 / 2 ^ 19 % 256
            · rw [← hc, State.block_setBlock]; exact List.mem_append_left _ hu
            · rw [State.block_setBlock_ne _ hc]; exact hu
          · by_cases hc : a / 2 ^ 19 % 256 = y.1.1 / 2 ^ 19 % 256
            · rw [← hc]; simp only [State.block_setBlock, State.travel_block]; exact hu
            · rw [State.block_setBlock_ne _ hc, State.travel_block]; exact hu
        · next hd =>
          rw [if_neg hd]
          obtain ⟨due, h1, h2⟩ := hu
          refine ⟨due, ?_, ?_⟩
          · split <;> simpa using h1
          · split
            · by_cases hc : a / 2 ^ 19 % 256 = y.1.1 / 2 ^ 19 % 256
              · rw [← hc, State.block_setBlock]; exact h2
              · rw [State.block_setBlock_ne _ hc]; exact h2
            · by_cases hc : a / 2 ^ 19 % 256 = y.1.1 / 2 ^ 19 % 256
              · rw [← hc]; simp only [State.block_setBlock, State.travel_block]; exact List.mem_append_left _ h2
              · rw [State.block_setBlock_ne _ hc, State.travel_block]; exact h2
  rw [hn.1] at hn
  exact hn.2

/-! ## Units presented to the pseudo-channels -/

@[simp] theorem State.presentUnit_blocks (s : State) (u : HbmUnit) : (s.presentUnit u).blocks = s.blocks := rfl
@[simp] theorem State.presentUnit_mem (s : State) (u : HbmUnit) : (s.presentUnit u).mem = s.mem := rfl

/-- A unit presented waits at its pseudo-channel. -/
theorem State.presentUnit_waits (s : State) (u : HbmUnit) : u ∈ ((s.presentUnit u).channel (channelOf u.addr)).units := by
  simp [State.presentUnit, Channel.present]

/-- A unit that waits at a pseudo-channel waits on when another is presented. -/
theorem State.presentUnit_keeps {s : State} {u v : HbmUnit} {c : Nat} (h : v ∈ (s.channel c).units) : v ∈ ((s.presentUnit u).channel c).units := by
  unfold State.presentUnit
  by_cases hc : c = channelOf u.addr
  · subst hc
    simp only [State.channel_setChannel, Channel.present]
    rw [List.mem_append, List.mem_cons]
    generalize hf : (fun (w : HbmUnit) => decide (w.present < u.present) || (w.present == u.present && decide (w.opBlock ≤ u.opBlock))) = f
    have := List.takeWhile_append_dropWhile (p := f) (l := (s.channel (channelOf u.addr)).units)
    rw [← this] at h
    rcases List.mem_append.mp h with h | h
    · exact .inl h
    · exact .inr (.inr h)
  · simpa [State.channel_setChannel_ne _ hc] using h

/-- Units presented one after another wait at their pseudo-channels, and no block and no word changes. -/
theorem State.presentAll_waits {s : State} {l : List HbmUnit} {u : HbmUnit} (h : u ∈ l) : u ∈ ((s.presentAll l).channel (channelOf u.addr)).units :=
  foldl_established (P := fun v : State => u ∈ (v.channel (channelOf u.addr)).units) (f := State.presentUnit) (fun v => v.presentUnit_waits u)
    (fun _ _ h => State.presentUnit_keeps h) h
@[simp] theorem State.presentAll_blocks : ∀ (l : List HbmUnit) (s : State), (s.presentAll l).blocks = s.blocks
  | [], _ => rfl
  | u :: l, s => State.presentAll_blocks l (s.presentUnit u)
@[simp] theorem State.presentAll_mem : ∀ (l : List HbmUnit) (s : State), (s.presentAll l).mem = s.mem
  | [], _ => rfl
  | u :: l, s => State.presentAll_mem l (s.presentUnit u)
@[simp] theorem State.presentAll_block (s : State) (l : List HbmUnit) (b : Nat) : (s.presentAll l).block b = s.block b := by simp [State.block]

/-- The units of a read wait at their pseudo-channels (R179, R195). -/
theorem State.presentReads_waits {s : State} {b key u : Nat} {o : Op} {ws r : List (Nat × Nat)} (h : (unitRuns ws)[u]? = some r) :
    ({ stream := streamOf o.desc, addr := (r.headD (0, 0)).1, count := r.length, dests := r.map (fun e => (e.2, 0)), opBlock := b, opId := o.id,
       present := s.now + 84 + u / 8, key := key } : HbmUnit) ∈ ((s.presentReads b o key ws).channel (channelOf (r.headD (0, 0)).1)).units := by
  unfold State.presentReads
  exact State.presentAll_waits (List.mem_map.mpr ⟨(r, u), List.mem_zipIdx_iff_getElem?.mpr h, rfl⟩)

/-- The units of a write wait at their pseudo-channels (R179, R195). -/
theorem State.presentWrites_waits {s : State} {b key u : Nat} {o : Op} {ws : List (Nat × Word)} {r : List (Nat × Nat)}
    (h : (unitRuns (ws.zipIdx.map (fun e => (e.1.1, e.2))))[u]? = some r) :
    ({ stream := streamOf o.desc, addr := (r.headD (0, 0)).1, count := r.length, write := some (r.map (fun e => (ws.getD e.2 (0, 0)).2)), opBlock := b, opId := o.id,
       present := s.now + 84 + 2 * u, key := key } : HbmUnit) ∈ ((s.presentWrites b o key ws).channel (channelOf (r.headD (0, 0)).1)).units := by
  unfold State.presentWrites
  exact State.presentAll_waits (List.mem_map.mpr ⟨(r, u), List.mem_zipIdx_iff_getElem?.mpr h, rfl⟩)
@[simp] theorem State.presentReads_block (s : State) (b key c : Nat) (o : Op) (ws : List (Nat × Nat)) : (s.presentReads b o key ws).block c = s.block c := by
  simp [State.presentReads]
@[simp] theorem State.presentReads_mem (s : State) (b key : Nat) (o : Op) (ws : List (Nat × Nat)) : (s.presentReads b o key ws).mem = s.mem := by simp [State.presentReads]
@[simp] theorem State.presentWrites_block (s : State) (b key c : Nat) (o : Op) (ws : List (Nat × Word)) : (s.presentWrites b o key ws).block c = s.block c := by
  simp [State.presentWrites]
@[simp] theorem State.presentWrites_mem (s : State) (b key : Nat) (o : Op) (ws : List (Nat × Word)) : (s.presentWrites b o key ws).mem = s.mem := by simp [State.presentWrites]

/-! ## Mended reads before a start, and what a start reads of the tables -/

@[simp] theorem State.mended0_partOf (s : State) (l : List Nat) (b : Nat) : (s.mended0 l).partOf b = s.partOf b := by simp [State.partOf]
@[simp] theorem State.mended0_cyclesOf (s : State) (l : List Nat) (b : Nat) : (s.mended0 l).cyclesOf b = s.cyclesOf b := by
  simp [State.cyclesOf, State.partOf, State.part, State.wallOf, State.district]
@[simp] theorem State.mended0_newOp (s : State) (l : List Nat) (p b q n : Nat) (d : Desc) (w : Work) : (s.mended0 l).newOp p b q d n w = s.newOp p b q d n w := by
  simp [State.newOp]
@[simp] theorem State.mended0_handle (s : State) (l : List Nat) (p h : Nat) : (s.mended0 l).handle p h = s.handle p h := by
  simp [State.handle, State.handleKey, State.genFirst, State.objNat, State.obj, State.part]
  rfl

@[simp] theorem State.noteSlow_handle (s : State) (a p h : Nat) : (s.noteSlow a).handle p h = s.handle p h := by
  unfold State.noteSlow
  split
  · simp [State.handle, State.handleKey, State.genFirst, State.objNat, State.obj, State.part]
    rfl
  · rfl
theorem State.markTag_handle (s : State) (p h w i k : Nat) (v : Bool) : (s.markTag p h v w).handle i k = s.handle i k := by
  have e : ((s.markTag p h v w).part i).handles = (s.part i).handles ∧ ((s.markTag p h v w).part i).runGen = (s.part i).runGen := by
    unfold State.markTag
    by_cases hi : i = p
    · subst hi; simp
    · simp [State.part_setPart_ne _ hi]
  simp [State.handle, State.handleKey, State.genFirst, State.objNat, State.obj, e.1, e.2]
  simp [State.markTag]
  rfl
theorem State.clearTags_handle (p id i k : Nat) : ∀ (hs : List Nat) (s : State), (s.clearTags p id hs).handle i k = s.handle i k
  | [], _ => rfl
  | h :: t, s => (State.clearTags_handle p id i k t (s.markTag p h false id)).trans (State.markTag_handle s p h id i k false)
@[simp] theorem State.launchMover_handle (s : State) (p b i h n : Nat) (d : Desc) (w : Work) : ((s.launchMover p b d n w).2.handle i h) = s.handle i h := by
  have e : ∀ x : State, ∀ c : Nat, ∀ y : Block, (x.setBlock c y).handle i h = x.handle i h := fun _ _ _ => rfl
  have l : ∀ o, (s.launch p b o).handle i h = s.handle i h := fun o => by unfold State.launch; rw [State.clearTags_handle]; rfl
  unfold State.launchMover
  dsimp only
  split <;> split <;> simp [e, l]

/-! ## Packets handed to the fabric -/

@[simp] theorem State.sendPackets_blocks (op : Option (Nat × Nat)) (t : Option Nat) : ∀ (l : List Packet) (s : State), (s.sendPackets l op t).blocks = s.blocks
  | [], _ => rfl
  | x :: l, s => by simpa [State.sendPackets, State.setBuffer] using State.sendPackets_blocks op t l _
@[simp] theorem State.sendPackets_mem (op : Option (Nat × Nat)) (t : Option Nat) : ∀ (l : List Packet) (s : State), (s.sendPackets l op t).mem = s.mem
  | [], _ => rfl
  | x :: l, s => by simpa [State.sendPackets, State.setBuffer] using State.sendPackets_mem op t l _
@[simp] theorem State.sendPackets_block (s : State) (l : List Packet) (op : Option (Nat × Nat)) (t : Option Nat) (b : Nat) :
    (s.sendPackets l op t).block b = s.block b := by simp [State.block]

@[simp] theorem State.buffer_setBuffer (s : State) (k : Nat) (l : List Queued) : (s.setBuffer k l).buffer k = l := by simp [State.buffer, State.setBuffer]
theorem State.buffer_setBuffer_ne (s : State) {k c : Nat} (l : List Queued) (h : c ≠ k) : (s.setBuffer k l).buffer c = s.buffer c := by
  simp [State.buffer, State.setBuffer, Table.get_put_ne h]

/-- A packet handed to the fabric waits in the local units' buffer of its class. -/
theorem State.sendPackets_waits {s : State} {l : List Packet} {op : Option (Nat × Nat)} {t : Option Nat} {x : Packet} (h : x ∈ l) :
    ∃ y ∈ (s.sendPackets l op t).buffer (bufKey 6 x.cls 0), y.pkt = x ∧ y.op = op ∧ y.tenant = t := by
  refine foldl_established (P := fun u : State => ∃ y ∈ u.buffer (bufKey 6 x.cls 0), y.pkt = x ∧ y.op = op ∧ y.tenant = t) (fun u => ?_) (fun u z hu => ?_) h
  · simp
  · obtain ⟨y, hy, e⟩ := hu
    refine ⟨y, ?_, e⟩
    by_cases hc : bufKey 6 x.cls 0 = bufKey 6 z.cls 0
    · rw [hc] at hy ⊢; simp [hy]
    · simpa [State.buffer_setBuffer_ne _ _ hc] using hy

/-- What a mover descriptor has done once it is started, after the mended reads of its source: it has left its queue and is in flight, the mover is held, and
memory, time and the partition's logical cycle stand. -/
theorem State.mover_started {s : State} {p b busy : Nat} {d : Desc} {w : Work} (l : List Nat) (h : s.partOf b = some p) :
    (((s.pop p b 2).mended0 l).launchMover p b d busy w).1 = s.newOp p b 2 d 0 w
    ∧ (((((s.pop p b 2).mended0 l).launchMover p b d busy w).2.block b).queue 2).descs = ((s.block b).queue 2).descs.tail
    ∧ ((((s.pop p b 2).mended0 l).launchMover p b d busy w).2.block b).inflight = (s.block b).inflight ++ [s.newOp p b 2 d 0 w]
    ∧ ((((s.pop p b 2).mended0 l).launchMover p b d busy w).2.block b).moverFree = s.cyclesOf b + busy
    ∧ (((s.pop p b 2).mended0 l).launchMover p b d busy w).2.mem = s.mem ∧ (((s.pop p b 2).mended0 l).launchMover p b d busy w).2.now = s.now
    ∧ ((((s.pop p b 2).mended0 l).launchMover p b d busy w).2.part p).lcycle = (s.part p).lcycle := by
  obtain ⟨l1, l2, -, l4, -, l6, l7⟩ := State.launchMover_spec (s := (s.pop p b 2).mended0 l) (b := b) (d := d) (busy := busy) (w := w) (by simpa using h)
  obtain ⟨r, hm⟩ := State.mended0_block (s.pop p b 2) l b
  rw [l2]
  refine ⟨?_, ?_, ?_, ?_, ?_, ?_, ?_⟩
  · rw [l1]; simp
  · rw [hm]; simp [Block.queue, Block.setQueue]
  · rw [hm]; simp
  · simp
  · rw [l4]; simp
  · rw [l6]; simp; rfl
  · rw [l7]; simp [State.part]; rfl

/-! ## Collectives -/

theorem State.launchMover_tables (s : State) (p b n : Nat) (d : Desc) (w : Work) :
    (s.launchMover p b d n w).2.objects = s.objects ∧ (s.launchMover p b d n w).2.jobs = s.jobs ∧ (s.launchMover p b d n w).2.town = s.town
    ∧ (s.launchMover p b d n w).2.crossroads = s.crossroads ∧ (s.launchMover p b d n w).2.colls = s.colls := by
  have hc : ∀ (hs : List Nat) (x : State) (i : Nat), (x.clearTags p i hs).objects = x.objects ∧ (x.clearTags p i hs).jobs = x.jobs
      ∧ (x.clearTags p i hs).town = x.town ∧ (x.clearTags p i hs).crossroads = x.crossroads ∧ (x.clearTags p i hs).colls = x.colls := by
    intro hs
    induction hs with
    | nil => intro x i; exact ⟨rfl, rfl, rfl, rfl, rfl⟩
    | cons h t ih => intro x i; simpa [State.clearTags, State.markTag] using ih (x.markTag p h false i) i
  have hl : ∀ o, (s.launch p b o).objects = s.objects ∧ (s.launch p b o).jobs = s.jobs ∧ (s.launch p b o).town = s.town
      ∧ (s.launch p b o).crossroads = s.crossroads ∧ (s.launch p b o).colls = s.colls := fun o => hc _ _ _
  have hn : ∀ (x : State) (a : Nat), (x.noteSlow a).objects = x.objects ∧ (x.noteSlow a).jobs = x.jobs ∧ (x.noteSlow a).town = x.town
      ∧ (x.noteSlow a).crossroads = x.crossroads ∧ (x.noteSlow a).colls = x.colls := by
    intro x a; unfold State.noteSlow; split <;> simp
  unfold State.launchMover
  dsimp only
  split <;> split <;> simp [hl, hn]

/-- What depends on the objects and the jobs alone. -/
theorem State.fabric_same {s t : State} (ho : t.objects = s.objects) (hj : t.jobs = s.jobs) :
    (∀ k, t.openSlot k = s.openSlot k) ∧ (∀ j, t.boxOf j = s.boxOf j) ∧ (∀ b d, t.pos b d = s.pos b d)
    ∧ (∀ c j d up hdr ws, t.wavePacket c j d up hdr ws = s.wavePacket c j d up hdr ws) := by
  have h1 : ∀ i k, t.obj i k = s.obj i k := fun i k => by simp [State.obj, ho]
  have h2 : ∀ i k, t.objNat i k = s.objNat i k := fun i k => by simp [State.objNat, h1]
  have h3 : ∀ j, t.boxOf j = s.boxOf j := fun j => by simp [State.boxOf, h1]
  have h4 : ∀ b d, t.pos b d = s.pos b d := fun b d => by simp [State.pos, State.posIn, State.me, State.dimSize, h2]
  have h5 : ∀ b f, t.atPos b f = s.atPos b f := fun b f => by simp [State.atPos, State.dimSize, h2]
  have h6 : ∀ b, t.pos b = s.pos b := fun b => funext (h4 b)
  exact ⟨fun k => by simp [State.openSlot, hj, h2], h3, h4, fun c j d up hdr ws => by simp [State.wavePacket, h3, h5, h6, State.endpointAt, State.endpoint, h1, h2]⟩

/-- A packet of a wave waits in the local units' buffer of class 0, for its port. -/
def State.WaveOut (s t : State) (c : Coll) (j d : Nat) (up hdr : Bool) (ws : List Word) : Prop :=
  ∃ y ∈ t.buffer (bufKey 6 0 0), y.out = some (if up then 2 * d else 2 * d + 1) ∧ y.pkt = s.wavePacket c j d up hdr ws

theorem State.sendWave_eq {s : State} {c : Coll} {j d : Nat} {up hdr : Bool} {ws : List Word} (h : s.openSlot c.job = some j) :
    s.sendWave c d up hdr ws = s.setBuffer (bufKey 6 0 0) (s.buffer (bufKey 6 0 0)
      ++ [{ pkt := s.wavePacket c j d up hdr ws, at_ := s.town, out := some (if up then 2 * d else 2 * d + 1) }]) := by
  simp [State.sendWave, h]

/-- The elements of a wave go out, packet by packet, behind what waits already, and nothing else changes. -/
theorem State.sendElems_spec {s : State} {c : Coll} {j d : Nat} {up : Bool} {l : List Nat} (h : s.openSlot c.job = some j) :
    (s.sendElems c d up l).blocks = s.blocks ∧ (s.sendElems c d up l).mem = s.mem ∧ (s.sendElems c d up l).colls = s.colls
    ∧ (∀ y ∈ s.buffer (bufKey 6 0 0), y ∈ (s.sendElems c d up l).buffer (bufKey 6 0 0))
    ∧ ∀ x ∈ chunks (perPacket (up && c.op == 0) ((collFormat c.header).getD 0)) (ceilDiv l.length (perPacket (up && c.op == 0) ((collFormat c.header).getD 0))) l,
        s.WaveOut (s.sendElems c d up l) c j d up false (packPacket (up && c.op == 0) ((collFormat c.header).getD 0) x) := by
  unfold State.sendElems
  dsimp only
  generalize chunks _ _ _ = xs
  generalize packPacket (up && c.op == 0) ((collFormat c.header).getD 0) = f
  have main : ∀ (xs : List (List Nat)) (t : State), t.objects = s.objects → t.jobs = s.jobs →
      (xs.foldl (fun s x => s.sendWave c d up false (f x)) t).blocks = t.blocks ∧ (xs.foldl (fun s x => s.sendWave c d up false (f x)) t).mem = t.mem
      ∧ (xs.foldl (fun s x => s.sendWave c d up false (f x)) t).colls = t.colls
      ∧ (∀ y ∈ t.buffer (bufKey 6 0 0), y ∈ (xs.foldl (fun s x => s.sendWave c d up false (f x)) t).buffer (bufKey 6 0 0))
      ∧ ∀ x ∈ xs, s.WaveOut (xs.foldl (fun s x => s.sendWave c d up false (f x)) t) c j d up false (f x) := by
    intro xs
    induction xs with
    | nil => intro t _ _; exact ⟨rfl, rfl, rfl, fun _ h => h, fun x h => by cases h⟩
    | cons x xs ih =>
      intro t ho hj
      have hs := State.fabric_same ho hj
      have e := State.sendWave_eq (s := t) (c := c) (j := j) (d := d) (up := up) (hdr := false) (ws := f x) (by rw [hs.1]; exact h)
      simp only [List.foldl_cons]
      obtain ⟨i1, i2, i3, i4, i5⟩ := ih (t.sendWave c d up false (f x)) (by rw [e]; exact ho) (by rw [e]; exact hj)
      refine ⟨by rw [i1, e]; rfl, by rw [i2, e]; rfl, by rw [i3, e]; rfl, fun y hy => i4 y (by rw [e]; simp [hy]), fun z hz => ?_⟩
      rcases List.mem_cons.mp hz with rfl | hz
      · exact ⟨_, i4 _ (by rw [e, State.buffer_setBuffer]; exact List.mem_append_right _ (List.mem_singleton.mpr rfl)), rfl, hs.2.2.2 _ _ _ _ _ _⟩
      · exact i5 z hz
  exact main xs s rfl rfl

/-- The first dimension of a collective begins: at position 0 of it the wave goes out, elsewhere the wave is waited for (R352). -/
theorem State.startDim_first {s : State} {id n j d : Nat} {rest : List Nat} {c : Coll} (hc : s.coll id = some c) (hd : c.dims = d :: rest)
    (hg : c.got = []) (hh : c.gotHead = none) (hj : s.openSlot c.job = some j) (he : 1 < (s.boxOf j).extent d) :
    (s.startDim id (n + 1)).blocks = s.blocks ∧ (s.startDim id (n + 1)).mem = s.mem
    ∧ (s.startDim id (n + 1)).coll id = some { c with upDone := decide (s.pos (s.boxOf j) d = 0) }
    ∧ (s.pos (s.boxOf j) d = 0 → s.WaveOut (s.startDim id (n + 1)) c j d true true [c.header]
        ∧ ∀ x ∈ chunks (perPacket (c.op == 0) ((collFormat c.header).getD 0)) (ceilDiv c.elems.length (perPacket (c.op == 0) ((collFormat c.header).getD 0))) c.elems,
            s.WaveOut (s.startDim id (n + 1)) c j d true false (packPacket (c.op == 0) ((collFormat c.header).getD 0) x)) := by
  have hx : ¬ (s.boxOf j).extent d ≤ 1 := by omega
  obtain ⟨c1, c2, c3, c4, c5, c6, c7, c8, c9, ch, cl, c12, c13, c14, c15⟩ := c
  simp only at hd hg hh hj
  subst hd hg hh
  simp only [State.startDim, hc, hj, hx, if_false]
  by_cases hp : s.pos (s.boxOf j) d = 0
  · simp only [hp, if_true, decide_true]
    have e := State.sendWave_eq (s := s.setColl id { part := c1, block := c2, job := c3, op := c4, seq := c5, flow := c6, count := c7, dst := c8, dims := d :: rest, header := ch, elems := cl, upDone := true, done := c15 }) (c := { part := c1, block := c2, job := c3, op := c4, seq := c5, flow := c6, count := c7, dst := c8, dims := d :: rest, header := ch, elems := cl, upDone := c14, done := c15 }) (j := j) (d := d) (up := true) (hdr := true) (ws := [ch]) hj
    obtain ⟨a1, a2, a3, a4, a5⟩ := State.sendElems_spec (s := (s.setColl id { part := c1, block := c2, job := c3, op := c4, seq := c5, flow := c6, count := c7, dst := c8, dims := d :: rest, header := ch, elems := cl, upDone := true, done := c15 }).sendWave ({ part := c1, block := c2, job := c3, op := c4, seq := c5, flow := c6, count := c7, dst := c8, dims := d :: rest, header := ch, elems := cl, upDone := c14, done := c15 }) d true true [ch])
      (c := { part := c1, block := c2, job := c3, op := c4, seq := c5, flow := c6, count := c7, dst := c8, dims := d :: rest, header := ch, elems := cl, upDone := c14, done := c15 }) (j := j) (d := d) (up := true) (l := cl) (by rw [e]; exact hj)
    refine ⟨by rw [a1, e]; rfl, by rw [a2, e]; rfl, ?_, fun _ => ⟨⟨_, a4 _ (by rw [e, State.buffer_setBuffer]; exact List.mem_append_right _ (List.mem_singleton.mpr rfl)), rfl, rfl⟩, ?_⟩⟩
    · rw [State.coll, a3, e]
      simp [State.setColl, State.setBuffer, Table.find_put_same]
    · intro x hx
      obtain ⟨y, hy, h1, h2⟩ := a5 x hx
      refine ⟨y, hy, h1, ?_⟩
      rw [h2, e]
      rfl
  · simp only [hp, if_false, decide_false]
    refine ⟨rfl, rfl, ?_, fun h => absurd h (by trivial)⟩
    simp [State.coll, State.setColl, Table.find_put_same]

/-! ## Barriers -/

/-- Two states that differ, of what a join can see, in the jobs alone. -/
theorem State.sendPackets_jobs (op : Option (Nat × Nat)) (t : Option Nat) : ∀ (l : List Packet) (s : State),
    (s.sendPackets l op t).jobs = s.jobs ∧ (s.sendPackets l op t).blocks = s.blocks ∧ (s.sendPackets l op t).parts = s.parts ∧ (s.sendPackets l op t).mem = s.mem
  | [], _ => ⟨rfl, rfl, rfl, rfl⟩
  | x :: l, s => by simpa [State.sendPackets, State.setBuffer] using State.sendPackets_jobs op t l _

theorem State.sendBarrier_jobs (s : State) (j k e : Nat) (v : Barrier) (ws : List Word) :
    (s.sendBarrier j k e v ws).jobs = s.jobs ∧ (s.sendBarrier j k e v ws).blocks = s.blocks ∧ (s.sendBarrier j k e v ws).parts = s.parts
    ∧ (s.sendBarrier j k e v ws).mem = s.mem := State.sendPackets_jobs _ _ _ _

theorem State.sendRelease_jobs (j : Nat) (v : Barrier) : ∀ (l : List Nat) (s : State),
    (s.sendRelease j l v).jobs = s.jobs ∧ (s.sendRelease j l v).blocks = s.blocks ∧ (s.sendRelease j l v).parts = s.parts ∧ (s.sendRelease j l v).mem = s.mem
  | [], _ => ⟨rfl, rfl, rfl, rfl⟩
  | e :: l, s => by
    have h := State.sendRelease_jobs j v l (s.sendBarrier j 0x29 e v [BitVec.ofNat 256 (place 0 64 (v.release.getD 0))])
    have g := s.sendBarrier_jobs j 0x29 e v [BitVec.ofNat 256 (place 0 64 (v.release.getD 0))]
    exact ⟨h.1.trans g.1, h.2.1.trans g.2.1, h.2.2.1.trans g.2.2.1, h.2.2.2.trans g.2.2.2⟩

theorem State.setBarrier_spec (s : State) (j : Nat) (v : Barrier) :
    ((s.setBarrier j v).job j).barrier v.kind v.seq = v ∧ (s.setBarrier j v).blocks = s.blocks ∧ (s.setBarrier j v).parts = s.parts
    ∧ (s.setBarrier j v).mem = s.mem := by
  refine ⟨?_, by simp [State.setBarrier, State.setJob], by simp [State.setBarrier, State.setJob], by simp [State.setBarrier, State.setJob]⟩
  have h : (((s.job j).barriers.filter (fun y => !y.named v.kind v.seq)) ++ [v]).find? (fun y => y.named v.kind v.seq) = some v := by
    rw [List.find?_append]
    have : ((s.job j).barriers.filter (fun y => !y.named v.kind v.seq)).find? (fun y => y.named v.kind v.seq) = none := by
      rw [List.find?_eq_none]
      intro y hy
      simp only [List.mem_filter] at hy
      simpa using hy.2
    rw [this]
    simp [Barrier.named]
  have e : (s.setBarrier j v).job j = { s.job j with barriers := (s.job j).barriers.filter (fun y => !y.named v.kind v.seq) ++ [v] } := by
    simp [State.job, State.setBarrier, State.setJob]
  rw [e, Job.barrier, h]
  rfl

theorem Job.barrier_named (x : Job) (k n : Nat) : (x.barrier k n).kind = k ∧ (x.barrier k n).seq = n := by
  unfold Job.barrier
  cases h : x.barriers.find? (fun y => y.named k n) with
  | none => exact ⟨rfl, rfl⟩
  | some y =>
    have := List.find?_some h
    simpa [Barrier.named] using this

/-- A part that joins a barrier has joined it, now; blocks, partitions and memory stand (R347). -/
theorem State.joinBarrier_spec (s : State) (j k n : Nat) :
    (((s.joinBarrier j k n).job j).barrier k n).joined = true ∧ (((s.joinBarrier j k n).job j).barrier k n).joinedAt = s.town
    ∧ (s.joinBarrier j k n).blocks = s.blocks ∧ (s.joinBarrier j k n).parts = s.parts ∧ (s.joinBarrier j k n).mem = s.mem := by
  obtain ⟨hk, hn⟩ := (s.job j).barrier_named k n
  unfold State.joinBarrier
  dsimp only
  generalize hv : ({ (s.job j).barrier k n with joined := true, joinedAt := s.town } : Barrier) = v
  have hvk : v.kind = k ∧ v.seq = n ∧ v.joined = true ∧ v.joinedAt = s.town := by subst hv; exact ⟨hk, hn, rfl, rfl⟩
  obtain ⟨b1, b2, b3, b4⟩ := s.setBarrier_spec j v
  rw [hvk.1, hvk.2.1] at b1
  generalize hu : s.setBarrier j v = u at *
  unfold State.joinOn
  dsimp only
  rw [b1]
  split
  · exact ⟨by rw [b1]; exact hvk.2.2.1, by rw [b1]; exact hvk.2.2.2, b2, b3, b4⟩
  · split
    · next pp hp =>
      obtain ⟨c1, c2, c3, c4⟩ := u.setBarrier_spec j { v with sentAt := some u.town }
      generalize hw : u.setBarrier j { v with sentAt := some u.town } = w at *
      have hs : (w.sendJoin j { v with sentAt := some u.town }).jobs = w.jobs ∧ (w.sendJoin j { v with sentAt := some u.town }).blocks = w.blocks
          ∧ (w.sendJoin j { v with sentAt := some u.town }).parts = w.parts ∧ (w.sendJoin j { v with sentAt := some u.town }).mem = w.mem := by
        unfold State.sendJoin
        split
        · exact w.sendBarrier_jobs _ _ _ _ _
        · exact ⟨rfl, rfl, rfl, rfl⟩
      have hj : (w.sendJoin j { v with sentAt := some u.town }).job j = w.job j := by simp [State.job, hs.1]
      rw [hj]
      simp only [hvk.1, hvk.2.1] at c1
      rw [c1]
      exact ⟨hvk.2.2.1, hvk.2.2.2, (hs.2.1.trans c2).trans b2, (hs.2.2.1.trans c3).trans b3, (hs.2.2.2.trans c4).trans b4⟩
    · obtain ⟨c1, c2, c3, c4⟩ := u.setBarrier_spec j { v with release := some (u.town + u.margin j) }
      generalize hw : u.setBarrier j { v with release := some (u.town + u.margin j) } = w at *
      have hs := w.sendRelease_jobs j { v with release := some (u.town + u.margin j) } (u.childrenOf (u.boxOf j))
      generalize hr : w.sendRelease j (u.childrenOf (u.boxOf j)) { v with release := some (u.town + u.margin j) } = r at *
      have hj : r.job j = w.job j := by simp [State.job, hs.1]
      rw [hj]
      simp only [hvk.1, hvk.2.1] at c1
      rw [c1]
      exact ⟨hvk.2.2.1, hvk.2.2.2, (hs.2.1.trans c2).trans b2, (hs.2.2.1.trans c3).trans b3, (hs.2.2.2.trans c4).trans b4⟩

/-! ## The serving unit -/

theorem State.clearTags_part (p id i : Nat) : ∀ (hs : List Nat) (s : State), ∃ tg, (s.clearTags p id hs).part i = { s.part i with tags := tg }
  | [], s => ⟨(s.part i).tags, rfl⟩
  | h :: t, s => by
    obtain ⟨tg, e⟩ := State.clearTags_part p id i t (s.markTag p h false id)
    have : ∃ tg, (s.markTag p h false id).part i = { s.part i with tags := tg } := by
      unfold State.markTag
      by_cases hi : i = p
      · subst hi; exact ⟨_, by simp; rfl⟩
      · exact ⟨(s.part i).tags, by simp [State.part_setPart_ne _ hi]⟩
    obtain ⟨tg', e'⟩ := this
    exact ⟨tg, by rw [State.clearTags]; simp only [List.foldl_cons] at *; rw [show List.foldl _ (s.markTag p h false id) t = (s.markTag p h false id).clearTags p id t from rfl, e, e']⟩

/-- An operation put in flight changes, of its partition, the ready tags alone (R119). -/
theorem State.launch_part (s : State) (p b i : Nat) (o : Op) : ∃ tg, (s.launch p b o).part i = { s.part i with tags := tg } := by
  obtain ⟨tg, e⟩ := State.clearTags_part p o.id i (dests o.desc) (({ s with opCount := s.opCount + 1 } : State).setBlock b { s.block b with inflight := (s.block b).inflight ++ [o] })
  exact ⟨tg, e⟩

/-- What starting a serving descriptor does: it is in flight, the port is held for its words, and blocks, memory and the rest of the partition stand (R237). -/
theorem State.launchServing_spec {s : State} {p b w : Nat} {d : Desc} {ws : List (Nat × Word)} (h : s.partOf b = some p) :
    (s.launchServing p b d w ws).block b = { s.block b with inflight := (s.block b).inflight
        ++ [s.newOp p b 3 d ((max (s.part p).lcycle (s.part p).servingFree - (s.part p).lcycle) + 160 + ceilDiv w 2 - 1) (.serving ws)] }
    ∧ (∃ tg, (s.launchServing p b d w ws).part p = { s.part p with servingFree := max (s.part p).lcycle (s.part p).servingFree + ceilDiv w 2, tags := tg })
    ∧ (s.launchServing p b d w ws).mem = s.mem := by
  have hc : (s.setPart p { s.part p with servingFree := max (s.part p).lcycle (s.part p).servingFree + ceilDiv w 2 }).cyclesOf b = s.cyclesOf b :=
    State.setPart_cyclesOf h rfl rfl rfl
  unfold State.launchServing
  dsimp only
  refine ⟨?_, ?_, ?_⟩
  · simp [State.newOp, hc]
  · obtain ⟨tg, e⟩ := State.launch_part (s.setPart p { s.part p with servingFree := max (s.part p).lcycle (s.part p).servingFree + ceilDiv w 2 }) p b p _
    refine ⟨tg, e.trans ?_⟩
    rw [State.part_setPart]
  · simp

/-- The same for a serving descriptor that leaves its queue now. -/
theorem State.serving_started {s : State} {p b w : Nat} {d : Desc} {ws : List (Nat × Word)} (l : List Nat) (h : s.partOf b = some p) :
    (((((s.pop p b 3).mended0 l).launchServing p b d w ws).block b).queue 3).descs = ((s.block b).queue 3).descs.tail
    ∧ ((((s.pop p b 3).mended0 l).launchServing p b d w ws).block b).inflight = (s.block b).inflight
        ++ [s.newOp p b 3 d ((max (s.part p).lcycle (s.part p).servingFree - (s.part p).lcycle) + 160 + ceilDiv w 2 - 1) (.serving ws)]
    ∧ ((((s.pop p b 3).mended0 l).launchServing p b d w ws).part p).servingFree = max (s.part p).lcycle (s.part p).servingFree + ceilDiv w 2
    ∧ (((s.pop p b 3).mended0 l).launchServing p b d w ws).mem = s.mem := by
  have e : ((s.pop p b 3).mended0 l).part p = s.part p := by simp [State.part]; rfl
  obtain ⟨l1, ⟨tg, l2⟩, l3⟩ := State.launchServing_spec (s := (s.pop p b 3).mended0 l) (b := b) (d := d) (w := w) (ws := ws) (by simpa using h)
  obtain ⟨r, hm⟩ := State.mended0_block (s.pop p b 3) l b
  rw [e] at l1 l2
  refine ⟨?_, ?_, ?_, ?_⟩
  · rw [l1, hm]; simp [Block.queue, Block.setQueue]
  · rw [l1, hm]; simp
  · rw [l2]
  · rw [l3]; simp

/-- A word for each slot: slot i's is word i of the destination (R235). -/
theorem State.slotWords_one (s : State) (p : Nat) (d : Desc) (f : Option Request → Word) :
    s.slotWords p d (fun _ r => [f r]) = (List.range (nslot d)).map (fun i =>
      (hAddr (s.handle p (opHandle (opnd d 0))) (opOffset (opnd d 0)) + i, f (s.bound p (slot0 d + i)))) := by
  have h : (addrs (slot0 d) (nslot d)).flatMap (fun i => [f (s.bound p i)]) = (List.range (nslot d)).map (fun i => f (s.bound p (slot0 d + i))) := by
    simp [addrs, List.flatMap_map, ← List.map_eq_flatMap]
  unfold State.slotWords
  dsimp only
  rw [h]
  simp only [List.length_map, List.length_range, addrs]
  rw [List.zip_map']

/-! ## A collective from its descriptor -/

/-- What stands when the source of a descriptor has been read, mended where it had to be. -/
def State.Mended (s u : State) (p b q : Nat) : Prop :=
  (∃ r, u.block b = { (s.pop p b q).block b with repair := r }) ∧ u.partOf b = s.partOf b ∧ u.cyclesOf b = s.cyclesOf b ∧ u.opCount = s.opCount
    ∧ u.mem = s.mem ∧ u.now = s.now ∧ u.parts = s.parts ∧ u.objects = s.objects ∧ u.jobs = s.jobs

theorem State.Mended.pop (s : State) (p b q : Nat) : s.Mended (s.pop p b q) p b q :=
  ⟨⟨_, rfl⟩, rfl, rfl, rfl, rfl, rfl, rfl, rfl, rfl⟩

theorem State.Mended.more {s u : State} {p b q : Nat} (h : s.Mended u p b q) (l : List Nat) : s.Mended (u.mended0 l) p b q := by
  obtain ⟨⟨r, h1⟩, h2, h3, h4, h5, h6, h7, h8, h9⟩ := h
  obtain ⟨r', e⟩ := State.mended0_block u l b
  exact ⟨⟨r', by rw [e, h1]⟩, by simpa using h2, by simpa using h3, by simpa using h4, by simpa using h5, by simpa using h6, by simpa using h7, by simpa using h8,
    by simpa using h9⟩

/-- A collective started from its descriptor, whose first dimension has more than one part: in flight, held by the engine, and its up-wave sent from
position 0 (R351 to R353). -/
theorem State.coll_started {s u : State} {p b op j k w : Nat} {d : Desc} {h : Word} {l : List Nat} (hu : s.Mended u p b 2) (hpp : s.partOf b = some p)
    (hj : s.jobOf p = some j) (ho : s.openSlot (s.jobTag j) = some j)
    (hk : ((List.range 3).filter (fun i => collDims d / 2 ^ i % 2 == 1)).head? = some k) (he : 1 < (s.boxOf j).extent k) :
    let c := (s.pop p b 2).newColl p b op d h l
    let m := u.launchMover p b d (ceilDiv w 2) .collective
    let t := (m.2.setColl m.1.id c).startDim m.1.id 4
    ((t.block b).queue 2).descs = ((s.block b).queue 2).descs.tail ∧ (t.block b).inflight = (s.block b).inflight ++ [s.newOp p b 2 d 0 .collective]
    ∧ (t.block b).moverFree = s.cyclesOf b + ceilDiv w 2 ∧ t.mem = s.mem
    ∧ t.coll (s.opCount + 1) = some { c with upDone := decide (s.pos (s.boxOf j) k = 0) }
    ∧ (s.pos (s.boxOf j) k = 0 → s.WaveOut t c j k true true [h]
        ∧ ∀ x ∈ chunks (perPacket (op == 0) ((collFormat h).getD 0)) (ceilDiv l.length (perPacket (op == 0) ((collFormat h).getD 0))) l,
            s.WaveOut t c j k true false (packPacket (op == 0) ((collFormat h).getD 0) x)) := by
  intro c m t
  obtain ⟨⟨r, h1⟩, h2, h3, h4, h5, h6, h7, h8, h9⟩ := hu
  obtain ⟨l1, l2, -, l4, -, l6, -⟩ := State.launchMover_spec (s := u) (p := p) (b := b) (d := d) (busy := ceilDiv w 2) (w := .collective) (by rw [h2]; exact hpp)
  obtain ⟨t1, t2, -, -, -⟩ := State.launchMover_tables u p b (ceilDiv w 2) d .collective
  have hid : m.1.id = s.opCount + 1 := by
    show (u.launchMover p b d (ceilDiv w 2) .collective).1.id = _
    rw [l1]; simp [State.newOp, h4]
  have hv1 : (m.2.setColl m.1.id c).objects = s.objects := t1.trans h8
  have hv2 : (m.2.setColl m.1.id c).jobs = s.jobs := t2.trans h9
  have same := State.fabric_same hv1 hv2
  have hcj : c.job = s.jobTag j := by
    have : (s.pop p b 2).jobOf p = some j := hj
    show (s.pop p b 2).jobTag (((s.pop p b 2).jobOf p).getD 0) = _
    rw [this]; rfl
  have hd : c.dims = k :: c.dims.tail := by
    have : c.dims.head? = some k := hk
    cases hc : c.dims with
    | nil => rw [hc] at this; cases this
    | cons a r => rw [hc] at this; cases this; rfl
  obtain ⟨d1, d2, d3, d4⟩ := State.startDim_first (s := m.2.setColl m.1.id c) (id := m.1.id) (n := 3) (j := j) (d := k) (rest := c.dims.tail) (c := c)
    (by simp [State.coll, State.setColl, Table.find_put_same]) hd rfl rfl (by rw [same.1, hcj]; exact ho) (by rw [same.2.1]; exact he)
  have hb : t.block b = m.2.block b := by simp only [State.block]; exact congrArg (fun x => Table.get _ x b) d1
  have hm : m.2.block b = (u.launchMover p b d (ceilDiv w 2) .collective).2.block b := rfl
  refine ⟨?_, ?_, ?_, ?_, ?_, ?_⟩
  · rw [hb, hm, l2, h1]; simp [Block.queue, Block.setQueue]
  · rw [hb, hm, l2, h1]; simp [State.newOp, h3, h4]
  · rw [hb, hm, l2, h3]
  · exact d2.trans (l4.trans h5)
  · rw [← hid, d3, same.2.1, same.2.2.1]
  · intro hp
    obtain ⟨w1, w2⟩ := d4 (by rw [same.2.1, same.2.2.1]; exact hp)
    refine ⟨?_, fun x hx => ?_⟩
    · obtain ⟨y, y1, y2, y3⟩ := w1
      exact ⟨y, y1, y2, y3.trans (same.2.2.2 _ _ _ _ _ _)⟩
    · obtain ⟨y, y1, y2, y3⟩ := w2 x hx
      exact ⟨y, y1, y2, y3.trans (same.2.2.2 _ _ _ _ _ _)⟩

/-- An operation put in flight leaves its block with its partition. -/
theorem State.launch_partOf {s : State} {p b : Nat} {o : Op} (h : s.partOf b = some p) : (s.launch p b o).partOf b = some p :=
  (State.clearTags_cyclesOf (s := ({ s with opCount := s.opCount + 1 } : State).setBlock b _) h).1

/-! ## Failures -/

/-- A RUNNING partition that is fenced: FENCED, with that failure, and no freeze (R124). -/
theorem State.fence_part {s : State} {p : Nat} {f : Failure} (h : (s.part p).stepState = .running) :
    (s.fence p f).part p = { s.part p with stepState := .fenced, failure := some { f with frozen := (s.part p).freeze.isSome || (s.part p).extraBank != 0 || (s.part p).extraStreet != 0, leadAt := s.leadCycles p },
                                           freeze := none, extraBank := 0, extraStreet := 0 } := by
  have e : ∀ (u : State) (k c : Nat) (v : Event), ((u.raise k c).logEvent v).parts = u.parts := fun u k c v => by simp [State.raise]
  have g : ∀ (u v : State), u.parts = v.parts → u.part p = v.part p := fun u v h => congrArg (fun t => ({ s with parts := t } : State).part p) h
  unfold State.fence
  simp only [h]
  rw [g _ _ (e _ _ _ _), State.part_setPart]

theorem State.failStep_part {s : State} {p n : Nat} {c : Status} (h : (s.part p).stepState = .running) :
    ((s.failStep p c n).part p).stepState = .fenced ∧ ((s.failStep p c n).part p).failure.any (fun f => f.cause == c) = true := by
  unfold State.failStep
  rw [State.fence_part h]
  simp

theorem State.failDesc_part {s : State} {p b q : Nat} {d : Desc} {c : Status} (h : (s.part p).stepState = .running) :
    ((s.failDesc p c b q d).part p).stepState = .fenced ∧ ((s.failDesc p c b q d).part p).failure.any (fun f => f.cause == c) = true := by
  unfold State.failDesc
  rw [State.fence_part h]
  simp

end Sys2Proof.Machine
end

