-- ==== Sys2Proof/Laws/TickKeeps.lean ====
section
/-! SUPPORT. What the operations of Machine/Tick.lean keep: the queue, the form of the state and, where they store nothing, the memory. -/
set_option linter.all false
set_option Elab.async false
namespace Sys2Proof.Machine
section
variable {q : List Instr} {M : Memory → Prop} {C : Prop}

theorem State.tickTime_kept (s : State)  (h : Kept q M C s) : Kept q M C (State.tickTime s) := by
  unfold State.tickTime
  try dsimp only
  repeat' first | with_reducible assumption | with_reducible apply Kept.ite <;> intro _ | simp only [Kept.upd] | split | intro _

theorem State.tickDistrict_kept (s : State) (d : Nat)  (h : Kept q M C s) : Kept q M C (State.tickDistrict s d) := by
  unfold State.tickDistrict
  try dsimp only
  repeat' first | with_reducible assumption | with_reducible apply State.setDistrict_kept | with_reducible apply State.count_kept | with_reducible apply Kept.ite <;> intro _ | simp only [Kept.upd] | split | intro _

theorem State.slipCycle_kept (s : State) (p : Nat)  (h : Kept q M C s) : Kept q M C (State.slipCycle s p) := by
  unfold State.slipCycle
  try dsimp only
  repeat' first | with_reducible assumption | with_reducible apply State.setPart_kept | with_reducible apply State.count_kept | with_reducible apply Kept.ite <;> intro _ | with_reducible apply foldl_kept (fun _ _ _ => ?_) | simp only [Kept.upd] | split | intro _

theorem State.beginContention_kept (s : State) (p : Nat) (bank : Nat) (street : Nat)  (h : Kept q M C s) : Kept q M C (State.beginContention s p bank street) := by
  unfold State.beginContention
  try dsimp only
  repeat' first | with_reducible assumption | with_reducible apply State.setPart_kept | with_reducible apply State.count_kept | with_reducible apply State.setCounter_kept | with_reducible apply Kept.ite <;> intro _ | simp only [Kept.upd] | split | intro _

theorem State.joinContention_kept (s : State) (p : Nat)  (h : Kept q M C s) : Kept q M C (State.joinContention s p) := by
  unfold State.joinContention
  try dsimp only
  repeat' first | with_reducible assumption | with_reducible apply State.setPart_kept | with_reducible apply Kept.ite <;> intro _ | simp only [Kept.upd] | split | intro _

theorem State.bankDelays_kept (s : State) (p : Nat) (had : Nat → Bool)  (h : Kept q M C s) : Kept q M C (State.bankDelays s p had) := by
  unfold State.bankDelays
  try dsimp only
  repeat' first | with_reducible assumption | with_reducible apply State.delayBlock_kept | with_reducible apply Kept.ite <;> intro _ | with_reducible apply foldl_kept (fun _ _ _ => ?_) | simp only [Kept.upd] | split | intro _

theorem State.runClocks_kept (s : State) (p : Nat) (had : Nat → Bool)  (h : Kept q M C s) : Kept q M C (State.runClocks s p had) := by
  unfold State.runClocks
  try dsimp only
  repeat' first | with_reducible assumption | with_reducible apply State.setPart_kept | with_reducible apply Kept.ite <;> intro _ | with_reducible apply foldl_kept (fun _ _ _ => ?_) | with_reducible apply foldl_kept_snd (fun _ _ _ => ?_) | with_reducible apply foldl_kept_fst (fun _ _ _ => ?_) | simp only [Kept.upd] | split | intro _

theorem State.nextLogical_kept (s : State) (p : Nat)  (h : Kept q M C s) : Kept q M C (State.nextLogical s p) := by
  unfold State.nextLogical
  try dsimp only
  repeat' first | with_reducible assumption | with_reducible apply State.setPart_kept | with_reducible apply State.runClocks_kept | with_reducible apply Kept.ite <;> intro _ | simp only [Kept.upd] | split | intro _

theorem State.tickLogical_kept (s : State) (p : Nat) (had : Nat → Bool)  (h : Kept q M C s) : Kept q M C (State.tickLogical s p had) := by
  unfold State.tickLogical
  try dsimp only
  repeat' first | with_reducible assumption | with_reducible apply State.setPart_kept | with_reducible apply State.count_kept | with_reducible apply State.slipCycle_kept | with_reducible apply State.beginContention_kept | with_reducible apply State.joinContention_kept | with_reducible apply State.bankDelays_kept | with_reducible apply State.runClocks_kept | with_reducible apply State.nextLogical_kept | with_reducible apply Kept.ite <;> intro _ | simp only [Kept.upd] | split | intro _

theorem State.tickBlock_kept (s : State) (b : Nat) (moved : Bool)  (h : Kept q Any C s) : Kept q Any C (State.tickBlock s b moved) := by
  unfold State.tickBlock
  try dsimp only
  repeat' first | with_reducible assumption | with_reducible apply State.setBlock_kept | with_reducible apply State.completeOp_kept | with_reducible apply State.stageBlock_kept | with_reducible apply State.finishVector_kept | with_reducible apply Kept.ite <;> intro _ | with_reducible apply foldl_kept (fun _ _ _ => ?_) | with_reducible apply foldl_kept_snd (fun _ _ _ => ?_) | with_reducible apply foldl_kept_fst (fun _ _ _ => ?_) | simp only [Kept.upd] | split | intro _

theorem State.tickPart_kept (s : State) (p : Nat)  (h : Kept q M C s) : Kept q M C (State.tickPart s p) := by
  unfold State.tickPart
  try dsimp only
  repeat' first | with_reducible assumption | with_reducible apply State.reportFailure_kept | with_reducible apply State.originate_kept | with_reducible apply State.carryOut_kept | with_reducible apply State.stopColls_kept | with_reducible apply Kept.ite <;> intro _ | simp only [Kept.upd] | split | intro _

theorem State.tickWaits_kept (s : State)  (h : Kept q M C s) : Kept q M C (State.tickWaits s) := by
  unfold State.tickWaits
  try dsimp only
  repeat' first | with_reducible assumption | with_reducible apply State.count_kept | with_reducible apply Kept.ite <;> intro _ | with_reducible apply foldl_kept (fun _ _ _ => ?_) | with_reducible apply foldl_kept_snd (fun _ _ _ => ?_) | with_reducible apply foldl_kept_fst (fun _ _ _ => ?_) | simp only [Kept.upd] | split | intro _

theorem State.tickPass_kept (s : State)  (h : Kept q M C s) : Kept q M C (State.tickPass s) := by
  unfold State.tickPass
  try dsimp only
  repeat' first | with_reducible assumption | with_reducible apply State.setBlock_kept | with_reducible apply State.countLog_kept | with_reducible apply Kept.ite <;> intro _ | with_reducible apply foldl_kept (fun _ _ _ => ?_) | with_reducible apply foldl_kept_snd (fun _ _ _ => ?_) | with_reducible apply foldl_kept_fst (fun _ _ _ => ?_) | simp only [Kept.upd] | split | intro _

theorem State.tickMicros_kept (s : State) (before : Nat)  (h : Kept q M C s) : Kept q M C (State.tickMicros s before) := by
  unfold State.tickMicros
  try dsimp only
  repeat' first | with_reducible assumption | with_reducible apply State.count_kept | with_reducible apply Kept.ite <;> intro _ | simp only [Kept.upd] | split | intro _

theorem State.tickRunning_kept (s : State)  (h : Kept q Any C s) : Kept q Any C (State.tickRunning s) := by
  unfold State.tickRunning
  try dsimp only
  repeat' first | with_reducible assumption | with_reducible apply State.coreCycle_kept | with_reducible apply State.teardownStep_kept | with_reducible apply State.tickTime_kept | with_reducible apply State.tickDistrict_kept | with_reducible apply State.tickLogical_kept | with_reducible apply State.tickBlock_kept | with_reducible apply State.tickPart_kept | with_reducible apply State.tickWaits_kept | with_reducible apply State.tickPass_kept | with_reducible apply State.tickMicros_kept | with_reducible apply Kept.ite <;> intro _ | with_reducible apply foldl_kept (fun _ _ _ => ?_) | with_reducible apply foldl_kept_snd (fun _ _ _ => ?_) | with_reducible apply foldl_kept_fst (fun _ _ _ => ?_) | simp only [Kept.upd] | split | intro _

theorem State.tick_kept (s : State)  (h : Kept q Any C s) : Kept q Any C (State.tick s) := by
  unfold State.tick
  try dsimp only
  repeat' first | with_reducible assumption | with_reducible apply State.freezeDone_kept | with_reducible apply State.tickTime_kept | with_reducible apply State.tickMicros_kept | with_reducible apply State.tickRunning_kept | with_reducible apply Kept.ite <;> intro _ | simp only [Kept.upd] | split | intro _

end
end Sys2Proof.Machine
end

