-- ==== Sys2Proof/Tests/Slice0.lean ====
section
/-! SUPPORT. Tests: the ill-formed operands that WellFormed refuses, values that the spec gives, and for every statement with premises a concrete state
that meets them. -/
section
open Sys2Proof Sys2Proof.Machine
set_option linter.all false
set_option Elab.async false

/-! ## Ill-formed operands -/

/-- A term that each check of WellFormed refuses. Its meaning goes on with it all the same (log 14). -/
theorem test_illFormed :
    (Access.wf ⟨0, 3, none⟩ = false ∧ Access.wf ⟨0, 1, some 256⟩ = false ∧ pcieLinkOk 7 16 = false ∧ pcieLinkOk 64 1 = false ∧ readingOk 32768 = false ∧ readingOk (-32769) = false
      ∧ avsOk 599 = false ∧ avsOk 801 = false ∧ avsOk 702 = false)
    ∧ ((Instr.requestPrepare 1056768).wf = false ∧ (Instr.kerbFrameCopy 1056768).wf = false ∧ (Instr.requestExpiry 1056768).wf = false ∧ (Instr.recallFrameCopy 1056768).wf = false
      ∧ (Instr.loadHandles (.core 0) []).wf = false ∧ (Instr.codewordReceive 0 []).wf = false ∧ (Instr.avsUpdate 700 65536).wf = false ∧ (Instr.railFault 0 65536).wf = false
      ∧ (Instr.powerLimitUpdate 65536).wf = false ∧ (Instr.frzMemRead (2 ^ 63)).wf = false ∧ (Instr.frzMemWrite 0 0 0).wf = false)
    ∧ (∀ image : List Byte, 2 ^ 32 ≤ image.length → (Instr.loadPlan (.core 0) image).wf = false) := by
  refine ⟨by decide +kernel, by decide +kernel, ?_⟩
  intro image h
  simp only [Instr.wf, decide_eq_false_iff_not]
  omega

/-! ## Values that the spec gives -/

/-- "Input formats": the E4M3 code 0x7E is 448. -/
theorem test_E4M3 : (decodeElem 1 0x7E).int * 2 ^ ((decodeElem 1 0x7E).exp + 9).toNat = 448 * 2 ^ 9 := by decide +kernel

/-- "The fold": the blocks of 499,712 and −499,712 units of 2^−16 leave −1 with A = 62 and 0 with A = 61, in either order. -/
theorem test_fold :
    (foldEntry {} 62 499712 (-16)).1.acc = 30 ∧ (foldEntry (foldEntry {} 62 499712 (-16)).1 62 (-499712) (-16)).1.acc = -1
    ∧ (foldEntry (foldEntry {} 62 (-499712) (-16)).1 62 499712 (-16)).1.acc = -1 ∧ (foldEntry {} 61 499712 (-16)).1.acc = 61
    ∧ (foldEntry (foldEntry {} 61 499712 (-16)).1 61 (-499712) (-16)) = ({}, false) ∧ (foldEntry {} 62 499712 (-16)).2 = true := by decide +kernel

/-- "Readout": 2^24 + 1 goes to the even significand. -/
theorem test_readout_rounds : (fmtFP32.encode (.fin false 16777217 0)).code = 0x4B800000 ∧ (fmtBF16.encode (.fin false 16777217 0)).code = 0x4B80 := by decide +kernel

/-- "Transcendental functions": the reciprocal of 3.0. -/
theorem test_reciprocal : (transcend 2 (decodeElem 10 0x40400000)).code = 0x3EAAAAAB := by decide +kernel

/-- "Reductions": 1.0, −2^−70 and 2^−70 with A = 0, in two orders. -/
def sumArgs (w : Nat) : VecArgs := { desc := BitVec.ofNat 512 (0x31 + 2 ^ 16 * 0xAA + 2 ^ 384 * 2 + 2 ^ 400 * 2 + 2 ^ 192 * 2 ^ 62), one := [BitVec.ofNat 256 w], two := [], three := [], bank := {} }
theorem test_reduceSum :
    ((sumOf false (sumArgs (0x3F800000 + 2 ^ 32 * 0x9C800000 + 2 ^ 64 * 0x1C800000))).toOption.map (fun o => (o.dest, o.loss))) = some ([0x3F800000], true)
    ∧ ((sumOf false (sumArgs (0x9C800000 + 2 ^ 32 * 0x1C800000 + 2 ^ 64 * 0x3F800000))).toOption.map (fun o => (o.dest, o.loss))) = some ([0x3F800000], true) := by decide +kernel

/-- "The check code": bit 37, and with it bit 200. -/
theorem test_checkCode : encodeWord (2 ^ 37) = ⟨2 ^ 37, 0x0020FFFB⟩ ∧ decodeStored ⟨0, 0x0020FFFB⟩ = .mended (2 ^ 37)
    ∧ decodeStored ⟨2 ^ 200, 0x0020FFFB⟩ = .failing .uncorrectable 0x01201004 := by decide +kernel

/-- "The pack format": the stream 0x96 0x03 of the table with CNT 1, 1, 2. -/
theorem test_codeTable :
    symbolsAt (tableOf ([1, 0, 1, 0, 2, 0] ++ zeros 26 ++ [0x00, 0x01, 0xFF, 0x02])) [0x96, 0x03] 16 5 0 = some ([0x00, 0xFF, 0x01, 0x00, 0x02], 10) := by decide +kernel

/-- "Timing of the matrix engine": E4M3 with scales by MXFP8, M = N = 128 and K = 100: free after 4 · 32 cycles, complete after 5 · 32 + 12. -/
def timedMma : Desc := BitVec.ofNat 512 (1 * 2 ^ 8 + 2 ^ 16 * 0x16 + 2 ^ 128 * 16 + 2 ^ 192 * 17 + 2 ^ 256 * 18 + 2 ^ 320 * 19 + 2 ^ 384 * 99 + 2 ^ 416 * 127 + 2 ^ 424 * 127)
def timedState : State :=
  { parts := [(0, { partState := 1, blockMap := 1, stepState := .running,
                    handles := [(16, BitVec.ofNat 128 (2 ^ 64 * 512 + 2 ^ 112 * 3 + 2 ^ 120)), (17, BitVec.ofNat 128 (512 + 2 ^ 64 * 512 + 2 ^ 112 * 3 + 2 ^ 120)), (18, BitVec.ofNat 128 (1024 + 2 ^ 64 * 16 + 2 ^ 112 * 3 + 2 ^ 120)), (19, BitVec.ofNat 128 (1040 + 2 ^ 64 * 16 + 2 ^ 112 * 3 + 2 ^ 120))] })],
    mem := { cells := [], cleared := [(0, 2 ^ 19)] }, blocks := [(0, { queues := [(0, { descs := [timedMma], delivered := 1, checked := true })] })] }
theorem test_mma_timing :
    (match exec (.mma 0) timedState with
      | .next t => ((t.block 0).matrixFree, (t.block 0).inflight.map Op.doneAt)
      | _ => (0, [])) = (128, [172]) := by decide +kernel

/-- "Timing of the vector engine": a READOUT of 16,384 elements to BF16 with FP32 scale and bias is busy for 64 cycles and complete 16 later. -/
def timedReadout : Desc :=
  BitVec.ofNat 512 (0x20 + 2 ^ 16 * 0xA8 + 2 ^ 128 * (16 + 2 ^ 62) + 2 ^ 256 * 18 + 2 ^ 320 * 19 + 2 ^ 384 * 16383 + 2 ^ 400 * 127)
theorem test_readout_timing : vecBusy timedReadout = 64 ∧ vecLatency timedReadout = (16, 0) := by decide +kernel

/-- "Pages": P = 16 and G = 32 cap a request at 524,288 tokens. -/
theorem test_tokenCap : (({} : State).storeRaw 0x5300 3 [32, 0]).tokenCap 0 = 524288 := by decide +kernel

/-- The hash of no bytes, as FIPS 202 gives it (PRESUMED, log 12). -/
theorem test_sha3 : leNat (sha3 []).reverse =
    0xA69F73CCA23A9AC5C8B567DC185A756E97C982164FE25859E0D1DCC1475C80A615B2123AF1F5F94C11E3E9402C3AC558F500199D95B6D3E301758586281DCD26 := by decide +kernel

/-- 16-bit instructions stand for the 32-bit ones that the RISC-V standard gives (PRESUMED, log 88): c.li, c.addi, c.sdsp, c.ldsp, c.jr, c.addi16sp,
c.addi4spn, c.add, c.mv, c.j (back 16), c.beqz (on 4), and the illegal zero. -/
theorem test_rvExpand :
    [0x4505, 0x1141, 0xE406, 0x60A2, 0x8082, 0x7179, 0x1800, 0x97BA, 0x853E, 0xBFC5, 0xC391, 0].map rvExpand =
      [0x00100513, 0xFF010113, 0x00113423, 0x00813083, 0x00008067, 0xFD010113, 0x03010413, 0x00E787B3, 0x00F00533, 0xFF1FF06F, 0x00078263, 0] := by decide +kernel

/-- An instruction of the routine of partition 0 with a5 = 7, a4 = −2 and a0 the base of its data memory. -/
def rvEnv0 : RvEnv :=
  { pc := 0x10000, len := 4, held := none, bad := fun _ _ => false, mem := fun _ a n => if 0x90000 ≤ a ∧ a + n ≤ 0x93000 then some ((natBytes 8 0x80FF).take n) else none,
    x := fun i => if i = 15 then 7 else if i = 14 then -2 else if i = 10 then 0x90000 else 0, csr := fun _ => none }
def rvGives (r : RvResult) (rd : Nat) (v : BitVec 64) (pc : BitVec 64) (n : Nat) : Bool :=
  match r with
  | .done d => d.rd == rd && d.value == v && d.pc == pc && d.cycles == n && d.store.isNone
  | _ => false
/-- add, sub, mul, div, rem by zero, lb, lh, lwu, a taken and an untaken branch, jal, sraiw and mulhu, with the core cycles of R159; a load outside the
data memory, ebreak and an unassigned encoding fault; and a store takes 2 further cycles (R160). -/
theorem test_rvRun :
    rvGives (rvEnv0.run 0x00E787B3) 15 5 0x10004 1 ∧ rvGives (rvEnv0.run 0x40F707B3) 15 (-9) 0x10004 1 ∧ rvGives (rvEnv0.run 0x02E787B3) 15 (-14) 0x10004 3
    ∧ rvGives (rvEnv0.run 0x02E7C7B3) 15 (-3) 0x10004 34 ∧ rvGives (rvEnv0.run 0x0207E7B3) 15 7 0x10004 34
    ∧ rvGives (rvEnv0.run 0x00050783) 15 (-1) 0x10004 2 ∧ rvGives (rvEnv0.run 0x00051783) 15 (-32513) 0x10004 2
    ∧ rvGives (rvEnv0.run 0x00056783) 15 0x80FF 0x10004 2 ∧ rvGives (rvEnv0.run 0x00F74463) 0 0 0x10008 2 ∧ rvGives (rvEnv0.run 0x00F76463) 0 0 0x10004 1
    ∧ rvGives (rvEnv0.run 0xFF1FF0EF) 1 0x10004 0xFFF0 2 ∧ rvGives (rvEnv0.run 0x4017579B) 15 (-1) 0x10004 1
    ∧ rvGives (rvEnv0.run 0x02E7B7B3) 15 6 0x10004 1
    ∧ rvEnv0.run 0x00003783 = .fault .access ∧ rvEnv0.run 0x00100073 = .fault .ebreak ∧ rvEnv0.run 0 = .fault .illegal ∧ rvEnv0.run 0x0000000B = .extension
    ∧ rvEnv0.run 0x00E52223 = .done { pc := 0x10004, cycles := 3, store := some (0x90004, [0xFE, 0xFF, 0xFF, 0xFF]), reserved := none } := by decide +kernel

/-- The state after reset with port 0 changed. -/
def onPort (f : Port → Port) : State := ({} : State).setPort 0 (f {})

/-- A port whose oldest packet has been decoded. -/
def rxPort (f : Port → Port) : State := { onPort f with now := 1000 }

/-- Town time t. -/
def atTown (t : Nat) (s : State) : State := { s with time := { s.time with central := t * 2 ^ 32 } }

/-- A header (R300) of a type, with a class, a SEQ, a job and a destination. -/
def header (type cls len seq job dst : Nat) : BitVec 256 :=
  setField (setField (setField (setField (setField (setField 0 0 8 type) 13 1 cls) 8 5 len) 16 16 seq) 144 16 job) 128 16 dst

/-- A part of two in X: endpoint 1 at the origin, endpoint 2 beside it, and the job of tag 5 open over both, for partition 0. -/
def fabric : State :=
  ((((((({ jobs := [(0, { state := 1 })] } : State).storeRaw 0x7200 2 (natBytes 2 5)).storeRaw 0x7200 3 [0]).storeRaw 0x7200 4 [0, 0, 0, 2, 1, 1]).storeRaw 0x7000 1 (natBytes 2 1)).storeRaw
    0x7000 2 (natBytes 4 0)).storeRaw 0x7000 3 (natBytes 4 1)).storeRaw 0x7000 4 (natBytes 4 0 ++ natBytes 4 (2 ^ 31) ++ natBytes 4 (2 ^ 31 + 1))

/-- A packet of one word w. -/
def packetOf (h : Heading) (w : Word) : Packet := h.packet [encodeWord w]

/-- A packet waits in the local service buffer. -/
def buffered (q : Queued) : State := fabric.setBuffer 26 [q]

/-- The function PF0 of port 0. -/
def pf0 : FnId := ⟨0, 0⟩

/-- A request of session 1. -/
def message (f : Fields) : List Byte := { f with session := 1 }.bytes none

/-- A command, a write and a read of an object of a type. -/
def order (i u type : Nat) (body : List Byte) : List Byte := message { msg := 3, index := i, sub := u, type := type, body := body }
def change (i u type : Nat) (body : List Byte) : List Byte := message { msg := 2, index := i, sub := u, type := type, body := body }
def look (i u : Nat) : List Byte := message { msg := 1, index := i, sub := u }

/-- An Operator's session over the management port. -/
def operator : Session := { source := .frame 7, role := 1, tenant := 0, key := [] }

/-- A request waits that came in the Operator's session. -/
def asked (l : List Byte) (s : State) : State := { s with cdp := { s.cdp with sessions := [(1, operator)], queue := [(.frame 7, l)] } }

/-- Partition 0 is LIVE, of tenant 0, which is LIVE. -/
def living (x : Part) : State := { parts := [(0, { x with partState := 1 })], tenants := [(0, { state := 1 })] }

/-- A firmware image, a slot that holds it, and a card whose slot A does and is the active one. -/
def image0 : FirmwareImage := { formatOk := true, svn := 0, version := 1, header := [], vendorPk := [], sig := [], body := [] }
def slot0With (x : Option FirmwareImage) : CardSlot := { state := if x.isSome then .valid else .empty, image := x, writing := [], digest := [] }
def card0 : CardImage :=
  { generation := 1, active := 0, slotA := slot0With (some image0), slotB := slot0With none, options := [],
    store := { generation := 1, retired := [], repaired := [], values := [] } }

/-- The same in a Vendor's session. -/
def vendorAsked (l : List Byte) (s : State) : State := { s with cdp := { s.cdp with sessions := [(1, { operator with role := 4 })], queue := [(.frame 7, l)] } }

/-- An OPEN_REQ of the Operator's role, and PF0's request to open it. -/
def openReq0 : List Byte := [1#8, 0xFF#8] ++ zeros 1602
def unopened : State :=
  { cdp := { openReqs := [(.mailbox pf0, openReq0)], queue := [(.mailbox pf0, ({ msg := 3, index := 0xC020, sub := 1, type := 9, body := [1] } : Fields).bytes none)] } }

/-- A key for slot 5 of tenant 3, wrapped as R280 says: the head, an ML-KEM ciphertext, the key under the first mask, and the tag. -/
def keyHead : List Byte := [5#8, 0#8, 3#8, 1#8]
def keyShared : List Byte := mlKemDecaps 1 (zeros 1568)
def keyMask : List Byte := kmac256 keyShared keyHead 512 (ascii "CAETH-KW-E")
def keyPlain : List Byte := List.replicate 32 0#8 ++ List.replicate 32 1#8
def keyWrapped : List Byte := xorBytes keyPlain keyMask
def keyTag : List Byte := kmac256 keyShared (keyHead ++ zeros 1568 ++ keyWrapped) 256 (ascii "CAETH-KW-T")
def keyValue : List Byte := keyHead ++ (zeros 1568 ++ (keyWrapped ++ keyTag))
def keyChunk : List Byte := message { msg := 5, index := 0x4103, sub := 6, type := 15, flags := 1, offset := 1668 }
def keyStaged : State :=
  { cdp := { sessions := [(1, { operator with staging := some { key := objKey 0x4103 6, bytes := keyValue, at_ := 0 } })], queue := [(.frame 7, keyChunk)] } }

theorem natBytes_length : ∀ n v : Nat, (natBytes n v).length = n
  | 0, _ => rfl
  | n + 1, v => by simp [natBytes, natBytes_length n]

theorem sponge_length (r d : Nat) (m : List Byte) (n : Nat) (h : n ≤ 200) : (sponge r d m n).length = n := by
  have : ((List.range 25).flatMap (fun i => natBytes 8 (lane (absorbAll r ((keccakPad r d m).length / r) (List.replicate 25 0) (keccakPad r d m)) i))).length = 200 := by
    rw [List.length_flatMap]
    simp only [natBytes_length]
    decide
  simp only [sponge]
  rw [List.length_take, this]
  omega

/-- The four parts of a wrapped key, cut out of it again. -/
theorem cut_parts (h c e t : List Byte) : (h ++ (c ++ (e ++ t))).take h.length = h ∧ slice (h ++ (c ++ (e ++ t))) h.length c.length = c
    ∧ slice (h ++ (c ++ (e ++ t))) (h.length + c.length) e.length = e ∧ slice (h ++ (c ++ (e ++ t))) (h.length + c.length + e.length) t.length = t := by
  refine ⟨by simp, by simp [slice], ?_, ?_⟩
  · rw [slice, ← List.append_assoc, List.drop_left' (by simp)]
    simp
  · rw [slice, ← List.append_assoc, ← List.append_assoc, List.drop_left' (by simp; omega)]
    simp

theorem xorBytes_twice : ∀ (l k : List Byte), l.length = k.length → xorBytes (xorBytes l k) k = l
  | [], [], _ => rfl
  | x :: l, y :: k, h => by
    have := xorBytes_twice l k (by simpa using h)
    simp only [xorBytes, List.zipWith_cons_cons] at this ⊢
    rw [this, BitVec.xor_assoc, BitVec.xor_self, BitVec.xor_zero]

theorem keyMask_length : keyMask.length = 64 := sponge_length _ _ _ _ (by decide)
theorem keyTag_length : keyTag.length = 32 := sponge_length _ _ _ _ (by decide)
theorem keyCipher_length : (zeros 1568).length = 1568 := List.length_replicate
theorem keyWrapped_length : keyWrapped.length = 64 := by
  rw [keyWrapped, xorBytes, List.length_zipWith, keyMask_length]; rfl
theorem keyValue_parts : keyValue.length = 1668 ∧ keyValue.take 4 = keyHead ∧ slice keyValue 4 1568 = zeros 1568 ∧ slice keyValue 1572 64 = keyWrapped ∧ slice keyValue 1636 32 = keyTag := by
  obtain ⟨a, b, c, d⟩ := cut_parts keyHead (zeros 1568) keyWrapped keyTag
  rw [keyCipher_length] at b c d
  rw [keyWrapped_length] at c d
  rw [keyTag_length] at d
  refine ⟨?_, a, b, c, d⟩
  rw [keyValue, List.length_append, List.length_append, List.length_append, keyCipher_length, keyWrapped_length, keyTag_length]
  rfl

def keyState : State := (Taken keyStaged []).setStaging (.frame 7) 1 none
def keyAsk : Ask :=
  { (Taken keyStaged []).askOf (.frame 7) keyChunk with
    value := (((Taken keyStaged []).stagingOf (.frame 7) (cSession keyChunk)).map Staging.bytes).getD [] ++ cBody keyChunk }
theorem keyAsk_value : keyAsk.value = keyValue := by
  have h1 : ((Taken keyStaged []).stagingOf (.frame 7) (cSession keyChunk)).map Staging.bytes = some keyValue := rfl
  have h2 : cBody keyChunk = [] := by decide +kernel
  simp only [keyAsk, h1, h2, Option.getD_some, List.append_nil]
theorem keyLoad_holds : Completed keyStaged (.frame 7) keyChunk [] 0x4103 6 keyState keyAsk
    ∧ slice keyAsk.value 1636 32 = kmac256 (mlKemDecaps keyState.start.starts (slice keyAsk.value 4 1568)) (keyAsk.value.take 4 ++ slice keyAsk.value 4 1568 ++ slice keyAsk.value 1572 64) 256 (ascii "CAETH-KW-T")
    ∧ (keyState.key (leAt keyAsk.value 0 2)).valid = false
    ∧ keyPlain = xorBytes (slice keyAsk.value 1572 64) (kmac256 (mlKemDecaps keyState.start.starts (slice keyAsk.value 4 1568)) (keyAsk.value.take 4) 512 (ascii "CAETH-KW-E"))
    ∧ keyPlain.take 32 ≠ keyPlain.drop 32
    ∧ 1 ≤ leAt keyAsk.value 0 2 ∧ leAt keyAsk.value 0 2 ≤ 4095 ∧ leAt keyAsk.value 2 1 = 3 ∧ leAt keyAsk.value 3 1 = 1 := by
  obtain ⟨hl, h4, hc, he, ht⟩ := keyValue_parts
  have hi : leAt keyValue 0 2 = 5 ∧ leAt keyValue 2 1 = 3 ∧ leAt keyValue 3 1 = 1 := ⟨rfl, rfl, rfl⟩
  have hb : ((((Taken keyStaged []).stagingOf (.frame 7) (cSession keyChunk)).map Staging.bytes).getD []).length = 1668 := hl
  refine ⟨⟨by decide +kernel, by decide +kernel, rfl, by decide +kernel, by decide +kernel, ⟨by decide +kernel, by decide +kernel, by decide +kernel⟩, ⟨rfl, rfl, ?_, ?_⟩, ?_, by decide +kernel, by decide +kernel, by decide +kernel⟩, ?_, ?_, ?_, by decide, ?_⟩
  · rw [hb]; decide +kernel
  · rw [keyAsk_value, hl]; decide
  · rw [keyAsk_value, hl]; decide +kernel
  · rw [keyAsk_value, h4, hc, he, ht]; rfl
  · rw [keyAsk_value, hi.1]; decide +kernel
  · rw [keyAsk_value, h4, hc, he]; exact (xorBytes_twice keyPlain keyMask (by rw [keyMask_length]; rfl)).symm
  · rw [keyAsk_value, hi.1, hi.2.1, hi.2.2]; decide

/-- The tag that a message carries is the one computed over what stands before it. -/
theorem tag_holds (k c : List Byte) : tagHolds (some k) (c ++ cdpTag k c) = true := by
  have h : (cdpTag k c).length = 32 := sponge_length _ _ _ _ (by decide)
  have h1 : (c ++ cdpTag k c).length - 32 = c.length := by rw [List.length_append, h]; omega
  simp only [tagHolds, cTag, h1, List.take_left', List.drop_left']
  simp

/-- A tagged request of session 1. -/
def tagCover : List Byte := (look 0x3000 4).take 32
def tagged : List Byte := tagCover ++ cdpTag [] tagCover

/-- What a result holds, or a default. -/
def okOf {ε α : Type} (x : Except ε α) (d : α) : α :=
  match x with
  | .ok v => v
  | .error _ => d
def isOk {ε α : Type} (x : Except ε α) : Bool :=
  match x with
  | .ok _ => true
  | .error _ => false
theorem eq_okOf {ε α : Type} (x : Except ε α) (d : α) (h : isOk x = true) : x = .ok (okOf x d) := by
  cases x <;> simp_all [isOk, okOf]
theorem eq_ok {ε α : Type} (x : Except ε α) (v : α) (h : x.toOption = some v) : x = .ok v := by
  cases x <;> simp_all [Except.toOption]

/-- A DATA packet of job 5 for handle 1, its first and last. -/
def dataPacket : Packet := packetOf { type := 0x10, dst := 1, src := 2, job := 5, handle := 1, flags := 3 } 0

/-- A collective of job 5 over FP32 maxima of one element, in X, and a packet of one of its waves. -/
def waveHeader : Word := BitVec.ofNat 256 (10 * 2 ^ 56)
def waveOf : Coll := { part := 0, block := 0, job := 5, op := 1, seq := 9, flow := 5, count := 1, dst := 0, dims := [0], header := waveHeader, elems := [0] }
def wave (type rtag flags : Nat) (w : Word) : Packet := packetOf { type := type, dst := 1, src := 2, job := 5, rtag := rtag, handle := 9, flags := flags } w
def collective (x : Nat) (c : Coll) (p : Packet) : State :=
  { fabric.storeRaw 0x7000 2 (natBytes 4 x) with parts := [(0, { partState := 1, stepState := .running })], colls := [(3, c)], arrived := [(6, p)] }

/-- Partition 0 mirrors endpoint 2 in an area of four words, and a checkpoint is open. -/
def mirror : State :=
  (({ parts := [(0, { partState := 1, mirrorOpen := true })] } : State).storeRaw 0x4000 0x14 (natBytes 4 2)).storeRaw 0x4000 0x15 (natBytes 8 (2 ^ 54) ++ natBytes 8 128)
def mirrorKey : State := ({ mirror with keys := [(1, { valid := true, tenant := 0 })] } : State).storeRaw 0x4100 5 [1, 0]
def waveTaken (x : Nat) (c : Coll) : State :=
  ({ fabric.storeRaw 0x7000 2 (natBytes 4 x) with parts := [(0, { partState := 1, stepState := .running })], colls := [(3, c)] } : State).count 0x9800 0x0B 1

/-- A TIMESTAMP of link session 0xFFFF under an empty key, as it came on port 0, whose record is of the partner of a port after reset and names stamps of 0. -/
def stampCover : List Byte :=
  (({ msg := 6, session := 0xFFFF, sub := 2, body := natBytes 32 0xFFFFFF00 } : Fields).bytes none).take 64
def stampTag : List Byte :=
  [0x27#8, 0x1f#8, 0x4e#8, 0x9b#8, 0xc4#8, 0x8a#8, 0x4e#8, 0xfc#8, 0x1c#8, 0xe4#8, 0x51#8, 0xa9#8, 0x74#8, 0x5e#8, 0xb8#8, 0x8b#8, 0x2b#8, 0x24#8, 0x63#8, 0xfd#8, 0x0a#8, 0xb9#8, 0x46#8, 0x01#8, 0x26#8, 0xcc#8, 0xc6#8, 0x80#8, 0xf2#8, 0x4e#8, 0xf6#8, 0x47#8]
def stampPacket : Nat × Packet := (0, ({ type := 0x2C, dst := 0, src := 0 } : Heading).packet ((bytesWords 3 (stampCover ++ stampTag)).map encodeWord))
def stamped (n : Nat) : State :=
  { (onPort (fun x => { x with txStamp := some (0, 0), rxStamp := some (0, 0) })).storeRaw 0x3000 3 [BitVec.ofNat 8 n] with
    arrived := [stampPacket], cdp := { links := [(0, [])] } }
theorem stampTag_holds : cdpTag [] stampCover = stampTag := by decide +kernel
theorem stamped_isStamp (n : Nat) : (stamped n).isStamp stampPacket = true := by
  have h1 : stampPacket.2.message = some (stampCover ++ stampTag) := by decide +kernel
  have h2 : cLengthOk (stampCover ++ stampTag) = true ∧ cVersion (stampCover ++ stampTag) = 1 ∧ cMsg (stampCover ++ stampTag) = 6
      ∧ cSub (stampCover ++ stampTag) = 2 ∧ cBlen (stampCover ++ stampTag) = 32 := by decide +kernel
  have h3 : (stamped n).cdp.links.find? stampPacket.1 = some [] := rfl
  simp only [State.isStamp, h1, State.goodStamp, h3, h2]
  rw [← stampTag_holds, tag_holds]
  rfl

/-- Queue pair 0 is in RTS, on port 0. -/
def rts : State := ({} : State).storeRaw 0x8400 1 [1]

/-- What stands at the pins at a start, with straps. -/
def pins (straps : Nat) (refs : Bool) : StartEnv := ⟨BitVec.ofNat 32 straps, refs, [], [], [], [], 0⟩
def starting : State := { mode := .starting, start := { coldDue := true } }

/-- A part FROZEN that may be debugged. -/
def frozen0 : State := ({ mode := .frozen, freeze := { state := 2 } } : State).storeRaw 0xB100 7 [1]

/-- A handle over n words of block memory 0 from word w, or of tier 1 (R177), readable and writable. -/
def buffer (w n : Nat) : BitVec 128 := BitVec.ofNat 128 (w + 2 ^ 64 * n + 2 ^ 112 * 3 + 2 ^ 120)
def tierBuffer (w n : Nat) : BitVec 128 := BitVec.ofNat 128 (2 ^ 54 + 32 * w + 2 ^ 64 * n + 2 ^ 112 * 3 + 2 ^ 120 * 2)
def portBuffer (n : Nat) : BitVec 128 := BitVec.ofNat 128 (2 ^ 55 + 2 ^ 64 * n + 2 ^ 112 * 3 + 2 ^ 120 * 2)

/-- A descriptor of an opcode, a variant and a format, whose operands are the whole of handles 16 to 19 with layout 4, and with more bits. -/
def descOf (op var fmt : Nat) (operands more : Nat) : Desc :=
  BitVec.ofNat 512 (op + 2 ^ 8 * var + 2 ^ 16 * fmt + ((List.range operands).map (fun i => 2 ^ (128 + 64 * i) * (16 + i + 2 ^ 62))).sum + more)

/-- Partition 0 runs a step over block 0, whose memory was cleared, and the heads of its queues are these. -/
def issuing (qs : Table Desc) : State :=
  { parts := [(0, { partState := 1, blockMap := 1, stepState := .running, handles := [(16, buffer 0 16), (17, buffer 16 16), (18, buffer 32 16), (19, buffer 48 16), (20, tierBuffer 0 65536), (21, buffer 64 256), (22, portBuffer 65536)] })],
    mem := { cells := [0, 16, 32, 48].map (fun a => (a, encodeWord (2 ^ 56))), cleared := [(0, 2 ^ 19)] },
    blocks := [(0, { queues := qs.mapVals (fun _ d => { descs := [d], delivered := 1, checked := true }), bank0 := { started := true } })] }
def issue1 (q : Nat) (d : Desc) : State := issuing [(q, d)]

/-- The descriptors of the rows of the vector commands: the opcode, the VARIANT, and the subcode in byte 52; FP32 in and out. -/
def vectorDescs : List Desc :=
  ([(0x20, 0, 0), (0x21, 0, 0), (0x22, 0, 0), (0x24, 0, 0), (0x28, 0, 0), (0x29, 0, 0), (0x2A, 0, 0), (0x2B, 0, 0), (0x2C, 0, 0), (0x2D, 0, 0),
    (0x30, 0, 0), (0x30, 0, 1), (0x30, 0, 2), (0x30, 0, 3), (0x30, 0, 4), (0x31, 0, 0), (0x31, 0, 1), (0x31, 0, 2), (0x31, 0, 3), (0x31, 0, 4),
    (0x31, 0, 5), (0x32, 0, 0), (0x33, 0, 0), (0x38, 0, 0), (0x38, 16, 0)] : List (Nat × Nat × Nat)).map (fun (o, v, k) => descOf o v 0xAA (if o = 0x20 then 1 else 4) (2 ^ 416 * k))
def vectorIssues (i : Nat) : Bool :=
  let d := vectorDescs.getD i 0
  let s := issue1 1 d
  match vectorRows[i]? with
  | none => false
  | some r =>
    let o := r.2.2 (vectorArgs s 0 0 d)
    decide (Ready s 0 1 0 d (overlapCauses d)) && r.2.1 d && (!(readsBank d).isSome || ((s.block 0).bank (bankBit d)).started) && (vectorRead s 0 d).failed.isNone
      && isOk o && !((okOf o { dest := [] }).policy && s.accFail 0)
      && ((readsBank d).isNone || (s.flawRun (s.accFlaws 0 (bankBit d) (vecRows d) (vecRow d))).2.isNone)

/-- Every vector command issues somewhere. -/
theorem test_vectorRows_issue : vectorRows.length = 25 ∧ (List.range 25).all vectorIssues = true := by
  constructor
  · rfl
  · decide +kernel
theorem vectorRow_issues (i : Nat) (h : i < 25) : ∃ r d o, r ∈ vectorRows ∧ VectorIssues r 0 (issue1 1 d) 0 d o := by
  have h1 := List.all_eq_true.mp test_vectorRows_issue.2 i (by simpa using h)
  have h2 : i < vectorRows.length := by rw [test_vectorRows_issue.1]; exact h
  simp only [vectorIssues, List.getElem?_eq_getElem h2, Bool.and_eq_true, decide_eq_true_eq] at h1
  obtain ⟨⟨⟨⟨⟨⟨a, b⟩, c⟩, e⟩, f⟩, g⟩, k⟩ := h1
  refine ⟨vectorRows[i], vectorDescs.getD i 0, _, List.getElem_mem h2, a, b, ?_, by simpa using e, ?_, eq_okOf _ { dest := [] } f, by rw [← Bool.not_eq_true']; exact g⟩
  · rcases Bool.or_eq_true _ _ ▸ c with c | c
    · exact .inl (by simpa using c)
    · exact .inr c
  · rcases Bool.or_eq_true _ _ ▸ k with k | k
    · exact .inl (by simpa using k)
    · exact .inr (by simpa using k)

/-- A descriptor of an opcode over the handles given, and one with the key 1 (R191). -/
def descFor (op : Nat) (hs : List Nat) (more : Nat) : Desc :=
  BitVec.ofNat 512 (op + (hs.zipIdx.map (fun (h, i) => 2 ^ (128 + 64 * i) * h)).sum + more)
def descKey (op : Nat) (hs : List Nat) : Desc := descFor op hs (2 ^ 480)

/-- The step issues from queue q, with key 1 of tenant 0 valid, and with the job of `fabric` open. -/
def issueKey (q : Nat) (d : Desc) : State := { issue1 q d with keys := [(1, { valid := true, tenant := 0 })] }
def issueJob (q : Nat) (d : Desc) : State := { fabric with parts := (issue1 q d).parts, mem := (issue1 q d).mem, blocks := (issue1 q d).blocks }

/-- An operation in flight since cycle 0 and due, and the part of `issuing` with it in block 0. -/
def opOf (q : Nat) (d : Desc) (w : Work) : Op := { id := 1, queue := q, desc := d, start := 0, doneAt := 0, work := w }
def inFlight (o : Op) : State := (issuing []).setBlock 0 { inflight := [o] }

/-- A weight stream of a pack of one stored block of one byte, whose words have all come, and a vector operation whose record waits for a place. -/
def packed : StreamState := { words := [(0, BitVec.ofNat 256 (0xCAE75700 + 2 ^ 32 + 2 ^ 64)), (1, 2 ^ 30 + 1), (2, 0)], asked := 3, come := 3, stage := 2 }
def held : Op := { opOf 1 (descFor 0x28 [16, 17] (2 ^ 112 * 0xFFF)) (.vector [] (some 0)) with heldRecord := true }

/-- Partition 0 runs the only segment of a plan of one block, with what follows it, for a ticket of core 0. -/
def ticket0 : Ticket := { desc := 0, src := .core 0 }
def segment0 (next : Nat) : Segment := { entry := 0, length := 0, next := next, choices := [], fixed := 0, streams := [] }
def plan0 (next : Nat) : Plan := { digest := [], profile := 1, blocks := 1, segments := [segment0 next], flags := [], hbm := [] }
def onPart (f : Part → Part) (s : State) : State := { s with parts := s.parts.mapVals (fun _ => f) }
def planned (next : Nat) (s : State) : State := onPart (fun x => { x with running := some ticket0, plans := [(0, plan0 next)] }) s
/-- The partition is frozen, or waits to join, and the job of `fabric` has a barrier instance. -/
def stopped (c : HoldCause) (d : Desc) : State := onPart (fun x => { x with freeze := some { holds := [⟨c, 0, 3⟩], since := 0, lcycle := 0, done := true, waitLen := 2 ^ 40 } }) (issue1 3 d)
def waiting0 (s : State) : State := onPart (fun x => { x with stepState := .waiting, tickets := [ticket0] }) s
def barrier0 (v : Barrier) : State := { (issueJob 3 0 |> waiting0 |> onPart (fun x => { x with joined := true })) with jobs := [(0, { state := 1, barriers := [v] })] }
def nopDesc : Desc := descFor 0x80 [] (2 ^ 496 * 49189)

/-- Core 0 processes an entry of the firmware, and the partition of `issuing` is IDLE, with the plan and the wire key 1 of tenant 0; port 0 is fast. -/
def sealed (d : Desc) : Desc := d ||| BitVec.ofNat 512 (2 ^ 496 * crc16 (descBody d))
def entry0 (k more : Nat) : Desc := sealed (descFor k [] more)
def idle0 (d : Desc) : State :=
  { (((planned 0 (issuing [])).storeRaw 0x4100 5 [1, 0]) |> onPart (fun x => { x with stepState := .idle, running := none })) with
    cores := [(0, { current := some (none, d) })], keys := [(1, { valid := true, tenant := 0 })], pcie := [(0, { up := true, rate := 32, width := 16 })] }
def ring0 (f : Fn → Fn) : State := { (({} : State).setFn pf0 (f { enable := true })) with pcie := [(0, { up := true, rate := 32, width := 16 })] }

/-- A plan image (R125 to R127) of one segment of no length that ends the step, over one block, with no descriptor and empty calendars. -/
def imageHead : List Byte :=
  natBytes 4 0xCAE7D150 ++ natBytes 2 1 ++ natBytes 1 1 ++ natBytes 1 (({} : State).objNat 0x1000 3) ++ natBytes 2 1 ++ natBytes 2 0 ++ natBytes 4 1
    ++ natBytes 8 256 ++ natBytes 8 256 ++ natBytes 8 320 ++ natBytes 8 288 ++ zeros 80
def imageShort : List Byte := zeros 64 ++ (natBytes 16 0 ++ natBytes 8 288 ++ zeros 40)
def imageRest : List Byte := imageShort ++ zeros 11528
def imageSum : List Byte := sha3 (imageHead ++ zeros 64 ++ imageRest)
def image1 : List Byte := imageHead ++ (imageSum ++ imageRest)
theorem imageHead_length : imageHead.length = 128 := by decide +kernel
theorem imageShort_length : imageShort.length = 128 := by decide +kernel
theorem imageSum_length : imageSum.length = 64 := sponge_length _ _ _ _ (by decide)
theorem imageRest_length : imageRest.length = 11656 := by rw [imageRest, List.length_append, imageShort_length, zeros, List.length_replicate]
theorem image1_length : image1.length = 11848 := by
  rw [image1, List.length_append, List.length_append, imageHead_length, imageSum_length, imageRest_length]

theorem slice_low (a n : Nat) (h : a + n ≤ 128) : slice image1 a n = slice imageHead a n := by
  rw [slice, slice, image1, List.drop_append_of_le_length (by rw [imageHead_length]; omega), List.take_append_of_le_length (by rw [List.length_drop, imageHead_length]; omega)]
theorem drop_high (a : Nat) (h : 192 ≤ a) : image1.drop a = imageRest.drop (a - 192) := by
  rw [image1, ← List.append_assoc, List.drop_append, List.length_append, imageHead_length, imageSum_length,
    List.drop_eq_nil_of_le (by rw [List.length_append, imageHead_length, imageSum_length]; omega), List.nil_append]
theorem slice_mid (a n : Nat) (h : 192 ≤ a) (h' : a + n ≤ 320) : slice image1 a n = slice imageShort (a - 192) n := by
  rw [slice, slice, drop_high a h, imageRest, List.drop_append_of_le_length (by rw [imageShort_length]; omega),
    List.take_append_of_le_length (by rw [List.length_drop, imageShort_length]; omega)]
theorem slice_zeros (k a n : Nat) : ∃ m, slice (zeros k) a n = zeros m :=
  ⟨min n (k - a), by simp only [slice, zeros, List.drop_replicate, List.take_replicate]⟩
theorem slice_tail (a n : Nat) (h : 320 ≤ a) : ∃ m, slice image1 a n = zeros m := by
  rw [slice, drop_high a (by omega), imageRest, List.drop_append, List.drop_eq_nil_of_le (by rw [imageShort_length]; omega), List.nil_append]
  exact slice_zeros _ _ _
theorem leNat_zeros : ∀ n : Nat, leNat (zeros n) = 0
  | 0 => rfl
  | n + 1 => by
    have := leNat_zeros n
    simp only [zeros, List.replicate_succ, leNat] at *
    simp [this]
theorem i16_zeros (n a : Nat) : i16 (zeros n) a = 0 := by
  obtain ⟨m, h⟩ := slice_zeros n a 2
  rw [i16, leAt, h, leNat_zeros]
theorem i32_tail (a : Nat) (h : 320 ≤ a) : i32 image1 a = 0 := by
  obtain ⟨m, h⟩ := slice_tail a 4 h
  rw [i32, leAt, h, leNat_zeros]
theorem zeroBytes_tail (a n : Nat) (h : 320 ≤ a) : zeroBytes image1 a n = true := by
  obtain ⟨m, h⟩ := slice_tail a n h
  rw [zeroBytes, h]
  simp [zeros]
/-- A number in the head, and one between the digest and the calendars. -/
theorem leAt_low (a n : Nat) (h : a + n ≤ 128) : leAt image1 a n = leAt imageHead a n := by rw [leAt, leAt, slice_low a n h]
theorem leAt_mid (a n : Nat) (h : 192 ≤ a) (h' : a + n ≤ 320) : leAt image1 a n = leAt imageShort (a - 192) n := by rw [leAt, leAt, slice_mid a n h h']

theorem image1_numbers : imSegments image1 = 1 ∧ imFlags image1 = 0 ∧ imBlocks image1 = 1 ∧ imSegTable image1 = 256 ∧ imFlagTable image1 = 256 ∧ imCalendars image1 = 320
    ∧ imStreams image1 = 288 := by
  simp only [imSegments, imFlags, imBlocks, imSegTable, imFlagTable, imCalendars, imStreams, i16, i32, i64]
  rw [leAt_low 8 2 (by decide), leAt_low 10 2 (by decide), leAt_low 12 4 (by decide), leAt_low 16 8 (by decide), leAt_low 24 8 (by decide), leAt_low 32 8 (by decide),
    leAt_low 40 8 (by decide)]
  decide +kernel
theorem image1_npc : imNpc image1 = 0 := by rw [imNpc, image1_numbers.2.2.2.2.2.1, i32_tail 320 (by decide)]
theorem image1_digest : imageDigest image1 = slice image1 128 64 := by
  have h : image1.take 128 = imageHead := by rw [image1, List.take_left' imageHead_length]
  have h1 : image1.drop 192 = imageRest := by rw [drop_high 192 (by decide)]; rfl
  have h2 : slice image1 128 64 = imageSum := by rw [slice, image1, List.drop_left' imageHead_length, List.take_left' imageSum_length]
  rw [imageDigest, h, h1, h2, imageSum]
theorem image1_header : headerOk image1 (({} : State).objNat 0x1000 3) 1 = true := by
  obtain ⟨a, b, c, d, e, f, g⟩ := image1_numbers
  simp only [headerOk, a, b, c, d, e, f, g, image1_npc, image1_length, zeroBytes, i16, i32]
  rw [leAt_low 0 4 (by decide), leAt_low 4 2 (by decide), leAt_low 7 1 (by decide), slice_low 48 80 (by decide), slice_mid 192 64 (by decide) (by decide)]
  decide +kernel
theorem image1_segment : segBytes image1 0 = slice imageShort 64 32 := by
  rw [segBytes, image1_numbers.2.2.2.1, slice_mid _ _ (by decide) (by decide)]
theorem image1_stream (k : Nat) (h : k < 4) : i32 image1 (288 + 8 * k) = 0 ∧ i32 image1 (288 + 8 * k + 4) = 0 := by
  constructor
  · rw [i32, leAt_mid _ _ (by omega) (by omega)]
    revert k; decide +kernel
  · rw [i32, leAt_mid _ _ (by omega) (by omega)]
    revert k; decide +kernel
theorem image1_segOk : segOk image1 0 = true := by
  have h1 : i64 (slice imageShort 64 32) 16 = 288 := by decide +kernel
  have h2 : leAt (slice imageShort 64 32) 8 1 = 0 := by decide +kernel
  simp only [segOk, image1_segment, h1, segNext, h2, image1_numbers.2.2.1, image1_length]
  have h3 : (List.range (4 * 1)).all (fun k => decide (i32 image1 (288 + 8 * k) + 64 * i32 image1 (288 + 8 * k + 4) ≤ 11848)) = true := by
    rw [List.all_eq_true]
    intro k hk
    have hk : k < 4 := by simpa using hk
    rw [(image1_stream k hk).1, (image1_stream k hk).2]
    decide
  rw [h3]
  decide +kernel
theorem image1_descs : imageDescs image1 = [] := by
  have h1 : i64 (slice imageShort 64 32) 16 = 288 := by decide +kernel
  have h2 : ∀ k, k < 4 → segStream image1 0 k = [] := by
    intro k hk
    rw [segStream, image1_segment, h1]
    simp only [(image1_stream k hk).2, List.range_zero, List.map_nil]
  simp only [imageDescs, image1_numbers.1, image1_numbers.2.2.1, List.range_succ, List.range_zero, List.nil_append, List.flatMap_append, List.flatMap_cons, List.flatMap_nil,
    List.append_nil]
  simp [List.range_succ, h2]
theorem image1_streams (k : Nat) (h : k < 4) : segStream image1 0 k = [] := by
  have h1 : i64 (slice imageShort 64 32) 16 = 288 := by decide +kernel
  rw [segStream, image1_segment, h1]
  simp only [(image1_stream k h).2, List.range_zero, List.map_nil]
theorem image1_calendars (s : State) : s.calendarsOk 0 image1 = true ↔ ∀ n, n < 6 → s.avenueFree 0 n (avenueRecord image1 n) = true := by
  have h : ∀ n, avenueOk (avenueRecord image1 n) = true := by
    intro n
    obtain ⟨m, hm⟩ := slice_tail (imCalendars image1 + 8 + 256 * imNpc image1 + 1920 * n) 1920 (by rw [image1_numbers.2.2.2.2.2.1]; omega)
    rw [avenueRecord, hm, avenueOk, List.all_eq_true]
    intro k _
    simp [avenueEntry, i16_zeros]
  simp only [State.calendarsOk, image1_npc, image1_numbers.2.2.2.2.2.1, zeroBytes_tail 324 4 (by decide), h]
  simp
def loadEntry : Desc := entry0 2 (2 ^ 296 + 2 ^ 336 * 11848)
theorem load_holds : (idle0 loadEntry).entryOf (.core 0) 2 = some loadEntry ∧ (dLength loadEntry ≤ image1.length ∧ (idle0 loadEntry).portFast (srcPort (.core 0)) = true)
    ∧ ((idle0 loadEntry).mayRun ((idle0 loadEntry).judge (.core 0)) (dPart loadEntry) = true ∧ ((idle0 loadEntry).part (dPart loadEntry)).plans.find? (dSlot loadEntry) = none)
    ∧ (idle0 loadEntry).imageCause (dPart loadEntry) (image1.take (dLength loadEntry)) = none := by
  have ht : dLength loadEntry = image1.length := by rw [image1_length]; decide +kernel
  rw [ht, List.take_length]
  refine ⟨by decide +kernel, ⟨Nat.le_refl _, by decide +kernel⟩, by decide +kernel, ?_⟩
  have h0 : dPart loadEntry = 0 := by decide +kernel
  have h1 : (idle0 loadEntry).calendarsOk 0 image1 = true := by
    rw [image1_calendars]
    intro n _
    simp [State.avenueFree, idle0, planned, onPart, issuing, State.storeRaw, Table.mapVals]
  have h2 : (({ (idle0 loadEntry) with pending := [] } : State).objNat 0x1000 3) = ({} : State).objNat 0x1000 3 := by decide +kernel
  have h3 : (mapBlocks ((idle0 loadEntry).part 0).blockMap).length = 1 := by decide +kernel
  have h4 : ((((idle0 loadEntry).part 0).plans.map (fun e => e.2.size)).foldl (· + ·) 0) = 0 := by decide +kernel
  have h5 : (idle0 loadEntry).profileOk (leAt image1 6 1) = true := by rw [leAt_low 6 1 (by decide)]; decide +kernel
  have h6 : (idle0 loadEntry).objNat 0x1000 3 = ({} : State).objNat 0x1000 3 := h2
  have h7 : (List.range (imSegments image1)).all (segOk image1) = true := by rw [image1_numbers.1]; simp [List.range_succ, image1_segOk]
  have h8 : (List.range (imFlags image1)).all (flagOk image1) = true := by rw [image1_numbers.2.1]; rfl
  have h9 : (List.range (imSegments image1)).all (fun i => (List.range (4 * imBlocks image1)).all (fun k =>
      stampsOk (i32 (segBytes image1 i) 0) (segZ (segBytes image1 i)) (segStream image1 i k))) = true := by
    rw [image1_numbers.1, image1_numbers.2.2.1, List.all_eq_true]
    intro i hi
    have hi : i = 0 := by simpa using hi
    rw [List.all_eq_true]
    intro k hk
    rw [hi, image1_streams k (by simpa using hk)]
    rfl
  rw [h0]
  simp only [State.imageCause, h1, h3, h4, h5, h6, h7, h8, h9, image1_length, image1_digest, image1_header, image1_descs]
  simp

/-- Partition 0 serves tenant 0: one pseudo-channel with four pool frames, four kerb frames in tier 2, key 1 of the tenant, an allocation in tier 1 and clear memory; its requests
are these. Core 0 processes a REQUEST. -/
def serving0 (rs : Table Request) (x : State) : State :=
  (((((((((({ x with
    requests := rs, keys := [(1, { valid := true, tenant := 0 })], mem := { cells := [], cleared := [(0, 2 ^ 52)] },
    allocs := [(0, { state := 1, partition := 0, tenant := 0, size := 2 ^ 20, base := 2 ^ 54 })] } : State).storeRaw 0x5300 5 [1]).storeRaw 0x5300 7 (natBytes 4 4)).storeRaw
    0x5300 1 (natBytes 2 1)).storeRaw 0x5300 8 (natBytes 4 4)).storeRaw 0x5100 6 (natBytes 8 (2 ^ 55))).storeRaw 0x5100 7 (natBytes 4 4)).storeRaw 0x5100 10 [0]).storeRaw
    0x4100 4 [1, 0]).storeRaw 0x4100 5 [1, 0]).storeRaw 0x6100 1 [0] |>.storeRaw 0x8020 1 [1]
def request0 (op more : Nat) : Desc := entry0 0x10 (2 ^ 184 * op + more)
def requesting (rs : Table Request) (d : Desc) : State := serving0 rs (idle0 d)

/-- The entries of a table so full that one is parked. -/
def kerbed0 (i : Nat) : Nat × Request := (i, { state := .kerbed })
def full (n : Nat) : State := { requests := (List.range n).map kerbed0 }
theorem leastBy_some (f : Nat × Request → Nat) : ∀ l, l ≠ [] → ∃ e ∈ l, leastBy f l = some e
  | [], h => (h rfl).elim
  | [e], _ => ⟨e, List.mem_cons_self .., rfl⟩
  | e :: g :: t, _ => by
    obtain ⟨x, hm, hx⟩ := leastBy_some f (g :: t) (by simp)
    rw [leastBy, hx]
    by_cases h : f e ≤ f x
    · exact ⟨e, List.mem_cons_self .., if_pos h⟩
    · exact ⟨x, List.mem_cons_of_mem _ hm, if_neg h⟩
theorem kerbed0_absent : ∀ (l : List Nat) (n : Nat), n ∉ l → Table.find? (l.map kerbed0) n = none
  | [], _, _ => rfl
  | i :: l, n, h => by
    rw [List.map_cons, kerbed0, Table.find?, if_neg (by intro hn; exact h (hn ▸ List.mem_cons_self ..))]
    exact kerbed0_absent l n (fun hn => h (List.mem_cons_of_mem _ hn))
theorem kerbed0_present : ∀ (l : List Nat) (n : Nat), n ∈ l → Table.find? (l.map kerbed0) n = some { state := .kerbed }
  | [], _, h => nomatch h
  | i :: l, n, h => by
    rw [List.map_cons, kerbed0, Table.find?]
    by_cases hn : n = i
    · rw [if_pos hn]
    · rw [if_neg hn]
      exact kerbed0_present l n ((List.mem_cons.mp h).resolve_left hn)
theorem full_holds (n : Nat) (h0 : 7937 ≤ n) (h8 : n ≤ 8192) :
    ∃ i j r, (full n).live = true ∧ 8192 < (full n).residents + 256 ∧ ((full n).parkChoice = some (i, r) ∧ (full n).freeParked = some j) ∧ ((full n).mayMove i j = true ∧ ((full n).request i).state ≠ .free) := by
  have h1 : (full n).residents = n := by
    rw [State.residents, List.filter_eq_self.mpr, full, List.length_map, List.length_range]
    intro e he
    obtain ⟨i, hi, rfl⟩ := List.mem_map.mp he
    have := List.mem_range.mp hi
    simp only [kerbed0, Bool.and_eq_true, decide_eq_true_eq]
    exact ⟨decide_eq_true (show i < 8192 by omega), rfl⟩
  have h2 : (full n).freeParked = some 8192 := by
    have h : Table.find? (full n).requests 8192 = none := kerbed0_absent _ _ (fun h => absurd (List.mem_range.mp h) (by omega))
    have h' : (Table.get {} (full n).requests 8192 : Request).state = .free := by rw [Table.get, h]; rfl
    rw [State.freeParked, show (1048576 : Nat) = 1048575 + 1 from rfl, firstFree, if_pos h']
  have h3 : ∀ e ∈ (full n).requests, (decide (e.1 < 8192) && !(full n).inLastStep e.1 e.2) = true ∧ (e.2.state == .kerbed) = true := by
    intro e he
    obtain ⟨i, hi, rfl⟩ := List.mem_map.mp he
    have hi := List.mem_range.mp hi
    have hl : (full n).inLastStep i (kerbed0 i).2 = false := rfl
    refine ⟨?_, rfl⟩
    show (decide (i < 8192) && !(full n).inLastStep i (kerbed0 i).2) = true
    rw [hl]
    simp only [Bool.not_false, Bool.and_true, decide_eq_true_eq]
    omega
  have h4 : ∃ e ∈ (full n).requests, (full n).parkChoice = some e := by
    obtain ⟨e, hm, he⟩ := leastBy_some (fun e => e.2.expiry) (full n).requests (by rw [full]; intro h; have := congrArg List.length h; rw [List.length_map, List.length_range, List.length_nil] at this; omega)
    refine ⟨e, hm, ?_⟩
    simp only [State.parkChoice]
    rw [List.filter_eq_self.mpr (fun e h => (h3 e h).1), List.filter_eq_self.mpr (fun e h => (h3 e h).2), he]
  obtain ⟨⟨i, r⟩, hm, he⟩ := h4
  have h5 : (full n).mayMove i 8192 = true := by
    have h : ∀ k, (full n).channel k = {} := fun k => rfl
    have h' : ∀ t, (full n).tenant t = {} := fun t => rfl
    have ho : Channel.opens {} = true := by decide
    simp [State.mayMove, State.serviceReady, State.serviceOpen, State.bucketFree, h, h', ho]
  have h6 : ((full n).request i).state = .kerbed := by
    obtain ⟨a, ha, hb⟩ := List.mem_map.mp hm
    cases hb
    have : Table.find? (full n).requests i = some { state := .kerbed } := kerbed0_present _ _ ha
    rw [State.request, Table.get, this]
    rfl
  exact ⟨i, 8192, r, rfl, by rw [h1]; omega, ⟨he, h2⟩, h5, by rw [h6]; decide⟩

/-- A run of words that all read clean does not fail. -/
theorem readRun_clean (m : Memory) (w : Word) : ∀ l : List Nat, (∀ a ∈ l, m.read a = encodeWord w) → decodeStored (encodeWord w) = .clean w → (readRun m l).failed = none
  | [], _, _ => rfl
  | a :: t, h, h' => by
    rw [readRun, h a (List.mem_cons_self ..), h']
    exact readRun_clean m w t (fun b hb => h b (List.mem_cons_of_mem _ hb)) h'
theorem copyFrame_some (s : State) (t a b : Nat) (hk : s.keyOk (s.kvKey t) t = true) (hm : s.mem = { cells := [], cleared := [(0, 2 ^ 52)] }) (ha : a + frameWords ≤ 2 ^ 52) :
    ∃ u, s.copyFrame t a b = some u := by
  have hr : (s.readTier (s.kvKey t) (addrs a frameWords)).failed = none := by
    simp only [State.readTier]
    refine readRun_clean s.mem 0 _ (fun c hc => ?_) (by decide +kernel)
    obtain ⟨i, hi, rfl⟩ := List.mem_map.mp hc
    have hi : i < frameWords := by simpa using hi
    rw [hm]
    have : inRanges [(0, 2 ^ 52)] (a + i) = true := by simp [inRanges]; omega
    simp only [Memory.read, Table.find?, Memory.rest, this, if_true]
    decide +kernel
  simp only [State.copyFrame, hk, hr, Bool.not_true, Bool.false_eq_true, if_false]
  exact ⟨_, rfl⟩
def kerbing0 : State := serving0 [(0, { state := .kerbing, dir := [(0, 0)] })] {}
def recalling0 : State := serving0 [(0, { state := .recalling, kerbDir := [(0, 0)] })] {}
theorem kerb_copies : ∃ t, (kerbing0.takeKerb 0 0 0 0).copyFrame 0 (2 ^ 49) ((kerbing0.takeKerb 0 0 0 0).kerbAddr 0 0 0) = some t :=
  copyFrame_some _ _ _ _ (by decide +kernel) (by decide +kernel) (by decide +kernel)
theorem recall_copies : ∃ t, (recalling0.takeFrame 0 0 0 0).copyFrame 0 (recalling0.kerbAddr 0 0 0) (2 ^ 49) = some t :=
  copyFrame_some _ _ _ _ (by decide +kernel) (by decide +kernel) (by decide +kernel)

/-- The routine of partition 0 is in its slice of core 0, and its pc at a word. -/
def routine0 (r : Routine) (s : State) : State := (onPart (fun x => { x with routine := r }) s).setDistrict 0 { cycles := 132 }
def ran0 (w : Nat) (l : List Word) (s : State) : State :=
  routine0 { mode := .running, pc := 0x10000, code := natBytes 4 w, regs := [(5, BitVec.ofNat 64 (slotData 0)), (6, 1)], mailbox := l } s
def runs0 (w : Nat) (s : State) : State := ran0 w [0] s
def ck0 (f3 rd rs1 rs2 : Nat) : Nat := rvR 0 rs2 rs1 f3 rd 0x0B
def user0 : CkMode := .user 0
def posting : State :=
  let d := entry0 5 (2 ^ 320 + 2 ^ 288 * 255 + 2 ^ 368 * (buffer 0 16).toNat)
  { runs0 (ck0 4 1 5 0) (issuing []) with cores := [(0, { dmem := (natBytes 64 d.toNat).zipIdx.map (fun (b, i) => (slotData 0 + i, b)) })] }

/-- Core 0 is at the first word of its firmware, which is w. -/
def firm0 (w : Nat) : State := { cores := [(0, { imem := natBytes 4 w })] }

/-- The FEC decode takes at most 42 cycles (R143), so a packet that came before is taken then. -/
theorem fecCycles_le (s : State) (p : Packet) : s.fecCycles p ≤ 42 := by
  unfold State.fecCycles
  repeat' split
  all_goals omega
theorem takeRx_some {s : State} {n : Nat} {want : Packet → Bool} {p : Packet} {rest : List (Nat × Packet)} (hr : (s.port n).rx = (0, p) :: rest) (hl : s.linked = true)
    (hw : want p = true) (hn : 42 ≤ s.now) : s.takeRx n want = some (p, s.setPort n { s.port n with rx := rest }) := by
  have := fecCycles_le s p
  simp only [State.takeRx, hr, hl, hw, Bool.true_and]
  rw [if_pos (decide_eq_true (by omega))]
theorem rx_head {s : State} {n : Nat} {p : Packet} {l : List (Nat × Packet)} (h : (s.port n).rx = (0, p) :: l) (hn : 42 ≤ s.now) :
    ∃ k, (s.port n).rx.head? = some (k, p) ∧ k + s.fecCycles p ≤ s.now :=
  ⟨0, by rw [h]; rfl, by have := fecCycles_le s p; omega⟩

/-- A part that nothing waits on is asked to PARK; whichever core the management core asks, none is busy. -/
def parkAsked : State := Taken (asked (order 0x3200 2 9 [1]) ({})) []
theorem parkAsked_idle : parkAsked.busy = false := by
  have h1 : parkAsked.cores.any (fun e => e.2.current.isSome || !e.2.intake.isEmpty) = false := by
    show List.any (match Config.cdpCore 0x3200 with | some k => _ | none => _) _ = false
    split <;> rfl
  have h2 : parkAsked.parts = [] ∧ parkAsked.fns = [] ∧ parkAsked.fetch = [] ∧ parkAsked.requests = [] ∧ parkAsked.blocks = [] := by decide +kernel
  simp only [State.busy, h1, State.fetchRuns, State.residents, State.parkChoice, State.unparkChoice, State.kerbUnpark, h2]
  decide +kernel

/-- Word 0 of block memory 0 has one wrong check bit. -/
def mended0 : Memory := { cells := [(0, ⟨0, checkOf 0 ^^^ 1⟩)] }

/-- The premises of each clause of EmptyQueueTicks hold of something. -/
theorem test_EmptyQueueTicks_premises :
    ∃ (s : State), (s.pending = []) :=
  ⟨State.reset, by
    repeat' apply And.intro
    all_goals first | with_reducible rfl | decide +kernel | exact eq_ok _ _ (by decide +kernel) | exact eq_okOf _ _ (by decide +kernel)⟩

/-- The premises of each clause of MatrixCommandsRun hold of something. -/
theorem test_MatrixCommandsRun_premises :
    (∃ (b : Fin 256)  (s : State)  (p : Nat)  (d : Desc), (Ready s b.val 0 p d (mmaCauses s b.val d)) ∧ (opcode d = 0) ∧ (startBit d = true ∨ ((s.block b.val).bank (bankBit d)).started = true) ∧ ((if startBit d then none else s.flawFails (accDpa b.val (bankBit d) 10240)) = none))
    ∧ (∃ (b : Fin 256)  (s : State)  (p : Nat)  (d : Desc), (Ready s b.val 0 p d []) ∧ (opcode d = 8))
    ∧ (∃ (b : Fin 256)  (s : State)  (p : Nat)  (d : Desc)  (wp64 : Bool), (Ready s b.val 0 p d []) ∧ (opcode d = 9) ∧ ((readRun s.mem (s.opAddrs p (opnd d 0) 1)).failed = none) ∧ (accHeader s p d ((readRun s.mem (s.opAddrs p (opnd d 0) 1)).words.headD 0) = .ok wp64))
    ∧ (∃ (s : State)  (p b : Nat)  (o : Op)  (wp64 : Bool)  (part ws : List Word), (o.work = .load wp64 part) ∧ ((part ++ ws).length = wideWords wp64 (mmaM o.desc * mmaN o.desc)))
    ∧ (∃ (b : Fin 256)  (s : State)  (o : Op)  (g n : Nat)  (w : List Word)  (ws : List (List Word)), (s.live = true) ∧ ((s.stageBlock b.val).foldDue b.val = some (o, g, w, ws, n)) ∧ ((s.stageBlock b.val).flawRun ((s.stageBlock b.val).accFlaws b.val (bankBit o.desc) (mmaM o.desc) (mmaN o.desc)) = ([], none))) :=
  ⟨⟨0, issue1 0 (descOf 0 1 0x88 2 0), 0, descOf 0 1 0x88 2 0, by
    repeat' apply And.intro
    all_goals first | with_reducible rfl | decide +kernel | exact eq_ok _ _ (by decide +kernel) | exact eq_okOf _ _ (by decide +kernel)⟩,
   ⟨0, issue1 0 (descOf 8 1 0 0 0), 0, descOf 8 1 0 0 0, by
    repeat' apply And.intro
    all_goals first | with_reducible rfl | decide +kernel | exact eq_ok _ _ (by decide +kernel) | exact eq_okOf _ _ (by decide +kernel)⟩,
   ⟨0, issue1 0 (descOf 9 1 0 1 0), 0, descOf 9 1 0 1 0, false, by
    repeat' apply And.intro
    all_goals first | with_reducible rfl | decide +kernel | exact eq_ok _ _ (by decide +kernel) | exact eq_okOf _ _ (by decide +kernel)⟩,
   ⟨{}, 0, 0, opOf 0 (descOf 9 1 0 1 0) (.load false []), false, [], [0, 0], by
    repeat' apply And.intro
    all_goals first | with_reducible rfl | decide +kernel | exact eq_ok _ _ (by decide +kernel) | exact eq_okOf _ _ (by decide +kernel)⟩,
   ⟨0, ({} : State).setBlock 0 { inflight := [opOf 0 (descOf 0 1 0x88 2 0) (.matrix [[0]] [] 1 0)] } |>.setDistrict 0 { cycles := 1000 }, opOf 0 (descOf 0 1 0x88 2 0) (.matrix [[0]] [] 1 0), 0, 1, [0], [], by
    repeat' apply And.intro
    all_goals first | with_reducible rfl | decide +kernel | exact eq_ok _ _ (by decide +kernel) | exact eq_okOf _ _ (by decide +kernel)⟩⟩

/-- The premises of each clause of VectorCommandsRun hold of something. -/
theorem test_VectorCommandsRun_premises :
    ∃ (r : (Fin 256 → Instr) × (Desc → Bool) × (VecArgs → Except Status VecOut))  (b : Fin 256)  (s : State)  (p : Nat)  (d : Desc)  (o : VecOut), (r ∈ vectorRows) ∧ (VectorIssues r b.val s p d o) :=
  ⟨_, 0, _, 0, _, _, by
    exact ⟨(vectorRow_issues 0 (by decide)).choose_spec.choose_spec.choose_spec.1, (vectorRow_issues 0 (by decide)).choose_spec.choose_spec.choose_spec.2⟩⟩

/-- The premises of each clause of ControlDescriptorsRun hold of something. -/
theorem test_ControlDescriptorsRun_premises :
    (∃ (b : Fin 256)  (s : State)  (p : Nat)  (d : Desc), (Ready s b.val 3 p d []) ∧ (opcode d = 0x80))
    ∧ (∃ (b : Fin 256)  (s : State)  (p : Nat)  (d : Desc), (Ready s b.val 3 p d []) ∧ (opcode d = 0x81))
    ∧ (∃ (b : Fin 256)  (s : State)  (p : Nat)  (d : Desc), (Ready s b.val 3 p d []) ∧ (opcode d = 0x72) ∧ ((addrs (slot0 d) (nslot d)).any (fun i => (s.part p).committed.any (fun c => c.1 == i)) = false))
    ∧ (∃ (b : Fin 256)  (s : State)  (p : Nat)  (d : Desc), (Ready s b.val 3 p d []) ∧ (opcode d = 0x75) ∧ ((addrs (slot0 d) (nslot d)).any (fun i => (s.part p).digested.contains i) = false)) :=
  ⟨⟨0, issue1 3 (descOf 0x80 0 0 0 0), 0, descOf 0x80 0 0 0 0, by
    repeat' apply And.intro
    all_goals first | with_reducible rfl | decide +kernel | exact eq_ok _ _ (by decide +kernel) | exact eq_okOf _ _ (by decide +kernel)⟩,
   ⟨0, issue1 3 (descOf 0x81 0 0 0 0), 0, descOf 0x81 0 0 0 0, by
    repeat' apply And.intro
    all_goals first | with_reducible rfl | decide +kernel | exact eq_ok _ _ (by decide +kernel) | exact eq_okOf _ _ (by decide +kernel)⟩,
   ⟨0, issue1 3 (descOf 0x72 0 0 0 0), 0, descOf 0x72 0 0 0 0, by
    repeat' apply And.intro
    all_goals first | with_reducible rfl | decide +kernel | exact eq_ok _ _ (by decide +kernel) | exact eq_okOf _ _ (by decide +kernel)⟩,
   ⟨0, issue1 3 (descOf 0x75 0 0 0 0), 0, descOf 0x75 0 0 0 0, by
    repeat' apply And.intro
    all_goals first | with_reducible rfl | decide +kernel | exact eq_ok _ _ (by decide +kernel) | exact eq_okOf _ _ (by decide +kernel)⟩⟩

/-- The premises of each clause of MoverCommandsRun hold of something. -/
theorem test_MoverCommandsRun_premises :
    (∃ (b : Fin 256)  (s : State)  (p : Nat)  (d : Desc), (Ready s b.val 2 p d (s.copyCauses b.val p d)) ∧ (opcode d = 0x50) ∧ (hOnBlock (s.handle p (opHandle (opnd d 1))) = true ∧ hOnBlock (s.handle p (opHandle (opnd d 0))) = true))
    ∧ (∃ (b : Fin 256)  (s : State)  (p : Nat)  (d : Desc), (Ready s b.val 2 p d (s.copyCauses b.val p d)) ∧ (opcode d = 0x50) ∧ (hOnBlock (s.handle p (opHandle (opnd d 1))) = true ∧ hOnBlock (s.handle p (opHandle (opnd d 0))) = false) ∧ ((readRun s.mem (s.moverAddrs p d 1)).failed = none) ∧ (tierOf (hAddr (s.handle p (opHandle (opnd d 0))) 0) = 1))
    ∧ (∃ (b : Fin 256)  (s : State)  (p : Nat)  (d : Desc), (Ready s b.val 2 p d (s.copyCauses b.val p d)) ∧ (opcode d = 0x50) ∧ (hOnBlock (s.handle p (opHandle (opnd d 1))) = true ∧ hOnBlock (s.handle p (opHandle (opnd d 0))) = false) ∧ ((readRun s.mem (s.moverAddrs p d 1)).failed = none) ∧ (tierOf (hAddr (s.handle p (opHandle (opnd d 0))) 0) ≠ 1))
    ∧ (∃ (b : Fin 256)  (s : State)  (p : Nat)  (d : Desc), (Ready s b.val 2 p d (s.copyCauses b.val p d)) ∧ (opcode d = 0x50) ∧ (hOnBlock (s.handle p (opHandle (opnd d 1))) = false) ∧ (tierOf (hAddr (s.handle p (opHandle (opnd d 1))) 0) = 1))
    ∧ (∃ (b : Fin 256)  (s : State)  (p : Nat)  (d : Desc), (Ready s b.val 2 p d (s.copyCauses b.val p d)) ∧ (opcode d = 0x50) ∧ (hOnBlock (s.handle p (opHandle (opnd d 1))) = false) ∧ (tierOf (hAddr (s.handle p (opHandle (opnd d 1))) 0) ≠ 1))
    ∧ (∃ (b : Fin 256)  (s : State)  (p : Nat)  (d : Desc), (Ready s b.val 2 p d (s.fillCauses p d)) ∧ (opcode d = 0x54) ∧ (hOnBlock (s.handle p (opHandle (opnd d 0))) = true))
    ∧ (∃ (b : Fin 256)  (s : State)  (p : Nat)  (d : Desc), (Ready s b.val 2 p d (s.fillCauses p d)) ∧ (opcode d = 0x54) ∧ (hOnBlock (s.handle p (opHandle (opnd d 0))) = false ∧ tierOf (hAddr (s.handle p (opHandle (opnd d 0))) 0) = 1) ∧ ((readRun s.mem (s.opAddrs p (opnd d 1) 1)).failed = none))
    ∧ (∃ (b : Fin 256)  (s : State)  (p : Nat)  (d : Desc), (Ready s b.val 2 p d (s.fillCauses p d)) ∧ (opcode d = 0x54) ∧ (hOnBlock (s.handle p (opHandle (opnd d 0))) = false ∧ 2 ≤ tierOf (hAddr (s.handle p (opHandle (opnd d 0))) 0)) ∧ ((readRun s.mem (s.opAddrs p (opnd d 1) 1)).failed = none))
    ∧ (∃ (b : Fin 256)  (s : State)  (p : Nat)  (d : Desc), (Ready s b.val 2 p d (s.streamCauses b.val p d)) ∧ (opcode d = 0x51) ∧ (endTier (s.packHandle p d) = 1) ∧ (opOffset (opnd d 1) < hSize (s.packHandle p d)))
    ∧ (∃ (b : Fin 256)  (s : State)  (p : Nat)  (d : Desc), (Ready s b.val 2 p d (s.streamCauses b.val p d)) ∧ (opcode d = 0x51) ∧ (endTier (s.packHandle p d) ≠ 1))
    ∧ (∃ (b : Fin 256)  (s : State)  (p : Nat)  (d : Desc), (Ready s b.val 2 p d (s.kindCauses p (opnd d 0) ++ s.kvCauses p d)) ∧ (opcode d = 0x52))
    ∧ (∃ (b : Fin 256)  (s : State)  (p : Nat)  (d : Desc), (Ready s b.val 2 p d (s.kindCauses p (opnd d 1) ++ s.kvCauses p d)) ∧ (opcode d = 0x53) ∧ ((readRun s.mem (s.opAddrs p (opnd d 1) (nslot d * scatterNA d * kvWords d))).failed = none))
    ∧ (∃ (b : Fin 256)  (s : State)  (p j : Nat)  (d : Desc), (Ready s b.val 2 p d (s.sendCauses p d)) ∧ (opcode d = 0x60) ∧ (s.jobOf p = some j)) :=
  ⟨⟨0, issue1 2 (descFor 0x50 [16, 17] 0), 0, descFor 0x50 [16, 17] 0, by
    repeat' apply And.intro
    all_goals first | with_reducible rfl | decide +kernel | exact eq_ok _ _ (by decide +kernel) | exact eq_okOf _ _ (by decide +kernel)⟩,
   ⟨0, issueKey 2 (descKey 0x50 [20, 17]), 0, descKey 0x50 [20, 17], by
    repeat' apply And.intro
    all_goals first | with_reducible rfl | decide +kernel | exact eq_ok _ _ (by decide +kernel) | exact eq_okOf _ _ (by decide +kernel)⟩,
   ⟨0, issueKey 2 (descKey 0x50 [22, 17]), 0, descKey 0x50 [22, 17], by
    repeat' apply And.intro
    all_goals first | with_reducible rfl | decide +kernel | exact eq_ok _ _ (by decide +kernel) | exact eq_okOf _ _ (by decide +kernel)⟩,
   ⟨0, issueKey 2 (descKey 0x50 [16, 20]), 0, descKey 0x50 [16, 20], by
    repeat' apply And.intro
    all_goals first | with_reducible rfl | decide +kernel | exact eq_ok _ _ (by decide +kernel) | exact eq_okOf _ _ (by decide +kernel)⟩,
   ⟨0, issueKey 2 (descKey 0x50 [16, 22]), 0, descKey 0x50 [16, 22], by
    repeat' apply And.intro
    all_goals first | with_reducible rfl | decide +kernel | exact eq_ok _ _ (by decide +kernel) | exact eq_okOf _ _ (by decide +kernel)⟩,
   ⟨0, issue1 2 (descFor 0x54 [16, 17] 0), 0, descFor 0x54 [16, 17] 0, by
    repeat' apply And.intro
    all_goals first | with_reducible rfl | decide +kernel | exact eq_ok _ _ (by decide +kernel) | exact eq_okOf _ _ (by decide +kernel)⟩,
   ⟨0, issueKey 2 (descKey 0x54 [20, 17]), 0, descKey 0x54 [20, 17], by
    repeat' apply And.intro
    all_goals first | with_reducible rfl | decide +kernel | exact eq_ok _ _ (by decide +kernel) | exact eq_okOf _ _ (by decide +kernel)⟩,
   ⟨0, issueKey 2 (descKey 0x54 [22, 17]), 0, descKey 0x54 [22, 17], by
    repeat' apply And.intro
    all_goals first | with_reducible rfl | decide +kernel | exact eq_ok _ _ (by decide +kernel) | exact eq_okOf _ _ (by decide +kernel)⟩,
   ⟨0, issueKey 2 (descKey 0x51 [21, 20]), 0, descKey 0x51 [21, 20], by
    repeat' apply And.intro
    all_goals first | with_reducible rfl | decide +kernel | exact eq_ok _ _ (by decide +kernel) | exact eq_okOf _ _ (by decide +kernel)⟩,
   ⟨0, issueKey 2 (descKey 0x51 [21, 22]), 0, descKey 0x51 [21, 22], by
    repeat' apply And.intro
    all_goals first | with_reducible rfl | decide +kernel | exact eq_ok _ _ (by decide +kernel) | exact eq_okOf _ _ (by decide +kernel)⟩,
   ⟨0, issue1 2 (descFor 0x52 [16] 0), 0, descFor 0x52 [16] 0, by
    repeat' apply And.intro
    all_goals first | with_reducible rfl | decide +kernel | exact eq_ok _ _ (by decide +kernel) | exact eq_okOf _ _ (by decide +kernel)⟩,
   ⟨0, issue1 2 (descFor 0x53 [16, 17] 0), 0, descFor 0x53 [16, 17] 0, by
    repeat' apply And.intro
    all_goals first | with_reducible rfl | decide +kernel | exact eq_ok _ _ (by decide +kernel) | exact eq_okOf _ _ (by decide +kernel)⟩,
   ⟨0, issueJob 2 (descFor 0x60 [0, 17] (2 ^ 384 * 2)), 0, 0, descFor 0x60 [0, 17] (2 ^ 384 * 2), by
    repeat' apply And.intro
    all_goals first | with_reducible rfl | decide +kernel | exact eq_ok _ _ (by decide +kernel) | exact eq_okOf _ _ (by decide +kernel)⟩⟩

/-- The premises of each clause of MoverEventsRun hold of something. -/
theorem test_MoverEventsRun_premises :
    (∃ (b : Fin 256)  (s : State)  (v : Delivery), (s.live = true) ∧ ((s.block b.val).eqWrites < 2) ∧ (firstDelivery ((s.block b.val).equaliser.filter (s.deliverable (s.ownerOf b.val))) none = some v))
    ∧ (∃ (b : Fin 256)  (s : State)  (v : Delivery), (s.live = true) ∧ ((s.block b.val).landing.find? (fun v => (s.planUse b.val).get 0 (v.addr % 64) == 0 && !(s.block b.val).bankOther.contains (v.addr % 64)) = some v))
    ∧ (∃ (b : Fin 256)  (s : State)  (o : Op)  (st : StreamState)  (ws : List Word), (s.live = true) ∧ ((s.block b.val).stream? = some (o, st)) ∧ (st.asked ≠ 0 ∧ st.stage = 2 ∧ st.next < packCount o.desc) ∧ ((addrs (packArea st.header + entryOffset (dirEntry st st.header (packFirst o.desc + st.next))) (entryLen (dirEntry st st.header (packFirst o.desc + st.next)))).all (fun i => (st.words.find? i).isSome) = true) ∧ (expandBlock st (packFirst o.desc + st.next) = some ws))
    ∧ (∃ (c : Fin 256)  (s : State)  (u : HbmUnit), (s.live = true) ∧ ((s.channel c.val).slotAt (s.channel c.val).served ≤ s.now ∧ (s.channel c.val).served % 256 < 240) ∧ (1 ≤ (s.channel c.val).code ((s.channel c.val).served % 256) ∧ (s.channel c.val).code ((s.channel c.val).served % 256) ≠ 0x20) ∧ ((s.channel c.val).nextUnit ((s.channel c.val).code ((s.channel c.val).served % 256) - 1) ((s.channel c.val).slotAt (s.channel c.val).served) = some u) ∧ ((s.channel c.val).bankClear (s.channel c.val).served u.addr = true))
    ∧ (∃ (c : Fin 256)  (s : State), (s.live = true) ∧ ((s.channel c.val).slotAt (s.channel c.val).served ≤ s.now ∧ (s.channel c.val).served % 256 < 240) ∧ ((s.channel c.val).code ((s.channel c.val).served % 256) = 0x20))
    ∧ (∃ (c : Fin 256)  (s : State), (s.live = true) ∧ ((s.channel c.val).slotAt (s.channel c.val).served ≤ s.now ∧ (s.channel c.val).served % 256 < 240) ∧ ((s.channel c.val).code ((s.channel c.val).served % 256) = 0 ∧ (s.channel c.val).service = []))
    ∧ (∃ (c : Fin 256)  (s : State), (s.live = true) ∧ (240 ≤ (s.channel c.val).served % 256) ∧ ((s.channel c.val).slotAt (256 * ((s.channel c.val).served / 256) + 240) ≤ s.now)) :=
  ⟨⟨0, ({} : State).setBlock 0 { equaliser := [{ addr := 0, word := ⟨0, 0⟩, due := 0, source := 0, index := 0, opBlock := 0, opId := 0 }] }, { addr := 0, word := ⟨0, 0⟩, due := 0, source := 0, index := 0, opBlock := 0, opId := 0 }, by
    repeat' apply And.intro
    all_goals first | with_reducible rfl | decide +kernel | exact eq_ok _ _ (by decide +kernel) | exact eq_okOf _ _ (by decide +kernel)⟩,
   ⟨0, ({} : State).setBlock 0 { landing := [{ addr := 0, word := ⟨0, 0⟩, due := 0, source := 0, index := 0, opBlock := 0, opId := 0 }] }, { addr := 0, word := ⟨0, 0⟩, due := 0, source := 0, index := 0, opBlock := 0, opId := 0 }, by
    repeat' apply And.intro
    all_goals first | with_reducible rfl | decide +kernel | exact eq_ok _ _ (by decide +kernel) | exact eq_okOf _ _ (by decide +kernel)⟩,
   ⟨0, inFlight (opOf 2 (descKey 0x51 [21, 20]) (.stream packed)), opOf 2 (descKey 0x51 [21, 20]) (.stream packed), packed, bytesWords 128 (zeros 32), by
    repeat' apply And.intro
    all_goals first | with_reducible rfl | decide +kernel | exact eq_ok _ _ (by decide +kernel) | exact eq_okOf _ _ (by decide +kernel)⟩,
   ⟨0, ({} : State).setChannel 0 { record := [1], units := [{ stream := 0, addr := 2 ^ 49, count := 1, opBlock := 0, opId := 1, present := 0 }] }, { stream := 0, addr := 2 ^ 49, count := 1, opBlock := 0, opId := 1, present := 0 }, by
    repeat' apply And.intro
    all_goals first | with_reducible rfl | decide +kernel | exact eq_ok _ _ (by decide +kernel) | exact eq_okOf _ _ (by decide +kernel)⟩,
   ⟨0, ({} : State).setChannel 0 { record := [0x20] }, by
    repeat' apply And.intro
    all_goals first | with_reducible rfl | decide +kernel | exact eq_ok _ _ (by decide +kernel) | exact eq_okOf _ _ (by decide +kernel)⟩,
   ⟨0, {}, by
    repeat' apply And.intro
    all_goals first | with_reducible rfl | decide +kernel | exact eq_ok _ _ (by decide +kernel) | exact eq_okOf _ _ (by decide +kernel)⟩,
   ⟨0, { ({} : State) with now := 100000, channels := [(0, { served := 240 })] }, by
    repeat' apply And.intro
    all_goals first | with_reducible rfl | decide +kernel | exact eq_ok _ _ (by decide +kernel) | exact eq_okOf _ _ (by decide +kernel)⟩⟩

/-- The premises of each clause of OperationsComplete hold of something. -/
theorem test_OperationsComplete_premises :
    (∃ (b : Fin 256)  (s : State)  (o : Op)  (l : List Op), (s.dueOps b.val (fun o => o.queue == 0 && o.folded) = o :: l))
    ∧ (∃ (b : Fin 256)  (s : State)  (o : Op)  (l : List Op), (s.dueOps b.val (fun o => o.queue == 1 && !o.heldRecord) = o :: l))
    ∧ (∃ (b : Fin 256)  (s : State)  (o : Op)  (l : List Op)  (r : Word)  (x : Part), (s.live = true) ∧ ((s.block b.val).inflight.filter Op.heldRecord = o :: l) ∧ (o.record = some r) ∧ ((s.block b.val).summaries.length < 4) ∧ ((s.block b.val).inflight.any (fun y => y.heldRecord && decide (y.id < o.id)) = false) ∧ (setFlagOf (s.part (s.ownerOf b.val)) s.now b.val o.queue o.desc = .ok x))
    ∧ (∃ (b : Fin 256)  (s : State)  (p n : Nat)  (r : Word)  (rest : List (Word × Nat)), (s.live = true) ∧ (s.partOf b.val = some p) ∧ ((s.block b.val).summaries = (r, n) :: rest) ∧ (s.recordThere b.val (s.part p).lead = true) ∧ ((mapBlocks (s.part p).blockMap).any (fun c => (decide (s.postedAt c < s.postedAt b.val) || s.postedAt c == s.postedAt b.val && decide (c < b.val)) && s.recordThere c (s.part p).lead) = false) ∧ ((s.part p).routine.mailbox.length < 64))
    ∧ (∃ (b : Fin 256)  (s : State)  (o : Op)  (l : List Op), (s.dueOps b.val (fun o => o.moved && decide (opcode o.desc ≤ 0x60)) = o :: l))
    ∧ (∃ (p : Fin 64)  (s : State)  (b : Nat)  (o : Op)  (ws : List (Nat × Word)), (s.live = true) ∧ (s.dueServing p.val = some (b, o)) ∧ (o.work = .serving ws))
    ∧ (∃ (b : Fin 256)  (s : State)  (o : Op)  (l : List Op), ((s.part (s.ownerOf b.val)).stepState ≠ .fenced) ∧ (s.dueOps b.val (fun o => (s.coll o.id).any (fun c => c.done && c.block == b.val)) = o :: l)) :=
  ⟨⟨0, inFlight (opOf 0 (descOf 0 1 0x88 2 0) (.matrix [] [] 1 1)), opOf 0 (descOf 0 1 0x88 2 0) (.matrix [] [] 1 1), [], by
    repeat' apply And.intro
    all_goals first | with_reducible rfl | decide +kernel | exact eq_ok _ _ (by decide +kernel) | exact eq_okOf _ _ (by decide +kernel)⟩,
   ⟨0, inFlight (opOf 1 (descOf 0x28 0 0xAA 3 0) (.vector [] none)), opOf 1 (descOf 0x28 0 0xAA 3 0) (.vector [] none), [], by
    repeat' apply And.intro
    all_goals first | with_reducible rfl | decide +kernel | exact eq_ok _ _ (by decide +kernel) | exact eq_okOf _ _ (by decide +kernel)⟩,
   ⟨0, inFlight held, held, [], 0, (inFlight held).part 0, by
    repeat' apply And.intro
    all_goals first | with_reducible rfl | decide +kernel | exact eq_ok _ _ (by decide +kernel) | exact eq_okOf _ _ (by decide +kernel)⟩,
   ⟨0, { issuing [] with blocks := [(0, { summaries := [(0, 0)] })], now := 2000 }, 0, 0, 0, [], by
    repeat' apply And.intro
    all_goals first | with_reducible rfl | decide +kernel | exact eq_ok _ _ (by decide +kernel) | exact eq_okOf _ _ (by decide +kernel)⟩,
   ⟨0, inFlight (opOf 2 (descFor 0x50 [16, 17] 0) (.transfer 0)), opOf 2 (descFor 0x50 [16, 17] 0) (.transfer 0), [], by
    repeat' apply And.intro
    all_goals first | with_reducible rfl | decide +kernel | exact eq_ok _ _ (by decide +kernel) | exact eq_okOf _ _ (by decide +kernel)⟩,
   ⟨0, inFlight (opOf 3 (descFor 0x72 [] 0) (.serving [])), 0, opOf 3 (descFor 0x72 [] 0) (.serving []), [], by
    repeat' apply And.intro
    all_goals first | with_reducible rfl | decide +kernel | exact eq_ok _ _ (by decide +kernel) | exact eq_okOf _ _ (by decide +kernel)⟩,
   ⟨0, { inFlight (opOf 2 (descFor 0x61 [] 0) .plain) with colls := [(1, { waveOf with done := true, block := 0 })] }, opOf 2 (descFor 0x61 [] 0) .plain, [], by
    repeat' apply And.intro
    all_goals first | with_reducible rfl | decide +kernel | exact eq_ok _ _ (by decide +kernel) | exact eq_okOf _ _ (by decide +kernel)⟩⟩

/-- The premises of each clause of ServingDescriptorsRun hold of something. -/
theorem test_ServingDescriptorsRun_premises :
    (∃ (b : Fin 256)  (s : State)  (p : Nat)  (d : Desc), (Ready s b.val 3 p d (s.servingRef p (opnd d 0))) ∧ (opcode d = 0x70 ∧ variant d = 0))
    ∧ (∃ (b : Fin 256)  (s : State)  (p : Nat)  (d : Desc), (Ready s b.val 3 p d (s.servingRef p (opnd d 0))) ∧ (opcode d = 0x70 ∧ variant d = 1))
    ∧ (∃ (b : Fin 256)  (s : State)  (p : Nat)  (d : Desc), (Ready s b.val 3 p d (s.servingRef p (opnd d 0))) ∧ (opcode d = 0x70 ∧ variant d = 2))
    ∧ (∃ (b : Fin 256)  (s : State)  (p : Nat)  (d : Desc), (Ready s b.val 3 p d (s.servingRef p (opnd d 0) ++ s.servingRef p (opnd d 1) ++ (if s.objNat (0x5400 + p) 0x01 < routeE d then [.bounds] else []))) ∧ (opcode d = 0x71) ∧ ((readRun s.mem (s.opAddrs p (opnd d 1) (ceilDiv (routeRows d * routeE d) 8))).failed = none))
    ∧ (∃ (b : Fin 256)  (s : State)  (p : Nat)  (d : Desc), (Ready s b.val 3 p d (s.servingRef p (opnd d 1))) ∧ (opcode d = 0x74) ∧ ((readRun s.mem (s.opAddrs p (opnd d 1) (ceilDiv (nslot d) 4))).failed = none)) :=
  ⟨⟨0, issue1 3 (descFor 0x70 [16] 0), 0, descFor 0x70 [16] 0, by
    repeat' apply And.intro
    all_goals first | with_reducible rfl | decide +kernel | exact eq_ok _ _ (by decide +kernel) | exact eq_okOf _ _ (by decide +kernel)⟩,
   ⟨0, issue1 3 (descFor 0x70 [16] 256), 0, descFor 0x70 [16] 256, by
    repeat' apply And.intro
    all_goals first | with_reducible rfl | decide +kernel | exact eq_ok _ _ (by decide +kernel) | exact eq_okOf _ _ (by decide +kernel)⟩,
   ⟨0, issue1 3 (descFor 0x70 [16] 512), 0, descFor 0x70 [16] 512, by
    repeat' apply And.intro
    all_goals first | with_reducible rfl | decide +kernel | exact eq_ok _ _ (by decide +kernel) | exact eq_okOf _ _ (by decide +kernel)⟩,
   ⟨0, (issue1 3 (descFor 0x71 [16, 17] 0)).storeRaw 0x5400 1 [1], 0, descFor 0x71 [16, 17] 0, by
    repeat' apply And.intro
    all_goals first | with_reducible rfl | decide +kernel | exact eq_ok _ _ (by decide +kernel) | exact eq_okOf _ _ (by decide +kernel)⟩,
   ⟨0, issue1 3 (descFor 0x74 [16, 17] 0), 0, descFor 0x74 [16, 17] 0, by
    repeat' apply And.intro
    all_goals first | with_reducible rfl | decide +kernel | exact eq_ok _ _ (by decide +kernel) | exact eq_okOf _ _ (by decide +kernel)⟩⟩

/-- The premises of each clause of CollectivesStart hold of something. -/
theorem test_CollectivesStart_premises :
    (∃ (r : (Fin 256 → Instr) × Nat)  (b : Fin 256)  (s : State)  (p j k : Nat)  (d : Desc), (r ∈ collRows) ∧ (Ready s b.val 2 p d []) ∧ (opcode d = 0x61 + r.2 ∧ formatOf d = 0x0A) ∧ (s.jobOf p = some j ∧ s.openSlot (s.jobTag j) = some j) ∧ (((List.range 3).filter (fun i => collDims d / 2 ^ i % 2 == 1)).head? = some k ∧ 1 < (s.boxOf j).extent k) ∧ ((readRun s.mem (s.opAddrs p (opnd d 1) (ceilDiv (vecCount d) 8))).failed = none))
    ∧ (∃ (r : (Fin 256 → Instr) × Nat)  (b : Fin 256)  (s : State)  (p j k : Nat)  (d : Desc)  (wp64 : Bool), (r ∈ collRows) ∧ (Ready s b.val 2 p d []) ∧ (opcode d = 0x61 + r.2 ∧ formatOf d ≠ 0x0A) ∧ (s.jobOf p = some j ∧ s.openSlot (s.jobTag j) = some j) ∧ (((List.range 3).filter (fun i => collDims d / 2 ^ i % 2 == 1)).head? = some k ∧ 1 < (s.boxOf j).extent k) ∧ ((readRun s.mem (s.opAddrs p (opnd d 1) 1)).failed = none) ∧ (headerFormat ((readRun s.mem (s.opAddrs p (opnd d 1) 1)).words.headD 0) = some wp64) ∧ (headerCount ((readRun s.mem (s.opAddrs p (opnd d 1) 1)).words.headD 0) = vecCount d) ∧ (opOffset (opnd d 0) + wideWords wp64 (vecCount d) ≤ hSize (s.handle p (opHandle (opnd d 0))) ∧ opOffset (opnd d 1) + wideWords wp64 (vecCount d) ≤ hSize (s.handle p (opHandle (opnd d 1)))) ∧ ((readRun s.mem (s.opAddrs p (opnd d 1) (wideWords wp64 (vecCount d))).tail).failed = none))
    ∧ (∃ (b : Fin 256)  (s : State)  (p : Nat)  (d : Desc), (Ready s b.val 2 p d []) ∧ (opcode d = 0x68)) :=
  ⟨⟨_, 0, issueJob 2 (descFor 0x61 [16, 17] (2 ^ 8 + 2 ^ 16 * 10)), 0, 0, 0, descFor 0x61 [16, 17] (2 ^ 8 + 2 ^ 16 * 10), by
    exact ⟨List.mem_cons_self .., by decide +kernel, by decide +kernel, by decide +kernel, by decide +kernel, by decide +kernel⟩⟩,
   ⟨_, 0, issueJob 2 (descFor 0x61 [16, 17] (2 ^ 8)), 0, 0, 0, descFor 0x61 [16, 17] (2 ^ 8), false, by
    exact ⟨List.mem_cons_self .., by decide +kernel, by decide +kernel, by decide +kernel, by decide +kernel, by decide +kernel, by decide +kernel, by decide +kernel, by decide +kernel, by decide +kernel⟩⟩,
   ⟨0, issueJob 2 (descFor 0x68 [] 0), 0, descFor 0x68 [] 0, by
    repeat' apply And.intro
    all_goals first | with_reducible rfl | decide +kernel | exact eq_ok _ _ (by decide +kernel) | exact eq_okOf _ _ (by decide +kernel)⟩⟩

/-- The premises of each clause of DispatchEventsRun hold of something. -/
theorem test_DispatchEventsRun_premises :
    (∃ (b : Fin 256)  (queue : Fin 4)  (s : State)  (p : Nat)  (d : Desc), (s.partOf b.val = some p) ∧ (s.issuing p = true) ∧ (s.checkDue p b.val queue.val = some d) ∧ (((s.block b.val).queue queue.val).delivered ≠ 0) ∧ (s.flawFails (flawQueue b.val queue.val) = none ∧ s.handleFails p d = none) ∧ (descCrcOk d = true ∧ wellDecoded (s.pageTokens p) (s.groupPages p) queue.val d = true) ∧ (s.flagsSeen p d (districtOf b.val) = true ∧ s.readyTags p b.val d = true))
    ∧ (∃ (p : Fin 64)  (s : State)  (z : PartFreeze), (s.live = true) ∧ ((s.part p.val).freeze = some z) ∧ (z.done = true ∧ z.holds.all (s.resolved p.val) = true))
    ∧ (∃ (b : Fin 256)  (queue : Fin 4)  (s : State), (s.live = true) ∧ (((s.block b.val).queue queue.val).delivered < min 256 ((s.block b.val).queue queue.val).descs.length) ∧ (0 < (s.part (s.ownerOf b.val)).fetched) ∧ (s.flawFails (flawPlan (s.ownerOf b.val)) = none))
    ∧ (∃ (p : Fin 64)  (s : State)  (z : PartFreeze)  (b q : Nat)  (d : Desc), (s.live = true) ∧ ((s.part p.val).detected < s.leadCycles p.val / 4096) ∧ ((s.part p.val).stepState = .running ∧ (s.part p.val).freeze = some z) ∧ ((s.part p.val).heldHeads.findSome? (fun (b, q) => (s.head b q).bind (fun d => ((waits d).filter (s.dead p.val)).head?.map (fun _ => (b, q, d)))) = some (b, q, d)))
    ∧ (∃ (p : Fin 64)  (s : State)  (z : PartFreeze), (s.live = true) ∧ ((s.part p.val).freeze = some z) ∧ ((s.part p.val).stepState = .running ∧ s.objNat (0x4000 + p.val) 0x1A < z.waitLen)) :=
  ⟨⟨0, 3, (planned 0 (issue1 3 nopDesc)).setBlock 0 { queues := [(3, { descs := [nopDesc], delivered := 1 })] }, 0, nopDesc, by
    repeat' apply And.intro
    all_goals first | with_reducible rfl | decide +kernel | exact eq_ok _ _ (by decide +kernel) | exact eq_okOf _ _ (by decide +kernel)⟩,
   ⟨0, stopped .flag nopDesc, { holds := [⟨.flag, 0, 3⟩], since := 0, lcycle := 0, done := true, waitLen := 2 ^ 40 }, by
    repeat' apply And.intro
    all_goals first | with_reducible rfl | decide +kernel | exact eq_ok _ _ (by decide +kernel) | exact eq_okOf _ _ (by decide +kernel)⟩,
   ⟨0, 3, onPart (fun x => { x with fetched := 1 }) (issuing [] |>.setBlock 0 { queues := [(3, { descs := [nopDesc] })] }), by
    repeat' apply And.intro
    all_goals first | with_reducible rfl | decide +kernel | exact eq_ok _ _ (by decide +kernel) | exact eq_okOf _ _ (by decide +kernel)⟩,
   ⟨0, (stopped .flag (descFor 0x80 [] (2 ^ 124))).setDistrict 0 { cycles := 4096 }, { holds := [⟨.flag, 0, 3⟩], since := 0, lcycle := 0, done := true, waitLen := 2 ^ 40 }, 0, 3, descFor 0x80 [] (2 ^ 124), by
    repeat' apply And.intro
    all_goals first | with_reducible rfl | decide +kernel | exact eq_ok _ _ (by decide +kernel) | exact eq_okOf _ _ (by decide +kernel)⟩,
   ⟨0, stopped .segment nopDesc, { holds := [⟨.segment, 0, 3⟩], since := 0, lcycle := 0, done := true, waitLen := 2 ^ 40 }, by
    repeat' apply And.intro
    all_goals first | with_reducible rfl | decide +kernel | exact eq_ok _ _ (by decide +kernel) | exact eq_okOf _ _ (by decide +kernel)⟩⟩

/-- The premises of each clause of SegmentsRun hold of something. -/
theorem test_SegmentsRun_premises :
    (∃ (p : Fin 64)  (s : State)  (g : Segment), (s.live = true) ∧ ((s.part p.val).seg = some g) ∧ ((s.part p.val).stepState = .running ∧ (s.part p.val).ended = false ∧ g.z ≤ (s.part p.val).lcycle) ∧ (g.next = 2 → (s.part p.val).choice.isSome = true))
    ∧ (∃ (p : Fin 64)  (s : State)  (g : Segment)  (n : Nat), (s.live = true) ∧ ((s.part p.val).seg = some g) ∧ ((s.part p.val).successor g = some n) ∧ ((s.part p.val).stepState = .running ∧ (s.part p.val).ended = true ∧ (s.part p.val).frozen = false ∧ g.z + 64 ≤ (s.part p.val).lcycle))
    ∧ (∃ (p : Fin 64)  (s : State)  (g : Segment), (s.live = true) ∧ ((s.part p.val).seg = some g) ∧ ((s.part p.val).stepState = .running ∧ (s.part p.val).ended = true ∧ g.next = 0 ∧ (s.part p.val).frozen = false) ∧ ((s.opsOf p.val).isEmpty = true ∧ s.queuesEmpty p.val = true))
    ∧ (∃ (p : Fin 64)  (s : State)  (k : Ticket), (s.live = true) ∧ ((s.part p.val).stepDone = true ∧ (s.part p.val).doneDesc = some k) ∧ (s.parts.any (fun e => decide (e.1 < p.val) && e.2.stepDone) = false)) :=
  ⟨⟨0, planned 0 (issuing []) |> onPart (fun x => { x with lcycle := 100 }), segment0 0, by
    repeat' apply And.intro
    all_goals first | with_reducible rfl | decide +kernel | exact eq_ok _ _ (by decide +kernel) | exact eq_okOf _ _ (by decide +kernel)⟩,
   ⟨0, planned 1 (issuing []) |> onPart (fun x => { x with lcycle := 100, ended := true }), segment0 1, 0, by
    repeat' apply And.intro
    all_goals first | with_reducible rfl | decide +kernel | exact eq_ok _ _ (by decide +kernel) | exact eq_okOf _ _ (by decide +kernel)⟩,
   ⟨0, planned 0 (issuing []) |> onPart (fun x => { x with lcycle := 100, ended := true }), segment0 0, by
    repeat' apply And.intro
    all_goals first | with_reducible rfl | decide +kernel | exact eq_ok _ _ (by decide +kernel) | exact eq_okOf _ _ (by decide +kernel)⟩,
   ⟨0, onPart (fun x => { x with stepDone := true, doneDesc := some ticket0, binding := [(0, 0)] }) (issuing []), ticket0, by
    repeat' apply And.intro
    all_goals first | with_reducible rfl | decide +kernel | exact eq_ok _ _ (by decide +kernel) | exact eq_okOf _ _ (by decide +kernel)⟩⟩

/-- The premises of each clause of BarriersRun hold of something. -/
theorem test_BarriersRun_premises :
    (∃ (p : Fin 64)  (s : State), (s.mayJoin p.val = true) ∧ (s.agrees p.val = none))
    ∧ (∃ (p : Fin 64)  (s : State)  (j : Nat), (s.mayJoin p.val = true) ∧ (s.agrees p.val = some j) ∧ (s.inTime = true))
    ∧ (∃ (p : Fin 64)  (s : State)  (k : Ticket), (s.live = true) ∧ ((s.part p.val).stepState = .waiting ∧ (s.part p.val).joined = true) ∧ (s.agrees p.val = none) ∧ ((s.part p.val).nextTicket = some k))
    ∧ (∃ (p : Fin 64)  (s : State)  (j : Nat)  (v : Barrier)  (k : Ticket), (s.live = true) ∧ (s.agrees p.val ≠ none) ∧ (s.jobOf p.val = some j) ∧ ((s.job j).barriers.find? (fun y => y.due s.town) = some v) ∧ (v.kind = 0 ∧ (s.part p.val).stepState = .waiting ∧ (s.part p.val).joined = true) ∧ ((s.part p.val).nextTicket = some k))
    ∧ (∃ (p : Fin 64)  (s : State)  (j : Nat)  (v : Barrier), (s.live = true) ∧ (s.agrees p.val ≠ none) ∧ (s.jobOf p.val = some j) ∧ ((s.job j).barriers.find? (fun y => y.due s.town) = some v) ∧ (v.kind = 1))
    ∧ (∃ (s t : State)  (n j : Nat)  (k : Packet), (s.takeType 0x28 = some (n, k, t)) ∧ (t.openSlot k.job = some j))
    ∧ (∃ (s t : State)  (n j : Nat)  (k : Packet)  (w : Word), (s.takeType 0x29 = some (n, k, t)) ∧ (t.openSlot k.job = some j ∧ k.goodWord 0 = some w) ∧ (((t.job j).barrier (k.flags % 2) k.woffset).joined = true ∧ ((t.job j).barrier (k.flags % 2) k.woffset).release = none ∧ (t.part (t.jobPart j)).episode.since = none))
    ∧ (∃ (p : Fin 64)  (s : State)  (j : Nat)  (v : Barrier), (s.live = true) ∧ (s.jobOf p.val = some j) ∧ ((s.job j).barriers.find? (fun v => v.release.isNone && v.sentAt.any (fun t => decide (t + 10 * Config.ticksPerUs ≤ s.town))) = some v))
    ∧ (∃ (p : Fin 64)  (s : State)  (j : Nat)  (v : Barrier), (s.live = true) ∧ (s.jobOf p.val = some j) ∧ ((s.job j).barriers.find? (fun v => v.joined && v.release.isNone && !v.failed && decide (v.joinedAt + s.objNat (0x7200 + j) 0x09 * Config.ticksPerUs ≤ s.town)) = some v)) :=
  ⟨⟨0, waiting0 (issuing []), by
    repeat' apply And.intro
    all_goals first | with_reducible rfl | decide +kernel | exact eq_ok _ _ (by decide +kernel) | exact eq_okOf _ _ (by decide +kernel)⟩,
   ⟨0, { waiting0 (issueJob 3 0) with time := { mode := .root } }, 0, by
    repeat' apply And.intro
    all_goals first | with_reducible rfl | decide +kernel | exact eq_ok _ _ (by decide +kernel) | exact eq_okOf _ _ (by decide +kernel)⟩,
   ⟨0, onPart (fun x => { x with joined := true }) (waiting0 (issuing [])), ticket0, by
    repeat' apply And.intro
    all_goals first | with_reducible rfl | decide +kernel | exact eq_ok _ _ (by decide +kernel) | exact eq_okOf _ _ (by decide +kernel)⟩,
   ⟨0, barrier0 { kind := 0, seq := 0, joined := true, release := some 0 }, 0, { kind := 0, seq := 0, joined := true, release := some 0 }, ticket0, by
    repeat' apply And.intro
    all_goals first | with_reducible rfl | decide +kernel | exact eq_ok _ _ (by decide +kernel) | exact eq_okOf _ _ (by decide +kernel)⟩,
   ⟨0, barrier0 { kind := 1, seq := 0, joined := true, release := some 0 }, 0, { kind := 1, seq := 0, joined := true, release := some 0 }, by
    repeat' apply And.intro
    all_goals first | with_reducible rfl | decide +kernel | exact eq_ok _ _ (by decide +kernel) | exact eq_okOf _ _ (by decide +kernel)⟩,
   ⟨{ fabric with arrived := [(6, packetOf { type := 0x28, dst := 1, src := 2, job := 5 } 0)] }, fabric, 6, 0, packetOf { type := 0x28, dst := 1, src := 2, job := 5 } 0, by
    repeat' apply And.intro
    all_goals first | with_reducible rfl | decide +kernel | exact eq_ok _ _ (by decide +kernel) | exact eq_okOf _ _ (by decide +kernel)⟩,
   ⟨{ barrier0 { kind := 0, seq := 0, joined := true } with arrived := [(6, packetOf { type := 0x29, dst := 1, src := 2, job := 5 } 0)] }, barrier0 { kind := 0, seq := 0, joined := true }, 6, 0, packetOf { type := 0x29, dst := 1, src := 2, job := 5 } 0, 0, by
    repeat' apply And.intro
    all_goals first | with_reducible rfl | decide +kernel | exact eq_ok _ _ (by decide +kernel) | exact eq_okOf _ _ (by decide +kernel)⟩,
   ⟨0, atTown 16000 (barrier0 { kind := 0, seq := 0, joined := true, sentAt := some 0 }), 0, { kind := 0, seq := 0, joined := true, sentAt := some 0 }, by
    repeat' apply And.intro
    all_goals first | with_reducible rfl | decide +kernel | exact eq_ok _ _ (by decide +kernel) | exact eq_okOf _ _ (by decide +kernel)⟩,
   ⟨0, atTown (2 ^ 50) (barrier0 { kind := 0, seq := 0, joined := true }), 0, { kind := 0, seq := 0, joined := true }, by
    repeat' apply And.intro
    all_goals first | with_reducible rfl | decide +kernel | exact eq_ok _ _ (by decide +kernel) | exact eq_okOf _ _ (by decide +kernel)⟩⟩

/-- The premises of each clause of IntakeRuns hold of something. -/
theorem test_IntakeRuns_premises :
    (∃ (f : FnId)  (entry : Desc)  (s : State), (s.live = true) ∧ ((s.fn f).enable = true ∧ (s.fn f).halted = false ∧ (s.fn f).current = none ∧ (s.fn f).head ≠ (s.fn f).tail) ∧ ((s.fn f).hasRoom = true ∧ (s.fn f).queued = [] ∧ s.portFast f.port.val = true) ∧ (descCrcOk entry = true ∧ hostFieldsOk entry = true))
    ∧ (∃ (k : Fin 20)  (entry e : Desc)  (j : Option Nat)  (l : List (Option Nat × Desc))  (s : State), (s.live = true) ∧ ((s.core k.val).current = none ∧ (s.core k.val).intake = (j, e) :: l) ∧ (descCrcOk e = true ∧ hostFieldsOk e = true))
    ∧ (∃ (src : Src)  (d : Desc)  (s : State), (s.live = true) ∧ (s.current src = some d) ∧ (dKind d = 1 ∧ descCrcOk d = true ∧ hostFieldsOk d = true) ∧ (dPart d < 64 ∧ (s.part (dPart d)).tickets.length < 4) ∧ (s.ticketCause (s.judge src) d = none))
    ∧ (∃ (f : FnId)  (s : State)  (reserved : Bool)  (l : List Byte)  (rest : List (Bool × List Byte)), (s.live = true) ∧ (s.portFast f.port.val = true) ∧ ((s.fn f).queued = (reserved, l) :: rest) ∧ (reserved = true ∨ (s.fn f).hasRoom = true)) :=
  ⟨⟨pf0, entry0 3 0, ring0 (fun x => { x with tail := 1 }), by
    repeat' apply And.intro
    all_goals first | with_reducible rfl | decide +kernel | exact eq_ok _ _ (by decide +kernel) | exact eq_okOf _ _ (by decide +kernel)⟩,
   ⟨0, 0, entry0 3 0, none, [], { cores := [(0, { intake := [(none, entry0 3 0)] })] }, by
    repeat' apply And.intro
    all_goals first | with_reducible rfl | decide +kernel | exact eq_ok _ _ (by decide +kernel) | exact eq_okOf _ _ (by decide +kernel)⟩,
   ⟨.core 0, entry0 1 0, idle0 (entry0 1 0), by
    repeat' apply And.intro
    all_goals first | with_reducible rfl | decide +kernel | exact eq_ok _ _ (by decide +kernel) | exact eq_okOf _ _ (by decide +kernel)⟩,
   ⟨pf0, ring0 (fun x => { x with queued := [(false, [])] }), false, [], [], by
    repeat' apply And.intro
    all_goals first | with_reducible rfl | decide +kernel | exact eq_ok _ _ (by decide +kernel) | exact eq_okOf _ _ (by decide +kernel)⟩⟩

/-- The premises of each clause of LoaderRuns hold of something. -/
theorem test_LoaderRuns_premises :
    (∃ (src : Src)  (image : List Byte)  (d : Desc)  (s : State), (s.entryOf src 2 = some d) ∧ (dLength d ≤ image.length ∧ s.portFast (srcPort src) = true) ∧ (s.mayRun (s.judge src) (dPart d) = true ∧ (s.part (dPart d)).plans.find? (dSlot d) = none) ∧ (s.imageCause (dPart d) (image.take (dLength d)) = none))
    ∧ (∃ (src : Src)  (d : Desc)  (pl : Plan)  (s : State), (s.entryOf src 3 = some d) ∧ (s.mayRun (s.judge src) (dPart d) = true) ∧ ((s.part (dPart d)).plans.find? (dSlot d) = some pl ∧ pl.unloading = false))
    ∧ (∃ (src : Src)  (es : List (BitVec 128))  (d : Desc)  (s : State), (s.entryOf src 4 = some d) ∧ (field d 304 16 + 1 ≤ es.length ∧ s.portFast (srcPort src) = true) ∧ (s.mayLoad (s.judge src) (dPart d) = true) ∧ (¬(s.genFirst (dPart d) ≤ field d 320 16 + field d 304 16 ∧ field d 320 16 < s.genFirst (dPart d))) ∧ (s.entriesCause (s.judge src) (dPart d) (field d 288 8) (field d 320 16) (es.take (field d 304 16 + 1)) = none))
    ∧ (∃ (src : Src)  (d : Desc)  (s : State), (s.entryOf src 5 = some d) ∧ (s.mayLoad (s.judge src) (dPart d) = true) ∧ (s.entriesCause (s.judge src) (dPart d) (field d 288 8) (field d 320 16) [BitVec.ofNat 128 (field d 368 128)] = none)) :=
  ⟨⟨.core 0, image1, loadEntry, idle0 loadEntry, by
    exact ⟨load_holds.1, load_holds.2.1, load_holds.2.2.1, load_holds.2.2.2⟩⟩,
   ⟨.core 0, entry0 3 0, plan0 0, idle0 (entry0 3 0), by
    repeat' apply And.intro
    all_goals first | with_reducible rfl | decide +kernel | exact eq_ok _ _ (by decide +kernel) | exact eq_okOf _ _ (by decide +kernel)⟩,
   ⟨.core 0, [buffer 0 16], entry0 4 (2 ^ 320 + 2 ^ 288 * 255), idle0 (entry0 4 (2 ^ 320 + 2 ^ 288 * 255)), by
    repeat' apply And.intro
    all_goals first | with_reducible rfl | decide +kernel | exact eq_ok _ _ (by decide +kernel) | exact eq_okOf _ _ (by decide +kernel)⟩,
   ⟨.core 0, entry0 5 (2 ^ 320 + 2 ^ 288 * 255 + 2 ^ 368 * (buffer 0 16).toNat), idle0 (entry0 5 (2 ^ 320 + 2 ^ 288 * 255 + 2 ^ 368 * (buffer 0 16).toNat)), by
    repeat' apply And.intro
    all_goals first | with_reducible rfl | decide +kernel | exact eq_ok _ _ (by decide +kernel) | exact eq_okOf _ _ (by decide +kernel)⟩⟩

/-- The premises of each clause of DmaRuns hold of something. -/
theorem test_DmaRuns_premises :
    (∃ (src : Src)  (data : List Word)  (d : Desc)  (k : Nat)  (s : State), (s.entryOf src 6 = some d) ∧ (dLength d / 32 ≤ data.length) ∧ (s.dmaReady src d = true) ∧ (s.dmaCause src d = none ∧ s.dmaTenant d = some k) ∧ (s.tierUp (dDpa d / 32) = true))
    ∧ (∃ (src : Src)  (d : Desc)  (k : Nat)  (s : State), (s.entryOf src 7 = some d) ∧ (s.dmaReady src d = true) ∧ (s.dmaCause src d = none ∧ s.dmaTenant d = some k) ∧ (s.tierUp (dDpa d / 32) = true) ∧ ((if dTier d = 0 then readRun s.mem (dmaAddrs d) else s.readTier (dKey d) (dmaAddrs d)).failed = none))
    ∧ (∃ (src : Src)  (n : Nat)  (c : Status)  (s : State), (s.live = true) ∧ (s.movedOf src = some (n, c))) :=
  ⟨⟨.core 0, [0], entry0 6 (2 ^ 336 * 32), 0, idle0 (entry0 6 (2 ^ 336 * 32)), by
    repeat' apply And.intro
    all_goals first | with_reducible rfl | decide +kernel | exact eq_ok _ _ (by decide +kernel) | exact eq_okOf _ _ (by decide +kernel)⟩,
   ⟨.core 0, entry0 7 (2 ^ 336 * 32), 0, idle0 (entry0 7 (2 ^ 336 * 32)), by
    repeat' apply And.intro
    all_goals first | with_reducible rfl | decide +kernel | exact eq_ok _ _ (by decide +kernel) | exact eq_okOf _ _ (by decide +kernel)⟩,
   ⟨.core 0, 0, .ok, { cores := [(0, { moved := some (0, .ok) })] }, by
    repeat' apply And.intro
    all_goals first | with_reducible rfl | decide +kernel | exact eq_ok _ _ (by decide +kernel) | exact eq_okOf _ _ (by decide +kernel)⟩⟩

/-- The premises of each clause of RequestDescriptorsRun hold of something. -/
theorem test_RequestDescriptorsRun_premises :
    (∃ (src : Src)  (d : Desc)  (n : Nat)  (s : State), (Requested s src 1 d) ∧ (s.freeResident = some n ∨ (s.freeResident = none ∧ s.freeParked = some n)))
    ∧ (∃ (src : Src)  (d : Desc)  (i : Nat)  (r : Request)  (s : State), (Requested s src 2 d) ∧ (s.findRequest (dPart d) (rqId d) = some (i, r)) ∧ (r.fault = 0))
    ∧ (∃ (src : Src)  (d : Desc)  (i : Nat)  (s : State), (Requested s src 3 d) ∧ (s.findRequest (dPart d) (rqId d) = some (i, s.request i)) ∧ ((s.request i).fault = 0))
    ∧ (∃ (src : Src)  (d : Desc)  (i : Nat)  (s : State), (Requested s src 4 d) ∧ (s.findRequest (dPart d) (rqId d) = some (i, s.request i)) ∧ ((s.request i).fault = 0)) :=
  ⟨⟨.core 0, request0 1 (2 ^ 292 + 2 ^ 272 + 2 ^ 312 * 2 ^ 54), 0, requesting [] (request0 1 (2 ^ 292 + 2 ^ 272 + 2 ^ 312 * 2 ^ 54)), by
    repeat' apply And.intro
    all_goals first | with_reducible rfl | decide +kernel | exact eq_ok _ _ (by decide +kernel) | exact eq_okOf _ _ (by decide +kernel)⟩,
   ⟨.core 0, request0 2 (2 ^ 292 + 2 ^ 272 + 2 ^ 312 * 2 ^ 54), 0, { state := .paused }, requesting [(0, { state := .paused })] (request0 2 (2 ^ 292 + 2 ^ 272 + 2 ^ 312 * 2 ^ 54)), by
    repeat' apply And.intro
    all_goals first | with_reducible rfl | decide +kernel | exact eq_ok _ _ (by decide +kernel) | exact eq_okOf _ _ (by decide +kernel)⟩,
   ⟨.core 0, request0 3 0, 0, requesting [(0, { state := .active })] (request0 3 0), by
    repeat' apply And.intro
    all_goals first | with_reducible rfl | decide +kernel | exact eq_ok _ _ (by decide +kernel) | exact eq_okOf _ _ (by decide +kernel)⟩,
   ⟨.core 0, request0 4 0, 0, requesting [(0, { state := .active })] (request0 4 0), by
    repeat' apply And.intro
    all_goals first | with_reducible rfl | decide +kernel | exact eq_ok _ _ (by decide +kernel) | exact eq_okOf _ _ (by decide +kernel)⟩⟩

/-- The premises of each clause of RequestTableRuns hold of something. -/
theorem test_RequestTableRuns_premises :
    (∃ (s : State)  (i j : Nat)  (r : Request), (s.live = true) ∧ (8192 < s.residents + 256) ∧ (s.parkChoice = some (i, r) ∧ s.freeParked = some j) ∧ (s.mayMove i j = true ∧ (s.request i).state ≠ .free))
    ∧ (∃ (s : State)  (i j : Nat)  (r : Request), (s.live = true) ∧ (s.residents + 512 < 8192) ∧ (s.unparkChoice = some (i, r) ∧ s.freeResident = some j) ∧ (s.mayMove i j = true ∧ (s.request i).state ≠ .free))
    ∧ (∃ (i : Nat)  (s : State), (s.live = true) ∧ (i < 8192 ∧ s.isBound (s.request i).partition i = false) ∧ ((s.request i).prepared = true ∨ s.cacheHolds (s.request i).partition (s.request i).dir.length = true) ∧ ((s.request i).state = .active))
    ∧ (∃ (i : Nat)  (s t : State)  (l : List Byte), (s.live = true) ∧ (i < 8192 ∧ s.isBound (s.request i).partition i = false) ∧ ((s.request i).prepared = true ∨ s.cacheHolds (s.request i).partition (s.request i).dir.length = true) ∧ ((s.request i).state = .admitted) ∧ (((s.requestsOf (s.request i).partition).filter (fun e => e.1 != i && !e.2.chunk.isEmpty)).length < s.objNat (0x5300 + (s.request i).partition) 0x01) ∧ (s.serviceReady (some (s.request i).tenant) ((s.request i).input / 32) = true) ∧ ((let k := if (s.request i).joinLast then 1 else 0
     s.readBytes (s.request i).partition (s.request i).tenant ((s.request i).input + 4 * k) (4 * (s.chunkLen (s.request i).partition (s.request i) - k)) = (some l, t))))
    ∧ (∃ (i : Nat)  (s : State), (s.live = true) ∧ ((s.request i).state = .kerbed ∧ (s.request i).expiry ≤ s.town) ∧ ((s.request i).fault = 0))
    ∧ (∃ (i : Nat)  (s : State), (s.live = true) ∧ ((s.request i).state = .kerbed ∧ (s.request i).expiry ≤ s.town) ∧ ((s.request i).fault ≠ 0))
    ∧ (∃ (p : Fin 64)  (s : State)  (t : Ticket), (s.live = true) ∧ ((s.part p.val).nextTicket = some t) ∧ ((s.part p.val).stepState = .waiting ∧ (s.part p.val).resolving = true)) :=
  ⟨⟨_, _, _, _, by
    exact (full_holds 7937 (by omega) (by omega)).choose_spec.choose_spec.choose_spec⟩,
   ⟨{ requests := [(8192, { state := .recalling })] }, 8192, 0, { state := .recalling }, by
    repeat' apply And.intro
    all_goals first | with_reducible rfl | decide +kernel | exact eq_ok _ _ (by decide +kernel) | exact eq_okOf _ _ (by decide +kernel)⟩,
   ⟨0, serving0 [(0, { state := .active })] (issuing []), by
    repeat' apply And.intro
    all_goals first | with_reducible rfl | decide +kernel | exact eq_ok _ _ (by decide +kernel) | exact eq_okOf _ _ (by decide +kernel)⟩,
   ⟨0, serving0 [(0, { state := .admitted, prefill := 8, input := 2 ^ 54 })] (issuing []), (((serving0 [(0, { state := .admitted, prefill := 8, input := 2 ^ 54 })] (issuing [])).readBytes 0 0 (2 ^ 54) (4 * 8)).2), (((serving0 [(0, { state := .admitted, prefill := 8, input := 2 ^ 54 })] (issuing [])).readBytes 0 0 (2 ^ 54) (4 * 8)).1.getD []), by
    exact ⟨by decide +kernel, by decide +kernel, by decide +kernel, by decide +kernel, by decide +kernel, by decide +kernel, Prod.ext (by decide +kernel) rfl⟩⟩,
   ⟨0, serving0 [(0, { state := .kerbed })] {}, by
    repeat' apply And.intro
    all_goals first | with_reducible rfl | decide +kernel | exact eq_ok _ _ (by decide +kernel) | exact eq_okOf _ _ (by decide +kernel)⟩,
   ⟨0, serving0 [(0, { state := .kerbed, fault := 3 })] {}, by
    repeat' apply And.intro
    all_goals first | with_reducible rfl | decide +kernel | exact eq_ok _ _ (by decide +kernel) | exact eq_okOf _ _ (by decide +kernel)⟩,
   ⟨0, onPart (fun x => { x with resolving := true }) (waiting0 (issuing [])), ticket0, by
    repeat' apply And.intro
    all_goals first | with_reducible rfl | decide +kernel | exact eq_ok _ _ (by decide +kernel) | exact eq_okOf _ _ (by decide +kernel)⟩⟩

/-- The premises of each clause of KerbingRuns hold of something. -/
theorem test_KerbingRuns_premises :
    (∃ (p : Fin 64)  (i : Nat)  (r : Request)  (l : List (Nat × Request))  (s : State), (s.live = true) ∧ (KerbOrder s p.val ((i, r) :: l)) ∧ (r.dir.length ≤ s.freeKerb p.val))
    ∧ (∃ (i j f k g a : Nat)  (s t : State), (s.live = true) ∧ ((s.request i).state = .kerbing ∧ ((s.request i).kerbSum = false ∨ (s.request i).summarised = true)) ∧ (List.find? (fun e => ((s.request i).kerbDir.find? e.1).isNone) (s.request i).dir = some (j, f)) ∧ (s.frameAddr (s.request i).partition j f = some a ∧ s.nextKerb (s.request i).partition = some (k, g)) ∧ (s.frameReady (s.request i).tenant a (s.kerbAddr (s.request i).partition k g) = true) ∧ ((s.takeKerb (s.request i).partition (s.request i).tenant k g).copyFrame (s.request i).tenant a ((s.takeKerb (s.request i).partition (s.request i).tenant k g).kerbAddr (s.request i).partition k g) = some t))
    ∧ (∃ (i j e f a : Nat)  (s t : State), (s.live = true) ∧ ((s.request i).state = .recalling ∧ i < 8192) ∧ (List.find? (fun e => ((s.request i).dir.find? e.1).isNone) (s.request i).kerbDir = some (j, e)) ∧ ((s.request i).kerbDir.length ≤ s.freeFrames (s.request i).partition + (s.request i).dir.length) ∧ (s.pickFrame (s.request i).partition (s.request i).tenant j = some f ∧ s.frameAddr (s.request i).partition j f = some a) ∧ (s.frameReady (s.request i).tenant (s.kerbAddr (s.request i).partition (e / 2 ^ 26) (e % 2 ^ 26)) a = true) ∧ ((s.takeFrame (s.request i).partition (s.request i).tenant j f).copyFrame (s.request i).tenant (s.kerbAddr (s.request i).partition (e / 2 ^ 26) (e % 2 ^ 26)) a = some t))
    ∧ (∃ (p : Fin 64)  (i : Nat)  (r : Request)  (l : List (Nat × Request))  (pl : Plan)  (s : State), (s.live = true) ∧ (s.toSummarise p.val = (i, r) :: l) ∧ ((s.part p.val).plans.find? (s.objNat (0x5100 + p.val) 0x0A) = some pl ∧ pl.unloading = false) ∧ ((s.part p.val).partState = 1 ∧ (s.part p.val).kerbTicket = none ∧ ¬((s.part p.val).runKerb = true ∧ (s.part p.val).running.isSome = true)) ∧ (s.objNat (0x5100 + p.val) 0x0D ≤ (s.part p.val).sinceSummary))
    ∧ (∃ (p : Fin 64)  (u sec q : Nat)  (l : List (List Byte))  (s : State), (s.live = true) ∧ (s.utcOf s.town = some u) ∧ (s.serving.leaves.find? (fun e => e.1 == p.val) = some (q, sec, l)) ∧ (sec < u / 1000000)) :=
  ⟨⟨0, 0, { state := .paused }, [], atTown (2 ^ 50) (serving0 [(0, { state := .paused })] (issuing [])), by
    repeat' apply And.intro
    all_goals first | with_reducible rfl | decide +kernel | exact eq_ok _ _ (by decide +kernel) | exact eq_okOf _ _ (by decide +kernel)⟩,
   ⟨0, 0, 0, 0, 0, 2 ^ 49, kerbing0, _, by
    exact ⟨by decide +kernel, by decide +kernel, by decide +kernel, by decide +kernel, by decide +kernel, kerb_copies.choose_spec⟩⟩,
   ⟨0, 0, 0, 0, 2 ^ 49, recalling0, _, by
    exact ⟨by decide +kernel, by decide +kernel, by decide +kernel, by decide +kernel, by decide +kernel, by decide +kernel, recall_copies.choose_spec⟩⟩,
   ⟨0, 0, { state := .kerbing, kerbSum := true }, [], plan0 0, onPart (fun x => { x with sinceSummary := 16 }) (serving0 [(0, { state := .kerbing, kerbSum := true })] (planned 0 (issuing []))), by
    repeat' apply And.intro
    all_goals first | with_reducible rfl | decide +kernel | exact eq_ok _ _ (by decide +kernel) | exact eq_okOf _ _ (by decide +kernel)⟩,
   ⟨0, 2000000, 0, 0, [[]], atTown (1600 * 2000000) { time := { utc := some (0, 0) }, serving := { leaves := [(0, 0, [[]])] } }, by
    repeat' apply And.intro
    all_goals first | with_reducible rfl | decide +kernel | exact eq_ok _ _ (by decide +kernel) | exact eq_okOf _ _ (by decide +kernel)⟩⟩

/-- The premises of each clause of KerbModeIsRead hold of something. -/
theorem test_KerbModeIsRead_premises :
    ∃ (p : Fin 64)  (i : Nat)  (r : Request)  (l : List (Nat × Request))  (s : State), (s.live = true) ∧ (KerbOrder s p.val ((i, r) :: l)) ∧ (r.dir.length ≤ s.freeKerb p.val) :=
  ⟨0, 0, { state := .paused }, [], atTown (2 ^ 50) (serving0 [(0, { state := .paused })] (issuing [])), by
    repeat' apply And.intro
    all_goals first | with_reducible rfl | decide +kernel | exact eq_ok _ _ (by decide +kernel) | exact eq_okOf _ _ (by decide +kernel)⟩

/-- The premises of each clause of RoutineEventsRun hold of something. -/
theorem test_RoutineEventsRun_premises :
    (∃ (p : Fin 64)  (s : State), (s.live = true) ∧ ((s.part p.val).partState ≠ 0 ∧ (s.part p.val).routine.started = true ∧ (s.part p.val).routine.code ≠ []) ∧ (s.inSlice p.val = true ∧ s.sliceAfterStart p.val = true))
    ∧ (∃ (p : Fin 64)  (s : State), (s.live = true) ∧ ((s.part p.val).routine.mode = .suspended ∧ s.inSlice p.val = true))
    ∧ (∃ (p : Fin 64)  (s : State), (s.live = true) ∧ ((s.part p.val).routine.mode = .running ∧ s.inSlice p.val = false))
    ∧ (∃ (k p : Nat)  (s : State)  (d : RvDone), (k < 16 ∧ s.firmwareTurn k = false ∧ s.userPart k (s.calendar k / 64 - 1) = some p) ∧ ((s.part p).routine.busy ≤ 1) ∧ ((s.setRoutine p { (s.part p).routine with busy := 0 }).rvNow k p = .done d))
    ∧ (∃ (k : Nat)  (s : State)  (d : RvDone), (s.firmwareTurn k = true) ∧ ((s.core k).busy ≤ 1 ∧ (s.core k).interrupt = none) ∧ ((s.setCore k { s.core k with busy := 0 }).fwNow k = .done d) ∧ (d.csr = none ∧ d.mret = false))
    ∧ (∃ (k i : Nat)  (s : State), (s.firmwareTurn k = true) ∧ ((s.core k).busy ≤ 1 ∧ (s.core k).interrupt = some i)) :=
  ⟨⟨0, { routine0 { started := true, code := [0] } (issuing []) with now := 4 }, by
    repeat' apply And.intro
    all_goals first | with_reducible rfl | decide +kernel | exact eq_ok _ _ (by decide +kernel) | exact eq_okOf _ _ (by decide +kernel)⟩,
   ⟨0, routine0 { mode := .suspended } (issuing []), by
    repeat' apply And.intro
    all_goals first | with_reducible rfl | decide +kernel | exact eq_ok _ _ (by decide +kernel) | exact eq_okOf _ _ (by decide +kernel)⟩,
   ⟨0, onPart (fun x => { x with routine := { mode := .running } }) (issuing []), by
    repeat' apply And.intro
    all_goals first | with_reducible rfl | decide +kernel | exact eq_ok _ _ (by decide +kernel) | exact eq_okOf _ _ (by decide +kernel)⟩,
   ⟨0, 0, runs0 0x00150513 (issuing []), { rd := 10, value := 1, pc := 0x10004, reserved := none }, by
    repeat' apply And.intro
    all_goals first | with_reducible rfl | decide +kernel | exact eq_ok _ _ (by decide +kernel) | exact eq_okOf _ _ (by decide +kernel)⟩,
   ⟨0, firm0 0x00150513, { rd := 10, value := 1, pc := 4, reserved := none }, by
    repeat' apply And.intro
    all_goals first | with_reducible rfl | decide +kernel | exact eq_ok _ _ (by decide +kernel) | exact eq_okOf _ _ (by decide +kernel)⟩,
   ⟨0, 7, { firm0 0 with cores := [(0, { mstatus := 8, mie := 0x80, mip := 0x80 })] }, by
    repeat' apply And.intro
    all_goals first | with_reducible rfl | decide +kernel | exact eq_ok _ _ (by decide +kernel) | exact eq_okOf _ _ (by decide +kernel)⟩⟩

/-- The premises of each clause of RoutineFaultFails hold of something. -/
theorem test_RoutineFaultFails_premises :
    ∃ (p : Fin 64)  (cause : RoutineFault)  (s : State), (s.faultsNow p.val cause = true) ∧ ((s.part p.val).routine.started = false) :=
  ⟨0, .ebreak, runs0 0x00100073 (issuing []), by
    repeat' apply And.intro
    all_goals first | with_reducible rfl | decide +kernel | exact eq_ok _ _ (by decide +kernel) | exact eq_okOf _ _ (by decide +kernel)⟩

/-- The premises of each clause of CkInstructionsRun hold of something. -/
theorem test_CkInstructionsRun_premises :
    (∃ (k : Fin 20)  (m : CkMode)  (rd rs1 : Fin 32)  (s : State)  (w : Runner), (s.runner k.val 0 [(7, rd.val), (15, rs1.val)] m = some w))
    ∧ (∃ (k : Fin 20)  (m : CkMode)  (rd rs1 rs2 : Fin 32)  (s t : State)  (w : Runner)  (l : List Byte), (s.runner k.val 1 [(7, rd.val), (15, rs1.val), (20, rs2.val)] m = some w) ∧ (s.writable k.val w (s.reg k.val w rs2.val).toNat (if s.queueNamed k.val w (s.reg k.val w rs1.val).toNat = .posts then 128 else 32) = true) ∧ (s.popQueue k.val (s.queueNamed k.val w (s.reg k.val w rs1.val).toNat) = some (l, t)))
    ∧ (∃ (k : Fin 20)  (m : CkMode)  (rd rs1 rs2 : Fin 32)  (s : State)  (w : Runner), (s.runner k.val 1 [(7, rd.val), (15, rs1.val), (20, rs2.val)] m = some w) ∧ (s.writable k.val w (s.reg k.val w rs2.val).toNat (if s.queueNamed k.val w (s.reg k.val w rs1.val).toNat = .posts then 128 else 32) = true) ∧ (s.popQueue k.val (s.queueNamed k.val w (s.reg k.val w rs1.val).toNat) = none))
    ∧ (∃ (k : Fin 20)  (m : CkMode)  (rd rs1 : Fin 32)  (s : State)  (w : Runner)  (p : Nat)  (g : Segment), (s.runner k.val 2 [(7, rd.val), (15, rs1.val)] m = some w) ∧ (s.subject k.val w = some p ∧ (s.part p).seg = some g))
    ∧ (∃ (k : Fin 20)  (m : CkMode)  (rd rs1 : Fin 32)  (s : State)  (w : Runner)  (p : Nat)  (t : Ticket), (s.runner k.val 3 [(7, rd.val), (15, rs1.val)] m = some w) ∧ (s.writable k.val w (s.reg k.val w rs1.val).toNat 64 = true) ∧ (s.subject k.val w = some p ∧ (s.part p).runningTicket = some t))
    ∧ (∃ (k : Fin 20)  (m : CkMode)  (rd rs1 : Fin 32)  (s : State)  (w : Runner)  (d : Desc), (s.runner k.val 4 [(7, rd.val), (15, rs1.val)] m = some w) ∧ (s.writable k.val w (s.reg k.val w rs1.val).toNat 64 = true) ∧ (d = BitVec.ofNat 512 (leNat (s.load k.val (s.reg k.val w rs1.val).toNat 64)) ∧ s.coreFlawed k.val (s.reg k.val w rs1.val).toNat 64 = false) ∧ ((s.core k.val).intake.length < 16 ∧ descCrcOk d = true ∧ s.mayPost k.val w d = true))
    ∧ (∃ (k : Fin 20)  (m : CkMode)  (rd rs1 : Fin 32)  (s : State)  (w : Runner), (s.runner k.val 5 [(7, rd.val), (15, rs1.val)] m = some w) ∧ (s.events k.val w &&& ((s.reg k.val w rs1.val).toNat ||| 16) ≠ 0))
    ∧ (∃ (k : Fin 20)  (m : CkMode)  (s : State)  (p : Nat), (s.runner k.val 6 [] m = some (.routine p)))
    ∧ (∃ (k : Fin 20)  (m : CkMode)  (s : State), (s.runner k.val 6 [] m = some .firmware)) :=
  ⟨⟨0, user0, 1, 0, runs0 (ck0 0 1 0 0) (issuing []), .routine 0, by
    repeat' apply And.intro
    all_goals first | with_reducible rfl | decide +kernel | exact eq_ok _ _ (by decide +kernel) | exact eq_okOf _ _ (by decide +kernel)⟩,
   ⟨0, user0, 1, 0, 5, runs0 (ck0 1 1 0 5) (issuing []), ran0 (ck0 1 1 0 5) [] (issuing []), .routine 0, zeros 32, by
    repeat' apply And.intro
    all_goals first | with_reducible rfl | decide +kernel | exact eq_ok _ _ (by decide +kernel) | exact eq_okOf _ _ (by decide +kernel)⟩,
   ⟨0, user0, 1, 5, 5, runs0 (ck0 1 1 5 5) (issuing []), .routine 0, by
    repeat' apply And.intro
    all_goals first | with_reducible rfl | decide +kernel | exact eq_ok _ _ (by decide +kernel) | exact eq_okOf _ _ (by decide +kernel)⟩,
   ⟨0, user0, 1, 0, runs0 (ck0 2 1 0 0) (planned 2 (issuing [])), .routine 0, 0, segment0 2, by
    repeat' apply And.intro
    all_goals first | with_reducible rfl | decide +kernel | exact eq_ok _ _ (by decide +kernel) | exact eq_okOf _ _ (by decide +kernel)⟩,
   ⟨0, user0, 1, 5, runs0 (ck0 3 1 5 0) (planned 0 (issuing [])), .routine 0, 0, ticket0, by
    repeat' apply And.intro
    all_goals first | with_reducible rfl | decide +kernel | exact eq_ok _ _ (by decide +kernel) | exact eq_okOf _ _ (by decide +kernel)⟩,
   ⟨0, user0, 1, 5, posting, .routine 0, _, by
    repeat' apply And.intro
    all_goals first | with_reducible rfl | decide +kernel | exact eq_ok _ _ (by decide +kernel) | exact eq_okOf _ _ (by decide +kernel)⟩,
   ⟨0, user0, 1, 6, runs0 (ck0 5 1 6 0) (issuing []), .routine 0, by
    repeat' apply And.intro
    all_goals first | with_reducible rfl | decide +kernel | exact eq_ok _ _ (by decide +kernel) | exact eq_okOf _ _ (by decide +kernel)⟩,
   ⟨0, user0, runs0 (ck0 6 0 0 0) (issuing []), 0, by
    repeat' apply And.intro
    all_goals first | with_reducible rfl | decide +kernel | exact eq_ok _ _ (by decide +kernel) | exact eq_okOf _ _ (by decide +kernel)⟩,
   ⟨0, .machine, firm0 (ck0 6 1 0 0), by
    repeat' apply And.intro
    all_goals first | with_reducible rfl | decide +kernel | exact eq_ok _ _ (by decide +kernel) | exact eq_okOf _ _ (by decide +kernel)⟩⟩

/-- The premises of each clause of CoreEventsRun hold of something. -/
theorem test_CoreEventsRun_premises :
    (∃ (k : Fin 20)  (s : State), (s.fwAt k.val wdogIs = true))
    ∧ (∃ (k : Fin 20)  (s : State), (s.coreUp k.val = true) ∧ ((s.core k.val).warned = false ∧ (s.core k.val).wdogAt + 900 * Config.ticksPerUs ≤ s.town))
    ∧ (∃ (k : Fin 20)  (s : State), (s.coreUp k.val = true) ∧ ((s.core k.val).wdogAt + Config.ticksPerMs ≤ s.town))
    ∧ (∃ (k : Fin 20)  (s : State), (s.flawedNow k.val = true))
    ∧ (∃ (k : Fin 20)  (s : State), (s.coreUp k.val = true) ∧ ((s.core k.val).mtimecmp.toNat ≤ s.town)) :=
  ⟨⟨0, firm0 0x7C101073, by
    repeat' apply And.intro
    all_goals first | with_reducible rfl | decide +kernel | exact eq_ok _ _ (by decide +kernel) | exact eq_okOf _ _ (by decide +kernel)⟩,
   ⟨0, atTown (2 ^ 50) {}, by
    repeat' apply And.intro
    all_goals first | with_reducible rfl | decide +kernel | exact eq_ok _ _ (by decide +kernel) | exact eq_okOf _ _ (by decide +kernel)⟩,
   ⟨0, atTown (2 ^ 50) {}, by
    repeat' apply And.intro
    all_goals first | with_reducible rfl | decide +kernel | exact eq_ok _ _ (by decide +kernel) | exact eq_okOf _ _ (by decide +kernel)⟩,
   ⟨0, { firm0 0 with flaws := [(flawCore 0 0, 3)] }, by
    repeat' apply And.intro
    all_goals first | with_reducible rfl | decide +kernel | exact eq_ok _ _ (by decide +kernel) | exact eq_okOf _ _ (by decide +kernel)⟩,
   ⟨0, atTown (2 ^ 50) {}, by
    repeat' apply And.intro
    all_goals first | with_reducible rfl | decide +kernel | exact eq_ok _ _ (by decide +kernel) | exact eq_okOf _ _ (by decide +kernel)⟩⟩

/-- The premises of each clause of PartitionCommandsRun hold of something. -/
theorem test_PartitionCommandsRun_premises :
    (∃ (s T : State)  (src : Source)  (l : List Byte)  (rest : List (Source × List Byte))  (a : Ask)  (n : Fin 64), (Row s src l rest (0x4000 + n.val) 0x05 T a) ∧ ((T.part n.val).partState = 0 ∧ (T.tenant (leAt a.value 32 1)).state = 1) ∧ (leAt a.value 33 1 ≤ 1 ∧ T.mapOk (BitVec.ofNat 256 (leAt a.value 0 32)) (leAt a.value 33 1 == 1) = true))
    ∧ (∃ (s T : State)  (src : Source)  (l : List Byte)  (rest : List (Source × List Byte))  (a : Ask)  (n : Fin 64), (Row s src l rest (0x4000 + n.val) 0x06 T a) ∧ (T.destroyable n.val = true))
    ∧ (∃ (s T : State)  (src : Source)  (l : List Byte)  (rest : List (Source × List Byte))  (a : Ask)  (n : Fin 64), (Row s src l rest (0x4000 + n.val) 0x04 T a) ∧ (bitAt (BitVec.ofNat 256 a.num) (T.part n.val).owner = true))
    ∧ (∃ (s T : State)  (src : Source)  (l : List Byte)  (rest : List (Source × List Byte))  (a : Ask)  (n : Fin 64), (Row s src l rest (0x4000 + n.val) 0x0A T a))
    ∧ (∃ (s T : State)  (src : Source)  (l : List Byte)  (rest : List (Source × List Byte))  (a : Ask)  (n : Fin 64), (Row s src l rest (0x5200 + n.val) 0x08 T a) ∧ (a.num ≤ 1) ∧ ((T.part n.val).gen a.num = 0 ∧ T.objNat (0x5200 + n.val) (1 + a.num) ≠ 0 ∧ (T.part n.val).gen (otherGen a.num) = 1 ∧ T.genRequests n.val a.num = []))
    ∧ (∃ (s T : State)  (src : Source)  (l : List Byte)  (rest : List (Source × List Byte))  (a : Ask)  (n : Fin 64), (Row s src l rest (0x5200 + n.val) 0x09 T a) ∧ ((T.part n.val).gen0 = 2 ∨ (T.part n.val).gen1 = 2))
    ∧ (∃ (s T : State)  (src : Source)  (l : List Byte)  (rest : List (Source × List Byte))  (a : Ask)  (n : Fin 64), (Row s src l rest (0x9100 + n.val) 0x20 T a)) :=
  ⟨⟨asked (order 0x4000 5 15 (natBytes 32 3 ++ [0, 0])) ({ tenants := [(0, { state := 1 })] }), _, .frame 7, order 0x4000 5 15 (natBytes 32 3 ++ [0, 0]), [], _, 0, by
    repeat' apply And.intro
    all_goals first | with_reducible rfl | decide +kernel | exact eq_ok _ _ (by decide +kernel) | exact eq_okOf _ _ (by decide +kernel)⟩,
   ⟨asked (order 0x4000 6 9 [1]) (living {}), _, .frame 7, order 0x4000 6 9 [1], [], _, 0, by
    repeat' apply And.intro
    all_goals first | with_reducible rfl | decide +kernel | exact eq_ok _ _ (by decide +kernel) | exact eq_okOf _ _ (by decide +kernel)⟩,
   ⟨asked (change 0x4000 4 15 (natBytes 32 1)) (living {}), _, .frame 7, change 0x4000 4 15 (natBytes 32 1), [], _, 0, by
    repeat' apply And.intro
    all_goals first | with_reducible rfl | decide +kernel | exact eq_ok _ _ (by decide +kernel) | exact eq_okOf _ _ (by decide +kernel)⟩,
   ⟨asked (order 0x4000 0x0A 15 (zeros 64)) (living {}), _, .frame 7, order 0x4000 0x0A 15 (zeros 64), [], _, 0, by
    repeat' apply And.intro
    all_goals first | with_reducible rfl | decide +kernel | exact eq_ok _ _ (by decide +kernel) | exact eq_okOf _ _ (by decide +kernel)⟩,
   ⟨asked (order 0x5200 8 1 [1]) ((living {}).storeRaw 0x5200 2 [1, 0]), _, .frame 7, order 0x5200 8 1 [1], [], _, 0, by
    repeat' apply And.intro
    all_goals first | with_reducible rfl | decide +kernel | exact eq_ok _ _ (by decide +kernel) | exact eq_okOf _ _ (by decide +kernel)⟩,
   ⟨asked (order 0x5200 9 9 [1]) (living { gen1 := 2 }), _, .frame 7, order 0x5200 9 9 [1], [], _, 0, by
    repeat' apply And.intro
    all_goals first | with_reducible rfl | decide +kernel | exact eq_ok _ _ (by decide +kernel) | exact eq_okOf _ _ (by decide +kernel)⟩,
   ⟨asked (order 0x9100 0x20 9 [1]) (living {}), _, .frame 7, order 0x9100 0x20 9 [1], [], _, 0, by
    repeat' apply And.intro
    all_goals first | with_reducible rfl | decide +kernel | exact eq_ok _ _ (by decide +kernel) | exact eq_okOf _ _ (by decide +kernel)⟩⟩

/-- The premises of each clause of TenantCommandsRun hold of something. -/
theorem test_TenantCommandsRun_premises :
    (∃ (s T : State)  (src : Source)  (l : List Byte)  (rest : List (Source × List Byte))  (a : Ask)  (n : Fin 256), (Row s src l rest (0x4100 + n.val) 0x02 T a) ∧ ((T.tenant n.val).state = 0))
    ∧ (∃ (s T : State)  (src : Source)  (l : List Byte)  (rest : List (Source × List Byte))  (a : Ask)  (n : Fin 256), (Row s src l rest (0x4100 + n.val) 0x03 T a) ∧ (T.tenants.all (fun e => e.1 == n.val || e.2.vfMap.toNat &&& a.num == 0) = true))
    ∧ (∃ (s T : State)  (src : Source)  (l : List Byte)  (rest : List (Source × List Byte))  (a : Ask)  (n : Fin 256)  (m : List Byte), (Completed s src l rest (0x4100 + n.val) 0x06 T a) ∧ (slice a.value 1636 32 = kmac256 (mlKemDecaps T.start.starts (slice a.value 4 1568)) (a.value.take 4 ++ slice a.value 4 1568 ++ slice a.value 1572 64) 256 (ascii "CAETH-KW-T")) ∧ ((T.key (leAt a.value 0 2)).valid = false) ∧ (m = xorBytes (slice a.value 1572 64) (kmac256 (mlKemDecaps T.start.starts (slice a.value 4 1568)) (a.value.take 4) 512 (ascii "CAETH-KW-E"))) ∧ (m.take 32 ≠ m.drop 32) ∧ (1 ≤ leAt a.value 0 2 ∧ leAt a.value 0 2 ≤ 4095 ∧ leAt a.value 2 1 = n.val ∧ leAt a.value 3 1 = 1))
    ∧ (∃ (s T : State)  (src : Source)  (l : List Byte)  (rest : List (Source × List Byte))  (a : Ask)  (n : Fin 256), (Row s src l rest (0x4100 + n.val) 0x07 T a) ∧ (1 ≤ a.num ∧ a.num ≤ 4095) ∧ ((T.key a.num).valid = true ∧ (T.key a.num).tenant = n.val))
    ∧ (∃ (s T : State)  (src : Source)  (l : List Byte)  (rest : List (Source × List Byte))  (a : Ask)  (n : Fin 256), (Row s src l rest (0x4100 + n.val) 0x08 T a) ∧ ((T.tenant n.val).state = 1))
    ∧ (∃ (s T : State)  (src : Source)  (l : List Byte)  (rest : List (Source × List Byte))  (a : Ask)  (n : Fin 256)  (p z b i : Nat), (Row s src l rest (0x4100 + n.val) 0x10 T a) ∧ (field (BitVec.ofNat 256 a.num) 232 24 = 0 ∧ field (BitVec.ofNat 256 a.num) 208 8 = n.val ∧ field (BitVec.ofNat 256 a.num) 192 16 = 0 ∧ field (BitVec.ofNat 256 a.num) 56 72 = 0) ∧ (p = field (BitVec.ofNat 256 a.num) 216 8 ∧ z = field (BitVec.ofNat 256 a.num) 128 64 ∧ b = field (BitVec.ofNat 256 a.num) 0 56) ∧ (z ≠ 0 ∧ z % 65536 = 0 ∧ b % 65536 = 0 ∧ (p < 64 ∨ p = 0xFF)) ∧ (T.rangeOk b z = true ∧ T.allocs.all (fun e => !meets b z e.2.base e.2.size) = true) ∧ (b / 2 ^ 54 = 1 → p ≠ 0xFF ∧ T.objNat (0x6100 + b / 2 ^ 32 % 256) 0x01 = p) ∧ ((T.allocs.filter (fun e => e.2.tenant == n.val)).length < 64) ∧ (freeAllocIndex T.allocs 4096 0 = some i))
    ∧ (∃ (s T : State)  (src : Source)  (l : List Byte)  (rest : List (Source × List Byte))  (a : Ask)  (n : Fin 256)  (i : Nat)  (e : Alloc), (Row s src l rest (0x4100 + n.val) 0x11 T a) ∧ ((T.allocs.filter (fun e => e.2.tenant == n.val))[a.num]? = some (i, e)) ∧ (e.state = 1 ∧ T.dependsOn e.base e.size = false))
    ∧ (∃ (s T : State)  (src : Source)  (l : List Byte)  (rest : List (Source × List Byte))  (a : Ask)  (n : Fin 256), (Row s src l rest (0x6100 + n.val) 0x01 T a) ∧ (a.num < 64 ∨ a.num = 0xFF) ∧ (T.ownerIdle (T.objNat (0x6100 + n.val) 0x01) = true ∧ T.ownerIdle a.num = true) ∧ (a.num = T.objNat (0x6100 + n.val) 0x01 ∨ T.allocs.all (fun e => tierOf (e.2.base / 32) != 1 || channelOf (e.2.base / 32) != n.val) = true)) :=
  ⟨⟨asked (order 0x4103 2 9 [1]) ({}), _, .frame 7, order 0x4103 2 9 [1], [], _, 3, by
    repeat' apply And.intro
    all_goals first | with_reducible rfl | decide +kernel | exact eq_ok _ _ (by decide +kernel) | exact eq_okOf _ _ (by decide +kernel)⟩,
   ⟨asked (change 0x4103 3 15 (natBytes 32 6)) ({ tenants := [(0, { state := 1, vfMap := 1 })] }), _, .frame 7, change 0x4103 3 15 (natBytes 32 6), [], _, 3, by
    repeat' apply And.intro
    all_goals first | with_reducible rfl | decide +kernel | exact eq_ok _ _ (by decide +kernel) | exact eq_okOf _ _ (by decide +kernel)⟩,
   ⟨keyStaged, keyState, .frame 7, keyChunk, [], keyAsk, 3, keyPlain, by
    exact keyLoad_holds⟩,
   ⟨asked (order 0x4103 7 2 [5, 0]) (({ tenants := [(3, { state := 1 })] } : State).setKey 5 { valid := true, tenant := 3 }), _, .frame 7, order 0x4103 7 2 [5, 0], [], _, 3, by
    repeat' apply And.intro
    all_goals first | with_reducible rfl | decide +kernel | exact eq_ok _ _ (by decide +kernel) | exact eq_okOf _ _ (by decide +kernel)⟩,
   ⟨asked (order 0x4103 8 9 [1]) ({ tenants := [(3, { state := 1 })] }), _, .frame 7, order 0x4103 8 9 [1], [], _, 3, by
    repeat' apply And.intro
    all_goals first | with_reducible rfl | decide +kernel | exact eq_ok _ _ (by decide +kernel) | exact eq_okOf _ _ (by decide +kernel)⟩,
   ⟨asked (order 0x4100 0x10 15 (natBytes 32 (2 ^ 54 + 65536 * 2 ^ 128))) ((living {}).storeRaw 0x6100 1 [0]), _, .frame 7, order 0x4100 0x10 15 (natBytes 32 (2 ^ 54 + 65536 * 2 ^ 128)), [], _, 0, 0, 65536, 2 ^ 54, 0, by
    repeat' apply And.intro
    all_goals first | with_reducible rfl | decide +kernel | exact eq_ok _ _ (by decide +kernel) | exact eq_okOf _ _ (by decide +kernel)⟩,
   ⟨asked (order 0x4100 0x11 2 [0, 0]) ({ living {} with allocs := [(9, { state := 1, partition := 0, tenant := 0, size := 65536, base := 2 ^ 54 })] }), _, .frame 7, order 0x4100 0x11 2 [0, 0], [], _, 0, 9, { state := 1, partition := 0, tenant := 0, size := 65536, base := 2 ^ 54 }, by
    repeat' apply And.intro
    all_goals first | with_reducible rfl | decide +kernel | exact eq_ok _ _ (by decide +kernel) | exact eq_okOf _ _ (by decide +kernel)⟩,
   ⟨asked (change 0x6107 1 1 [0]) (living {}), _, .frame 7, change 0x6107 1 1 [0], [], _, 7, by
    repeat' apply And.intro
    all_goals first | with_reducible rfl | decide +kernel | exact eq_ok _ _ (by decide +kernel) | exact eq_okOf _ _ (by decide +kernel)⟩⟩

/-- The premises of each clause of RoadCommandsRun hold of something. -/
theorem test_RoadCommandsRun_premises :
    (∃ (s T : State)  (src : Source)  (l : List Byte)  (rest : List (Source × List Byte))  (a : Ask)  (n : Fin 6), (Row s src l rest (0x7100 + n.val) 0x03 T a))
    ∧ (∃ (s T : State)  (src : Source)  (l : List Byte)  (rest : List (Source × List Byte))  (a : Ask)  (n : Fin 6), (Row s src l rest (0x7100 + n.val) 0x02 T a))
    ∧ (∃ (s T : State)  (src : Source)  (l : List Byte)  (rest : List (Source × List Byte))  (a : Ask)  (n : Fin 64), (Row s src l rest (0x7200 + n.val) 0x06 T a) ∧ (T.openable n.val = true))
    ∧ (∃ (s T : State)  (src : Source)  (l : List Byte)  (rest : List (Source × List Byte))  (a : Ask)  (n : Fin 64), (Row s src l rest (0x7200 + n.val) 0x07 T a) ∧ ((T.job n.val).state = 1) ∧ ((T.part (T.jobPart n.val)).stepState = .idle ∨ (T.part (T.jobPart n.val)).stepState = .held))
    ∧ (∃ (s T : State)  (src : Source)  (l : List Byte)  (rest : List (Source × List Byte))  (a : Ask)  (m : TimeMode), (Row s src l rest 0x3000 0x03 T a) ∧ (a.num ≤ 6 ∨ a.num = 0xFF) ∧ (m = (if a.num = 6 then .root else if a.num = 0xFF then .free else .acquiring)))
    ∧ (∃ (s T : State)  (src : Source)  (l : List Byte)  (rest : List (Source × List Byte))  (a : Ask), (Row s src l rest 0x3000 0x06 T a))
    ∧ (∃ (s T : State)  (src : Source)  (l : List Byte)  (rest : List (Source × List Byte))  (a : Ask)  (n : Fin 1024), (Row s src l rest (0x8400 + n.val) 0x01 T a) ∧ (a.num = 0))
    ∧ (∃ (s T : State)  (src : Source)  (l : List Byte)  (rest : List (Source × List Byte))  (a : Ask)  (n : Fin 1024), (Row s src l rest (0x8400 + n.val) 0x01 T a) ∧ (a.num = 1) ∧ (T.qpState n.val = 0 ∧ qpConfigOk (T.qpConfig n.val) = true))
    ∧ (∃ (s T : State)  (src : Source)  (l : List Byte)  (rest : List (Source × List Byte))  (a : Ask)  (u : State), (Row s src l rest 0x8100 0x02 T a) ∧ ((pieces128 (T.obj 0x8100 0x01)).findSome? (T.fetchCause a) = none) ∧ (T.fetchRuns = false) ∧ (u = ({ T with fetch := (pieces128 (T.obj 0x8100 0x01)).map (fun b => { bytes := b }) } : State).bump 0x8100 0x03)) :=
  ⟨⟨asked (order 0x7105 3 9 [1]) ({}), _, .frame 7, order 0x7105 3 9 [1], [], _, 5, by
    repeat' apply And.intro
    all_goals first | with_reducible rfl | decide +kernel | exact eq_ok _ _ (by decide +kernel) | exact eq_okOf _ _ (by decide +kernel)⟩,
   ⟨asked (change 0x7105 2 9 [0]) ({}), _, .frame 7, change 0x7105 2 9 [0], [], _, 5, by
    repeat' apply And.intro
    all_goals first | with_reducible rfl | decide +kernel | exact eq_ok _ _ (by decide +kernel) | exact eq_okOf _ _ (by decide +kernel)⟩,
   ⟨asked (order 0x7200 6 9 [1]) ({ fabric with jobs := [], parts := [(0, { partState := 1 })] }.storeRaw 0x7200 5 fabric.fabricDigest), _, .frame 7, order 0x7200 6 9 [1], [], _, 0, by
    repeat' apply And.intro
    all_goals first | with_reducible rfl | decide +kernel | exact eq_ok _ _ (by decide +kernel) | exact eq_okOf _ _ (by decide +kernel)⟩,
   ⟨asked (order 0x7200 7 9 [1]) (fabric), _, .frame 7, order 0x7200 7 9 [1], [], _, 0, by
    repeat' apply And.intro
    all_goals first | with_reducible rfl | decide +kernel | exact eq_ok _ _ (by decide +kernel) | exact eq_okOf _ _ (by decide +kernel)⟩,
   ⟨asked (change 0x3000 3 1 [6]) ({}), _, .frame 7, change 0x3000 3 1 [6], [], _, .root, by
    repeat' apply And.intro
    all_goals first | with_reducible rfl | decide +kernel | exact eq_ok _ _ (by decide +kernel) | exact eq_okOf _ _ (by decide +kernel)⟩,
   ⟨asked (order 0x3000 6 4 (natBytes 8 7)) ({}), _, .frame 7, order 0x3000 6 4 (natBytes 8 7), [], _, by
    repeat' apply And.intro
    all_goals first | with_reducible rfl | decide +kernel | exact eq_ok _ _ (by decide +kernel) | exact eq_okOf _ _ (by decide +kernel)⟩,
   ⟨asked (change 0x8401 1 12 [0]) (({} : State).storeRaw 0x8401 1 [2]), _, .frame 7, change 0x8401 1 12 [0], [], _, 1, by
    repeat' apply And.intro
    all_goals first | with_reducible rfl | decide +kernel | exact eq_ok _ _ (by decide +kernel) | exact eq_okOf _ _ (by decide +kernel)⟩,
   ⟨asked (change 0x8401 1 12 [1]) (({} : State).storeRaw 0x8401 2 ([0, 3, 0, 0] ++ zeros 35 ++ [1, 0, 1] ++ zeros 22)), _, .frame 7, change 0x8401 1 12 [1], [], _, 1, by
    repeat' apply And.intro
    all_goals first | with_reducible rfl | decide +kernel | exact eq_ok _ _ (by decide +kernel) | exact eq_okOf _ _ (by decide +kernel)⟩,
   ⟨asked (order 0x8100 2 9 [1]) ({}), _, .frame 7, order 0x8100 2 9 [1], [], _, _, by
    repeat' apply And.intro
    all_goals first | with_reducible rfl | decide +kernel | exact eq_ok _ _ (by decide +kernel) | exact eq_okOf _ _ (by decide +kernel)⟩⟩

/-- The premises of each clause of StartCommandsRun hold of something. -/
theorem test_StartCommandsRun_premises :
    (∃ (s T : State)  (src : Source)  (l : List Byte)  (rest : List (Source × List Byte))  (a : Ask), (Row s src l rest 0x2000 0x01 T a))
    ∧ (∃ (s T : State)  (src : Source)  (l : List Byte)  (rest : List (Source × List Byte))  (a : Ask), (Row s src l rest 0x2010 0x01 T a) ∧ ((bitsSet 256 a.num).all (fun b => !(T.block b).retired && (T.partOf b).isNone) = true))
    ∧ (∃ (s T : State)  (src : Source)  (l : List Byte)  (rest : List (Source × List Byte))  (a : Ask), (Row s src l rest 0x2010 0x03 T a) ∧ (a.num < 2 ^ 20))
    ∧ (∃ (s T : State)  (src : Source)  (l : List Byte)  (rest : List (Source × List Byte))  (a : Ask)  (u : State), (Row s src l rest 0x2100 0x04 T a) ∧ (T.mayActivate = true) ∧ (u = T.noteCause 2))
    ∧ (∃ (s T : State)  (src : Source)  (l : List Byte)  (rest : List (Source × List Byte))  (a : Ask)  (v : List (Nat × List Byte)), (Row s src l rest 0x2300 0x01 T a) ∧ (a.value.length = 3 ∧ optionObject (leAt a.value 0 2) (leAt a.value 2 1) = true) ∧ (v = T.start.values.filter (fun e => e.1 != persistKey a) ++ [(persistKey a, T.value (leAt a.value 0 2) (leAt a.value 2 1))]) ∧ (storeFits v = true))
    ∧ (∃ (s T : State)  (src : Source)  (l : List Byte)  (rest : List (Source × List Byte))  (a : Ask), (Row s src l rest 0x2300 0x02 T a) ∧ (a.value.length = 3) ∧ (T.start.values.any (fun e => e.1 == persistKey a) = true))
    ∧ (∃ (s T : State)  (src : Source)  (l : List Byte)  (rest : List (Source × List Byte))  (a : Ask), (Row s src l rest 0x2300 0x04 T a)) :=
  ⟨⟨asked (change 0x2000 1 10 [1, 0, 0, 0]) ({}), _, .frame 7, change 0x2000 1 10 [1, 0, 0, 0], [], _, by
    repeat' apply And.intro
    all_goals first | with_reducible rfl | decide +kernel | exact eq_ok _ _ (by decide +kernel) | exact eq_okOf _ _ (by decide +kernel)⟩,
   ⟨asked (order 0x2010 1 15 (natBytes 32 6)) ({}), _, .frame 7, order 0x2010 1 15 (natBytes 32 6), [], _, by
    repeat' apply And.intro
    all_goals first | with_reducible rfl | decide +kernel | exact eq_ok _ _ (by decide +kernel) | exact eq_okOf _ _ (by decide +kernel)⟩,
   ⟨asked (order 0x2010 3 10 [2, 0, 0, 0]) ({}), _, .frame 7, order 0x2010 3 10 [2, 0, 0, 0], [], _, by
    repeat' apply And.intro
    all_goals first | with_reducible rfl | decide +kernel | exact eq_ok _ _ (by decide +kernel) | exact eq_okOf _ _ (by decide +kernel)⟩,
   ⟨asked (order 0x2100 4 9 [1]) (({ card := some card0 } : State).storeRaw 0x2100 3 [0]), _, .frame 7, order 0x2100 4 9 [1], [], _, _, by
    repeat' apply And.intro
    all_goals first | with_reducible rfl | decide +kernel | exact eq_ok _ _ (by decide +kernel) | exact eq_okOf _ _ (by decide +kernel)⟩,
   ⟨asked (order 0x2300 1 15 [0x10, 0x10, 4]) ({}), _, .frame 7, order 0x2300 1 15 [0x10, 0x10, 4], [], _, _, by
    repeat' apply And.intro
    all_goals first | with_reducible rfl | decide +kernel | exact eq_ok _ _ (by decide +kernel) | exact eq_okOf _ _ (by decide +kernel)⟩,
   ⟨asked (order 0x2300 2 15 [0x10, 0x10, 4]) ({ start := { values := [(objKey 0x1010 4, [0])] } }), _, .frame 7, order 0x2300 2 15 [0x10, 0x10, 4], [], _, by
    repeat' apply And.intro
    all_goals first | with_reducible rfl | decide +kernel | exact eq_ok _ _ (by decide +kernel) | exact eq_okOf _ _ (by decide +kernel)⟩,
   ⟨vendorAsked (order 0x2300 4 15 (natBytes 32 2)) ({ start := { retired := [1] } }), _, .frame 7, order 0x2300 4 15 (natBytes 32 2), [], _, by
    repeat' apply And.intro
    all_goals first | with_reducible rfl | decide +kernel | exact eq_ok _ _ (by decide +kernel) | exact eq_okOf _ _ (by decide +kernel)⟩⟩

/-- The premises of each clause of PartCommandsRun hold of something. -/
theorem test_PartCommandsRun_premises :
    (∃ (s T : State)  (src : Source)  (l : List Byte)  (rest : List (Source × List Byte))  (a : Ask), (Row s src l rest 0xB100 0x01 T a) ∧ (T.startRuns = false))
    ∧ (∃ (s T : State)  (src : Source)  (l : List Byte)  (rest : List (Source × List Byte))  (a : Ask), (Row s src l rest 0xB100 0x02 T a) ∧ (T.town + 10 * Config.ticksPerUs ≤ a.num ∧ a.num ≤ T.town + 10 * Config.ticksPerSecond) ∧ (T.startRuns = false))
    ∧ (∃ (s T : State)  (src : Source)  (l : List Byte)  (rest : List (Source × List Byte))  (a : Ask), (Row s src l rest 0xB100 0x03 T a) ∧ (T.startRuns = false ∧ T.freeze.pin = false ∧ T.freeze.state ≠ 0))
    ∧ (∃ (s T : State)  (src : Source)  (l : List Byte)  (rest : List (Source × List Byte))  (a : Ask), (Row s src l rest 0x9F00 0x01 T a) ∧ (T.town + 10 * Config.ticksPerUs ≤ a.num ∧ a.num ≤ T.town + 10 * Config.ticksPerSecond) ∧ (T.snapshot.due = none))
    ∧ (∃ (s T : State)  (src : Source)  (l : List Byte)  (rest : List (Source × List Byte))  (a : Ask), (Row s src l rest 0x3200 0x02 T a) ∧ (T.mode = .running ∧ T.startRuns = false ∧ T.powerState = 1 ∧ T.busy = false))
    ∧ (∃ (s T : State)  (src : Source)  (l : List Byte)  (rest : List (Source × List Byte))  (a : Ask)  (r k np : List Byte)  (i : Nat)  (proof : Option (List Byte)), (Row s src l rest 0xC020 0x01 T a) ∧ (T.cdp.sessions.length < 64 ∧ T.sessionsOf a.src < a.src.limit) ∧ ((T.cdp.openReqs.find? (fun e => e.1.same a.src)).map Prod.snd = some r) ∧ (T.proofOf a.src (leAt r 0 1) (leAt r 1 1) = some proof ∧ openReqOk r proof.isSome = true) ∧ (∀ pk, proof = some pk → T.sigHolds pk r = true) ∧ (T.mode = .recovery → leAt r 0 1 = 1) ∧ (i = freeSession T.cdp.sessions 64 1 ∧ np = natBytes 32 (T.draw 256).1.toNat) ∧ (k = kmac256 (mlKemDecaps T.start.starts (slice r 36 1568)) (slice r 4 32 ++ np ++ r.take 2 ++ natBytes 2 i) 256 (ascii "CAETH-CDP-KEY")))
    ∧ (∃ (s T : State)  (src : Source)  (l : List Byte)  (rest : List (Source × List Byte))  (a : Ask), (Row s src l rest 0xC020 0x03 T a))
    ∧ (∃ (s T : State)  (src : Source)  (l : List Byte)  (rest : List (Source × List Byte))  (a : Ask)  (n r : Nat), (Row s src l rest 0xC020 0x05 T a) ∧ (slice a.value 2 2 = zeros 2 ∧ cLengthOk (a.value.drop 4) = true ∧ T.known (leAt a.value 0 2) = true) ∧ (n = (T.egressFrom T.wholeTorus T.here (T.coordsOf (leAt a.value 0 2))).getD 6) ∧ (r = T.freeTag 65536 T.rtag))
    ∧ (∃ (s T : State)  (src : Source)  (l : List Byte)  (rest : List (Source × List Byte))  (a : Ask), (Row s src l rest 0xA000 0x06 T a)) :=
  ⟨⟨asked (order 0xB100 1 9 [1]) ({}), _, .frame 7, order 0xB100 1 9 [1], [], _, by
    repeat' apply And.intro
    all_goals first | with_reducible rfl | decide +kernel | exact eq_ok _ _ (by decide +kernel) | exact eq_okOf _ _ (by decide +kernel)⟩,
   ⟨asked (order 0xB100 2 13 (natBytes 8 16000)) ({}), _, .frame 7, order 0xB100 2 13 (natBytes 8 16000), [], _, by
    repeat' apply And.intro
    all_goals first | with_reducible rfl | decide +kernel | exact eq_ok _ _ (by decide +kernel) | exact eq_okOf _ _ (by decide +kernel)⟩,
   ⟨asked (order 0xB100 3 9 [1]) ({ freeze := { state := 2 }, mode := .frozen }), _, .frame 7, order 0xB100 3 9 [1], [], _, by
    repeat' apply And.intro
    all_goals first | with_reducible rfl | decide +kernel | exact eq_ok _ _ (by decide +kernel) | exact eq_okOf _ _ (by decide +kernel)⟩,
   ⟨asked (order 0x9F00 1 13 (natBytes 8 16000000000)) ({}), _, .frame 7, order 0x9F00 1 13 (natBytes 8 16000000000), [], _, by
    repeat' apply And.intro
    all_goals first | with_reducible rfl | decide +kernel | exact eq_ok _ _ (by decide +kernel) | exact eq_okOf _ _ (by decide +kernel)⟩,
   ⟨asked (order 0x3200 2 9 [1]) ({}), parkAsked, .frame 7, order 0x3200 2 9 [1], [], _, by
    exact ⟨by (repeat' apply And.intro) <;> first | with_reducible rfl | exact (rfl : parkAsked = Taken _ _) | decide +kernel, by decide +kernel, by decide +kernel, by decide +kernel, parkAsked_idle⟩⟩,
   ⟨unopened, _, .mailbox pf0, ({ msg := 3, index := 0xC020, sub := 1, type := 9, body := [1] } : Fields).bytes none, [], _, openReq0, _, _, 1, none, by
    repeat' apply And.intro
    all_goals first | with_reducible rfl | decide +kernel | exact eq_ok _ _ (by decide +kernel) | exact eq_okOf _ _ (by decide +kernel)⟩,
   ⟨asked (order 0xC020 3 9 [1]) ({}), _, .frame 7, order 0xC020 3 9 [1], [], _, by
    repeat' apply And.intro
    all_goals first | with_reducible rfl | decide +kernel | exact eq_ok _ _ (by decide +kernel) | exact eq_okOf _ _ (by decide +kernel)⟩,
   ⟨asked (order 0xC020 5 15 ([2, 0, 0, 0] ++ zeros 64)) (fabric), _, .frame 7, order 0xC020 5 15 ([2, 0, 0, 0] ++ zeros 64), [], _, 0, 0, by
    repeat' apply And.intro
    all_goals first | with_reducible rfl | decide +kernel | exact eq_ok _ _ (by decide +kernel) | exact eq_okOf _ _ (by decide +kernel)⟩,
   ⟨asked (order 0xA000 6 9 [1]) ({}), _, .frame 7, order 0xA000 6 9 [1], [], _, by
    repeat' apply And.intro
    all_goals first | with_reducible rfl | decide +kernel | exact eq_ok _ _ (by decide +kernel) | exact eq_okOf _ _ (by decide +kernel)⟩⟩

set_option maxRecDepth 100000 in
/-- The premises of each clause of LinksReceive hold of something. -/
theorem test_LinksReceive_premises :
    (∃ (n : Fin 6)  (symbols : List (BitVec 9))  (s : State)  (data : List Nat)  (mended : Bool), (272 ≤ symbols.length ∧ s.linked = true ∧ s.mode ≠ .frozen) ∧ (3 ≤ (s.port n.val).link) ∧ (rsDecode ((symbols.take 272).map BitVec.toNat) = some (data, mended)))
    ∧ (∃ (n : Fin 6)  (symbols : List (BitVec 9))  (s : State)  (x : Port), (272 ≤ symbols.length ∧ s.linked = true ∧ s.mode ≠ .frozen) ∧ (3 ≤ (s.port n.val).link) ∧ (rsDecode ((symbols.take 272).map BitVec.toNat) = none) ∧ (x = ((s.port n.val).lose (s.port n.val).codewords).step true (s.time.central / 2 ^ 24)))
    ∧ (∃ (n : Fin 6)  (symbols : List (BitVec 9))  (s : State), (272 ≤ symbols.length ∧ s.linked = true ∧ s.mode ≠ .frozen) ∧ ((s.port n.val).link = 2) ∧ ((rsDecode ((symbols.take 272).map BitVec.toNat)).isSome = true))
    ∧ (∃ (n : Fin 6)  (p : Packet)  (s t : State), (s.takeRx n.val (fun p => p.type != 1 && p.type != 2) = some (p, t)) ∧ ((t.port n.val).link = 4 ∧ p.epoch = (t.port n.val).rxEpoch ∧ 0x10 ≤ p.type ∧ p.type < 0x40))
    ∧ (∃ (n : Fin 6)  (p : Packet)  (s t : State), (s.takeRx n.val (fun p => p.type == 1) = some (p, t)) ∧ ((t.port n.val).link = 4 ∧ p.epoch = (t.port n.val).rxEpoch) ∧ (p.len = 0 ∧ p.cls = 0 ∧ p.reservedOk = true) ∧ (seqGap p.seq ((t.takeHeader n.val p).port n.val).expect ≤ 2048))
    ∧ (∃ (n : Fin 6)  (p : Packet)  (w : Word)  (s t : State), (s.takeRx n.val (fun p => p.type == 2) = some (p, t)) ∧ (p.len ≤ 1 ∧ p.goodWord 0 = some w ∧ field w 16 8 = 1 ∧ field w 72 184 = 0 ∧ p.reservedOk = true ∧ p.cls = 0) ∧ ((t.port n.val).link = 4))
    ∧ (∃ (n : Fin 6)  (p : Packet)  (w : Word)  (s t u : State), (s.takeRx n.val (fun p => p.type == 2) = some (p, t)) ∧ (p.len ≤ 1 ∧ p.goodWord 0 = some w ∧ field w 16 8 = 1 ∧ field w 72 184 = 0 ∧ p.reservedOk = true ∧ p.cls = 0) ∧ ((t.port n.val).link = 3) ∧ (u = t.setPort n.val { t.port n.val with
      partner := field w 32 8 * 2 ^ 24 + field w 24 8 * 2 ^ 16 + field w 0 16,
      rxEpoch := if (t.port n.val).met then (t.port n.val).rxEpoch else field w 64 8, met := true })) :=
  ⟨⟨0, List.replicate 272 0, onPort (fun x => { x with link := 3 }), List.replicate 256 0, false, by
    repeat' apply And.intro
    all_goals first | with_reducible rfl | decide +kernel | exact eq_ok _ _ (by decide +kernel) | exact eq_okOf _ _ (by decide +kernel)⟩,
   ⟨0, (List.range 272).map (fun i => BitVec.ofNat 9 (i * i + 7)), onPort (fun x => { x with link := 4 }), _, by
    repeat' apply And.intro
    all_goals first | with_reducible rfl | decide +kernel | exact eq_ok _ _ (by decide +kernel) | exact eq_okOf _ _ (by decide +kernel)⟩,
   ⟨0, List.replicate 272 0, {}, by
    repeat' apply And.intro
    all_goals first | with_reducible rfl | decide +kernel | exact eq_ok _ _ (by decide +kernel) | exact eq_okOf _ _ (by decide +kernel)⟩,
   ⟨0, ({ type := 0x10, dst := 1, src := 2 } : Heading).packet [], rxPort (fun x => { x with link := 4, rx := [(0, ({ type := 0x10, dst := 1, src := 2 } : Heading).packet [])] }), rxPort (fun x => { x with link := 4, rx := [] }), by
    exact ⟨takeRx_some rfl rfl rfl (by decide), by decide +kernel⟩⟩,
   ⟨0, { header := 1 }, rxPort (fun x => { x with link := 4, rx := [(0, { header := 1 })] }), rxPort (fun x => { x with link := 4, rx := [] }), by
    exact ⟨takeRx_some rfl rfl rfl (by decide), by decide +kernel, by decide +kernel, by decide +kernel⟩⟩,
   ⟨0, packetOf { type := 2, dst := 0, src := 0 } 0x10000, 0x10000, rxPort (fun x => { x with link := 4, rx := [(0, packetOf { type := 2, dst := 0, src := 0 } 0x10000)] }), rxPort (fun x => { x with link := 4, rx := [] }), by
    exact ⟨takeRx_some rfl rfl rfl (by decide), by decide +kernel, by decide +kernel⟩⟩,
   ⟨0, packetOf { type := 2, dst := 0, src := 0 } 0x10000, 0x10000, rxPort (fun x => { x with link := 3, rx := [(0, packetOf { type := 2, dst := 0, src := 0 } 0x10000)] }), rxPort (fun x => { x with link := 3, rx := [] }), _, by
    exact ⟨takeRx_some rfl rfl rfl (by decide), by decide +kernel, by decide +kernel, rfl⟩⟩⟩

/-- The premises of each clause of SequenceFollowsR306 hold of something. -/
theorem test_SequenceFollowsR306_premises :
    (∃ (n : Fin 6)  (p : Packet)  (s u : State)  (x : Port)  (d : Nat), (Sequenced n.val p s u x d) ∧ (d = 0 ∧ x.held.find? ((x.expect + 1) % 65536) = none))
    ∧ (∃ (n : Fin 6)  (p q : Packet)  (s u : State)  (x : Port)  (d : Nat), (Sequenced n.val p s u x d) ∧ (d = 0 ∧ x.held.find? ((x.expect + 1) % 65536) = some q ∧ x.held.find? ((x.expect + 2) % 65536) = none ∧ x.held.sorted = true))
    ∧ (∃ (n : Fin 6)  (p : Packet)  (s u : State)  (x : Port)  (d : Nat), (Sequenced n.val p s u x d) ∧ (1 ≤ d ∧ d ≤ 2047 ∧ x.held.find? p.seq = none))
    ∧ (∃ (n : Fin 6)  (p : Packet)  (s u : State)  (x : Port)  (d : Nat), (Sequenced n.val p s u x d) ∧ ((1 ≤ d ∧ d ≤ 2047 ∧ (x.held.find? p.seq).isSome = true) ∨ (63488 ≤ d ∧ d ≤ 65535)))
    ∧ (∃ (n : Fin 6)  (p : Packet)  (s u : State)  (x : Port)  (d : Nat), (Sequenced n.val p s u x d) ∧ (2048 ≤ d ∧ d ≤ 63487)) :=
  ⟨⟨0, ({ type := 0x10, dst := 1, src := 2 } : Heading).packet [], rxPort (fun x => { x with link := 4, rx := [(0, ({ type := 0x10, dst := 1, src := 2 } : Heading).packet [])] }), _, _, 0, by
    exact ⟨⟨by decide +kernel, by decide +kernel, rx_head rfl (by decide), rfl, by decide +kernel, by decide +kernel, by decide +kernel, rfl, by decide +kernel⟩, by decide +kernel⟩⟩,
   ⟨0, ({ type := 0x10, dst := 1, src := 2 } : Heading).packet [], { header := 7 }, rxPort (fun x => { x with link := 4, rx := [(0, ({ type := 0x10, dst := 1, src := 2 } : Heading).packet [])], held := [(1, { header := 7 })] }), _, _, 0, by
    exact ⟨⟨by decide +kernel, by decide +kernel, rx_head rfl (by decide), rfl, by decide +kernel, by decide +kernel, by decide +kernel, rfl, by decide +kernel⟩, by decide +kernel⟩⟩,
   ⟨0, ({ type := 0x10, dst := 1, src := 2 } : Heading).packet [], rxPort (fun x => { x with link := 4, expect := 63489, rx := [(0, ({ type := 0x10, dst := 1, src := 2 } : Heading).packet [])] }), _, _, 2047, by
    exact ⟨⟨by decide +kernel, by decide +kernel, rx_head rfl (by decide), rfl, by decide +kernel, by decide +kernel, by decide +kernel, rfl, by decide +kernel⟩, by decide +kernel⟩⟩,
   ⟨0, ({ type := 0x10, dst := 1, src := 2 } : Heading).packet [], rxPort (fun x => { x with link := 4, expect := 2048, rx := [(0, ({ type := 0x10, dst := 1, src := 2 } : Heading).packet [])] }), _, _, 63488, by
    exact ⟨⟨by decide +kernel, by decide +kernel, rx_head rfl (by decide), rfl, by decide +kernel, by decide +kernel, by decide +kernel, rfl, by decide +kernel⟩, by decide +kernel⟩⟩,
   ⟨0, ({ type := 0x10, dst := 1, src := 2 } : Heading).packet [], rxPort (fun x => { x with link := 4, expect := 63488, rx := [(0, ({ type := 0x10, dst := 1, src := 2 } : Heading).packet [])] }), _, _, 2048, by
    exact ⟨⟨by decide +kernel, by decide +kernel, rx_head rfl (by decide), rfl, by decide +kernel, by decide +kernel, by decide +kernel, rfl, by decide +kernel⟩, by decide +kernel⟩⟩⟩

/-- The premises of each clause of LinksSend hold of something. -/
theorem test_LinksSend_premises :
    (∃ (n : Fin 6)  (e : Sent)  (s : State), (s.linked = true ∧ (s.port n.val).link = 4 ∧ (s.port n.val).slot ≤ s.slotNow n.val) ∧ ((s.port n.val).resend.head?.bind (fun q => (s.port n.val).replay.find? (fun e => e.seq == q)) = some e))
    ∧ (∃ (n : Fin 6)  (c : Candidate)  (s t : State), (s.linked = true ∧ (s.port n.val).link = 4 ∧ (s.port n.val).slot ≤ s.slotNow n.val) ∧ ((s.port n.val).resend.head?.bind (fun q => (s.port n.val).replay.find? (fun e => e.seq == q)) = none ∧ (s.port n.val).windowFull = false) ∧ (t = s.setPort n.val { s.port n.val with slot := s.slotNow n.val + 1 }) ∧ (t.planPacket n.val (s.slotNow n.val % 960) = some c))
    ∧ (∃ (n : Fin 6)  (c : Candidate)  (s t : State), (s.linked = true ∧ (s.port n.val).link = 4 ∧ (s.port n.val).slot ≤ s.slotNow n.val) ∧ ((s.port n.val).resend.head?.bind (fun q => (s.port n.val).replay.find? (fun e => e.seq == q)) = none ∧ (s.port n.val).windowFull = false) ∧ (t = s.setPort n.val { s.port n.val with slot := s.slotNow n.val + 1 }) ∧ (t.planPacket n.val (s.slotNow n.val % 960) = none ∧ t.servicePacket n.val = some c))
    ∧ (∃ (n : Fin 6)  (s : State), (s.linked = true ∧ (s.port n.val).link = 4 ∧ (s.port n.val).resend.isEmpty = true ∧ (s.waitingFor n.val).isEmpty = true) ∧ ((s.port n.val).callsCtrl = true ∨ (s.port n.val).sentAt + Config.ticksPerUs ≤ s.town))
    ∧ (∃ (n : Fin 6)  (s : State)  (late : Gap → Bool), (s.linked = true ∧ (s.port n.val).link = 4) ∧ (late = (fun g => (g.asked.map (fun t => decide (t + Config.ticksPerUs ≤ s.town))).getD false)) ∧ ((s.port n.val).gaps.any late = true))
    ∧ (∃ (n : Fin 6)  (s : State), (s.linked = true ∧ (s.port n.val).link = 4 ∧ (s.port n.val).replay.isEmpty = false) ∧ (((s.port n.val).stalledAt.map (fun t => t + 8 * Config.ticksPerUs)).getD ((s.port n.val).unaSince + 2 * Config.ticksPerUs) ≤ s.town))
    ∧ (∃ (n : Fin 6)  (s : State), (s.linked = true ∧ (s.port n.val).link = 3 ∧ (s.port n.val).trainAt + Config.ticksPerUs ≤ s.town))
    ∧ (∃ (n : Fin 6)  (s t : State), (s.linked = true ∧ 3 ≤ (s.port n.val).link) ∧ (((s.port n.val).txStamp.map (fun t => decide (t.1 < s.stampIndex n.val))).getD true = true) ∧ (t = s.setPort n.val { s.port n.val with txStamp := some (s.stampIndex n.val, s.time.central / 2 ^ 24) })) :=
  ⟨⟨0, { seq := 0, pkt := { header := 7 } }, onPort (fun x => { x with link := 4, resend := [0], replay := [{ seq := 0, pkt := { header := 7 } }] }), by
    repeat' apply And.intro
    all_goals first | with_reducible rfl | decide +kernel | exact eq_ok _ _ (by decide +kernel) | exact eq_okOf _ _ (by decide +kernel)⟩,
   ⟨0, (24, 0, { pkt := ({ type := 0x10, dst := 2, src := 1, job := 5 } : Heading).packet [], at_ := 0, out := some 0 }), { (fabric.setBuffer 24 [{ pkt := ({ type := 0x10, dst := 2, src := 1, job := 5 } : Heading).packet [], at_ := 0, out := some 0 }]).setPort 0 { link := 4, credits := [(0, 1)] } with
    parts := [(0, { partState := 1, stepState := .running, running := some { desc := 0, src := .core 0 }, plans := [(0, { digest := [], profile := 0, blocks := 1, segments := [], flags := [], hbm := [], avenue := [(0, [0, 0x80])] })] })] }, _, by
    repeat' apply And.intro
    all_goals first | with_reducible rfl | decide +kernel | exact eq_ok _ _ (by decide +kernel) | exact eq_okOf _ _ (by decide +kernel)⟩,
   ⟨0, (26, 0, { pkt := ({ type := 0x20, dst := 2, src := 1 } : Heading).packet [], at_ := 0, out := some 0 }), (buffered { pkt := ({ type := 0x20, dst := 2, src := 1 } : Heading).packet [], at_ := 0, out := some 0 }).setPort 0 { link := 4, credits := [(2, 1)] }, _, by
    repeat' apply And.intro
    all_goals first | with_reducible rfl | decide +kernel | exact eq_ok _ _ (by decide +kernel) | exact eq_okOf _ _ (by decide +kernel)⟩,
   ⟨0, onPort (fun x => { x with link := 4, ctrlDue := true }), by
    repeat' apply And.intro
    all_goals first | with_reducible rfl | decide +kernel | exact eq_ok _ _ (by decide +kernel) | exact eq_okOf _ _ (by decide +kernel)⟩,
   ⟨0, atTown 1600 (onPort (fun x => { x with link := 4, gaps := [{ first := 0, last := 0, since := 0, asked := some 0 }] })), _, by
    repeat' apply And.intro
    all_goals first | with_reducible rfl | decide +kernel | exact eq_ok _ _ (by decide +kernel) | exact eq_okOf _ _ (by decide +kernel)⟩,
   ⟨0, atTown 3200 (onPort (fun x => { x with link := 4, replay := [{ seq := 0, pkt := { header := 7 } }] })), by
    repeat' apply And.intro
    all_goals first | with_reducible rfl | decide +kernel | exact eq_ok _ _ (by decide +kernel) | exact eq_okOf _ _ (by decide +kernel)⟩,
   ⟨0, atTown 1600 (onPort (fun x => { x with link := 3 })), by
    repeat' apply And.intro
    all_goals first | with_reducible rfl | decide +kernel | exact eq_ok _ _ (by decide +kernel) | exact eq_okOf _ _ (by decide +kernel)⟩,
   ⟨0, onPort (fun x => { x with link := 4 }), _, by
    repeat' apply And.intro
    all_goals first | with_reducible rfl | decide +kernel | exact eq_ok _ _ (by decide +kernel) | exact eq_okOf _ _ (by decide +kernel)⟩⟩

/-- The premises of each clause of LinkStatesFollowR313 hold of something. -/
theorem test_LinkStatesFollowR313_premises :
    (∃ (n : Fin 6)  (s : State), (s.linked = true ∧ (s.port n.val).link = 1 ∧ (s.port n.val).since + 10 * Config.ticksPerUs ≤ s.town))
    ∧ (∃ (n : Fin 6)  (s : State), (s.linked = true ∧ (s.port n.val).link = 2 ∧ 64 ≤ (s.port n.val).clean))
    ∧ (∃ (n : Fin 6)  (s : State), (s.linked = true ∧ (s.port n.val).link = 2 ∧ (s.port n.val).clean < 64) ∧ ((s.port n.val).since + (if (s.port n.val).full then 150 else 3) * Config.ticksPerMs ≤ s.town))
    ∧ (∃ (n : Fin 6)  (s : State), (s.linked = true ∧ (s.port n.val).link = 3 ∧ (s.port n.val).since + Config.ticksPerMs ≤ s.town))
    ∧ (∃ (n : Fin 6)  (s : State)  (limit : Nat), (s.linked = true ∧ (s.port n.val).link = 4) ∧ (limit = s.objNat (0x7100 + n.val) 0x08 * Config.ticksPerUs) ∧ ((s.port n.val).goodAt + limit ≤ s.town ∨ ((s.port n.val).replay.isEmpty = false ∧ (s.port n.val).unaSince + limit ≤ s.town) ∨
    (s.port n.val).gaps.any (fun g => decide (g.since + limit ≤ s.town)) = true)) :=
  ⟨⟨0, atTown 16000 (onPort (fun x => { x with link := 1 })), by
    repeat' apply And.intro
    all_goals first | with_reducible rfl | decide +kernel | exact eq_ok _ _ (by decide +kernel) | exact eq_okOf _ _ (by decide +kernel)⟩,
   ⟨0, onPort (fun x => { x with link := 2, clean := 64, txEpoch := 255 }), by
    repeat' apply And.intro
    all_goals first | with_reducible rfl | decide +kernel | exact eq_ok _ _ (by decide +kernel) | exact eq_okOf _ _ (by decide +kernel)⟩,
   ⟨0, atTown 240000000 (onPort (fun x => { x with link := 2, clean := 63 })), by
    repeat' apply And.intro
    all_goals first | with_reducible rfl | decide +kernel | exact eq_ok _ _ (by decide +kernel) | exact eq_okOf _ _ (by decide +kernel)⟩,
   ⟨0, atTown 1600000 (onPort (fun x => { x with link := 3 })), by
    repeat' apply And.intro
    all_goals first | with_reducible rfl | decide +kernel | exact eq_ok _ _ (by decide +kernel) | exact eq_okOf _ _ (by decide +kernel)⟩,
   ⟨0, atTown 102400 (onPort (fun x => { x with link := 4 })), _, by
    repeat' apply And.intro
    all_goals first | with_reducible rfl | decide +kernel | exact eq_ok _ _ (by decide +kernel) | exact eq_okOf _ _ (by decide +kernel)⟩⟩

/-- The premises of each clause of PacketsRoute hold of something. -/
theorem test_PacketsRoute_premises :
    (∃ (i : Fin 7)  (service : Bool)  (vc : Fin 2)  (s : State)  (k j : Nat)  (q : Queued), (s.linked = true ∧ k = bufKey i.val (if service then 1 else 0) vc.val) ∧ ((s.buffer k).findIdx? (fun q => q.out.isNone) = some j ∧ (s.buffer k)[j]? = some q) ∧ (s.verdict i.val q.pkt = .deliver))
    ∧ (∃ (i : Fin 7)  (service : Bool)  (vc : Fin 2)  (s : State)  (k j n v : Nat)  (q : Queued), (s.linked = true ∧ k = bufKey i.val (if service then 1 else 0) vc.val) ∧ ((s.buffer k).findIdx? (fun q => q.out.isNone) = some j ∧ (s.buffer k)[j]? = some q) ∧ (s.verdict i.val q.pkt = .forward n v))
    ∧ (∃ (i : Fin 7)  (service : Bool)  (vc : Fin 2)  (s : State)  (k j sub : Nat)  (q : Queued), (s.linked = true ∧ k = bufKey i.val (if service then 1 else 0) vc.val) ∧ ((s.buffer k).findIdx? (fun q => q.out.isNone) = some j ∧ (s.buffer k)[j]? = some q) ∧ ((s.verdict i.val q.pkt = .dropBollard ∧ sub = 2) ∨ (s.verdict i.val q.pkt = .dropRoute ∧ sub = 4)))
    ∧ (∃ (i : Fin 7)  (service : Bool)  (vc : Fin 2)  (s : State)  (k j : Nat)  (q : Queued), (s.linked = true ∧ k = bufKey i.val (if service then 1 else 0) vc.val) ∧ ((s.buffer k).findIdx? (fun q => decide (q.at_ + Config.ticksPerMs ≤ s.town)) = some j ∧ (s.buffer k)[j]? = some q))
    ∧ (∃ (rtag : BitVec 16)  (s : State)  (o : Outstanding), (s.live = true) ∧ (s.outstanding.find? rtag.toNat = some o ∧ o.at_ + s.objNat (0x7100 + o.port) 0x09 * Config.ticksPerUs ≤ s.town)) :=
  ⟨⟨6, true, 0, buffered { pkt := ({ type := 0x20, dst := 1, src := 2 } : Heading).packet [], at_ := 0 }, 26, 0, { pkt := ({ type := 0x20, dst := 1, src := 2 } : Heading).packet [], at_ := 0 }, by
    repeat' apply And.intro
    all_goals first | with_reducible rfl | decide +kernel | exact eq_ok _ _ (by decide +kernel) | exact eq_okOf _ _ (by decide +kernel)⟩,
   ⟨6, true, 0, buffered { pkt := ({ type := 0x20, dst := 2, src := 1, hops := 1 } : Heading).packet [], at_ := 0 }, 26, 0, 0, 0, { pkt := ({ type := 0x20, dst := 2, src := 1, hops := 1 } : Heading).packet [], at_ := 0 }, by
    repeat' apply And.intro
    all_goals first | with_reducible rfl | decide +kernel | exact eq_ok _ _ (by decide +kernel) | exact eq_okOf _ _ (by decide +kernel)⟩,
   ⟨6, true, 0, buffered { pkt := ({ type := 0x20, dst := 2, src := 1 } : Heading).packet [], at_ := 0 }, 26, 0, 4, { pkt := ({ type := 0x20, dst := 2, src := 1 } : Heading).packet [], at_ := 0 }, by
    repeat' apply And.intro
    all_goals first | with_reducible rfl | decide +kernel | exact eq_ok _ _ (by decide +kernel) | exact eq_okOf _ _ (by decide +kernel)⟩,
   ⟨6, true, 0, atTown 1600000 (buffered { pkt := ({ type := 0x20, dst := 2, src := 1 } : Heading).packet [], at_ := 0 }), 26, 0, { pkt := ({ type := 0x20, dst := 2, src := 1 } : Heading).packet [], at_ := 0 }, by
    repeat' apply And.intro
    all_goals first | with_reducible rfl | decide +kernel | exact eq_ok _ _ (by decide +kernel) | exact eq_okOf _ _ (by decide +kernel)⟩,
   ⟨7, atTown 1600000000 { outstanding := [(7, { port := 0, epoch := 0, at_ := 0, session := 1, tid := 1 })] }, { port := 0, epoch := 0, at_ := 0, session := 1, tid := 1 }, by
    repeat' apply And.intro
    all_goals first | with_reducible rfl | decide +kernel | exact eq_ok _ _ (by decide +kernel) | exact eq_okOf _ _ (by decide +kernel)⟩⟩

/-- The premises of each clause of FabricPacketsRun hold of something. -/
theorem test_FabricPacketsRun_premises :
    (∃ (s t u : State)  (i j p : Nat)  (e : BitVec 128)  (pkt : Packet), (s.takeType 0x10 = some (i, pkt, t) ∧ t.openSlot pkt.job = some j) ∧ (p = t.jobPart j ∧ e = (if pkt.handle < 4096 then t.handle p pkt.handle else 0)) ∧ ((decide (i < 6) && t.bollard (t.boxOf j) i) = false) ∧ ((t.part p).stepState = .running ∧ pkt.flags / 4 % 2 = (t.part p).stepCount % 2) ∧ (hKind e = 3 ∧ pkt.woffset + pkt.len ≤ hSize e) ∧ (u = (if pkt.flags % 2 = 1 then t.markTag p pkt.handle false 0 else t).receiveWords (hAddr e pkt.woffset) pkt.payload))
    ∧ (∃ (s t : State)  (pkt : Packet)  (id j d f m : Nat)  (c : Coll)  (ws : List Word)  (sums : List Nat), (s.takeWave true = some (pkt, t) ∧ t.collRuns pkt = true ∧ t.collOf true pkt = some (id, c, d) ∧ t.openSlot pkt.job = some j) ∧ (pkt.read = .ok ws ∧ c.agrees pkt ws = true ∧ pkt.flags / 8 % 2 = 0) ∧ (f = (collFormat c.header).getD 0 ∧ m = min (perPacket (c.op == 0) f) (c.count - c.got.length)) ∧ (sums = List.zipWith (collCombine c.op f) ((c.elems.drop c.got.length).take m) (unpackPacket (c.op == 0) f m ws)) ∧ (t.pos (t.boxOf j) d + 1 ≠ (t.boxOf j).extent d))
    ∧ (∃ (s t : State)  (pkt : Packet)  (id j d : Nat)  (c : Coll)  (ws : List Word)  (h : Word), (s.takeWave true = some (pkt, t) ∧ t.collRuns pkt = true ∧ t.collOf true pkt = some (id, c, d) ∧ t.openSlot pkt.job = some j) ∧ (pkt.read = .ok ws ∧ c.agrees pkt ws = true ∧ pkt.flags / 8 % 2 = 1) ∧ (h = withFlags c.header (headFlags c.header ||| headFlags (ws.headD 0))))
    ∧ (∃ (s t u : State)  (pkt : Packet)  (id j d f m : Nat)  (c c' : Coll)  (ws : List Word)  (sums : List Nat), (s.takeWave true = some (pkt, t) ∧ t.collRuns pkt = true ∧ t.collOf true pkt = some (id, c, d) ∧ t.openSlot pkt.job = some j) ∧ (pkt.read = .ok ws ∧ c.agrees pkt ws = true ∧ pkt.flags / 8 % 2 = 0) ∧ (f = (collFormat c.header).getD 0 ∧ m = min (perPacket (c.op == 0) f) (c.count - c.got.length)) ∧ (sums = List.zipWith (collCombine c.op f) ((c.elems.drop c.got.length).take m) (unpackPacket (c.op == 0) f m ws)) ∧ (t.pos (t.boxOf j) d + 1 = (t.boxOf j).extent d ∧ c.count ≤ (c.got ++ sums).length) ∧ ((collResult c.op f (c.got ++ sums)).2.2 = false ∨ t.accFail c.part = false) ∧ (c' = { c with
      header := withFlags (c.gotHead.getD c.header) (headFlags (c.gotHead.getD c.header) ||| (collResult c.op f (c.got ++ sums)).2.1)
      elems := (collResult c.op f (c.got ++ sums)).1, dims := c.dims.tail, got := [], gotHead := none, upDone := false }) ∧ (u = (t.writeWords ((addrs c.dst (resultWords c'.header c'.elems).length).zip (resultWords c'.header c'.elems))).setColl id c'))
    ∧ (∃ (s t u : State)  (pkt : Packet)  (id j d : Nat)  (c : Coll)  (ws : List Word), (s.takeWave false = some (pkt, t) ∧ t.collRuns pkt = true ∧ t.collOf false pkt = some (id, c, d) ∧ t.openSlot pkt.job = some j) ∧ (pkt.read = .ok ws ∧ c.agrees pkt ws = true ∧ pkt.flags / 8 % 2 = 1) ∧ (u = (if (collFormat c.header).getD 0 = 2 then t else t.writeWords [(c.dst, withFlags (ws.headD 0) (headFlags (ws.headD 0)))]).setColl id
      { c with gotHead := some (withFlags (ws.headD 0) (headFlags (ws.headD 0))), got := [] }))
    ∧ (∃ (s t u : State)  (pkt : Packet)  (id j d f m w : Nat)  (c : Coll)  (ws : List Word)  (got : List Nat), (s.takeWave false = some (pkt, t) ∧ t.collRuns pkt = true ∧ t.collOf false pkt = some (id, c, d) ∧ t.openSlot pkt.job = some j) ∧ (pkt.read = .ok ws ∧ c.agrees pkt ws = true ∧ pkt.flags / 8 % 2 = 0) ∧ (f = (collFormat c.header).getD 0 ∧ m = min (perPacket false f) (c.count - c.got.length) ∧ got = c.got ++ unpackPacket false f m ws) ∧ (w = c.dst + (if f = 2 then 0 else 1) + c.got.length / (256 / collBits f)) ∧ (u = t.writeWords ((addrs w (ceilDiv m (256 / collBits f))).zip ws))) :=
  ⟨⟨{ fabric with parts := [(0, { partState := 1, stepState := .running, handles := [(1, BitVec.ofNat 128 (place 120 8 3 ||| place 64 32 4))] })], arrived := [(6, dataPacket)] }, { fabric with parts := [(0, { partState := 1, stepState := .running, handles := [(1, BitVec.ofNat 128 (place 120 8 3 ||| place 64 32 4))] })] }, _, 6, 0, 0, _, dataPacket, by
    repeat' apply And.intro
    all_goals first | with_reducible rfl | decide +kernel | exact eq_ok _ _ (by decide +kernel) | exact eq_okOf _ _ (by decide +kernel)⟩,
   ⟨collective 0 (waveOf) (wave 0x11 5 0x10 0), waveTaken 0 (waveOf), wave 0x11 5 0x10 0, 3, 0, 0, 2, 1, waveOf, okOf (wave 0x11 5 0x10 0).read [], _, by
    repeat' apply And.intro
    all_goals first | with_reducible rfl | decide +kernel | exact eq_ok _ _ (by decide +kernel) | exact eq_okOf _ _ (by decide +kernel)⟩,
   ⟨collective 0 (waveOf) (wave 0x11 5 0x18 waveHeader), waveTaken 0 (waveOf), wave 0x11 5 0x18 waveHeader, 3, 0, 0, waveOf, okOf (wave 0x11 5 0x18 waveHeader).read [], _, by
    repeat' apply And.intro
    all_goals first | with_reducible rfl | decide +kernel | exact eq_ok _ _ (by decide +kernel) | exact eq_okOf _ _ (by decide +kernel)⟩,
   ⟨collective 1 (waveOf) (wave 0x11 5 0x10 0), waveTaken 1 (waveOf), _, wave 0x11 5 0x10 0, 3, 0, 0, 2, 1, waveOf, _, okOf (wave 0x11 5 0x10 0).read [], _, by
    repeat' apply And.intro
    all_goals first | with_reducible rfl | decide +kernel | exact eq_ok _ _ (by decide +kernel) | exact eq_okOf _ _ (by decide +kernel)⟩,
   ⟨collective 0 ({ waveOf with upDone := true }) (wave 0x12 6 0x18 waveHeader), waveTaken 0 ({ waveOf with upDone := true }), _, wave 0x12 6 0x18 waveHeader, 3, 0, 0, { waveOf with upDone := true }, okOf (wave 0x12 6 0x18 waveHeader).read [], by
    repeat' apply And.intro
    all_goals first | with_reducible rfl | decide +kernel | exact eq_ok _ _ (by decide +kernel) | exact eq_okOf _ _ (by decide +kernel)⟩,
   ⟨collective 0 ({ waveOf with upDone := true }) (wave 0x12 6 0x10 0), waveTaken 0 ({ waveOf with upDone := true }), _, wave 0x12 6 0x10 0, 3, 0, 0, 2, 1, _, { waveOf with upDone := true }, okOf (wave 0x12 6 0x10 0).read [], _, by
    repeat' apply And.intro
    all_goals first | with_reducible rfl | decide +kernel | exact eq_ok _ _ (by decide +kernel) | exact eq_okOf _ _ (by decide +kernel)⟩⟩

/-- The premises of each clause of FaultAgreementRuns hold of something. -/
theorem test_FaultAgreementRuns_premises :
    (∃ (s t u : State)  (i : Nat)  (pkt : Packet)  (w : Word), (s.takeType 0x20 = some (i, pkt, t) ∧ pkt.goodWord 0 = some w) ∧ (u = (if t.seenNotices.contains (nIdentity w) then t
      else (({ t with seenNotices := nIdentity w :: t.seenNotices } : State).flood (nJob w) 0x20 [w] i).count 0x9B00 0x02 1)))
    ∧ (∃ (p : Fin 64)  (s : State)  (j t : Nat), (s.live = true ∧ s.agrees p.val = some j ∧ (s.part p.val).episode.since = some t) ∧ (t + 1000 * Config.ticksPerUs ≤ s.town ∧ (s.part p.val).episode.decided = false ∧ s.coordinates j (s.part p.val).episode.notices = true))
    ∧ (∃ (s t u : State)  (i j : Nat)  (pkt : Packet)  (w v : Word), (s.takeType 0x21 = some (i, pkt, t) ∧ pkt.goodWord 0 = some w ∧ pkt.goodWord 1 = some v) ∧ (u = (if t.seenNotices.contains (dcIdentity w) then t
      else (({ t with seenNotices := dcIdentity w :: t.seenNotices } : State).flood (dcJob w) 0x21 [w, v] i).count 0x9B00 0x02 1)) ∧ (u.openSlot (dcJob w) = some j) ∧ (((u.part (u.jobPart j)).episode.accepted.map (fun d => dcRound d.1)).getD 0 ≤ dcRound w ∧ (suspects (u.part (u.jobPart j)).episode.notices).contains (dcCoordinator w) = false))
    ∧ (∃ (p : Fin 64)  (s : State)  (j : Nat)  (d : Word × Word), (s.live = true) ∧ ((s.part p.val).episode.accepted = some d ∧ s.agrees p.val = some j ∧ (s.part p.val).episode.acceptedAt + 500 * Config.ticksPerUs ≤ s.town))
    ∧ (∃ (p : Fin 64)  (s : State)  (f : Failure)  (d : Word × Word), (s.live = true) ∧ ((s.part p.val).episode.accepted = some d ∧ s.agrees p.val = none ∧ (s.part p.val).failure = some f ∧ f.closed = true))
    ∧ (∃ (p : Fin 64)  (s : State)  (sp : Nat), (s.live = true ∧ (s.part p.val).exchange = true ∧ (s.part p.val).stepState ≠ .fenced ∧ (s.part p.val).stepState ≠ .running) ∧ (sp = s.objNat (0x4000 + p.val) 0x0F ∧ sp < 64 ∧ sp ≠ p.val)) :=
  ⟨⟨{ fabric with arrived := [(6, packetOf { type := 0x20, dst := 1, src := 2 } 0)] }, fabric, _, 6, packetOf { type := 0x20, dst := 1, src := 2 } 0, 0, by
    repeat' apply And.intro
    all_goals first | with_reducible rfl | decide +kernel | exact eq_ok _ _ (by decide +kernel) | exact eq_okOf _ _ (by decide +kernel)⟩,
   ⟨0, atTown 1600000 { fabric with parts := [(0, { partState := 1, episode := { since := some 0 } })] }, 0, 0, by
    repeat' apply And.intro
    all_goals first | with_reducible rfl | decide +kernel | exact eq_ok _ _ (by decide +kernel) | exact eq_okOf _ _ (by decide +kernel)⟩,
   ⟨{ fabric with arrived := [(6, ({ type := 0x21, dst := 1, src := 2 } : Heading).packet [encodeWord (BitVec.ofNat 256 (place 96 16 5 ||| place 88 8 1)), encodeWord 0])] }, fabric, _, 6, 0, ({ type := 0x21, dst := 1, src := 2 } : Heading).packet [encodeWord (BitVec.ofNat 256 (place 96 16 5 ||| place 88 8 1)), encodeWord 0], BitVec.ofNat 256 (place 96 16 5 ||| place 88 8 1), 0, by
    repeat' apply And.intro
    all_goals first | with_reducible rfl | decide +kernel | exact eq_ok _ _ (by decide +kernel) | exact eq_okOf _ _ (by decide +kernel)⟩,
   ⟨0, atTown 800000 { fabric with parts := [(0, { partState := 1, episode := { accepted := some (0, 0) } })] }, 0, (0, 0), by
    repeat' apply And.intro
    all_goals first | with_reducible rfl | decide +kernel | exact eq_ok _ _ (by decide +kernel) | exact eq_okOf _ _ (by decide +kernel)⟩,
   ⟨0, { parts := [(0, { partState := 1, failure := some { cause := .fault, block := 0, queue := 0, opcode := 0, stamp := 0, at_ := 0, lcycle := 0, cls := 1, closed := true }, episode := { accepted := some (0, 0) } })] }, { cause := .fault, block := 0, queue := 0, opcode := 0, stamp := 0, at_ := 0, lcycle := 0, cls := 1, closed := true }, (0, 0), by
    repeat' apply And.intro
    all_goals first | with_reducible rfl | decide +kernel | exact eq_ok _ _ (by decide +kernel) | exact eq_okOf _ _ (by decide +kernel)⟩,
   ⟨0, ({ parts := [(0, { partState := 1, exchange := true }), (1, { partState := 1 })] } : State).storeRaw 0x4000 0x0F [1], 1, by
    repeat' apply And.intro
    all_goals first | with_reducible rfl | decide +kernel | exact eq_ok _ _ (by decide +kernel) | exact eq_okOf _ _ (by decide +kernel)⟩⟩

/-- The premises of each clause of MirrorRuns hold of something. -/
theorem test_MirrorRuns_premises :
    (∃ (p : Fin 64)  (s v t : State)  (q : Nat)  (parts : List (Nat × Nat × List Stored)), (s.live = true ∧ s.ckptDue p.val = true ∧ q = ((s.part p.val).stepCount + 1) % 2) ∧ ((s.ckptTiers p.val q).all (fun e => s.ownerMoves p.val (hAddr e 0)) = true ∧ (s.ckptTiers p.val q = [] ∨ s.ownerKeyOk p.val = true)) ∧ (parts = (s.ckptList p.val q).flatMap (fun h => let l := s.handleWords p.val h; (sliceWords l.length 0 l).map (fun e => (h, e)))) ∧ (v = s.setPart p.val { s.part p.val with ckptSent := true, ckptSince := s.town, ckptSealed := parts.isEmpty }) ∧ (t = (v.ckptList p.val q).foldl (fun (s : State) h => s.serviceRead p.val (hAddr (s.handle p.val h) 0) (hSize (s.handle p.val h))) v))
    ∧ (∃ (p : Fin 64)  (s : State)  (q : Nat), (s.live = true ∧ s.ckptDue p.val = true ∧ q = ((s.part p.val).stepCount + 1) % 2) ∧ ((s.ckptTiers p.val q).all (fun e => s.ownerMoves p.val (hAddr e 0)) = true) ∧ (s.ckptTiers p.val q ≠ [] ∧ s.ownerKeyOk p.val = false))
    ∧ (∃ (s t u : State)  (i m q : Nat)  (pkt : Packet)  (l : List (Nat × Nat × Nat))  (x y : Part)  (words : Nat), (s.takeType 0x22 = some (i, pkt, t) ∧ t.mirrorFor pkt.src = some m ∧ q = pkt.flags / 4 % 2) ∧ (x = (if (t.part m).mirrorOpen then t.part m else if q = 0 then { t.part m with mirror0 := [], mirrorBad := false } else { t.part m with mirror1 := [], mirrorBad := false })) ∧ (l = (if q = 0 then x.mirror0 else x.mirror1) ∧ words = (l.map (fun e => e.2.2)).foldl (· + ·) 0) ∧ (words + pkt.payload.length ≤ (t.mirrorHalf m q).2 ∧ x.mirrorBad = false ∧ t.ownerKeyOk m = true ∧ t.ownerMoves m (t.mirrorHalf m q).1 = true) ∧ (u = (t.putWords (t.objNat (0x4100 + x.owner) 0x05) ((t.mirrorHalf m q).1 + words) pkt.payload).serviceMove (some x.owner) ((t.mirrorHalf m q).1 + words) pkt.payload.length) ∧ (y = (if q = 0 then { x with mirror0 := l ++ [(pkt.handle, pkt.woffset, pkt.payload.length)], mirrorOpen := decide (pkt.flags / 2 % 2 ≠ 1) }
     else { x with mirror1 := l ++ [(pkt.handle, pkt.woffset, pkt.payload.length)], mirrorOpen := decide (pkt.flags / 2 % 2 ≠ 1) })))
    ∧ (∃ (s t : State)  (i m q : Nat)  (pkt : Packet)  (l : List (Nat × Nat × Nat))  (x : Part), (s.takeType 0x22 = some (i, pkt, t) ∧ t.mirrorFor pkt.src = some m ∧ q = pkt.flags / 4 % 2 ∧ pkt.flags / 2 % 2 = 1) ∧ (x = (if (t.part m).mirrorOpen then t.part m else if q = 0 then { t.part m with mirror0 := [], mirrorBad := false } else { t.part m with mirror1 := [], mirrorBad := false })) ∧ (l = (if q = 0 then x.mirror0 else x.mirror1)) ∧ ((t.mirrorHalf m q).2 < (l.map (fun e => e.2.2)).foldl (· + ·) 0 + pkt.payload.length ∨ x.mirrorBad = true ∨ t.ownerKeyOk m = false))
    ∧ (∃ (s t : State)  (i p : Nat)  (pkt : Packet)  (w : Word), (s.takeType 0x23 = some (i, pkt, t) ∧ t.waitsOn pkt.src (fun x => x.ckptSent && !x.ckptSealed) = some p) ∧ (pkt.goodWord 0 = some w ∧ field w 64 8 = 0))
    ∧ (∃ (s t : State)  (i p : Nat)  (pkt : Packet)  (w : Word), (s.takeType 0x23 = some (i, pkt, t) ∧ t.waitsOn pkt.src (fun x => x.ckptSent && !x.ckptSealed) = some p) ∧ (pkt.goodWord 0 = some w ∧ field w 64 8 ≠ 0))
    ∧ (∃ (s t : State)  (i p a : Nat)  (pkt : Packet), (s.takeType 0x24 = some (i, pkt, t) ∧ t.waitsOn pkt.src (fun x => x.restoring && !x.exchange) = some p) ∧ (hKind (t.handle p pkt.handle) ≠ 0 ∧ pkt.woffset + pkt.payload.length ≤ hSize (t.handle p pkt.handle) ∧ a = hAddr (t.handle p pkt.handle) pkt.woffset) ∧ ((hKind (t.handle p pkt.handle) = 2 → t.ownerKeyOk p = true) ∧ t.ownerMoves p a = true))
    ∧ (∃ (s t : State)  (i p : Nat)  (pkt : Packet), (s.takeType 0x25 = some (i, pkt, t) ∧ t.waitsOn pkt.src (fun x => x.restoring && !x.exchange) = some p)) :=
  ⟨⟨0, ({ parts := [(0, { partState := 1, stepState := .waiting, tickets := [{ desc := 0, src := .core 0 }] })] } : State).storeRaw 0x4000 0x0C [1], _, _, _, _, by
    repeat' apply And.intro
    all_goals first | with_reducible rfl | decide +kernel | exact eq_ok _ _ (by decide +kernel) | exact eq_okOf _ _ (by decide +kernel)⟩,
   ⟨0, (({ parts := [(0, { partState := 1, stepState := .waiting, tickets := [{ desc := 0, src := .core 0 }], handles := [(1, tierBuffer 0 4)] })] } : State).storeRaw 0x4000 0x0C [1]).storeRaw 0x4000 0x13 [1, 0], _, by
    repeat' apply And.intro
    all_goals first | with_reducible rfl | decide +kernel | exact eq_ok _ _ (by decide +kernel) | exact eq_okOf _ _ (by decide +kernel)⟩,
   ⟨{ mirrorKey with arrived := [(6, packetOf { type := 0x22, dst := 1, src := 2 } 9)] }, mirrorKey, _, 6, 0, 0, packetOf { type := 0x22, dst := 1, src := 2 } 9, _, _, _, _, by
    repeat' apply And.intro
    all_goals first | with_reducible rfl | decide +kernel | exact eq_ok _ _ (by decide +kernel) | exact eq_okOf _ _ (by decide +kernel)⟩,
   ⟨{ mirror with arrived := [(6, packetOf { type := 0x22, dst := 1, src := 2, flags := 2 } 9)] }, mirror, 6, 0, 0, packetOf { type := 0x22, dst := 1, src := 2, flags := 2 } 9, _, _, by
    repeat' apply And.intro
    all_goals first | with_reducible rfl | decide +kernel | exact eq_ok _ _ (by decide +kernel) | exact eq_okOf _ _ (by decide +kernel)⟩,
   ⟨{ parts := [(0, { partState := 1, ckptSent := true })], arrived := [(6, packetOf { type := 0x23, dst := 1, src := 65535 } 1)] }, { parts := [(0, { partState := 1, ckptSent := true })] }, 6, 0, packetOf { type := 0x23, dst := 1, src := 65535 } 1, 1, by
    repeat' apply And.intro
    all_goals first | with_reducible rfl | decide +kernel | exact eq_ok _ _ (by decide +kernel) | exact eq_okOf _ _ (by decide +kernel)⟩,
   ⟨{ parts := [(0, { partState := 1, ckptSent := true })], arrived := [(6, packetOf { type := 0x23, dst := 1, src := 65535 } (BitVec.ofNat 256 (2 ^ 64)))] }, { parts := [(0, { partState := 1, ckptSent := true })] }, 6, 0, packetOf { type := 0x23, dst := 1, src := 65535 } (BitVec.ofNat 256 (2 ^ 64)), BitVec.ofNat 256 (2 ^ 64), by
    repeat' apply And.intro
    all_goals first | with_reducible rfl | decide +kernel | exact eq_ok _ _ (by decide +kernel) | exact eq_okOf _ _ (by decide +kernel)⟩,
   ⟨{ parts := [(0, { partState := 1, restoring := true, handles := [(1, buffer 0 4)] })], arrived := [(6, packetOf { type := 0x24, dst := 1, src := 65535, handle := 1 } 1)] }, { parts := [(0, { partState := 1, restoring := true, handles := [(1, buffer 0 4)] })] }, 6, 0, 0, packetOf { type := 0x24, dst := 1, src := 65535, handle := 1 } 1, by
    repeat' apply And.intro
    all_goals first | with_reducible rfl | decide +kernel | exact eq_ok _ _ (by decide +kernel) | exact eq_okOf _ _ (by decide +kernel)⟩,
   ⟨{ parts := [(0, { partState := 1, restoring := true })], arrived := [(6, ({ type := 0x25, dst := 1, src := 65535 } : Heading).packet [])] }, { parts := [(0, { partState := 1, restoring := true })] }, 6, 0, ({ type := 0x25, dst := 1, src := 65535 } : Heading).packet [], by
    repeat' apply And.intro
    all_goals first | with_reducible rfl | decide +kernel | exact eq_ok _ _ (by decide +kernel) | exact eq_okOf _ _ (by decide +kernel)⟩⟩

/-- The premises of each clause of ReplaysAnswerOnce hold of something. -/
theorem test_ReplaysAnswerOnce_premises :
    (∃ (s : State)  (src : Source)  (l : List Byte)  (x : Session)  (e : Nat × Nat × List Byte), (cLengthOk l = true ∧ s.sessionOf src l = some x ∧ tagHolds (some x.key) l = true) ∧ (x.replies.find? (fun e => e.1 == cTid l && e.2.1 == cCount l) = some e))
    ∧ (∃ (s : State)  (src : Source)  (l : List Byte)  (x : Session), (cLengthOk l = true ∧ s.sessionOf src l = some x ∧ tagHolds (some x.key) l = true) ∧ (x.replies.find? (fun e => e.1 == cTid l && e.2.1 == cCount l) = none) ∧ (cCount l ≤ x.lastCount))
    ∧ (∃ (s : State)  (src : Source)  (l : List Byte)  (status : Nat)  (a : Answer)  (x : Session), (s.sessionOf src l = some x)) :=
  ⟨⟨{ cdp := { sessions := [(1, { operator with replies := [(0, 0, [9])] })] } }, .frame 7, tagged, { operator with replies := [(0, 0, [9])] }, (0, 0, [9]), by
    exact ⟨⟨by decide +kernel, by decide +kernel, tag_holds _ _⟩, by decide +kernel⟩⟩,
   ⟨{ cdp := { sessions := [(1, operator)] } }, .frame 7, tagged, operator, by
    exact ⟨⟨by decide +kernel, by decide +kernel, tag_holds _ _⟩, by decide +kernel, by decide +kernel⟩⟩,
   ⟨{ cdp := { sessions := [(1, operator)] } }, .frame 7, tagged, 0, {}, operator, by
    repeat' apply And.intro
    all_goals first | with_reducible rfl | decide +kernel | exact eq_ok _ _ (by decide +kernel) | exact eq_okOf _ _ (by decide +kernel)⟩⟩

/-- The premises of each clause of DictionaryRequestsRun hold of something. -/
theorem test_DictionaryRequestsRun_premises :
    (∃ (s T : State)  (src : Source)  (l : List Byte)  (rest : List (Source × List Byte))  (a : Ask)  (i u : Nat)  (d : Done), (Row s src l rest i u T a) ∧ (ownRow (cMsg l) i u = false) ∧ (actAny T a = .ok d))
    ∧ (∃ (T : State)  (a : Ask)  (p : Nat)  (e : ObjEntry), (a.reads = false ∧ rowAct a.index a.sub = none ∧ ¬ (a.index = 0xC020 ∧ a.sub = 0x02)) ∧ (T.writeCause a = none ∧ objectAt a.index a.sub = some e ∧ partObject a.index = some p))
    ∧ (∃ (s T : State)  (src : Source)  (l : List Byte)  (rest : List (Source × List Byte))  (a : Ask)  (i u : Nat)  (v : List Byte), (Commanded s src l rest i u ∧ cMsg l = 1 ∧ T = Taken s rest ∧ a = T.askOf src l) ∧ (ownRow 1 i u = false) ∧ (T.readValue a = .ok v ∧ v.length ≤ 448))
    ∧ (∃ (s t : State)  (mac : BitVec 48)  (bytes : List Byte), (s.cdpRuns = true ∧ s.cdp.queue = [] ∧ s.arrived = []) ∧ (t = s.arrive (.frame mac.toNat) bytes ∧ t.arrived = [] ∧ t.cdpRuns = true))
    ∧ (∃ (s T : State)  (src : Source)  (l : List Byte)  (rest : List (Source × List Byte))  (a : Ask)  (had : List Byte), (s.cdpRuns = true ∧ s.arrived = [] ∧ s.cdp.queue = (src, l) :: rest ∧ (cSession l = 0 ∨ (s.sessionOf src l).isSome = true)) ∧ (cMsg l = 5 ∧ slotImage (cIndex l) (cSub l) = false ∧ T = Taken s rest ∧ a = T.askOf src l) ∧ ((T.stagingOf a.src a.sid).all (fun g => g.key == objKey a.index a.sub) = true ∧ had = ((T.stagingOf a.src a.sid).map Staging.bytes).getD []) ∧ ((T.stagingOf a.src a.sid).isSome = true ∨ T.stagings < 4) ∧ (T.objectCause a a.value.length false = none) ∧ (a.offset = had.length ∧ (had ++ a.value).length ≤ 262144 ∧ a.last = false))
    ∧ (∃ (s T : State)  (src : Source)  (l : List Byte)  (rest : List (Source × List Byte))  (a : Ask)  (i u : Nat)  (d : Done), (Completed s src l rest i u T a) ∧ (actAny T a = .ok d))
    ∧ (∃ (s T : State)  (src : Source)  (l : List Byte)  (rest : List (Source × List Byte))  (a : Ask)  (v : List Byte), (Commanded s src l rest 0x3230 0x01 ∧ cMsg l = 1 ∧ T = Taken s rest ∧ a = T.askOf src l) ∧ (T.readValue a = .ok v ∧ v.length ≤ 448))
    ∧ (∃ (s T : State)  (src : Source)  (l : List Byte)  (rest : List (Source × List Byte))  (a : Ask)  (v : List Byte)  (x : Session)  (from_ : Nat)  (recs : List Word), (Commanded s src l rest 0xA000 0x04 ∧ cMsg l = 1 ∧ T = Taken s rest ∧ a = T.askOf src l) ∧ (T.readValue a = .ok v ∧ v.length ≤ 448) ∧ (T.cdp.sessions.find? a.sid = some x ∧ x.logSelect ≠ T.log.next % 2 ^ 32 ∧ precedes 32 T.log.next x.logSelect = false) ∧ (from_ = (if precedes 32 x.logSelect T.log.first then T.log.first else T.log.next - (T.log.next + 2 ^ 32 - x.logSelect) % 2 ^ 32)) ∧ (recs = ((List.range 14).map (fun i => from_ + i)).filterMap (fun i => T.log.records.find? i)))
    ∧ (∃ (s T : State)  (src : Source)  (l : List Byte)  (rest : List (Source × List Byte))  (a : Ask)  (i u k : Nat)  (c : CardImage)  (had all : List Byte), (Row s src l rest i u T a) ∧ (slotImage i u = true ∧ cMsg l = 2 ∧ k = u - 0x10) ∧ (T.card = some c ∧ c.active.val ≠ k) ∧ (had = (if a.offset = 0 then [] else (cardSlot c k).writing) ∧ all = had ++ a.value ∧ a.offset = had.length ∧ all.length ≤ 50331648))
    ∧ (∃ (s T : State)  (src : Source)  (l : List Byte)  (rest : List (Source × List Byte))  (a : Ask), (Row s src l rest 0x3200 0x03 T a))
    ∧ (∃ (w : WakeTrigger)  (s : State), (s.wakeDue w = true ∧ s.mode = .parked)) :=
  ⟨⟨asked (change 0x3000 4 3 (natBytes 4 100)) {}, _, .frame 7, change 0x3000 4 3 (natBytes 4 100), [], _, 0x3000, 4, okOf _ { s := {} }, by
    repeat' apply And.intro
    all_goals first | with_reducible rfl | decide +kernel | exact eq_ok _ _ (by decide +kernel) | exact eq_okOf _ _ (by decide +kernel)⟩,
   ⟨{}, { src := .frame 7, sid := 1, role := 1, tenant := 0, msg := 2, index := 0x4000, sub := 0x0F, tid := 0, type := 1, offset := 0, total := 0, last := false, value := [0xFF] }, 0, ⟨0x4000, 64, 0x0F, 1, "SPARE_PARTITION", .u8, .rwb, 1, natBytes 1 255⟩, by
    repeat' apply And.intro
    all_goals first | with_reducible rfl | decide +kernel | exact eq_ok _ _ (by decide +kernel) | exact eq_okOf _ _ (by decide +kernel)⟩,
   ⟨asked (look 0x3000 4) {}, _, .frame 7, look 0x3000 4, [], _, 0x3000, 4, okOf _ [], by
    repeat' apply And.intro
    all_goals first | with_reducible rfl | decide +kernel | exact eq_ok _ _ (by decide +kernel) | exact eq_okOf _ _ (by decide +kernel)⟩,
   ⟨{}, _, 7, [], by
    repeat' apply And.intro
    all_goals first | with_reducible rfl | decide +kernel | exact eq_ok _ _ (by decide +kernel) | exact eq_okOf _ _ (by decide +kernel)⟩,
   ⟨asked (message { msg := 5, index := 0x7000, sub := 4, type := 15, body := [1] }) {}, _, .frame 7, message { msg := 5, index := 0x7000, sub := 4, type := 15, body := [1] }, [], _, [], by
    repeat' apply And.intro
    all_goals first | with_reducible rfl | decide +kernel | exact eq_ok _ _ (by decide +kernel) | exact eq_okOf _ _ (by decide +kernel)⟩,
   ⟨asked (message { msg := 5, index := 0x3000, sub := 4, type := 3, flags := 1, body := natBytes 4 100 }) {}, _, .frame 7, message { msg := 5, index := 0x3000, sub := 4, type := 3, flags := 1, body := natBytes 4 100 }, [], _, 0x3000, 4, okOf _ { s := {} }, by
    repeat' apply And.intro
    all_goals first | with_reducible rfl | decide +kernel | exact eq_ok _ _ (by decide +kernel) | exact eq_okOf _ _ (by decide +kernel)⟩,
   ⟨asked (look 0x3230 1) {}, _, .frame 7, look 0x3230 1, [], _, okOf _ [], by
    repeat' apply And.intro
    all_goals first | with_reducible rfl | decide +kernel | exact eq_ok _ _ (by decide +kernel) | exact eq_okOf _ _ (by decide +kernel)⟩,
   ⟨asked (look 0xA000 4) { log := { records := [(0, 7)], next := 1 } }, _, .frame 7, look 0xA000 4, [], _, okOf _ [], operator, _, _, by
    repeat' apply And.intro
    all_goals first | with_reducible rfl | decide +kernel | exact eq_ok _ _ (by decide +kernel) | exact eq_okOf _ _ (by decide +kernel)⟩,
   ⟨asked (change 0x2100 0x11 15 [1]) { card := some card0 }, _, .frame 7, change 0x2100 0x11 15 [1], [], _, 0x2100, 0x11, 1, card0, _, _, by
    repeat' apply And.intro
    all_goals first | with_reducible rfl | decide +kernel | exact eq_ok _ _ (by decide +kernel) | exact eq_okOf _ _ (by decide +kernel)⟩,
   ⟨asked (order 0x3200 3 9 [1]) { mode := .parked }, _, .frame 7, order 0x3200 3 9 [1], [], _, by
    repeat' apply And.intro
    all_goals first | with_reducible rfl | decide +kernel | exact eq_ok _ _ (by decide +kernel) | exact eq_okOf _ _ (by decide +kernel)⟩,
   ⟨.activate, { mode := .parked, start := { activating := true } }, by
    repeat' apply And.intro
    all_goals first | with_reducible rfl | decide +kernel | exact eq_ok _ _ (by decide +kernel) | exact eq_okOf _ _ (by decide +kernel)⟩⟩

/-- The premises of each clause of SessionEventsRun hold of something. -/
theorem test_SessionEventsRun_premises :
    (∃ (f : FnId)  (value : BitVec 64)  (s : State), (s.cdpRuns = true ∧ (s.fn f).reqBusy = false))
    ∧ (∃ (f : FnId)  (value : BitVec 64)  (s : State), (s.cdpRuns = true ∧ (s.fn f).reqBusy = true))
    ∧ (∃ (f : FnId)  (value : BitVec 64)  (s : State)  (x : Fn), (s.cdpRuns = true) ∧ (x = { s.fn f with
      reqBusy := (s.fn f).reqBusy && !bitAt value 0, respReady := (s.fn f).respReady && !bitAt value 0
      notes := if bitAt value 1 then (s.fn f).notes.tail else (s.fn f).notes
      noteLost := (s.fn f).noteLost && !bitAt value 3, mbOverrun := (s.fn f).mbOverrun && !bitAt value 4 }))
    ∧ (∃ (sid : Fin 65536)  (s : State)  (x : Session), (s.cdpRuns = true) ∧ (s.cdp.sessions.find? sid.val = some x ∧ x.lastAt + 300 * Config.ticksPerSecond ≤ s.town))
    ∧ (∃ (sid : Fin 65536)  (s : State)  (x : Session)  (g : Staging), (s.cdpRuns = true ∧ sid.val ≠ 0) ∧ (s.cdp.sessions.find? sid.val = some x ∧ x.staging = some g ∧ g.at_ + 10 * Config.ticksPerSecond ≤ s.town))
    ∧ (∃ (s : State), (s.cdpRuns = true))
    ∧ (∃ (s : State)  (e : Note)  (l : List Note)  (x : Session), (s.cdpRuns = true) ∧ (s.cdp.notes = e :: l ∧ s.cdp.sessions.find? e.session = some x))
    ∧ (∃ (s : State)  (e : Nat × Packet), (s.cdpRuns = true) ∧ (s.linkPacket = some e ∧ s.isStamp e = false))
    ∧ (∃ (s t : State)  (n : Nat)  (p : Packet)  (o : Outstanding)  (m : List Byte), (s.cdpRuns = true) ∧ (s.takeArrived (fun p => p.type == 0x2D) = some (n, p, t) ∧ t.outstanding.find? p.rtag = some o ∧ o.epoch = p.origEpoch) ∧ (p.message = some m ∧ cLengthOk m = true ∧ m.length ≤ 448))
    ∧ (∃ (p : Fin 64)  (s : State)  (nonce : List Byte), (s.cdpRuns = true) ∧ ((s.part p.val).nonce = some nonce))
    ∧ (∃ (s : State)  (us n : Nat), (s.cdpRuns = true) ∧ (us = s.town / Config.ticksPerUs ∧ s.refilled < us) ∧ (n = us - s.refilled))
    ∧ (∃ (j : Fin 64)  (s : State), (s.live = true) ∧ ((s.job j.val).state = 2 ∧ (s.job j.val).closedAt + 250 * Config.ticksPerMs ≤ s.town)) :=
  ⟨⟨pf0, 64, {}, by
    repeat' apply And.intro
    all_goals first | with_reducible rfl | decide +kernel | exact eq_ok _ _ (by decide +kernel) | exact eq_okOf _ _ (by decide +kernel)⟩,
   ⟨pf0, 64, ({} : State).setFn pf0 { reqBusy := true }, by
    repeat' apply And.intro
    all_goals first | with_reducible rfl | decide +kernel | exact eq_ok _ _ (by decide +kernel) | exact eq_okOf _ _ (by decide +kernel)⟩,
   ⟨pf0, 3, {}, _, by
    repeat' apply And.intro
    all_goals first | with_reducible rfl | decide +kernel | exact eq_ok _ _ (by decide +kernel) | exact eq_okOf _ _ (by decide +kernel)⟩,
   ⟨1, atTown (300 * 1600000000) { cdp := { sessions := [(1, operator)] } }, operator, by
    repeat' apply And.intro
    all_goals first | with_reducible rfl | decide +kernel | exact eq_ok _ _ (by decide +kernel) | exact eq_okOf _ _ (by decide +kernel)⟩,
   ⟨1, atTown 16000000000 { cdp := { sessions := [(1, { operator with staging := some { key := 1, bytes := [], at_ := 0 } })] } }, { operator with staging := some { key := 1, bytes := [], at_ := 0 } }, { key := 1, bytes := [], at_ := 0 }, by
    repeat' apply And.intro
    all_goals first | with_reducible rfl | decide +kernel | exact eq_ok _ _ (by decide +kernel) | exact eq_okOf _ _ (by decide +kernel)⟩,
   ⟨{}, by
    repeat' apply And.intro
    all_goals first | with_reducible rfl | decide +kernel | exact eq_ok _ _ (by decide +kernel) | exact eq_okOf _ _ (by decide +kernel)⟩,
   ⟨{ cdp := { notes := [{ session := 1, kind := 1, body := [] }], sessions := [(1, operator)] } }, { session := 1, kind := 1, body := [] }, [], operator, by
    repeat' apply And.intro
    all_goals first | with_reducible rfl | decide +kernel | exact eq_ok _ _ (by decide +kernel) | exact eq_okOf _ _ (by decide +kernel)⟩,
   ⟨{ arrived := [(0, packetOf { type := 0x2C, dst := 0, src := 0 } (BitVec.ofNat 256 (0xFFFF * 2 ^ 32)))] }, (0, packetOf { type := 0x2C, dst := 0, src := 0 } (BitVec.ofNat 256 (0xFFFF * 2 ^ 32))), by
    repeat' apply And.intro
    all_goals first | with_reducible rfl | decide +kernel | exact eq_ok _ _ (by decide +kernel) | exact eq_okOf _ _ (by decide +kernel)⟩,
   ⟨{ arrived := [(0, ({ type := 0x2D, dst := 0, src := 0, rtag := 7 } : Heading).packet [encodeWord 0, encodeWord 0])], outstanding := [(7, { port := 0, epoch := 0, at_ := 0, session := 1, tid := 1 })] }, { outstanding := [(7, { port := 0, epoch := 0, at_ := 0, session := 1, tid := 1 })] }, 0, ({ type := 0x2D, dst := 0, src := 0, rtag := 7 } : Heading).packet [encodeWord 0, encodeWord 0], { port := 0, epoch := 0, at_ := 0, session := 1, tid := 1 }, zeros 64, by
    repeat' apply And.intro
    all_goals first | with_reducible rfl | decide +kernel | exact eq_ok _ _ (by decide +kernel) | exact eq_okOf _ _ (by decide +kernel)⟩,
   ⟨0, { parts := [(0, { nonce := some [] })] }, [], by
    repeat' apply And.intro
    all_goals first | with_reducible rfl | decide +kernel | exact eq_ok _ _ (by decide +kernel) | exact eq_okOf _ _ (by decide +kernel)⟩,
   ⟨atTown 1600 {}, _, _, by
    repeat' apply And.intro
    all_goals first | with_reducible rfl | decide +kernel | exact eq_ok _ _ (by decide +kernel) | exact eq_okOf _ _ (by decide +kernel)⟩,
   ⟨0, atTown 400000000 { jobs := [(0, { state := 2 })] }, by
    repeat' apply And.intro
    all_goals first | with_reducible rfl | decide +kernel | exact eq_ok _ _ (by decide +kernel) | exact eq_okOf _ _ (by decide +kernel)⟩⟩

/-- The premises of each clause of TownClockRuns hold of something. -/
theorem test_TownClockRuns_premises :
    (∃ (s : State), (s.linked = true ∧ s.time.lastPulse < s.town / Config.ticksPerUs))
    ∧ (∃ (s t : State)  (e : Nat × Packet)  (w : Word)  (num : Int), (s.cdpRuns = true ∧ s.mode ≠ .frozen ∧ s.linkPacket = some e ∧ s.isStamp e = true) ∧ (w = bytesWord (cBody ((e.2.message).getD [])) ∧ t = { s with arrived := s.arrived.erase e }) ∧ (t.stampFits e.1 w = true ∧ t.parentPort = some e.1) ∧ (num = offsetNumerator (field w 192 64) ((t.port e.1).rxStamp.getD (0, 0)).2 ((t.port e.1).txStamp.getD (0, 0)).2 (field w 128 64) (signed 16 (t.objNat (0x3100 + e.1) 0x01))))
    ∧ (∃ (s t : State)  (e : Nat × Packet)  (w : Word), (s.cdpRuns = true ∧ s.mode ≠ .frozen ∧ s.linkPacket = some e ∧ s.isStamp e = true) ∧ (w = bytesWord (cBody ((e.2.message).getD [])) ∧ t = { s with arrived := s.arrived.erase e }) ∧ (t.stampFits e.1 w = true → t.parentPort ≠ some e.1))
    ∧ (∃ (s t : State), (s.cdpRuns = true ∧ s.time.mode = .locked) ∧ ((s.parentPort.all (fun n => (s.port n).link != 4)) = true ∨ s.time.lastRecord + 75520 ≤ s.town) ∧ (t = s.timeTo .holdover s.time.lastOffset))
    ∧ (∃ (s : State), (s.cdpRuns = true ∧ s.time.mode = .holdover ∧ s.time.holdSince + s.objNat 0x3000 0x04 * Config.ticksPerUs ≤ s.town))
    ∧ (∃ (s t u : State)  (d by_ : Int), (s.linked = true ∧ s.time.mode = .acquiring ∧ s.time.stepDue = some d) ∧ (s.parts.all (fun e => e.2.stepState == .idle) = true) ∧ (t = { s with time := { s.time with central := ((s.time.central : Int) - d).toNat, stepDue := none, acqRun := 0 } } ∧ by_ = (t.town : Int) - (s.town : Int)) ∧ (u = { t.moveAll by_ with time := { (t.moveAll by_).time with utc := (t.moveAll by_).time.utc.map (fun (u, t) => (u, t + by_)) } }))
    ∧ (∃ (d setting : Fin 16)  (s : State), (s.live = true ∧ (s.district d.val).setting < setting.val))
    ∧ (∃ (d : Fin 16)  (s : State), (s.live = true ∧ (s.district d.val).setting ≠ 0 ∧ (s.district d.val).recover + 32 ≤ (s.district d.val).cycles)) :=
  ⟨⟨atTown 1600 {}, by
    repeat' apply And.intro
    all_goals first | with_reducible rfl | decide +kernel | exact eq_ok _ _ (by decide +kernel) | exact eq_okOf _ _ (by decide +kernel)⟩,
   ⟨stamped 0, _, stampPacket, _, _, by
    exact ⟨⟨by decide +kernel, by decide +kernel, by decide +kernel, stamped_isStamp 0⟩, ⟨rfl, rfl⟩, by decide +kernel, rfl⟩⟩,
   ⟨stamped 1, _, stampPacket, _, by
    exact ⟨⟨by decide +kernel, by decide +kernel, by decide +kernel, stamped_isStamp 1⟩, ⟨rfl, rfl⟩, by decide +kernel⟩⟩,
   ⟨{ time := { mode := .locked } }, _, by
    repeat' apply And.intro
    all_goals first | with_reducible rfl | decide +kernel | exact eq_ok _ _ (by decide +kernel) | exact eq_okOf _ _ (by decide +kernel)⟩,
   ⟨atTown (2 ^ 62) { time := { mode := .holdover } }, by
    repeat' apply And.intro
    all_goals first | with_reducible rfl | decide +kernel | exact eq_ok _ _ (by decide +kernel) | exact eq_okOf _ _ (by decide +kernel)⟩,
   ⟨{ time := { mode := .acquiring, stepDue := some 5 } }, _, _, 5, _, by
    repeat' apply And.intro
    all_goals first | with_reducible rfl | decide +kernel | exact eq_ok _ _ (by decide +kernel) | exact eq_okOf _ _ (by decide +kernel)⟩,
   ⟨0, 1, {}, by
    repeat' apply And.intro
    all_goals first | with_reducible rfl | decide +kernel | exact eq_ok _ _ (by decide +kernel) | exact eq_okOf _ _ (by decide +kernel)⟩,
   ⟨0, ({} : State).setDistrict 0 { setting := 1, recover := 0, cycles := 32 }, by
    repeat' apply And.intro
    all_goals first | with_reducible rfl | decide +kernel | exact eq_ok _ _ (by decide +kernel) | exact eq_okOf _ _ (by decide +kernel)⟩⟩

/-- The premises of each clause of HostPortsRun hold of something. -/
theorem test_HostPortsRun_premises :
    (∃ (h : Fin 2)  (s t : State), (s.cdpRuns = true) ∧ (t = (fnsOf h).foldl State.resetFn s))
    ∧ (∃ (f : FnId)  (s : State), (s.cdpRuns = true))
    ∧ (∃ (f : FnId)  (a : Access)  (s : State), (s.cdpRuns = true) ∧ (inArea a.offset.toNat = false ∧ ¬ (0x3000 ≤ a.offset.toNat ∧ a.offset.toNat < 0x4000)) ∧ ((a.width ≠ 8 ∨ a.offset.toNat % 8 ≠ 0) ∨ (a.value = none ∧ s.readReg f a.offset.toNat = none) ∨ (∃ v, a.value = some v ∧ s.writeReg f a.offset.toNat v.toNat = none)))
    ∧ (∃ (f : FnId)  (a : Access)  (s : State)  (v : Nat), (s.cdpRuns = true ∧ a.width = 8 ∧ a.offset.toNat % 8 = 0 ∧ a.value = none) ∧ (inArea a.offset.toNat = false ∧ ¬ (0x3000 ≤ a.offset.toNat ∧ a.offset.toNat < 0x4000)) ∧ (s.readReg f a.offset.toNat = some v))
    ∧ (∃ (h : Fin 2)  (offset : BitVec 36)  (n base : Nat)  (x : Nat)  (l : List Nat)  (s : State), (s.cdpRuns = true ∧ s.mode ≠ .frozen ∧ s.mode ≠ .recovery ∧ n ≠ 0) ∧ (base = (s.window h.val).base.toNat + offset.toNat ∧ x :: l = addrs (base / 32) (ceilDiv (base + n) 32 - base / 32)) ∧ ((x :: l).all s.windowWord = true ∧ s.windowDown (x :: l) = none))
    ∧ (∃ (h : Fin 2)  (offset : BitVec 36)  (bytes : List Byte)  (base : Nat)  (x : Nat)  (l : List Nat)  (s : State), (s.cdpRuns = true ∧ s.mode ≠ .frozen ∧ s.mode ≠ .recovery ∧ bytes ≠ []) ∧ (base = (s.window h.val).base.toNat + offset.toNat ∧ x :: l = addrs (base / 32) (ceilDiv (base + bytes.length) 32 - base / 32)) ∧ (base % 32 = 0 ∧ bytes.length % 32 = 0) ∧ ((x :: l).all s.windowWord = true ∧ s.windowDown (x :: l) = none))
    ∧ (∃ (h : Fin 2)  (offset : BitVec 36)  (bytes : List Byte)  (base : Nat)  (s : State), (s.cdpRuns = true ∧ bytes ≠ []) ∧ (base = (s.window h.val).base.toNat + offset.toNat ∧ (base % 32 ≠ 0 ∨ bytes.length % 32 ≠ 0)))
    ∧ (∃ (h : Fin 2)  (hit : PcieVictim)  (s : State), (s.cdpRuns = true))
    ∧ (∃ (h : Fin 2)  (err : PcieError)  (hit : PcieVictim)  (s : State), (s.cdpRuns = true) ∧ (err = .timeout ∨ err = .urOrCa))
    ∧ (∃ (h : Fin 2)  (hit : PcieVictim)  (s : State), (s.cdpRuns = true))
    ∧ (∃ (n : Fin 4)  (s : State), (s.cdpRuns = true ∧ s.objNat (0x8020 + n.val) 0x01 = 1))
    ∧ (∃ (h : Fin 2)  (rate width : Nat)  (s : State), (pcieLinkOk rate width = true ∧ s.mode ≠ .off)) :=
  ⟨⟨0, {}, _, by
    repeat' apply And.intro
    all_goals first | with_reducible rfl | decide +kernel | exact eq_ok _ _ (by decide +kernel) | exact eq_okOf _ _ (by decide +kernel)⟩,
   ⟨pf0, {}, by
    repeat' apply And.intro
    all_goals first | with_reducible rfl | decide +kernel | exact eq_ok _ _ (by decide +kernel) | exact eq_okOf _ _ (by decide +kernel)⟩,
   ⟨pf0, ⟨0x5000, 8, none⟩, {}, by
    repeat' apply And.intro
    all_goals first | with_reducible rfl | decide +kernel | exact eq_ok _ _ (by decide +kernel) | exact eq_okOf _ _ (by decide +kernel)⟩,
   ⟨pf0, ⟨0x4000, 8, none⟩, {}, 0, by
    repeat' apply And.intro
    all_goals first | with_reducible rfl | decide +kernel | exact eq_ok _ _ (by decide +kernel) | exact eq_okOf _ _ (by decide +kernel)⟩,
   ⟨0, 0, 32, _, 0, [], {}, by
    repeat' apply And.intro
    all_goals first | with_reducible rfl | decide +kernel | exact eq_ok _ _ (by decide +kernel) | exact eq_okOf _ _ (by decide +kernel)⟩,
   ⟨0, 0, zeros 32, _, 0, [], {}, by
    repeat' apply And.intro
    all_goals first | with_reducible rfl | decide +kernel | exact eq_ok _ _ (by decide +kernel) | exact eq_okOf _ _ (by decide +kernel)⟩,
   ⟨0, 0, [1], _, {}, by
    repeat' apply And.intro
    all_goals first | with_reducible rfl | decide +kernel | exact eq_ok _ _ (by decide +kernel) | exact eq_okOf _ _ (by decide +kernel)⟩,
   ⟨0, .none, {}, by
    repeat' apply And.intro
    all_goals first | with_reducible rfl | decide +kernel | exact eq_ok _ _ (by decide +kernel) | exact eq_okOf _ _ (by decide +kernel)⟩,
   ⟨0, .timeout, .none, {}, by
    repeat' apply And.intro
    all_goals first | with_reducible rfl | decide +kernel | exact eq_ok _ _ (by decide +kernel) | exact eq_okOf _ _ (by decide +kernel)⟩,
   ⟨0, .none, {}, by
    repeat' apply And.intro
    all_goals first | with_reducible rfl | decide +kernel | exact eq_ok _ _ (by decide +kernel) | exact eq_okOf _ _ (by decide +kernel)⟩,
   ⟨0, ({} : State).storeRaw 0x8020 1 [1], by
    repeat' apply And.intro
    all_goals first | with_reducible rfl | decide +kernel | exact eq_ok _ _ (by decide +kernel) | exact eq_okOf _ _ (by decide +kernel)⟩,
   ⟨0, 64, 16, {}, by
    repeat' apply And.intro
    all_goals first | with_reducible rfl | decide +kernel | exact eq_ok _ _ (by decide +kernel) | exact eq_okOf _ _ (by decide +kernel)⟩⟩

/-- The premises of each clause of StorageRuns hold of something. -/
theorem test_StorageRuns_premises :
    (∃ (e : Fin 2)  (q : Nat)  (psn : BitVec 24)  (marked : Bool)  (l : List Byte)  (s : State), (s.mode = .running ∧ s.qpTakes e.val q = true ∧ s.qpState q = 1))
    ∧ (∃ (e : Fin 2)  (s : State), (s.mode = .running))
    ∧ (∃ (q : Fin 1024)  (s : State), (s.live = true ∧ s.qpState q.val = 1 ∧ (s.qp q.val).busy = true ∧ (s.qp q.val).lastAt + qcTimeout (s.qpConfig q.val) ≤ s.town))
    ∧ (∃ (i : Fin 256)  (s t u v : State)  (e : FetchEntry)  (c : Nat), (s.live = true ∧ s.fetch[i.val]? = some e ∧ s.fetchEnd e = some c) ∧ (t = s.setFetch i.val { e with state := if c = 0 then 2 else 3, cause := c, data := [] }) ∧ (u = (if c = 0 then t else (t.clearRange (feDest e / 32) (feLength e / 32)).count (0x9C20 + qcPort (s.qpConfig (feQp e))) 0x05 1)) ∧ (v = u.setQp (feQp e) { u.qp (feQp e) with reads := (u.qp (feQp e)).reads.map (fun r => if r.entry = i.val then { r with entry := 256 } else r) }))
    ∧ (∃ (e : Fin 2)  (s : State), (s.mode ≠ .off ∧ s.objNat (0x8040 + e.val) 0x01 ≠ 1))
    ∧ (∃ (e : Fin 2)  (s : State), (s.mode ≠ .off ∧ s.objNat (0x8040 + e.val) 0x01 ≠ 0)) :=
  ⟨⟨0, 0, 0, false, [], { rts with mode := .running }, by
    repeat' apply And.intro
    all_goals first | with_reducible rfl | decide +kernel | exact eq_ok _ _ (by decide +kernel) | exact eq_okOf _ _ (by decide +kernel)⟩,
   ⟨0, {}, by
    repeat' apply And.intro
    all_goals first | with_reducible rfl | decide +kernel | exact eq_ok _ _ (by decide +kernel) | exact eq_okOf _ _ (by decide +kernel)⟩,
   ⟨0, atTown (2 ^ 60) (rts.setQp 0 { sends := [(0, [])] }), by
    repeat' apply And.intro
    all_goals first | with_reducible rfl | decide +kernel | exact eq_ok _ _ (by decide +kernel) | exact eq_okOf _ _ (by decide +kernel)⟩,
   ⟨0, { fetch := [{ bytes := zeros 96 }] }, _, _, _, { bytes := zeros 96 }, Status.fault.code, by
    repeat' apply And.intro
    all_goals first | with_reducible rfl | decide +kernel | exact eq_ok _ _ (by decide +kernel) | exact eq_okOf _ _ (by decide +kernel)⟩,
   ⟨0, {}, by
    repeat' apply And.intro
    all_goals first | with_reducible rfl | decide +kernel | exact eq_ok _ _ (by decide +kernel) | exact eq_okOf _ _ (by decide +kernel)⟩,
   ⟨0, ({} : State).storeRaw 0x8040 1 [1], by
    repeat' apply And.intro
    all_goals first | with_reducible rfl | decide +kernel | exact eq_ok _ _ (by decide +kernel) | exact eq_okOf _ _ (by decide +kernel)⟩⟩

/-- The premises of each clause of StartsRun hold of something. -/
theorem test_StartsRun_premises :
    (∃ (s t : State), (s.mode = .off ∧ t = s.bare .starting))
    ∧ (∃ (s : State), (s.mode = .running ∨ s.mode = .frozen ∨ s.mode = .parked))
    ∧ (∃ (s : State), (s.mode = .recovery))
    ∧ (∃ (env : StartEnv)  (s : State), (s.mode = .starting ∧ s.start.coldDue = true ∧ env.refsOk = false))
    ∧ (∃ (env : StartEnv)  (s : State), (s.mode = .starting ∧ s.start.coldDue = true ∧ env.refsOk = true ∧ s.start.bootSlot = none ∧ env.straps.toNat / 8 % 2 = 1))
    ∧ (∃ (env : StartEnv)  (s : State), (s.mode = .starting ∧ s.start.coldDue = true ∧ env.refsOk = true ∧ s.start.bootSlot = none ∧ env.straps.toNat / 8 % 2 = 0))
    ∧ (∃ (env : StartEnv)  (k : Nat)  (s : State), (s.mode = .starting ∧ s.start.coldDue = true ∧ env.refsOk = true ∧ s.start.bootSlot = some k))
    ∧ (∃ (env : StartEnv)  (kind : Nat)  (s r t u v : State), (s.mode = .starting ∧ s.start.warm = some kind ∧ env.refsOk = true) ∧ (r = s.setObj 0x2000 0x05 (natBytes 4 env.straps.toNat)) ∧ (t = (match r.start.bootSlot with
      | some k => r.bootWarm k
      | none => r)) ∧ (u = (if kind = 1 then ({ (fnsOf 0 ++ fnsOf 1).foldl State.resetFn t with pcie := [] } : State) else t)) ∧ (v = { u with
      requests := u.start.checkpoint, start := { u.start with checkpoint := [] }, cdp := { u.cdp with links := [] }
      cores := (List.range 20).map (fun k => (k, { wdogAt := u.town, imem := u.firmwareOf k })) }))
    ∧ (∃ (s : State), (s.live = true ∧ s.start.activating = true ∧ s.parts.all (fun e => e.2.stepState != .running) = true)) :=
  ⟨⟨{ mode := .off }, _, by
    repeat' apply And.intro
    all_goals first | with_reducible rfl | decide +kernel | exact eq_ok _ _ (by decide +kernel) | exact eq_okOf _ _ (by decide +kernel)⟩,
   ⟨{}, by
    repeat' apply And.intro
    all_goals first | with_reducible rfl | decide +kernel | exact eq_ok _ _ (by decide +kernel) | exact eq_okOf _ _ (by decide +kernel)⟩,
   ⟨{ mode := .recovery }, by
    repeat' apply And.intro
    all_goals first | with_reducible rfl | decide +kernel | exact eq_ok _ _ (by decide +kernel) | exact eq_okOf _ _ (by decide +kernel)⟩,
   ⟨pins 0 false, starting, by
    repeat' apply And.intro
    all_goals first | with_reducible rfl | decide +kernel | exact eq_ok _ _ (by decide +kernel) | exact eq_okOf _ _ (by decide +kernel)⟩,
   ⟨pins 8 true, starting, by
    repeat' apply And.intro
    all_goals first | with_reducible rfl | decide +kernel | exact eq_ok _ _ (by decide +kernel) | exact eq_okOf _ _ (by decide +kernel)⟩,
   ⟨pins 0 true, starting, by
    repeat' apply And.intro
    all_goals first | with_reducible rfl | decide +kernel | exact eq_ok _ _ (by decide +kernel) | exact eq_okOf _ _ (by decide +kernel)⟩,
   ⟨pins 8 true, 0, { mode := .starting, start := { coldDue := true, bootSlot := some 0 } }, by
    repeat' apply And.intro
    all_goals first | with_reducible rfl | decide +kernel | exact eq_ok _ _ (by decide +kernel) | exact eq_okOf _ _ (by decide +kernel)⟩,
   ⟨pins 8 true, 1, { mode := .starting, start := { warm := some 1 } }, _, _, _, _, by
    repeat' apply And.intro
    all_goals first | with_reducible rfl | decide +kernel | exact eq_ok _ _ (by decide +kernel) | exact eq_okOf _ _ (by decide +kernel)⟩,
   ⟨{ start := { activating := true } }, by
    repeat' apply And.intro
    all_goals first | with_reducible rfl | decide +kernel | exact eq_ok _ _ (by decide +kernel) | exact eq_okOf _ _ (by decide +kernel)⟩⟩

/-- The premises of each clause of CardsRun hold of something. -/
theorem test_CardsRun_premises :
    (∃ (s t : State)  (c : CardImage), (s.cdpRuns = true ∧ s.start.storeDue = true ∧ s.card = some c) ∧ (t = s.writeCard { c with store := s.runningStore (c.store.generation + 1) } "store"))
    ∧ (∃ (card : CardImage)  (s t : State), (s.cdpRuns = true ∧ s.card = none) ∧ (t = (if s.start.storeDue then s else { s with start := { s.start with values := card.store.values } }).writeCard
      { card with store := { card.store with generation := card.store.generation + 1, retired := s.start.retired, repaired := s.start.repaired } } "store"))
    ∧ (∃ (s : State)  (c : CardImage), (s.card = some c)) :=
  ⟨⟨{ card := some card0, start := { storeDue := true } }, _, card0, by
    repeat' apply And.intro
    all_goals first | with_reducible rfl | decide +kernel | exact eq_ok _ _ (by decide +kernel) | exact eq_okOf _ _ (by decide +kernel)⟩,
   ⟨card0, {}, _, by
    repeat' apply And.intro
    all_goals first | with_reducible rfl | decide +kernel | exact eq_ok _ _ (by decide +kernel) | exact eq_okOf _ _ (by decide +kernel)⟩,
   ⟨{ card := some card0 }, card0, by
    repeat' apply And.intro
    all_goals first | with_reducible rfl | decide +kernel | exact eq_ok _ _ (by decide +kernel) | exact eq_okOf _ _ (by decide +kernel)⟩⟩

/-- The premises of each clause of PowersRun hold of something. -/
theorem test_PowersRun_premises :
    (∃ (s : State), (s.mode ≠ .off ∨ s.power.tripped = true))
    ∧ (∃ (millivolts sensed v : Nat)  (held : Bool)  (s : State), (s.cdpRuns = true) ∧ (held = (s.power.railFault && decide (kept16 sensed + 30 < s.power.target)) ∧ (held = true ∨ (avsOk millivolts = true ∧ absDiff millivolts s.power.target ≤ 20))) ∧ (v = (if held then 800 else millivolts)))
    ∧ (∃ (millivolts m : Nat)  (s t : State), (s.cdpRuns = true ∧ m = kept16 millivolts) ∧ (s.power.railFault = false ∧ m + 30 < s.power.target) ∧ (t = ({ s with power := { s.power with railFault := true, target := 800, rails := s.power.rails.put 0 m } } : State).emit (.avs 0 800)))
    ∧ (∃ (r : Fin 7)  (millivolts m : Nat)  (s t : State), (s.cdpRuns = true ∧ r.val ≠ 0 ∧ m = kept16 millivolts) ∧ (m < (railTolerance r.val).1 ∨ (railTolerance r.val).2 < m) ∧ (t = { s with power := { s.power with rails := s.power.rails.put r.val m } }))
    ∧ (∃ (watts w f : Nat)  (s t : State), (s.cdpRuns = true ∧ w = kept16 watts) ∧ (f = (if s.objNat 0x3200 0x04 < w then min 15 (s.power.limitFloor + 1) else if w * 100 ≤ s.objNat 0x3200 0x04 * 95 then s.power.limitFloor - 1 else s.power.limitFloor)) ∧ (t = (s.setFloor { s.power with watts := w, limitFloor := f }).bumpWhere [(w != s.power.watts, 0x3200, 0x05)]))
    ∧ (∃ (x : Sensor)  (tenths c : Int)  (s : State), (s.cdpRuns = true ∧ c = keptS16 tenths ∧ warnAt (sensorNo x) ≤ c))
    ∧ (∃ (x : Sensor)  (tenths c : Int)  (s t : State), (s.cdpRuns = true ∧ c = keptS16 tenths ∧ throttleAt (sensorNo x) ≤ c) ∧ (t = s.sensed (sensorNo x) c))
    ∧ (∃ (s t : State), (s.cdpRuns = true ∧ s.power.throttle = true) ∧ (t = s.setFloor { s.power with throttle := false, temps := s.power.temps.mapVals (fun k t => min t (throttleAt k - 50)) }))
    ∧ (∃ (x : Sensor)  (tenths c : Int)  (s t : State), (s.mode ≠ .off ∧ c = keptS16 tenths ∧ tripAt (sensorNo x) ≤ c) ∧ (t = (s.sensed (sensorNo x) c).logPower 4 (sensorNo x) (unsigned 64 c))) :=
  ⟨⟨{}, by
    repeat' apply And.intro
    all_goals first | with_reducible rfl | decide +kernel | exact eq_ok _ _ (by decide +kernel) | exact eq_okOf _ _ (by decide +kernel)⟩,
   ⟨750, 750, _, _, {}, by
    repeat' apply And.intro
    all_goals first | with_reducible rfl | decide +kernel | exact eq_ok _ _ (by decide +kernel) | exact eq_okOf _ _ (by decide +kernel)⟩,
   ⟨600, 600, {}, _, by
    repeat' apply And.intro
    all_goals first | with_reducible rfl | decide +kernel | exact eq_ok _ _ (by decide +kernel) | exact eq_okOf _ _ (by decide +kernel)⟩,
   ⟨1, 734, 734, {}, _, by
    repeat' apply And.intro
    all_goals first | with_reducible rfl | decide +kernel | exact eq_ok _ _ (by decide +kernel) | exact eq_okOf _ _ (by decide +kernel)⟩,
   ⟨70000, _, _, {}, _, by
    repeat' apply And.intro
    all_goals first | with_reducible rfl | decide +kernel | exact eq_ok _ _ (by decide +kernel) | exact eq_okOf _ _ (by decide +kernel)⟩,
   ⟨.stack 0, 900, 900, {}, by
    repeat' apply And.intro
    all_goals first | with_reducible rfl | decide +kernel | exact eq_ok _ _ (by decide +kernel) | exact eq_okOf _ _ (by decide +kernel)⟩,
   ⟨.district 0, 1050, 1050, {}, _, by
    repeat' apply And.intro
    all_goals first | with_reducible rfl | decide +kernel | exact eq_ok _ _ (by decide +kernel) | exact eq_okOf _ _ (by decide +kernel)⟩,
   ⟨{ power := { throttle := true } }, _, by
    repeat' apply And.intro
    all_goals first | with_reducible rfl | decide +kernel | exact eq_ok _ _ (by decide +kernel) | exact eq_okOf _ _ (by decide +kernel)⟩,
   ⟨.stack 7, 1050, 1050, {}, _, by
    repeat' apply And.intro
    all_goals first | with_reducible rfl | decide +kernel | exact eq_ok _ _ (by decide +kernel) | exact eq_okOf _ _ (by decide +kernel)⟩⟩

/-- The premises of each clause of FreezesRun hold of something. -/
theorem test_FreezesRun_premises :
    (∃ (s t : State), (s.freeze.pin = false ∧ t = { s with freeze := { s.freeze with pin := true } }))
    ∧ (∃ (s : State)  (t : Nat), (s.freeze.timed = some t ∧ s.freeze.state = 0) ∧ (s.linked = true ∧ s.startRuns = false ∧ s.reached t = true))
    ∧ (∃ (s : State), (s.freeze.pin = true))
    ∧ (∃ (s t u : State)  (d again : Nat), (s.freeze.state = 3 ∧ s.freeze.at_ + Config.ticksPerUs ≤ s.town / Config.ticksPerUs * Config.ticksPerUs) ∧ (t = (match s.freeze.timed with
      | some t => if t ≤ s.town then s.passTimed t else s
      | none => s)) ∧ (d = t.town - t.freeze.time ∧ u = ((t.alignCopies.moveTimers (d : Int)).idleSlots ((t.alignCopies.moveTimers (d : Int)).now + d * 7 / 8)).later (d * 7 / 8)) ∧ (again = (if u.freeze.pin then 1 else u.freeze.again)))
    ∧ (∃ (s : State)  (t : Nat), (s.snapshot.due = some t ∧ s.linked = true ∧ s.reached t = true))
    ∧ (∃ (b : Fin 256)  (s : State), (s.sweepable b.val = true))
    ∧ (∃ (b : Fin 256)  (t : Nat)  (s u : State), (s.live = true ∧ (s.block b.val).slice = some t ∧ t + 2048 ≤ s.wallOf b.val) ∧ (u = (s.setBlock b.val { s.block b.val with slice := none, retried := false }).count 0x9E00 0x01 1))
    ∧ (∃ (b : Fin 256)  (t p : Nat)  (s u : State), (s.live = true ∧ (s.block b.val).slice = some t ∧ t + 2048 ≤ s.wallOf b.val) ∧ (u = ((s.setBlock b.val { s.block b.val with slice := none, retried := false }).countLog { cls := 13, counter := 0x9E00, sub := 0x04, inst := 0, detail := b.val }).retireBlock b.val) ∧ (u.partOf b.val = some p)) :=
  ⟨⟨{}, _, by
    repeat' apply And.intro
    all_goals first | with_reducible rfl | decide +kernel | exact eq_ok _ _ (by decide +kernel) | exact eq_okOf _ _ (by decide +kernel)⟩,
   ⟨{ freeze := { timed := some 0 } }, 0, by
    repeat' apply And.intro
    all_goals first | with_reducible rfl | decide +kernel | exact eq_ok _ _ (by decide +kernel) | exact eq_okOf _ _ (by decide +kernel)⟩,
   ⟨{ freeze := { pin := true } }, by
    repeat' apply And.intro
    all_goals first | with_reducible rfl | decide +kernel | exact eq_ok _ _ (by decide +kernel) | exact eq_okOf _ _ (by decide +kernel)⟩,
   ⟨atTown 1600 { freeze := { state := 3 } }, _, _, _, _, by
    repeat' apply And.intro
    all_goals first | with_reducible rfl | decide +kernel | exact eq_ok _ _ (by decide +kernel) | exact eq_okOf _ _ (by decide +kernel)⟩,
   ⟨{ snapshot := { due := some 0 } }, 0, by
    repeat' apply And.intro
    all_goals first | with_reducible rfl | decide +kernel | exact eq_ok _ _ (by decide +kernel) | exact eq_okOf _ _ (by decide +kernel)⟩,
   ⟨0, ({} : State).storeRaw 0xB000 1 [1], by
    repeat' apply And.intro
    all_goals first | with_reducible rfl | decide +kernel | exact eq_ok _ _ (by decide +kernel) | exact eq_okOf _ _ (by decide +kernel)⟩,
   ⟨0, 0, (({} : State).setBlock 0 { slice := some 0 }).setDistrict 0 { cycles := 2048 }, _, by
    repeat' apply And.intro
    all_goals first | with_reducible rfl | decide +kernel | exact eq_ok _ _ (by decide +kernel) | exact eq_okOf _ _ (by decide +kernel)⟩,
   ⟨0, 0, 0, (({ parts := [(0, { blockMap := 1, partState := 1 })] } : State).setBlock 0 { slice := some 0 }).setDistrict 0 { cycles := 2048 }, _, by
    repeat' apply And.intro
    all_goals first | with_reducible rfl | decide +kernel | exact eq_ok _ _ (by decide +kernel) | exact eq_okOf _ _ (by decide +kernel)⟩⟩

/-- The premises of each clause of JtagRuns hold of something. -/
theorem test_JtagRuns_premises :
    (∃ (s : State), (s.powered = true))
    ∧ (∃ (s : State), (s.powered = true))
    ∧ (∃ (s : State), (s.powered = true))
    ∧ (∃ (s : State), (s.powered = true))
    ∧ (∃ (s : State), (s.powered = true))
    ∧ (∃ (value : BitVec 16)  (s t : State), (s.powered = true ∧ s.debugs = true) ∧ (t = s.jtagShift 0x20 (scanBits 16 (4096 * s.jtag.district + s.jtag.chain))))
    ∧ (∃ (bits : List Bool)  (n : Nat)  (s t : State), (s.powered = true ∧ s.debugs = true) ∧ (n = max 1 (Config.chainLength s.jtag.district s.jtag.chain)) ∧ (t = s.jtagShift 0x21 ((List.range bits.length).map (fun i => Config.chainBit s.freeze.time s.jtag.district s.jtag.chain ((s.jtag.rotated + i) % n)))))
    ∧ (∃ (command : BitVec 64)  (s : State), (s.powered = true ∧ s.debugs = true ∧ frzCommandOk (BitVec.ofNat 64 (field command 0 63)) = true))
    ∧ (∃ (command : BitVec 64)  (word : Word)  (check : Check)  (s : State), (s.powered = true ∧ s.debugs = true ∧ frzCommandOk command = true ∧ s.mem.wf = true))
    ∧ (∃ (s : State), (s.powered = true ∧ s.freeze.state = 2 ∧ s.freeze.pin = false)) :=
  ⟨⟨{}, by
    repeat' apply And.intro
    all_goals first | with_reducible rfl | decide +kernel | exact eq_ok _ _ (by decide +kernel) | exact eq_okOf _ _ (by decide +kernel)⟩,
   ⟨{}, by
    repeat' apply And.intro
    all_goals first | with_reducible rfl | decide +kernel | exact eq_ok _ _ (by decide +kernel) | exact eq_okOf _ _ (by decide +kernel)⟩,
   ⟨{}, by
    repeat' apply And.intro
    all_goals first | with_reducible rfl | decide +kernel | exact eq_ok _ _ (by decide +kernel) | exact eq_okOf _ _ (by decide +kernel)⟩,
   ⟨{}, by
    repeat' apply And.intro
    all_goals first | with_reducible rfl | decide +kernel | exact eq_ok _ _ (by decide +kernel) | exact eq_okOf _ _ (by decide +kernel)⟩,
   ⟨{}, by
    repeat' apply And.intro
    all_goals first | with_reducible rfl | decide +kernel | exact eq_ok _ _ (by decide +kernel) | exact eq_okOf _ _ (by decide +kernel)⟩,
   ⟨0x3005, frozen0, _, by
    repeat' apply And.intro
    all_goals first | with_reducible rfl | decide +kernel | exact eq_ok _ _ (by decide +kernel) | exact eq_okOf _ _ (by decide +kernel)⟩,
   ⟨[true], _, frozen0, _, by
    repeat' apply And.intro
    all_goals first | with_reducible rfl | decide +kernel | exact eq_ok _ _ (by decide +kernel) | exact eq_okOf _ _ (by decide +kernel)⟩,
   ⟨0, frozen0, by
    repeat' apply And.intro
    all_goals first | with_reducible rfl | decide +kernel | exact eq_ok _ _ (by decide +kernel) | exact eq_okOf _ _ (by decide +kernel)⟩,
   ⟨2 ^ 63, 0, 0, frozen0, by
    repeat' apply And.intro
    all_goals first | with_reducible rfl | decide +kernel | exact eq_ok _ _ (by decide +kernel) | exact eq_okOf _ _ (by decide +kernel)⟩,
   ⟨{ mode := .frozen, freeze := { state := 2 } }, by
    repeat' apply And.intro
    all_goals first | with_reducible rfl | decide +kernel | exact eq_ok _ _ (by decide +kernel) | exact eq_okOf _ _ (by decide +kernel)⟩⟩

/-- The premises of each clause of ScrubRuns hold of something. -/
theorem test_ScrubRuns_premises :
    (∃ (b : Fin 256)  (a : Nat)  (l : List Nat)  (w : Word)  (s : State), (s.live = true ∧ (s.block b.val).reread = none ∧ (s.block b.val).repair = a :: l) ∧ (tierOf a = 0 ∧ s.serviceFree b.val a = true ∧ decodeStored (s.readWord a) = .mended w))
    ∧ (∃ (b : Fin 256)  (a n : Nat)  (w : Word)  (s : State), (s.live = true ∧ (s.block b.val).reread = some (a, n) ∧ s.wallOf b.val = n + 1 ∧ s.serviceFree b.val a = true ∧ s.mem.wf = true) ∧ (tierOf a = 0 ∧ decodeStored (s.readWord a) = .mended w))
    ∧ (∃ (b : Fin 256)  (a : Nat)  (l : List Nat)  (s : State), (s.live = true ∧ (s.block b.val).reread = none ∧ (s.block b.val).repair = a :: l) ∧ (tierOf a = 1 ∧ s.serviceOpen a = true))
    ∧ (∃ (a : BitVec 51)  (s t : State)  (k : Option Nat), (s.live = true ∧ s.scrubs a.toNat = some k ∧ accWord a.toNat = none) ∧ (t = (match k with
      | some k => s.serviceMove (some k) a.toNat 1
      | none => s.useBank (a.toNat / 2 ^ 19 % 256) a.toNat).count 0x9400 0x06 1))
    ∧ (∃ (a : BitVec 51)  (s t : State)  (n : Nat), (s.live = true ∧ s.scrubs a.toNat = some none ∧ accWord a.toNat = some n) ∧ (t = s.count 0x9400 0x06 1))
    ∧ (∃ (b : Fin 256)  (s : State), (s.live = true ∧ (s.block b.val).clearing = true ∧ (s.block b.val).clearUntil ≤ s.wallOf b.val ∧ (s.block b.val).clearedBy = none))
    ∧ (∃ (c : Fin 256)  (s t : State), (s.live = true ∧ (s.channel c.val).clearing = true ∧ (s.channel c.val).clearTo ≤ s.town) ∧ (t = (s.clearRange (tier1 c.val 0) firmwareWord).setChannel c.val { s.channel c.val with clearing := false, clearTo := 0 }))
    ∧ (∃ (i : Fin 4096)  (s : State)  (e : Alloc), (s.live = true ∧ s.allocs.find? i.val = some e ∧ e.state = 2 ∧ e.clearTo ≤ s.town ∧ s.serviceOpen (e.base / 32) = true)) :=
  ⟨⟨0, 0, [], 0, { (({} : State).setBlock 0 { repair := [0] }) with mem := mended0 }, by
    repeat' apply And.intro
    all_goals first | with_reducible rfl | decide +kernel | exact eq_ok _ _ (by decide +kernel) | exact eq_okOf _ _ (by decide +kernel)⟩,
   ⟨0, 0, 0, 0, { ((({} : State).setBlock 0 { repair := [0], reread := some (0, 0) }).setDistrict 0 { cycles := 1 }) with mem := mended0 }, by
    repeat' apply And.intro
    all_goals first | with_reducible rfl | decide +kernel | exact eq_ok _ _ (by decide +kernel) | exact eq_okOf _ _ (by decide +kernel)⟩,
   ⟨0, 2 ^ 49, [], ({} : State).setBlock 0 { repair := [2 ^ 49] }, by
    repeat' apply And.intro
    all_goals first | with_reducible rfl | decide +kernel | exact eq_ok _ _ (by decide +kernel) | exact eq_okOf _ _ (by decide +kernel)⟩,
   ⟨2 ^ 49, { allocs := [(0, { state := 1, partition := 0, tenant := 0, size := 2 ^ 20, base := 2 ^ 54 })] }, _, some 0, by
    repeat' apply And.intro
    all_goals first | with_reducible rfl | decide +kernel | exact eq_ok _ _ (by decide +kernel) | exact eq_okOf _ _ (by decide +kernel)⟩,
   ⟨393216, ({} : State).setBlock 0 { slice := some 0, bank0 := { started := true } }, _, accDpa 0 0 0, by
    repeat' apply And.intro
    all_goals first | with_reducible rfl | decide +kernel | exact eq_ok _ _ (by decide +kernel) | exact eq_okOf _ _ (by decide +kernel)⟩,
   ⟨0, ({} : State).setBlock 0 { clearing := true }, by
    repeat' apply And.intro
    all_goals first | with_reducible rfl | decide +kernel | exact eq_ok _ _ (by decide +kernel) | exact eq_okOf _ _ (by decide +kernel)⟩,
   ⟨0, ({} : State).setChannel 0 { clearing := true }, _, by
    repeat' apply And.intro
    all_goals first | with_reducible rfl | decide +kernel | exact eq_ok _ _ (by decide +kernel) | exact eq_okOf _ _ (by decide +kernel)⟩,
   ⟨0, { allocs := [(0, { state := 2, partition := 0, tenant := 0, size := 2 ^ 20, base := 2 ^ 54 })] }, { state := 2, partition := 0, tenant := 0, size := 2 ^ 20, base := 2 ^ 54 }, by
    repeat' apply And.intro
    all_goals first | with_reducible rfl | decide +kernel | exact eq_ok _ _ (by decide +kernel) | exact eq_okOf _ _ (by decide +kernel)⟩⟩

end
end

section
/-! PROOFS. Every command goes on (O5): what each command answers is a next state. -/
namespace Sys2Proof

/-! ## Outcomes with which the part goes on -/

theorem Safe.next {t : Machine.State} : Safe (.next t) := ⟨t, rfl⟩

theorem Safe.ite {c : Prop} [Decidable c] {a b : Host.Outcome Machine.State Machine.Fault Machine.Refusal} (ha : Safe a) (hb : Safe b) :
    Safe (if c then a else b) := by
  split
  · exact ha
  · exact hb

end Sys2Proof

/-! Each lemma is about a command whose meaning looks into what it finds (a head, an entry, a packet, a mode): it splits along the branches of that meaning,
and each branch ends in a next state. -/
namespace Sys2Proof.Machine

/-! ## The engines of a block, the mover, the streets and the channels of tier 1 -/

section Matrix
variable (s : State) (b : Fin 256)

theorem execFold_safe : Safe (execFold b s) := by fun_cases execFold b s <;> exact .next
theorem execMatrixCompletion_safe : Safe (execMatrixCompletion b s) := by fun_cases execMatrixCompletion b s <;> exact .next

end Matrix

section Vector
variable (s : State) (b : Fin 256)

theorem execVectorCompletion_safe : Safe (execVectorCompletion b s) := by fun_cases execVectorCompletion b s <;> exact .next
theorem execSummaryHoldRelease_safe : Safe (execSummaryHoldRelease b s) := by fun_cases execSummaryHoldRelease b s <;> exact .next
theorem execSummaryDelivery_safe : Safe (execSummaryDelivery b s) := by fun_cases execSummaryDelivery b s <;> exact .next

end Vector

section Mover
variable (s : State) (b c : Fin 256)

theorem execDecompressBlock_safe : Safe (execDecompressBlock b s) := by fun_cases execDecompressBlock b s <;> exact .next
theorem execHbmUnitSlot_safe : Safe (execHbmUnitSlot c s) := by fun_cases execHbmUnitSlot c s <;> exact .next
theorem execStreetWordDelivery_safe : Safe (execStreetWordDelivery b s) := by fun_cases execStreetWordDelivery b s <;> exact .next
theorem execLandingWrite_safe : Safe (execLandingWrite b s) := by fun_cases execLandingWrite b s <;> exact .next
theorem execMoverCompletion_safe : Safe (execMoverCompletion b s) := by fun_cases execMoverCompletion b s <;> exact .next

end Mover

/-! ## Dispatch, segments, the intake and the loader -/

section Control
variable (s : State) (b : Fin 256) (queue : Fin 4) (p : Fin 64)

theorem execIssueCheck_safe : Safe (execIssueCheck b queue s) := by fun_cases execIssueCheck b queue s <;> exact .next
theorem execFreezeResume_safe : Safe (execFreezeResume p s) := by fun_cases execFreezeResume p s <;> exact .next
theorem execDescriptorPrefetch_safe : Safe (execDescriptorPrefetch b queue s) := by fun_cases execDescriptorPrefetch b queue s <;> exact .next

/-- A run of the detector (R153) goes on: it holds, or it fails one descriptor. -/
theorem State.detect_safe : Safe (s.detect p) := by fun_cases State.detect s p <;> exact .next

theorem execGridlockDetectorRun_safe : Safe (execGridlockDetectorRun p s) := .ite .next (State.detect_safe ..)

theorem execSegmentEnd_safe : Safe (execSegmentEnd p s) := by fun_cases execSegmentEnd p s <;> exact .next
theorem execSegmentEntry_safe : Safe (execSegmentEntry p s) := by fun_cases execSegmentEntry p s <;> exact .next
theorem execChoiceLimitExpiry_safe : Safe (execChoiceLimitExpiry p s) := by fun_cases execChoiceLimitExpiry p s <;> exact .next
theorem execStepEnd_safe : Safe (execStepEnd p s) := by fun_cases execStepEnd p s <;> exact .next

end Control

section Intake
variable (s : State) (src : Src) (entry : Desc) (f : FnId) (value : BitVec 64)

theorem execIntakeFetch_safe : Safe (execIntakeFetch src entry s) := by fun_cases execIntakeFetch src entry s <;> exact .next
theorem execStep_safe : Safe (execStep src s) := by fun_cases execStep src s <;> exact .next
theorem execIntakeTail_safe : Safe (execIntakeTail f value s) := .next
theorem execComplHead_safe : Safe (execComplHead f value s) := .next
theorem execQueuedCompletionWrite_safe : Safe (execQueuedCompletionWrite f s) := by fun_cases execQueuedCompletionWrite f s <;> exact .next

end Intake

section Loader
variable (s : State) (src : Src) (image : List Byte) (entries : List (BitVec 128)) (data : List Word)

theorem execLoadPlan_safe : Safe (execLoadPlan src image s) := by fun_cases execLoadPlan src image s <;> exact .next
theorem execUnloadPlan_safe : Safe (execUnloadPlan src s) := by fun_cases execUnloadPlan src s <;> exact .next
theorem execLoadHandles_safe : Safe (execLoadHandles src entries s) := by fun_cases execLoadHandles src entries s <;> exact .next
theorem execPatch_safe : Safe (execPatch src s) := by fun_cases execPatch src s <;> exact .next
theorem execDmaIn_safe : Safe (execDmaIn src data s) := by fun_cases execDmaIn src data s <;> exact .next
theorem execDmaOut_safe : Safe (execDmaOut src s) := by fun_cases execDmaOut src s <;> exact .next
theorem execDmaCompletion_safe : Safe (execDmaCompletion src s) := by fun_cases execDmaCompletion src s <;> exact .next

end Loader

/-! ## The request table, serving and kerbing -/

section Admit
variable (s : State) (i : Nat) (p : Fin 64)

theorem execParkEntry_safe : Safe (execParkEntry s) := by fun_cases execParkEntry s <;> exact .next

/-- By hand, for what the meaning looks into is itself a conditional. -/
theorem execUnparkEntry_safe : Safe (execUnparkEntry s) := by
  unfold execUnparkEntry
  refine .ite ?_ .next
  split <;> exact .next

theorem execRequestPrepare_safe : Safe (execRequestPrepare i s) := by fun_cases execRequestPrepare i s <;> exact .next
theorem execBatchResolution_safe : Safe (execBatchResolution p s) := by fun_cases execBatchResolution p s <;> exact .next

end Admit

section Serving
variable (s : State) (p : Fin 64)

theorem execServingCompletion_safe : Safe (execServingCompletion p s) := by fun_cases execServingCompletion p s <;> exact .next
theorem execServingDone_safe : Safe (execServingDone p s) := by fun_cases execServingDone p s <;> exact .next

end Serving

section Kerb
variable (s : State) (i : Nat) (p : Fin 64)

theorem execKerbFrameCopy_safe : Safe (execKerbFrameCopy i s) := by fun_cases execKerbFrameCopy i s <;> exact .next
theorem execKerbTicket_safe : Safe (execKerbTicket p s) := by fun_cases execKerbTicket p s <;> exact .next
theorem execRecallFrameCopy_safe : Safe (execRecallFrameCopy i s) := by fun_cases execRecallFrameCopy i s <;> exact .next
theorem execRootSign_safe : Safe (execRootSign p s) := by fun_cases execRootSign p s <;> exact .next

end Kerb

/-! ## The extension instructions of the cores -/

section Routines
variable (s : State) (k : Fin 20) (m : CkMode) (rd rs1 rs2 : Fin 32)

theorem execCkMbcnt_safe : Safe (execCkMbcnt k m rd rs1 s) := by fun_cases execCkMbcnt k m rd rs1 s <;> exact .next
theorem execCkMbpop_safe : Safe (execCkMbpop k m rd rs1 rs2 s) := by fun_cases execCkMbpop k m rd rs1 rs2 s <;> exact .next
theorem execCkChoose_safe : Safe (execCkChoose k m rd rs1 s) := by fun_cases execCkChoose k m rd rs1 s <;> exact .next
theorem execCkTkt_safe : Safe (execCkTkt k m rd rs1 s) := by fun_cases execCkTkt k m rd rs1 s <;> exact .next
theorem execCkPost_safe : Safe (execCkPost k m rd rs1 s) := by fun_cases execCkPost k m rd rs1 s <;> exact .next
theorem execCkWait_safe : Safe (execCkWait k m rd rs1 s) := by fun_cases execCkWait k m rd rs1 s <;> exact .next
theorem execCkDone_safe : Safe (execCkDone k m s) := by fun_cases execCkDone k m s <;> exact .next

end Routines

/-! ## The crossroads, the links, the barriers and the collectives -/

section Fabric
variable (s : State) (i : Fin 7) (service : Bool) (vc : Fin 2)

theorem execPacketRoute_safe : Safe (execPacketRoute i service vc s) := by fun_cases execPacketRoute i service vc s <;> exact .next
theorem execAgedDiscard_safe : Safe (execAgedDiscard i service vc s) := by fun_cases execAgedDiscard i service vc s <;> exact .next

end Fabric

section Link
variable (s : State) (n : Fin 6) (symbols : List (BitVec 9)) (rtag : BitVec 16)

theorem execCodewordReceive_safe : Safe (execCodewordReceive n symbols s) := by fun_cases execCodewordReceive n symbols s <;> exact .next
theorem execPacketReceive_safe : Safe (execPacketReceive n s) := by fun_cases execPacketReceive n s <;> exact .next
theorem execLinkCtrl_safe : Safe (execLinkCtrl n s) := by fun_cases execLinkCtrl n s <;> exact .next
theorem execEgressSlot_safe : Safe (execEgressSlot n s) := by fun_cases execEgressSlot n s <;> exact .next
theorem execTrain_safe : Safe (execTrain n s) := by fun_cases execTrain n s <;> exact .next
theorem execRespTimeout_safe : Safe (execRespTimeout rtag s) := by fun_cases execRespTimeout rtag s <;> exact .next

end Link

section Join
variable (s : State) (p : Fin 64)

theorem execStepBarrierJoin_safe : Safe (execStepBarrierJoin p s) := by fun_cases execStepBarrierJoin p s <;> exact .next
theorem execBarrierRelease_safe : Safe (execBarrierRelease p s) := by fun_cases execBarrierRelease p s <;> exact .next
theorem execBarrierJoin_safe : Safe (execBarrierJoin s) := by fun_cases execBarrierJoin s <;> exact .next
theorem execBarrierReleasePacket_safe : Safe (execBarrierReleasePacket s) := by fun_cases execBarrierReleasePacket s <;> exact .next
theorem execJoinRepeat_safe : Safe (execJoinRepeat p s) := by fun_cases execJoinRepeat p s <;> exact .next
theorem execBarrierTimeout_safe : Safe (execBarrierTimeout p s) := by fun_cases execBarrierTimeout p s <;> exact .next

end Join

section Coll
variable (s : State) (b : Fin 256)

theorem execData_safe : Safe (execData s) := by fun_cases execData s <;> exact .next
theorem execCollUp_safe : Safe (execCollUp s) := by fun_cases execCollUp s <;> exact .next
theorem execCollDown_safe : Safe (execCollDown s) := by fun_cases execCollDown s <;> exact .next
theorem execCollectiveCompletion_safe : Safe (execCollectiveCompletion b s) := by fun_cases execCollectiveCompletion b s <;> exact .next

end Coll

/-! ## Fault agreement, checkpoints and restores -/

section Agree
variable (s : State) (p : Fin 64)

theorem execNoticeReceive_safe : Safe (execNoticeReceive s) := by fun_cases execNoticeReceive s <;> exact .next
theorem execCoordinatorDecide_safe : Safe (execCoordinatorDecide p s) := by fun_cases execCoordinatorDecide p s <;> exact .next
theorem execDecideReceive_safe : Safe (execDecideReceive s) := by fun_cases execDecideReceive s <;> exact .next
theorem execFaultCommit_safe : Safe (execFaultCommit p s) := by fun_cases execFaultCommit p s <;> exact .next
theorem execCkptData_safe : Safe (execCkptData s) := by fun_cases execCkptData s <;> exact .next
theorem execCkptSeal_safe : Safe (execCkptSeal s) := by fun_cases execCkptSeal s <;> exact .next
theorem execRestoreData_safe : Safe (execRestoreData s) := by fun_cases execRestoreData s <;> exact .next
theorem execRestoreDone_safe : Safe (execRestoreDone s) := by fun_cases execRestoreDone s <;> exact .next

end Agree

/-! ## Memory integrity, management, time, the ports, storage, starts, freezes and power -/

section Scrub
variable (s : State) (b : Fin 256) (addr : BitVec 51) (r : Region)

theorem execRepairQueueWriteback_safe : Safe (execRepairQueueWriteback b s) := by fun_cases execRepairQueueWriteback b s <;> exact .next
theorem execScrubWord_safe : Safe (execScrubWord addr s) := by fun_cases execScrubWord addr s <;> exact .next
theorem execClearDone_safe : Safe (execClearDone r s) := by fun_cases execClearDone r s <;> exact .next

end Scrub

section Session
variable (s : State) (sid : Fin 65536) (f : FnId) (value : BitVec 64) (received : Bool)

theorem execSessionIdleTimeout_safe : Safe (execSessionIdleTimeout sid s) := by fun_cases execSessionIdleTimeout sid s <;> exact .next
theorem execStagingTimeout_safe : Safe (execStagingTimeout sid s) := by fun_cases execStagingTimeout sid s <;> exact .next
theorem execMbDoorbell_safe : Safe (execMbDoorbell f value s) := .ite .next (.ite .next .next)
theorem execMbAck_safe : Safe (execMbAck f value s) := .ite .next .next
theorem execNotify_safe : Safe (execNotify received s) := by fun_cases execNotify received s <;> exact .next
theorem execRelayReply_safe : Safe (execRelayReply s) := by fun_cases execRelayReply s <;> exact .next

end Session

section Manage
variable (s : State) (p : Fin 64)

theorem execQuoteFormed_safe : Safe (execQuoteFormed p s) := by fun_cases execQuoteFormed p s <;> exact .next

end Manage

section Time
variable (s : State)

theorem execTimestamp_safe : Safe (execTimestamp s) := by fun_cases execTimestamp s <;> exact .next
theorem execTimeStep_safe : Safe (execTimeStep s) := by fun_cases execTimeStep s <;> exact .next

end Time

section HostPort
variable (s : State) (f : FnId) (a : Access) (h : Fin 2) (offset : BitVec 36) (access : WindowOp) (err : PcieError) (hit : PcieVictim)

/-- A write that a BAR register takes (R402) goes on: the ring and mailbox registers by their own commands, the others by one next state, where the
function is idle if the register asks that. -/
theorem State.writeReg_safe {o v : Nat} : ∀ r ∈ s.writeReg f o v, Safe r := by
  have idle (y : Fn) : ∀ r ∈ (if (s.fn f).enable then none else some (.next (s.setFn f y)) : Option (Host.Outcome State Fault Refusal)), Safe r := by
    split <;> simp [Safe.next]
  fun_cases State.writeReg s f o v
  case case1 | case2 | case4 | case5 => exact idle _
  all_goals simp [Safe.next, execIntakeTail_safe, execComplHead_safe, execMbDoorbell_safe, execMbAck_safe]

theorem execBarMisuse_safe : Safe (execBarMisuse f a s) := by
  fun_cases execBarMisuse f a s
  case case7 h => exact State.writeReg_safe s f _ h
  all_goals exact .next

theorem execWindowAccess_safe : Safe (execWindowAccess h offset access s) := by fun_cases execWindowAccess h offset access s <;> exact .next
theorem execPcieError_safe : Safe (execPcieError h err hit s) := by fun_cases execPcieError h err hit s <;> exact .next

end HostPort

section Storage
variable (s : State) (e : Fin 2) (pkt : RocePacket) (i : Fin 256)

theorem execRocePacket_safe : Safe (execRocePacket e pkt s) := by fun_cases execRocePacket e pkt s <;> exact .next
theorem execFetchEntryEnd_safe : Safe (execFetchEntryEnd i s) := by fun_cases execFetchEntryEnd i s <;> exact .next

end Storage

section Starts
variable (s : State) (env : StartEnv) (card : CardImage)

theorem execResetN_safe : Safe (execResetN s) := by fun_cases execResetN s <;> exact .next
theorem execColdStart_safe : Safe (execColdStart env s) := by fun_cases execColdStart env s <;> exact .next
theorem execWarmStart_safe : Safe (execWarmStart env s) := by fun_cases execWarmStart env s <;> exact .next
theorem execStoreWrite_safe : Safe (execStoreWrite s) := by fun_cases execStoreWrite s <;> exact .next
theorem execCardInsert_safe : Safe (execCardInsert card s) := by fun_cases execCardInsert card s <;> exact .next
theorem execCardRemove_safe : Safe (execCardRemove s) := by fun_cases execCardRemove s <;> exact .next

end Starts

section Freezes
variable (s : State) (b : Fin 256) (failed : Bool)

theorem execFreezeAtTrigger_safe : Safe (execFreezeAtTrigger s) := by fun_cases execFreezeAtTrigger s <;> exact .next
theorem execClockRestart_safe : Safe (execClockRestart s) := by fun_cases execClockRestart s <;> exact .next
theorem execSnapshotCopy_safe : Safe (execSnapshotCopy s) := by fun_cases execSnapshotCopy s <;> exact .next
theorem execSweeperSliceEnd_safe : Safe (execSweeperSliceEnd b failed s) := by fun_cases execSweeperSliceEnd b failed s <;> exact .next

end Freezes

section Powers
variable (s : State) (w : WakeTrigger)

theorem execWake_safe : Safe (execWake w s) := by fun_cases execWake w s <;> exact .next

end Powers

/-! ## All commands -/

/-- A command has one next state, or chooses between next states by its conditions alone, or by what it finds. -/
theorem exec_safe (c : Instr) (s : State) : Safe (exec c s) := by
  cases c with
  | mma | accStart | accLoad | readout | exportBank | wpadd | cvt | add | sub | mul | fma | max | min | transExp2 | transLog2 | transReciprocal
  | transReciprocalSquareRoot | transTanh | reduceSum | reduceSumsq | reduceMax | reduceMin | reduceArgmax | reduceArgmin | expsum | normscale
  | sample | sampleMerge | nop | note | copy | wstream | gather | scatter | fill | send | csum | cmax | cmin | barrier | bindSeedrec | bindSlotinfo
  | bindInput | route | kvappend | emit | digest | admitRequest | append | pause | cancel | switch | cutDraining | create | destroy | admittedWrite
  | quoteNonce | enrol | vfMapWrite | keyLoad | keyErase | teardown | allocAdd | allocFree | pcOwnerWrite | retrain | linkEnableWrite | openJob
  | close | timeParentWrite | utcSet | ringReset | ringEnable | irqArm | flr | qpStateWrite | fetchStart | write | writeBlock | sessionOpen
  | sessionClose | relay | logWindow | logClear | clear | resetCauseWrite | blockReset | coreReset | activate | firmwareSlotWrite | persist
  | unpersist | clearRetired | park | freeze | freezeAt | unfreeze | extest | idcode | samplePreload | bypass | snapshot | thermalStatusRead
  | testLogicReset =>
    exact .next
  | routineEntry | sliceEnd | routineFault | ckwdog | watchdogWarning | watchdogExpiry | coreFault | timerInterrupt | kerbingBegin | requestExpiry
  | bucketRefill | spareExchange | linkCtrlTimer | gapRerequest | stalledAckRetransmit | downWaitExpiry | trainingLocked | trainingTimeout | trainSend
  | lockedTimeout | upTimeout | closeExpiry | timePulse | stampedCodeword | holdoverEntry | holdoverLimitExpiry | oscillatorRecovery | perstN
  | cxlLinkDrop | qpAckTimeout | powerOn | activatePause | railsOkFall | avsUpdate | powerLimitUpdate | thermalWarning | throttleEnd | thermtrip
  | freezeN | freezeNDeassert | frzMemWrite | frzResume | sweeperSlice | pcieLinkUp | ethLinkUp | ethLinkDown | sliceBegin =>
    exact .ite .next .next
  | hbmRefreshWindow | checkpointSend | droop | throttleBegin | frzSelect | frzScan | frzMemRead =>
    exact .ite .next (.ite .next .next)
  | railFault =>
    exact .ite .next (.ite (.ite .next .next) (.ite .next .next))
  | fold => exact execFold_safe s ..
  | matrixCompletion => exact execMatrixCompletion_safe s ..
  | vectorCompletion => exact execVectorCompletion_safe s ..
  | summaryHoldRelease => exact execSummaryHoldRelease_safe s ..
  | summaryDelivery => exact execSummaryDelivery_safe s ..
  | decompressBlock => exact execDecompressBlock_safe s ..
  | moverCompletion => exact execMoverCompletion_safe s ..
  | streetWordDelivery => exact execStreetWordDelivery_safe s ..
  | landingWrite => exact execLandingWrite_safe s ..
  | hbmUnitSlot => exact execHbmUnitSlot_safe s ..
  | collectiveCompletion => exact execCollectiveCompletion_safe s ..
  | servingCompletion => exact execServingCompletion_safe s ..
  | issueCheck => exact execIssueCheck_safe s ..
  | freezeResume => exact execFreezeResume_safe s ..
  | descriptorPrefetch => exact execDescriptorPrefetch_safe s ..
  | gridlockDetectorRun => exact execGridlockDetectorRun_safe s ..
  | step => exact execStep_safe s ..
  | batchResolution => exact execBatchResolution_safe s ..
  | stepBarrierJoin => exact execStepBarrierJoin_safe s ..
  | barrierRelease => exact execBarrierRelease_safe s ..
  | segmentEnd => exact execSegmentEnd_safe s ..
  | segmentEntry => exact execSegmentEntry_safe s ..
  | stepEnd => exact execStepEnd_safe s ..
  | servingDone => exact execServingDone_safe s ..
  | choiceLimitExpiry => exact execChoiceLimitExpiry_safe s ..
  | ckMbcnt => exact execCkMbcnt_safe s ..
  | ckMbpop => exact execCkMbpop_safe s ..
  | ckChoose => exact execCkChoose_safe s ..
  | ckTkt => exact execCkTkt_safe s ..
  | ckPost => exact execCkPost_safe s ..
  | ckWait => exact execCkWait_safe s ..
  | ckDone => exact execCkDone_safe s ..
  | repairQueueWriteback => exact execRepairQueueWriteback_safe s ..
  | scrubWord => exact execScrubWord_safe s ..
  | clearDone => exact execClearDone_safe s ..
  | parkEntry => exact execParkEntry_safe s
  | unparkEntry => exact execUnparkEntry_safe s
  | requestPrepare => exact execRequestPrepare_safe s ..
  | kerbFrameCopy => exact execKerbFrameCopy_safe s ..
  | kerbTicket => exact execKerbTicket_safe s ..
  | recallFrameCopy => exact execRecallFrameCopy_safe s ..
  | rootSign => exact execRootSign_safe s ..
  | quoteFormed => exact execQuoteFormed_safe s ..
  | noticeReceive => exact execNoticeReceive_safe s
  | coordinatorDecide => exact execCoordinatorDecide_safe s ..
  | decideReceive => exact execDecideReceive_safe s
  | faultCommit => exact execFaultCommit_safe s ..
  | ckptData => exact execCkptData_safe s
  | ckptSeal => exact execCkptSeal_safe s
  | restoreData => exact execRestoreData_safe s
  | restoreDone => exact execRestoreDone_safe s
  | codewordReceive => exact execCodewordReceive_safe s ..
  | packetReceive => exact execPacketReceive_safe s ..
  | linkCtrl => exact execLinkCtrl_safe s ..
  | egressSlot => exact execEgressSlot_safe s ..
  | train => exact execTrain_safe s ..
  | respTimeout => exact execRespTimeout_safe s ..
  | packetRoute => exact execPacketRoute_safe s ..
  | agedDiscard => exact execAgedDiscard_safe s ..
  | data => exact execData_safe s
  | barrierJoin => exact execBarrierJoin_safe s
  | barrierReleasePacket => exact execBarrierReleasePacket_safe s
  | joinRepeat => exact execJoinRepeat_safe s ..
  | barrierTimeout => exact execBarrierTimeout_safe s ..
  | collUp => exact execCollUp_safe s
  | collDown => exact execCollDown_safe s
  | timestamp => exact execTimestamp_safe s
  | timeStep => exact execTimeStep_safe s
  | intakeTail => exact execIntakeTail_safe s ..
  | intakeFetch => exact execIntakeFetch_safe s ..
  | complHead => exact execComplHead_safe s ..
  | queuedCompletionWrite => exact execQueuedCompletionWrite_safe s ..
  | loadPlan => exact execLoadPlan_safe s ..
  | unloadPlan => exact execUnloadPlan_safe s ..
  | loadHandles => exact execLoadHandles_safe s ..
  | patch => exact execPatch_safe s ..
  | dmaIn => exact execDmaIn_safe s ..
  | dmaOut => exact execDmaOut_safe s ..
  | barMisuse => exact execBarMisuse_safe s ..
  | windowAccess => exact execWindowAccess_safe s ..
  | pcieError => exact execPcieError_safe s ..
  | rocePacket => exact execRocePacket_safe s ..
  | fetchEntryEnd => exact execFetchEntryEnd_safe s ..
  | stagingTimeout => exact execStagingTimeout_safe s ..
  | mbAck => exact execMbAck_safe s ..
  | notify => exact execNotify_safe s ..
  | sessionIdleTimeout => exact execSessionIdleTimeout_safe s ..
  | relayReply => exact execRelayReply_safe s
  | resetN => exact execResetN_safe s
  | coldStart => exact execColdStart_safe s ..
  | warmStart => exact execWarmStart_safe s ..
  | storeWrite => exact execStoreWrite_safe s
  | cardInsert => exact execCardInsert_safe s ..
  | cardRemove => exact execCardRemove_safe s
  | wake => exact execWake_safe s ..
  | freezeAtTrigger => exact execFreezeAtTrigger_safe s
  | clockRestart => exact execClockRestart_safe s
  | snapshotCopy => exact execSnapshotCopy_safe s
  | sweeperSliceEnd => exact execSweeperSliceEnd_safe s ..
  | mbDoorbell => exact execMbDoorbell_safe s ..
  | dmaCompletion => exact execDmaCompletion_safe s ..

/-- Settles O5: by cases on the command, along the branches of its meaning. -/
theorem everyCommandGoesOn : Obligations.EveryCommandGoesOn := exec_safe

end Sys2Proof.Machine
end

section
/-! PROOFS. Only the commands named store to memory (O4). -/
namespace Sys2Proof.Machine

/-- Every command keeps the queue and the form of the state, and whatever is true of the memory unless it is one of those that can store: each by the lemma of its own
meaning. -/
theorem exec_kept {q : List Instr} {M : Memory → Prop} {C : Prop} (c : Instr) (s : State) (hM : stores c = true → M = Any) (hk : Kept q M C s) :
    KeptOut q M C (exec c s) := by
  cases c with
  | mma b => exact execMma_kept b s hk
  | accStart b => exact execAccStart_kept b s hk
  | accLoad b => exact execAccLoad_kept b s hk
  | fold b => exact execFold_kept b s hk
  | matrixCompletion b => exact execMatrixCompletion_kept b s hk
  | readout b => exact execReadout_kept b s hk
  | exportBank b => exact execExportBank_kept b s hk
  | wpadd b => exact execWpadd_kept b s hk
  | cvt b => exact execCvt_kept b s hk
  | add b => exact execAdd_kept b s hk
  | sub b => exact execSub_kept b s hk
  | mul b => exact execMul_kept b s hk
  | fma b => exact execFma_kept b s hk
  | max b => exact execMax_kept b s hk
  | min b => exact execMin_kept b s hk
  | transExp2 b => exact execTransExp2_kept b s hk
  | transLog2 b => exact execTransLog2_kept b s hk
  | transReciprocal b => exact execTransReciprocal_kept b s hk
  | transReciprocalSquareRoot b => exact execTransReciprocalSquareRoot_kept b s hk
  | transTanh b => exact execTransTanh_kept b s hk
  | reduceSum b => exact execReduceSum_kept b s hk
  | reduceSumsq b => exact execReduceSumsq_kept b s hk
  | reduceMax b => exact execReduceMax_kept b s hk
  | reduceMin b => exact execReduceMin_kept b s hk
  | reduceArgmax b => exact execReduceArgmax_kept b s hk
  | reduceArgmin b => exact execReduceArgmin_kept b s hk
  | expsum b => exact execExpsum_kept b s hk
  | normscale b => exact execNormscale_kept b s hk
  | sample b => exact execSample_kept b s hk
  | sampleMerge b => exact execSampleMerge_kept b s hk
  | vectorCompletion b => obtain rfl := hM rfl; exact execVectorCompletion_kept b s hk
  | summaryHoldRelease b => obtain rfl := hM rfl; exact execSummaryHoldRelease_kept b s hk
  | summaryDelivery b => exact execSummaryDelivery_kept b s hk
  | nop b => exact execNop_kept b s hk
  | note b => exact execNote_kept b s hk
  | copy b => exact execCopy_kept b s hk
  | wstream b => exact execWstream_kept b s hk
  | decompressBlock b => exact execDecompressBlock_kept b s hk
  | gather b => exact execGather_kept b s hk
  | scatter b => exact execScatter_kept b s hk
  | fill b => exact execFill_kept b s hk
  | moverCompletion b => obtain rfl := hM rfl; exact execMoverCompletion_kept b s hk
  | streetWordDelivery b => obtain rfl := hM rfl; exact execStreetWordDelivery_kept b s hk
  | landingWrite b => obtain rfl := hM rfl; exact execLandingWrite_kept b s hk
  | hbmUnitSlot c => obtain rfl := hM rfl; exact execHbmUnitSlot_kept c s hk
  | hbmRefreshWindow c => exact execHbmRefreshWindow_kept c s hk
  | send b => exact execSend_kept b s hk
  | csum b => obtain rfl := hM rfl; exact execCsum_kept b s hk
  | cmax b => obtain rfl := hM rfl; exact execCmax_kept b s hk
  | cmin b => obtain rfl := hM rfl; exact execCmin_kept b s hk
  | collectiveCompletion b => exact execCollectiveCompletion_kept b s hk
  | barrier b => exact execBarrier_kept b s hk
  | bindSeedrec b => exact execBindSeedrec_kept b s hk
  | bindSlotinfo b => exact execBindSlotinfo_kept b s hk
  | bindInput b => exact execBindInput_kept b s hk
  | route b => exact execRoute_kept b s hk
  | kvappend b => exact execKvappend_kept b s hk
  | emit b => exact execEmit_kept b s hk
  | digest b => exact execDigest_kept b s hk
  | servingCompletion p => obtain rfl := hM rfl; exact execServingCompletion_kept p s hk
  | issueCheck b queue => exact execIssueCheck_kept b queue s hk
  | freezeResume p => exact execFreezeResume_kept p s hk
  | descriptorPrefetch b queue => exact execDescriptorPrefetch_kept b queue s hk
  | gridlockDetectorRun p => exact execGridlockDetectorRun_kept p s hk
  | step src => exact execStep_kept src s hk
  | batchResolution p => obtain rfl := hM rfl; exact execBatchResolution_kept p s hk
  | stepBarrierJoin p => exact execStepBarrierJoin_kept p s hk
  | barrierRelease p => exact execBarrierRelease_kept p s hk
  | segmentEnd p => exact execSegmentEnd_kept p s hk
  | segmentEntry p => exact execSegmentEntry_kept p s hk
  | stepEnd p => exact execStepEnd_kept p s hk
  | servingDone p => exact execServingDone_kept p s hk
  | choiceLimitExpiry p => exact execChoiceLimitExpiry_kept p s hk
  | routineEntry p => exact execRoutineEntry_kept p s hk
  | sliceEnd p => exact execSliceEnd_kept p s hk
  | ckMbcnt k m rd rs1 => exact execCkMbcnt_kept k m rd rs1 s hk
  | ckMbpop k m rd rs1 rs2 => exact execCkMbpop_kept k m rd rs1 rs2 s hk
  | ckChoose k m rd rs1 => exact execCkChoose_kept k m rd rs1 s hk
  | ckTkt k m rd rs1 => exact execCkTkt_kept k m rd rs1 s hk
  | ckPost k m rd rs1 => exact execCkPost_kept k m rd rs1 s hk
  | ckWait k m rd rs1 => exact execCkWait_kept k m rd rs1 s hk
  | ckDone k m => exact execCkDone_kept k m s hk
  | routineFault p cause => exact execRoutineFault_kept p cause s hk
  | ckwdog k => exact execCkwdog_kept k s hk
  | watchdogWarning k => exact execWatchdogWarning_kept k s hk
  | watchdogExpiry k => exact execWatchdogExpiry_kept k s hk
  | coreFault k => exact execCoreFault_kept k s hk
  | timerInterrupt k => exact execTimerInterrupt_kept k s hk
  | repairQueueWriteback b => obtain rfl := hM rfl; exact execRepairQueueWriteback_kept b s hk
  | scrubWord a => obtain rfl := hM rfl; exact execScrubWord_kept a s hk
  | clearDone r => obtain rfl := hM rfl; exact execClearDone_kept r s hk
  | admitRequest src => exact execAdmitRequest_kept src s hk
  | append src => exact execAppend_kept src s hk
  | pause src => exact execPause_kept src s hk
  | cancel src => exact execCancel_kept src s hk
  | parkEntry => exact execParkEntry_kept s hk
  | unparkEntry => exact execUnparkEntry_kept s hk
  | requestPrepare r => exact execRequestPrepare_kept r s hk
  | kerbingBegin p => exact execKerbingBegin_kept p s hk
  | kerbFrameCopy r => obtain rfl := hM rfl; exact execKerbFrameCopy_kept r s hk
  | kerbTicket p => exact execKerbTicket_kept p s hk
  | requestExpiry r => exact execRequestExpiry_kept r s hk
  | recallFrameCopy r => obtain rfl := hM rfl; exact execRecallFrameCopy_kept r s hk
  | switch via => exact execSwitch_kept via s hk
  | cutDraining via => exact execCutDraining_kept via s hk
  | rootSign p => exact execRootSign_kept p s hk
  | create via => exact execCreate_kept via s hk
  | destroy via => exact execDestroy_kept via s hk
  | admittedWrite via => exact execAdmittedWrite_kept via s hk
  | quoteNonce via => exact execQuoteNonce_kept via s hk
  | quoteFormed p => exact execQuoteFormed_kept p s hk
  | enrol via => exact execEnrol_kept via s hk
  | vfMapWrite via => exact execVfMapWrite_kept via s hk
  | keyLoad via => exact execKeyLoad_kept via s hk
  | keyErase via => exact execKeyErase_kept via s hk
  | teardown via => exact execTeardown_kept via s hk
  | allocAdd via => exact execAllocAdd_kept via s hk
  | allocFree via => exact execAllocFree_kept via s hk
  | pcOwnerWrite via => exact execPcOwnerWrite_kept via s hk
  | bucketRefill => exact execBucketRefill_kept s hk
  | noticeReceive => exact execNoticeReceive_kept s hk
  | coordinatorDecide p => exact execCoordinatorDecide_kept p s hk
  | decideReceive => exact execDecideReceive_kept s hk
  | faultCommit p => exact execFaultCommit_kept p s hk
  | spareExchange p => exact execSpareExchange_kept p s hk
  | checkpointSend p => exact execCheckpointSend_kept p s hk
  | ckptData => obtain rfl := hM rfl; exact execCkptData_kept s hk
  | ckptSeal => exact execCkptSeal_kept s hk
  | restoreData => obtain rfl := hM rfl; exact execRestoreData_kept s hk
  | restoreDone => exact execRestoreDone_kept s hk
  | codewordReceive n symbols => exact execCodewordReceive_kept n symbols s hk
  | packetReceive n => exact execPacketReceive_kept n s hk
  | linkCtrl n => exact execLinkCtrl_kept n s hk
  | linkCtrlTimer n => exact execLinkCtrlTimer_kept n s hk
  | gapRerequest n => exact execGapRerequest_kept n s hk
  | stalledAckRetransmit n => exact execStalledAckRetransmit_kept n s hk
  | egressSlot n => exact execEgressSlot_kept n s hk
  | downWaitExpiry n => exact execDownWaitExpiry_kept n s hk
  | trainingLocked n => exact execTrainingLocked_kept n s hk
  | trainingTimeout n => exact execTrainingTimeout_kept n s hk
  | trainSend n => exact execTrainSend_kept n s hk
  | train n => exact execTrain_kept n s hk
  | lockedTimeout n => exact execLockedTimeout_kept n s hk
  | upTimeout n => exact execUpTimeout_kept n s hk
  | retrain via => exact execRetrain_kept via s hk
  | linkEnableWrite via => exact execLinkEnableWrite_kept via s hk
  | respTimeout rtag => exact execRespTimeout_kept rtag s hk
  | packetRoute port service vc => exact execPacketRoute_kept port service vc s hk
  | agedDiscard port service vc => exact execAgedDiscard_kept port service vc s hk
  | data => obtain rfl := hM rfl; exact execData_kept s hk
  | barrierJoin => exact execBarrierJoin_kept s hk
  | barrierReleasePacket => exact execBarrierReleasePacket_kept s hk
  | joinRepeat p => exact execJoinRepeat_kept p s hk
  | barrierTimeout p => exact execBarrierTimeout_kept p s hk
  | collUp => obtain rfl := hM rfl; exact execCollUp_kept s hk
  | collDown => obtain rfl := hM rfl; exact execCollDown_kept s hk
  | openJob via => exact execOpenJob_kept via s hk
  | close via => exact execClose_kept via s hk
  | closeExpiry j => exact execCloseExpiry_kept j s hk
  | timePulse => exact execTimePulse_kept s hk
  | stampedCodeword n => exact execStampedCodeword_kept n s hk
  | timestamp => exact execTimestamp_kept s hk
  | timeParentWrite via => exact execTimeParentWrite_kept via s hk
  | holdoverEntry => exact execHoldoverEntry_kept s hk
  | holdoverLimitExpiry => exact execHoldoverLimitExpiry_kept s hk
  | timeStep => exact execTimeStep_kept s hk
  | utcSet via => exact execUtcSet_kept via s hk
  | droop d setting => exact execDroop_kept d setting s hk
  | oscillatorRecovery d => exact execOscillatorRecovery_kept d s hk
  | intakeTail f value => exact execIntakeTail_kept f value s hk
  | intakeFetch src entry => exact execIntakeFetch_kept src entry s hk
  | complHead f value => exact execComplHead_kept f value s hk
  | queuedCompletionWrite f => exact execQueuedCompletionWrite_kept f s hk
  | ringReset f value => exact execRingReset_kept f value s hk
  | ringEnable f value => exact execRingEnable_kept f value s hk
  | irqArm f value => exact execIrqArm_kept f value s hk
  | loadPlan src image => exact execLoadPlan_kept src image s hk
  | unloadPlan src => exact execUnloadPlan_kept src s hk
  | loadHandles src entries => exact execLoadHandles_kept src entries s hk
  | patch src => exact execPatch_kept src s hk
  | dmaIn src data => obtain rfl := hM rfl; exact execDmaIn_kept src data s hk
  | dmaOut src => exact execDmaOut_kept src s hk
  | perstN h => exact execPerstN_kept h s hk
  | flr f => exact execFlr_kept f s hk
  | barMisuse f a => exact execBarMisuse_kept f a s hk
  | windowAccess h offset a => obtain rfl := hM rfl; exact execWindowAccess_kept h offset a s hk
  | pcieError h err hit => exact execPcieError_kept h err hit s hk
  | cxlLinkDrop n => exact execCxlLinkDrop_kept n s hk
  | rocePacket e pkt => obtain rfl := hM rfl; exact execRocePacket_kept e pkt s hk
  | qpAckTimeout q => exact execQpAckTimeout_kept q s hk
  | qpStateWrite via => exact execQpStateWrite_kept via s hk
  | fetchStart via => exact execFetchStart_kept via s hk
  | fetchEntryEnd entry => obtain rfl := hM rfl; exact execFetchEntryEnd_kept entry s hk
  | write via => exact execWrite_kept via s hk
  | writeBlock via => exact execWriteBlock_kept via s hk
  | stagingTimeout sid => exact execStagingTimeout_kept sid s hk
  | mbAck f value => exact execMbAck_kept f value s hk
  | notify received => exact execNotify_kept received s hk
  | sessionOpen via => exact execSessionOpen_kept via s hk
  | sessionClose via => exact execSessionClose_kept via s hk
  | sessionIdleTimeout sid => exact execSessionIdleTimeout_kept sid s hk
  | relay via => exact execRelay_kept via s hk
  | relayReply => exact execRelayReply_kept s hk
  | logWindow via => exact execLogWindow_kept via s hk
  | logClear via => exact execLogClear_kept via s hk
  | clear via => exact execClear_kept via s hk
  | powerOn => obtain rfl := hM rfl; exact execPowerOn_kept s hk
  | resetN => exact execResetN_kept s hk
  | coldStart env => obtain rfl := hM rfl; exact execColdStart_kept env s hk
  | warmStart env => exact execWarmStart_kept env s hk
  | resetCauseWrite via => exact execResetCauseWrite_kept via s hk
  | blockReset via => exact execBlockReset_kept via s hk
  | coreReset via => exact execCoreReset_kept via s hk
  | activate via => exact execActivate_kept via s hk
  | activatePause => exact execActivatePause_kept s hk
  | firmwareSlotWrite via => exact execFirmwareSlotWrite_kept via s hk
  | persist via => exact execPersist_kept via s hk
  | unpersist via => exact execUnpersist_kept via s hk
  | clearRetired via => exact execClearRetired_kept via s hk
  | storeWrite => exact execStoreWrite_kept s hk
  | cardInsert card => exact execCardInsert_kept card s hk
  | cardRemove => exact execCardRemove_kept s hk
  | railsOkFall => obtain rfl := hM rfl; exact execRailsOkFall_kept s hk
  | avsUpdate millivolts sensed => exact execAvsUpdate_kept millivolts sensed s hk
  | railFault r millivolts => exact execRailFault_kept r millivolts s hk
  | powerLimitUpdate watts => exact execPowerLimitUpdate_kept watts s hk
  | thermalWarning which tenths => exact execThermalWarning_kept which tenths s hk
  | throttleBegin which tenths => exact execThrottleBegin_kept which tenths s hk
  | throttleEnd => exact execThrottleEnd_kept s hk
  | thermtrip which tenths => exact execThermtrip_kept which tenths s hk
  | park via => exact execPark_kept via s hk
  | wake w => exact execWake_kept w s hk
  | freezeN => exact execFreezeN_kept s hk
  | freeze via => exact execFreeze_kept via s hk
  | freezeAt via => exact execFreezeAt_kept via s hk
  | freezeAtTrigger => exact execFreezeAtTrigger_kept s hk
  | unfreeze via => exact execUnfreeze_kept via s hk
  | freezeNDeassert => exact execFreezeNDeassert_kept s hk
  | clockRestart => exact execClockRestart_kept s hk
  | extest => exact execExtest_kept s hk
  | idcode => exact execIdcode_kept s hk
  | samplePreload => exact execSamplePreload_kept s hk
  | frzSelect value => exact execFrzSelect_kept value s hk
  | frzScan bits => exact execFrzScan_kept bits s hk
  | frzMemRead command => exact execFrzMemRead_kept command s hk
  | frzMemWrite command word check => obtain rfl := hM rfl; exact execFrzMemWrite_kept command word check s hk
  | frzResume value => exact execFrzResume_kept value s hk
  | bypass => exact execBypass_kept s hk
  | snapshot via => exact execSnapshot_kept via s hk
  | snapshotCopy => exact execSnapshotCopy_kept s hk
  | sweeperSlice b => exact execSweeperSlice_kept b s hk
  | sweeperSliceEnd b failed => exact execSweeperSliceEnd_kept b failed s hk
  | mbDoorbell f value => exact execMbDoorbell_kept f value s hk
  | thermalStatusRead via => exact execThermalStatusRead_kept via s hk
  | pcieLinkUp h rate width => exact execPcieLinkUp_kept h rate width s hk
  | ethLinkUp e => exact execEthLinkUp_kept e s hk
  | ethLinkDown e => exact execEthLinkDown_kept e s hk
  | dmaCompletion src => exact execDmaCompletion_kept src s hk
  | sliceBegin p => exact execSliceBegin_kept p s hk
  | testLogicReset => exact execTestLogicReset_kept s hk

/-- A command that is not one of those that can store leaves the memory as it was. -/
theorem exec_mem {c : Instr} {s t : State} (hc : stores c = false) (h : exec c s = .next t) : t.mem = s.mem := by
  have start : Kept s.pending (· = s.mem) False s := ⟨rfl, rfl, False.elim⟩
  obtain ⟨-, hm, -⟩ := exec_kept c s (fun hs => by simp [hc] at hs) start t h
  exact hm

/-- Settles O4: a read of a word is a read of the memory, which the command leaves as it was. -/
theorem otherCommandsStoreNothing : Obligations.OtherCommandsStoreNothing :=
  fun _ _ _ hc h a => congrArg (·.read a) (exec_mem hc h)

end Sys2Proof.Machine
end

section
/-! PROOFS. What is read of memory after words are written and ranges cleared (O11). -/
namespace Sys2Proof.Machine

/-- An entry that a filter keeps is found as before. -/
theorem Table.find?_filter {α : Type} {p : Nat × α → Bool} {j : Nat} (hj : ∀ v, p (j, v) = true) :
    ∀ t : Table α, Table.find? (t.filter p) j = t.find? j
  | [] => rfl
  | (k, v) :: t => by
    have ih := Table.find?_filter hj t
    by_cases hk : j = k
    · subst hk
      simp [List.filter_cons_of_pos (hj v), Table.find?]
    · by_cases hp : p (k, v) = true
      · simp [List.filter_cons_of_pos hp, Table.find?, hk, ih]
      · simp [List.filter_cons_of_neg hp, Table.find?, hk, ih]

/-- A word outside the range cleared reads as before. -/
theorem Memory.read_clear_out (m : Memory) {a n x : Nat} (hx : ¬(a ≤ x ∧ x < a + n)) : (m.clear a n).read x = m.read x := by
  have hcell : (m.clear a n).cells.find? x = m.cells.find? x := Table.find?_filter (fun _ => by simp only [decide_eq_false hx, Bool.not_false]) m.cells
  have hrest : (m.clear a n).rest x = m.rest x := by simp [Memory.rest, Memory.clear, inRanges_addRange, hx]
  simp [Memory.read, hcell, hrest]

theorem Memory.read_write (m : Memory) (h : m.wf = true) (a b : Nat) (x : Stored) : (m.write a x).read b = if b = a then x else m.read b := by
  split
  · next hb => rw [hb, Memory.read_write_self m h]
  · next hb => exact Memory.read_write_ne m h hb x

theorem Memory.read_clear (m : Memory) (a n b : Nat) : (m.clear a n).read b = if a ≤ b ∧ b < a + n then clearedWord else m.read b := by
  split
  · next hb => exact Memory.read_clear_in m hb
  · next hb => exact Memory.read_clear_out m hb

/-- Words written one after another leave every other word as it was. -/
theorem State.readWord_writeWords_ne {a : Nat} : ∀ {ws : List (Nat × Word)} {s : State}, s.mem.wf = true → (∀ e ∈ ws, e.1 ≠ a) →
    (s.writeWords ws).readWord a = s.readWord a
  | [], _, _, _ => rfl
  | (b, w) :: ws, s, hm, ha => by
    have hb : a ≠ b := (ha (b, w) List.mem_cons_self).symm
    calc ((s.writeWord b (encodeWord w)).writeWords ws).readWord a
      _ = (s.writeWord b (encodeWord w)).readWord a :=
        State.readWord_writeWords_ne (Memory.wf_write s.mem hm b _) (fun e he => ha e (List.mem_cons_of_mem _ he))
      _ = s.readWord a := Memory.read_write_ne s.mem hm hb _

/-- Settles O11: the write of a word, writes one after another, and the clearing of a range. -/
theorem memoryReadsBack : Obligations.MemoryReadsBack :=
  ⟨fun m a b x h => Memory.read_write m h a b x, fun _ _ _ hm ha => State.readWord_writeWords_ne hm ha, fun m a n b _ => Memory.read_clear m a n b⟩

end Sys2Proof.Machine
end

section
/-! PROOFS. Rails, voltage, the power limit and the temperatures (O57). -/
namespace Sys2Proof.Machine

/-! ## Rails (R500 to R502) -/

theorem execRailsOkFall_bare {s : State} (h : s.mode ≠ .off ∨ s.power.tripped = true) : execRailsOkFall s = .next (s.bare .off) := by
  have hn : ¬(s.mode = .off ∧ (!s.power.tripped) = true) := by
    rintro ⟨hm, ht⟩
    rcases h with h | h
    · exact h hm
    · simp [h] at ht
  exact if_neg hn

theorem execAvsUpdate_target {millivolts sensed v : Nat} {held : Bool} {s : State} (hr : s.cdpRuns = true)
    (hh : held = (s.power.railFault && decide (kept16 sensed + 30 < s.power.target)))
    (hok : held = true ∨ (avsOk millivolts = true ∧ absDiff millivolts s.power.target ≤ 20)) (hv : v = if held then 800 else millivolts) :
    execAvsUpdate millivolts sensed s =
      .next ((({ s with power := { s.power with target := v, railFault := held, rails := s.power.rails.put 0 (kept16 sensed) } } : State).emit (.avs 0 v)).bumpWhere
        [(kept16 sensed != s.power.rails.get 0 0, 0x3300, 0x01), (v != s.power.target, 0x3300, 0x02), (held != s.power.railFault, 0x3230, 0x01)]) := by
  have hn : ¬((!s.cdpRuns) = true ∨ ((!held) = true ∧ ((!avsOk millivolts) = true ∨ 20 < absDiff millivolts s.power.target))) := by
    rcases hok with hok | ⟨ha, hd⟩
    · simp [hr, hok]
    · simp [hr, ha, hd]
  subst hh hv
  exact if_neg hn

theorem execRailFault_core {millivolts : Nat} {s : State} (hr : s.cdpRuns = true) (hf : s.power.railFault = false)
    (hlow : kept16 millivolts + 30 < s.power.target) :
    execRailFault 0 millivolts s =
      .next (((((({ s with power := { s.power with railFault := true, target := 800, rails := s.power.rails.put 0 (kept16 millivolts) } } : State).emit (.avs 0 800)).count
        0x9E20 0x03 1).logPower 5 0 (kept16 millivolts)).assertAlert).bumpWhere
        [(kept16 millivolts != s.power.rails.get 0 0, 0x3300, 0x01), (s.power.target != 800, 0x3300, 0x02), (true, 0x3230, 0x01)]) := by
  have hn : ¬(s.power.railFault = true ∨ s.power.target ≤ kept16 millivolts + 30) := by
    rintro (h | h)
    · exact Bool.false_ne_true (hf.symm.trans h)
    · omega
  unfold execRailFault
  dsimp only
  rw [if_neg (by rw [hr]; decide), if_pos (show (0 : Fin 7).val = 0 from rfl), if_neg hn]

theorem execRailFault_other {r : Fin 7} {millivolts : Nat} {s : State} (hr : s.cdpRuns = true) (h0 : r.val ≠ 0)
    (hout : kept16 millivolts < (railTolerance r.val).1 ∨ (railTolerance r.val).2 < kept16 millivolts) :
    execRailFault r millivolts s =
      .next ((((({ s with power := { s.power with rails := s.power.rails.put r.val (kept16 millivolts) } } : State).logPower 5 r.val (kept16 millivolts)).assertAlert).bumpWhere
        [(kept16 millivolts != s.power.rails.get 0 r.val, 0x3300 + r.val, 0x01),
         (({ s.power with rails := s.power.rails.put r.val (kept16 millivolts) } : Power).status != s.power.status, 0x3230, 0x01)])) := by
  have hn : ¬((railTolerance r.val).1 ≤ kept16 millivolts ∧ kept16 millivolts ≤ (railTolerance r.val).2) := by omega
  unfold execRailFault
  dsimp only
  rw [if_neg (by simp [hr]), if_neg h0, if_neg hn]

/-! ## The power limit (R505) -/

theorem execPowerLimitUpdate_floor {watts w f : Nat} {s : State} (hr : s.cdpRuns = true) (hw : w = kept16 watts)
    (hf : f = if s.objNat 0x3200 0x04 < w then min 15 (s.power.limitFloor + 1) else if w * 100 ≤ s.objNat 0x3200 0x04 * 95 then s.power.limitFloor - 1 else s.power.limitFloor) :
    execPowerLimitUpdate watts s =
      .next (if s.power.limitFloor = 0 ∧ f ≠ 0 then ((s.setFloor { s.power with watts := w, limitFloor := f }).bumpWhere [(w != s.power.watts, 0x3200, 0x05)]).logPower 8 0 w
        else (s.setFloor { s.power with watts := w, limitFloor := f }).bumpWhere [(w != s.power.watts, 0x3200, 0x05)]) := by
  subst hw hf
  exact if_neg (by simp [hr])

/-! ## Cooling (R506) -/

theorem execThermalWarning_alerts {x : Sensor} {tenths : Int} {s : State} (hr : s.cdpRuns = true) (hw : warnAt (sensorNo x) ≤ keptS16 tenths) :
    execThermalWarning x tenths s =
      .next (((s.sensed (sensorNo x) (keptS16 tenths)).logPower 1 (sensorNo x) (unsigned 64 (keptS16 tenths))).assertAlert) :=
  if_neg (by simp [hr, hw])

theorem execThrottleBegin_throttles {x : Sensor} {tenths : Int} {s : State} (hr : s.cdpRuns = true) (hw : throttleAt (sensorNo x) ≤ keptS16 tenths) :
    execThrottleBegin x tenths s =
      .next (if s.power.throttle then s.sensed (sensorNo x) (keptS16 tenths)
        else ((s.sensed (sensorNo x) (keptS16 tenths)).setFloor { (s.sensed (sensorNo x) (keptS16 tenths)).power with throttle := true }).logPower 2 (sensorNo x)
          (unsigned 64 (keptS16 tenths))) := by
  have hn : ¬((!s.cdpRuns) = true ∨ keptS16 tenths < throttleAt (sensorNo x)) := by simp [hr, hw]
  unfold execThrottleBegin
  dsimp only
  rw [if_neg hn]
  split <;> rfl

theorem execThrottleEnd_ends {s : State} (hr : s.cdpRuns = true) (ht : s.power.throttle = true) :
    execThrottleEnd s =
      .next (((s.setFloor { s.power with throttle := false, temps := s.power.temps.mapVals (fun k t => min t (throttleAt k - 50)) }).logPower 3 0 0).bumpWhere
        ((true, 0x3230, 0x01) :: s.power.temps.map (fun e => (decide (throttleAt e.1 - 50 < e.2), sensorObject e.1, 0x01)))) :=
  if_neg (by simp [hr, ht])

theorem execThermtrip_trips {x : Sensor} {tenths : Int} {s t : State} (hm : s.mode ≠ .off) (hw : tripAt (sensorNo x) ≤ keptS16 tenths)
    (ht : t = (s.sensed (sensorNo x) (keptS16 tenths)).logPower 4 (sensorNo x) (unsigned 64 (keptS16 tenths))) :
    execThermtrip x tenths s = .next (({ t with mode := .off, power := { t.power with tripped := true } } : State).emit (.land "THERMTRIP_N" false)) := by
  subst ht
  exact if_neg (by simp [hm, hw])

/-- Settles O57: each event of the rails, the power limit and the sensors, under its conditions. -/
theorem powersRun : Obligations.PowersRun := by
  refine ⟨?_, ?_, ?_, ?_, ?_, ?_, ?_, ?_, ?_⟩
  · intro s h
    exact ⟨_, execRailsOkFall_bare h, rfl, rfl, rfl, rfl, rfl, rfl, rfl, rfl⟩
  · rintro millivolts sensed v held s hr ⟨hh, hok⟩ hv
    exact execAvsUpdate_target hr hh hok hv
  · rintro millivolts _ s _ ⟨hr, rfl⟩ ⟨hf, hlow⟩ rfl
    exact execRailFault_core hr hf hlow
  · rintro r millivolts _ s _ ⟨hr, h0, rfl⟩ hout rfl
    exact execRailFault_other hr h0 hout
  · rintro watts w f s _ ⟨hr, hw⟩ hf rfl
    exact execPowerLimitUpdate_floor hr hw hf
  · rintro x tenths _ s ⟨hr, rfl, hw⟩
    exact execThermalWarning_alerts hr hw
  · rintro x tenths _ s _ ⟨hr, rfl, hw⟩ rfl
    exact execThrottleBegin_throttles hr hw
  · rintro s _ ⟨hr, ht⟩ rfl
    exact execThrottleEnd_ends hr ht
  · rintro x tenths _ s t ⟨hm, rfl, hw⟩ ht
    exact execThermtrip_trips hm hw ht

end Sys2Proof.Machine
end

section
/-! PROOFS. Words delivered, blocks expanded, and the slots of the pseudo-channels (O17). -/
namespace Sys2Proof.Machine

/-! ## Deliveries (R18, R20 to R28) -/

theorem execStreetWordDelivery_writes {b : Fin 256} {s : State} {v : Delivery} (hl : s.live = true) (hw : (s.block b.val).eqWrites < 2)
    (hv : firstDelivery ((s.block b.val).equaliser.filter (s.deliverable (s.ownerOf b.val))) none = some v) :
    execStreetWordDelivery b s =
      .next ((s.setBlock b.val { s.block b.val with equaliser := (s.block b.val).equaliser.erase v, eqWrites := (s.block b.val).eqWrites + 1,
                                                    bankUse := addUse (s.block b.val).bankUse [v.addr] }).writeDelivered v) := by
  have hn : ¬ 2 ≤ (s.block b.val).eqWrites := by omega
  simp [execStreetWordDelivery, hl, hn, hv]

theorem execLandingWrite_writes {b : Fin 256} {s : State} {v : Delivery} (hl : s.live = true)
    (hv : (s.block b.val).landing.find? (fun v => s.bankFree b.val v.addr) = some v) :
    execLandingWrite b s =
      .next ((s.setBlock b.val { s.block b.val with landing := (s.block b.val).landing.erase v,
                                                    bankOther := (s.block b.val).bankOther ++ [v.addr % 64] }).writeDelivered v) := by
  simp [execLandingWrite, hl, hv]

/-! ## The decompressor (R203) -/

theorem execDecompressBlock_sends {b : Fin 256} {s : State} {o : Op} {st : StreamState} {ws : List Word} (hl : s.live = true)
    (ho : (s.block b.val).stream? = some (o, st)) (hst : st.asked ≠ 0 ∧ st.stage = 2 ∧ st.next < packCount o.desc)
    (hall : (addrs (packArea st.header + entryOffset (dirEntry st st.header (packFirst o.desc + st.next)))
      (entryLen (dirEntry st st.header (packFirst o.desc + st.next)))).all (fun i => (st.words.find? i).isSome) = true)
    (hx : expandBlock st (packFirst o.desc + st.next) = some ws) :
    execDecompressBlock b s =
      .next ((s.setBlock b.val ((s.block b.val).putOp { o with work := .stream { st with next := st.next + 1, lastRaw := max s.now (st.lastRaw + 64) + 24 } })).landWords
        false b.val o.id (max s.now (st.lastRaw + 64) + 24)
        ((addrs (hAddr (s.handle (s.ownerOf b.val) (opHandle (opnd o.desc 0))) (opOffset (opnd o.desc 0) + 128 * st.next)) 128).zip ws)) := by
  obtain ⟨hasked, hstage, hnext⟩ := hst
  simp only [execDecompressBlock, hl, ho, Bool.not_true, Bool.false_eq_true, if_false]
  rw [if_neg (fun h => hasked h.1), if_pos ⟨hstage, hnext, hall⟩, hx]

/-! ## Slots (R181 to R187) -/

section Slots
variable {c : Fin 256} {s : State}

/-- A slot that has begun and is not of the refresh window is neither too early nor refresh. -/
theorem not_early_of_begun {t now slot : Nat} (h : t ≤ now ∧ slot < 240) : ¬(now < t ∨ 240 ≤ slot) := by omega

theorem execHbmUnitSlot_carries {u : HbmUnit} (hl : s.live = true)
    (hs : (s.channel c.val).slotAt (s.channel c.val).served ≤ s.now ∧ (s.channel c.val).served % 256 < 240)
    (h0 : (s.channel c.val).code ((s.channel c.val).served % 256) ≠ 0) (h20 : (s.channel c.val).code ((s.channel c.val).served % 256) ≠ 0x20)
    (hu : (s.channel c.val).nextUnit ((s.channel c.val).code ((s.channel c.val).served % 256) - 1) ((s.channel c.val).slotAt (s.channel c.val).served) = some u)
    (hb : (s.channel c.val).bankClear (s.channel c.val).served u.addr = true) :
    execHbmUnitSlot c s = .next (
      let x := s.channel c.val
      let t := s.setChannel c.val { x with served := x.served + 1 }
      let t := if x.service.isEmpty then t else t.count (0x9200 + c.val) 0x05 1
      let y := (t.channel c.val).dropUnit u
      ((t.setChannel c.val { y with bankSlot := y.bankSlot.put (bankOf u.addr) x.served }).count (0x9200 + c.val) 0x01 1).carry c.val x.served u) := by
  unfold execHbmUnitSlot
  dsimp only
  rw [if_neg (by simp [hl]), if_neg (not_early_of_begun hs), if_neg h0, if_neg h20]
  simp only [hu, hb, Bool.not_true, Bool.false_eq_true, if_false]

theorem execHbmUnitSlot_fetches (hl : s.live = true)
    (hs : (s.channel c.val).slotAt (s.channel c.val).served ≤ s.now ∧ (s.channel c.val).served % 256 < 240)
    (h20 : (s.channel c.val).code ((s.channel c.val).served % 256) = 0x20) :
    execHbmUnitSlot c s = .next (
      let x := s.channel c.val
      let t := s.setChannel c.val { x with served := x.served + 1 }
      (if x.service.isEmpty then t else t.count (0x9200 + c.val) 0x05 1).prefetchSlot c.val) := by
  unfold execHbmUnitSlot
  dsimp only
  rw [if_neg (by simp [hl]), if_neg (not_early_of_begun hs), if_neg (by omega), if_pos h20]

theorem execHbmUnitSlot_idles (hl : s.live = true)
    (hs : (s.channel c.val).slotAt (s.channel c.val).served ≤ s.now ∧ (s.channel c.val).served % 256 < 240)
    (h0 : (s.channel c.val).code ((s.channel c.val).served % 256) = 0) (he : (s.channel c.val).service = []) :
    execHbmUnitSlot c s =
      .next ((s.setChannel c.val { s.channel c.val with served := (s.channel c.val).served + 1 }).count (0x9200 + c.val) 0x03 1) := by
  unfold execHbmUnitSlot
  dsimp only
  rw [if_neg (by simp [hl]), if_neg (not_early_of_begun hs), if_pos h0]
  simp only [he]

theorem execHbmRefreshWindow_passes (hl : s.live = true) (hs : 240 ≤ (s.channel c.val).served % 256)
    (hn : (s.channel c.val).slotAt (256 * ((s.channel c.val).served / 256) + 240) ≤ s.now) :
    execHbmRefreshWindow c s = .next (
      (if (s.channel c.val).service.isEmpty then s else s.count (0x9200 + c.val) 0x05 16).setChannel c.val
        { s.channel c.val with served := 256 * ((s.channel c.val).served / 256 + 1), bankSlot := [] }) := by
  have h : ¬((s.channel c.val).served % 256 < 240 ∨ s.now < (s.channel c.val).slotAt (256 * ((s.channel c.val).served / 256) + 240)) := by omega
  unfold execHbmRefreshWindow
  dsimp only
  rw [if_neg (by simp [hl]), if_neg h]

end Slots

/-- Settles O17: each event under its conditions. -/
theorem moverEventsRun : Obligations.MoverEventsRun := by
  refine ⟨?_, ?_, ?_, ?_, ?_, ?_, ?_⟩
  · intro b s v hl hw hv
    exact execStreetWordDelivery_writes hl hw hv
  · intro b s v hl hv
    exact execLandingWrite_writes hl hv
  · intro b s o st ws hl ho hst hall hx
    exact execDecompressBlock_sends hl ho hst hall hx
  · rintro c s u hl hs ⟨h0, h20⟩ hu hb
    exact execHbmUnitSlot_carries hl hs (by omega) h20 hu hb
  · intro c s hl hs h20
    exact execHbmUnitSlot_fetches hl hs h20
  · rintro c s hl hs ⟨h0, he⟩
    exact execHbmUnitSlot_idles hl hs h0 he
  · intro c s hl hs hn
    exact execHbmRefreshWindow_passes hl hs hn

end Sys2Proof.Machine
end

section
/-! PROOFS. The commands over resets, firmware and the store (O39). -/
namespace Sys2Proof.Machine

/-! ## Rows -/

section Rows
variable {s T : State} {src : Source} {l : List Byte} {rest : List (Source × List Byte)} {i u : Nat} {a : Ask}

/-- A request of a row whose act succeeds is answered with what the act leaves. -/
theorem row_runs {n : Nat} {act : State → Ask → Except Nat Done} {d : Done} (h : Row s src l rest i u T a) (hi : 0 < n) (hd : act T a = .ok d) :
    s.cdpRow .head (writesAt i n u) act = d.answer l a := by
  obtain ⟨hw, rfl, rfl⟩ := h
  have hmine : writesAt i n u (cMsg l) i u = true := by
    rcases hw.2 with hm | hm <;> simp [writesAt, within, hm, hi]
  exact Commanded.runs hw hmine hd

theorem row_object (h : Row s src l rest i u T a) : a.index = i ∧ a.sub = u := by
  obtain ⟨⟨⟨-, -, -, -, -, hi, hu, -⟩, -⟩, -, rfl⟩ := h
  exact ⟨hi, hu⟩

end Rows

/-! ## Cores (R175, R465) -/

/-- The town time of r stands in s, and each core has the pc and the time out of work that it has in r. -/
def CoresStand (r s : State) : Prop := s.town = r.town ∧ ∀ k, (s.core k).pc = (r.core k).pc ∧ (s.core k).downTo = (r.core k).downTo

theorem CoresStand.refl (s : State) : CoresStand s s := ⟨rfl, fun _ => ⟨rfl, rfl⟩⟩

section CoresStand
variable {r s : State} (h : CoresStand r s)
include h

theorem CoresStand.of_eq {t : State} (ht : t.town = s.town) (hc : ∀ k, t.core k = s.core k) : CoresStand r t :=
  ⟨ht.trans h.1, fun k => hc k ▸ h.2 k⟩

theorem CoresStand.ite {c : Prop} {_ : Decidable c} {t : State} (ht : CoresStand r t) : CoresStand r (if c then t else s) := by
  split
  · exact ht
  · exact h

theorem CoresStand.setPart (p : Nat) (x : Part) : CoresStand r (s.setPart p x) := h.of_eq (by simp) (by simp)
theorem CoresStand.setObj (i u : Nat) (v : List Byte) : CoresStand r (s.setObj i u v) := h.of_eq (by simp) (by simp)
theorem CoresStand.logEvent (e : Event) : CoresStand r (s.logEvent e) := h.of_eq (by simp) (by simp)

/-- An interrupt that is raised sets a bit of `mip` alone. -/
theorem CoresStand.raise (k c : Nat) : CoresStand r (s.raise k c) := by
  refine ⟨h.1, fun j => ?_⟩
  by_cases hj : j = k
  · subst hj
    simpa [State.raise] using h.2 j
  · simpa [State.raise, State.core_setCore_ne _ hj] using h.2 j

theorem CoresStand.endFreeze (p : Nat) : CoresStand r (s.endFreeze p) := by
  unfold State.endFreeze
  split
  · exact h
  · exact h.of_eq (by simp [State.town]) (by simp)

theorem CoresStand.fence (p : Nat) (f : Failure) : CoresStand r (s.fence p f) := by
  unfold State.fence
  dsimp only
  split
  · exact (((h.endFreeze p).setPart p _).raise _ _).logEvent _
  · exact h.ite (h.setPart p _)
  · exact h

theorem CoresStand.failStep (p : Nat) (c : Status) (n : Nat) : CoresStand r (s.failStep p c n) := h.fence p _

theorem CoresStand.foldl {α : Type} {f : State → α → State} (hf : ∀ t x, CoresStand r t → CoresStand r (f t x)) :
    ∀ l : List α, CoresStand r (l.foldl f s) := by
  intro l
  induction l generalizing s with
  | nil => exact h
  | cons x l ih => exact ih (hf s x h)

end CoresStand

/-- What the reset of a core comes to: the routines that it leads and, for a service core, the running steps fail, which leaves the cores as they stood; then the
core is put back. -/
theorem State.resetCore_eq (s : State) (k code : Nat) : ∃ x m z, CoresStand s x ∧
    s.resetCore k code = (x.setCore k { wdogAt := x.town, downTo := x.town + 200 * Config.ticksPerUs, imem := m }).wipe z := by
  refine ⟨_, _, _, ?_, rfl⟩
  have hlog := (CoresStand.refl s).logEvent { cls := 16, code := code, inst := k, detail := (s.core k).pc.toNat % 2 ^ 32 }
  dsimp only
  generalize hx : List.foldl _ (s.logEvent _) _ = x
  have hled : CoresStand s x := hx ▸ hlog.foldl (fun t p ht => ((ht.ite (ht.setObj _ _ _)).setPart p _).failStep p .fault 4) _
  exact CoresStand.ite (hled.foldl (fun t p ht => ht.ite (ht.failStep p .fault 7)) _) hled

theorem State.resetCore_self (s : State) (k code : Nat) :
    ((s.resetCore k code).core k).pc = 0 ∧ ((s.resetCore k code).core k).downTo = (s.resetCore k code).town + 200 * Config.ticksPerUs := by
  obtain ⟨x, m, z, -, he⟩ := s.resetCore_eq k code
  have hc : (s.resetCore k code).core k = { wdogAt := x.town, downTo := x.town + 200 * Config.ticksPerUs, imem := m } := by
    rw [he]
    exact State.core_setCore x k _
  have ht : (s.resetCore k code).town = x.town := by rw [he]; rfl
  simp [hc, ht]

theorem State.resetCore_other (s : State) {j k : Nat} (code : Nat) (hj : j ≠ k) :
    ((s.resetCore k code).core j).pc = (s.core j).pc ∧ ((s.resetCore k code).core j).downTo = (s.core j).downTo := by
  obtain ⟨x, m, z, hx, he⟩ := s.resetCore_eq k code
  have hc : (s.resetCore k code).core j = x.core j := by
    rw [he]
    exact State.core_setCore_ne x hj _
  rw [hc]
  exact hx.2 j

@[simp] theorem State.resetCore_town (s : State) (k code : Nat) : (s.resetCore k code).town = s.town := by
  obtain ⟨x, m, z, hx, he⟩ := s.resetCore_eq k code
  rw [he]
  exact hx.1

/-- Cores reset one after another are each at pc 0 and back 200 µs after the town time, which stands. -/
theorem State.resetCores_cores {s : State} {l : List Nat} {k : Nat} (h : k ∈ l) :
    ((l.foldl (fun (s : State) k => s.resetCore k 1) s).core k).pc = 0
      ∧ ((l.foldl (fun (s : State) k => s.resetCore k 1) s).core k).downTo = s.town + 200 * Config.ticksPerUs := by
  have htown : ∀ (l : List Nat) (s : State), (l.foldl (fun (s : State) k => s.resetCore k 1) s).town = s.town := by
    intro l
    induction l with
    | nil => exact fun _ => rfl
    | cons j l ih => exact fun s => (ih _).trans (s.resetCore_town j 1)
  have hcore := foldl_established (P := fun t : State => (t.core k).pc = 0 ∧ (t.core k).downTo = t.town + 200 * Config.ticksPerUs)
    (f := fun (s : State) k => s.resetCore k 1) (fun t => t.resetCore_self k 1) (fun t j ht => ?_) h (s := s)
  · simpa [htown] using hcore
  · by_cases hj : k = j
    · subst hj
      exact t.resetCore_self k 1
    · obtain ⟨hpc, hdown⟩ := t.resetCore_other 1 hj
      simpa [hpc, hdown] using ht

/-! ## The acts of the rows -/

section Acts
variable {s : State} {a : Ask}

theorem actBlockReset_ok (h : (bitsSet 256 a.num).all (fun b => !(s.block b).retired && (s.partOf b).isNone) = true) :
    actBlockReset s a = .ok { s := (bitsSet 256 a.num).foldl (fun (s : State) b => s.setBlock b (s.block b).reset) s } := if_pos h

theorem actCoreReset_ok (h : a.num < 2 ^ 20) :
    actCoreReset s a = .ok { s := (bitsSet 20 a.num).foldl (fun (s : State) k => s.resetCore k 1) s } := if_pos (decide_eq_true h)

theorem actActivate_ok {u : State} (h : s.mayActivate = true) (hu : u = s.noteCause 2) :
    actActivate s a = .ok { s := if u.mode = .recovery then { u with mode := .starting, start := { u.start with coldDue := true, bootSlot := some (s.objNat 0x2100 0x03) } }
      else { u with start := { u.start with activating := true, bootSlot := some (s.objNat 0x2100 0x03) } } } := by
  subst hu
  simp only [actActivate, needs, h, if_true]
  split <;> rfl

theorem actPersist_ok {v : List (Nat × List Byte)} (h3 : a.value.length = 3) (ho : optionObject (leAt a.value 0 2) (leAt a.value 2 1) = true)
    (hv : v = s.start.values.filter (fun e => e.1 != persistKey a) ++ [(persistKey a, s.value (leAt a.value 0 2) (leAt a.value 2 1))]) (hf : storeFits v = true) :
    actPersist s a = .ok { s := ({ s with start := { s.start with values := v, storeDue := true } } : State).bump 0x2300 0x03 } := by
  subst hv
  simp only [actPersist, needs, h3, ho, hf, beq_self_eq_true, Bool.and_true, if_true]

theorem actUnpersist_ok (h3 : a.value.length = 3) (hk : s.start.values.any (fun e => e.1 == persistKey a) = true) :
    actUnpersist s a =
      .ok { s := ({ s with start := { s.start with values := s.start.values.filter (fun e => e.1 != persistKey a), storeDue := true } } : State).bump 0x2300 0x03 } := by
  simp only [actUnpersist, needs, h3, hk, beq_self_eq_true, if_true]

end Acts

/-- Settles O39: each request runs its act (`Row.runs`), which succeeds under the conditions of its rule. -/
theorem startCommandsRun : Obligations.StartCommandsRun := by
  refine ⟨?_, ?_, ?_, ?_, ?_, ?_, ?_⟩
  · intro s T src l rest a h
    obtain ⟨hi, hu⟩ := row_object h
    refine congrArg Host.Outcome.next (row_runs h (by decide) ?_)
    simp only [actResetCause, hi, hu]
  · intro s T src l rest a h hfree
    exact congrArg Host.Outcome.next (row_runs h (by decide) (actBlockReset_ok hfree))
  · intro s T src l rest a h hn
    exact ⟨_, congrArg Host.Outcome.next (row_runs h (by decide) (actCoreReset_ok hn)), rfl, fun _ hk => State.resetCores_cores hk⟩
  · intro s T src l rest a u h hm hu
    exact congrArg Host.Outcome.next (row_runs h (by decide) (actActivate_ok hm hu))
  · rintro s T src l rest a v h ⟨h3, ho⟩ hv hf
    exact congrArg Host.Outcome.next (row_runs h (by decide) (actPersist_ok h3 ho hv hf))
  · intro s T src l rest a h h3 hk
    exact congrArg Host.Outcome.next (row_runs h (by decide) (actUnpersist_ok h3 hk))
  · intro s T src l rest a h
    exact congrArg Host.Outcome.next (row_runs h (by decide) rfl)

end Sys2Proof.Machine
end

section
/-! PROOFS. COPY, FILL, WSTREAM, GATHER, SCATTER and SEND (O16). -/
namespace Sys2Proof.Machine

/-! ## A mover operation that has started (R119, R123, R194) -/

/-- A head that is ready and that its family accepts issues: it leaves its queue, and its family starts it. -/
theorem issue_of_ready {s : State} {b q p : Nat} {d : Desc} {want : Desc → Bool} {more : State → Nat → Desc → List Status} {start : State → Nat → Desc → State}
    (hr : Ready s b q p d (more s p d)) (hw : want d = true) : s.issue b q want more start = start (s.pop p b q) p d := by
  obtain ⟨hready, he, hp, hcause⟩ := hr
  exact State.issue_eq hready hw he hp hcause

theorem ready_partOf {s : State} {b q p : Nat} {d : Desc} {own : List Status} (hr : Ready s b q p d own) : s.partOf b = some p :=
  (State.ready_part hr.1).1

/-- Mover operation d of block b has left its queue, its source is read with the words l mended, and it is in flight with w to do. -/
def State.moverStarts (s : State) (p b : Nat) (d : Desc) (busy : Nat) (w : Work) (l : List Nat) : State :=
  (((s.pop p b 2).mended0 l).launchMover p b d busy w).2

section Starts
variable {s : State} {p b busy : Nat} {d : Desc} {w : Work} {l : List Nat}

theorem State.moverStarts_takes (h : s.partOf b = some p) : MoverTakes s (s.moverStarts p b d busy w l) p b d busy w := by
  obtain ⟨-, hq, hi, hf, hm, -⟩ := State.mover_started (busy := busy) (d := d) (w := w) l h
  exact ⟨hq, hi ▸ List.mem_append_right _ (List.mem_singleton.mpr rfl), hf, fun a => congrArg (·.read a) hm⟩

theorem State.moverStarts_now (h : s.partOf b = some p) : (s.moverStarts p b d busy w l).now = s.now := by
  obtain ⟨-, -, -, -, -, hn, -⟩ := State.mover_started (busy := busy) (d := d) (w := w) l h
  exact hn

theorem State.moverStarts_lcycle (h : s.partOf b = some p) : ((s.moverStarts p b d busy w l).part p).lcycle = (s.part p).lcycle := by
  obtain ⟨-, -, -, -, -, -, hc⟩ := State.mover_started (busy := busy) (d := d) (w := w) l h
  exact hc

theorem State.moverStarts_readWord (h : s.partOf b = some p) : (s.moverStarts p b d busy w l).readWord = s.readWord := by
  obtain ⟨-, -, -, hm⟩ := State.moverStarts_takes (busy := busy) (d := d) (w := w) (l := l) h
  exact funext hm

@[simp] theorem State.moverStarts_handle (i k : Nat) : (s.moverStarts p b d busy w l).handle i k = s.handle i k := by
  unfold State.moverStarts
  rw [State.launchMover_handle, State.mended0_handle]
  rfl

/-- An operation that has started stays so through a change of anything but the queues, the places and the mover of its block, and memory. -/
theorem moverTakes_congr {u t : State} (h : MoverTakes s u p b d busy w) (hq : (t.block b).queues = (u.block b).queues)
    (hi : (t.block b).inflight = (u.block b).inflight) (hf : (t.block b).moverFree = (u.block b).moverFree) (hm : t.mem = u.mem) :
    MoverTakes s t p b d busy w := by
  obtain ⟨h1, h2, h3, h4⟩ := h
  refine ⟨?_, hi ▸ h2, hf.trans h3, fun a => (congrArg (·.read a) hm).trans (h4 a)⟩
  simpa [Block.queue, hq] using h1

theorem moverTakes_of_block {u t : State} (h : MoverTakes s u p b d busy w) (hb : t.block b = u.block b) (hm : t.mem = u.mem) : MoverTakes s t p b d busy w :=
  moverTakes_congr h (by rw [hb]) (by rw [hb]) (by rw [hb]) hm

/-- An operation that has started stays so with other work to do. -/
theorem moverTakes_putOp {u : State} (h : MoverTakes s u p b d busy w) (w' : Work) :
    MoverTakes s (u.setBlock b ((u.block b).putOp { s.newOp p b 2 d 0 w with work := w' })) p b d busy w' := by
  obtain ⟨h1, h2, h3, h4⟩ := h
  refine ⟨by simpa [Block.putOp, Block.queue] using h1, ?_, by simpa [Block.putOp] using h3, h4⟩
  rw [State.block_setBlock]
  exact List.mem_map.mpr ⟨_, h2, if_pos rfl⟩

theorem moverTakes_sendWords {u : State} (h : MoverTakes s u p b d busy w) (o : Op) (ws : List (Nat × Stored)) :
    MoverTakes s (u.sendWords p b o ws) p b d busy w := by
  obtain ⟨e, a, hb⟩ := u.sendWords_block p b o ws b
  exact moverTakes_congr h (by rw [hb]) (by rw [hb]) (by rw [hb]) (by simp)

end Starts

/-- A source whose words are all read is handed on with the words that were mended queued for repair. -/
theorem State.readSource_clean {s : State} {p b q r : Nat} {d : Desc} {l : List Nat} {k : State → List Word → State} (h : (readRun s.mem l).failed = none) :
    s.readSource p b q r d l k = k (s.mended0 (readRun s.mem l).mended) (readRun s.mem l).words := by
  simp only [State.readSource, h]

/-! ## Words on the streets and units at the pseudo-channels -/

section Ways
variable {s u : State} {p b : Nat} {o : Op}

theorem State.sendWords_onStreets {ws : List (Nat × Stored)} (hn : u.now = s.now) (hc : (u.part p).lcycle = (s.part p).lcycle) (ho : o.id = s.opCount + 1) :
    OnStreets s (u.sendWords p b o ws) p b ws := by
  intro k a w hk
  rw [← hn, ← hc, ← ho]
  exact State.sendWords_way hk

theorem State.presentWrites_writesWait {ws : List (Nat × Word)} (hn : u.now = s.now) (ho : o.id = s.opCount + 1) :
    WritesWait s (u.presentWrites b o (keyOf o.desc) ws) b o.desc ws := by
  intro i r hr
  rw [← hn, ← ho]
  exact State.presentWrites_waits hr

theorem State.presentReads_waitsFrom {key : Nat} {ws : List (Nat × Nat)} (hn : u.now = s.now) (ho : o.id = s.opCount + 1) (i : Nat) (r : List (Nat × Nat))
    (hr : (unitRuns ws)[i]? = some r) :
    Waits (u.presentReads b o key ws) { stream := streamOf o.desc, addr := (r.headD (0, 0)).1, count := r.length, dests := r.map (fun e => (e.2, 0)), opBlock := b,
                                        opId := s.opCount + 1, present := s.now + 84 + i / 8, key := key } := by
  rw [← hn, ← ho]
  exact State.presentReads_waits hr

/-- A WSTREAM whose first word lies in its handle asks for it (R202). -/
theorem State.askStream_header {st : StreamState} (h : opOffset (opnd o.desc 1) < hSize (u.packHandle p o.desc)) :
    u.askStream p b o st [0] 84 =
      (u.setBlock b ((u.block b).putOp { o with work := .stream { st with asked := st.asked + 1, beyond := false } })).presentUnit
        { stream := streamOf o.desc, addr := hAddr (u.packHandle p o.desc) (opOffset (opnd o.desc 1)), count := 1, opBlock := b, opId := o.id,
          present := u.now + 84, key := keyOf o.desc } := by
  simp [State.askStream, h, unitRuns, State.presentAll]

end Ways

/-! ## What a launch reads and what it comes to -/

section Launch
variable (s : State) (p b busy q i k : Nat) (d e : Desc) (w : Work) (l : List Nat)

@[simp] theorem State.pop_handle : (s.pop p b q).handle i k = s.handle i k := rfl
@[simp] theorem State.pop_moverAddrs : (s.pop p b q).moverAddrs i d k = s.moverAddrs i d k := rfl
@[simp] theorem State.pop_opAddrs (r n : Nat) : (s.pop p b q).opAddrs i r n = s.opAddrs i r n := rfl
@[simp] theorem State.launchMover_op : (s.launchMover p b d busy w).1 = s.newOp p b 2 d 0 w := rfl
@[simp] theorem State.launchMover_pop : ((s.pop p b 2).launchMover p b d busy w).2 = s.moverStarts p b d busy w [] := rfl
@[simp] theorem State.launchMover_mended : (((s.pop p b 2).mended0 l).launchMover p b d busy w).2 = s.moverStarts p b d busy w l := rfl

@[simp] theorem State.moverStarts_packHandle : (s.moverStarts p b d busy w l).packHandle i e = s.packHandle i e := State.moverStarts_handle i _

end Launch

/-- The words ws of an operation go to a store: to tier 1 as units at its pseudo-channels, and for tiers 2 and 3 they are kept until the port returns. -/
def State.storeWords (s : State) (b : Nat) (o : Op) (ws : List (Nat × Word)) (tier : Nat) : State :=
  match tier with
  | 1 => s.presentWrites b o (keyOf o.desc) ws
  | _ => s.setBlock b ((s.block b).putOp { o with work := .vector ws none })

theorem State.storeWords_ne_one {s : State} {b tier : Nat} {o : Op} {ws : List (Nat × Word)} (h : tier ≠ 1) :
    s.storeWords b o ws tier = s.setBlock b ((s.block b).putOp { o with work := .vector ws none }) := by
  unfold State.storeWords
  split
  · exact absurd rfl h
  · rfl

section Stores
variable {s : State} {p b busy tier : Nat} {d : Desc} {w : Work} {l : List Nat} {ws : List (Nat × Word)} (h : s.partOf b = some p)
include h

/-- Words that go to tier 1 wait as units, and those kept for a port are what the operation has to do. -/
theorem State.storeWords_tier1 (ht : tier = 1) :
    MoverTakes s ((s.moverStarts p b d busy w l).storeWords b (s.newOp p b 2 d 0 w) ws tier) p b d busy w
      ∧ WritesWait s ((s.moverStarts p b d busy w l).storeWords b (s.newOp p b 2 d 0 w) ws tier) b d ws := by
  subst ht
  exact ⟨moverTakes_of_block (State.moverStarts_takes h) (State.presentWrites_block ..) (State.presentWrites_mem ..),
    State.presentWrites_writesWait (State.moverStarts_now h) rfl⟩

theorem State.storeWords_port (ht : tier ≠ 1) :
    MoverTakes s ((s.moverStarts p b d busy w l).storeWords b (s.newOp p b 2 d 0 w) ws tier) p b d busy (.vector ws none) := by
  rw [State.storeWords_ne_one ht]
  exact moverTakes_putOp (State.moverStarts_takes h) _

end Stores

/-! ## COPY (R191 to R195) -/

section Copy
variable {b : Fin 256} {s : State} {p : Nat} {d : Desc} (hr : Ready s b.val 2 p d (s.copyCauses b.val p d)) (ho : opcode d = 0x50)
include hr ho

theorem execCopy_street (h1 : hOnBlock (s.handle p (opHandle (opnd d 1))) = true) (h0 : hOnBlock (s.handle p (opHandle (opnd d 0))) = true) :
    execCopy b s = .next ((s.moverStarts p b.val d (ceilDiv (rowWords d * rowCount d) 2) (.transfer (rowWords d * rowCount d)) []).sendWords p b.val
      (s.newOp p b.val 2 d 0 (.transfer (rowWords d * rowCount d))) ((s.moverAddrs p d 0).zip ((s.moverAddrs p d 1).map s.readWord))) := by
  unfold execCopy
  rw [issue_of_ready hr (by simp [ho])]
  simp [h1, h0, State.moverStarts_readWord (ready_partOf hr)]

theorem execCopy_store (h1 : hOnBlock (s.handle p (opHandle (opnd d 1))) = true) (h0 : hOnBlock (s.handle p (opHandle (opnd d 0))) = false)
    (hc : (readRun s.mem (s.moverAddrs p d 1)).failed = none) :
    execCopy b s = .next (
      (s.moverStarts p b.val d (ceilDiv (rowWords d * rowCount d) 2) (.transfer (rowWords d * rowCount d)) (readRun s.mem (s.moverAddrs p d 1)).mended).storeWords
        b.val (s.newOp p b.val 2 d 0 (.transfer (rowWords d * rowCount d))) ((s.moverAddrs p d 0).zip (readRun s.mem (s.moverAddrs p d 1)).words)
        (tierOf (hAddr (s.handle p (opHandle (opnd d 0))) 0))) := by
  unfold execCopy
  rw [issue_of_ready hr (by simp [ho])]
  simp only [h1, h0, endTier, Bool.false_eq_true, and_false, if_true, if_false, State.pop_handle, State.pop_moverAddrs, State.pop_mem,
    State.readSource_clean (s := s.pop p b.val 2) hc, State.launchMover_op, State.launchMover_mended, State.mended0_newOp, State.pop_newOp]
  rfl

theorem execCopy_load (h1 : hOnBlock (s.handle p (opHandle (opnd d 1))) = false) :
    execCopy b s = .next (
      if tierOf (hAddr (s.handle p (opHandle (opnd d 1))) 0) = 1 then
        (s.moverStarts p b.val d (max 1 (ceilDiv (rowWords d * rowCount d) 32)) (.transfer (rowWords d * rowCount d)) []).presentReads b.val
          (s.newOp p b.val 2 d 0 (.transfer (rowWords d * rowCount d))) (keyOf d) ((s.moverAddrs p d 1).zip (s.moverAddrs p d 0))
      else s.moverStarts p b.val d (max 1 (ceilDiv (rowWords d * rowCount d) 32)) (.transfer (rowWords d * rowCount d)) []) := by
  unfold execCopy
  rw [issue_of_ready hr (by simp [ho])]
  simp [endTier, h1]

end Copy

/-! ## FILL (R195) -/

section Fill
variable {b : Fin 256} {s : State} {p : Nat} {d : Desc} (hr : Ready s b.val 2 p d (s.fillCauses p d)) (ho : opcode d = 0x54)
include hr ho

theorem execFill_street (h0 : hOnBlock (s.handle p (opHandle (opnd d 0))) = true) :
    execFill b s = .next ((s.moverStarts p b.val d (ceilDiv (rowWords d * rowCount d) 2) (.transfer (rowWords d * rowCount d)) []).sendWords p b.val
      (s.newOp p b.val 2 d 0 (.transfer (rowWords d * rowCount d))) ((s.moverAddrs p d 0).map (fun a => (a, s.readWord ((s.opAddrs p (opnd d 1) 1).headD 0))))) := by
  unfold execFill
  rw [issue_of_ready hr (by simp [ho])]
  simp [endTier, h0, State.moverStarts_readWord (ready_partOf hr)]

theorem execFill_store (h0 : hOnBlock (s.handle p (opHandle (opnd d 0))) = false) (ht : tierOf (hAddr (s.handle p (opHandle (opnd d 0))) 0) ≠ 0)
    (hc : (readRun s.mem (s.opAddrs p (opnd d 1) 1)).failed = none) :
    execFill b s = .next (
      (s.moverStarts p b.val d (max 1 (ceilDiv (rowWords d * rowCount d) 32)) (.transfer (rowWords d * rowCount d)) (readRun s.mem (s.opAddrs p (opnd d 1) 1)).mended).storeWords
        b.val (s.newOp p b.val 2 d 0 (.transfer (rowWords d * rowCount d)))
        ((s.moverAddrs p d 0).map (fun a => (a, (readRun s.mem (s.opAddrs p (opnd d 1) 1)).words.headD 0)))
        (tierOf (hAddr (s.handle p (opHandle (opnd d 0))) 0))) := by
  unfold execFill
  rw [issue_of_ready hr (by simp [ho])]
  simp only [h0, ht, endTier, Bool.false_eq_true, if_false, State.pop_handle, State.pop_moverAddrs, State.pop_opAddrs, State.pop_mem,
    State.readSource_clean (s := s.pop p b.val 2) hc, State.launchMover_op, State.launchMover_mended, State.mended0_newOp, State.pop_newOp]
  rfl

end Fill

/-! ## WSTREAM (R202) -/

section Stream
variable {b : Fin 256} {s : State} {p : Nat} {d : Desc} (hr : Ready s b.val 2 p d (s.streamCauses b.val p d)) (ho : opcode d = 0x51)
include hr ho

theorem execWstream_starts :
    execWstream b s = .next (
      if endTier (s.packHandle p d) = 1 then
        (s.moverStarts p b.val d (4 + 4 * packCount d) (.stream { left := 128 * packCount d }) []).askStream p b.val
          (s.newOp p b.val 2 d 0 (.stream { left := 128 * packCount d })) { left := 128 * packCount d } [0] 84
      else s.moverStarts p b.val d (4 + 4 * packCount d) (.stream { left := 128 * packCount d }) []) := by
  unfold execWstream
  rw [issue_of_ready hr (by simp [ho])]
  simp

end Stream

/-- The header of a stream that begins in its handle is asked for, and the stream is in flight. -/
theorem State.askStream_asks {s t : State} {p b busy n : Nat} {d : Desc} (h : s.partOf b = some p) (hin : opOffset (opnd d 1) < hSize (s.packHandle p d))
    (ht : t = (s.moverStarts p b d busy (.stream { left := n }) []).askStream p b (s.newOp p b 2 d 0 (.stream { left := n })) { left := n } [0] 84) :
    MoverTakes s t p b d busy (.stream { left := n, asked := 1 })
      ∧ Waits t { stream := streamOf d, addr := hAddr (s.packHandle p d) (opOffset (opnd d 1)), count := 1, opBlock := b, opId := s.opCount + 1, present := s.now + 84,
                  key := keyOf d } := by
  have hin' : opOffset (opnd d 1) < hSize ((s.moverStarts p b d busy (.stream { left := n }) []).packHandle p d) := by
    rwa [State.moverStarts_packHandle]
  rw [State.askStream_header (o := s.newOp p b 2 d 0 (.stream { left := n })) hin', State.moverStarts_packHandle, State.moverStarts_now h] at ht
  subst ht
  exact ⟨moverTakes_of_block (moverTakes_putOp (State.moverStarts_takes h) _) rfl rfl, State.presentUnit_waits _ _⟩

/-! ## GATHER and SCATTER (R238) -/

section Frames
variable {b : Fin 256} {s : State} {p : Nat} {d : Desc}

theorem execGather_presents (hr : Ready s b.val 2 p d (s.kindCauses p (opnd d 0) ++ s.kvCauses p d)) (ho : opcode d = 0x52) :
    execGather b s = .next (
      (s.moverStarts p b.val d (max 1 (ceilDiv (nslot d * gatherNG d * kvWords d) 32)) (.transfer (nslot d * gatherNG d * kvWords d)) []).presentAll
        ((List.range (nslot d * gatherNG d * kvWords d / 4)).map (s.gatherUnit p b.val (s.opCount + 1) d))) := by
  unfold execGather
  rw [issue_of_ready hr (by simp [ho])]
  rfl

theorem execScatter_presents (hr : Ready s b.val 2 p d (s.kindCauses p (opnd d 1) ++ s.kvCauses p d)) (ho : opcode d = 0x53)
    (hc : (readRun s.mem (s.opAddrs p (opnd d 1) (nslot d * scatterNA d * kvWords d))).failed = none) :
    execScatter b s = .next (
      (s.moverStarts p b.val d (ceilDiv (nslot d * scatterNA d * kvWords d) 2) (.transfer (nslot d * scatterNA d * kvWords d))
        (readRun s.mem (s.opAddrs p (opnd d 1) (nslot d * scatterNA d * kvWords d))).mended).presentAll
        ((List.range (nslot d * scatterNA d * kvWords d / 4)).map (s.scatterUnit p b.val (s.opCount + 1) d
          (readRun s.mem (s.opAddrs p (opnd d 1) (nslot d * scatterNA d * kvWords d))).words))) := by
  unfold execScatter
  rw [issue_of_ready hr (by simp [ho])]
  simp only [State.pop_opAddrs, State.readSource_clean (s := s.pop p b.val 2) hc, State.launchMover_op, State.mended0_newOp, State.pop_newOp]
  rfl

theorem execSend_sends {j : Nat} (hr : Ready s b.val 2 p d (s.sendCauses p d)) (ho : opcode d = 0x60) (hj : s.jobOf p = some j) :
    execSend b s = .next (
      (s.moverStarts p b.val d (ceilDiv (sendWords d) 2) (.transfer (ceilDiv (sendWords d) 16)) []).sendPackets
        ((List.range (ceilDiv (sendWords d) 16)).map (s.sendPacket p j d (ceilDiv (sendWords d) 16) ((s.opAddrs p (opnd d 1) (sendWords d)).map s.readWord)))
        (some (b.val, s.opCount + 1)) none) := by
  have hj' : j = (s.jobOf p).getD 0 := by simp [hj]
  unfold execSend
  rw [issue_of_ready hr (by simp [ho]), hj']
  rfl

end Frames

/-- Settles O16: each command starts its operation (`moverStarts_takes`), and then its words go on the streets, its units to the pseudo-channels, or its packets to
the fabric. -/
theorem moverCommandsRun : Obligations.MoverCommandsRun := by
  refine ⟨?_, ?_, ?_, ?_, ?_, ?_, ?_, ?_, ?_, ?_, ?_, ?_, ?_⟩
  · rintro b s p d hr ho ⟨h1, h0⟩
    have hp := ready_partOf hr
    exact ⟨_, execCopy_street hr ho h1 h0, moverTakes_sendWords (State.moverStarts_takes hp) _ _,
      State.sendWords_onStreets (State.moverStarts_now hp) (State.moverStarts_lcycle hp) rfl⟩
  · rintro b s p d hr ho ⟨h1, h0⟩ hc ht
    exact ⟨_, execCopy_store hr ho h1 h0 hc, State.storeWords_tier1 (ready_partOf hr) ht⟩
  · rintro b s p d hr ho ⟨h1, h0⟩ hc ht
    exact ⟨_, execCopy_store hr ho h1 h0 hc, State.storeWords_port (ready_partOf hr) ht⟩
  · intro b s p d hr ho h1 ht
    have hp := ready_partOf hr
    refine ⟨_, (execCopy_load hr ho h1).trans (congrArg _ (if_pos ht)), ?_, State.presentReads_waitsFrom (State.moverStarts_now hp) rfl⟩
    exact moverTakes_of_block (State.moverStarts_takes hp) (State.presentReads_block ..) (State.presentReads_mem ..)
  · intro b s p d hr ho h1 ht
    exact ⟨_, (execCopy_load hr ho h1).trans (congrArg _ (if_neg ht)), State.moverStarts_takes (ready_partOf hr)⟩
  · intro b s p d hr ho h0
    have hp := ready_partOf hr
    exact ⟨_, execFill_street hr ho h0, moverTakes_sendWords (State.moverStarts_takes hp) _ _,
      State.sendWords_onStreets (State.moverStarts_now hp) (State.moverStarts_lcycle hp) rfl⟩
  · rintro b s p d hr ho ⟨h0, ht⟩ hc
    exact ⟨_, execFill_store hr ho h0 (by omega) hc, State.storeWords_tier1 (ready_partOf hr) ht⟩
  · rintro b s p d hr ho ⟨h0, ht⟩ hc
    exact ⟨_, execFill_store hr ho h0 (by omega) hc, State.storeWords_port (ready_partOf hr) (by omega)⟩
  · intro b s p d hr ho ht hin
    exact ⟨_, (execWstream_starts hr ho).trans (congrArg _ (if_pos ht)), State.askStream_asks (ready_partOf hr) hin rfl⟩
  · intro b s p d hr ho ht
    exact ⟨_, (execWstream_starts hr ho).trans (congrArg _ (if_neg ht)), State.moverStarts_takes (ready_partOf hr)⟩
  · intro b s p d hr ho
    refine ⟨_, execGather_presents hr ho, ?_, fun x hx => State.presentAll_waits (List.mem_map.mpr ⟨x, List.mem_range.mpr hx, rfl⟩)⟩
    exact moverTakes_of_block (State.moverStarts_takes (ready_partOf hr)) (State.presentAll_block ..) (State.presentAll_mem ..)
  · intro b s p d hr ho hc
    refine ⟨_, execScatter_presents hr ho hc, ?_, fun x hx => State.presentAll_waits (List.mem_map.mpr ⟨x, List.mem_range.mpr hx, rfl⟩)⟩
    exact moverTakes_of_block (State.moverStarts_takes (ready_partOf hr)) (State.presentAll_block ..) (State.presentAll_mem ..)
  · intro b s p j d hr ho hj
    refine ⟨_, execSend_sends hr ho hj, ?_, fun i hi => State.sendPackets_waits (List.mem_map.mpr ⟨i, List.mem_range.mpr hi, rfl⟩)⟩
    exact moverTakes_of_block (State.moverStarts_takes (ready_partOf hr)) (State.sendPackets_block ..) (State.sendPackets_mem ..)

end Sys2Proof.Machine
end

section
/-! PROOFS. MMA, ACC_START, ACC_LOAD and FOLD (O13). -/
namespace Sys2Proof.Machine

@[simp] theorem Block.putOp_bank (x : Block) (o : Op) (n : Nat) : (x.putOp o).bank n = x.bank n := rfl

/-! ## A matrix operation that has started (R71, R72, R74, R119) -/

/-- A matrix operation d of block b starts: it is in flight for `dur` cycles with w to do, its bank is changed by f and its tag cleared, and the engine is held for
`busy` cycles at the block period τ. -/
def State.startMatrix (u : State) (p b : Nat) (d : Desc) (dur busy τ : Nat) (w : Work) (f : Bank → Bank) : State :=
  let o := u.newOp p b 0 d dur w
  let v := u.launch p b o
  let k := (f ((v.block b).bank (bankBit d))).clearTag v.now (districtOf b) o.id
  v.setBlock b { (v.block b).setBank (bankBit d) k with matrixFree := v.cyclesOf b + busy, matrixTau := τ }

/-- The words of a bank that are written anew are no part of what a descriptor reads. -/
theorem State.Mended.wipeBank {s u : State} {p b q : Nat} (h : s.Mended u p b q) (c n : Nat) : s.Mended (u.wipeBank c n) p b q := h

/-- What starting a matrix operation does, from the state in which its head has left the queue and its source has been read. -/
theorem State.startMatrix_runs {s u : State} {p b dur busy τ : Nat} {d : Desc} {w : Work} {f : Bank → Bank} (hu : s.Mended u p b 0) (hp : s.partOf b = some p) :
    InFlight s (u.startMatrix p b d dur busy τ w f) b 0 d dur w
      ∧ ((u.startMatrix p b d dur busy τ w f).block b).matrixFree = s.cyclesOf b + busy
      ∧ ∃ now id, ((u.startMatrix p b d dur busy τ w f).block b).bank (bankBit d) = (f ((s.block b).bank (bankBit d))).clearTag now (districtOf b) id := by
  obtain ⟨⟨r, hblock⟩, hpart, hcycles, hcount, hmem, -⟩ := hu
  have hclock : ∀ o, (u.launch p b o).cyclesOf b = s.cyclesOf b := fun o => (State.launch_cyclesOf (hpart.trans hp)).trans hcycles
  have hbank : ∀ n, (u.block b).bank n = (s.block b).bank n := fun n => by rw [hblock]; simp [Block.bank, Block.setQueue]
  refine ⟨⟨?_, ?_, fun a => ?_⟩, ?_, (u.launch p b (u.newOp p b 0 d dur w)).now, u.opCount + 1, ?_⟩
  · simp [State.startMatrix, Block.queue, hblock, Block.setQueue]
  · simp [State.startMatrix, hblock, State.newOp, hcycles, hcount]
  · simp [State.startMatrix, State.readWord, hmem]
  · simp [State.startMatrix, hclock]
  · rw [← hbank]
    simp only [State.startMatrix, State.block_setBlock, State.launch_block]
    exact Block.setBank_bank ..

/-- One that starts its bank leaves it empty, with the descriptor's anchor (R39, R72). -/
theorem State.startMatrix_startsBank {s u : State} {p b dur busy τ : Nat} {d : Desc} {w : Work} (hu : s.Mended u p b 0) (hp : s.partOf b = some p) :
    let t := u.startMatrix p b d dur busy τ w (Bank.start · (anchorOf d))
    InFlight s t b 0 d dur w ∧ (t.block b).matrixFree = s.cyclesOf b + busy ∧ ((t.block b).bank (bankBit d)).started = true
      ∧ ((t.block b).bank (bankBit d)).anchor = anchorOf d ∧ ((t.block b).bank (bankBit d)).entries = [] := by
  obtain ⟨hrun, hfree, _, _, hk⟩ := State.startMatrix_runs hu hp
  exact ⟨hrun, hfree, congrArg Bank.started hk, congrArg Bank.anchor hk, congrArg Bank.entries hk⟩

/-! ## MMA (R64, R71) -/

/-- What an MMA does to its bank at issue: START begins it anew, and its K elements are counted (R39, R42). -/
def Bank.mmaIssued (k : Bank) (d : Desc) : Bank :=
  let k := if startBit d then k.start (anchorOf d) else k
  { k with ksteps := k.ksteps + mmaK d }

theorem Bank.mmaIssued_ksteps (k : Bank) (d : Desc) : (k.mmaIssued d).ksteps = (if startBit d then 0 else k.ksteps) + mmaK d := by
  unfold Bank.mmaIssued
  cases startBit d <;> rfl

theorem Bank.mmaIssued_anchor (k : Bank) (d : Desc) : (k.mmaIssued d).anchor = if startBit d then anchorOf d else k.anchor := by
  unfold Bank.mmaIssued
  cases startBit d <;> rfl

/-- A head that leaves its queue leaves the check bits of every word of a bank (R211, R219). -/
theorem State.pop_flawFails (s : State) (p b q c n w : Nat) (hw : w ≤ 10240) : (s.pop p b q).flawFails (accDpa c n w) = s.flawFails (accDpa c n w) := by
  have hne : accDpa c n w ≠ flawQueue b q := by
    simp only [accDpa, flawQueue, place, Nat.shiftLeft_eq]
    omega
  have hget : (s.pop p b q).flaws.get 0 (accDpa c n w) = s.flaws.get 0 (accDpa c n w) := Table.get_del_ne hne
  simp only [State.flawFails, hget]

theorem execMma_starts {b : Fin 256} {s : State} {p : Nat} {d : Desc} (hr : Ready s b.val 0 p d (mmaCauses s b.val d)) (ho : opcode d = 0)
    (hbank : startBit d = true ∨ ((s.block b.val).bank (bankBit d)).started = true)
    (hflaw : (if startBit d then none else s.flawFails (accDpa b.val (bankBit d) 10240)) = none) :
    execMma b s = .next ((if startBit d then (s.pop p b.val 0).wipeBank b.val (bankBit d) else s.pop p b.val 0).startMatrix p b.val d
      ((mmaG d + 1) * tauOf (mmaA d) (mmaB d) + 12) (mmaG d * tauOf (mmaA d) (mmaB d)) (tauOf (mmaA d) (mmaB d)) (.matrix [] [] 0 0) (Bank.mmaIssued · d)) := by
  have hstarted : (!startBit d && !(((s.pop p b.val 0).block b.val).bank (bankBit d)).started) = false := by
    rcases hbank with h | h <;> simp [h]
  rw [← State.pop_flawFails s p b.val 0 b.val _ _ (Nat.le_refl _)] at hflaw
  unfold execMma
  rw [issue_of_ready hr (by simp [ho])]
  simp only [hstarted, hflaw, Bool.false_eq_true, if_false]
  rfl

/-! ## ACC_START and ACC_LOAD (R72, R73) -/

section Accs
variable {b : Fin 256} {s : State} {p : Nat} {d : Desc} (hr : Ready s b.val 0 p d [])
include hr

theorem execAccStart_starts (ho : opcode d = 8) :
    execAccStart b s = .next (((s.pop p b.val 0).wipeBank b.val (bankBit d)).startMatrix p b.val d 4 4 0 .plain (Bank.start · (anchorOf d))) := by
  unfold execAccStart
  rw [issue_of_ready hr (by simp [ho])]
  rfl

theorem execAccLoad_starts {wp64 : Bool} {r : ReadRun} (ho : opcode d = 9) (hread : readRun s.mem (s.opAddrs p (opnd d 0) 1) = r) (hc : r.failed = none)
    (hh : accHeader s p d (r.words.headD 0) = .ok wp64) :
    execAccLoad b s = .next ((((s.pop p b.val 0).mended0 r.mended).wipeBank b.val (bankBit d)).startMatrix p b.val d
      (ceilDiv (wideWords wp64 (mmaM d * mmaN d)) 12 + 12) (ceilDiv (wideWords wp64 (mmaM d * mmaN d)) 12) 0 (.load wp64 []) (Bank.start · (anchorOf d))) := by
  have hheader : accHeader ((s.pop p b.val 0).mended0 r.mended) p d (r.words.headD 0) = .ok wp64 := by simpa [accHeader] using hh
  unfold execAccLoad
  rw [issue_of_ready hr (by simp [ho])]
  simp only [State.pop_opAddrs, State.pop_mem, hread, hc, hheader]
  rfl

end Accs

/-- The last words of a buffer bring its elements into the bank (R73). -/
theorem State.takeReads_loads {s : State} {p b : Nat} {o : Op} {wp64 : Bool} {part ws : List Word} (hw : o.work = .load wp64 part)
    (hl : (part ++ ws).length = wideWords wp64 (mmaM o.desc * mmaN o.desc)) :
    ((s.takeReads p b o ws).block b).bank (bankBit o.desc) = ((s.block b).bank (bankBit o.desc)).loadWide o.desc wp64 (part ++ ws) := by
  simp [State.takeReads, hw, hl]

/-! ## FOLD (R40, R59, R211) -/

/-- A due K-block whose bank reads clean is folded into it. -/
theorem execFold_folds {b : Fin 256} {s u : State} {o : Op} {g n : Nat} {w : List Word} {ws : List (List Word)} (hl : s.live = true)
    (hu : s.stageBlock b.val = u) (hd : u.foldDue b.val = some (o, g, w, ws, n))
    (hc : u.flawRun (u.accFlaws b.val (bankBit o.desc) (mmaM o.desc) (mmaN o.desc)) = ([], none)) :
    execFold b s = .next (u.setBlock b.val
      (((u.block b.val).setBank (bankBit o.desc) (foldBlock o.desc g w ((u.block b.val).bank (bankBit o.desc)))).putOp
        { o with work := o.work.folded ws (g + 1) })) := by
  simp [execFold, hl, hu, hd, hc]

/-- Settles O13: each command starts its operation (`startMatrix_runs`), the last words of a buffer load the bank (`takeReads_loads`), and FOLD stores no word
(`exec_mem`). -/
theorem matrixCommandsRun : Obligations.MatrixCommandsRun := by
  refine ⟨?_, ?_, ?_, ?_, ?_⟩
  · intro b s p d hr ho hbank hflaw
    have hu : s.Mended (if startBit d then (s.pop p b.val 0).wipeBank b.val (bankBit d) else s.pop p b.val 0) p b.val 0 := by
      split
      · exact (State.Mended.pop s p b.val 0).wipeBank ..
      · exact State.Mended.pop s p b.val 0
    obtain ⟨hrun, hfree, _, _, hk⟩ := State.startMatrix_runs hu (ready_partOf hr)
    exact ⟨_, execMma_starts hr ho hbank hflaw, hrun, hfree,
      (congrArg Bank.ksteps hk).trans (Bank.mmaIssued_ksteps ..), (congrArg Bank.anchor hk).trans (Bank.mmaIssued_anchor ..)⟩
  · intro b s p d hr ho
    exact ⟨_, execAccStart_starts hr ho, State.startMatrix_startsBank ((State.Mended.pop s p b.val 0).wipeBank ..) (ready_partOf hr)⟩
  · intro b s p d wp64 hr ho hc hh
    exact ⟨_, execAccLoad_starts hr ho rfl hc hh, State.startMatrix_startsBank (((State.Mended.pop s p b.val 0).more _).wipeBank ..) (ready_partOf hr)⟩
  · intro s p b o wp64 part ws hw hl
    rw [State.takeReads_loads hw hl]
    rfl
  · intro b s o g n w ws hl hd hc
    have he : exec (.fold b) s = _ := execFold_folds hl rfl hd hc
    exact ⟨_, he, by simp, fun c hne => State.block_setBlock_ne _ hne _, fun a => congrArg (·.read a) (exec_mem rfl he)⟩

end Sys2Proof.Machine
end

section
/-! PROOFS. The completion of operations and the delivery of summary records (O18). -/
namespace Sys2Proof.Machine

/-! ## Operations of the four queues (R71, R74, R195, R237, R355) -/

section Queues
variable {b : Fin 256} {s : State} {o : Op} {l : List Op}

theorem execMatrixCompletion_completes (h : s.dueOps b.val (fun o => o.queue == 0 && o.folded) = o :: l) :
    execMatrixCompletion b s = .next (
      let k := (s.block b.val).bank (bankBit o.desc)
      (if k.tag.writer = o.id then
         s.setBlock b.val ((s.block b.val).setBank (bankBit o.desc) { k with tag := k.tag.change true s.now (districtOf b.val) o.id }) else s).completeOp
        (s.ownerOf b.val) b.val o []) := by
  simp only [execMatrixCompletion, h]

theorem execMoverCompletion_completes (h : s.dueOps b.val (fun o => o.moved && decide (opcode o.desc ≤ 0x60)) = o :: l) :
    execMoverCompletion b s = .next (s.completeOp (s.ownerOf b.val) b.val o (dests o.desc)) := by
  simp only [execMoverCompletion, h]

theorem execServingCompletion_completes {p : Fin 64} {c : Nat} {ws : List (Nat × Word)} (hl : s.live = true) (h : s.dueServing p.val = some (c, o))
    (hw : o.work = .serving ws) :
    execServingCompletion p s = .next ((s.writeWords ws).completeOp p.val c o (dests o.desc)) := by
  simp [execServingCompletion, hl, h, hw]

/-- A fenced partition stops its collectives (R355), so a collective completes in any other only. -/
theorem execCollectiveCompletion_completes (hf : (s.part (s.ownerOf b.val)).stepState ≠ .fenced)
    (h : s.dueOps b.val (fun o => (s.coll o.id).any (fun c => c.done && c.block == b.val)) = o :: l) :
    execCollectiveCompletion b s = .next (({ s with colls := s.colls.del o.id } : State).completeOp (s.ownerOf b.val) b.val o (dests o.desc)) := by
  simp only [execCollectiveCompletion, if_neg hf, h]

end Queues

/-! ## Completions that post a record (R102, R104, R106) -/

section Posting
variable {s : State} {p b : Nat} {o : Op} {finish : State → State}

/-- With a place for its record and no earlier completion held, a completion that sets its flag posts its record. -/
theorem State.completePosting_posts {r : Word} {x : Part} (hn : (s.block b).summaries.length < 4)
    (he : (s.block b).inflight.any (fun y => y.heldRecord && decide (y.id < o.id)) = false) (hx : setFlagOf (s.part p) s.now b o.queue o.desc = .ok x) :
    s.completePosting p b o (some r) finish = (finish s).postSummary b r := by
  have hfree : ¬(4 ≤ (s.block b).summaries.length ∨ (s.block b).inflight.any (fun y => y.heldRecord && decide (y.id < o.id)) = true) :=
    not_or.2 ⟨Nat.not_le.2 hn, ne_true_of_eq_false he⟩
  simp only [State.completePosting, if_neg hfree, hx]

theorem State.finishVector_writes (hr : o.record = none) :
    s.finishVector b o = ((s.useBanks b ((o.vecWrites.map Prod.fst).drop (16 * (ceilDiv o.vecWrites.length 16 - 1)))).writeWords o.vecWrites).completeOp
      (s.ownerOf b) b o (dests o.desc) := by
  simp only [State.finishVector, hr, State.completePosting, List.length_map]

theorem State.finishVector_posts {r : Word} {x : Part} (hr : o.record = some r) (hn : (s.block b).summaries.length < 4)
    (he : (s.block b).inflight.any (fun y => y.heldRecord && decide (y.id < o.id)) = false)
    (hx : setFlagOf (s.part (s.ownerOf b)) s.now b o.queue o.desc = .ok x) :
    s.finishVector b o = (((s.useBanks b ((o.vecWrites.map Prod.fst).drop (16 * (ceilDiv o.vecWrites.length 16 - 1)))).writeWords o.vecWrites).completeOp
      (s.ownerOf b) b o (dests o.desc)).postSummary b r := by
  simp only [State.finishVector, hr, State.completePosting_posts hn he hx, List.length_map]

end Posting

section Vector
variable {b : Fin 256} {s : State} {o : Op} {l : List Op}

theorem execVectorCompletion_finishes (h : s.dueOps b.val (fun o => o.queue == 1 && !o.heldRecord) = o :: l) :
    execVectorCompletion b s = .next (s.finishVector b.val o) := by
  simp only [execVectorCompletion, h]

theorem execSummaryHoldRelease_finishes (hl : s.live = true) (h : (s.block b.val).inflight.filter Op.heldRecord = o :: l) :
    execSummaryHoldRelease b s = .next (s.finishVector b.val o) := by
  simp [execSummaryHoldRelease, hl, h]

end Vector

/-! ## The queue of the lead core (R106, R170) -/

theorem State.leadCore_setBlock (s : State) (i p : Nat) (x : Block) : (s.setBlock i x).leadCore p = s.leadCore p := rfl

/-- The block's oldest record is delivered when it is there, no record posted before it is there, and the queue has room. -/
theorem execSummaryDelivery_delivers {b : Fin 256} {s : State} {p n : Nat} {r : Word} {rest : List (Word × Nat)} (hl : s.live = true)
    (hp : s.partOf b.val = some p) (hs : (s.block b.val).summaries = (r, n) :: rest) (ht : s.recordThere b.val (s.part p).lead = true)
    (hb : (mapBlocks (s.part p).blockMap).any (fun c =>
      (decide (s.postedAt c < s.postedAt b.val) || s.postedAt c == s.postedAt b.val && decide (c < b.val)) && s.recordThere c (s.part p).lead) = false)
    (hm : (s.part p).routine.mailbox.length < 64) :
    execSummaryDelivery b s = .next (
      let t := (s.setBlock b.val { s.block b.val with summaries := rest }).setPart p { s.part p with routine :=
        { (s.part p).routine with mailbox := (s.part p).routine.mailbox ++ [r] } }
      if (s.part p).routine.mailbox = [] then t.raise (s.leadCore p) 16 else t) := by
  unfold execSummaryDelivery
  simp only [hl, hp, hs, ht, hb, hm, Bool.not_true, Bool.not_false, Bool.and_true, Bool.false_eq_true, decide_true, if_false, if_true,
    List.isEmpty_iff, State.leadCore_setBlock]

/-- Settles O18: each completion under its conditions; a vector operation whose record was held completes as any other that posts one. -/
theorem operationsComplete : Obligations.OperationsComplete := by
  refine ⟨?_, ?_, ?_, ?_, ?_, ?_, ?_⟩
  · intro b s o l h
    exact execMatrixCompletion_completes h
  · intro b s o l h
    exact ⟨execVectorCompletion_finishes h, State.finishVector_writes⟩
  · intro b s o l r x hl h hr hn he hx
    exact (execSummaryHoldRelease_finishes hl h).trans (congrArg _ (State.finishVector_posts hr hn he hx))
  · intro b s p n r rest hl hp hs ht hb hm
    exact execSummaryDelivery_delivers hl hp hs ht hb hm
  · intro b s o l h
    exact execMoverCompletion_completes h
  · intro p s b o ws hl h hw
    exact execServingCompletion_completes hl h hw
  · intro b s o l hf h
    exact execCollectiveCompletion_completes hf h

end Sys2Proof.Machine
end

section
/-! PROOFS. The 25 vector commands (O14). -/
namespace Sys2Proof.Machine

/-! ## The words of a bank, read after a head has left its queue (R211, R219) -/

/-- A filter that refuses a key does not see its entry deleted. -/
theorem Table.keys_del_filter {α : Type} {f : Nat → Bool} {i : Nat} (hi : f i = false) : ∀ t : Table α, (t.del i).keys.filter f = t.keys.filter f
  | [] => rfl
  | (k, v) :: t => by
    have ih : (Table.keys (Table.del t i)).filter f = (Table.keys t).filter f := Table.keys_del_filter hi t
    unfold Table.del
    split
    · next h => subst h; simp [Table.keys, hi]
    · simp only [Table.keys, List.map_cons, List.filter_cons] at ih ⊢
      rw [ih]

/-- The number of the head of a queue is that of no word of a bank. -/
theorem flawQueue_notBank (b q c n x y : Nat) :
    (decide (accDpa c n 0 ≤ flawQueue b q ∧ flawQueue b q < accDpa c n 0 + 2 ^ 23) && accTouched x y (flawQueue b q - accDpa c n 0)) = false := by
  have h : accDpa c n 0 + 2 ^ 23 ≤ flawQueue b q := by
    simp only [accDpa, flawQueue, place, Nat.shiftLeft_eq]
    omega
  rw [decide_eq_false fun hk => Nat.not_lt.2 h hk.2, Bool.false_and]

theorem State.flawRun_congr {s u : State} : ∀ {l : List Nat}, (∀ k ∈ l, u.flaws.get 0 k = s.flaws.get 0 k) → u.flawRun l = s.flawRun l
  | [], _ => rfl
  | k :: t, h => by
    have ht : u.flawRun t = s.flawRun t := State.flawRun_congr fun j hj => h j (List.mem_cons_of_mem _ hj)
    simp only [State.flawRun, h k List.mem_cons_self, ht]

theorem State.pop_flaws (s : State) (p b q : Nat) : (s.pop p b q).flaws = s.flaws.del (flawQueue b q) := rfl

@[simp] theorem State.pop_accFlaws (s : State) (p b q c n x y : Nat) : (s.pop p b q).accFlaws c n x y = s.accFlaws c n x y := by
  unfold State.accFlaws
  rw [State.pop_flaws]
  apply Table.keys_del_filter
  exact flawQueue_notBank b q c n x y

theorem State.pop_flawRun (s : State) (p b q c n x y : Nat) : (s.pop p b q).flawRun (s.accFlaws c n x y) = s.flawRun (s.accFlaws c n x y) := by
  refine State.flawRun_congr fun k hk => Table.get_del_ne fun he => ?_
  obtain ⟨-, hword⟩ := List.mem_filter.1 (he ▸ hk)
  exact Bool.false_ne_true ((flawQueue_notBank b q c n x y).symm.trans hword)

@[simp] theorem State.mended0_accFlaws (s : State) (l : List Nat) (b n x y : Nat) : (s.mended0 l).accFlaws b n x y = s.accFlaws b n x y := by
  simp only [State.accFlaws, State.mended0_flaws]

@[simp] theorem State.mended0_flawRun (s : State) (l ks : List Nat) : (s.mended0 l).flawRun ks = s.flawRun ks :=
  State.flawRun_congr fun k _ => by rw [State.mended0_flaws]

/-! ## A source that has been read (R83, R215) -/

section Mended
variable {s u : State} {p b q : Nat} (h : s.Mended u p b q)
include h

theorem State.Mended.count (i v n : Nat) : s.Mended (u.count i v n) p b q := by
  simpa [State.Mended, State.block, State.partOf, State.cyclesOf, State.part, State.wallOf, State.district] using h

theorem State.Mended.objNat (i v : Nat) : u.objNat i v = s.objNat i v := by
  obtain ⟨-, -, -, -, -, -, -, hobjects, -⟩ := h
  simp only [State.objNat, State.obj, hobjects]

theorem State.Mended.accFail (i : Nat) : u.accFail i = s.accFail i := by
  simp only [State.accFail, h.objNat]

theorem State.Mended.opAddrs (i r n : Nat) : u.opAddrs i r n = s.opAddrs i r n := by
  have hobj := h.objNat
  obtain ⟨-, -, -, -, -, -, hparts, -⟩ := h
  unfold State.opAddrs State.handle State.handleKey State.genFirst State.part
  rw [hobj, hparts]

end Mended

/-! ## A vector operation in flight (R102, R103, R119, R123) -/

/-- Vector operation d of block b has started: it has left its queue and is in flight with its result, the engine is held, and no word of memory has changed. -/
def VectorTakes (s t : State) (p b : Nat) (d : Desc) (o : VecOut) : Prop :=
  ((t.block b).queue 1).descs = ((s.block b).queue 1).descs.tail
    ∧ (∃ x ∈ (t.block b).inflight, x.desc = d ∧ x.queue = 1
        ∧ x.vecWrites = (s.opAddrs p (opnd d 0) o.dest.length).zip o.dest ++ (s.opAddrs p (opnd d 3) o.sums.length).zip o.sums)
    ∧ (t.block b).vectorFree = s.cyclesOf b + vecBusy d ∧ ∀ a, t.readWord a = s.readWord a

/-- What launching a vector operation does, from the state in which its head has left the queue and its source has been read. -/
theorem State.launchVector_takes {s u : State} {p b : Nat} {d : Desc} {o : VecOut} (hu : s.Mended u p b 1) (hp : s.partOf b = some p) :
    VectorTakes s (u.launchVector p b d o) p b d o := by
  have haddrs := hu.opAddrs
  obtain ⟨⟨r, hblock⟩, hpart, hcycles, -, hmem, -⟩ := hu
  have hclock : ∀ x, (u.launch p b x).cyclesOf b = s.cyclesOf b := fun x => (State.launch_cyclesOf (hpart.trans hp)).trans hcycles
  refine ⟨?_, ?_, ?_, fun a => ?_⟩
  · simp [State.launchVector, Block.queue, hblock, Block.setQueue]
  · simp only [State.launchVector, State.block_setBlock, State.launch_block, haddrs]
    exact ⟨_, List.mem_append_right _ (List.mem_singleton.mpr rfl), rfl, rfl, rfl⟩
  · simp [State.launchVector, hclock]
  · simp [State.launchVector, State.readWord, hmem]

/-! ## Issue -/

/-- The words of the bank that a vector descriptor reads: those mended, and the first that fails (R87, R211). -/
def State.bankReads (s : State) (b : Nat) (d : Desc) : List Nat × Option (Nat × Status × Check) :=
  if (readsBank d).isSome then s.flawRun (s.accFlaws b (bankBit d) (vecRows d) (vecRow d)) else ([], none)

/-- A bank reads after the head has left its queue and the operands have been mended as it reads before. -/
theorem State.bankReads_popMended (s : State) (p b q : Nat) (d : Desc) (l : List Nat) : ((s.pop p b q).mended0 l).bankReads b d = s.bankReads b d := by
  simp only [State.bankReads, State.mended0_flawRun, State.mended0_accFlaws, State.pop_accFlaws, State.pop_flawRun]

theorem State.bankReads_clean {s : State} {b : Nat} {d : Desc}
    (h : readsBank d = none ∨ (s.flawRun (s.accFlaws b (bankBit d) (vecRows d) (vecRow d))).2 = none) : (s.bankReads b d).2 = none := by
  unfold State.bankReads
  split
  · next hsome => exact h.resolve_left (Option.isSome_iff_ne_none.mp hsome)
  · rfl

/-- The state in which a vector descriptor has left its queue and its operands and its bank have been read, the mended words counted. -/
def State.vectorSourced (s : State) (p b : Nat) (d : Desc) : State :=
  let u := (s.pop p b 1).mended0 (vectorRead s p d).mended
  if (u.bankReads b d).1.isEmpty then u else u.count 0x9400 0x01 (u.bankReads b d).1.length

theorem State.Mended.vectorSourced (s : State) (p b : Nat) (d : Desc) : s.Mended (s.vectorSourced p b d) p b 1 := by
  have h : s.Mended ((s.pop p b 1).mended0 (vectorRead s p d).mended) p b 1 := (State.Mended.pop s p b 1).more _
  unfold State.vectorSourced
  dsimp only
  split
  · exact h
  · exact h.count ..

/-- A descriptor that issues is launched with its result once its operands have been read. -/
theorem State.issueVector_launches {r : (Fin 256 → Instr) × (Desc → Bool) × (VecArgs → Except Status VecOut)} {b : Nat} {s : State} {p : Nat} {d : Desc} {o : VecOut}
    (h : VectorIssues r b s p d o) : s.issueVector b r.2.1 r.2.2 = (s.vectorSourced p b d).launchVector p b d o := by
  obtain ⟨hr, hw, hstarted, hread, hbank, hres, hpolicy⟩ := h
  have hopen : ((readsBank d).isSome && !((s.block b).bank (bankBit d)).started) = false := by
    rcases hstarted with h | h <;> simp [h]
  have hclean : (((s.pop p b 1).mended0 (vectorRead s p d).mended).bankReads b d).2 = none := by
    rw [State.bankReads_popMended]
    exact State.bankReads_clean hbank
  have hallowed := (congrArg (o.policy && ·) ((State.Mended.vectorSourced s p b d).accFail p)).trans hpolicy
  simp only [vectorRead, vectorArgs, State.bankReads] at hread hres hclean
  unfold State.issueVector
  rw [issue_of_ready hr hw]
  simp only [State.pop_mem, State.pop_opAddrs, State.pop_block, Block.setQueue_bank, hopen, hread, hclean, hres, Bool.false_eq_true, if_false]
  exact if_neg (ne_true_of_eq_false hallowed)

/-- What each vector command does: it issues a descriptor of its row, with the result of its row. -/
theorem exec_vectorRow (b : Fin 256) (s : State) : ∀ r ∈ vectorRows, exec (r.1 b) s = .next (s.issueVector b.val r.2.1 r.2.2) := by
  simp only [vectorRows, List.forall_mem_cons]
  exact ⟨rfl, rfl, rfl, rfl, rfl, rfl, rfl, rfl, rfl, rfl, rfl, rfl, rfl, rfl, rfl, rfl, rfl, rfl, rfl, rfl, rfl, rfl, rfl, rfl, rfl, fun _ h => nomatch h⟩

/-- Settles O14: every command issues its row's descriptor (`exec_vectorRow`), which is launched with its result once its operands and its bank are read
(`issueVector_launches`), and so is in flight (`launchVector_takes`). -/
theorem vectorCommandsRun : Obligations.VectorCommandsRun := by
  intro r b s p d o hrow hi
  have hexec : exec (r.1 b) s = .next ((s.vectorSourced p b.val d).launchVector p b.val d o) :=
    (exec_vectorRow b s r hrow).trans (congrArg _ (State.issueVector_launches hi))
  have htakes : VectorTakes s ((s.vectorSourced p b.val d).launchVector p b.val d o) p b.val d o :=
    State.launchVector_takes (State.Mended.vectorSourced s p b.val d) (ready_partOf hi.1)
  exact ⟨_, hexec, htakes⟩

end Sys2Proof.Machine
end

section
/-! PROOFS. NOP, NOTE, KVAPPEND and DIGEST (O15). -/
namespace Sys2Proof.Machine

/-! ## A head in flight (R119, R123) -/

/-- What is launched after its head has left the queue is in flight, from any state that has kept its block, its clock, the count of operations and memory. -/
theorem State.launch_inFlight {s u : State} {p b q dur : Nat} {d : Desc} {w : Work} (hblock : u.block b = (s.pop p b q).block b)
    (hclock : u.cyclesOf b = s.cyclesOf b) (hcount : u.opCount = s.opCount) (hmem : u.mem = s.mem) :
    InFlight s (u.launch p b (u.newOp p b q d dur w)) b q d dur w := by
  refine ⟨?_, ?_, fun a => ?_⟩
  · simp [hblock, Block.queue, Block.setQueue]
  · simp [hblock, State.newOp, hclock, hcount]
  · simp [State.readWord, hmem]

/-! ## NOP and NOTE (R112) -/

section Control
variable {b : Fin 256} {s : State} {p : Nat} {d : Desc} (hr : Ready s b.val 3 p d [])
include hr

theorem execNop_launches (ho : opcode d = 0x80) :
    execNop b s = .next ((s.pop p b.val 3).launch p b.val ((s.pop p b.val 3).newOp p b.val 3 d 1 .plain)) :=
  congrArg _ (issue_of_ready hr (by simp [ho]))

theorem execNote_launches (ho : opcode d = 0x81) :
    execNote b s = .next ((s.pop p b.val 3).launch p b.val ((s.pop p b.val 3).newOp p b.val 3 d 2 (.vector [] (some (noteRecord d))))) :=
  congrArg _ (issue_of_ready hr (by simp [ho]))

end Control

/-! ## KVAPPEND and DIGEST (R240, R264) -/

/-- Descriptor d of the serving unit has left its queue and is in flight for 4 cycles, with x its partition. -/
def State.noteServing (s : State) (p b : Nat) (d : Desc) (x : Part) : State :=
  let u := (s.pop p b 3).setPart p x
  u.launch p b (u.newOp p b 3 d 4 (.serving []))

section Noted
variable {s : State} {p b : Nat} {d : Desc} {x : Part}

theorem State.noteServing_inFlight (hp : s.partOf b = some p) (hstate : x.partState = (s.part p).partState) (hmap : x.blockMap = (s.part p).blockMap)
    (hclocks : x.clocks = (s.part p).clocks) : InFlight s (s.noteServing p b d x) b 3 d 4 (.serving []) :=
  State.launch_inFlight (by simp) (State.setPart_cyclesOf (s := s.pop p b 3) hp hstate hmap hclocks) (by simp) (by simp)

/-- Of its partition, only the ready tags differ from x. -/
theorem State.noteServing_part : ∃ tags, (s.noteServing p b d x).part p = { x with tags := tags } := by
  obtain ⟨tags, h⟩ := State.launch_part ((s.pop p b 3).setPart p x) p b p (((s.pop p b 3).setPart p x).newOp p b 3 d 4 (.serving []))
  exact ⟨tags, h.trans (by rw [State.part_setPart])⟩

end Noted

section Serving
variable {b : Fin 256} {s : State} {p : Nat} {d : Desc} (hr : Ready s b.val 3 p d [])
include hr

theorem execKvappend_notes (ho : opcode d = 0x72)
    (hnew : (addrs (slot0 d) (nslot d)).any (fun i => (s.part p).committed.any (fun c => c.1 == i)) = false) :
    execKvappend b s = .next (s.noteServing p b.val d { s.part p with
      committed := (s.part p).committed ++ (addrs (slot0 d) (nslot d)).map (fun i => (i, ((s.bound p i).map (s.adv p)).getD 0)) }) := by
  have hadv : (fun i => (i, ((s.bound p i).map (s.adv p)).getD 0)) = fun i => (i, match s.bound p i with | some r => s.adv p r | none => 0) :=
    funext fun i => by cases s.bound p i <;> rfl
  unfold execKvappend
  rw [issue_of_ready (p := p) (d := d) (by rwa [hnew]) (by simp [ho]), hadv]
  rfl

theorem execDigest_notes (ho : opcode d = 0x75) (hnew : (addrs (slot0 d) (nslot d)).any (fun i => (s.part p).digested.contains i) = false) :
    execDigest b s = .next (s.noteServing p b.val d { s.part p with digested := (s.part p).digested ++ addrs (slot0 d) (nslot d) }) := by
  unfold execDigest
  rw [issue_of_ready (p := p) (d := d) (by rwa [hnew]) (by simp [ho])]
  rfl

end Serving

/-- Settles O15: each command launches its head (`launch_inFlight`), and KVAPPEND and DIGEST note their slots in the partition first (`noteServing_part`). -/
theorem controlDescriptorsRun : Obligations.ControlDescriptorsRun := by
  refine ⟨?_, ?_, ?_, ?_⟩
  · intro b s p d hr ho
    exact ⟨_, execNop_launches hr ho, State.launch_inFlight rfl rfl rfl rfl⟩
  · intro b s p d hr ho
    exact ⟨_, execNote_launches hr ho, State.launch_inFlight rfl rfl rfl rfl⟩
  · intro b s p d hr ho hnew
    obtain ⟨_, hpart⟩ := State.noteServing_part
    exact ⟨_, execKvappend_notes hr ho hnew, State.noteServing_inFlight (ready_partOf hr) rfl rfl rfl, congrArg Part.committed hpart⟩
  · intro b s p d hr ho hnew
    obtain ⟨_, hpart⟩ := State.noteServing_part
    exact ⟨_, execDigest_notes hr ho hnew, State.noteServing_inFlight (ready_partOf hr) rfl rfl rfl, congrArg Part.digested hpart⟩

end Sys2Proof.Machine
end

section
/-! PROOFS. The registers of a ring (O24). -/
namespace Sys2Proof.Machine

/-- The ring of a function once RING_CTRL has been written (R134, R135). -/
def Fn.controlled (x : Fn) (value : BitVec 64) : Fn :=
  let y := { x with enable := value.getLsbD 0, irqArm := value.getLsbD 2 }
  if value.getLsbD 1 = false then y
  else if x.current.isSome then { y with resetDue := true }
  else { y with head := x.tail, halted := false, overrun := false }

theorem State.writeRingCtrl_eq (s : State) (f : FnId) (value : BitVec 64) : s.writeRingCtrl f value = s.setFn f ((s.fn f).controlled value) := by
  simp only [State.writeRingCtrl, Fn.controlled, bitAt, Bool.not_eq_true']

section Controlled
variable {x : Fn} {value : BitVec 64}

theorem Fn.controlled_plain (hreset : value.getLsbD 1 = false) : x.controlled value = { x with enable := value.getLsbD 0, irqArm := value.getLsbD 2 } :=
  if_pos hreset

theorem Fn.controlled_waits (hreset : value.getLsbD 1 = true) (hcurrent : x.current ≠ none) :
    x.controlled value = { x with enable := value.getLsbD 0, irqArm := value.getLsbD 2, resetDue := true } :=
  (if_neg (ne_false_of_eq_true hreset)).trans (if_pos (Option.isSome_iff_ne_none.mpr hcurrent))

theorem Fn.controlled_resets (hreset : value.getLsbD 1 = true) (hcurrent : x.current = none) :
    x.controlled value = { x with enable := value.getLsbD 0, irqArm := value.getLsbD 2, head := x.tail, halted := false, overrun := false } := by
  have hnone : ¬(x.current.isSome = true) := fun hsome => Option.isSome_iff_ne_none.mp hsome hcurrent
  exact (if_neg (ne_false_of_eq_true hreset)).trans (if_neg hnone)

/-- With or without RESET, ENABLE and IRQ_ARM take the bits written, and TAIL stays. -/
theorem Fn.controlled_bits (x : Fn) (value : BitVec 64) :
    (x.controlled value).enable = value.getLsbD 0 ∧ (x.controlled value).irqArm = value.getLsbD 2 ∧ (x.controlled value).tail = x.tail := by
  unfold Fn.controlled
  split
  · exact ⟨rfl, rfl, rfl⟩
  · split <;> exact ⟨rfl, rfl, rfl⟩

end Controlled

/-- Each command that writes RING_CTRL writes it. -/
theorem exec_ringWrite (f : FnId) (value : BitVec 64) (s : State) :
    ∀ c ∈ ringWrites, exec (c f value) s = .next (s.setFn f ((s.fn f).controlled value)) := by
  rw [← State.writeRingCtrl_eq]
  simp only [ringWrites, List.forall_mem_cons]
  exact ⟨rfl, rfl, rfl, fun _ h => nomatch h⟩

/-- Settles O24: each write sets the registers of its ring alone; a write of RING_CTRL is `Fn.controlled`. -/
theorem ringsTakeWrites : Obligations.RingsTakeWrites := by
  refine ⟨?_, fun _ _ _ => rfl, ?_⟩
  · intro f value s
    exact ⟨_, rfl, by simp, by simp, by simp, by simp, rfl⟩
  · intro c hc f value s
    obtain ⟨henable, harm, htail⟩ := Fn.controlled_bits (s.fn f) value
    refine ⟨_, exec_ringWrite f value s c hc, rfl, ?_⟩
    rw [State.fn_setFn]
    refine ⟨henable, harm, htail, fun hreset hnone => ?_, fun hreset hsome => ?_, fun hplain => ?_⟩
    · rw [Fn.controlled_resets hreset hnone]
      exact ⟨rfl, rfl, rfl⟩
    · rw [Fn.controlled_waits hreset hsome]
      exact ⟨rfl, rfl⟩
    · rw [Fn.controlled_plain hplain]
      exact ⟨rfl, rfl, rfl⟩

end Sys2Proof.Machine
end

section
/-! PROOFS. What the answer to an entry leaves of the partitions, and a partition that goes on to its next ticket (R132, R135). -/
namespace Sys2Proof.Machine

theorem State.part_of_parts {s t : State} (h : t.parts = s.parts) (p : Nat) : t.part p = s.part p := congrArg (Table.get ({} : Part) · p) h

/-! ## Records and answers -/

@[simp] theorem State.raise_parts (s : State) (k cause : Nat) : (s.raise k cause).parts = s.parts := rfl
@[simp] theorem State.queueRecord_parts (s : State) (f : FnId) (l : List Byte) : (s.queueRecord f l).parts = s.parts := rfl

@[simp] theorem State.writeRecord_parts (s : State) (f : FnId) (l : List Byte) : (s.writeRecord f l).parts = s.parts := by
  unfold State.writeRecord
  dsimp only
  split <;> rfl

@[simp] theorem State.writeReserved_parts (s : State) (f : FnId) (l : List Byte) : (s.writeReserved f l).parts = s.parts := by
  unfold State.writeReserved
  dsimp only
  split
  · rfl
  · split <;> simp

@[simp] theorem State.answer_parts (s : State) (src : Src) (r : Record) : (s.answer src r).parts = s.parts := by
  cases src with
  | ring f => exact State.writeReserved_parts ..
  | core k => exact fieldIte State.parts rfl rfl

@[simp] theorem State.retire_parts (s : State) (src : Src) : (s.retire src).parts = s.parts := by
  cases src with
  | ring f => exact fieldIte State.parts rfl rfl
  | core k => rfl

@[simp] theorem State.close_parts (s : State) (src : Src) (status : Status) (body : Nat) : (s.close src status body).parts = s.parts := by
  unfold State.close
  split
  · rfl
  · exact (State.retire_parts ..).trans (fieldIte State.parts rfl (State.answer_parts ..))

/-- A source that is done with its entry processes none. -/
theorem State.retire_current (s : State) (src : Src) : (s.retire src).current src = none := by
  cases src with
  | ring f =>
    unfold State.retire State.current
    dsimp only
    split
    · simp
    · split <;> simp
  | core k => simp [State.retire, State.current]

/-! ## The next ticket (R132, R250) -/

@[simp] theorem State.dropCalendars_parts (s : State) (p : Nat) : (s.dropCalendars p).parts = s.parts :=
  List.foldlRecOn (motive := fun t : State => t.parts = s.parts) _ _ rfl fun _ h _ _ => h

/-- A partition with a ticket to take waits, and is IDLE without one; nothing else changes but what the wait begins with and the measurement. -/
theorem State.proceed_part (s : State) (p : Nat) : ∃ resolving began joined measured, (s.proceed p).part p = { s.part p with
    nextIsKerb := (s.part p).kerbTicket.isSome, resolving := resolving, resolveBegan := began, joined := joined, measured := measured,
    stepState := if ({ s.part p with nextIsKerb := (s.part p).kerbTicket.isSome } : Part).nextTicket.isSome then .waiting else .idle } := by
  unfold State.proceed
  dsimp only
  split
  · next h => exact ⟨_, _, _, _, by rw [State.part_setPart, h]; rfl⟩
  · next h => exact ⟨_, _, _, _, by rw [State.measure, State.part_setPart, State.part_of_parts (State.dropCalendars_parts ..), State.part_setPart, h]; rfl⟩

end Sys2Proof.Machine
end

section
/-! PROOFS. Plans and handles are loaded and unloaded (O26). -/
namespace Sys2Proof.Machine

/-! ## Plans (R128, R407) -/

section Plans
variable (s : State) (p : Nat)

@[simp] theorem State.assignSlots_plans : ((s.assignSlots p).part p).plans = (s.part p).plans := by simp [State.assignSlots]

@[simp] theorem State.measureIdle_plans : ((s.measureIdle p).part p).plans = (s.part p).plans := by
  unfold State.measureIdle
  split
  · simp [State.measure]
  · rfl

end Plans

/-- The state in which a LOAD_PLAN has placed the plan of an image in slot k (R128, R270). -/
def State.planLoaded (s : State) (p k : Nat) (image : List Byte) : State :=
  (((s.setPart p { s.part p with plans := (s.part p).plans.put k ((s.part p).planOf image) }).wipe [flawPlan p]).assignSlots p).measureIdle p

theorem State.planLoaded_plans (s : State) (p k : Nat) (image : List Byte) :
    ((s.planLoaded p k image).part p).plans = (s.part p).plans.put k ((s.part p).planOf image) := by
  simp [State.planLoaded]

theorem execLoadPlan_loads {src : Src} {image : List Byte} {d : Desc} {s : State} (he : s.entryOf src 2 = some d)
    (hread : dLength d ≤ image.length ∧ s.portFast (srcPort src) = true)
    (hmay : s.mayRun (s.judge src) (dPart d) = true ∧ (s.part (dPart d)).plans.find? (dSlot d) = none)
    (hcause : s.imageCause (dPart d) (image.take (dLength d)) = none) :
    execLoadPlan src image s = .next ((s.planLoaded (dPart d) (dSlot d) (image.take (dLength d))).close src .ok) := by
  obtain ⟨hlength, hport⟩ := hread
  obtain ⟨hrights, hfree⟩ := hmay
  have hall : ¬((image.take (dLength d)).length < dLength d) := by simp only [List.length_take]; omega
  simp only [execLoadPlan, he, hall, hport, hrights, hfree, hcause, State.planLoaded, Bool.not_true, Bool.false_eq_true, or_self, if_false, Option.isSome_none]

theorem execUnloadPlan_marks {src : Src} {d : Desc} {pl : Plan} {s : State} (he : s.entryOf src 3 = some d) (hmay : s.mayRun (s.judge src) (dPart d) = true)
    (hplan : (s.part (dPart d)).plans.find? (dSlot d) = some pl ∧ pl.unloading = false) :
    execUnloadPlan src s = .next (((s.setPart (dPart d) ({ s.part (dPart d) with
      plans := (s.part (dPart d)).plans.put (dSlot d) { pl with unloading := true } } : Part).dropUnloaded).measureIdle (dPart d)).close src .ok) := by
  obtain ⟨hfind, hstays⟩ := hplan
  simp [execUnloadPlan, he, hmay, hfind, hstays]

/-! ## Handle tables (R118, R407) -/

theorem State.loadEntries_accepts {s : State} {src : Src} {d : Desc} {es : List (BitVec 128)} (hmay : s.mayLoad (s.judge src) (dPart d) = true)
    (hside : ¬(s.genFirst (dPart d) ≤ field d 320 16 + es.length - 1 ∧ field d 320 16 < s.genFirst (dPart d)))
    (hcause : s.entriesCause (s.judge src) (dPart d) (field d 288 8) (field d 320 16) es = none) :
    s.loadEntries src d es = (s.acceptEntries (dPart d) (field d 288 8) (field d 320 16) es).close src .ok := by
  simp only [State.loadEntries, hmay, hcause, Bool.not_true, Bool.false_eq_true, if_false, if_neg hside]

/-- Entries accepted for a partition that is not IDLE wait for its boundary, behind those that wait already. -/
theorem State.acceptEntries_wait {s : State} {p gen h : Nat} {es : List (BitVec 128)} (hbusy : (s.part p).stepState ≠ .idle) :
    ((s.acceptEntries p gen h es).part p).handles = (s.part p).handles ∧ (s.part p).newHandles <+: ((s.acceptEntries p gen h es).part p).newHandles := by
  unfold State.acceptEntries
  rw [if_neg fun hidle => hbusy hidle.1, State.part_setPart]
  exact ⟨rfl, List.prefix_append ..⟩

/-- What a command that loads entries comes to: they are accepted and answered, and of a partition that is not IDLE the handles in force stand. -/
theorem loadEntries_settles {s u : State} {o : Host.Outcome State Fault Refusal} {src : Src} {d : Desc} {es : List (BitVec 128)} (ho : o = .next (s.loadEntries src d es))
    (hmay : s.mayLoad (s.judge src) (dPart d) = true)
    (hside : ¬(s.genFirst (dPart d) ≤ field d 320 16 + es.length - 1 ∧ field d 320 16 < s.genFirst (dPart d)))
    (hcause : s.entriesCause (s.judge src) (dPart d) (field d 288 8) (field d 320 16) es = none)
    (hu : u = s.acceptEntries (dPart d) (field d 288 8) (field d 320 16) es) :
    o = .next (u.close src .ok) ∧ ((s.part (dPart d)).stepState ≠ .idle → ∀ t, o = .next t →
      (t.part (dPart d)).handles = (s.part (dPart d)).handles ∧ (s.part (dPart d)).newHandles <+: (t.part (dPart d)).newHandles) := by
  subst hu ho
  rw [State.loadEntries_accepts hmay hside hcause]
  refine ⟨rfl, fun hbusy t ht => ?_⟩
  cases ht
  rw [State.part_of_parts (State.close_parts ..)]
  exact State.acceptEntries_wait hbusy

theorem execLoadHandles_loads {src : Src} {es : List (BitVec 128)} {d : Desc} {s : State} (he : s.entryOf src 4 = some d)
    (hread : field d 304 16 + 1 ≤ es.length ∧ s.portFast (srcPort src) = true) :
    execLoadHandles src es s = .next (s.loadEntries src d (es.take (field d 304 16 + 1))) := by
  obtain ⟨hlength, hport⟩ := hread
  have hall : ¬((es.take (field d 304 16 + 1)).length < field d 304 16 + 1) := by simp only [List.length_take]; omega
  simp only [execLoadHandles, he, hport, hall, Bool.not_true, Bool.false_eq_true, or_self, if_false]

theorem execPatch_loads {src : Src} {d : Desc} {s : State} (he : s.entryOf src 5 = some d) :
    execPatch src s = .next (s.loadEntries src d [BitVec.ofNat 128 (field d 368 128)]) := by
  simp only [execPatch, he]

/-- Settles O26: a plan loaded or marked is in its slot when the entry is answered (`close_parts`), and entries are accepted as `loadEntries_settles` says. -/
theorem loaderRuns : Obligations.LoaderRuns := by
  refine ⟨?_, ?_, ?_, ?_⟩
  · intro src image d s he hread hmay hcause
    refine ⟨_, execLoadPlan_loads he hread hmay hcause, rfl, ?_⟩
    rw [State.part_of_parts (State.close_parts ..), State.planLoaded_plans, Table.find?_put_self]
  · intro src d pl s he hmay hplan
    refine ⟨_, execUnloadPlan_marks he hmay hplan, rfl, ?_⟩
    rw [State.part_of_parts (State.close_parts ..), State.measureIdle_plans, State.part_setPart]
    rfl
  · intro src es d s he hread hmay hside hcause
    have hlength : (es.take (field d 304 16 + 1)).length = field d 304 16 + 1 := by simp [hread.1]
    exact loadEntries_settles (execLoadHandles_loads he hread) hmay (by rwa [hlength]) hcause rfl
  · intro src d s he hmay hcause
    exact loadEntries_settles (execPatch_loads he) hmay (fun h => absurd h.2 (Nat.not_lt.mpr h.1)) hcause rfl

end Sys2Proof.Machine
end

section
/-! PROOFS. Entries are fetched, tickets accepted, and records that wait are written (O25). -/
namespace Sys2Proof.Machine

/-! ## The fetch of an entry (R132, R135, R172) -/

/-- An intact entry with good fields passes its first checks. -/
theorem State.vet_passes {s : State} {src : Src} {d : Desc} (hd : s.current src = some d) (hok : descCrcOk d = true ∧ hostFieldsOk d = true) : s.vet src = s := by
  simp [State.vet, hd, hok]

theorem execIntakeFetch_ring {f : FnId} {entry : Desc} {s : State} (hl : s.live = true)
    (hring : (s.fn f).enable = true ∧ (s.fn f).halted = false ∧ (s.fn f).current = none ∧ (s.fn f).head ≠ (s.fn f).tail)
    (hroom : (s.fn f).hasRoom = true ∧ (s.fn f).queued = [] ∧ s.portFast f.port.val = true) (hok : descCrcOk entry = true ∧ hostFieldsOk entry = true) :
    execIntakeFetch (.ring f) entry s = .next (s.setFn f { s.fn f with current := some entry, reserved := (s.fn f).reserved + 1 }) := by
  obtain ⟨henable, hhalted, hcurrent, hhead⟩ := hring
  obtain ⟨hslot, hqueued, hport⟩ := hroom
  have hvet := State.vet_passes (s := s.setFn f { s.fn f with current := some entry, reserved := (s.fn f).reserved + 1 }) (src := .ring f) (by simp [State.current]) hok
  have hfetches : ((s.fn f).enable && !(s.fn f).halted && (s.fn f).current.isNone && (s.fn f).head != (s.fn f).tail && (s.fn f).hasRoom
      && (s.fn f).queued.isEmpty && s.portFast f.port.val) = true := by
    simp [henable, hhalted, hcurrent, hhead, hslot, hqueued, hport]
  simp only [execIntakeFetch, hl, hfetches, hvet, Bool.not_true, Bool.false_eq_true, if_true, if_false, ite_self]

theorem execIntakeFetch_core {k : Fin 20} {entry e : Desc} {j : Option Nat} {l : List (Option Nat × Desc)} {s : State} (hl : s.live = true)
    (hcore : (s.core k.val).current = none ∧ (s.core k.val).intake = (j, e) :: l) (hok : descCrcOk e = true ∧ hostFieldsOk e = true) :
    execIntakeFetch (.core k) entry s = .next (s.setCore k.val { s.core k.val with current := some (j, e), intake := l }) := by
  obtain ⟨hcurrent, hintake⟩ := hcore
  have hvet := State.vet_passes (s := s.setCore k.val { s.core k.val with current := some (j, e), intake := l }) (src := .core k) (by simp [State.current]) hok
  simp [execIntakeFetch, hl, hcurrent, hintake, hvet]

/-! ## STEP tickets (R132, R133) -/

theorem execStep_accepts {src : Src} {d : Desc} {s : State} (hl : s.live = true) (hd : s.current src = some d)
    (hok : dKind d = 1 ∧ descCrcOk d = true ∧ hostFieldsOk d = true) (hfew : (s.part (dPart d)).tickets.length < 4) (hcause : s.ticketCause (s.judge src) d = none) :
    execStep src s = .next ((s.acceptTicket (dPart d) { desc := d, src := src, dropped := s.dropped src, slot := field d 56 8 }).retire src) := by
  have hfull : s.ticketsFull (dPart d) = false := by simp [State.ticketsFull, hfew]
  simp [execStep, hd, hl, hok.1, hfull, State.vet_passes hd hok.2, hcause]

@[simp] theorem State.abandonSlices_parts (s : State) (p : Nat) : (s.abandonSlices p).parts = s.parts :=
  List.foldlRecOn (motive := fun t : State => t.parts = s.parts) _ _ rfl fun t ht b _ => by
    split
    · simpa using ht
    · exact ht

/-- A partition that holds a ticket has one to take up. -/
theorem Part.nextTicket_isSome {x : Part} (hkerb : x.nextIsKerb = x.kerbTicket.isSome) (hne : x.tickets ≠ []) : x.nextTicket.isSome = true := by
  unfold Part.nextTicket
  split
  · rfl
  · split
    · next h => exact hkerb ▸ h
    · simpa using hne

/-- A ticket accepted is the last of its partition's, its STEP_NO is the last accepted, and an IDLE partition waits. -/
theorem State.acceptTicket_part (s : State) (p : Nat) (k : Ticket) :
    ((s.acceptTicket p k).part p).tickets = (s.part p).tickets ++ [k] ∧ ((s.acceptTicket p k).part p).lastStep = BitVec.ofNat 64 (dStepNo k.desc)
      ∧ ((s.acceptTicket p k).part p).stepState = if (s.part p).stepState = .idle then .waiting else (s.part p).stepState := by
  have hslices : (s.abandonSlices p).part p = s.part p := State.part_of_parts (State.abandonSlices_parts s p) p
  unfold State.acceptTicket
  simp only [hslices]
  by_cases hidle : (s.part p).stepState = .idle
  · obtain ⟨_, _, _, _, hproceed⟩ := State.proceed_part
      ((s.abandonSlices p).setPart p { s.part p with tickets := (s.part p).tickets ++ [k], lastStep := BitVec.ofNat 64 (dStepNo k.desc), anyStep := false }) p
    rw [if_pos hidle, if_pos hidle, hproceed, State.part_setPart]
    exact ⟨rfl, rfl, if_pos (Part.nextTicket_isSome rfl (by simp))⟩
  · rw [if_neg hidle, if_neg hidle, State.part_setPart]
    exact ⟨rfl, rfl, rfl⟩

/-! ## Records that wait (R135, R399) -/

theorem execQueuedCompletionWrite_writes {f : FnId} {s : State} {reserved : Bool} {l : List Byte} {rest : List (Bool × List Byte)} (hl : s.live = true)
    (hport : s.portFast f.port.val = true) (hq : (s.fn f).queued = (reserved, l) :: rest) (hroom : reserved = true ∨ (s.fn f).hasRoom = true) :
    execQueuedCompletionWrite f s = .next
      ((s.setFn f { s.fn f with queued := rest, reserved := (s.fn f).reserved - (if reserved then 1 else 0) }).writeRecord f l) := by
  cases reserved with
  | true => simp [execQueuedCompletionWrite, hl, hport, hq]
  | false => simp [execQueuedCompletionWrite, hl, hport, hq, hroom.resolve_left Bool.false_ne_true]

/-- Settles O25: each command under its conditions; the partition of a ticket is as `acceptTicket_part` says once its source is done with the entry. -/
theorem intakeRuns : Obligations.IntakeRuns := by
  refine ⟨fun _ _ _ hl hring hroom hok => execIntakeFetch_ring hl hring hroom hok, fun _ entry _ _ _ _ hl hcore hok => execIntakeFetch_core (entry := entry) hl hcore hok, ?_,
    fun _ _ _ _ _ hl hport hq hroom => execQueuedCompletionWrite_writes hl hport hq hroom⟩
  intro src d s hl hd hok hpart hcause
  have haccept := execStep_accepts hl hd hok hpart.2 hcause
  refine ⟨haccept, fun t ht => ?_⟩
  cases haccept.symm.trans ht
  refine ⟨State.retire_current .., ?_⟩
  rw [State.part_of_parts (State.retire_parts ..)]
  exact State.acceptTicket_part s (dPart d) _

end Sys2Proof.Machine
end

section
/-! PROOFS. Checks, holds and the freeze (O21). -/
namespace Sys2Proof.Machine

/-! ## Checks, prefetch and the end of a freeze (R120, R129, R148) -/

theorem execIssueCheck_passes {b : Fin 256} {queue : Fin 4} {s : State} {p : Nat} {d : Desc} (hp : s.partOf b.val = some p) (hissuing : s.issuing p = true)
    (hdue : s.checkDue p b.val queue.val = some d) (hheld : ((s.block b.val).queue queue.val).delivered ≠ 0)
    (hstore : s.flawFails (flawQueue b.val queue.val) = none ∧ s.handleFails p d = none)
    (hok : descCrcOk d = true ∧ wellDecoded (s.pageTokens p) (s.groupPages p) queue.val d = true)
    (hseen : s.flagsSeen p d (districtOf b.val) = true ∧ s.readyTags p b.val d = true) :
    execIssueCheck b queue s =
      .next (s.setBlock b.val ((s.block b.val).setQueue queue.val { (s.block b.val).queue queue.val with checked := true })) := by
  simp [execIssueCheck, hp, hissuing, hdue, hheld, hstore, hok, hseen]

theorem execFreezeResume_ends {p : Fin 64} {s : State} {z : PartFreeze} (hl : s.live = true) (hz : (s.part p.val).freeze = some z)
    (hover : z.done = true ∧ z.holds.all (s.resolved p.val) = true) :
    execFreezeResume p s = .next (
      let t := z.holds.foldl (fun (s : State) (h : Hold) => s.passHeld p.val h) (s.setPart p.val { s.part p.val with freeze := none })
      t.setCounter (0x9100 + p.val) 0x11 (max (t.counter (0x9100 + p.val) 0x11) z.length)) := by
  simp only [execFreezeResume, hl, hz, hover.1, hover.2, Bool.and_self, Bool.not_true, Bool.false_eq_true, if_true, if_false]

theorem execDescriptorPrefetch_brings {b : Fin 256} {queue : Fin 4} {s : State} (hl : s.live = true)
    (hmore : ((s.block b.val).queue queue.val).delivered < min 256 ((s.block b.val).queue queue.val).descs.length)
    (hread : 0 < (s.part (s.ownerOf b.val)).fetched) (hflaw : s.flawFails (flawPlan (s.ownerOf b.val)) = none) :
    execDescriptorPrefetch b queue s = .next (
      let p := s.ownerOf b.val
      (s.setBlock b.val ((s.block b.val).setQueue queue.val { (s.block b.val).queue queue.val with delivered := ((s.block b.val).queue queue.val).delivered + 1 })).setPart p
        { s.part p with fetched := (s.part p).fetched - 1 }) := by
  simp only [execDescriptorPrefetch, hl, hflaw, Bool.not_true, Bool.false_eq_true, if_false, if_pos (And.intro hmore hread)]

/-! ## The detector (R153 to R155): what it looks at does not change with the count of its runs -/

/-- Partition p with n periods of the detector begun. -/
def State.withDetected (s : State) (p n : Nat) : State := s.setPart p { s.part p with detected := n }

section Detected
variable (s : State) (p n : Nat)

theorem State.withDetected_part : (s.withDetected p n).part p = { s.part p with detected := n } := State.part_setPart ..

@[simp] theorem State.withDetected_head (b q : Nat) : (s.withDetected p n).head b q = s.head b q := by simp [State.head, State.withDetected]

@[simp] theorem State.withDetected_opsOf : (s.withDetected p n).opsOf p = s.opsOf p := by
  simp only [State.opsOf, State.withDetected_part]
  simp [State.withDetected]

@[simp] theorem State.withDetected_dead : (s.withDetected p n).dead p = s.dead p := by
  funext f
  simp only [State.dead, State.withDetected_part, State.withDetected_opsOf]
  rfl

@[simp] theorem State.withDetected_deadFlag (d : Desc) : (s.withDetected p n).deadFlag p d = s.deadFlag p d := by
  simp only [State.deadFlag, State.withDetected_dead]

@[simp] theorem State.withDetected_heldHeads : ((s.withDetected p n).part p).heldHeads = (s.part p).heldHeads := by rw [State.withDetected_part]; rfl
@[simp] theorem State.withDetected_setter (f : Nat) : ((s.withDetected p n).part p).setter f = (s.part p).setter f := by rw [State.withDetected_part]; rfl

@[simp] theorem State.withDetected_chain : ∀ (fuel : Nat) (l : List Node) (f : Nat), (s.withDetected p n).chain p fuel l f = s.chain p fuel l f
  | 0, _, _ => rfl
  | fuel + 1, l, f => by
    simp only [State.chain, State.withDetected_setter, State.withDetected_head, State.withDetected_heldHeads, State.withDetected_deadFlag,
      State.withDetected_chain fuel]

end Detected

/-- The report on a held head d of block b's queue q that waits on a dead flag, in a freeze z of partition p (R155). -/
def State.gridlockOf (s : State) (p b q : Nat) (d : Desc) (z : PartFreeze) : List Byte :=
  let f := (s.deadFlag p d).getD 0xFFF
  let c := s.chain p 1024 [⟨stamp d, b, q, f⟩] f
  gridlockReport (s.part p).stepNo s.town z.lcycle ((s.district (s.part p).lead).cycles - z.since) c.2 c.1

theorem State.withDetected_gridlockOf (s : State) (p n b q : Nat) (d : Desc) (z : PartFreeze) :
    (s.withDetected p n).gridlockOf p b q d z = s.gridlockOf p b q d z := by
  simp only [State.gridlockOf, State.withDetected_deadFlag, State.withDetected_chain, State.withDetected_part]
  simp [State.withDetected, Part.stepNo, Part.lead]

/-- The state in which a gridlock of partition p has been reported and logged, and not yet failed the step. -/
def State.gridlockReported (s : State) (p : Nat) (report : List Byte) : State :=
  (s.setObj (0x4000 + p) 0x10 report).logEvent
    { cls := 2, code := 1, status := Status.gridlock.code, part := p, tenant := some (s.part p).owner, detail := (s.part p).stepNo }

/-- The first held head of a frozen partition that waits on a dead flag, with its descriptor (R153). -/
def State.deadHead (s : State) (p : Nat) : Option (Nat × Nat × Desc) :=
  (s.part p).heldHeads.findSome? (fun e => (s.head e.1 e.2).bind (fun d => ((waits d).filter (s.dead p)).head?.map (fun _ => (e.1, e.2, d))))

theorem State.detect_fails {s : State} {p : Fin 64} {z : PartFreeze} {b q : Nat} {d : Desc} (hz : (s.part p.val).freeze = some z)
    (hd : s.deadHead p.val = some (b, q, d)) :
    s.detect p = .next ((s.gridlockReported p.val (s.gridlockOf p.val b q d z)).failDesc p.val .gridlock b q d) := by
  simp only [State.deadHead] at hd
  simp only [State.detect, hz, hd]
  rfl

theorem execGridlockDetectorRun_fails {p : Fin 64} {s : State} {z : PartFreeze} {b q : Nat} {d : Desc} (hl : s.live = true)
    (hperiod : (s.part p.val).detected < s.leadCycles p.val / 4096) (hz : (s.part p.val).freeze = some z) (hd : s.deadHead p.val = some (b, q, d)) :
    execGridlockDetectorRun p s = .next (((s.withDetected p.val (s.leadCycles p.val / 4096)).gridlockReported p.val (s.gridlockOf p.val b q d z)).failDesc
      p.val .gridlock b q d) := by
  have hruns : ¬((!s.live) = true ∨ s.detectorPeriod p.val ≤ (s.part p.val).detected) := by simp [hl, State.detectorPeriod, hperiod]
  unfold execGridlockDetectorRun
  rw [if_neg hruns, ← State.withDetected_gridlockOf s p.val (s.leadCycles p.val / 4096)]
  refine State.detect_fails (s := s.withDetected p.val (s.leadCycles p.val / 4096)) ?_ ?_
  · rw [State.withDetected_part]
    exact hz
  · simpa only [State.deadHead, State.withDetected_heldHeads, State.withDetected_head, State.withDetected_dead] using hd

@[simp] theorem State.gridlockReported_part (s : State) (p i : Nat) (l : List Byte) : (s.gridlockReported p l).part i = s.part i := by
  simp [State.gridlockReported]

theorem State.gridlockReported_obj (s : State) (p : Nat) (l : List Byte) : (s.gridlockReported p l).obj (0x4000 + p) 0x10 = l := by
  simp [State.gridlockReported]

/-! ## What a failure leaves (R124) -/

@[simp] theorem State.endFreeze_objects (s : State) (p : Nat) : (s.endFreeze p).objects = s.objects := by
  unfold State.endFreeze
  split <;> simp

@[simp] theorem State.fence_objects (s : State) (p : Nat) (f : Failure) : (s.fence p f).objects = s.objects := by
  unfold State.fence
  dsimp only
  split
  · simp [State.raise]
  · split <;> simp
  · rfl

theorem State.failDesc_detected {s : State} {p b q : Nat} {d : Desc} {c : Status} (h : (s.part p).stepState = .running) :
    ((s.failDesc p c b q d).part p).detected = (s.part p).detected := by
  unfold State.failDesc
  rw [State.fence_part h]

theorem State.failDesc_obj (s : State) (p b q i u : Nat) (d : Desc) (c : Status) : (s.failDesc p c b q d).obj i u = s.obj i u := by
  simp only [State.obj, State.failDesc, State.fence_objects]

/-! ## CHOICE_LIMIT (R174) -/

theorem execChoiceLimitExpiry_fails {p : Fin 64} {s : State} {z : PartFreeze} {c : Status} (hl : s.live = true) (hz : (s.part p.val).freeze = some z)
    (hlong : (s.part p.val).stepState = .running ∧ s.objNat (0x4000 + p.val) 0x1A < z.waitLen)
    (hc : c = if z.holds.any (fun h => h.cause == .segment && !s.resolved p.val h) then .segment else .fault) :
    execChoiceLimitExpiry p s = .next (s.failStep p.val c c.faultClass) := by
  subst hc
  simp only [execChoiceLimitExpiry, hl, hz, Bool.not_true, Bool.false_eq_true, if_false, if_pos hlong]

/-- Settles O21: each event under its conditions; the detector's report is that of the state before its run (`withDetected_gridlockOf`), and a failure leaves it
written (`failDesc_obj`). -/
theorem dispatchEventsRun : Obligations.DispatchEventsRun := by
  refine ⟨fun _ _ _ _ _ hp hissuing hdue hheld hstore hok hseen => execIssueCheck_passes hp hissuing hdue hheld hstore hok hseen,
    fun _ _ _ hl hz hover => execFreezeResume_ends hl hz hover, fun _ _ _ hl hmore hread hflaw => execDescriptorPrefetch_brings hl hmore hread hflaw, ?_, ?_⟩
  · rintro p s z b q d hl hperiod ⟨hrun, hz⟩ hd
    have hstep : (((s.withDetected p.val (s.leadCycles p.val / 4096)).gridlockReported p.val (s.gridlockOf p.val b q d z)).part p.val).stepState = .running := by
      rw [State.gridlockReported_part, State.withDetected_part]
      exact hrun
    refine ⟨_, execGridlockDetectorRun_fails hl hperiod hz hd, State.failDesc_part hstep, ?_, ?_⟩
    · rw [State.failDesc_detected hstep, State.gridlockReported_part, State.withDetected_part]
    · rw [State.failDesc_obj, State.gridlockReported_obj]
      rfl
  · rintro p s z hl hz hlong
    exact ⟨_, execChoiceLimitExpiry_fails hl hz hlong rfl, State.failStep_part hlong.1⟩

end Sys2Proof.Machine
end

section
/-! PROOFS. The ends of segments and steps (O22). -/
namespace Sys2Proof.Machine

/-! ## The entry of a segment (R131) -/

/-- The queues of the blocks of a list take a segment's descriptors, each block those of its place (R129). -/
def State.fillQueues (s : State) (g : Segment) (l : List (Nat × Nat)) : State :=
  l.foldl (fun s e => s.setBlock e.1 { s.block e.1 with queues := segmentQueues g e.2 }) s

/-- The partition that has entered segment n (R131). -/
def Part.entered (x : Part) (n : Nat) : Part :=
  { x with segment := n, segsIn := x.segsIn + 1, path := x.path ++ [n], choice := none, ended := false }

theorem State.enterSegment_eq (s : State) (p n : Nat) : s.enterSegment p n =
    match ((s.part p).entered n).seg with
    | none => s.setPart p ((s.part p).entered n)
    | some g => (s.setPart p ((s.part p).entered n)).fillQueues g (mapBlocks (s.part p).blockMap).zipIdx := rfl

section Fill
variable (s : State) (g : Segment)

@[simp] theorem State.fillQueues_parts (l : List (Nat × Nat)) : (s.fillQueues g l).parts = s.parts :=
  List.foldlRecOn (motive := fun t : State => t.parts = s.parts) _ _ rfl fun _ h _ _ => h

@[simp] theorem State.fillQueues_jobs (l : List (Nat × Nat)) : (s.fillQueues g l).jobs = s.jobs :=
  List.foldlRecOn (motive := fun t : State => t.jobs = s.jobs) _ _ rfl fun _ h _ _ => h

end Fill

theorem State.fillQueues_block_ne {g : Segment} {b : Nat} {l : List (Nat × Nat)} {s : State} (h : ∀ e ∈ l, e.1 ≠ b) : (s.fillQueues g l).block b = s.block b :=
  List.foldlRecOn (motive := fun t : State => t.block b = s.block b) _ _ rfl fun t ht e he => (State.block_setBlock_ne t (h e he).symm _).trans ht

/-- The block in place i of blocks that all differ has the queues of place i. -/
theorem State.fillQueues_queues {g : Segment} {b : Nat} : ∀ {l : List Nat} {s : State} {k i : Nat}, l.Nodup → l[i]? = some b →
    ((s.fillQueues g (l.zipIdx k)).block b).queues = segmentQueues g (k + i)
  | [], _, _, _, _, h => nomatch h
  | a :: l, s, k, i, hnodup, h => by
    obtain ⟨ha, hl⟩ := List.nodup_cons.mp hnodup
    have hcons : s.fillQueues g ((a :: l).zipIdx k) = (s.setBlock a { s.block a with queues := segmentQueues g k }).fillQueues g (l.zipIdx (k + 1)) := rfl
    rw [hcons]
    cases i with
    | zero =>
      obtain rfl : a = b := by simpa using h
      have hout : ∀ e ∈ l.zipIdx (k + 1), e.1 ≠ a := fun e he hea => ha (hea ▸ List.fst_mem_of_mem_zipIdx he)
      rw [State.fillQueues_block_ne hout, State.block_setBlock]
      rfl
    | succ i =>
      rw [State.fillQueues_queues hl h]
      congr 1
      omega

theorem nodup_mapBlocks (m : BitVec 256) : (mapBlocks m).Nodup := List.nodup_range.filter _

theorem State.enterSegment_part (s : State) (p n : Nat) : (s.enterSegment p n).part p = (s.part p).entered n := by
  rw [State.enterSegment_eq]
  split
  · exact State.part_setPart ..
  · rw [State.part_of_parts (State.fillQueues_parts ..), State.part_setPart]

theorem State.enterSegment_jobs (s : State) (p n : Nat) : (s.enterSegment p n).jobs = s.jobs := by
  rw [State.enterSegment_eq]
  split <;> simp

theorem State.enterSegment_queues {s : State} {p n i b : Nat} {g : Segment} (hg : ((s.enterSegment p n).part p).seg = some g)
    (hb : (mapBlocks (s.part p).blockMap)[i]? = some b) : ((s.enterSegment p n).block b).queues = segmentQueues g i := by
  rw [State.enterSegment_part] at hg
  rw [State.enterSegment_eq, hg]
  exact (State.fillQueues_queues (nodup_mapBlocks _) hb).trans (by rw [Nat.zero_add])

/-! ## The events of a segment (R131) -/

section Segments
variable {p : Fin 64} {s : State} {g : Segment} (hl : s.live = true) (hg : (s.part p.val).seg = some g)
include hl hg

theorem execSegmentEnd_ends (hz : (s.part p.val).stepState = .running ∧ (s.part p.val).ended = false ∧ g.z ≤ (s.part p.val).lcycle)
    (hchoice : g.next = 2 → (s.part p.val).choice.isSome = true) : execSegmentEnd p s = .next (s.setPart p.val { s.part p.val with ended := true }) := by
  obtain ⟨hrun, hended, hcome⟩ := hz
  have hdue : ¬((s.part p.val).stepState ≠ .running ∨ (s.part p.val).ended = true ∨ (s.part p.val).lcycle < g.z) := by simp [hrun, hended, hcome]
  have hknown : ¬(g.next = 2 ∧ (s.part p.val).choice.isNone = true) := fun h => by simp [Option.isSome_iff_ne_none.mp (hchoice h.1)] at h
  simp only [execSegmentEnd, hl, hg, Bool.not_true, Bool.false_eq_true, if_false, if_neg hdue, if_neg hknown]

theorem execSegmentEntry_enters {n : Nat} (hn : (s.part p.val).successor g = some n)
    (hz : (s.part p.val).stepState = .running ∧ (s.part p.val).ended = true ∧ (s.part p.val).frozen = false ∧ g.z + 64 ≤ (s.part p.val).lcycle) :
    execSegmentEntry p s = .next (s.enterSegment p.val n) := by
  simp [execSegmentEntry, hl, hg, hn, hz]

theorem execStepEnd_ends (hz : (s.part p.val).stepState = .running ∧ (s.part p.val).ended = true ∧ g.next = 0 ∧ (s.part p.val).frozen = false)
    (hempty : (s.opsOf p.val).isEmpty = true ∧ s.queuesEmpty p.val = true) :
    execStepEnd p s = .next ((s.setPart p.val { s.part p.val with stepState := .done, stepDone := true, doneDesc := (s.part p.val).running }).raise (s.leadCore p.val) 17) := by
  obtain ⟨hrun, hended, hlast, hflows⟩ := hz
  have hend : (s.part p.val).stepState = .running ∧ (s.part p.val).ended = true ∧ g.next = 0 ∧ (!(s.part p.val).frozen) = true ∧ (s.opsOf p.val).isEmpty = true
      ∧ s.queuesEmpty p.val = true := ⟨hrun, hended, hlast, by rw [hflows]; rfl, hempty⟩
  simp only [execStepEnd, hl, hg, Bool.not_true, Bool.false_eq_true, if_false, if_pos hend]

end Segments

/-! ## What the requests of a step that is DONE leave of the partitions (R223, R224) -/

section Requests
variable (s : State) (i : Nat)

@[simp] theorem State.freeRequest_parts (n : ReqNews) : (s.freeRequest i n).parts = s.parts := by
  have htell : (s.tellRequest (s.request i) n).parts = s.parts := fieldIte State.parts rfl rfl
  unfold State.freeRequest
  dsimp only
  rw [State.bumpWhere_parts]
  exact fieldIte State.parts ((State.logEvent_parts ..).trans htell) htell

@[simp] theorem State.cutRequest_parts : (s.cutRequest i).parts = s.parts := by simp [State.cutRequest]

@[simp] theorem State.endWaiting_parts : (s.endWaiting i).parts = s.parts := by
  unfold State.endWaiting
  dsimp only
  split
  · rfl
  · split
    · simp
    · split <;> simp

@[simp] theorem State.pauseNow_parts : (s.pauseNow i).parts = s.parts := by
  unfold State.pauseNow
  dsimp only
  split <;> simp

@[simp] theorem State.waitedCommands_parts : (s.waitedCommands i).parts = s.parts := by
  have hpause : (if (s.request i).pauseWaits then s.pauseNow i else s).parts = s.parts := fieldIte State.parts (State.pauseNow_parts ..) rfl
  unfold State.waitedCommands
  dsimp only
  split
  · exact hpause
  · exact hpause
  · exact (State.endWaiting_parts ..).trans hpause

end Requests

@[simp] theorem State.answerTicket_parts (s : State) (k : Ticket) (again : Bool) (r : Record) : (s.answerTicket k again r).parts = s.parts := by
  unfold State.answerTicket
  split
  · rfl
  · split
    · split <;> simp
    · split <;> simp

/-! ## DONE at the serving unit (R224, R514) -/

/-- What a partition holds of step k once the serving unit has applied it: nothing, and k is its last ticket. -/
def Part.Served (x : Part) (k : Ticket) : Prop :=
  x.stepDone = false ∧ x.running = none ∧ x.lastTicket = some k ∧ x.binding = [] ∧ x.committed = [] ∧ x.emitted = []

/-- Partition x with its generation slot g SPARE, where the slot is DRAINING and no request of partition p is left in it (R260). -/
def State.spareSlot (s : State) (p g : Nat) (x : Part) : Part := if x.gen g = 2 ∧ (s.genRequests p g).isEmpty then x.setGen g 0 else x

theorem State.spareSlot_eq (s : State) (p g : Nat) (x : Part) : ∃ gen0 gen1, s.spareSlot p g x = { x with gen0 := gen0, gen1 := gen1 } := by
  unfold State.spareSlot Part.setGen
  split
  · split <;> exact ⟨_, _, rfl⟩
  · exact ⟨_, _, rfl⟩

/-- A boundary changes, of the partition, by its drained slots the states of the slots alone. -/
theorem State.drained_part (s : State) (p : Nat) : ∃ gen0 gen1, (s.drained p).part p = { s.part p with gen0 := gen0, gen1 := gen1 } := by
  have hdrained : s.drained p = s.setPart p (s.spareSlot p 1 (s.spareSlot p 0 (s.part p))) := rfl
  obtain ⟨_, _, hfirst⟩ := s.spareSlot_eq p 0 (s.part p)
  obtain ⟨_, _, hsecond⟩ := s.spareSlot_eq p 1 (s.spareSlot p 0 (s.part p))
  rw [hdrained, State.part_setPart, hsecond, hfirst]
  exact ⟨_, _, rfl⟩

/-- A partition that has been served goes on to its next ticket, or is IDLE (R132). -/
theorem State.proceed_served {s : State} {p : Nat} {k : Ticket} (h : (s.part p).Served k) :
    (((s.drained p).proceed p).part p).Served k
      ∧ (((s.drained p).proceed p).part p).stepState = if (((s.drained p).proceed p).part p).nextTicket.isSome then .waiting else .idle := by
  obtain ⟨_, _, hdrained⟩ := State.drained_part s p
  obtain ⟨_, _, _, _, hproceed⟩ := State.proceed_part (s.drained p) p
  rw [hproceed, hdrained]
  exact ⟨h, rfl⟩

/-- The serving unit applies the changes of step k and answers it (R241, R514); its partition then holds nothing of it. -/
theorem execServingDone_serves {p : Fin 64} {s : State} {k : Ticket} (hl : s.live = true)
    (hdone : (s.part p.val).stepDone = true ∧ (s.part p.val).doneDesc = some k)
    (hfirst : s.parts.any (fun e => decide (e.1 < p.val) && e.2.stepDone) = false) :
    ∃ u : State, execServingDone p s = .next ((u.drained p.val).proceed p.val) ∧ (u.part p.val).Served k := by
  have hgoes : ¬((!s.live) = true ∨ (!(s.part p.val).stepDone) = true ∨ s.parts.any (fun e => decide (e.1 < p.val) && e.2.stepDone) = true) := by
    simp only [hl, hdone.1, hfirst, Bool.not_true, Bool.false_eq_true, or_self, not_false_eq_true]
  unfold execServingDone
  extract_lets x
  rw [if_neg hgoes, hdone.2]
  dsimp -zeta only
  extract_lets applied y emptied kept taken unslotted waited counted answered slipped z last
  have hempty : kept.stepDone = false ∧ kept.binding = [] ∧ kept.committed = [] ∧ kept.emitted = [] := by
    by_cases hkerb : k.kerb
    · simp [kept, emptied, hkerb]
    · by_cases hgen : k.gen = 0 <;> simp [kept, emptied, hkerb, hgen]
  have hparts : slipped.parts = taken.parts := calc
    slipped.parts = answered.parts := State.setCounter_parts ..
    _ = counted.parts := fieldIte State.parts rfl (State.answerTicket_parts ..)
    _ = waited.parts := fieldIte State.parts (State.count_parts ..) rfl
    _ = unslotted.parts := List.foldlRecOn (motive := fun t : State => t.parts = unslotted.parts) _ _ rfl fun t ht e _ => (State.waitedCommands_parts t e.2).trans ht
    _ = taken.parts := fieldIte State.parts rfl rfl
  have hz : z = kept := (State.part_of_parts hparts p.val).trans (State.part_setPart ..)
  have hlast : last.part p.val = { z with running := none, lastTicket := some k, silent := false } := State.part_setPart ..
  refine ⟨_, rfl, ?_⟩
  rw [State.part_setPart, hlast, hz]
  exact ⟨hempty.1, rfl, rfl, hempty.2⟩

/-- Settles O22: a segment's end, its successor's entry (`enterSegment_part`, `enterSegment_queues`), the end of a step, and its DONE at the serving unit, after
which the partition holds nothing of the step (`execServingDone_serves`) and goes on (`proceed_served`). -/
theorem segmentsRun : Obligations.SegmentsRun := by
  refine ⟨fun _ _ _ hl hg hz hchoice => execSegmentEnd_ends hl hg hz hchoice, ?_, fun _ _ _ hl hg hz hempty => execStepEnd_ends hl hg hz hempty, ?_⟩
  · intro p s g n hl hg hn hz
    have hpart := State.enterSegment_part s p.val n
    exact ⟨_, execSegmentEntry_enters hl hg hn hz, congrArg Part.segment hpart, congrArg Part.ended hpart, congrArg Part.choice hpart, congrArg Part.path hpart,
      fun _ _ _ hseg hblock => State.enterSegment_queues hseg hblock⟩
  · intro p s k hl hdone hfirst
    obtain ⟨u, hserves, hserved⟩ := execServingDone_serves hl hdone hfirst
    obtain ⟨⟨hstep, hrunning, hlast, hbinding, hcommitted, hemitted⟩, hstate⟩ := State.proceed_served hserved
    exact ⟨_, hserves, hstep, hrunning, hlast, hbinding, hcommitted, hemitted, hstate⟩

end Sys2Proof.Machine
end

section
/-! PROOFS. The step barrier and the descriptor barriers (O23). -/
namespace Sys2Proof.Machine

/-! ## What a step boundary leaves: the job slots and the count of the partition's steps (R130) -/

@[simp] theorem State.setJob_parts (s : State) (j : Nat) (x : Job) : (s.setJob j x).parts = s.parts := State.bumpWhere_parts _ _
@[simp] theorem State.job_setJob (s : State) (j : Nat) (x : Job) : (s.setJob j x).job j = x := by simp [State.job, State.setJob]

@[simp] theorem State.freeRequest_jobs (s : State) (i : Nat) (n : ReqNews) : (s.freeRequest i n).jobs = s.jobs := by
  have htell : (s.tellRequest (s.request i) n).jobs = s.jobs := fieldIte State.jobs rfl rfl
  unfold State.freeRequest
  dsimp only
  rw [State.bumpWhere_jobs]
  exact fieldIte State.jobs ((State.logEvent_jobs ..).trans htell) htell

/-- State s has the job slots of r, and its count of partition p's steps. -/
def StepStands (r : State) (p : Nat) (s : State) : Prop := s.jobs = r.jobs ∧ (s.part p).stepCount = (r.part p).stepCount

theorem StepStands.refl (s : State) (p : Nat) : StepStands s p s := ⟨rfl, rfl⟩

section Stands
variable {r s : State} {p : Nat} (h : StepStands r p s)
include h

theorem StepStands.of_eq {t : State} (hjobs : t.jobs = s.jobs) (hparts : t.parts = s.parts) : StepStands r p t :=
  ⟨hjobs.trans h.1, (congrArg Part.stepCount (State.part_of_parts hparts p)).trans h.2⟩

theorem StepStands.setPart {x : Part} (hx : x.stepCount = (s.part p).stepCount) : StepStands r p (s.setPart p x) :=
  ⟨(State.setPart_jobs ..).trans h.1, by rw [State.part_setPart, hx, h.2]⟩

theorem StepStands.foldl {α : Type} {f : State → α → State} (hf : ∀ t a, StepStands r p t → StepStands r p (f t a)) (l : List α) : StepStands r p (l.foldl f s) :=
  List.foldlRecOn l f h fun t ht a _ => hf t a ht

theorem StepStands.setObj (i u : Nat) (v : List Byte) : StepStands r p (s.setObj i u v) := h.of_eq (by simp) (by simp)
theorem StepStands.setCore (k : Nat) (x : Core) : StepStands r p (s.setCore k x) := h.of_eq rfl rfl
theorem StepStands.wipe (l : List Nat) : StepStands r p (s.wipe l) := h.of_eq rfl rfl
theorem StepStands.measure : StepStands r p (s.measure p) := h.setPart rfl

theorem StepStands.leaveBlocks : StepStands r p (s.leaveBlocks p) := h.foldl (fun _ _ ht => ht.of_eq (by simp) (by simp)) _
theorem StepStands.zeroSlip : StepStands r p (s.zeroSlip p) := h.foldl (fun _ _ ht => ht.of_eq (by simp) (by simp)) _

end Stands

section Boundary
variable {r s : State} {p : Nat}

theorem StepStands.ite {c : Prop} {_ : Decidable c} {t : State} (ht : StepStands r p t) (hs : StepStands r p s) : StepStands r p (if c then t else s) := by
  split
  · exact ht
  · exact hs

theorem StepStands.applyWaiting (h : StepStands r p s) (w : Waiting) : StepStands r p (s.applyWaiting p w) := by
  unfold State.applyWaiting
  extract_lets index sub old new gone written hashed x routine routed k lo code
  have hhashed : StepStands r p hashed := (h.setObj ..).setObj ..
  have hrouted : StepStands r p routed := hhashed.setPart rfl
  exact .ite (.ite h (h.setObj ..)) (.ite ((hrouted.setCore ..).wipe _) (h.setObj ..))

theorem StepStands.cutOrMark (h : StepStands r p s) (i : Nat) : StepStands r p (s.cutOrMark p i) :=
  .ite (h.of_eq (by simp) (by simp)) (h.of_eq (by simp [State.cutRequest]) (by simp))

theorem StepStands.cutAll (h : StepStands r p s) (l : List (Nat × Request)) : StepStands r p (l.foldl (fun s e => s.cutOrMark p e.1) s) :=
  h.foldl (fun _ _ ht => ht.cutOrMark _) l

theorem StepStands.drained (h : StepStands r p s) : StepStands r p (s.drained p) := by
  obtain ⟨_, _, hpart⟩ := State.drained_part s p
  exact ⟨(State.setPart_jobs ..).trans h.1, (congrArg Part.stepCount hpart).trans h.2⟩

theorem StepStands.eraseKey (h : StepStands r p s) (i : Nat) : StepStands r p (s.eraseKey i) := by
  unfold State.eraseKey
  extract_lets t erased unnamed
  have herased : StepStands r p erased := h.of_eq (State.setKey_jobs ..) (State.setKey_parts ..)
  have hunnamed : ∀ u v, StepStands r p u → StepStands r p (unnamed u v) := fun u v hu => .ite (hu.setObj ..) hu
  exact (hunnamed _ _ (hunnamed _ _ herased)).of_eq (State.logEvent_jobs ..) (State.logEvent_parts ..)

theorem StepStands.eraseHere (h : StepStands r p s) : StepStands r p (s.eraseHere p) := by
  unfold State.eraseHere
  extract_lets l x cleared
  have hcleared : StepStands r p cleared := h.setPart rfl
  exact hcleared.foldl (fun _ _ ht => .ite ht (ht.eraseKey _)) l

theorem StepStands.removeHere (h : StepStands r p s) : StepStands r p (s.removeHere p) := by
  unfold State.removeHere
  refine h.foldl (fun t a ht => .ite ht ?_) _
  extract_lets x dropped
  have hdropped : StepStands r p dropped := ht.setPart rfl
  exact hdropped.setObj ..

theorem Part.setGen_stepCount (x : Part) (g v : Nat) : (x.setGen g v).stepCount = x.stepCount := fieldIte Part.stepCount rfl rfl

theorem StepStands.switchWith (h : StepStands r p s) (cut : Bool) : StepStands r p (s.switchWith p cut) := by
  unfold State.switchWith
  extract_lets x switched y
  have hswitched : StepStands r p switched := by
    unfold switched
    split
    · exact h
    · next g _ =>
      have hset := h.setPart (x := { (x.setGen g 1).setGen (otherGen g) (if cut then 0 else 2) with switchTo := none })
        ((Part.setGen_stepCount ..).trans (Part.setGen_stepCount ..))
      exact .ite (hset.cutAll _) hset
  have hasked := hswitched.setPart (x := { y with cutDrain := false }) rfl
  exact .ite (.ite (hasked.cutAll _).drained hasked) hswitched

theorem Part.loadHandles_stepCount (x : Part) (l : List (Nat × BitVec 128)) : (l.foldl Part.loadHandle x).stepCount = x.stepCount :=
  List.foldlRecOn (motive := fun y : Part => y.stepCount = x.stepCount) _ _ rfl fun y hy e _ =>
    (show (y.loadHandle e).stepCount = y.stepCount from fieldIte Part.stepCount rfl rfl).trans hy

theorem StepStands.boundary (h : StepStands r p s) : StepStands r p (s.boundary p) := by
  unfold State.boundary
  extract_lets left x y loaded ws z applied w zeroed
  have hloaded : StepStands r p loaded := (h.leaveBlocks.setPart (x := { y with newHandles := [] }) (Part.loadHandles_stepCount ..)).wipe _
  have happlied : StepStands r p applied :=
    (hloaded.setPart (x := { loaded.part p with newObjects := [] }) rfl).foldl (fun _ w ht => ht.applyWaiting w) ws
  have hzeroed : StepStands r p zeroed :=
    .ite (happlied.zeroSlip.setPart (x := { w with clearSlip := false }) (happlied.2.trans happlied.zeroSlip.2.symm)) happlied
  exact (((hzeroed.switchWith _).drained).eraseHere.removeHere).measure

end Boundary

/-! ## The start of a step (R130) -/

@[simp] theorem State.loadCalendars_parts (s : State) (p : Nat) : (s.loadCalendars p).parts = s.parts :=
  List.foldlRecOn (motive := fun t : State => t.parts = s.parts) _ _ rfl fun _ h _ _ => h

@[simp] theorem State.loadCalendars_jobs (s : State) (p : Nat) : (s.loadCalendars p).jobs = s.jobs :=
  List.foldlRecOn (motive := fun t : State => t.jobs = s.jobs) _ _ rfl fun _ h _ _ => h

@[simp] theorem State.raise_jobs (s : State) (k cause : Nat) : (s.raise k cause).jobs = s.jobs := rfl

/-- A partition with a ticket starts its step, and the job slots stand. -/
theorem State.startStep_starts {s : State} {p : Nat} {k : Ticket} (hk : (s.part p).nextTicket = some k) :
    StepStarts s (s.startStep p) p k ∧ (s.startStep p).jobs = s.jobs := by
  unfold State.startStep
  rw [hk]
  dsimp -zeta only
  extract_lets begun x lead slots y routine started counted
  have hbegun : StepStands s p begun := (StepStands.refl s p).boundary.wipe _
  have hcalendars : (counted.loadCalendars p).part p = started.part p :=
    State.part_of_parts ((State.loadCalendars_parts ..).trans ((State.count_parts ..).trans (State.count_parts ..))) p
  have hentered : ((counted.loadCalendars p).enterSegment p (field k.desc 32 16)).part p = (started.part p).entered (field k.desc 32 16) := by
    rw [State.enterSegment_part, hcalendars]
  have hjobs : started.jobs = s.jobs := (State.setPart_jobs ..).trans hbegun.1
  constructor
  · rw [StepStarts, State.part_of_parts (State.raise_parts ..), hentered]
    simp only [Part.entered, started, x, State.part_setPart, hbegun.2, and_self]
  · rw [State.raise_jobs, State.enterSegment_jobs, State.loadCalendars_jobs, State.count_jobs, State.count_jobs, hjobs]

/-- The start of a step, said of any state with the same partitions. -/
theorem stepStarts_of_parts {r s t : State} {p : Nat} {k : Ticket} (h : StepStarts s t p k) (hr : r.parts = s.parts) : StepStarts r t p k := by
  unfold StepStarts at *
  rwa [State.part_of_parts hr]

/-! ## The part's own joins and releases (R348 to R350) -/

theorem State.setBarrier_parts (s : State) (j : Nat) (v : Barrier) : (s.setBarrier j v).parts = s.parts := State.setJob_parts ..

theorem State.setBarrier_opsOf (s : State) (j p : Nat) (v : Barrier) : (s.setBarrier j v).opsOf p = s.opsOf p := by
  obtain ⟨-, hblocks, hparts, -⟩ := s.setBarrier_spec j v
  simp only [State.opsOf, State.block, State.part, hblocks, hparts]

/-- A step barrier v of job slot j has been released; of the step barriers known, v and those after it are kept. -/
def State.stepReleased (s : State) (j : Nat) (v : Barrier) : State :=
  let t := s.setBarrier j { v with released := true }
  t.setJob j { t.job j with barriers := (t.job j).barriers.filter (fun z => z.kind == 0 && (z.seq == v.seq || precedes 32 v.seq z.seq)) }

theorem State.stepReleased_parts (s : State) (j : Nat) (v : Barrier) : (s.stepReleased j v).parts = s.parts :=
  (State.setJob_parts ..).trans (State.setBarrier_parts ..)

section Releases
variable {p : Fin 64} {s : State}

theorem execStepBarrierJoin_alone (hmay : s.mayJoin p.val = true) (halone : s.agrees p.val = none) :
    execStepBarrierJoin p s = .next (s.setPart p.val { s.part p.val with joined := true, timeHeld := false }) := by
  simp only [execStepBarrierJoin, hmay, halone, Bool.not_true, Bool.false_eq_true, if_false]

theorem execStepBarrierJoin_joins {j : Nat} (hmay : s.mayJoin p.val = true) (hj : s.agrees p.val = some j) (htime : s.inTime = true) :
    execStepBarrierJoin p s =
      .next ((s.setPart p.val { s.part p.val with joined := true, timeHeld := false }).joinBarrier j 0 (s.part p.val).stepCount) := by
  simp only [execStepBarrierJoin, hmay, hj, htime, Bool.not_true, Bool.false_eq_true, if_false]

theorem execBarrierRelease_alone (hl : s.live = true) (hjoined : (s.part p.val).stepState = .waiting ∧ (s.part p.val).joined = true)
    (halone : s.agrees p.val = none) : execBarrierRelease p s = .next (s.startStep p.val) := by
  simp [execBarrierRelease, hl, hjoined, halone]

section Due
variable {j : Nat} {v : Barrier} (hl : s.live = true) (hmany : s.agrees p.val ≠ none) (hj : s.jobOf p.val = some j)
  (hv : (s.job j).barriers.find? (fun y => y.due s.town) = some v)
include hl hmany hj hv

theorem execBarrierRelease_step (hstep : v.kind = 0 ∧ (s.part p.val).stepState = .waiting ∧ (s.part p.val).joined = true) :
    execBarrierRelease p s = .next ((s.stepReleased j v).startStep p.val) := by
  simp [execBarrierRelease, hl, hmany, hj, hv, hstep, State.stepReleased]

theorem execBarrierRelease_descriptor (hkind : v.kind = 1) :
    execBarrierRelease p s = .next ((s.setBarrier j { v with released := true }).freeBarrier p.val v.seq) := by
  simp [execBarrierRelease, hl, hmany, hj, hv, hkind]

end Due

end Releases

/-! ## Barrier packets (R347, R348) -/

theorem execBarrierJoin_takes {s t : State} {n j : Nat} {k : Packet} (hk : s.takeType 0x28 = some (n, k, t)) (hj : t.openSlot k.job = some j) :
    execBarrierJoin s = .next (
      let v := (t.job j).barrier (k.flags % 2) k.woffset
      if v.released then (if (t.part (t.jobPart j)).episode.since.isNone then t.sendRelease j [k.src] v else t)
      else (t.setBarrier j { v with children := if v.children.contains k.src then v.children else v.children ++ [k.src] }).joinOn j (k.flags % 2) k.woffset) := by
  simp only [execBarrierJoin, hk, hj]
  exact (apply_ite Host.Outcome.next ..).symm

theorem execBarrierReleasePacket_takes {s t : State} {n j : Nat} {k : Packet} {w : Word} (hk : s.takeType 0x29 = some (n, k, t))
    (hj : t.openSlot k.job = some j ∧ k.goodWord 0 = some w)
    (hv : ((t.job j).barrier (k.flags % 2) k.woffset).joined = true ∧ ((t.job j).barrier (k.flags % 2) k.woffset).release = none
      ∧ (t.part (t.jobPart j)).episode.since = none) :
    execBarrierReleasePacket s = .next (
      let v := { (t.job j).barrier (k.flags % 2) k.woffset with release := some (field w 0 64) }
      let u := if field w 0 64 < t.town then t.count 0x9800 0x0A 1 else t
      (u.setBarrier j v).sendRelease j (u.childrenOf (u.boxOf j)) v) := by
  obtain ⟨hjoined, hrelease, hepisode⟩ := hv
  simp only [execBarrierReleasePacket, hk, hj.1, hj.2, hjoined, hrelease, hepisode, Bool.not_true, Bool.false_eq_true, Option.isSome_none, or_self, if_false]

/-! ## Joins without a release (R348, R377, R378) -/

section Late
variable {p : Fin 64} {s : State} {j : Nat} {v : Barrier} (hl : s.live = true) (hj : s.jobOf p.val = some j)
include hl hj

theorem execJoinRepeat_repeats
    (hv : (s.job j).barriers.find? (fun v => v.release.isNone && v.sentAt.any (fun t => decide (t + 10 * Config.ticksPerUs ≤ s.town))) = some v) :
    execJoinRepeat p s = .next ((s.setBarrier j { v with sentAt := some s.town }).sendJoin j v) := by
  simp only [execJoinRepeat, hl, hj, hv]

theorem execBarrierTimeout_times (hv : (s.job j).barriers.find? (fun v => v.joined && v.release.isNone && !v.failed
      && decide (v.joinedAt + s.objNat (0x7200 + j) 0x09 * Config.ticksPerUs ≤ s.town)) = some v) :
    execBarrierTimeout p s = .next (
      let t := s.setBarrier j { v with failed := true }
      if (t.part p.val).stepState = .running then t.failStep p.val .fault 6 else t.originate p.val 6 Status.fault.code 0xFF false) := by
  simp only [execBarrierTimeout, hl, hj, hv]

end Late

/-- Settles O23: each event under its conditions; a join is recorded (`joinBarrier_spec`), a step barrier released starts the step (`startStep_starts`), and one
that times out fences a running partition (`failStep_part`). -/
theorem barriersRun : Obligations.BarriersRun := by
  refine ⟨fun _ _ hmay halone => execStepBarrierJoin_alone hmay halone, ?_, ?_, ?_, ?_, fun _ _ _ _ _ hk hj => execBarrierJoin_takes hk hj,
    fun _ _ _ _ _ _ hk hj hv => execBarrierReleasePacket_takes hk hj hv, fun _ _ _ _ hl hj hv => execJoinRepeat_repeats hl hj hv, ?_⟩
  · intro p s j hmay hj htime
    have hjoins := execStepBarrierJoin_joins hmay hj htime
    refine ⟨hjoins, fun t ht => ?_⟩
    cases hjoins.symm.trans ht
    obtain ⟨hjoined, hat, -, hparts, -⟩ :=
      (s.setPart p.val { s.part p.val with joined := true, timeHeld := false }).joinBarrier_spec j 0 (s.part p.val).stepCount
    exact ⟨by rw [State.part_of_parts hparts, State.part_setPart], hjoined, hat.trans (State.town_setPart ..)⟩
  · intro p s k hl hjoined halone hk
    exact ⟨execBarrierRelease_alone hl hjoined halone, (State.startStep_starts hk).1⟩
  · intro p s j v k hl hmany hj hv hstep hk
    have hparts := s.stepReleased_parts j v
    obtain ⟨hstarts, hjobs⟩ := State.startStep_starts (s := s.stepReleased j v) (p := p.val) (k := k) (by rwa [State.part_of_parts hparts])
    refine ⟨_, execBarrierRelease_step hl hmany hj hv hstep, stepStarts_of_parts hstarts hparts.symm, ?_⟩
    rw [State.job, hjobs]
    exact congrArg Job.barriers (State.job_setJob ..)
  · intro p s j v hl hmany hj hv hkind
    rw [← State.setBarrier_opsOf s j p.val { v with released := true }]
    exact execBarrierRelease_descriptor hl hmany hj hv hkind
  · intro p s j v hl hj hv
    have htimes := execBarrierTimeout_times hl hj hv
    refine ⟨htimes, fun hrun t ht => ?_⟩
    have hstep : ((s.setBarrier j { v with failed := true }).part p.val).stepState = .running := by
      rwa [State.part_of_parts (State.setBarrier_parts ..)]
    cases htimes.symm.trans ht
    rw [if_pos hstep]
    exact State.failStep_part hstep

end Sys2Proof.Machine
end

section
/-! PROOFS. The commands over partitions and their generations (O36). -/
namespace Sys2Proof.Machine

/-! ## Rows of an object for each of many things -/

/-- A request to the k-th of n objects of one kind whose act succeeds is answered with what the act leaves. -/
theorem row_runs_nth {s T : State} {src : Source} {l : List Byte} {rest : List (Source × List Byte)} {base k n u : Nat} {a : Ask}
    {act : State → Ask → Except Nat Done} {d : Done} (h : Row s src l rest (base + k) u T a) (hk : k < n) (hd : act T a = .ok d) :
    s.cdpRow .head (writesAt base n u) act = d.answer l a := by
  obtain ⟨hw, rfl, rfl⟩ := h
  have hmine : writesAt base n u (cMsg l) (base + k) u = true := by
    rcases hw.2 with hm | hm <;> simp [writesAt, within, hm, hk]
  exact Commanded.runs hw hmine hd

/-! ## A partition created (R270, R288) -/

theorem State.setCounters_parts (s : State) (index n : Nat) (l : List Nat) :
    (l.foldl (fun s i => s.setCounter index (i + 1) n) s).parts = s.parts :=
  List.foldlRecOn (motive := fun t : State => t.parts = s.parts) _ _ rfl fun t ht i _ => (t.setCounter_parts index (i + 1) n).trans ht

/-- What the value of a CREATE makes of a FREE partition, before it is measured. -/
def State.newPart (s : State) (v : List Byte) : Part :=
  { partState := 1, blockMap := BitVec.ofNat 256 (leAt v 0 32), owner := leAt v 32 1, exclusive := leAt v 33 1 == 1,
    channels := (channelsOfMap (BitVec.ofNat 256 (leAt v 0 32))).filterMap (fun c => (s.freeSlot c).map (fun k => (c, k))), changedAt := s.town }

/-- Partition p is made of the value of a CREATE, its counters zeroed, its owner admitted, and it is measured. -/
def State.createPart (s : State) (p : Nat) (v : List Byte) : State :=
  (((List.range 15).foldl (fun s i => s.setCounter (0x9500 + p) (i + 1) 0)
    ((List.range 0x13).foldl (fun s i => s.setCounter (0x9100 + p) (i + 1) 0) (s.setPart p (s.newPart v)))).setObj
      (0x4000 + p) 0x04 (natBytes 32 (2 ^ leAt v 32 1))).measure p

theorem State.createPart_part (s : State) (p : Nat) (v : List Byte) :
    ∃ measured, (s.createPart p v).part p = { s.newPart v with measured := measured } := by
  rw [State.createPart, State.measure, State.part_setPart,
    State.part_of_parts ((State.setObj_parts ..).trans ((State.setCounters_parts ..).trans (State.setCounters_parts ..))), State.part_setPart]
  exact ⟨_, rfl⟩

/-! ## A partition destroyed (R272) -/

/-- What remains of a partition that is DESTROYING: its blocks and its owner. -/
def Part.destroyed (x : Part) : Part := { partState := 2, blockMap := x.blockMap, owner := x.owner, exclusive := x.exclusive }

theorem State.destroyPart_part (s : State) (p : Nat) : (s.destroyPart p).part p = (s.part p).destroyed := by
  have hchannels : ∀ (l : List Nat) (t : State),
      (l.foldl (fun s c => (s.setObj (0x6100 + c) 0x01 (natBytes 1 0xFF)).beginClearChannel c) t).parts = t.parts := fun l t =>
    List.foldlRecOn (motive := fun r : State => r.parts = t.parts) _ _ rfl fun r hr c _ => (r.setObj_parts (0x6100 + c) 0x01 (natBytes 1 0xFF)).trans hr
  have hblocks : ∀ (l : List Nat) (t : State), (l.foldl (fun s b => s.beginClear b p) t).parts = t.parts := fun l t =>
    List.foldlRecOn (motive := fun r : State => r.parts = t.parts) _ _ rfl fun _ hr _ _ => hr
  exact (State.part_of_parts ((hblocks ..).trans (hchannels ..)) p).trans (State.part_setPart ..)

/-! ## The acts of the rows -/

section Acts
variable {s : State} {a : Ask} {p : Nat}

theorem actCreate_ok (hi : a.index = 0x4000 + p) (hrights : (s.part p).partState = 0 ∧ (s.tenant (leAt a.value 32 1)).state = 1)
    (hrange : leAt a.value 33 1 ≤ 1 ∧ s.mapOk (BitVec.ofNat 256 (leAt a.value 0 32)) (leAt a.value 33 1 == 1) = true) :
    actCreate s a = .ok { s := s.createPart p a.value } := by
  obtain ⟨hfree, howner⟩ := hrights
  obtain ⟨hflags, hmap⟩ := hrange
  simp only [actCreate, needs, hi, Nat.add_sub_cancel_left, hfree, howner, hflags, hmap, beq_self_eq_true, decide_true, Bool.and_self, if_true,
    State.createPart, State.newPart]

theorem actDestroy_ok (hi : a.index = 0x4000 + p) (h : s.destroyable p = true) : actDestroy s a = .ok { s := s.destroyPart p } := by
  simp only [actDestroy, needs, hi, Nat.add_sub_cancel_left, h, if_true]

theorem actAdmitted_ok (hi : a.index = 0x4000 + p) (h : bitAt (BitVec.ofNat 256 a.num) (s.part p).owner = true) :
    actAdmitted s a = .ok { s := s.putWait p (0x4000 + p) a.sub a.value } := by
  simp only [actAdmitted, needs, hi, Nat.add_sub_cancel_left, h, if_true]

theorem actQuoteNonce_ok (hi : a.index = 0x4000 + p) :
    actQuoteNonce s a = .ok { s := s.setPart p { s.part p with nonce := some a.value } } := by
  simp only [actQuoteNonce, hi, Nat.add_sub_cancel_left]

theorem actSwitch_ok (hi : a.index = 0x5200 + p) (hg : a.num ≤ 1) (h : (s.part p).gen a.num = 0 ∧ s.objNat (0x5200 + p) (1 + a.num) ≠ 0
      ∧ (s.part p).gen (otherGen a.num) = 1 ∧ s.genRequests p a.num = []) :
    actSwitch s a = .ok { s := s.setPart p { s.part p with switchTo := some a.num } } := by
  obtain ⟨hempty, hroot, hother, hnone⟩ := h
  simp [actSwitch, needs, hi, hg, hempty, hroot, hother, hnone]

theorem actCutDraining_ok (hi : a.index = 0x5200 + p) (h : (s.part p).gen0 = 2 ∨ (s.part p).gen1 = 2) :
    actCutDraining s a = .ok { s := s.setPart p { s.part p with cutDrain := true } } := by
  simp [actCutDraining, needs, hi, h]

theorem actClear_ok (hi : a.index = 0x9100 + p) : actClear s a = .ok { s := s.setPart p { s.part p with clearSlip := true } } := by
  simp only [actClear, hi, Nat.add_sub_cancel_left]

end Acts

/-- Settles O36: each request runs its act (`row_runs_nth`), which succeeds under the conditions of its rule; a partition created or destroyed is as
`createPart_part` and `destroyPart_part` say. -/
theorem partitionCommandsRun : Obligations.PartitionCommandsRun := by
  refine ⟨?_, ?_, ?_, ?_, ?_, ?_, ?_⟩
  · intro s T src l rest a n h hrights hrange
    obtain ⟨measured, hpart⟩ := T.createPart_part n.val a.value
    refine ⟨T.createPart n.val a.value, congrArg Host.Outcome.next (row_runs_nth h n.isLt (actCreate_ok (row_object h).1 hrights hrange)), rfl, ?_⟩
    rw [hpart]
    exact ⟨rfl, rfl, rfl, rfl, rfl, rfl⟩
  · intro s T src l rest a n h hmay
    refine ⟨T.destroyPart n.val, congrArg Host.Outcome.next (row_runs_nth h n.isLt (actDestroy_ok (row_object h).1 hmay)), rfl, ?_⟩
    rw [T.destroyPart_part]
    exact ⟨rfl, rfl, rfl, rfl⟩
  · intro s T src l rest a n h howner
    obtain ⟨hi, hu⟩ := row_object h
    exact congrArg Host.Outcome.next (row_runs_nth h n.isLt (hu ▸ actAdmitted_ok hi howner))
  · intro s T src l rest a n h
    exact congrArg Host.Outcome.next (row_runs_nth h n.isLt (actQuoteNonce_ok (row_object h).1))
  · intro s T src l rest a n h hg hmay
    exact congrArg Host.Outcome.next (row_runs_nth h n.isLt (actSwitch_ok (row_object h).1 hg hmay))
  · intro s T src l rest a n h hdrains
    exact congrArg Host.Outcome.next (row_runs_nth h n.isLt (actCutDraining_ok (row_object h).1 hdrains))
  · intro s T src l rest a n h
    exact congrArg Host.Outcome.next (row_runs_nth h n.isLt (actClear_ok (row_object h).1))

end Sys2Proof.Machine
end

section
/-! PROOFS. The rules of the registers, the pc and the data memory of cores and of routines (R158, R163, R167). -/
namespace Sys2Proof.Machine

/-! ## One routine, and one core, changed alone -/

/-- Of the partitions, t changes p alone, whose routine becomes r; and no memory. -/
def RoutineIs (s : State) (p : Nat) (r : Routine) (t : State) : Prop :=
  t.part p = { s.part p with routine := r } ∧ (∀ q, q ≠ p → t.part q = s.part q) ∧ t.mem = s.mem

theorem RoutineIs.refl (s : State) (p : Nat) : RoutineIs s p (s.part p).routine s := ⟨rfl, fun _ _ => rfl, rfl⟩

section RoutineIs
variable {s t : State} {p : Nat} {r : Routine} (h : RoutineIs s p r t)
include h

theorem RoutineIs.routine : (t.part p).routine = r := congrArg Part.routine h.1

theorem RoutineIs.of_parts {u : State} (hparts : u.parts = t.parts) (hmem : u.mem = t.mem) : RoutineIs s p r u := by
  obtain ⟨hself, hother, hstands⟩ := h
  exact ⟨(State.part_of_parts hparts p).trans hself, fun q hq => (State.part_of_parts hparts q).trans (hother q hq), hmem.trans hstands⟩

theorem RoutineIs.setRoutine (r' : Routine) : RoutineIs s p r' (t.setRoutine p r') := by
  obtain ⟨hself, hother, hstands⟩ := h
  refine ⟨?_, fun q hq => (State.part_setPart_ne t hq _).trans (hother q hq), (State.setPart_mem ..).trans hstands⟩
  rw [State.setRoutine, State.part_setPart, hself]

theorem RoutineIs.modify (f : Routine → Routine) : RoutineIs s p (f r) (t.setRoutine p (f (t.part p).routine)) := by
  rw [h.routine]
  exact h.setRoutine _

end RoutineIs

theorem coreIs_refl (s : State) (k : Nat) : CoreIs s k (s.core k) s := ⟨rfl, fun _ _ => rfl, rfl, rfl⟩

section Cores
variable {s t : State} {k : Nat} {c : Core} (h : CoreIs s k c t)
include h

theorem coreIs_core : t.core k = c := h.1

theorem coreIs_of_eq {u : State} (hcores : u.cores = t.cores) (hparts : u.parts = t.parts) (hmem : u.mem = t.mem) : CoreIs s k c u := by
  have hcore : ∀ j, u.core j = t.core j := fun j => congrArg (Table.get ({} : Core) · j) hcores
  obtain ⟨hself, hother, hp, hm⟩ := h
  exact ⟨(hcore k).trans hself, fun j hj => (hcore j).trans (hother j hj), hparts.trans hp, hmem.trans hm⟩

theorem coreIs_setCore (c' : Core) : CoreIs s k c' (t.setCore k c') := by
  obtain ⟨-, hother, hparts, hmem⟩ := h
  exact ⟨State.core_setCore .., fun j hj => (State.core_setCore_ne t hj _).trans (hother j hj), hparts, hmem⟩

theorem coreIs_modify (f : Core → Core) : CoreIs s k (f c) (t.setCore k (f (t.core k))) := by
  rw [coreIs_core h]
  exact coreIs_setCore h _

theorem coreIs_raise (cause : Nat) : CoreIs s k { c with mip := c.mip ||| BitVec.ofNat 64 (2 ^ cause) } (t.raise k cause) := by
  rw [← Nat.one_shiftLeft]
  exact coreIs_modify h fun c => { c with mip := c.mip ||| BitVec.ofNat 64 (1 <<< cause) }

end Cores

/-! ## Registers -/

/-- The registers after a write, which register 0 discards. -/
def writtenRegs (regs : Table (BitVec 64)) (i : Nat) (v : BitVec 64) : Table (BitVec 64) := if i = 0 then regs else regs.put i v

theorem writtenRegs_get {regs : Table (BitVec 64)} {i j : Nat} {v : BitVec 64} (hj : j ≠ 0) :
    (writtenRegs regs i v).get 0 j = if j = i then v else regs.get 0 j := by
  unfold writtenRegs
  split
  · next hi => rw [if_neg (hi ▸ hj)]
  · exact Table.get_put ..

theorem writtenRegs_get_self {regs : Table (BitVec 64)} {i : Nat} {v : BitVec 64} (hi : i ≠ 0) : (writtenRegs regs i v).get 0 i = v :=
  (writtenRegs_get hi).trans (if_pos rfl)

theorem RoutineIs.setReg {s t : State} {p : Nat} {r : Routine} (h : RoutineIs s p r t) (k i : Nat) (v : BitVec 64) :
    RoutineIs s p { r with regs := writtenRegs r.regs i v } (t.setReg k (.routine p) i v) := by
  unfold State.setReg writtenRegs
  split
  · exact h
  · exact h.modify fun r => { r with regs := r.regs.put i v }

theorem coreIs_setReg {s t : State} {k : Nat} {c : Core} (h : CoreIs s k c t) (i : Nat) (v : BitVec 64) :
    CoreIs s k { c with regs := writtenRegs c.regs i v } (t.setReg k .firmware i v) := by
  unfold State.setReg writtenRegs
  split
  · exact h
  · exact coreIs_modify h fun c => { c with regs := c.regs.put i v }

@[simp] theorem State.setReg_routine_core (s : State) (k p i j : Nat) (v : BitVec 64) : (s.setReg k (.routine p) i v).core j = s.core j :=
  fieldIte (State.core · j) rfl (State.core_setPart ..)

/-! ## The pc past an extension instruction (R167) -/

theorem RoutineIs.advance {s t : State} {p : Nat} {r : Routine} (h : RoutineIs s p r t) (k n : Nat) :
    RoutineIs s p { r with pc := r.pc + 4, busy := n } (t.advance k (.routine p) n) :=
  (h.of_parts (u := t.retireInstr k) rfl rfl).modify fun r => { r with pc := r.pc + 4, busy := n }

theorem coreIs_advance {s t : State} {k : Nat} {c : Core} (h : CoreIs s k c t) (n : Nat) :
    CoreIs s k { c with pc := c.pc + 4, busy := n, retired := c.retired + 1 } (t.advance k .firmware n) :=
  coreIs_modify h fun c => { c with pc := c.pc + 4, busy := n, retired := c.retired + 1 }

/-- Of its core, an instruction of a routine counts itself alone. -/
theorem State.advance_routine_core (s : State) (k p n : Nat) : (s.advance k (.routine p) n).core k = { s.core k with retired := (s.core k).retired + 1 } :=
  (State.core_setPart ..).trans (State.core_setCore ..)

/-! ## What an instruction may store -/

/-- The state after what an instruction stores, if anything. -/
def State.stored (s : State) (k : Nat) : Option (Nat × List Byte) → State
  | some (a, l) => s.store k a l
  | none => s

@[simp] theorem State.stored_parts (s : State) (k : Nat) (st : Option (Nat × List Byte)) : (s.stored k st).parts = s.parts := by cases st <;> rfl
@[simp] theorem State.stored_mem (s : State) (k : Nat) (st : Option (Nat × List Byte)) : (s.stored k st).mem = s.mem := by cases st <;> rfl

theorem coreIs_stored {s t : State} {k : Nat} {c : Core} (h : CoreIs s k c t) (st : Option (Nat × List Byte)) :
    ∃ m, CoreIs s k { c with dmem := m } (t.stored k st) := by
  cases st with
  | none => exact ⟨c.dmem, h⟩
  | some e => exact ⟨_, coreIs_of_eq (coreIs_modify h fun c => { c with dmem := putBytes c.dmem e.1 e.2 }) rfl rfl rfl⟩

end Sys2Proof.Machine
end

section
/-! PROOFS. The routine entry, the slices and the core cycles (O32). -/
namespace Sys2Proof.Machine

/-! ## The entry and the slices (R163, R165) -/

section Slices
variable {p : Fin 64} {s : State}

theorem execRoutineEntry_enters (hl : s.live = true)
    (hmay : (s.part p.val).partState ≠ 0 ∧ (s.part p.val).routine.started = true ∧ (s.part p.val).routine.code ≠ [])
    (hslice : s.inSlice p.val = true ∧ s.sliceAfterStart p.val = true) :
    execRoutineEntry p s = .next (s.setRoutine p.val { (s.part p.val).routine with
      mode := .running, started := false, busy := 0, reserved := none, pc := BitVec.ofNat 64 (slotCode (s.slotOf p.val)),
      regs := [(10, BitVec.ofNat 64 (s.part p.val).routine.stepNo), (11, BitVec.ofNat 64 (s.part p.val).routine.segment)] }) := by
  obtain ⟨hpart, hstarted, hcode⟩ := hmay
  exact if_pos ⟨hl, hpart, hstarted, hcode, hslice⟩

/-- Without a step start that waits, a routine is not entered (R166). -/
theorem execRoutineEntry_stays (h : (s.part p.val).routine.started = false) : execRoutineEntry p s = .next s :=
  if_neg fun ⟨_, _, hstarted, _⟩ => Bool.false_ne_true (h.symm.trans hstarted)

theorem execSliceBegin_resumes (hl : s.live = true) (h : (s.part p.val).routine.mode = .suspended ∧ s.inSlice p.val = true) :
    execSliceBegin p s = .next (s.setRoutine p.val { (s.part p.val).routine with mode := .running }) := if_pos ⟨hl, h⟩

theorem execSliceEnd_suspends (hl : s.live = true) (hrun : (s.part p.val).routine.mode = .running) (hout : s.inSlice p.val = false) :
    execSliceEnd p s = .next (s.setRoutine p.val { (s.part p.val).routine with mode := .suspended }) :=
  if_pos ⟨hl, hrun, by rw [hout]; rfl⟩

end Slices

/-! ## Core cycles (R159, R163) -/

/-- An instruction of a routine changes its own routine alone. -/
theorem RoutineIs.rvEffect {s t : State} {p : Nat} {r : Routine} (h : RoutineIs s p r t) (k : Nat) (d : RvDone) :
    RoutineIs s p { r with regs := writtenRegs r.regs d.rd d.value, pc := d.pc, busy := d.cycles, reserved := d.reserved } (t.rvEffect k p d) := by
  have hretired : RoutineIs s p r ((t.stored k d.store).retireInstr k) := h.of_parts (t.stored_parts k d.store) (t.stored_mem k d.store)
  exact (hretired.setReg k d.rd d.value).modify fun r => { r with pc := d.pc, busy := d.cycles, reserved := d.reserved }

theorem State.rvEffect_retired (s : State) (k p : Nat) (d : RvDone) : ((s.rvEffect k p d).core k).retired = (s.core k).retired + 1 := by
  obtain ⟨m, hstored⟩ := coreIs_stored (coreIs_refl s k) d.store
  have hcore : (s.rvEffect k p d).core k = ((s.stored k d.store).retireInstr k).core k := (State.core_setPart ..).trans (State.setReg_routine_core ..)
  rw [hcore, State.retireInstr, State.core_setCore, coreIs_core hstored]

/-- An instruction of firmware that writes no CSR and returns from no trap changes its core alone. -/
theorem coreIs_fwEffect {s t : State} {k : Nat} {c : Core} {d : RvDone} (h : CoreIs s k c t) (hplain : d.csr = none ∧ d.mret = false) :
    ∃ m, CoreIs s k { c with dmem := m, regs := writtenRegs c.regs d.rd d.value, pc := d.pc, busy := d.cycles, reserved := d.reserved, retired := c.retired + 1 }
      (t.fwEffect k d) := by
  obtain ⟨m, hstored⟩ := coreIs_stored h d.store
  have hset := coreIs_modify (coreIs_setReg hstored d.rd d.value) fun c => { c with pc := d.pc, busy := d.cycles, reserved := d.reserved, retired := c.retired + 1 }
  refine ⟨m, ?_⟩
  unfold State.fwEffect
  rw [hplain.1, hplain.2]
  dsimp only
  split
  · exact coreIs_of_eq hset rfl rfl rfl
  · exact hset

section Cycle
variable {s : State} {k : Nat}

theorem State.coreCycle_firmware (h : s.firmwareTurn k = true) : s.coreCycle k = s.fwCycle k := if_pos h

theorem State.coreCycle_routine {p : Nat} (hk : k < 16) (hturn : s.firmwareTurn k = false) (hp : s.userPart k (s.calendar k / 64 - 1) = some p) :
    s.coreCycle k = s.routineCycle k p := by
  simp only [State.coreCycle, hturn, hk, hp, Bool.false_eq_true, if_false, if_true]

theorem State.routineCycle_done {p : Nat} {d : RvDone} (hb : (s.part p).routine.busy ≤ 1)
    (hd : (s.setRoutine p { (s.part p).routine with busy := 0 }).rvNow k p = .done d) :
    s.routineCycle k p = (s.setRoutine p { (s.part p).routine with busy := 0 }).rvEffect k p d := by
  simp only [State.routineCycle, Nat.not_lt.2 hb, if_false, hd]

theorem State.fwCycle_interrupt {i : Nat} (hb : (s.core k).busy ≤ 1) (hi : (s.core k).interrupt = some i) :
    s.fwCycle k = s.setCore k ((s.core k).takeInterrupt i) := by
  simp only [State.fwCycle, Nat.not_lt.2 hb, if_false, hi]

theorem State.fwCycle_done {d : RvDone} (hb : (s.core k).busy ≤ 1) (hi : (s.core k).interrupt = none)
    (hd : (s.setCore k { s.core k with busy := 0 }).fwNow k = .done d) : s.fwCycle k = (s.setCore k { s.core k with busy := 0 }).fwEffect k d := by
  simp only [State.fwCycle, Nat.not_lt.2 hb, if_false, hi, hd]

end Cycle

/-- The interrupt that is taken is pending, and its number is one of R176. -/
theorem Core.interrupt_pends {c : Core} {i : Nat} (h : c.interrupt = some i) : c.mip.getLsbD i = true ∧ i < 22 := by
  unfold Core.interrupt at h
  split at h
  · have hbit := List.find?_some h
    have hmem := List.mem_of_find?_eq_some h
    simp only [bitAt, BitVec.getLsbD_and, Bool.and_eq_true] at hbit
    simp only [List.mem_cons, List.mem_map, List.mem_range] at hmem
    exact ⟨hbit.2, by omega⟩
  · nomatch h

theorem Core.takeInterrupt_mcause (c : Core) {i : Nat} (h : i < 2 ^ 63) : (c.takeInterrupt i).mcause = BitVec.ofNat 64 (2 ^ 63 + i) := by
  have hor := Nat.two_pow_add_eq_or_of_lt h 1
  rw [Nat.mul_one] at hor
  exact congrArg (BitVec.ofNat 64) hor.symm

/-- Settles O32: the entry and the slices under their conditions, and a core cycle is the instruction's (`RoutineIs.rvEffect`, `coreIs_fwEffect`) or takes the
interrupt (`fwCycle_interrupt`). -/
theorem routineEventsRun : Obligations.RoutineEventsRun := by
  refine ⟨fun _ _ hl hmay hslice => execRoutineEntry_enters hl hmay hslice, fun _ _ hl h => execSliceBegin_resumes hl h,
    fun _ _ hl h => execSliceEnd_suspends hl h.1 h.2, ?_, ?_, ?_⟩
  · rintro k p s d ⟨hk, hturn, hp⟩ hb hd
    obtain ⟨hself, hother, hmem⟩ := ((RoutineIs.refl s p).setRoutine { (s.part p).routine with busy := 0 }).rvEffect k d
    have hretired := (s.setRoutine p { (s.part p).routine with busy := 0 }).rvEffect_retired k p d
    rw [State.setRoutine, State.core_setPart] at hretired
    rw [State.coreCycle_routine hk hturn hp, State.routineCycle_done hb hd, hself]
    exact ⟨hmem, rfl, rfl, writtenRegs_get_self, hretired, hother⟩
  · rintro k s d hturn ⟨hb, hi⟩ hd hplain
    obtain ⟨m, hself, hother, hparts, hmem⟩ := coreIs_fwEffect (coreIs_setCore (coreIs_refl s k) { s.core k with busy := 0 }) hplain
    rw [State.coreCycle_firmware hturn, State.fwCycle_done hb hi hd, hself]
    exact ⟨hmem, rfl, rfl, writtenRegs_get_self, hother, hparts⟩
  · rintro k i s hturn ⟨hb, hi⟩
    obtain ⟨hpends, hnumber⟩ := Core.interrupt_pends hi
    exact ⟨(State.coreCycle_firmware hturn).trans (State.fwCycle_interrupt hb hi), rfl, Core.takeInterrupt_mcause _ (by omega), hpends⟩

end Sys2Proof.Machine
end

section
/-! PROOFS. The fault of a routine (O33). -/
namespace Sys2Proof.Machine

/-! ## What a failing step leaves (R124) -/

/-- A failure changes of the partitions at most its own, and there no routine. -/
theorem State.fence_parts (s : State) (p : Nat) (f : Failure) :
    (s.fence p f).parts = s.parts ∨ ∃ x, (s.fence p f).parts = s.parts.put p x ∧ x.routine = (s.part p).routine := by
  have hfreeze : (s.endFreeze p).parts = s.parts := by
    unfold State.endFreeze
    split <;> simp
  unfold State.fence
  dsimp only
  split
  · exact .inr ⟨_, (State.logEvent_parts ..).trans ((State.setPart_parts ..).trans (congrArg (Table.put · p _) hfreeze)), rfl⟩
  · split
    · exact .inr ⟨_, State.setPart_parts .., rfl⟩
    · exact .inl rfl
  · exact .inl rfl

@[simp] theorem State.fence_mem (s : State) (p : Nat) (f : Failure) : (s.fence p f).mem = s.mem := by
  have hfreeze : (s.endFreeze p).mem = s.mem := by
    unfold State.endFreeze
    split <;> simp
  unfold State.fence
  dsimp only
  split
  · exact (State.logEvent_mem ..).trans ((State.setPart_mem ..).trans hfreeze)
  · exact fieldIte State.mem (State.setPart_mem ..) rfl
  · rfl

theorem State.fence_part_ne (s : State) {p q : Nat} (h : q ≠ p) (f : Failure) : (s.fence p f).part q = s.part q := by
  rcases s.fence_parts p f with hp | ⟨x, hp, -⟩
  · exact State.part_of_parts hp q
  · rw [State.part, hp]
    exact Table.get_put_ne h ..

theorem State.fence_routine (s : State) (p : Nat) (f : Failure) : ((s.fence p f).part p).routine = (s.part p).routine := by
  rcases s.fence_parts p f with hp | ⟨x, hp, hx⟩
  · exact congrArg Part.routine (State.part_of_parts hp p)
  · rw [State.part, hp, Table.get_put_self, hx]

/-- The cause that stands with a fenced step. -/
theorem fenced_cause {t : State} {p : Nat} {c : Status} (h : Fenced t p c) : (t.part p).failure.map (fun f => f.cause) = some c := by
  obtain ⟨f, hf, hc⟩ := (Option.any_eq_true ..).1 h.2
  rw [hf, Option.map_some, eq_of_beq hc]

/-! ## The fault (R166) -/

/-- The code of a cause in CHOICE_FAULT; that of an EBREAK is free (log 23). -/
def FaultCoded : RoutineFault → Nat → Prop
  | .access, v => v = 1
  | .illegal, v => v = 2
  | .ecall, v => v = 3
  | .ebreak, _ => True

/-- A routine that has faulted, before its step fails: CHOICE_FAULT has its pc and a code, and it idles. -/
def State.faulted (s : State) (p v : Nat) (r : Routine) : State :=
  (s.setObj (0x4000 + p) 0x1B (natBytes 8 (place 56 8 v ||| r.pc.toNat % 2 ^ 32))).setRoutine p { r with mode := .idle }

theorem State.routineFault_eq (s : State) (p : Nat) (cause : RoutineFault) : ∃ (u : State) (v : Nat), u.parts = s.parts ∧ u.mem = s.mem ∧ FaultCoded cause v
    ∧ s.routineFault p cause = ((u.faulted p v (s.part p).routine).failStep p .segment 1).raise ((u.faulted p v (s.part p).routine).leadCore p) 21 := by
  cases cause with
  | access => exact ⟨s, 1, rfl, rfl, rfl, rfl⟩
  | illegal => exact ⟨s, 2, rfl, rfl, rfl, rfl⟩
  | ecall => exact ⟨s, 3, rfl, rfl, rfl, rfl⟩
  | ebreak => exact ⟨(s.draw 8).2, (s.draw 8).1.toNat, rfl, rfl, trivial, rfl⟩

theorem State.faulted_routine {s u : State} (p v : Nat) (r : Routine) (hparts : u.parts = s.parts) (hmem : u.mem = s.mem) :
    RoutineIs s p { r with mode := .idle } (u.faulted p v r) :=
  ((RoutineIs.refl s p).of_parts ((State.setObj_parts ..).trans hparts) ((State.setObj_mem ..).trans hmem)).setRoutine _

theorem State.faulted_obj (s : State) (p v : Nat) (r : Routine) :
    (s.faulted p v r).obj (0x4000 + p) 0x1B = natBytes 8 (place 56 8 v ||| r.pc.toNat % 2 ^ 32) :=
  (State.obj_setPart ..).trans (State.obj_setObj ..)

/-- Settles O33: the fault is `routineFault_eq`; the step that it fails is fenced (`failStep_part`), which leaves the routine idle (`fence_routine`), so that
it is not entered again (`execRoutineEntry_stays`). -/
theorem routineFaultFails : Obligations.RoutineFaultFails := by
  intro p cause s hnow hstarted
  obtain ⟨u, v, hparts, hmem, hcode, hfault⟩ := s.routineFault_eq p.val cause
  have hidle := State.faulted_routine p.val v (s.part p.val).routine hparts hmem
  have hobj := u.faulted_obj p.val v (s.part p.val).routine
  generalize u.faulted p.val v (s.part p.val).routine = t at hfault hidle hobj
  have hpart : ∀ q, (s.routineFault p.val cause).part q = (t.failStep p.val .segment 1).part q := fun q => hfault ▸ State.part_of_parts (State.raise_parts ..) q
  have hroutine : ((s.routineFault p.val cause).part p.val).routine = { (s.part p.val).routine with mode := .idle } := by
    rw [hpart, State.failStep, State.fence_routine, hidle.routine]
  obtain ⟨hself, hother, hstands⟩ := hidle
  refine ⟨_, v, if_pos hnow, fun hrun => ?_, ?_, ?_, ?_, ?_, hroutine, execRoutineEntry_stays ?_, ?_, fun q hq => ?_⟩
  · have hfenced : Fenced (t.failStep p.val .segment 1) p.val .segment := State.failStep_part (by rw [hself]; exact hrun)
    rw [hpart]
    exact ⟨hfenced.1, fenced_cause hfenced⟩
  · rw [hfault, State.raise, State.obj_setCore, State.obj, State.failStep, State.fence_objects]
    exact hobj
  · rintro rfl
    exact hcode
  · rintro rfl
    exact hcode
  · rintro rfl
    exact hcode
  · rw [hroutine]
    exact hstarted
  · rw [hfault]
    exact (State.fence_mem ..).trans hstands
  · rw [hpart, State.failStep, State.fence_part_ne _ hq, hother q hq]

end Sys2Proof.Machine
end

section
/-! PROOFS. The extension instructions of the cores (O34). -/
namespace Sys2Proof.Machine

/-! ## Results (R167) -/

section Results
variable (s : State) (k p rd n : Nat) (v : BitVec 64)

theorem State.result_routine : RoutineIs s p { (s.part p).routine with regs := writtenRegs (s.part p).routine.regs rd v, pc := (s.part p).routine.pc + 4, busy := n }
    (s.result k (.routine p) rd v n) := ((RoutineIs.refl s p).setReg k rd v).advance k n

theorem State.result_routine_core : (s.result k (.routine p) rd v n).core k = { s.core k with retired := (s.core k).retired + 1 } := by
  rw [State.result, State.advance_routine_core, State.setReg_routine_core]

theorem State.result_firmware : CoreIs s k { s.core k with
    regs := writtenRegs (s.core k).regs rd v, pc := (s.core k).pc + 4, busy := n, retired := (s.core k).retired + 1 } (s.result k .firmware rd v n) :=
  coreIs_advance (coreIs_setReg (coreIs_refl s k) rd v) n

/-- The result is what rd reads, unless it is register 0; no other register changes. -/
theorem State.reg_result (w : Runner) (i : Nat) : (s.result k w rd v n).reg k w i = if i = rd ∧ i ≠ 0 then v else s.reg k w i := by
  by_cases hi : i = 0
  · simp [State.reg, hi]
  · have hget : ∀ regs : Table (BitVec 64), (writtenRegs regs rd v).get 0 i = if i = rd ∧ i ≠ 0 then v else regs.get 0 i := fun regs => by
      simp only [writtenRegs_get hi, hi, ne_eq, not_false_eq_true, and_true]
    cases w with
    | routine p => simp only [State.reg, if_neg hi, (s.result_routine k p rd n v).routine, hget]
    | firmware => simp only [State.reg, if_neg hi, coreIs_core (s.result_firmware k rd n v), hget]

end Results

/-! ## The instructions under their conditions -/

/-- The tenant by which a descriptor that is posted is judged (R275). -/
def State.posterTenant (s : State) : Runner → Option Nat
  | .routine p => some (s.part p).owner
  | .firmware => none

section Instructions
variable {k : Fin 20} {m : CkMode} {rd rs1 rs2 : Fin 32} {s : State} {w : Runner}

theorem execCkMbcnt_counts (hw : s.runner k.val 0 [(7, rd.val), (15, rs1.val)] m = some w) : execCkMbcnt k m rd rs1 s =
    .next (s.result k.val w rd.val (BitVec.ofNat 64 (s.waiting k.val (s.queueNamed k.val w (s.reg k.val w rs1.val).toNat))) 1) := by
  simp only [execCkMbcnt, hw]

section Pop
variable (hw : s.runner k.val 1 [(7, rd.val), (15, rs1.val), (20, rs2.val)] m = some w)
  (ha : s.writable k.val w (s.reg k.val w rs2.val).toNat (if s.queueNamed k.val w (s.reg k.val w rs1.val).toNat = .posts then 128 else 32) = true)
include hw ha

theorem execCkMbpop_pops {l : List Byte} {t : State} (hq : s.popQueue k.val (s.queueNamed k.val w (s.reg k.val w rs1.val).toNat) = some (l, t)) :
    execCkMbpop k m rd rs1 rs2 s = .next ((t.store k.val (s.reg k.val w rs2.val).toNat l).result k.val w rd.val
      (BitVec.ofNat 64 (t.waiting k.val (s.queueNamed k.val w (s.reg k.val w rs1.val).toNat))) 4) := by
  simp only [execCkMbpop, hw, ha, hq, Bool.not_true, Bool.false_eq_true, if_false]

theorem execCkMbpop_empty (hq : s.popQueue k.val (s.queueNamed k.val w (s.reg k.val w rs1.val).toNat) = none) :
    execCkMbpop k m rd rs1 rs2 s = .next (s.result k.val w rd.val (-1) 4) := by
  simp only [execCkMbpop, hw, ha, hq, Bool.not_true, Bool.false_eq_true, if_false]

end Pop

theorem execCkChoose_chooses {p : Nat} {g : Segment} (hw : s.runner k.val 2 [(7, rd.val), (15, rs1.val)] m = some w)
    (hp : s.subject k.val w = some p) (hg : (s.part p).seg = some g) :
    execCkChoose k m rd rs1 s = .next (
      let n := (s.reg k.val w rs1.val).toNat
      if (s.part p).stepState ≠ .running ∨ g.next ≠ 2 then s.result k.val w rd.val 1 4
      else if (s.part p).choice.isSome then s.result k.val w rd.val 2 4
      else if g.choices.contains n then (s.setPart p { s.part p with choice := some n }).result k.val w rd.val 0 4
      else (s.failStep p .segment 1).result k.val w rd.val 3 4) := by
  simp only [execCkChoose, hw, hp, hg, apply_ite Host.Outcome.next]

theorem execCkTkt_stores {p : Nat} {t : Ticket} (hw : s.runner k.val 3 [(7, rd.val), (15, rs1.val)] m = some w)
    (ha : s.writable k.val w (s.reg k.val w rs1.val).toNat 64 = true) (hp : s.subject k.val w = some p) (ht : (s.part p).runningTicket = some t) :
    execCkTkt k m rd rs1 s = .next ((s.store k.val (s.reg k.val w rs1.val).toNat (natBytes 64 t.desc.toNat)).result k.val w rd.val 0 6) := by
  simp only [execCkTkt, hw, ha, hp, ht, Option.bind_some, Bool.not_true, Bool.false_eq_true, if_false]

theorem execCkPost_posts {d : Desc} (hw : s.runner k.val 4 [(7, rd.val), (15, rs1.val)] m = some w)
    (ha : s.writable k.val w (s.reg k.val w rs1.val).toNat 64 = true)
    (hd : d = BitVec.ofNat 512 (leNat (s.load k.val (s.reg k.val w rs1.val).toNat 64)) ∧ s.coreFlawed k.val (s.reg k.val w rs1.val).toNat 64 = false)
    (hmay : (s.core k.val).intake.length < 16 ∧ descCrcOk d = true ∧ s.mayPost k.val w d = true) :
    execCkPost k m rd rs1 s = .next
      ((s.setCore k.val { s.core k.val with intake := (s.core k.val).intake ++ [(s.posterTenant w, d)] }).result k.val w rd.val 0 8) := by
  obtain ⟨rfl, hread⟩ := hd
  obtain ⟨hroom, hcrc, hpost⟩ := hmay
  simp only [execCkPost, hw, ha, hread, Nat.not_le.2 hroom, hcrc, hpost, Bool.not_true, Bool.false_eq_true, if_false]
  cases w <;> rfl

theorem execCkWait_returns (hw : s.runner k.val 5 [(7, rd.val), (15, rs1.val)] m = some w)
    (he : s.events k.val w &&& ((s.reg k.val w rs1.val).toNat ||| 16) ≠ 0) :
    execCkWait k m rd rs1 s = .next (s.result k.val w rd.val (BitVec.ofNat 64 (s.events k.val w)) 1) := by
  simp only [execCkWait, hw, if_neg he]

theorem execCkDone_routine {p : Nat} (hw : s.runner k.val 6 [] m = some (.routine p)) : execCkDone k m s =
    .next (((s.advance k.val (.routine p) 1).setRoutine p { ((s.advance k.val (.routine p) 1).part p).routine with mode := .idle }).raise k.val 21) := by
  simp only [execCkDone, hw]

theorem execCkDone_firmware (hw : s.runner k.val 6 [] m = some .firmware) : execCkDone k m s = .next (s.advance k.val .firmware 1) := by
  simp only [execCkDone, hw]

end Instructions

/-- Settles O34: what a result writes is `reg_result`, `result_routine` and `result_firmware`; each instruction gives it under its conditions. -/
theorem ckInstructionsRun : Obligations.CkInstructionsRun := by
  refine ⟨?_, fun _ _ _ _ _ _ hw => execCkMbcnt_counts hw, fun _ _ _ _ _ _ _ _ _ hw ha hq => execCkMbpop_pops hw ha hq,
    fun _ _ _ _ _ _ _ hw ha hq => execCkMbpop_empty hw ha hq, fun _ _ _ _ _ _ _ _ hw hp => execCkChoose_chooses hw hp.1 hp.2,
    fun _ _ _ _ _ _ _ _ hw ha hp => execCkTkt_stores hw ha hp.1 hp.2, fun _ _ _ _ _ _ _ hw ha hd hmay => execCkPost_posts hw ha hd hmay,
    fun _ _ _ _ _ _ hw he => execCkWait_returns hw he, ?_, fun _ _ _ hw => execCkDone_firmware hw⟩
  · intro k w rd n v s
    refine ⟨s.reg_result k rd n v w, ?_, ?_, ?_⟩
    · rintro p rfl
      rw [(s.result_routine k p rd n v).routine]
      exact ⟨rfl, rfl⟩
    · rintro rfl
      rw [coreIs_core (s.result_firmware k rd n v)]
      exact ⟨rfl, rfl⟩
    · cases w with
      | routine p =>
        obtain ⟨-, -, hmem⟩ := s.result_routine k p rd n v
        exact ⟨congrArg Core.retired (s.result_routine_core k p rd n v), hmem⟩
      | firmware =>
        obtain ⟨hcore, -, -, hmem⟩ := s.result_firmware k rd n v
        exact ⟨congrArg Core.retired hcore, hmem⟩
  · intro k m s p hw
    have hidle := ((RoutineIs.refl s p).advance k.val 1).modify fun r => { r with mode := .idle }
    obtain ⟨hself, hother, -⟩ := hidle.of_parts (State.raise_parts _ k.val 21) rfl
    refine ⟨_, execCkDone_routine hw, congrArg Part.routine hself, ?_, hother⟩
    rw [coreIs_core (coreIs_raise (coreIs_refl _ k.val) 21), State.setRoutine, State.core_setPart, State.advance_routine_core]

end Sys2Proof.Machine
end

section
/-! PROOFS. The watchdogs, the resets and the timers of the cores (O35). -/
namespace Sys2Proof.Machine

/-! ## The watchdog and the timer (R175, R176) -/

/-- Firmware that has read a free value into a register, which register 0 does without a draw. -/
def State.readFree (s : State) (k rd : Nat) : State := if rd = 0 then s else (s.draw 64).2.setReg k .firmware rd (s.draw 64).1

theorem State.readFree_core (s : State) (k rd : Nat) : CoreIs s k { s.core k with regs := writtenRegs (s.core k).regs rd (s.draw 64).1 } (s.readFree k rd) := by
  unfold State.readFree
  split
  · next hrd => simpa only [writtenRegs, if_pos hrd] using coreIs_refl s k
  · exact coreIs_setReg (coreIs_of_eq (u := (s.draw 64).2) (coreIs_refl s k) rfl rfl rfl) rd _

@[simp] theorem State.readFree_town (s : State) (k rd : Nat) : (s.readFree k rd).town = s.town := fieldIte State.town rfl (fieldIte State.town rfl rfl)

section Events
variable {k : Fin 20} {s : State}

/-- A write of CKWDOG restarts the interval; what its destination register reads is a free value. -/
theorem execCkwdog_restarts (h : s.fwAt k.val wdogIs = true) : ∃ rd, execCkwdog k s = .next (((s.readFree k.val rd).advance k.val .firmware 1).setCore k.val
    { ((s.readFree k.val rd).advance k.val .firmware 1).core k.val with wdogAt := (s.readFree k.val rd).town, warned := false }) := ⟨_, if_pos h⟩

theorem execWatchdogWarning_warns (hup : s.coreUp k.val = true) (hfirst : (s.core k.val).warned = false)
    (hlate : (s.core k.val).wdogAt + 900 * Config.ticksPerUs ≤ s.town) :
    execWatchdogWarning k s = .next ((s.setCore k.val { s.core k.val with warned := true }).raise k.val 20) :=
  if_pos (by simp only [hup, hfirst, decide_eq_true hlate, Bool.not_false, Bool.and_self])

theorem execWatchdogExpiry_resets (hup : s.coreUp k.val = true) (hlate : (s.core k.val).wdogAt + Config.ticksPerMs ≤ s.town) :
    execWatchdogExpiry k s = .next (s.resetCore k.val 1) := if_pos (by simp only [hup, decide_eq_true hlate, Bool.and_self])

theorem execTimerInterrupt_raises (hup : s.coreUp k.val = true) (hdue : (s.core k.val).mtimecmp.toNat ≤ s.town) :
    execTimerInterrupt k s = .next (s.raise k.val 7) := if_pos (by simp only [hup, decide_eq_true hdue, Bool.and_self])

end Events

/-! ## Steps that a reset fails (R124, R175) -/

/-- The step of p runs or is fenced with cause c, so that a failure with c leaves it fenced with c. -/
def Fencing (s : State) (p : Nat) (c : Status) : Prop := (s.part p).stepState = .running ∨ Fenced s p c

theorem Fencing.of_part {s t : State} {p : Nat} {c : Status} (h : Fencing s p c) (hstep : (t.part p).stepState = (s.part p).stepState)
    (hfail : (t.part p).failure = (s.part p).failure) : Fencing t p c := by
  unfold Fencing Fenced
  rw [hstep, hfail]
  exact h

theorem Fencing.failStep {s : State} {p : Nat} {c : Status} (h : Fencing s p c) (n : Nat) : Fenced (s.failStep p c n) p c := by
  rcases h with hrun | ⟨hstep, hcause⟩
  · exact State.failStep_part hrun
  · obtain ⟨g, hg, -⟩ := (Option.any_eq_true ..).1 hcause
    unfold State.failStep State.fence
    simp only [hstep, hg]
    split
    · exact ⟨by rw [State.part_setPart], by simp⟩
    · exact ⟨hstep, hcause⟩

/-- An operation that fences a step, and changes no partition but the one it is done to, fences it where that partition is one of a list. -/
theorem foldl_fences {f : State → Nat → State} {p : Nat} {c : Status} (hself : ∀ t, Fencing t p c → Fenced (f t p) p c)
    (hother : ∀ t q, q ≠ p → (f t q).part p = t.part p) {l : List Nat} {t : State} (hl : p ∈ l) (ht : Fencing t p c) : Fenced (l.foldl f t) p c := by
  have hkeeps : ∀ (l : List Nat) (u : State), Fenced u p c → Fenced (l.foldl f u) p c := fun l u hu =>
    List.foldlRecOn l f hu fun u hu q _ => by
      by_cases hq : q = p
      · subst hq
        exact hself u (.inr hu)
      · unfold Fenced
        rw [hother u q hq]
        exact hu
  induction l generalizing t with
  | nil => exact absurd hl List.not_mem_nil
  | cons q l ih =>
    by_cases hq : q = p
    · subst hq
      exact hkeeps l _ (hself t ht)
    · have hpart := hother t q hq
      exact ih (List.mem_of_ne_of_mem (Ne.symm hq) hl) (ht.of_part (congrArg Part.stepState hpart) (congrArg Part.failure hpart))

/-! ## The reset of a core (R175) -/

/-- What a reset does with a partition that the core leads: its routine idles, with a code in CHOICE_FAULT where an uncorrectable word is the cause, and its
step fails. -/
def State.resetRoutine (code : Nat) (s : State) (p : Nat) : State :=
  let r := (s.part p).routine
  let t := if code = 2 ∧ (r.mode = .running ∨ r.mode = .suspended) then
      s.setObj (0x4000 + p) 0x1B (natBytes 8 (place 56 8 4 ||| r.pc.toNat % 2 ^ 32))
    else s
  (t.setRoutine p { r with mode := .idle, regs := [] }).failStep p .fault 4

/-- What the reset of a sequencer core does with a partition: a step that runs fails. -/
def State.failRunning (s : State) (p : Nat) : State := if (s.part p).stepState = .running then s.failStep p .fault 7 else s

/-- The partitions after a reset: those that the core leads, and of a sequencer core every one that runs, have failed. -/
theorem State.resetCore_parts (s : State) (k code : Nat) : ∃ u, u.parts = s.parts ∧ (s.resetCore k code).parts =
    (if k < 16 then (s.slotParts k).foldl (State.resetRoutine code) u else u.parts.keys.foldl State.failRunning u).parts := by
  refine ⟨s.logEvent { cls := 16, code := code, inst := k, detail := (s.core k).pc.toNat % 2 ^ 32 }, State.logEvent_parts .., ?_⟩
  have hslots : (s.logEvent { cls := 16, code := code, inst := k, detail := (s.core k).pc.toNat % 2 ^ 32 }).slotParts k = s.slotParts k := by
    simp only [State.slotParts, State.logEvent_parts]
  rw [← hslots]
  by_cases hk : k < 16
  · simp only [State.resetCore, hk, if_true]
    rfl
  · simp only [State.resetCore, hk, if_false]
    rfl

section Reset
variable (s : State) (k code : Nat)

theorem State.resetRoutine_part_ne {p q : Nat} (h : q ≠ p) : (s.resetRoutine code p).part q = s.part q := by
  unfold State.resetRoutine State.failStep
  rw [State.fence_part_ne _ h, State.setRoutine, State.part_setPart_ne _ h]
  exact fieldIte (State.part · q) (State.part_setObj ..) rfl

theorem State.resetRoutine_fences {p : Nat} (h : Fencing s p .fault) : Fenced (s.resetRoutine code p) p .fault := by
  have hobj : ∀ (c : Prop) [Decidable c] (i u : Nat) (v : List Byte), (if c then s.setObj i u v else s).part p = s.part p :=
    fun _ _ _ _ _ => fieldIte (State.part · p) (State.part_setObj ..) rfl
  refine (h.of_part ?_ ?_).failStep 4 <;> rw [State.setRoutine, State.part_setPart, hobj]

theorem State.failRunning_part_ne {p q : Nat} (h : q ≠ p) : (s.failRunning p).part q = s.part q :=
  fieldIte (State.part · q) (State.fence_part_ne s h _) rfl

theorem State.failRunning_fences {p : Nat} (h : Fencing s p .fault) : Fenced (s.failRunning p) p .fault := by
  unfold State.failRunning
  split
  · exact h.failStep 7
  · next hstep => exact h.resolve_left hstep

/-- A partition whose step runs is one of the table. -/
theorem State.running_mem {p : Nat} (h : (s.part p).stepState = .running) : p ∈ s.parts.keys := by
  cases hp : s.parts.find? p with
  | none => simp [State.part, Table.get, hp] at h
  | some x => exact List.mem_map_of_mem (f := Prod.fst) (Table.mem_of_find? hp)

/-- The steps that a reset fences: of the partitions that the core leads, of a sequencer core every one that runs. -/
theorem State.resetCore_fences {p : Nat} (hrun : (s.part p).stepState = .running) (hp : 16 ≤ k ∨ p ∈ s.slotParts k) :
    Fenced (s.resetCore k code) p .fault := by
  obtain ⟨u, hu, hparts⟩ := s.resetCore_parts k code
  have hurun : (u.part p).stepState = .running := by rw [State.part_of_parts hu, hrun]
  unfold Fenced
  rw [State.part_of_parts hparts]
  split
  · next hk =>
    exact foldl_fences (fun t => t.resetRoutine_fences code) (fun t q hq => t.resetRoutine_part_ne code (Ne.symm hq))
      (hp.resolve_left (Nat.not_le.2 hk)) (.inl hurun)
  · exact foldl_fences (fun t => t.failRunning_fences) (fun t q hq => t.failRunning_part_ne (Ne.symm hq)) (u.running_mem hurun) (.inl hurun)

theorem State.resetCore_reset : CoreReset s k (s.resetCore k code) := by
  obtain ⟨x, m, z, hx, he⟩ := s.resetCore_eq k code
  have hcore : (s.resetCore k code).core k = { wdogAt := s.town, downTo := s.town + 200 * Config.ticksPerUs, imem := m } := by
    rw [he, ← hx.1]
    exact State.core_setCore ..
  unfold CoreReset
  rw [hcore]
  exact ⟨rfl, rfl, rfl, rfl, fun p hrun hp => s.resetCore_fences k code hrun hp⟩

end Reset

/-- Settles O35: the interval restarts (`execCkwdog_restarts`); a warning and the timer raise an interrupt (`coreIs_raise`); and an expiry and an uncorrectable
word reset the core (`resetCore_reset`). -/
theorem coreEventsRun : Obligations.CoreEventsRun := by
  refine ⟨?_, ?_, ?_, ?_, ?_⟩
  · intro k s h
    obtain ⟨rd, hnext⟩ := execCkwdog_restarts h
    rw [State.readFree_town] at hnext
    exact ⟨_, _, hnext, coreIs_modify (coreIs_advance (s.readFree_core k.val rd) 1) fun c => { c with wdogAt := s.town, warned := false }⟩
  · rintro k s hup ⟨hfirst, hlate⟩
    exact ⟨_, execWatchdogWarning_warns hup hfirst hlate, coreIs_raise (coreIs_setCore (coreIs_refl s k.val) _) 20⟩
  · intro k s hup hlate
    exact ⟨_, execWatchdogExpiry_resets hup hlate, s.resetCore_reset k.val 1⟩
  · intro k s hflaw
    exact ⟨_, if_pos hflaw, s.resetCore_reset k.val 2⟩
  · intro k s hup hdue
    exact ⟨_, execTimerInterrupt_raises hup hdue, coreIs_raise (coreIs_refl s k.val) 7⟩

end Sys2Proof.Machine
end

section
/-! PROOFS. The commands over tenants, keys, allocations and pseudo-channels (O37). -/
namespace Sys2Proof.Machine

/-! ## Values that come in chunks (R433) -/

/-- A chunk that completes the value of the k-th of n objects of one kind, and whose act succeeds, is answered with what the act leaves. -/
theorem completed_runs_nth {s T : State} {src : Source} {l : List Byte} {rest : List (Source × List Byte)} {base k n u : Nat} {a : Ask}
    {act : State → Ask → Except Nat Done} {d : Done} (h : Completed s src l rest (base + k) u T a) (hk : k < n) (hd : act T a = .ok d) :
    s.cdpRow .head (writesAt base n u) act = d.answer l a :=
  Completed.runs h (by simp [writesAt, within, hk]) hd

theorem completed_object {s T : State} {src : Source} {l : List Byte} {rest : List (Source × List Byte)} {i u : Nat} {a : Ask}
    (h : Completed s src l rest i u T a) : a.index = i ∧ a.sub = u := by
  obtain ⟨-, -, -, -, ⟨-, hi, hu, -⟩, -, ⟨-, rfl, -⟩, -⟩ := h
  exact ⟨hi, hu⟩

/-! ## A key erased, or marked to be erased (R281) -/

@[simp] theorem State.eraseKey_key (s : State) (i : Nat) : (s.eraseKey i).key i = {} := by
  unfold State.eraseKey
  extract_lets t erased unnamed
  have hunnamed : ∀ u sub, (unnamed u sub).key i = u.key i := fun u sub => fieldIte (State.key · i) (State.key_setObj ..) rfl
  rw [State.key_logEvent, hunnamed, hunnamed]
  exact State.key_setKey ..

/-- Key i is to be erased at the next step boundary of partition p. -/
def State.markErase (s : State) (i p : Nat) : State := s.setPart p { s.part p with eraseKeys := i :: (s.part p).eraseKeys.erase i }

theorem State.askErase_none {s : State} {t i : Nat} (h : s.partsOfTenant t = []) : s.askErase t i = s.eraseKey i :=
  if_pos (by rw [h]; rfl)

theorem State.askErase_some {s : State} {t i : Nat} (h : s.partsOfTenant t ≠ []) :
    s.askErase t i = (s.partsOfTenant t).foldl (fun s p => s.markErase i p) s :=
  if_neg (by rwa [List.isEmpty_iff])

/-- Once marked in a partition, a key stays so while others are marked. -/
theorem State.foldl_markErase_mem (i p : Nat) : ∀ (l : List Nat) (s : State), p ∈ l ∨ i ∈ (s.part p).eraseKeys →
    i ∈ ((l.foldl (fun s q => s.markErase i q) s).part p).eraseKeys
  | [], _, h => h.resolve_left List.not_mem_nil
  | q :: l, s, h => by
    refine State.foldl_markErase_mem i p l (s.markErase i q) ?_
    by_cases hq : p = q
    · subst hq
      exact .inr (by simp [State.markErase])
    · rw [State.markErase, State.part_setPart_ne s hq]
      exact h.imp_left fun hp => (List.mem_cons.1 hp).resolve_left hq

theorem State.askErase_marks {s : State} {t i p : Nat} (h : p ∈ s.partsOfTenant t) : i ∈ ((s.askErase t i).part p).eraseKeys := by
  rw [State.askErase_some (List.ne_nil_of_mem h)]
  exact State.foldl_markErase_mem i p _ s (.inl h)

/-! ## What a teardown leaves of the tenants (R290) -/

section Tenants
variable (s : State)

@[simp] theorem State.stopRings_tenants (m : Nat) : (s.stopRings m).tenants = s.tenants :=
  List.foldlRecOn (motive := fun t : State => t.tenants = s.tenants) _ _ rfl fun _ ht _ _ => ht

@[simp] theorem State.closeSession_tenants (i : Nat) (tell : Bool) : (s.closeSession i tell).tenants = s.tenants := by
  unfold State.closeSession
  split
  · rfl
  · exact fieldIte State.tenants (State.logEvent_tenants ..) (State.logEvent_tenants ..)

@[simp] theorem State.closeSessions_tenants (f : Session → Bool) (tell : Bool) : (s.closeSessions f tell).tenants = s.tenants :=
  List.foldlRecOn (motive := fun t : State => t.tenants = s.tenants) _ _ rfl fun _ ht _ _ =>
    fieldIte State.tenants ((State.closeSession_tenants ..).trans ht) ht

@[simp] theorem State.freeRequest_tenants (i : Nat) (n : ReqNews) : (s.freeRequest i n).tenants = s.tenants := by
  have htell : (s.tellRequest (s.request i) n).tenants = s.tenants := fieldIte State.tenants rfl rfl
  unfold State.freeRequest
  dsimp only
  rw [State.bumpWhere_tenants]
  exact fieldIte State.tenants ((State.logEvent_tenants ..).trans htell) htell

@[simp] theorem State.cancelRequest_tenants (p i : Nat) : (s.cancelRequest p i).tenants = s.tenants :=
  fieldIte State.tenants (State.setRequest_tenants ..) (State.freeRequest_tenants ..)

theorem State.beginTeardown_tenants (t : Nat) : (s.beginTeardown t).tenants = s.tenants.put t { s.tenant t with state := 2 } := by
  unfold State.beginTeardown
  extract_lets x stopped closed cancelled
  have hclosed : closed.tenants = s.tenants.put t { x with state := 2 } := by
    rw [State.closeSessions_tenants, State.stopRings_tenants, State.setTenant_tenants]
  have hcancelled : cancelled.tenants = closed.tenants :=
    List.foldlRecOn (motive := fun u : State => u.tenants = closed.tenants) _ _ rfl fun u hu _ _ =>
      fieldIte State.tenants (((State.cancelRequest_tenants ..).trans (State.setRequest_tenants ..)).trans hu) hu
  refine Eq.trans ?_ (hcancelled.trans hclosed)
  exact List.foldlRecOn (motive := fun u : State => u.tenants = cancelled.tenants) _ _ rfl fun u hu _ _ =>
    fieldIte State.tenants ((State.setPart_tenants ..).trans hu) ((State.setPart_tenants ..).trans hu)

theorem State.beginTeardown_tenant (t : Nat) : (s.beginTeardown t).tenant t = { s.tenant t with state := 2 } := by
  rw [State.tenant, State.beginTeardown_tenants, Table.get_put_self]

end Tenants

/-! ## An allocation freed (R278) -/

theorem Table.find?_of_mem {α : Type} {i : Nat} {v : α} : ∀ {t : Table α}, (i, v) ∈ t → ∃ w, t.find? i = some w
  | (k, w) :: t, h => by
    by_cases hk : i = k
    · exact ⟨w, if_pos hk⟩
    · obtain ⟨x, hx⟩ := Table.find?_of_mem ((List.mem_cons.1 h).resolve_left fun he => hk (congrArg Prod.fst he))
      exact ⟨x, (if_neg hk).trans hx⟩

theorem State.freeAlloc_state {s : State} {i : Nat} {e : Alloc} (h : (i, e) ∈ s.allocs) :
    ((s.freeAlloc i).allocs.find? i).map Alloc.state = some 2 := by
  obtain ⟨x, hx⟩ := Table.find?_of_mem h
  simp only [State.freeAlloc, hx, State.bump_allocs, Table.find?_put_self, Option.map_some]

/-! ## The acts of the rows -/

section Acts
variable {s : State} {a : Ask} {t : Nat}

theorem actEnrol_ok (hi : a.index = 0x4100 + t) (h : (s.tenant t).state = 0) :
    actEnrol s a = .ok { s := s.setTenant t { s.tenant t with state := 1, levels := [], waiting := [] } } := by
  simp only [actEnrol, needs, hi, Nat.add_sub_cancel_left, h, beq_self_eq_true, if_true]

theorem actVfMap_ok (hi : a.index = 0x4100 + t) (h : s.tenants.all (fun e => e.1 == t || e.2.vfMap.toNat &&& a.num == 0) = true) :
    actVfMap s a = .ok
      { s := (s.setTenant t { s.tenant t with vfMap := BitVec.ofNat 256 a.num }).stopRings ((s.tenant t).vfMap.toNat &&& (2 ^ 256 - 1 - a.num)) } := by
  simp only [actVfMap, needs, hi, Nat.add_sub_cancel_left, h, if_true]

/-- The key under which a KEY_LOAD's value is wrapped (R280). -/
def State.wrapKey (s : State) (v : List Byte) : List Byte := mlKemDecaps s.start.starts (slice v 4 1568)

theorem actKeyLoad_ok {m : List Byte} (hi : a.index = 0x4100 + t)
    (htag : slice a.value 1636 32 = kmac256 (s.wrapKey a.value) (a.value.take 4 ++ slice a.value 4 1568 ++ slice a.value 1572 64) 256 (ascii "CAETH-KW-T"))
    (hfree : (s.key (leAt a.value 0 2)).valid = false)
    (hm : m = xorBytes (slice a.value 1572 64) (kmac256 (s.wrapKey a.value) (a.value.take 4) 512 (ascii "CAETH-KW-E")))
    (hhalves : m.take 32 ≠ m.drop 32)
    (hform : 1 ≤ leAt a.value 0 2 ∧ leAt a.value 0 2 ≤ 4095 ∧ leAt a.value 2 1 = t ∧ leAt a.value 3 1 = 1) :
    actKeyLoad s a = .ok
      { s := (s.setKey (leAt a.value 0 2) { valid := true, tenant := t, material := m }).logEvent
               { cls := 12, code := 1, tenant := some t, detail := leAt a.value 0 2 } } := by
  obtain ⟨hlow, hhigh, htenant, hversion⟩ := hform
  unfold State.wrapKey at htag hm
  simp only [actKeyLoad, needs, hi, Nat.add_sub_cancel_left, ← hm, ← htag, hfree, hlow, hhigh, htenant, hversion, bne_iff_ne.2 hhalves,
    beq_self_eq_true, decide_true, Bool.not_false, Bool.and_self, and_self, if_true]

theorem actKeyErase_ok (hi : a.index = 0x4100 + t) (hn : 1 ≤ a.num ∧ a.num ≤ 4095) (h : (s.key a.num).valid = true ∧ (s.key a.num).tenant = t) :
    actKeyErase s a = .ok { s := s.askErase t a.num } := by
  obtain ⟨hvalid, howner⟩ := h
  simp only [actKeyErase, needs, hi, Nat.add_sub_cancel_left, hn, hvalid, howner, beq_self_eq_true, decide_true, Bool.and_self, and_self, if_true]

theorem actTeardown_ok (hi : a.index = 0x4100 + t) (h : (s.tenant t).state = 1) : actTeardown s a = .ok { s := s.beginTeardown t } := by
  simp only [actTeardown, needs, hi, Nat.add_sub_cancel_left, h, beq_self_eq_true, if_true]

theorem actAllocAdd_ok {p z b i : Nat} (hi : a.index = 0x4100 + t)
    (hzero : field (BitVec.ofNat 256 a.num) 232 24 = 0 ∧ field (BitVec.ofNat 256 a.num) 208 8 = t ∧ field (BitVec.ofNat 256 a.num) 192 16 = 0
      ∧ field (BitVec.ofNat 256 a.num) 56 72 = 0)
    (hfields : p = field (BitVec.ofNat 256 a.num) 216 8 ∧ z = field (BitVec.ofNat 256 a.num) 128 64 ∧ b = field (BitVec.ofNat 256 a.num) 0 56)
    (hform : z ≠ 0 ∧ z % 65536 = 0 ∧ b % 65536 = 0 ∧ (p < 64 ∨ p = 0xFF))
    (hrange : s.rangeOk b z = true ∧ s.allocs.all (fun e => !meets b z e.2.base e.2.size) = true)
    (howner : b / 2 ^ 54 = 1 → p ≠ 0xFF ∧ s.objNat (0x6100 + b / 2 ^ 32 % 256) 0x01 = p)
    (hroom : (s.allocs.filter (fun e => e.2.tenant == t)).length < 64) (hplace : freeAllocIndex s.allocs 4096 0 = some i) :
    actAllocAdd s a = .ok
      { s := ({ s with allocs := s.allocs.put i { state := 1, partition := p, tenant := t, size := z, base := b } } : State).bump (0x4100 + t) 0x12 } := by
  obtain ⟨htop, htenant, hmid, hlow⟩ := hzero
  obtain ⟨hp, hz, hb⟩ := hfields
  obtain ⟨hsome, hzpage, hbpage, hpart⟩ := hform
  have hpart' : (decide (p < 64) || p == 0xFF) = true := by simpa using hpart
  have howner' : (b / 2 ^ 54 != 1 || (p != 0xFF && s.objNat (0x6100 + b / 2 ^ 32 % 256) 0x01 == p)) = true := by
    rw [Bool.or_eq_true, bne_iff_ne, Bool.and_eq_true, bne_iff_ne, beq_iff_eq]
    exact Decidable.not_or_of_imp howner
  simp only [actAllocAdd, needs, hi, Nat.add_sub_cancel_left, htop, htenant, hmid, hlow, ← hp, ← hz, ← hb, bne_iff_ne.2 hsome, hzpage, hbpage, hpart', hrange,
    howner', hroom, hplace, beq_self_eq_true, decide_true, Bool.and_self, if_true]

theorem actAllocFree_ok {i : Nat} {e : Alloc} (hi : a.index = 0x4100 + t)
    (hat : (s.allocs.filter (fun e => e.2.tenant == t))[a.num]? = some (i, e)) (h : e.state = 1 ∧ s.dependsOn e.base e.size = false) :
    actAllocFree s a = .ok { s := s.freeAlloc i } := by
  obtain ⟨hlive, hfree⟩ := h
  simp only [actAllocFree, needs, hi, Nat.add_sub_cancel_left, hat, hlive, hfree, beq_self_eq_true, Bool.not_false, Bool.and_self, if_true]

/-- What a write of PC_OWNER leaves: the pseudo-channel that changes hands is being cleared (R206, R214). -/
def State.ownChannel (s : State) (c n : Nat) (v : List Byte) : State :=
  if s.objNat (0x6100 + c) 0x01 ≠ 0xFF ∧ n ≠ s.objNat (0x6100 + c) 0x01 then (s.storeRaw (0x6100 + c) 0x01 v).beginClearChannel c
  else s.storeRaw (0x6100 + c) 0x01 v

theorem State.ownChannel_clears {c n : Nat} (v : List Byte) (hold : s.objNat (0x6100 + c) 0x01 ≠ 0xFF) (hnew : n ≠ s.objNat (0x6100 + c) 0x01) :
    ((s.ownChannel c n v).channel c).clearing = true := by
  rw [State.ownChannel, if_pos ⟨hold, hnew⟩, State.beginClearChannel, State.channel_setChannel]

theorem actPcOwner_ok {c : Nat} (hi : a.index = 0x6100 + c) (hu : a.sub = 0x01) (hn : a.num < 64 ∨ a.num = 0xFF)
    (hidle : s.ownerIdle (s.objNat (0x6100 + c) 0x01) = true ∧ s.ownerIdle a.num = true)
    (hempty : a.num = s.objNat (0x6100 + c) 0x01 ∨ s.allocs.all (fun e => tierOf (e.2.base / 32) != 1 || channelOf (e.2.base / 32) != c) = true) :
    actPcOwner s a = .ok { s := s.ownChannel c a.num a.value } := by
  have hn' : (decide (a.num < 64) || a.num == 0xFF) = true := by simpa using hn
  have hempty' : (a.num == s.objNat (0x6100 + c) 0x01 || s.allocs.all (fun e => tierOf (e.2.base / 32) != 1 || channelOf (e.2.base / 32) != c)) = true := by
    rwa [Bool.or_eq_true, beq_iff_eq]
  simp only [actPcOwner, needs, hi, hu, Nat.add_sub_cancel_left, hn', hidle, hempty', Bool.and_self, if_true, State.ownChannel]

end Acts

/-- Settles O37: each request runs its act (`row_runs_nth`, and `completed_runs_nth` of a KEY_LOAD), which succeeds under the conditions of its rule. A key is
erased or marked (`eraseKey_key`, `askErase_marks`); what else a teardown does leaves the tenants as they are (`beginTeardown_tenant`); an allocation freed
is CLEARING (`freeAlloc_state`), and so is a pseudo-channel that changes hands (`ownChannel_clears`). -/
theorem tenantCommandsRun : Obligations.TenantCommandsRun := by
  refine ⟨?_, ?_, ?_, ?_, ?_, ?_, ?_, ?_⟩
  · intro s T src l rest a n h hfree
    exact congrArg Host.Outcome.next (row_runs_nth h n.isLt (actEnrol_ok (row_object h).1 hfree))
  · intro s T src l rest a n h hothers
    exact congrArg Host.Outcome.next (row_runs_nth h n.isLt (actVfMap_ok (row_object h).1 hothers))
  · intro s T src l rest a n m h htag hfree hm hhalves hform
    exact congrArg Host.Outcome.next (completed_runs_nth h n.isLt (actKeyLoad_ok (completed_object h).1 htag hfree hm hhalves hform))
  · intro s T src l rest a n h hn hmine
    refine ⟨T.askErase n.val a.num, congrArg Host.Outcome.next (row_runs_nth h n.isLt (actKeyErase_ok (row_object h).1 hn hmine)), rfl, ?_, ?_⟩
    · intro hnone
      rw [State.askErase_none hnone, State.eraseKey_key]
    · exact fun p hp => State.askErase_marks hp
  · intro s T src l rest a n h hlive
    refine ⟨T.beginTeardown n.val, congrArg Host.Outcome.next (row_runs_nth h n.isLt (actTeardown_ok (row_object h).1 hlive)), rfl, ?_⟩
    rw [T.beginTeardown_tenant]
  · intro s T src l rest a n p z b i h hzero hfields hform hrange howner hroom hplace
    exact congrArg Host.Outcome.next
      (row_runs_nth h n.isLt (actAllocAdd_ok (row_object h).1 hzero hfields hform hrange howner hroom hplace))
  · intro s T src l rest a n i e h hat hfree
    exact ⟨T.freeAlloc i, congrArg Host.Outcome.next (row_runs_nth h n.isLt (actAllocFree_ok (row_object h).1 hat hfree)), rfl,
      State.freeAlloc_state (List.mem_filter.1 (List.mem_of_getElem? hat)).1⟩
  · intro s T src l rest a n h hn hidle hempty
    obtain ⟨hi, hu⟩ := row_object h
    exact ⟨T.ownChannel n.val a.num a.value, congrArg Host.Outcome.next (row_runs_nth h n.isLt (actPcOwner_ok hi hu hn hidle hempty)), rfl,
      fun hold hnew => State.ownChannel_clears a.value hold hnew⟩

end Sys2Proof.Machine
end

section
/-! PROOFS. Every step keeps the form of the state (O2), and what reset leaves (O1). -/
namespace Sys2Proof.Machine

/-- The form is what `Kept` says with C := True: a command is run on the queue behind it, and of the memory nothing but its form is asked (`Any`). -/
theorem step_canonical {s t : State} (hs : Canonical s) (h : step s = .next t) : Canonical t := by
  unfold step at h
  split at h
  · next hnone =>
    cases h
    obtain ⟨-, -, ht⟩ := s.tick_kept (C := True) ⟨hnone, trivial, fun _ => hs⟩
    exact ht trivial
  · next c rest hwaits =>
    have start : Kept rest Any True { s with pending := rest } := ⟨rfl, trivial, fun _ => hs⟩
    obtain ⟨-, -, ht⟩ := exec_kept c _ (fun _ => rfl) start t h
    exact ht trivial

/-- Settles O2: a command keeps the form by `exec_kept`, the cycle of an empty queue by `State.tick_kept`. -/
theorem stepKeepsCanonical : Obligations.StepKeepsCanonical :=
  fun _ _ hs h => step_canonical hs h

/-- Of an empty memory, and of no counters, shadows, versions and window pages, the form asks nothing. -/
theorem canonical_reset : Canonical State.reset :=
  ⟨Memory.wf_empty, List.forall_mem_nil _, List.forall_mem_nil _, List.forall_mem_nil _, List.forall_mem_nil _⟩

theorem readWord_reset (a : Nat) : State.reset.readWord a = fillWord := rfl

/-- Each of the 32 bits of the fill's check value differs from that of its data (R213). -/
theorem decodeStored_fillWord : decodeStored fillWord = .failing .unwritten 0xFFFFFFFF := by decide +kernel

/-- Settles O1: after reset every table is empty, so that what is read from one is its default. -/
theorem resetLeaves : Obligations.ResetLeaves := by
  refine ⟨rfl, rfl, canonical_reset, fun _ => rfl, fun _ => rfl, rfl, rfl, ?_, fun _ => rfl, fun _ _ => rfl, ?_⟩
  · intro n
    have hdown : (State.reset.port n).link = 2 := rfl
    rw [hdown]
    decide
  · exact fun a => ⟨readWord_reset a, readWord_reset a ▸ decodeStored_fillWord⟩

end Sys2Proof.Machine
end

section
/-! PROOFS. The check code: the layout of a check value (O9), and single-bit errors (O10). -/
namespace Sys2Proof.Machine

/-! ## The XOR of bits -/

/-- The XOR of the bits f 0 to f (n - 1). -/
def xorOver (n : Nat) (f : Nat → Bool) : Bool := (List.range n).foldl (fun x k => x ^^ f k) false

theorem xorOver_succ (n : Nat) (f : Nat → Bool) : xorOver (n + 1) f = (xorOver n f ^^ f n) := by
  rw [xorOver, List.range_succ, List.foldl_append]
  rfl

theorem xorOver_congr {n : Nat} {f g : Nat → Bool} (h : ∀ k < n, f k = g k) : xorOver n f = xorOver n g := by
  induction n with
  | zero => rfl
  | succ n ih => rw [xorOver_succ, xorOver_succ, ih fun k hk => h k (Nat.lt_succ_of_lt hk), h n (Nat.lt_succ_self n)]

theorem xorOver_xor (n : Nat) (f g : Nat → Bool) : xorOver n (fun k => f k ^^ g k) = (xorOver n f ^^ xorOver n g) := by
  induction n with
  | zero => rfl
  | succ n ih => simp only [xorOver_succ, ih, Bool.xor_assoc, Bool.xor_left_comm]

/-- Of bits of which the one at j alone can be set, the XOR is that one. -/
theorem xorOver_single (n j : Nat) (b : Bool) : xorOver n (fun k => b && decide (k = j)) = (b && decide (j < n)) := by
  induction n with
  | zero => exact (Bool.and_false b).symm
  | succ n ih =>
    rw [xorOver_succ, ih]
    rcases Nat.lt_trichotomy j n with h | rfl | h
    · rw [decide_eq_true h, decide_eq_true (Nat.lt_succ_of_lt h), decide_eq_false (Nat.ne_of_gt h), Bool.and_false, Bool.xor_false]
    · rw [decide_eq_false (Nat.lt_irrefl j), decide_eq_true (Eq.refl j), decide_eq_true (Nat.lt_succ_self j), Bool.and_false, Bool.false_xor]
    · rw [decide_eq_false (Nat.lt_asymm h), decide_eq_false (Nat.ne_of_lt h), decide_eq_false (Nat.not_lt.2 h), Bool.and_false, Bool.xor_false]

/-! ## The counts of bits, and the two halves of a check value (R208) -/

theorem popcount_succ_top (n : Nat) : ∀ v : Nat, popcount (n + 1) v = popcount n v + (v.testBit n).toNat := by
  induction n with
  | zero => intro v; rw [Nat.toNat_testBit, Nat.pow_zero, Nat.div_one]; exact Nat.add_comm (v % 2) 0
  | succ n ih =>
    intro v
    rw [popcount, ih (v / 2), ← Nat.testBit_add_one, popcount, Nat.add_assoc]

theorem parity_eq (n v : Nat) : parity n v = (xorOver n v.testBit).toNat := by
  induction n with
  | zero => rfl
  | succ n ih =>
    rw [parity] at ih ⊢
    rw [popcount_succ_top, Nat.add_mod, ih, xorOver_succ]
    cases xorOver n v.testBit <;> cases v.testBit n <;> rfl

/-- Bit r of an OR of bits, each shifted to its own place. -/
theorem testBit_orBits (f : Nat → Bool) (i : Nat) :
    ∀ n : Nat, ((List.range n).foldl (fun a r => a ||| ((f r).toNat <<< r)) 0).testBit i = (decide (i < n) && f i)
  | 0 => Nat.zero_testBit i
  | n + 1 => by
    rw [List.range_succ, List.foldl_append, List.foldl_cons, List.foldl_nil, Nat.testBit_or, testBit_orBits f i n, Nat.testBit_shiftLeft,
      Nat.testBit_bool_toNat]
    rcases Nat.lt_trichotomy i n with h | rfl | h
    · rw [decide_eq_true h, decide_eq_true (Nat.lt_succ_of_lt h), decide_eq_false (Nat.not_le.2 h), Bool.false_and, Bool.or_false]
    · rw [decide_eq_false (Nat.lt_irrefl i), decide_eq_true (Nat.lt_succ_self i), decide_eq_true (Nat.le_refl i), decide_eq_true (Nat.sub_self i),
        Bool.false_and, Bool.false_or, Bool.true_and]
    · rw [decide_eq_false (Nat.lt_asymm h), decide_eq_false (Nat.not_lt.2 h), decide_eq_false (Nat.sub_ne_zero_of_lt h), Bool.false_and,
        Bool.false_and, Bool.and_false, Bool.or_false]

/-- The XOR of the bits of column c of a word. -/
def colBit (v c : Nat) : Bool := xorOver 16 (fun r => v.testBit (16 * r + c))

/-- The XOR of the bits of row r of a word. -/
def rowBit (v r : Nat) : Bool := xorOver 16 (fun c => v.testBit (16 * r + c))

theorem testBit_row (v r c : Nat) : ((v >>> (16 * r)) % 65536).testBit c = (decide (c < 16) && v.testBit (16 * r + c)) := by
  rw [show 65536 = 2 ^ 16 from rfl, Nat.testBit_mod_two_pow, Nat.testBit_shiftRight]

theorem testBit_colChecks (v : Nat) {c : Nat} (hc : c < 16) : (colChecks v).testBit c = colBit v c := by
  have hfold := List.foldl_hom (l := List.range 16) (init := 0) (fun n : Nat => n.testBit c)
    (g₁ := fun a r => a ^^^ ((v >>> (16 * r)) % 65536)) (g₂ := fun x r => x ^^ v.testBit (16 * r + c))
    (fun a r => by rw [Nat.testBit_xor, testBit_row, decide_eq_true hc, Bool.true_and])
  rw [Nat.zero_testBit] at hfold
  exact hfold.symm

theorem parity_row (v r : Nat) : parity 16 ((v >>> (16 * r)) % 65536) = (rowBit v r).toNat :=
  (parity_eq 16 _).trans (congrArg Bool.toNat (xorOver_congr fun c hc => by rw [testBit_row, decide_eq_true hc, Bool.true_and]))

theorem testBit_rowChecks (v i : Nat) : (rowChecks v).testBit i = (decide (i < 16) && !rowBit v i) := by
  have hrow : ∀ r, 1 - parity 16 ((v >>> (16 * r)) % 65536) = (!rowBit v r).toNat := fun r => by
    rw [parity_row]
    cases rowBit v r <;> rfl
  simp only [rowChecks, hrow]
  exact testBit_orBits _ i 16

theorem checkOf_row (w : Word) {r : Nat} (hr : r < 16) : (checkOf w).getLsbD r = !rowBit w.toNat r := by
  have hbit : r < 32 := by omega
  rw [checkOf, BitVec.getLsbD_ofNat, Nat.testBit_or, Nat.testBit_shiftLeft, testBit_rowChecks]
  rw [decide_eq_true hbit, decide_eq_true hr, decide_eq_false (Nat.not_le.2 hr), Bool.false_and, Bool.false_or, Bool.true_and, Bool.true_and]

theorem checkOf_col (w : Word) {c : Nat} (hc : c < 16) : (checkOf w).getLsbD (16 + c) = colBit w.toNat c := by
  have hbit : 16 + c < 32 := by omega
  have hhigh : ¬16 + c < 16 := by omega
  rw [checkOf, BitVec.getLsbD_ofNat, Nat.testBit_or, Nat.testBit_shiftLeft, testBit_rowChecks, Nat.add_sub_cancel_left, testBit_colChecks _ hc]
  rw [decide_eq_true hbit, decide_eq_false hhigh, decide_eq_true (Nat.le_add_right 16 c), Bool.true_and, Bool.true_and, Bool.false_and, Bool.or_false]

theorem checkOf_zeros : checkOf 0 = 0x0000FFFF := by decide +kernel

theorem checkOf_ones : checkOf (BitVec.allOnes 256) = 0x0000FFFF := by decide +kernel

/-- Settles O9: the two halves by `checkOf_col` and `checkOf_row`. -/
theorem checkValueLayout : Obligations.CheckValueLayout :=
  ⟨fun w _ hc => checkOf_col w hc, fun w _ hr => checkOf_row w hr, checkOf_zeros, checkOf_ones⟩

/-! ## The classes of syndromes with one bit in a half (R209) -/

/-- A syndrome with one bit set, in either half, is that of a check bit: the data is as it was. -/
theorem decodeStored_oneBit {x : Stored} {i : Nat} (hi : i < 32) (h : x.check ^^^ checkOf x.data = BitVec.ofNat 32 (2 ^ i)) :
    decodeStored x = .mended x.data := by
  have hclass : ∀ i < 32, BitVec.ofNat 32 (2 ^ i) ≠ 0
      ∧ popcount 16 ((BitVec.ofNat 32 (2 ^ i)).toNat % 65536) + popcount 16 ((BitVec.ofNat 32 (2 ^ i)).toNat / 65536) = 1 := by decide +kernel
  obtain ⟨hsome, hone⟩ := hclass i hi
  simp only [decodeStored, h, if_neg hsome, if_pos hone]

/-- A syndrome with bit r set in the low half and bit c in the high half alone is that of the data bit in row r and column c. -/
theorem decodeStored_rowCol {x : Stored} {r c : Nat} (hr : r < 16) (hc : c < 16) (hlow : (x.check ^^^ checkOf x.data).toNat % 65536 = 2 ^ r)
    (hhigh : (x.check ^^^ checkOf x.data).toNat / 65536 = 2 ^ c) :
    decodeStored x = .mended (x.data ^^^ BitVec.ofNat 256 (2 ^ (16 * r + c))) := by
  have hpop : ∀ k < 16, popcount 16 (2 ^ k) = 1 := by decide
  have hsome : x.check ^^^ checkOf x.data ≠ 0 := fun h0 => by
    rw [h0] at hlow
    exact Nat.ne_of_lt (Nat.two_pow_pos r) hlow
  have hboth : ¬1 + 1 = 1 := by decide
  simp only [decodeStored, if_neg hsome, hlow, hhigh, hpop r hr, hpop c hc, Nat.log2_two_pow, Nat.one_shiftLeft, if_neg hboth, and_self, if_true]

/-! ## The syndrome of an inverted data bit -/

theorem colBit_xor (v u c : Nat) : colBit (v ^^^ u) c = (colBit v c ^^ colBit u c) := by
  simp only [colBit, Nat.testBit_xor, xorOver_xor]

theorem rowBit_xor (v u r : Nat) : rowBit (v ^^^ u) r = (rowBit v r ^^ rowBit u r) := by
  simp only [rowBit, Nat.testBit_xor, xorOver_xor]

/-- Of the word with bit i alone set, row i / 16 alone has a bit. -/
theorem rowBit_two_pow (i r : Nat) : rowBit (2 ^ i) r = decide (i / 16 = r) := by
  have hbit : ∀ c < 16, (2 ^ i).testBit (16 * r + c) = (decide (i / 16 = r) && decide (c = i % 16)) := fun c hc => by
    rw [Nat.testBit_two_pow, ← Bool.decide_and, decide_eq_decide]
    omega
  rw [rowBit, xorOver_congr hbit, xorOver_single, decide_eq_true (Nat.mod_lt i (by decide)), Bool.and_true]

/-- Of the word with bit i alone set, column i % 16 alone has a bit. -/
theorem colBit_two_pow {i c : Nat} (hi : i < 256) (hc : c < 16) : colBit (2 ^ i) c = decide (i % 16 = c) := by
  have hbit : ∀ r < 16, (2 ^ i).testBit (16 * r + c) = (decide (i % 16 = c) && decide (r = i / 16)) := fun r hr => by
    rw [Nat.testBit_two_pow, ← Bool.decide_and, decide_eq_decide]
    omega
  rw [colBit, xorOver_congr hbit, xorOver_single, decide_eq_true (Nat.div_lt_of_lt_mul hi), Bool.and_true]

/-- The word with bit i inverted. -/
theorem toNat_flip (w : Word) {i : Nat} (hi : i < 256) : (w ^^^ BitVec.ofNat 256 (2 ^ i)).toNat = w.toNat ^^^ 2 ^ i := by
  rw [BitVec.toNat_xor, BitVec.toNat_ofNat, Nat.mod_eq_of_lt (Nat.pow_lt_pow_right (by decide) hi)]

section
variable (w : Word) {i : Nat} (hi : i < 256)
include hi

theorem syndrome_flip_row : (checkOf w ^^^ checkOf (w ^^^ BitVec.ofNat 256 (2 ^ i))).toNat % 65536 = 2 ^ (i / 16) := by
  refine Nat.eq_of_testBit_eq fun r => ?_
  rw [show 65536 = 2 ^ 16 from rfl, Nat.testBit_mod_two_pow, BitVec.testBit_toNat, BitVec.getLsbD_xor, Nat.testBit_two_pow]
  by_cases hr : r < 16
  · rw [checkOf_row _ hr, checkOf_row _ hr, toNat_flip w hi, rowBit_xor, rowBit_two_pow]
    rw [decide_eq_true hr, Bool.true_and, Bool.not_xor_not, ← Bool.xor_assoc, Bool.xor_self, Bool.false_xor]
  · have hne : i / 16 ≠ r := by omega
    rw [decide_eq_false hr, decide_eq_false hne, Bool.false_and]

theorem syndrome_flip_col : (checkOf w ^^^ checkOf (w ^^^ BitVec.ofNat 256 (2 ^ i))).toNat / 65536 = 2 ^ (i % 16) := by
  refine Nat.eq_of_testBit_eq fun c => ?_
  rw [show 65536 = 2 ^ 16 from rfl, Nat.testBit_div_two_pow, BitVec.testBit_toNat, BitVec.getLsbD_xor, Nat.testBit_two_pow, Nat.add_comm c]
  by_cases hc : c < 16
  · rw [checkOf_col _ hc, checkOf_col _ hc, toNat_flip w hi, colBit_xor, colBit_two_pow hi hc, ← Bool.xor_assoc, Bool.xor_self, Bool.false_xor]
  · have hne : i % 16 ≠ c := by omega
    have hout : 32 ≤ 16 + c := by omega
    rw [BitVec.getLsbD_of_ge _ _ hout, BitVec.getLsbD_of_ge _ _ hout, decide_eq_false hne, Bool.xor_false]

end

theorem decodeStored_encodeWord (w : Word) : decodeStored (encodeWord w) = .clean w :=
  if_pos BitVec.xor_self

/-- Settles O10: a data bit inverted is found by its row and its column (`syndrome_flip_row`, `syndrome_flip_col`), and a check bit inverted is the syndrome's
only bit. -/
theorem checkCodeMends : Obligations.CheckCodeMends := by
  refine ⟨decodeStored_encodeWord, fun w i hi => ?_, fun w i hi => ?_⟩
  · rw [decodeStored_rowCol (Nat.div_lt_of_lt_mul hi) (Nat.mod_lt i (by decide)) (syndrome_flip_row w hi) (syndrome_flip_col w hi), Nat.div_add_mod,
      BitVec.xor_assoc, BitVec.xor_self, BitVec.xor_zero]
  · refine decodeStored_oneBit hi ?_
    rw [BitVec.xor_comm, ← BitVec.xor_assoc, BitVec.xor_self, BitVec.zero_xor]

end Sys2Proof.Machine
end

section
/-! PROOFS. The repair queue, the scrubber and the end of a clearing (O60). -/
namespace Sys2Proof.Machine

section
variable {s : State}

/-! ## The bank of a service client, and a word rewritten (R18, R215) -/

@[simp] theorem State.useBank_mem (s : State) (b a : Nat) : (s.useBank b a).mem = s.mem := rfl

@[simp] theorem State.readWord_useBank (s : State) (b a x : Nat) : (s.useBank b a).readWord x = s.readWord x := rfl

@[simp] theorem State.counter_useBank (s : State) (b a i u : Nat) : (s.useBank b a).counter i u = s.counter i u := rfl

@[simp] theorem State.block_useBank (s : State) (b a : Nat) :
    (s.useBank b a).block b = { s.block b with bankOther := (s.block b).bankOther ++ [a % 64] } :=
  State.block_setBlock ..

theorem State.rewrite_of_mended {a : Nat} {w : Word} (h : decodeStored (s.readWord a) = .mended w) :
    s.rewrite a = (s.writeWord a (encodeWord w)).count 0x9400 0x07 1 := by
  simp only [State.rewrite, h]

theorem State.readWord_writeWord_self {a : Nat} (hm : s.mem.wf = true) (x : Stored) : (s.writeWord a x).readWord a = x :=
  Memory.read_write_self s.mem hm a x

theorem State.readWord_writeWord_ne {a y : Nat} (hm : s.mem.wf = true) (hy : y ≠ a) (x : Stored) : (s.writeWord a x).readWord y = s.readWord y :=
  Memory.read_write_ne s.mem hm hy x

/-! ## The repair queue (R215) -/

section
variable {b a : Nat} {l : List Nat} {w : Word}

/-- A word of block memory that is still of a mendable class is read again, to be written in the next cycle. -/
theorem State.readBack_mended (ht : tierOf a = 0) (hfree : s.serviceFree b a = true) (hw : decodeStored (s.readWord a) = .mended w) :
    s.readBack b a = ((s.count 0x9400 0x06 1).setBlock b { s.block b with reread := some (a, s.wallOf b) }).useBank b a := by
  have hwall : (s.count 0x9400 0x06 1).wallOf b = s.wallOf b := by simp [State.wallOf, State.district]
  simp [State.readBack, ht, hfree, hw, hwall]

/-- A word of tier 1 is rewritten as it is read. -/
theorem State.readBack_tier1 (hl : (s.block b).repair = a :: l) (ht : tierOf a = 1) (hopen : s.serviceOpen a = true) :
    s.readBack b a = (((s.setBlock b { s.block b with repair := l }).count 0x9400 0x06 1).serviceUnits a 1).rewrite a := by
  simp [State.readBack, ht, hopen, hl]

/-- In the cycle after it was read again, in a bank that is free, a word is written. -/
theorem State.writeBack_free {n : Nat} (hwall : s.wallOf b = n + 1) (hfree : s.serviceFree b a = true) :
    s.writeBack b a n = ((s.setBlock b { s.block b with reread := none, repair := (s.block b).repair.erase a }).useBank b a).rewrite a :=
  if_pos ⟨hwall, hfree⟩

end

theorem execRepairQueueWriteback_reads {b : Fin 256} {a : Nat} {l : List Nat}
    (h : s.live = true ∧ (s.block b.val).reread = none ∧ (s.block b.val).repair = a :: l) :
    exec (.repairQueueWriteback b) s = .next (s.readBack b.val a) := by
  obtain ⟨hlive, hnone, hl⟩ := h
  simp only [exec, execRepairQueueWriteback, hlive, hnone, hl]

theorem execRepairQueueWriteback_writes {b : Fin 256} {a n : Nat} (hlive : s.live = true) (hread : (s.block b.val).reread = some (a, n)) :
    exec (.repairQueueWriteback b) s = .next (s.writeBack b.val a n) := by
  simp only [exec, execRepairQueueWriteback, hlive, hread]

/-! ## The scrubber (R216) -/

/-- What the scrubber takes to read a word: service units of a tier, in the name of the tenant charged, or a bank of the block. -/
def State.scrubRead (s : State) (k : Option Nat) (a : Nat) : State :=
  (match k with
    | some k => s.serviceMove (some k) a 1
    | none => s.useBank (a / 2 ^ 19 % 256) a).count 0x9400 0x06 1

/-- A word that has been read is left where it is clean, rewritten where it is mended, and counted and logged where it fails. -/
def State.scrubbed (s : State) (a : Nat) : State :=
  match decodeStored (s.readWord a) with
  | .clean _ => s
  | .mended _ => s.rewrite a
  | .failing _ _ => s.countLog { cls := 3, counter := 0x9400, sub := 0x08, detail := 32 * a }

theorem execScrubWord_word {a : BitVec 51} {k : Option Nat} (hlive : s.live = true) (hat : s.scrubs a.toNat = some k) (hacc : accWord a.toNat = none) :
    exec (.scrubWord a) s = .next ((s.scrubRead k a.toNat).scrubbed a.toNat) := by
  cases k with
  | none =>
    simp only [exec, execScrubWord, hlive, hat, hacc, Option.isSome_none, Bool.false_eq_true, if_false, State.scrubbed, State.scrubRead]
    split <;> simp only [*]
  | some k =>
    simp only [exec, execScrubWord, hlive, hat, hacc, State.scrubbed, State.scrubRead]
    split <;> simp only [*]

theorem execScrubWord_acc {a : BitVec 51} {n : Nat} (hlive : s.live = true) (hat : s.scrubs a.toNat = some none) (hacc : accWord a.toNat = some n) :
    exec (.scrubWord a) s = .next ((s.count 0x9400 0x06 1).scrubAcc n) := by
  simp only [exec, execScrubWord, hlive, hat, hacc, Option.isSome_some, if_true]

/-! ## A region whose clearing is over (R214) -/

theorem execClearDone_block {b : Fin 256} (hlive : s.live = true) (hclear : (s.block b.val).clearing = true)
    (hover : (s.block b.val).clearUntil ≤ s.wallOf b.val) (hnone : (s.block b.val).clearedBy = none) :
    exec (.clearDone (.block b)) s = .next (((((s.clearRange (tier0 b.val 0) Config.blockWords).wipeBank b.val 0).wipeBank b.val 1).count 0x9400 0x09 20482).setBlock b.val
      { retired := (s.block b.val).retired || (s.block b.val).retiring, passAt := (s.block b.val).passAt, passLate := (s.block b.val).passLate, sliceStep := (s.block b.val).sliceStep,
        sliceSince := (s.block b.val).sliceSince }) := by
  have hover' : ¬s.wallOf b.val < (s.block b.val).clearUntil := Nat.not_lt.2 hover
  simp only [exec, execClearDone, hlive, hclear, hover', hnone, Bool.not_true, Bool.false_eq_true, or_self, if_false]

/-- The words of a pseudo-channel up to its firmware's, and the frames held in it, are no one's. -/
def State.channelCleared (s : State) (c : Nat) : State :=
  let t := (s.clearRange (tier1 c 0) firmwareWord).setChannel c { s.channel c with clearing := false, clearTo := 0 }
  { t with serving := { t.serving with holders := t.serving.holders.filter (fun e => channelOf (e.1 * frameWords) != c) } }

theorem execClearDone_channel {c : Fin 256} (hlive : s.live = true) (hclear : (s.channel c.val).clearing = true) (hover : (s.channel c.val).clearTo ≤ s.town) :
    exec (.clearDone (.channel c)) s = .next (s.channelCleared c.val) := by
  have hover' : ¬s.town < (s.channel c.val).clearTo := Nat.not_lt.2 hover
  simp only [exec, execClearDone, hlive, hclear, hover', Bool.not_true, Bool.false_eq_true, or_self, if_false, State.channelCleared]

theorem execClearDone_alloc {i : Fin 4096} {e : Alloc} (hlive : s.live = true) (hat : s.allocs.find? i.val = some e) (hstate : e.state = 2)
    (hover : e.clearTo ≤ s.town) (hopen : s.serviceOpen (e.base / 32) = true) :
    exec (.clearDone (.alloc i)) s
      = .next ((({ (s.clearRange (e.base / 32) (e.size / 32)) with allocs := s.allocs.del i.val } : State).bump (0x4100 + e.tenant) 0x12).tenantEnds e.tenant) := by
  have hover' : ¬s.town < e.clearTo := Nat.not_lt.2 hover
  simp only [exec, execClearDone, hlive, hat, hstate, hover', hopen, ne_eq, not_true, Bool.not_true, Bool.false_eq_true, or_self, if_false]

end

/-- Settles O60: what the repair queue does is `readBack_mended`, `writeBack_free` and `readBack_tier1`; the scrubber's word is `execScrubWord_word` and, of a
long accumulator, `execScrubWord_acc`; and a region whose clearing is over is `execClearDone_block`, `execClearDone_channel` and `execClearDone_alloc`. -/
theorem scrubRuns : Obligations.ScrubRuns := by
  refine ⟨?_, ?_, ?_, ?_, ?_, ?_, ?_, ?_⟩
  · rintro b a l w s hhead ⟨ht, hfree, hw⟩
    refine ⟨_, execRepairQueueWriteback_reads hhead, ?_⟩
    obtain ⟨-, -, hl⟩ := hhead
    rw [State.readBack_mended ht hfree hw]
    simp [hl]
  · rintro b a n w s ⟨hlive, hread, hwall, hfree, hm⟩ ⟨-, hw⟩
    refine ⟨_, execRepairQueueWriteback_writes hlive hread, ?_⟩
    rw [State.writeBack_free hwall hfree, State.rewrite_of_mended (by simpa using hw)]
    refine ⟨by simp, by simp, ?_, fun x hx => ?_⟩
    · rw [State.readWord_count, State.readWord_writeWord_self (by simpa using hm)]
    · rw [State.readWord_count, State.readWord_writeWord_ne (by simpa using hm) hx]
      simp
  · rintro b a l s hhead ⟨ht, hopen⟩
    rw [execRepairQueueWriteback_reads hhead, State.readBack_tier1 hhead.2.2 ht hopen]
  · rintro a s t k ⟨hlive, hat, hacc⟩ rfl
    exact execScrubWord_word hlive hat hacc
  · rintro a s t n ⟨hlive, hat, hacc⟩ rfl
    exact execScrubWord_acc hlive hat hacc
  · rintro b s ⟨hlive, hclear, hover, hnone⟩
    exact execClearDone_block hlive hclear hover hnone
  · rintro c s t ⟨hlive, hclear, hover⟩ rfl
    exact execClearDone_channel hlive hclear hover
  · rintro i s e ⟨hlive, hat, hstate, hover, hopen⟩
    exact execClearDone_alloc hlive hat hstate hover hopen

end Sys2Proof.Machine
end

section
/-! PROOFS. BIND, ROUTE and EMIT (O19). -/
namespace Sys2Proof.Machine

/-! ## A serving descriptor that has started (R237) -/

section Starts
variable {s u : State} {p b w : Nat} {d : Desc} {ws : List (Nat × Word)}

/-- A serving descriptor starts from any state that has kept what the head's leaving its queue left of its block, and its clocks, count of operations and memory. -/
theorem State.launchServing_takes (hp : u.partOf b = some p) (hblock : ∃ r, u.block b = { (s.pop p b 3).block b with repair := r })
    (hclock : u.cyclesOf b = s.cyclesOf b) (hcount : u.opCount = s.opCount) (hmem : u.mem = s.mem) (hcycle : (u.part p).lcycle = (s.part p).lcycle)
    (hfree : (u.part p).servingFree = (s.part p).servingFree) : ServingTakes s (u.launchServing p b d w ws) p b d w ws := by
  obtain ⟨r, hblock⟩ := hblock
  obtain ⟨hb, ⟨tags, hpart⟩, hm⟩ := State.launchServing_spec (d := d) (w := w) (ws := ws) hp
  refine ⟨?_, ?_, ?_, fun a => ?_⟩
  · simp [hb, hblock, Block.queue, Block.setQueue]
  · simp [hb, hblock, State.newOp, hclock, hcount, hcycle, hfree]
  · simp [hpart, hcycle, hfree]
  · simp [State.readWord, hm, hmem]

theorem State.Mended.launchServing_takes (hu : s.Mended u p b 3) (hp : s.partOf b = some p) : ServingTakes s (u.launchServing p b d w ws) p b d w ws := by
  obtain ⟨hblock, hpart, hclock, hcount, hmem, -, hparts, -, -⟩ := hu
  have hx : u.part p = s.part p := State.part_of_parts hparts p
  exact State.launchServing_takes (hpart.trans hp) hblock hclock hcount hmem (by rw [hx]) (by rw [hx])

theorem State.launchServing_emitted (hp : u.partOf b = some p) : ((u.launchServing p b d w ws).part p).emitted = (u.part p).emitted := by
  obtain ⟨-, ⟨tags, hpart⟩, -⟩ := State.launchServing_spec (d := d) (w := w) (ws := ws) hp
  rw [hpart]

end Starts

/-! ## BIND (R235, R236) -/

theorem length_addrs (a n : Nat) : (addrs a n).length = n := by simp [addrs]

/-- Each slot's words in turn, from the destination on. -/
theorem State.slotWords_eq (s : State) (p : Nat) (d : Desc) (f : Option Request → List Word) :
    s.slotWords p d (fun _ r => f r) =
      (addrs (hAddr (s.handle p (opHandle (opnd d 0))) (opOffset (opnd d 0))) ((List.range (nslot d)).flatMap (fun i => f (s.bound p (slot0 d + i)))).length).zip
        ((List.range (nslot d)).flatMap (fun i => f (s.bound p (slot0 d + i)))) := by
  have h : (addrs (slot0 d) (nslot d)).flatMap (fun i => f (s.bound p i)) = (List.range (nslot d)).flatMap (fun i => f (s.bound p (slot0 d + i))) :=
    List.flatMap_map ..
  simp only [State.slotWords, h]

section Bind
variable {b : Fin 256} {s : State} {p kind : Nat} {d : Desc} (hr : Ready s b.val 3 p d (s.servingRef p (opnd d 0))) (ho : opcode d = 0x70 ∧ variant d = kind)
include hr ho

/-- A BIND whose words for the slots are ws writes them, whatever its kind. -/
theorem State.issueBind_takes {f : State → Nat → Desc → Option Request → List Word} {ws : List (Nat × Word)}
    (hws : (s.pop p b.val 3).slotWords p d (fun _ r => f (s.pop p b.val 3) p d r) = ws) :
    ServingTakes s (s.issueBind b.val kind f) p b.val d ws.length ws := by
  have hstarts : s.issueBind b.val kind f = (s.pop p b.val 3).launchServing p b.val d ws.length ws :=
    (issue_of_ready hr (by simp [ho])).trans (by rw [hws])
  rw [hstarts]
  exact (State.Mended.pop s p b.val 3).launchServing_takes (ready_partOf hr)

/-- A BIND of one word for each slot. -/
theorem State.issueBind_takesOne {f : State → Nat → Desc → Option Request → List Word} {g : Option Request → Word}
    (hf : f (s.pop p b.val 3) p d = fun r => [g r]) :
    ServingTakes s (s.issueBind b.val kind f) p b.val d (nslot d) ((List.range (nslot d)).map (fun i =>
      (hAddr (s.handle p (opHandle (opnd d 0))) (opOffset (opnd d 0)) + i, g (s.bound p (slot0 d + i))))) := by
  have h := State.issueBind_takes hr ho ((congrArg (fun k => (s.pop p b.val 3).slotWords p d fun _ => k) hf).trans (State.slotWords_one _ p d g))
  rwa [List.length_map, List.length_range] at h

/-- A BIND of several words for each slot. -/
theorem State.issueBind_takesRecords {f : State → Nat → Desc → Option Request → List Word} {g : Option Request → List Word} {ws : List Word}
    (hf : f (s.pop p b.val 3) p d = g) (hws : (List.range (nslot d)).flatMap (fun i => g (s.bound p (slot0 d + i))) = ws) :
    ServingTakes s (s.issueBind b.val kind f) p b.val d ws.length
      ((addrs (hAddr (s.handle p (opHandle (opnd d 0))) (opOffset (opnd d 0))) ws.length).zip ws) := by
  subst hws
  have h := State.issueBind_takes hr ho ((congrArg (fun k => (s.pop p b.val 3).slotWords p d fun _ => k) hf).trans (State.slotWords_eq _ p d g))
  rwa [List.length_zip, length_addrs, Nat.min_self] at h

end Bind

/-! ## ROUTE and EMIT (R241, R257) -/

/-- The words that a ROUTE writes: the chosen experts of each row, of the scores in the words of its source (R257). -/
def State.routeWords (s : State) (p : Nat) (d : Desc) (scores : List Word) : List (Nat × Word) :=
  let v := tokensOf (8 * ceilDiv (routeRows d * routeE d) 8) (wordsBytes scores)
  let out := (List.range (routeRows d)).flatMap (fun i =>
    (s.routeRow p (routeK d) (s.bound p (slot0 d + i / routeRps d)) ((v.drop (i * routeE d)).take (routeE d))).flatMap (fun c => natBytes 4 c.1 ++ natBytes 4 c.2))
  let m := ceilDiv (routeRows d * routeK d) 4
  (addrs (hAddr (s.handle p (opHandle (opnd d 0))) (opOffset (opnd d 0))) m).zip (bytesWords m out)

/-- The tokens that an EMIT holds, each with its slot: those of the bound slots but the ones in prefill (R241). -/
def State.emitTokens (s : State) (p : Nat) (d : Desc) (tokens : List Word) : List (Nat × Nat) :=
  (List.range (nslot d)).filterMap (fun i => match s.bound p (slot0 d + i) with
    | none => none
    | some q => if q.state = .admitted ∧ s.adv p q < q.prefill then none else some (slot0 d + i, leAt (wordsBytes tokens) (8 * i) 4))

/-- A partition that holds further tokens emitted. -/
def Part.emitting (x : Part) (held : List (Nat × Nat)) : Part := { x with emitted := x.emitted ++ held }

/-- An EMIT starts: what it holds joins what its partition has emitted, and its port is held for the words read. -/
def State.emitStarts (u : State) (p b : Nat) (d : Desc) (held : List (Nat × Nat)) : State :=
  (u.setPart p ((u.part p).emitting held)).launchServing p b d (ceilDiv (nslot d) 4) []

section Sourced
variable {b : Fin 256} {s : State} {p : Nat} {d : Desc}

theorem execRoute_starts
    (hr : Ready s b.val 3 p d (s.servingRef p (opnd d 0) ++ s.servingRef p (opnd d 1) ++ (if s.objNat (0x5400 + p) 0x01 < routeE d then [.bounds] else [])))
    (ho : opcode d = 0x71) {r : ReadRun} (hread : readRun s.mem (s.opAddrs p (opnd d 1) (ceilDiv (routeRows d * routeE d) 8)) = r) (hclean : r.failed = none) :
    execRoute b s = .next (((s.pop p b.val 3).mended0 r.mended).launchServing p b.val d
      (ceilDiv (routeRows d * routeE d) 8 + ceilDiv (routeRows d * routeK d) 4) (s.routeWords p d r.words)) := by
  subst hread
  exact congrArg _ ((issue_of_ready hr (by simp [ho])).trans (State.readSource_clean (s := s.pop p b.val 3) hclean))

theorem execEmit_starts (hr : Ready s b.val 3 p d (s.servingRef p (opnd d 1))) (ho : opcode d = 0x74) {r : ReadRun}
    (hread : readRun s.mem (s.opAddrs p (opnd d 1) (ceilDiv (nslot d) 4)) = r) (hclean : r.failed = none) :
    execEmit b s = .next (((s.pop p b.val 3).mended0 r.mended).emitStarts p b.val d (s.emitTokens p d r.words)) := by
  subst hread
  exact congrArg _ ((issue_of_ready hr (by simp [ho])).trans (State.readSource_clean (s := s.pop p b.val 3) hclean))

end Sourced

section Emit
variable {s u : State} {p b : Nat} {d : Desc} {held : List (Nat × Nat)} (hu : s.Mended u p b 3) (hp : s.partOf b = some p)
include hu hp

theorem State.Mended.emitStarts_takes : ServingTakes s (u.emitStarts p b d held) p b d (ceilDiv (nslot d) 4) [] := by
  obtain ⟨hblock, hpart, hclock, hcount, hmem, -, hparts, -, -⟩ := hu
  have hx : u.part p = s.part p := State.part_of_parts hparts p
  have hpu := hpart.trans hp
  have hclocks : (u.setPart p ((u.part p).emitting held)).cyclesOf b = u.cyclesOf b := State.setPart_cyclesOf hpu rfl rfl rfl
  exact State.launchServing_takes (State.setPart_partOf hpu rfl rfl) (by simpa using hblock) (hclocks.trans hclock) (by simpa) (by simpa)
    (by simp [Part.emitting, hx]) (by simp [Part.emitting, hx])

theorem State.Mended.emitStarts_emitted : ((u.emitStarts p b d held).part p).emitted = (s.part p).emitted ++ held := by
  obtain ⟨-, hpart, -, -, -, -, hparts, -, -⟩ := hu
  have hx : u.part p = s.part p := State.part_of_parts hparts p
  have hpu : (u.setPart p ((u.part p).emitting held)).partOf b = some p := State.setPart_partOf (hpart.trans hp) rfl rfl
  rw [State.emitStarts, State.launchServing_emitted hpu, State.part_setPart, Part.emitting, hx]

end Emit

/-- Settles O19: each command starts its head from the state in which the head has left its queue and its source is read (`State.launchServing_takes`). -/
theorem servingDescriptorsRun : Obligations.ServingDescriptorsRun := by
  refine ⟨?_, ?_, ?_, ?_, ?_⟩
  · intro b s p d hr ho
    exact ⟨_, rfl, State.issueBind_takesOne hr ho (g := fun r => match r with | some r => seedRecord (modeOf d) r | none => 0) rfl⟩
  · intro b s p d hr ho
    exact ⟨_, rfl, State.issueBind_takesOne hr ho (g := fun r => match r with | some r => s.slotInfo p r | none => 0) rfl⟩
  · intro b s p d hr ho
    exact ⟨_, rfl, State.issueBind_takesRecords hr ho (g := fun r => match r with | some r => s.inputWords p r | none => List.replicate (s.chunk p / 8) 0)
      rfl rfl⟩
  · intro b s p d hr ho hclean
    exact ⟨_, execRoute_starts hr ho rfl hclean, ((State.Mended.pop s p b.val 3).more _).launchServing_takes (ready_partOf hr)⟩
  · intro b s p d hr ho hclean
    have hu := (State.Mended.pop s p b.val 3).more (readRun s.mem (s.opAddrs p (opnd d 1) (ceilDiv (nslot d) 4))).mended
    exact ⟨_, execEmit_starts hr ho rfl hclean, hu.emitStarts_takes (ready_partOf hr), hu.emitStarts_emitted (ready_partOf hr)⟩

end Sys2Proof.Machine
end

section
/-! PROOFS. ADMIT, APPEND, PAUSE and CANCEL (O28). -/
namespace Sys2Proof.Machine

section Rows
variable {s : State} {src : Src} {d : Desc} {op : Nat}

/-- A REQUEST that no check refuses and whose entry is read with no effect acts, and is answered OK (R226). -/
theorem State.requestRow_acts (hr : Requested s src op d) (hread : s.readNamed (s.judge src) d = s) (act : State → Desc → State) :
    s.requestRow src op act = (act s d).close src .ok := by
  obtain ⟨hlive, hd, hkind, hop, hcause⟩ := hr
  simp [State.requestRow, hlive, hd, hkind, hop, hread, hcause]

/-- A REQUEST that names a sound entry acts on it. -/
theorem State.requestRow_names {e : Nat × Request} (hr : Requested s src op d) (hfind : s.findRequest (dPart d) (rqId d) = some e) (hsound : e.2.fault = 0)
    (act : State → Desc → State) : s.requestRow src op act = (act s d).close src .ok :=
  State.requestRow_acts hr (State.readNamed_sound hfind hsound) act

end Rows

/-! ## ADMIT (R226, R262) -/

theorem State.deadlineOf_cases (s : State) (u : Nat) : (s.deadlineOf u).2 = s ∨ (s.deadlineOf u).2 = s.count 0x9A00 0x05 1 := by
  unfold State.deadlineOf
  split
  · exact .inl rfl
  · split
    · exact .inr rfl
    · exact .inl rfl

/-- The state in which an ADMIT enters its request: the deadline is formed, and the places of the request's tables are drawn. -/
def State.admitDrawn (s : State) (d : Desc) : State := (((s.deadlineOf (rqDeadline d)).2.draw 56).2.draw 32).2

section Drawn
variable (s : State) (d : Desc)

/-- Forming a deadline counts at most, and a draw advances the count of draws: neither changes what an ADMIT reads. -/
theorem State.admitDrawn_same : (s.admitDrawn d).requests = s.requests ∧ (s.admitDrawn d).objects = s.objects ∧ (s.admitDrawn d).parts = s.parts
    ∧ (s.admitDrawn d).time = s.time ∧ (s.admitDrawn d).mem = s.mem := by
  rcases s.deadlineOf_cases (rqDeadline d) with h | h <;> simp [State.admitDrawn, State.draw, h]

/-- The entry of the request that an ADMIT with a deadline enters at number n, with the places of its tables. -/
def State.admitEntry (s : State) (deadline : Nat) (src : Src) (d : Desc) (n : Nat) (root : BitVec 56) (record : BitVec 32) : Request :=
  { seed := rqSeed d, deadline := deadline, limit := rqLimit d, admitTime := s.town, reqId := rqId d,
    ttl := if rqTtl d = 0 then s.objNat (0x5100 + dPart d) 0x03 else rqTtl d, prefill := rqCount d, input := rqInput d,
    parked := decide (8192 ≤ n), parkIndex := n - 8192, origin := originOf src, tenant := rqTenant d, partition := dPart d,
    priority := field d 196 4, kerbMode := field d 194 2, gen := (s.part (dPart d)).admitting, state := .admitted,
    dirRoot := root, digestRef := record }

/-- The number at which an ADMIT enters its request. -/
def State.admitNumber (s : State) : Nat :=
  match s.freeResident with
  | some i => i
  | none => s.freeParked.getD 8192

theorem State.admitNumber_eq {n : Nat} (h : s.freeResident = some n ∨ (s.freeResident = none ∧ s.freeParked = some n)) : s.admitNumber = n := by
  rcases h with h | ⟨h, hp⟩
  · simp only [State.admitNumber, h]
  · simp only [State.admitNumber, h, hp, Option.getD_some]

theorem State.admitDrawn_admitNumber : (s.admitDrawn d).admitNumber = s.admitNumber := by
  obtain ⟨hrequests, -⟩ := s.admitDrawn_same d
  simp only [State.admitNumber, State.freeResident, State.freeParked, hrequests]

theorem State.admitDrawn_admitEntry (deadline : Nat) (src : Src) (n : Nat) (root : BitVec 56) (record : BitVec 32) :
    (s.admitDrawn d).admitEntry deadline src d n root record = s.admitEntry deadline src d n root record := by
  obtain ⟨-, hobjects, hparts, htime, -⟩ := s.admitDrawn_same d
  simp only [State.admitEntry, State.town, State.objNat, State.obj, State.part, hobjects, hparts, htime]

/-- An ADMIT that no check refuses enters its request, and counts it. -/
theorem execAdmitRequest_admits {src : Src} (hr : Requested s src 1 d) : ∃ root record, execAdmitRequest src s =
    .next ((((s.admitDrawn d).setRequest s.admitNumber (s.admitEntry (s.deadlineOf (rqDeadline d)).1 src d s.admitNumber root record)).count
      (0x9500 + dPart d) 0x06 1).close src .ok) := by
  have ⟨_, _, _, hop, hcause⟩ := hr
  refine ⟨((s.deadlineOf (rqDeadline d)).2.draw 56).1, (((s.deadlineOf (rqDeadline d)).2.draw 56).2.draw 32).1, ?_⟩
  rw [← State.admitDrawn_admitEntry, ← State.admitDrawn_admitNumber s d]
  exact congrArg _ (State.requestRow_acts hr (State.readNamed_fresh hop hcause) _)

end Drawn

/-! ## APPEND, PAUSE and CANCEL (R223, R224, R253, R255) -/

section Named
variable {s : State} {src : Src} {d : Desc} {i : Nat} {r : Request} (hfind : s.findRequest (dPart d) (rqId d) = some (i, r)) (hsound : r.fault = 0)
include hfind hsound

theorem execAppend_appends (hr : Requested s src 2 d) : execAppend src s = .next ((s.setRequest i { r with
    prefill := rqCount d + 1, input := rqInput d - 4, joinLast := true, limit := rqLimit d, turnTokens := 0, expiry := 0, chunk := [], prepared := false,
    kerbWaited := false, recallWaited := false, state := if r.state = .kerbed then .recalling else .admitted }).close src .ok) := by
  rw [execAppend, State.requestRow_names hr hfind hsound]
  simp only [hfind]

theorem execPause_pauses (hr : Requested s src 3 d) : execPause src s =
    .next ((if s.isBound (dPart d) i then s.setRequest i { r with pauseWaits := true } else s.pauseNow i).close src .ok) := by
  rw [execPause, State.requestRow_names hr hfind hsound]
  simp only [hfind]

theorem execCancel_cancels (hr : Requested s src 4 d) : execCancel src s = .next ((s.cancelRequest (dPart d) i).close src .ok) := by
  rw [execCancel, State.requestRow_names hr hfind hsound]
  simp only [hfind]

end Named

/-- What a PAUSE that takes effect makes of a request (R223). -/
def Request.pausedNow (r : Request) (town : Nat) : Request :=
  match r.state with
  | .active => { r with state := .paused, pausedAt := town, pauseWaits := false }
  | .admitted => { r with pauseHeld := true, pauseWaits := false }
  | _ => { r with pauseWaits := false }

theorem State.pauseNow_eq (s : State) (i : Nat) : s.pauseNow i = s.setRequest i ((s.request i).pausedNow s.town) := by
  unfold State.pauseNow Request.pausedNow
  dsimp only
  cases (s.request i).state <;> rfl

/-- Settles O28: an ADMIT is `execAdmitRequest_admits`, and the others act on the entry that they name (`State.requestRow_names`). -/
theorem requestDescriptorsRun : Obligations.RequestDescriptorsRun := by
  refine ⟨?_, ?_, ?_, ?_⟩
  · intro src d n s hr hn
    obtain ⟨root, record, he⟩ := execAdmitRequest_admits s d hr
    rw [State.admitNumber_eq s hn] at he
    obtain ⟨hrequests, -, -, -, hmem⟩ := s.admitDrawn_same d
    refine ⟨_, root, record, he, fun a => ?_, State.request_setRequest .., fun m hm => ?_⟩
    · simp [State.readWord, hmem]
    · rw [State.request_setRequest_ne _ hm, State.request, hrequests]
      rfl
  · intro src d i r s hr hfind hsound
    exact execAppend_appends hfind hsound hr
  · intro src d i s hr hfind hsound
    exact (execPause_pauses hfind hsound hr).trans (by rw [State.pauseNow_eq, ← apply_ite (s.setRequest i)]; rfl)
  · intro src d i s hr hfind hsound
    exact execCancel_cancels hfind hsound hr

end Sys2Proof.Machine
end

section
/-! PROOFS. The request table (O29). -/
namespace Sys2Proof.Machine

/-! ## A move between the tables (R227) -/

@[simp] theorem State.serviceUnits_requests (s : State) (a n : Nat) : (s.serviceUnits a n).requests = s.requests := fieldIte State.requests rfl rfl

@[simp] theorem State.charge_requests (s : State) (t cls bytes : Nat) : (s.charge t cls bytes).requests = s.requests :=
  fieldIte State.requests rfl (State.setTenant_requests ..)

@[simp] theorem State.serviceMove_requests (s : State) (tenant : Option Nat) (a n : Nat) : (s.serviceMove tenant a n).requests = s.requests := by
  cases tenant with
  | none => exact State.serviceUnits_requests ..
  | some t => exact (State.charge_requests ..).trans (State.serviceUnits_requests ..)

theorem State.moveEntry_requests (s : State) (i j : Nat) : (s.moveEntry i j).requests = (s.requests.del i).put j
    { s.request i with parked := decide (8192 ≤ j), parkIndex := j - 8192, prepared := false, chunk := [], slot := 0xFFF } := by
  simp [State.moveEntry]

theorem execUnparkEntry_moves {s : State} {i j : Nat} {r : Request} (hlive : s.live = true) (hroom : s.residents + 512 < 8192)
    (hchoice : s.unparkChoice = some (i, r)) (hfree : s.freeResident = some j) (hmove : s.mayMove i j = true) :
    execUnparkEntry s = .next (s.moveEntry i j) := by
  simp [execUnparkEntry, hlive, hroom, hchoice, hfree, hmove]

/-- Refutes O29: clause 2 asks that the entry moved leave its old number free in every state, also where the request table lists that number twice. UNPARK_ENTRY
deletes the first of the two, and the second stands there still RECALLING. -/
theorem not_requestTableRuns : ¬ Obligations.RequestTableRuns := by
  rintro ⟨-, hunpark, -⟩
  obtain ⟨t, ht, hfreed, -⟩ := hunpark { requests := [(8192, { state := .recalling }), (8192, { state := .recalling })] } 8192 0 { state := .recalling }
    (by decide +kernel) (by decide +kernel) (by decide +kernel) (by decide +kernel)
  have hmoves := execUnparkEntry_moves (s := { requests := [(8192, { state := .recalling }), (8192, { state := .recalling })] }) (i := 8192) (j := 0)
    (r := { state := .recalling }) (by decide +kernel) (by decide +kernel) (by decide +kernel) (by decide +kernel) (by decide +kernel)
  cases ht.symm.trans hmoves
  have hstays := hfreed (by decide)
  rw [State.request, State.moveEntry_requests] at hstays
  exact absurd hstays (by decide +kernel)

end Sys2Proof.Machine
end

section
/-! PROOFS. The queue of commands (O3, O7), and the counters (O12). -/
namespace Sys2Proof.Machine

/-! ## The queue -/

/-- A command leaves the commands that wait behind it: what `exec_kept` says where nothing is asked of the memory and the form. -/
theorem exec_pending {c : Instr} {s t : State} (h : exec c s = .next t) : t.pending = s.pending := by
  have start : Kept s.pending Any False s := ⟨rfl, trivial, False.elim⟩
  obtain ⟨hqueue, -, -⟩ := exec_kept c s (fun _ => rfl) start t h
  exact hqueue

/-- Settles O3: no command touches the queue (`exec_pending`). -/
theorem commandsKeepTheQueue : Obligations.CommandsKeepTheQueue :=
  fun _ _ _ h => exec_pending h

/-- Settles O7: a step looks at the front of the queue, and the rest of the queue is that of the state it runs the command on. -/
theorem stepTakesTheFront : Obligations.StepTakesTheFront :=
  fun _ _ _ => rfl

/-! ## The counters (R452) -/

/-- Two objects of different numbers have different keys. -/
theorem objKey_ne {i u j v : Nat} (hu : u < 256) (hv : v < 256) (h : (i, u) ≠ (j, v)) : objKey j v ≠ objKey i u := by
  intro hkey
  unfold objKey at hkey
  have hi : i = j := by omega
  have hs : u = v := by omega
  exact h (by rw [hi, hs])

/-- Settles O12: a counter advanced is read back by `counter_count`, and another by `counter_count_ne`, its key being another (`objKey_ne`). -/
theorem countersWrap : Obligations.CountersWrap :=
  ⟨fun s i u n => State.counter_count s i u n, fun s _ _ _ _ n hu hv h => State.counter_count_ne s (objKey_ne hu hv h) n⟩

end Sys2Proof.Machine
end

section
/-! PROOFS. Kerbing, recall, kerb tickets and the signing of roots (O30), and the mode of a kerbing (O31). -/
namespace Sys2Proof.Machine

/-! ## The mode of a request (R246) -/

theorem State.kerbSummary_iff (s : State) (r : Request) : s.kerbSummary r = true ↔
    (if r.kerbMode = 1 ∨ r.kerbMode = 2 then r.kerbMode else s.objNat (0x5100 + r.partition) 0x01) = 2 ∧
      ∃ pl, (s.part r.partition).plans.find? (s.objNat (0x5100 + r.partition) 0x0A) = some pl ∧ pl.unloading = false := by
  unfold State.kerbSummary
  dsimp only
  rw [Bool.and_eq_true, beq_iff_eq]
  refine and_congr_right fun _ => ?_
  split
  · next pl hpl => simp [hpl]
  · next hnone => simp [hnone]

/-! ## KERBING_BEGIN (R247, R249) -/

/-- The request as it enters KERBING. -/
def Request.kerbing (r : Request) (order : Nat) (summary : Bool) : Request :=
  { r with state := .kerbing, kerbOrder := order, kerbSum := summary, summarised := false, kerbDir := [], chunk := [], kerbWaited := false }

/-- The state in which request i has entered KERBING. -/
def State.beginKerbing (s : State) (i : Nat) (r : Request) : State :=
  let t := s.setRequest i (r.kerbing s.serving.order (s.kerbSummary r))
  { t with serving := { t.serving with order := t.serving.order + 1 } }

theorem State.beginFirst_fits {s : State} {p i : Nat} {r : Request} (l : List (Nat × Request)) (hfits : r.dir.length ≤ s.freeKerb p) :
    s.beginFirst p ((i, r) :: l) = s.beginKerbing i r :=
  if_pos hfits

theorem execKerbingBegin_begins {p : Fin 64} {i : Nat} {r : Request} {l : List (Nat × Request)} {s : State} (hlive : s.live = true)
    (horder : KerbOrder s p.val ((i, r) :: l)) (hfits : r.dir.length ≤ s.freeKerb p.val) :
    execKerbingBegin p s = .next (s.beginKerbing i r) := by
  have hn : ¬(!s.live) = true := by simp [hlive]
  refine (if_neg hn).trans (congrArg Host.Outcome.next ?_)
  rw [← State.beginFirst_fits l hfits]
  exact congrArg (s.beginFirst p.val) horder.symm

theorem State.request_beginKerbing (s : State) (i : Nat) (r : Request) :
    (s.beginKerbing i r).request i = r.kerbing s.serving.order (s.kerbSummary r) :=
  State.request_setRequest s i _

theorem State.request_beginKerbing_ne (s : State) {i j : Nat} (h : j ≠ i) (r : Request) : (s.beginKerbing i r).request j = s.request j :=
  State.request_setRequest_ne s h _

theorem State.readWord_beginKerbing (s : State) (i : Nat) (r : Request) (a : Nat) : (s.beginKerbing i r).readWord a = s.readWord a :=
  State.readWord_setRequest s i _ a

theorem State.order_beginKerbing (s : State) (i : Nat) (r : Request) : (s.beginKerbing i r).serving.order = s.serving.order + 1 :=
  congrArg (fun v => v.order + 1) (State.setRequest_serving s i _)

/-! ## A request that a movement has ended for (R248, R254) -/

@[simp] theorem State.queueRecord_requests (s : State) (f : FnId) (bytes : List Byte) : (s.queueRecord f bytes).requests = s.requests := rfl

@[simp] theorem State.tellRequest_requests (s : State) (r : Request) (n : ReqNews) : (s.tellRequest r n).requests = s.requests :=
  fieldIte State.requests rfl rfl

/-- No cut and no CANCEL waits for the end of the movement. -/
theorem State.endWaiting_same {s : State} {i : Nat} (hcancel : (s.request i).cancel = false) (hcut : (s.request i).cut = false) : s.endWaiting i = s := by
  simp [State.endWaiting, hcancel, hcut]

section Moved
variable {s : State} {i : Nat}

theorem State.request_kerbed (hcancel : (s.request i).cancel = false) (hcut : (s.request i).cut = false) :
    ((s.kerbed i).request i).state = .kerbed ∧ ((s.kerbed i).request i).dir = [] := by
  unfold State.kerbed
  dsimp only
  rw [State.endWaiting_same (by simpa [State.request] using hcancel) (by simpa [State.request] using hcut)]
  simp [State.request]

theorem State.request_recalled (hcancel : (s.request i).cancel = false) (hcut : (s.request i).cut = false) :
    ((s.recalled i).request i).state = .admitted ∧ ((s.recalled i).request i).kerbDir = [] := by
  unfold State.recalled
  dsimp only
  rw [State.endWaiting_same (by simpa [State.request] using hcancel) (by simpa [State.request] using hcut)]
  simp [State.request]

end Moved

/-! ## KERB_FRAME_COPY and RECALL_FRAME_COPY (R248, R254) -/

theorem execKerbFrameCopy_copies {i j f k g a : Nat} {s t : State} (hlive : s.live = true)
    (hstate : (s.request i).state = .kerbing) (hsum : (s.request i).kerbSum = false ∨ (s.request i).summarised = true)
    (hfind : List.find? (fun e => ((s.request i).kerbDir.find? e.1).isNone) (s.request i).dir = some (j, f))
    (ha : s.frameAddr (s.request i).partition j f = some a) (hk : s.nextKerb (s.request i).partition = some (k, g))
    (hready : s.frameReady (s.request i).tenant a (s.kerbAddr (s.request i).partition k g) = true)
    (hcopy : (s.takeKerb (s.request i).partition (s.request i).tenant k g).copyFrame (s.request i).tenant a
      ((s.takeKerb (s.request i).partition (s.request i).tenant k g).kerbAddr (s.request i).partition k g) = some t) :
    execKerbFrameCopy i s = .next (
      let r := s.request i
      let v := ((t.serviceMove (some r.tenant) a frameWords).charge r.tenant (k + 1) (32 * frameWords)).setRequest i { r with kerbDir := r.kerbDir.put j (kerbEntry k g) }
      if (r.kerbDir.put j (kerbEntry k g)).length = r.dir.length then v.kerbed i else v) := by
  have hn : ¬((!s.live) = true ∨ (s.request i).state ≠ .kerbing ∨ (s.request i).kerbSum = true ∧ (!(s.request i).summarised) = true) := by
    rcases hsum with hsum | hsum <;> simp [hlive, hstate, hsum]
  unfold execKerbFrameCopy
  dsimp only
  rw [if_neg hn]
  simp only [hfind, ha, hk, hready, hcopy, Bool.not_true, Bool.false_eq_true, if_false]

theorem execRecallFrameCopy_copies {i j e f a : Nat} {s t : State} (hlive : s.live = true) (hstate : (s.request i).state = .recalling) (hi : i < 8192)
    (hfind : List.find? (fun e => ((s.request i).dir.find? e.1).isNone) (s.request i).kerbDir = some (j, e))
    (hroom : (s.request i).kerbDir.length ≤ s.freeFrames (s.request i).partition + (s.request i).dir.length)
    (hpick : s.pickFrame (s.request i).partition (s.request i).tenant j = some f) (ha : s.frameAddr (s.request i).partition j f = some a)
    (hready : s.frameReady (s.request i).tenant (s.kerbAddr (s.request i).partition (e / 2 ^ 26) (e % 2 ^ 26)) a = true)
    (hcopy : (s.takeFrame (s.request i).partition (s.request i).tenant j f).copyFrame (s.request i).tenant
      (s.kerbAddr (s.request i).partition (e / 2 ^ 26) (e % 2 ^ 26)) a = some t) :
    execRecallFrameCopy i s = .next (
      let r := s.request i
      let v := ((t.serviceMove (some r.tenant) a frameWords).charge r.tenant (e / 2 ^ 26 + 1) (32 * frameWords)).setRequest i { r with dir := r.dir.put j f }
      if (r.dir.put j f).length = r.kerbDir.length then v.recalled i else v) := by
  have hn : ¬((!s.live) = true ∨ (s.request i).state ≠ .recalling ∨ 8192 ≤ i) := by simp [hlive, hstate, hi]
  unfold execRecallFrameCopy
  dsimp only
  rw [if_neg hn]
  simp only [hfind, if_neg (Nat.not_lt.2 hroom), hpick, ha, hready, hcopy, Bool.not_true, Bool.false_eq_true, if_false]

/-! ## KERB_TICKET (R250) -/

theorem execKerbTicket_forms {p : Fin 64} {i : Nat} {r : Request} {l : List (Nat × Request)} {pl : Plan} {s : State} (hlive : s.live = true)
    (hwait : s.toSummarise p.val = (i, r) :: l) (hplan : (s.part p.val).plans.find? (s.objNat (0x5100 + p.val) 0x0A) = some pl)
    (hloaded : pl.unloading = false) (hpart : (s.part p.val).partState = 1) (hnone : (s.part p.val).kerbTicket = none)
    (hrun : ¬((s.part p.val).runKerb = true ∧ (s.part p.val).running.isSome = true))
    (hdue : s.objNat (0x5100 + p.val) 0x0D ≤ (s.part p.val).sinceSummary) :
    execKerbTicket p s = .next (
      let slot := s.objNat (0x5100 + p.val) 0x0A
      let t : Ticket := { desc := kerbDesc p.val slot (s.objNat (0x5100 + p.val) 0x0B) r.gen, src := .ring ⟨0, 0⟩, kerb := true, slot := slot, gen := r.gen }
      let u := (s.abandonSlices p.val).setPart p.val { s.part p.val with kerbTicket := some t }
      if (s.part p.val).stepState = .idle then u.proceed p.val else u) := by
  have hn : ¬((!s.live) = true ∨ (s.part p.val).partState ≠ 1 ∨ (s.part p.val).kerbTicket.isSome = true
      ∨ (s.part p.val).runKerb = true ∧ (s.part p.val).running.isSome = true ∨ pl.unloading = true
      ∨ (s.part p.val).sinceSummary < s.objNat (0x5100 + p.val) 0x0D) := by
    simp [hlive, hloaded, hpart, hnone, hdue] at hrun ⊢
    exact hrun
  simp only [execKerbTicket, hwait, hplan]
  rw [if_neg hn]

/-! ## ROOT_SIGN (R267) -/

/-- The record of a second's root, signed. -/
def rootRecord (p sec : Nat) (l : List (List Byte)) : List Byte :=
  let head := natBytes 4 sec ++ natBytes 4 l.length ++ rootOf 64 (l.map (fun d => sha3 ([0#8] ++ d)))
  head ++ attestSign (ascii "CAETH-ROOT" ++ natBytes 1 p ++ head)

theorem execRootSign_signs {p : Fin 64} {u sec q : Nat} {l : List (List Byte)} {s : State} (hlive : s.live = true)
    (hutc : s.utcOf s.town = some u) (hleaves : s.serving.leaves.find? (fun e => e.1 == p.val) = some (q, sec, l)) (hsec : sec < u / 1000000) :
    ∃ roots, execRootSign p s = .next { s with serving := { s.serving with
      leaves := s.serving.leaves.filter (fun e => !(e.1 == p.val && e.2.1 == sec)), roots := roots ++ [(p.val, sec, rootRecord p.val sec l)] } } := by
  have hn : ¬((!s.live) = true ∨ u / 1000000 ≤ sec) := by simp [hlive, hsec]
  simp only [execRootSign, hutc, hleaves]
  rw [if_neg hn]
  exact ⟨_, rfl⟩

/-! ## The statements -/

/-- Settles O31: the request taken is as `request_beginKerbing` has it, and its mode is `kerbSummary_iff`. -/
theorem kerbModeIsRead : Obligations.KerbModeIsRead := by
  intro p i r l s hlive horder hfits
  refine ⟨_, execKerbingBegin_begins hlive horder hfits, ?_⟩
  rw [State.request_beginKerbing]
  exact ⟨rfl, s.kerbSummary_iff r⟩

/-- Settles O30: each event under its conditions; a request whose last frame has been copied is as `request_kerbed` and `request_recalled` have it. -/
theorem kerbingRuns : Obligations.KerbingRuns := by
  refine ⟨?_, ?_, ?_, ?_, ?_⟩
  · intro p i r l s hlive horder hfits
    exact ⟨_, execKerbingBegin_begins hlive horder hfits, State.readWord_beginKerbing s i r, State.order_beginKerbing s i r,
      State.request_beginKerbing s i r, fun j hj => State.request_beginKerbing_ne s hj r⟩
  · rintro i j f k g a s t hlive ⟨hstate, hsum⟩ hfind ⟨ha, hk⟩ hready hcopy
    refine ⟨_, execKerbFrameCopy_copies hlive hstate hsum hfind ha hk hready hcopy, rfl, fun hcancel hcut => ⟨fun hlast => ?_, fun hmore => ?_⟩⟩
    · dsimp only
      rw [if_pos hlast]
      exact State.request_kerbed (by simpa using hcancel) (by simpa using hcut)
    · dsimp only
      rw [if_neg hmore, State.request_setRequest]
  · rintro i j e f a s t hlive ⟨hstate, hi⟩ hfind hroom ⟨hpick, ha⟩ hready hcopy
    refine ⟨_, execRecallFrameCopy_copies hlive hstate hi hfind hroom hpick ha hready hcopy, rfl, fun hcancel hcut => ⟨fun hlast => ?_, fun hmore => ?_⟩⟩
    · dsimp only
      rw [if_pos hlast]
      exact State.request_recalled (by simpa using hcancel) (by simpa using hcut)
    · dsimp only
      rw [if_neg hmore, State.request_setRequest]
  · rintro p i r l pl s hlive hwait ⟨hplan, hloaded⟩ ⟨hpart, hnone, hrun⟩ hdue
    exact execKerbTicket_forms hlive hwait hplan hloaded hpart hnone hrun hdue
  · intro p u sec q l s hlive hutc hleaves hsec
    obtain ⟨roots, hsigns⟩ := execRootSign_signs hlive hutc hleaves hsec
    exact ⟨_, _, hsigns, rfl, rfl, List.getLast?_concat, rfl⟩

end Sys2Proof.Machine
end

section
/-! PROOFS. Host DMA (O27). -/
namespace Sys2Proof.Machine

/-! ## How far a DMA has moved (R408) -/

theorem State.movedOf_setMoved (s : State) (src : Src) (v : Nat × Status) : (s.setMoved src v).movedOf src = some v := by
  cases src with
  | ring f => exact congrArg Fn.moved (State.fn_setFn s f _)
  | core k => exact congrArg Core.moved (State.core_setCore s k.val _)

/-- A DMA that may run has not moved yet. -/
theorem State.dmaReady_unmoved {s : State} {src : Src} {d : Desc} (hready : s.dmaReady src d = true) : (s.movedOf src).isSome = false := by
  simp only [State.dmaReady, Bool.and_eq_true] at hready
  obtain ⟨⟨⟨⟨⟨hnone, -⟩, -⟩, -⟩, -⟩, -⟩ := hready
  simpa using hnone

section Runs
variable {src : Src} {d : Desc} {k : Nat} {s : State}

/-- The state of a DMA_IN whose words have been written and charged. -/
def State.dmaWritten (s : State) (src : Src) (d : Desc) (k : Nat) (data : List Word) : State :=
  let ws := ((dmaAddrs d).zip data).map (fun (a, w) => (a, s.hostWord k false a w))
  ((if dTier d = 0 then s.writeWords ws else s.writeTier (dKey d) ws).chargeDma src d (dLength d / 32)).setMoved src (dLength d, .ok)

theorem execDmaIn_writes {data : List Word} (hentry : s.entryOf src 6 = some d) (hlen : dLength d / 32 ≤ data.length)
    (hready : s.dmaReady src d = true) (hcause : s.dmaCause src d = none) (htenant : s.dmaTenant d = some k) (hup : s.tierUp (dDpa d / 32) = true) :
    execDmaIn src data s = .next (s.dmaWritten src d k (data.take (dLength d / 32))) := by
  have htake : (data.take (dLength d / 32)).length = dLength d / 32 := List.length_take_of_le hlen
  have hn : ¬((data.take (dLength d / 32)).length < dLength d / 32 ∨ (s.movedOf src).isSome = true) := by
    simp [htake, State.dmaReady_unmoved hready]
  simp only [execDmaIn, hentry]
  rw [if_neg hn]
  simp only [hready, hcause, htenant, hup, htake, Bool.not_true, Bool.false_eq_true, if_false, State.dmaWritten]

/-- The state of a DMA_OUT whose words have been sent to the host and charged. -/
def State.dmaSent (s : State) (src : Src) (d : Desc) (k : Nat) (run : ReadRun) : State :=
  let u := if dTier d = 0 then s.mended0 run.mended else s.mendedTier run.mended
  let out := List.zipWith (fun a w => u.hostWord k true a w) (dmaAddrs d) run.words
  ((u.chargeDma src d out.length).emit (.hostWrite (dAddr d) out)).setMoved src (dLength d, .ok)

theorem execDmaOut_sends (hentry : s.entryOf src 7 = some d) (hready : s.dmaReady src d = true) (hcause : s.dmaCause src d = none)
    (htenant : s.dmaTenant d = some k) (hup : s.tierUp (dDpa d / 32) = true)
    (hclean : (if dTier d = 0 then readRun s.mem (dmaAddrs d) else s.readTier (dKey d) (dmaAddrs d)).failed = none) :
    execDmaOut src s = .next (s.dmaSent src d k (if dTier d = 0 then readRun s.mem (dmaAddrs d) else s.readTier (dKey d) (dmaAddrs d))) := by
  simp only [execDmaOut, hentry, State.dmaReady_unmoved hready, hready, hcause, htenant, hup, hclean, Bool.not_true, Bool.false_eq_true, if_false,
    State.dmaSent]

theorem execDmaCompletion_completes {n : Nat} {c : Status} (hlive : s.live = true) (hmoved : s.movedOf src = some (n, c)) :
    execDmaCompletion src s = .next (s.close src c n) := by
  simp only [execDmaCompletion, hlive, hmoved]

end Runs

/-- Settles O27: a DMA that runs has moved all its bytes (`movedOf_setMoved`), and its completion carries them. -/
theorem dmaRuns : Obligations.DmaRuns := by
  refine ⟨?_, ?_, ?_⟩
  · rintro src data d k s hentry hlen hready ⟨hcause, htenant⟩ hup
    exact ⟨_, execDmaIn_writes hentry hlen hready hcause htenant hup, rfl, State.movedOf_setMoved ..⟩
  · rintro src d k s hentry hready ⟨hcause, htenant⟩ hup hclean
    exact ⟨_, execDmaOut_sends hentry hready hcause htenant hup hclean, rfl, State.movedOf_setMoved ..⟩
  · intro src n c s hlive hmoved
    exact execDmaCompletion_completes hlive hmoved

end Sys2Proof.Machine
end

section
/-! PROOFS. The avenue links: what a port receives (O41) and sends (O43), when it leaves its state by itself (O44), and the crossroads (O45). -/
namespace Sys2Proof.Machine

/-! ## A port and the state around it -/

@[simp] theorem State.port_setPort (s : State) (n : Nat) (x : Port) : (s.setPort n x).port n = x := by simp [State.port, State.setPort]

/-- A part whose links act, which is RUNNING or PARKED, is not frozen. -/
theorem State.not_stopped_of_linked {s : State} (h : s.linked = true) : ¬(s.mode ≠ .running ∧ s.mode ≠ .parked) := by
  simp only [State.linked, Bool.or_eq_true, beq_iff_eq] at h
  rintro ⟨hrun, hpark⟩
  exact h.elim hrun hpark

/-- A port that is not UP leaves its state by its own registers alone. -/
theorem State.port_leavePort_of_ne {s : State} {n : Nat} (dest_ cause : Nat) (h : (s.port n).link ≠ 4) :
    ((s.leavePort n dest_ cause).port n).link = dest_ ∧ ((s.leavePort n dest_ cause).port n).downCause = cause
      ∧ ((s.leavePort n dest_ cause).port n).full = ((s.port n).full || cause == 6) := by
  unfold State.leavePort
  dsimp only
  rw [if_neg h, State.port_setPort]
  exact ⟨rfl, rfl, rfl⟩

/-! ## CODEWORD_RECEIVE (R298, R304) -/

section Codewords
variable {n : Fin 6} {symbols : List (BitVec 9)} {s : State}

/-- A codeword that reaches a port whose links act is decoded. -/
theorem execCodewordReceive_decodes (hlen : 272 ≤ symbols.length) (hlinked : s.linked = true) (hmode : s.mode ≠ .frozen) (hlink : 2 ≤ (s.port n.val).link) :
    execCodewordReceive n symbols s = match rsDecode ((symbols.take 272).map BitVec.toNat) with
      | none =>
        if (s.port n.val).link = 2 then .next ((s.portEvent n.val 0x04).setPort n.val { s.port n.val with clean := 0 })
        else
          let y := ((s.port n.val).lose (s.port n.val).codewords).step true (s.time.central / 2 ^ 24)
          let t := (s.portEvent n.val 0x04).setPort n.val y
          .next (if (s.port n.val).link = 4 ∧ 32 ≤ (y.verdicts.filter id).length then t.leavePort n.val 1 2 else t)
      | some (data, mended) =>
        let t := if mended then s.count (0x9700 + n.val) 0x03 1 else s
        if (s.port n.val).link = 2 then .next (t.setPort n.val { s.port n.val with clean := (s.port n.val).clean + 1 })
        else .next ((t.setPort n.val ((s.port n.val).step false (s.time.central / 2 ^ 24))).takeBytes n.val (s.port n.val).codewords (symbolBytes data)) := by
  have hn : ¬(symbols.length < 272 ∨ (s.port n.val).link < 2) := by omega
  unfold execCodewordReceive
  dsimp only
  rw [if_neg hn, if_neg hmode, if_neg (by simp [hlinked])] <;> rfl

end Codewords

/-! ## PACKET_RECEIVE, LINK_CTRL and TRAIN (R306 to R308, R313 to R316, R321) -/

section Packets
variable {n : Fin 6} {p : Packet} {s t : State}

theorem execPacketReceive_sequences (hrx : s.takeRx n.val (fun p => p.type != 1 && p.type != 2) = some (p, t)) (hlink : (t.port n.val).link = 4)
    (hepoch : p.epoch = (t.port n.val).rxEpoch) (htype : 0x10 ≤ p.type ∧ p.type < 0x40) :
    execPacketReceive n s = .next ((t.takeHeader n.val p).sequence n.val p) := by
  simp only [execPacketReceive, hrx]
  rw [if_neg (Decidable.not_not.2 hlink), if_neg (Decidable.not_not.2 hepoch), if_pos htype]

theorem execLinkCtrl_regaps (hrx : s.takeRx n.val (fun p => p.type == 1) = some (p, t)) (hlink : (t.port n.val).link = 4)
    (hepoch : p.epoch = (t.port n.val).rxEpoch) (hlen : p.len = 0) (hcls : p.cls = 0) (hok : p.reservedOk = true)
    (hseq : seqGap p.seq ((t.takeHeader n.val p).port n.val).expect ≤ 2048) :
    execLinkCtrl n s = .next ((t.takeHeader n.val p).setPort n.val
      ({ (t.takeHeader n.val p).port n.val with ctrlSeq := p.seq }.regap (t.takeHeader n.val p).town)) := by
  have hn : ¬(p.cls ≠ 0 ∨ (!p.reservedOk) = true) := by simp [hcls, hok]
  simp only [execLinkCtrl, hrx]
  rw [if_neg (Decidable.not_not.2 hlink), if_neg (Decidable.not_not.2 hepoch), if_neg (Decidable.not_not.2 hlen), if_neg hn, if_pos hseq]

/-- A TRAIN of good form acts by the port's state. -/
theorem execTrain_good {w : Word} (hrx : s.takeRx n.val (fun p => p.type == 2) = some (p, t)) (hlen : p.len ≤ 1) (hw : p.goodWord 0 = some w)
    (hform : field w 16 8 = 1) (hzero : field w 72 184 = 0) (hok : p.reservedOk = true) (hcls : p.cls = 0) :
    execTrain n s =
      if (t.port n.val).link = 4 then .next (t.leavePort n.val 1 3)
      else if (t.port n.val).link = 3 then
        let u := t.setPort n.val { t.port n.val with
          partner := field w 32 8 * 2 ^ 24 + field w 24 8 * 2 ^ 16 + field w 0 16,
          rxEpoch := if (t.port n.val).met then (t.port n.val).rxEpoch else field w 64 8, met := true }
        .next (if field w 48 16 = u.endpoint ∧ field w 40 8 = n.val then u.linkUp n.val else u)
      else .next t := by
  have hn : ¬(field w 16 8 ≠ 1 ∨ field w 72 184 ≠ 0 ∨ (!p.reservedOk) = true ∨ p.cls ≠ 0) := by simp [hform, hzero, hok, hcls]
  simp only [execTrain, hrx, hw]
  rw [if_neg (Nat.not_lt.2 hlen), if_neg hn]

end Packets

/-- Settles O41: a codeword is decoded (`execCodewordReceive_decodes`) and acts by the port's state, as a TRAIN does (`execTrain_good`). -/
theorem linksReceive : Obligations.LinksReceive := by
  refine ⟨?_, ?_, ?_, ?_, ?_, ?_, ?_⟩
  · rintro n symbols s data mended ⟨hlen, hlinked, hmode⟩ hlink hdec
    refine ⟨_, rfl, (execCodewordReceive_decodes hlen hlinked hmode (by omega)).trans ?_⟩
    simp only [hdec]
    exact if_neg (by omega)
  · rintro n symbols s _ ⟨hlen, hlinked, hmode⟩ hlink hdec rfl
    refine (execCodewordReceive_decodes hlen hlinked hmode (by omega)).trans ?_
    simp only [hdec]
    exact if_neg (by omega)
  · rintro n symbols s ⟨hlen, hlinked, hmode⟩ hlink hdec
    obtain ⟨⟨data, mended⟩, hdec⟩ := Option.isSome_iff_exists.1 hdec
    refine ⟨if mended then s.count (0x9700 + n.val) 0x03 1 else s, ?_, (execCodewordReceive_decodes hlen hlinked hmode (by omega)).trans ?_⟩
    · cases mended
      · exact .inl rfl
      · exact .inr rfl
    · simp only [hdec]
      exact if_pos hlink
  · rintro n p s t hrx ⟨hlink, hepoch, htype⟩
    exact execPacketReceive_sequences hrx hlink hepoch htype
  · rintro n p s t hrx ⟨hlink, hepoch⟩ ⟨hlen, hcls, hok⟩ hseq
    exact execLinkCtrl_regaps hrx hlink hepoch hlen hcls hok hseq
  · rintro n p w s t hrx ⟨hlen, hw, hform, hzero, hok, hcls⟩ hlink
    exact (execTrain_good hrx hlen hw hform hzero hok hcls).trans (if_pos hlink)
  · rintro n p w s t _ hrx ⟨hlen, hw, hform, hzero, hok, hcls⟩ hlink rfl
    exact (execTrain_good hrx hlen hw hform hzero hok hcls).trans ((if_neg (by omega)).trans (if_pos hlink))

/-! ## EGRESS_SLOT (R334) -/

section Slot
variable {n : Fin 6} {s : State}

/-- The first waiting retransmission of a port that its replay buffer still holds. -/
def Port.nextAgain (x : Port) : Option Sent := x.resend.head?.bind (fun q => x.replay.find? (fun e => e.seq == q))

/-- The packet that a slot of port n sends for the first time, while the window is not full: a plan packet, or else a service packet. -/
def State.slotPick (s : State) (n slot : Nat) : Option Candidate :=
  match s.planPacket n (slot % 960) with
  | some c => some c
  | none => s.servicePacket n

/-- A slot not yet served is served: a retransmission goes first, then a packet that is new. -/
theorem execEgressSlot_serves (hlinked : s.linked = true) (hlink : (s.port n.val).link = 4) (hslot : (s.port n.val).slot ≤ s.slotNow n.val) :
    execEgressSlot n s =
      let t := s.setPort n.val { s.port n.val with slot := s.slotNow n.val + 1 }
      match (s.port n.val).nextAgain with
      | some e => .next (t.sendAgain n.val e)
      | none => match if (s.port n.val).windowFull then none else t.slotPick n.val (s.slotNow n.val) with
        | some c => .next (t.sendNew n.val c)
        | none => .next (if (s.port n.val).callsCtrl then t.sendCtrl n.val else t) := by
  have hn : ¬((!s.linked) = true ∨ (s.port n.val).link ≠ 4 ∨ s.slotNow n.val < (s.port n.val).slot) := by simp [hlinked, hlink, hslot]
  exact if_neg hn

end Slot

/-! ## The timers of a port in UP, and TRAIN (R307 to R309, R313, R366) -/

section Timers
variable {n : Fin 6} {s : State}

theorem execLinkCtrlTimer_sends (hlinked : s.linked = true) (hlink : (s.port n.val).link = 4) (hresend : (s.port n.val).resend.isEmpty = true)
    (hwaiting : (s.waitingFor n.val).isEmpty = true) (hdue : (s.port n.val).callsCtrl = true ∨ (s.port n.val).sentAt + Config.ticksPerUs ≤ s.town) :
    execLinkCtrlTimer n s = .next (s.sendCtrl n.val) :=
  if_pos ⟨hlinked, hlink, hresend, hwaiting, hdue⟩

theorem execGapRerequest_asks (hlinked : s.linked = true) (hlink : (s.port n.val).link = 4) {late : Gap → Bool}
    (hlate : late = fun g => (g.asked.map (fun t => decide (t + Config.ticksPerUs ≤ s.town))).getD false) (hany : (s.port n.val).gaps.any late = true) :
    execGapRerequest n s = .next (s.setPort n.val { s.port n.val with
      ctrlDue := true, gaps := (s.port n.val).gaps.map (fun g => if late g then { g with asked := none } else g) }) := by
  have hsame : late = fun g => match g.asked with
      | some t => decide (t + Config.ticksPerUs ≤ s.town)
      | none => false := by
    subst hlate
    funext g
    cases g.asked <;> rfl
  subst hsame
  exact if_pos ⟨hlinked, hlink, hany⟩

theorem execStalledAckRetransmit_resends (hlinked : s.linked = true) (hlink : (s.port n.val).link = 4) (hreplay : (s.port n.val).replay.isEmpty = false)
    (hdue : ((s.port n.val).stalledAt.map (fun t => t + 8 * Config.ticksPerUs)).getD ((s.port n.val).unaSince + 2 * Config.ticksPerUs) ≤ s.town) :
    execStalledAckRetransmit n s =
      .next (s.setPort n.val { s.port n.val with resend := (s.port n.val).replay.map Sent.seq, stalledAt := some s.town }) := by
  refine if_pos ⟨hlinked, hlink, by simp [hreplay], ?_⟩
  cases hstalled : (s.port n.val).stalledAt with
  | none => exact decide_eq_true (by simpa [hstalled] using hdue)
  | some t => exact decide_eq_true (by simpa [hstalled] using hdue)

theorem execTrainSend_sends (hlinked : s.linked = true) (hlink : (s.port n.val).link = 3) (hdue : (s.port n.val).trainAt + Config.ticksPerUs ≤ s.town) :
    execTrainSend n s = .next ((s.setPort n.val { s.port n.val with trainAt := s.town }).transmit n.val (s.trainPacket n.val).bytes) :=
  if_pos ⟨hlinked, hlink, hdue⟩

end Timers

/-- A stamped codeword newer than the last one stamped leaves, and its record follows in UP. -/
theorem execStampedCodeword_stamps {n : Fin 6} {s : State} (hlinked : s.linked = true) (hlink : 3 ≤ (s.port n.val).link)
    (hnew : ((s.port n.val).txStamp.map (fun t => decide (t.1 < s.stampIndex n.val))).getD true = true) :
    execStampedCodeword n s = .next (
      let t := s.setPort n.val { s.port n.val with txStamp := some (s.stampIndex n.val, s.time.central / 2 ^ 24) }
      if (s.port n.val).link = 4 then t.sendStamp n.val else t) := by
  unfold execStampedCodeword
  dsimp only
  rw [if_neg]
  cases hstamp : (s.port n.val).txStamp with
  | none => simp [hlinked, Nat.not_lt.2 hlink]
  | some t => simpa [hlinked, Nat.not_lt.2 hlink, hstamp] using hnew

/-- Settles O43: a slot sends by `execEgressSlot_serves`, and the timers send under their conditions. -/
theorem linksSend : Obligations.LinksSend := by
  refine ⟨?_, ?_, ?_, ?_, ?_, ?_, ?_, ?_⟩
  · rintro n e s ⟨hlinked, hlink, hslot⟩ hagain
    rw [← Port.nextAgain] at hagain
    refine (execEgressSlot_serves hlinked hlink hslot).trans ?_
    simp only [hagain]
  · rintro n c s _ ⟨hlinked, hlink, hslot⟩ ⟨hagain, hwindow⟩ rfl hplan
    rw [← Port.nextAgain] at hagain
    refine (execEgressSlot_serves hlinked hlink hslot).trans ?_
    simp only [hagain, hwindow, State.slotPick, hplan, Bool.false_eq_true, if_false]
  · rintro n c s _ ⟨hlinked, hlink, hslot⟩ ⟨hagain, hwindow⟩ rfl ⟨hplan, hservice⟩
    rw [← Port.nextAgain] at hagain
    refine (execEgressSlot_serves hlinked hlink hslot).trans ?_
    simp only [hagain, hwindow, State.slotPick, hplan, hservice, Bool.false_eq_true, if_false]
  · rintro n s ⟨hlinked, hlink, hresend, hwaiting⟩ hdue
    exact execLinkCtrlTimer_sends hlinked hlink hresend hwaiting hdue
  · rintro n s late ⟨hlinked, hlink⟩ hlate hany
    exact execGapRerequest_asks hlinked hlink hlate hany
  · rintro n s ⟨hlinked, hlink, hreplay⟩ hdue
    exact execStalledAckRetransmit_resends hlinked hlink hreplay hdue
  · rintro n s ⟨hlinked, hlink, hdue⟩
    exact execTrainSend_sends hlinked hlink hdue
  · rintro n s _ ⟨hlinked, hlink⟩ hnew rfl
    exact execStampedCodeword_stamps hlinked hlink hnew

/-! ## The timed exits of the states of a port (R313, R323) -/

section States
variable {n : Fin 6} {s : State}

theorem execDownWaitExpiry_trains (hlinked : s.linked = true) (hlink : (s.port n.val).link = 1)
    (hdue : (s.port n.val).since + 10 * Config.ticksPerUs ≤ s.town) : execDownWaitExpiry n s = .next (s.beginTraining n.val) :=
  if_pos ⟨hlinked, hlink, hdue⟩

/-- The port as it enters LOCKED: TX_EPOCH has advanced, and the receiver begins anew. -/
def Port.lockedAnew (x : Port) (town : Nat) : Port :=
  { x with link := 3, since := town, lockedAt := town, full := false, txEpoch := if x.txEpoch = 255 then 1 else x.txEpoch + 1,
           codewords := 0, verdicts := [], bytes := [], offset := 0, rx := [], stream := [], met := false, trainAt := town, txStamp := none, rxStamp := none }

theorem execTrainingLocked_locks (hlinked : s.linked = true) (hlink : (s.port n.val).link = 2) (hclean : 64 ≤ (s.port n.val).clean) :
    execTrainingLocked n s = .next (s.setPort n.val ((s.port n.val).lockedAnew s.town)) :=
  if_pos ⟨hlinked, hlink, hclean⟩

theorem execTrainingTimeout_leaves (hlinked : s.linked = true) (hlink : (s.port n.val).link = 2) (hclean : (s.port n.val).clean < 64)
    (hdue : (s.port n.val).since + (if (s.port n.val).full then 150 else 3) * Config.ticksPerMs ≤ s.town) :
    execTrainingTimeout n s = .next (s.leavePort n.val 1 6) :=
  if_pos ⟨hlinked, hlink, hclean, hdue⟩

theorem execLockedTimeout_leaves (hlinked : s.linked = true) (hlink : (s.port n.val).link = 3) (hdue : (s.port n.val).since + Config.ticksPerMs ≤ s.town) :
    execLockedTimeout n s = .next (s.leavePort n.val 1 1) :=
  if_pos ⟨hlinked, hlink, hdue⟩

theorem execUpTimeout_leaves {limit : Nat} (hlinked : s.linked = true) (hlink : (s.port n.val).link = 4)
    (hlimit : limit = s.objNat (0x7100 + n.val) 0x08 * Config.ticksPerUs)
    (hdue : (s.port n.val).goodAt + limit ≤ s.town ∨ ((s.port n.val).replay.isEmpty = false ∧ (s.port n.val).unaSince + limit ≤ s.town)
      ∨ (s.port n.val).gaps.any (fun g => decide (g.since + limit ≤ s.town)) = true) :
    execUpTimeout n s = .next (s.leavePort n.val 1 1) := by
  subst hlimit
  exact if_pos ⟨hlinked, hlink, hdue.imp_right (Or.imp_left (And.imp_left (by simp)))⟩

end States

/-- Settles O44: each exit under its conditions; a port that is not UP leaves by its own registers alone (`port_leavePort_of_ne`). -/
theorem linkStatesFollowR313 : Obligations.LinkStatesFollowR313 := by
  refine ⟨?_, ?_, ?_, ?_, ?_⟩
  · rintro n s ⟨hlinked, hlink, hdue⟩
    exact execDownWaitExpiry_trains hlinked hlink hdue
  · rintro n s ⟨hlinked, hlink, hclean⟩
    exact execTrainingLocked_locks hlinked hlink hclean
  · rintro n s ⟨hlinked, hlink, hclean⟩ hdue
    obtain ⟨hdown, hcause, hfull⟩ := State.port_leavePort_of_ne (s := s) (n := n.val) 1 6 (by omega)
    exact ⟨_, execTrainingTimeout_leaves hlinked hlink hclean hdue, rfl, hdown, hcause, hfull.trans (Bool.or_true _)⟩
  · rintro n s ⟨hlinked, hlink, hdue⟩
    obtain ⟨hdown, hcause, -⟩ := State.port_leavePort_of_ne (s := s) (n := n.val) 1 1 (by omega)
    exact ⟨_, execLockedTimeout_leaves hlinked hlink hdue, rfl, hdown, hcause⟩
  · rintro n s limit ⟨hlinked, hlink⟩ hlimit hdue
    exact execUpTimeout_leaves hlinked hlink hlimit hdue

/-! ## The crossroads (R328, R331) -/

section Crossroads
variable {i : Fin 7} {service : Bool} {vc : Fin 2} {s : State} {k j : Nat} {q : Queued}

/-- The oldest packet of an input buffer that has no route meets its verdict. -/
theorem execPacketRoute_judges (hlinked : s.linked = true) (hk : k = bufKey i.val (if service then 1 else 0) vc.val)
    (hfind : (s.buffer k).findIdx? (fun q => q.out.isNone) = some j) (hat : (s.buffer k)[j]? = some q) :
    execPacketRoute i service vc s =
      let gone := (s.setBuffer k (replaceAt (s.buffer k) j none)).packetGone k q
      match s.verdict i.val q.pkt with
      | .deliver => .next ({ gone with arrived := gone.arrived ++ [(i.val, q.pkt)] }.count 0x9800 0x01 1)
      | .forward n v => .next ((s.setBuffer k (replaceAt (s.buffer k) j (some { q with
          pkt := { q.pkt with header := setField (setField q.pkt.header 184 8 (q.pkt.hops - 1)) 14 1 v }, out := some n }))).count 0x9800 0x01 1)
      | .dropJob => .next (if i.val < 6 then (gone.roadEvent 0x03 q.pkt.job q.pkt.dst).portEvent i.val 0x0E else gone.roadEvent 0x03 q.pkt.job q.pkt.dst)
      | .dropBollard => .next (gone.roadEvent 0x02 q.pkt.job q.pkt.dst)
      | .dropRoute => .next (gone.roadEvent 0x04 q.pkt.job q.pkt.dst) := by
  subst hk
  unfold execPacketRoute
  dsimp only
  rw [if_neg (State.not_stopped_of_linked hlinked)]
  simp only [hfind, hat] <;> rfl

theorem execAgedDiscard_discards (hlinked : s.linked = true) (hk : k = bufKey i.val (if service then 1 else 0) vc.val)
    (hfind : (s.buffer k).findIdx? (fun q => decide (q.at_ + Config.ticksPerMs ≤ s.town)) = some j) (hat : (s.buffer k)[j]? = some q) :
    execAgedDiscard i service vc s = .next (((s.setBuffer k (replaceAt (s.buffer k) j none)).packetGone k q).count 0x9800 0x05 1) := by
  subst hk
  unfold execAgedDiscard
  dsimp only
  rw [if_neg (State.not_stopped_of_linked hlinked)]
  simp only [hfind, hat]

end Crossroads

/-- A request that has waited RESP_TIMEOUT ends with a synthetic completion (R319). -/
theorem execRespTimeout_ends {rtag : BitVec 16} {s : State} {o : Outstanding} (hlive : s.live = true) (hfind : s.outstanding.find? rtag.toNat = some o)
    (hdue : o.at_ + s.objNat (0x7100 + o.port) 0x09 * Config.ticksPerUs ≤ s.town) : execRespTimeout rtag s = .next (s.endRequest rtag.toNat) := by
  simp only [execRespTimeout, hfind]
  exact if_pos ⟨hlive, hdue⟩

theorem State.endRequest_eq {s : State} {r : Nat} {o : Outstanding} (hfind : s.outstanding.find? r = some o) :
    s.endRequest r = ({ s with
      outstanding := s.outstanding.del r,
      cdp := { s.cdp with notes := s.cdp.notes ++ [{ session := o.session, kind := 3, body := [], status := 7, tid := o.tid }] } } : State).count (0x9700 + o.port) 0x12 1 := by
  simp only [State.endRequest, hfind]

/-- Settles O45: a packet routed meets its verdict (`execPacketRoute_judges`). -/
theorem packetsRoute : Obligations.PacketsRoute := by
  refine ⟨?_, ?_, ?_, ?_, ?_⟩
  · rintro i service vc s k j q ⟨hlinked, hk⟩ ⟨hfind, hat⟩ hverdict
    refine ⟨_, rfl, (execPacketRoute_judges hlinked hk hfind hat).trans ?_⟩
    simp only [hverdict]
  · rintro i service vc s k j n v q ⟨hlinked, hk⟩ ⟨hfind, hat⟩ hverdict
    refine (execPacketRoute_judges hlinked hk hfind hat).trans ?_
    simp only [hverdict]
  · rintro i service vc s k j sub q ⟨hlinked, hk⟩ ⟨hfind, hat⟩ hverdict
    refine (execPacketRoute_judges hlinked hk hfind hat).trans ?_
    obtain ⟨hverdict, rfl⟩ | ⟨hverdict, rfl⟩ := hverdict
    · simp only [hverdict]
    · simp only [hverdict]
  · rintro i service vc s k j q ⟨hlinked, hk⟩ ⟨hfind, hat⟩
    exact execAgedDiscard_discards hlinked hk hfind hat
  · rintro rtag s o hlive ⟨hfind, hdue⟩
    rw [← State.endRequest_eq hfind]
    exact execRespTimeout_ends hlive hfind hdue

end Sys2Proof.Machine
end

section
/-! PROOFS. Town time and the oscillators (O52). -/
namespace Sys2Proof.Machine

/-! ## The pulse (R363) -/

/-- A district whose copy is set in a fold over districts has it at the end, wherever it stands. -/
theorem copies_foldl (c : Nat) : ∀ (l : List Nat) (t : Table District) (d : Nat), d ∈ l ∨ (t.get {} d).copy = c →
    ((l.foldl (fun (t : Table District) d => t.put d { t.get {} d with copy := c }) t).get {} d).copy = c
  | [], _, _, h => h.resolve_left List.not_mem_nil
  | e :: l, t, d, h => by
    refine copies_foldl c l _ d ?_
    by_cases hde : d = e
    · subst hde
      exact .inr (by rw [Table.get_put_self])
    · rw [Table.get_put_ne hde]
      exact h.imp_left fun hmem => (List.mem_cons.1 hmem).resolve_left hde

theorem State.alignCopies_copy (s : State) {d : Nat} (hd : d < 16) : (s.alignCopies.district d).copy = s.time.central := by
  have hcopy := copies_foldl s.time.central (List.range 16) s.districts d (.inl (List.mem_range.2 hd))
  unfold State.district State.alignCopies
  dsimp only at hcopy ⊢
  exact hcopy

theorem execTimePulse_aligns {s : State} (hlinked : s.linked = true) (hdue : s.time.lastPulse < s.town / Config.ticksPerUs) :
    execTimePulse s = .next s.alignCopies :=
  if_pos ⟨hlinked, hdue⟩

/-! ## Records of the neighbours (R367, R368) -/

/-- A record taken from a link is checked, and only that of the port followed is used. -/
theorem execTimestamp_takes {s t : State} {e : Nat × Packet} {w : Word} (hruns : s.cdpRuns = true) (hmode : s.mode ≠ .frozen)
    (hpkt : s.linkPacket = some e) (hstamp : s.isStamp e = true) (hw : w = bytesWord (cBody ((e.2.message).getD [])))
    (ht : t = { s with arrived := s.arrived.erase e }) :
    execTimestamp s =
      if !t.stampFits e.1 w then .next (t.countLog { cls := 7, counter := 0x9A00, sub := 0x02, inst := e.1 })
      else if t.parentPort ≠ some e.1 then .next t
      else
        let num := offsetNumerator (field w 192 64) ((t.port e.1).rxStamp.getD (0, 0)).2 ((t.port e.1).txStamp.getD (0, 0)).2 (field w 128 64)
          (signed 16 (t.objNat (0x3100 + e.1) 0x01))
        .next ((t.publishOffset e.1 num).2.exchange num (t.publishOffset e.1 num).1) := by
  subst hw ht
  have hn : ¬((!s.cdpRuns) = true ∨ s.mode = .frozen) := by simp [hruns, hmode]
  unfold execTimestamp
  rw [if_neg hn]
  simp only [hpkt]
  exact if_neg (by simp [hstamp])

/-! ## The time states (R369) -/

theorem State.timeTo_new {s : State} {m : TimeMode} (theta : Int) (h : s.time.mode ≠ m) :
    s.timeTo m theta = (({ s with time := { s.time with mode := m, acqRun := 0, offRun := 0, stepDue := none } }).logEvent
      { cls := 7, code := 1, detail := unsigned 64 theta }).bump 0x3000 0x02 :=
  if_neg h

/-- A time state entered begins its counts anew, and the count of town time goes on. -/
theorem State.timeTo_time {s : State} {m : TimeMode} (theta : Int) (h : s.time.mode ≠ m) :
    (s.timeTo m theta).time = { s.time with mode := m, acqRun := 0, offRun := 0, stepDue := none } := by
  simp [State.timeTo_new theta h]

theorem execHoldoverEntry_holds {s : State} (hruns : s.cdpRuns = true) (hmode : s.time.mode = .locked)
    (hlost : s.parentPort.all (fun n => (s.port n).link != 4) = true ∨ s.time.lastRecord + 75520 ≤ s.town) :
    execHoldoverEntry s = .next (
      let t := s.timeTo .holdover s.time.lastOffset
      ({ t with time := { t.time with holdSince := t.town, slewLeft := 0 } } : State).count 0x9A00 0x03 1) := by
  refine if_pos ⟨hruns, hmode, hlost.imp_left fun hlost => ?_⟩
  cases hport : s.parentPort with
  | none => rfl
  | some n => simpa [hport] using hlost

theorem execHoldoverLimitExpiry_leaves {s : State} (hruns : s.cdpRuns = true) (hmode : s.time.mode = .holdover)
    (hdue : s.time.holdSince + s.objNat 0x3000 0x04 * Config.ticksPerUs ≤ s.town) :
    execHoldoverLimitExpiry s = .next (s.timeTo .acquiring s.time.lastOffset) :=
  if_pos ⟨hruns, hmode, hdue⟩

/-! ## Time steps (R370) -/

theorem execTimeStep_steps {s t u : State} {d by_ : Int} (hlinked : s.linked = true) (hmode : s.time.mode = .acquiring) (hstep : s.time.stepDue = some d)
    (hidle : s.parts.all (fun e => e.2.stepState == .idle) = true)
    (ht : t = { s with time := { s.time with central := ((s.time.central : Int) - d).toNat, stepDue := none, acqRun := 0 } })
    (hby : by_ = (t.town : Int) - (s.town : Int))
    (hu : u = { t.moveAll by_ with time := { (t.moveAll by_).time with utc := (t.moveAll by_).time.utc.map (fun (u, t) => (u, t + by_)) } }) :
    execTimeStep s = .next (u.alignCopies.countLog { cls := 7, counter := 0x9A00, sub := 0x01, detail := unsigned 64 (-d / 2 ^ 24) }) := by
  subst ht hby hu
  have hn : ¬((!s.linked) = true ∨ s.time.mode ≠ .acquiring ∨ (!s.parts.all (fun e => e.2.stepState == .idle)) = true) := by
    simp [hlinked, hmode, hidle]
  simp only [execTimeStep, hstep]
  rw [if_neg hn]

/-! ## The oscillators (R359) -/

theorem execDroop_slows {d setting : Fin 16} {s : State} (hlive : s.live = true) (hslower : (s.district d.val).setting < setting.val) :
    execDroop d setting s = .next (((s.setDistrict d.val { s.district d.val with setting := setting.val, recover := (s.district d.val).cycles }).count
      (0x9900 + d.val) 0x01 1).bump (0x3010 + d.val) 0x01) :=
  (if_neg (by simp [hlive])).trans (if_neg (Nat.not_le.2 hslower))

theorem execOscillatorRecovery_quickens {d : Fin 16} {s : State} (hlive : s.live = true) (hslow : (s.district d.val).setting ≠ 0)
    (hdue : (s.district d.val).recover + 32 ≤ (s.district d.val).cycles) :
    execOscillatorRecovery d s =
      .next ((s.setDistrict d.val { s.district d.val with setting := (s.district d.val).setting - 1, recover := (s.district d.val).cycles }).bump (0x3010 + d.val) 0x01) :=
  if_pos ⟨hlive, hslow, hdue⟩

/-- Settles O52: the copies take the central count by `alignCopies_copy`, a record is taken as `execTimestamp_takes` says, and a time state is entered as
`timeTo_time` says. -/
theorem townClockRuns : Obligations.TownClockRuns := by
  refine ⟨?_, ?_, ?_, ?_, ?_, ?_, ?_, ?_⟩
  · rintro s ⟨hlinked, hdue⟩
    exact ⟨_, execTimePulse_aligns hlinked hdue, rfl, fun d => s.alignCopies_copy d.isLt, rfl⟩
  · rintro s t e w _ ⟨hruns, hmode, hpkt, hstamp⟩ ⟨hw, ht⟩ ⟨hfits, hparent⟩ rfl
    refine (execTimestamp_takes hruns hmode hpkt hstamp hw ht).trans ?_
    rw [if_neg (by simp [hfits]), if_neg (Decidable.not_not.2 hparent)]
  · rintro s t e w ⟨hruns, hmode, hpkt, hstamp⟩ ⟨hw, ht⟩ hother
    refine (execTimestamp_takes hruns hmode hpkt hstamp hw ht).trans ?_
    cases hfits : t.stampFits e.1 w with
    | false => rfl
    | true => exact if_pos (hother hfits)
  · rintro s _ ⟨hruns, hmode⟩ hlost rfl
    have htime := State.timeTo_time (s := s) (m := .holdover) s.time.lastOffset (by simp [hmode])
    refine ⟨_, execHoldoverEntry_holds hruns hmode hlost, rfl, ?_, ?_⟩
    · simp [htime]
    · simp [htime, State.town]
  · rintro s ⟨hruns, hmode, hdue⟩
    have htime := State.timeTo_time (s := s) (m := .acquiring) s.time.lastOffset (by simp [hmode])
    exact ⟨_, execHoldoverLimitExpiry_leaves hruns hmode hdue, rfl, by rw [htime]⟩
  · rintro s t u d by_ ⟨hlinked, hmode, hstep⟩ hidle ⟨ht, hby⟩ hu
    exact execTimeStep_steps hlinked hmode hstep hidle ht hby hu
  · rintro d setting s ⟨hlive, hslower⟩
    exact execDroop_slows hlive hslower
  · rintro d s ⟨hlive, hslow, hdue⟩
    exact execOscillatorRecovery_quickens hlive hslow hdue

end Sys2Proof.Machine
end

section
/-! PROOFS. Freezes, snapshots and the sweeper (O58), and the JTAG port (O59). -/
namespace Sys2Proof.Machine

/-! ## Triggers and resumes (R481, R482, R487) -/

section Triggers
variable {s : State}

theorem execFreezeN_triggers (hpin : s.freeze.pin = false) :
    execFreezeN s = .next (
      let t : State := { s with freeze := { s.freeze with pin := true } }
      if t.startRuns ∨ t.freeze.state = 3 then t else t.trigger 1) :=
  if_neg (by simp [hpin])

theorem execFreezeAtTrigger_triggers {t : Nat} (htimed : s.freeze.timed = some t) (hstate : s.freeze.state = 0) (hlinked : s.linked = true)
    (hstart : s.startRuns = false) (hreached : s.reached t = true) :
    execFreezeAtTrigger s = .next (({ s with freeze := { s.freeze with timed := none } } : State).trigger 3) := by
  simp only [execFreezeAtTrigger, htimed]
  rw [if_neg (Decidable.not_not.2 hstate), if_pos ⟨hlinked, by simp [hstart], hreached⟩]

theorem execFreezeNDeassert_resumes (hpin : s.freeze.pin = true) :
    execFreezeNDeassert s = .next ({ s with freeze := { s.freeze with pin := false } } : State).resumeFreeze :=
  if_pos hpin

end Triggers

/-- The resume at the first pulse at or after u0 + 1 µs (R484, R487, R489). -/
theorem execClockRestart_restarts {s t u : State} {d again : Nat} (hstate : s.freeze.state = 3)
    (hdue : s.freeze.at_ + Config.ticksPerUs ≤ s.town / Config.ticksPerUs * Config.ticksPerUs)
    (ht : t = (match s.freeze.timed with
      | some t => if t ≤ s.town then s.passTimed t else s
      | none => s))
    (hd : d = t.town - t.freeze.time)
    (hu : u = ((t.alignCopies.moveTimers (d : Int)).idleSlots ((t.alignCopies.moveTimers (d : Int)).now + d * 7 / 8)).later (d * 7 / 8))
    (hagain : again = (if u.freeze.pin then 1 else u.freeze.again)) :
    execClockRestart s = .next (
      let v := ({ u with mode := if u.freeze.parked then .parked else .running, freeze := { u.freeze with state := 0, again := 0, parked := false } } : State).freezeBumps
      if again = 0 then v else v.beginFreeze again) := by
  subst hagain hu hd ht
  have hn : ¬(s.freeze.state ≠ 3 ∨ s.town / Config.ticksPerUs * Config.ticksPerUs < s.freeze.at_ + Config.ticksPerUs) := by
    rintro (h | h)
    · exact h hstate
    · exact Nat.not_lt.2 hdue h
  exact if_neg hn

/-! ## Snapshots (R454, R492) -/

theorem execSnapshotCopy_copies {s : State} {t : Nat} (hdue : s.snapshot.due = some t) (hlinked : s.linked = true) (hreached : s.reached t = true) :
    execSnapshotCopy s =
      .next (({ s with shadows := s.counters, snapshot := { due := none, time := t } } : State).bumps [(0x9000, 0x03), (0x9F00, 0x02)]) := by
  simp only [execSnapshotCopy, hdue]
  exact if_pos ⟨hlinked, hreached⟩

/-! ## The sweeper (R493 to R496) -/

section Sweeper
variable {b : Fin 256} {s : State}

theorem execSweeperSlice_begins (hdue : s.sweepable b.val = true) :
    execSweeperSlice b s = .next (s.setBlock b.val { s.block b.val with slice := some (s.wallOf b.val), sliceSince := some s.town, retried := false }) :=
  if_pos hdue

/-- The state in which the slice of a block is over, whether it passed or failed. -/
def State.sliceOver (s : State) (b : Nat) : State := s.setBlock b { s.block b with slice := none, retried := false }

theorem execSweeperSliceEnd_passes {t : Nat} (hlive : s.live = true) (hslice : (s.block b.val).slice = some t) (hdue : t + 2048 ≤ s.wallOf b.val) :
    execSweeperSliceEnd b false s = .next (
      let u := (s.sliceOver b.val).count 0x9E00 0x01 1
      if (s.block b.val).retried then u else u.nextWindow b.val) := by
  have hn : ¬((!s.live) = true ∨ s.wallOf b.val < t + 2048) := by simp [hlive, hdue]
  simp only [execSweeperSliceEnd, hslice]
  rw [if_neg hn]
  rfl

theorem execSweeperSliceEnd_fails {t p : Nat} {u : State} (hlive : s.live = true) (hslice : (s.block b.val).slice = some t) (hdue : t + 2048 ≤ s.wallOf b.val)
    (hu : u = ((s.sliceOver b.val).countLog { cls := 13, counter := 0x9E00, sub := 0x04, inst := 0, detail := b.val }).retireBlock b.val)
    (hpart : u.partOf b.val = some p) :
    execSweeperSliceEnd b true s =
      .next (if (u.part p).stepState = .running then u.failStep p .fault 3 else u.originate p 3 Status.fault.code 0xFF false) := by
  have hn : ¬((!s.live) = true ∨ s.wallOf b.val < t + 2048) := by simp [hlive, hdue]
  simp only [execSweeperSliceEnd, hslice]
  rw [if_neg hn, if_pos trivial]
  subst hu
  rw [State.sliceOver] at hpart ⊢
  simp only [hpart]

end Sweeper

/-- Settles O58: each event under its conditions. -/
theorem freezesRun : Obligations.FreezesRun := by
  refine ⟨?_, ?_, ?_, ?_, ?_, ?_, ?_, ?_⟩
  · rintro s _ ⟨hpin, rfl⟩
    exact execFreezeN_triggers hpin
  · rintro s t ⟨htimed, hstate⟩ ⟨hlinked, hstart, hreached⟩
    exact execFreezeAtTrigger_triggers htimed hstate hlinked hstart hreached
  · intro s hpin
    exact execFreezeNDeassert_resumes hpin
  · rintro s t u d again ⟨hstate, hdue⟩ ht ⟨hd, hu⟩ hagain
    exact execClockRestart_restarts hstate hdue ht hd hu hagain
  · rintro s t ⟨hdue, hlinked, hreached⟩
    exact execSnapshotCopy_copies hdue hlinked hreached
  · intro b s hdue
    exact execSweeperSlice_begins hdue
  · rintro b t s _ ⟨hlive, hslice, hdue⟩ rfl
    exact execSweeperSliceEnd_passes hlive hslice hdue
  · rintro b t p s u ⟨hlive, hslice, hdue⟩ hu hpart
    exact execSweeperSliceEnd_fails hlive hslice hdue hu hpart

/-! ## The JTAG port (R485, R486) -/

section Jtag
variable {s : State}

theorem execFrzSelect_names {value : BitVec 16} (hpower : s.powered = true) (hdebug : s.debugs = true) :
    execFrzSelect value s = .next (
      let t := s.jtagShift 0x20 (scanBits 16 (4096 * s.jtag.district + s.jtag.chain))
      { t with jtag := { t.jtag with district := value.toNat / 4096, chain := value.toNat % 4096, rotated := 0 } }) :=
  (if_neg (by simp [hpower])).trans (if_neg (by simp [hdebug]))

theorem execFrzScan_turns {bits : List Bool} (hpower : s.powered = true) (hdebug : s.debugs = true) :
    execFrzScan bits s = .next (
      let n := max 1 (Config.chainLength s.jtag.district s.jtag.chain)
      let t := s.jtagShift 0x21 ((List.range bits.length).map (fun i => Config.chainBit s.freeze.time s.jtag.district s.jtag.chain ((s.jtag.rotated + i) % n)))
      { t with jtag := { t.jtag with rotated := (s.jtag.rotated + bits.length) % n } }) :=
  (if_neg (by simp [hpower])).trans (if_neg (by simp [hdebug]))

theorem execFrzMemRead_reads {command : BitVec 64} (hpower : s.powered = true) (hdebug : s.debugs = true)
    (hok : frzCommandOk (BitVec.ofNat 64 (field command 0 63)) = true) :
    execFrzMemRead command s = .next (s.jtagShift 0x22 (frzRegister (BitVec.ofNat 64 (field command 0 63))
      (s.readWord (frzWord (BitVec.ofNat 64 (field command 0 63)))))) := by
  refine (if_neg (by simp [hpower])).trans ((if_neg (by simp [hdebug])).trans ?_)
  rw [if_pos hok]

theorem execFrzMemWrite_writes {command : BitVec 64} {word : Word} {check : Check} (hpower : s.powered = true) (hdebug : s.debugs = true)
    (hok : frzCommandOk command = true) :
    execFrzMemWrite command word check s =
      .next (({ s with jtag := { s.jtag with ir := 0x22 } } : State).writeWord (frzWord command) ⟨word, check⟩) := by
  refine (if_neg (by simp [hpower])).trans (congrArg Host.Outcome.next (if_pos ?_))
  exact Bool.and_eq_true_iff.2 ⟨hdebug, hok⟩

theorem execFrzResume_resumes (hpower : s.powered = true) (hstate : s.freeze.state = 2) (hpin : s.freeze.pin = false) :
    execFrzResume true s = .next (s.jtagShift 0x23 [false]).resumeFreeze :=
  (if_neg (by simp [hpower])).trans (congrArg Host.Outcome.next (if_pos ⟨rfl, hstate, by simp [State.jtagShift, hpin]⟩))

end Jtag

/-- Settles O59: each instruction of a powered part; the word that FRZ_MEM_WRITE writes reads back as given, and the others as before. -/
theorem jtagRuns : Obligations.JtagRuns := by
  refine ⟨?_, ?_, ?_, ?_, ?_, ?_, ?_, ?_, ?_, ?_⟩
  · exact fun s hpower => congrArg Host.Outcome.next (if_pos hpower)
  · exact fun s hpower => congrArg Host.Outcome.next (if_pos hpower)
  · exact fun s hpower => congrArg Host.Outcome.next (if_pos hpower)
  · exact fun s hpower => congrArg Host.Outcome.next (if_pos hpower)
  · exact fun s hpower => congrArg Host.Outcome.next (if_pos hpower)
  · rintro value s _ ⟨hpower, hdebug⟩ rfl
    exact execFrzSelect_names hpower hdebug
  · rintro bits _ s _ ⟨hpower, hdebug⟩ rfl rfl
    exact execFrzScan_turns hpower hdebug
  · rintro command s ⟨hpower, hdebug, hok⟩
    exact execFrzMemRead_reads hpower hdebug hok
  · rintro command word check s ⟨hpower, hdebug, hok, hmem⟩
    exact ⟨_, execFrzMemWrite_writes hpower hdebug hok, State.readWord_writeWord_self (s := { s with jtag := { s.jtag with ir := 0x22 } }) hmem _,
      fun a ha => State.readWord_writeWord_ne (s := { s with jtag := { s.jtag with ir := 0x22 } }) hmem ha _⟩
  · rintro s ⟨hpower, hstate, hpin⟩
    exact execFrzResume_resumes hpower hstate hpin

end Sys2Proof.Machine
end

section
/-! PROOFS. Power, resets and the starts (O55), and the card (O56). -/
namespace Sys2Proof.Machine

/-! ## Power and resets (R461 to R463) -/

theorem execPowerOn_starts {s : State} (hoff : s.mode = .off) :
    execPowerOn s = .next (let t := s.bare .starting
      ({ t with start := { t.start with coldDue := true } } : State).setObj 0x2000 0x01 (natBytes 4 1)) :=
  if_neg (Decidable.not_not.2 hoff)

theorem execResetN_prelude {s : State} (h : s.mode = .running ∨ s.mode = .frozen ∨ s.mode = .parked) : execResetN s = .next (s.noteCause 1).prelude := by
  rcases h with h | h | h
  · simp only [execResetN, h]
  · simp only [execResetN, h]
  · simp only [execResetN, h]

theorem execResetN_recovers {s : State} (h : s.mode = .recovery) :
    execResetN s = .next { s.noteCause 1 with mode := .starting, start := { s.start with coldDue := true, bootSlot := none } } := by
  simp only [execResetN, h]

/-! ## The starts (R466, R475, R476, R478) -/

section Cold
variable {env : StartEnv} {s : State}

theorem execColdStart_waits (hmode : s.mode = .starting) (hdue : s.start.coldDue = true) (hrefs : env.refsOk = false) :
    execColdStart env s = .next (s.storeRaw 0x2000 0x03 [1#8]) :=
  (if_neg (by simp [hmode, hdue])).trans (if_pos (by simp [hrefs]))

/-- A cold start with its references boots the slot that ACTIVATE named, or else goes by its straps. -/
theorem execColdStart_goes (hmode : s.mode = .starting) (hdue : s.start.coldDue = true) (hrefs : env.refsOk = true) :
    execColdStart env s = match s.start.bootSlot with
      | some k => .next (s.bootCold [k] env)
      | none =>
        if env.straps.toNat / 8 % 2 = 0 then .next (s.beginCold env.straps.toNat).enterRecovery
        else .next ((s.beginCold env.straps.toNat).bootCold (match (s.beginCold env.straps.toNat).card with
          | some c => slotsOf env.straps.toNat c.active.val
          | none => []) env) :=
  (if_neg (by simp [hmode, hdue])).trans ((if_neg (by simp [hrefs])).trans rfl)

theorem execWarmStart_goes {kind : Nat} {r t u v : State} (hmode : s.mode = .starting) (hwarm : s.start.warm = some kind) (hrefs : env.refsOk = true)
    (hr : r = s.setObj 0x2000 0x05 (natBytes 4 env.straps.toNat))
    (ht : t = (match r.start.bootSlot with
      | some k => r.bootWarm k
      | none => r))
    (hu : u = (if kind = 1 then ({ (fnsOf 0 ++ fnsOf 1).foldl State.resetFn t with pcie := [] } : State) else t))
    (hv : v = { u with
      requests := u.start.checkpoint, start := { u.start with checkpoint := [] }, cdp := { u.cdp with links := [] }
      cores := (List.range 20).map (fun k => (k, { wdogAt := u.town, imem := u.firmwareOf k })) }) :
    execWarmStart env s = .next (((v.findCxl env).startLinks false).startDone kind env.micros) := by
  subst hv hu ht hr
  simp only [execWarmStart, hwarm]
  rw [if_neg (Decidable.not_not.2 hmode), if_neg (by simp [hrefs])] <;> rfl

end Cold

/-! ## ACTIVATE_PAUSE (R478) -/

theorem execActivatePause_pauses {s : State} (hlive : s.live = true) (hactivating : s.start.activating = true)
    (hidle : s.parts.all (fun e => e.2.stepState != .running) = true) :
    execActivatePause s = .next { s.quiesce with start := { s.quiesce.start with paused := true, warm := some 2 } } :=
  if_pos ⟨hlive, hactivating, hidle⟩

/-- Settles O55: each start under its conditions; ACTIVATE's pause stores nothing (`exec_mem`). -/
theorem startsRun : Obligations.StartsRun := by
  refine ⟨?_, ?_, ?_, ?_, ?_, ?_, ?_, ?_, ?_⟩
  · rintro s _ ⟨hoff, rfl⟩
    exact execPowerOn_starts hoff
  · intro s h
    exact execResetN_prelude h
  · intro s h
    exact execResetN_recovers h
  · rintro env s ⟨hmode, hdue, hrefs⟩
    exact execColdStart_waits hmode hdue hrefs
  · rintro env s ⟨hmode, hdue, hrefs, hslot, hstrap⟩
    refine (execColdStart_goes hmode hdue hrefs).trans ?_
    simp only [hslot]
    exact if_neg (by omega)
  · rintro env s ⟨hmode, hdue, hrefs, hslot, hstrap⟩
    refine (execColdStart_goes hmode hdue hrefs).trans ?_
    simp only [hslot]
    exact if_pos hstrap
  · rintro env k s ⟨hmode, hdue, hrefs, hslot⟩
    refine (execColdStart_goes hmode hdue hrefs).trans ?_
    simp only [hslot]
  · rintro env kind s r t u v ⟨hmode, hwarm, hrefs⟩ hr ht hu hv
    exact execWarmStart_goes hmode hwarm hrefs hr ht hu hv
  · rintro s ⟨hlive, hactivating, hidle⟩
    have hpauses := execActivatePause_pauses hlive hactivating hidle
    exact ⟨_, hpauses, rfl, rfl, rfl, rfl, rfl, rfl, rfl, rfl, exec_mem (c := .activatePause) rfl hpauses⟩

/-! ## The card and its store (R473, R480) -/

theorem execStoreWrite_writes {s : State} {c : CardImage} (hruns : s.cdpRuns = true) (hdue : s.start.storeDue = true) (hcard : s.card = some c) :
    execStoreWrite s = .next (
      let t := s.writeCard { c with store := s.runningStore (c.store.generation + 1) } "store"
      { t with start := { t.start with storeDue := false } }) := by
  simp only [execStoreWrite, hruns, hdue, hcard, Bool.and_self]

theorem execCardInsert_takes {card : CardImage} {s t : State} (hruns : s.cdpRuns = true) (hcard : s.card = none)
    (ht : t = (if s.start.storeDue then s else { s with start := { s.start with values := card.store.values } }).writeCard
      { card with store := { card.store with generation := card.store.generation + 1, retired := s.start.retired, repaired := s.start.repaired } } "store") :
    execCardInsert card s = .next ((if (cardSlot card card.active.val).image.isSome ∧ (cardSlot card card.active.val).digest ≠ t.obj 0x2100 0x05
        then t.setObj 0x2100 0x03 (natBytes 1 card.active.val) else t).bumps [(0x2100, 0x01), (0x2200, 0x01), (0x2300, 0x03)]) := by
  subst ht
  simp only [execCardInsert, hcard, hruns, Bool.not_true, Bool.false_eq_true, if_false]
  cases s.start.storeDue <;> rfl

theorem execCardRemove_removes {s : State} {c : CardImage} (hcard : s.card = some c) :
    execCardRemove s = .next (({ s with card := none } : State).bumps [(0x2100, 0x01), (0x2200, 0x01)]) := by
  simp only [execCardRemove, hcard]

/-- Settles O56: each event of the card under its conditions. -/
theorem cardsRun : Obligations.CardsRun := by
  refine ⟨?_, ?_, ?_⟩
  · rintro s _ c ⟨hruns, hdue, hcard⟩ rfl
    exact execStoreWrite_writes hruns hdue hcard
  · rintro card s t ⟨hruns, hcard⟩ ht
    exact execCardInsert_takes hruns hcard ht
  · intro s c hcard
    exact execCardRemove_removes hcard

end Sys2Proof.Machine
end

section
/-! PROOFS. The start of the collectives and of BARRIER (O20), and the packets of the fabric (O46). -/
namespace Sys2Proof.Machine

/-! ## Collectives from their descriptors (R351 to R353) -/

theorem exec_collRow {r : (Fin 256 → Instr) × Nat} {b : Fin 256} {s : State} (hr : r ∈ collRows) : exec (r.1 b) s = .next (s.issueColl b.val r.2) := by
  simp only [collRows, List.mem_cons, List.not_mem_nil, or_false] at hr
  obtain rfl | rfl | rfl := hr
  · rfl
  · rfl
  · rfl

/-- The state in which a collective has started from u, its operand read: in flight, held by the engine, and its first dimension begun. -/
def State.startColl (s u : State) (p b op : Nat) (d : Desc) (h : Word) (l : List Nat) (w : Nat) : State :=
  let r := u.launchMover p b d (ceilDiv w 2) .collective
  (r.2.setColl r.1.id ((s.pop p b 2).newColl p b op d h l)).startDim r.1.id 4

section Starts
variable {s u : State} {p b op j k : Nat} {d : Desc}

/-- The collective that the engine holds, its job being the slot's tag. -/
theorem State.newColl_pop {h : Word} {l : List Nat} (hj : s.jobOf p = some j) : (s.pop p b 2).newColl p b op d h l =
    { part := p, block := b, job := s.jobTag j, op := op, seq := collSeq d, flow := collFlow d, count := vecCount d,
      dst := hAddr (s.handle p (opHandle (opnd d 0))) (opOffset (opnd d 0)),
      dims := (List.range 3).filter (fun i => collDims d / 2 ^ i % 2 == 1), header := h, elems := l } := by
  have hpop : (s.pop p b 2).jobOf p = some j := hj
  unfold State.newColl
  rw [hpop]
  rfl

/-- A collective whose first dimension has more than one part starts as `coll_started` says. -/
theorem State.startColl_starts {w : Nat} {h : Word} {l : List Nat} (hu : s.Mended u p b 2) (hp : s.partOf b = some p)
    (hj : s.jobOf p = some j) (ho : s.openSlot (s.jobTag j) = some j)
    (hk : ((List.range 3).filter (fun i => collDims d / 2 ^ i % 2 == 1)).head? = some k) (he : 1 < (s.boxOf j).extent k) :
    CollStarts s (s.startColl u p b op d h l w) p b op j k d h l w := by
  obtain ⟨hq, hi, hf, hm, hc, hw⟩ := State.coll_started (op := op) (w := w) (h := h) (l := l) hu hp hj ho hk he
  refine ⟨⟨hq, hi ▸ List.mem_append_right _ (List.mem_singleton.2 rfl), hf, fun a => congrArg (·.read a) hm⟩, ?_⟩
  change (s.startColl u p b op d h l w).coll _ = _ at hc
  change _ → State.WaveOut s (s.startColl u p b op d h l w) _ _ _ _ _ _ ∧ ∀ x ∈ _, State.WaveOut s (s.startColl u p b op d h l w) _ _ _ _ _ _ at hw
  generalize s.startColl u p b op d h l w = t at hc hw ⊢
  rw [State.newColl_pop hj] at hc hw
  exact ⟨hc, hw⟩

theorem issueColl_fp32 (hr : Ready s b 2 p d []) (hop : opcode d = 0x61 + op) (hf : formatOf d = 0x0A) (hj : s.jobOf p = some j)
    (hclean : (readRun s.mem (s.opAddrs p (opnd d 1) (ceilDiv (vecCount d) 8))).failed = none) :
    s.issueColl b op = s.startColl ((s.pop p b 2).mended0 (readRun s.mem (s.opAddrs p (opnd d 1) (ceilDiv (vecCount d) 8))).mended) p b op d (collHeader 10 0 (vecCount d) 0)
      ((List.range (vecCount d)).map (fun i => leAt (wordsBytes (readRun s.mem (s.opAddrs p (opnd d 1) (ceilDiv (vecCount d) 8))).words) (4 * i) 4))
      (ceilDiv (vecCount d) 8) := by
  have hbound : s.unbound p = [] := by simp [State.unbound, hj]
  unfold State.issueColl
  rw [issue_of_ready (p := p) (d := d) (by rw [hbound]; exact hr) (by simp [hop])]
  dsimp only
  rw [if_pos hf]
  exact State.readSource_clean (s := s.pop p b 2) hclean

theorem issueColl_wide {wp64 : Bool} (hr : Ready s b 2 p d []) (hop : opcode d = 0x61 + op) (hf : formatOf d ≠ 0x0A) (hj : s.jobOf p = some j)
    (hclean : (readRun s.mem (s.opAddrs p (opnd d 1) 1)).failed = none)
    (hform : headerFormat ((readRun s.mem (s.opAddrs p (opnd d 1) 1)).words.headD 0) = some wp64)
    (hcount : headerCount ((readRun s.mem (s.opAddrs p (opnd d 1) 1)).words.headD 0) = vecCount d)
    (h0 : opOffset (opnd d 0) + wideWords wp64 (vecCount d) ≤ hSize (s.handle p (opHandle (opnd d 0))))
    (h1 : opOffset (opnd d 1) + wideWords wp64 (vecCount d) ≤ hSize (s.handle p (opHandle (opnd d 1))))
    (hrest : (readRun s.mem (s.opAddrs p (opnd d 1) (wideWords wp64 (vecCount d))).tail).failed = none) :
    s.issueColl b op = s.startColl (((s.pop p b 2).mended0 (readRun s.mem (s.opAddrs p (opnd d 1) 1)).mended).mended0
        (readRun s.mem (s.opAddrs p (opnd d 1) (wideWords wp64 (vecCount d))).tail).mended) p b op d
      (let h := (readRun s.mem (s.opAddrs p (opnd d 1) 1)).words.headD 0; withFlags h (headFlags h))
      ((List.range (vecCount d)).map (fun i =>
        leAt (wordsBytes (readRun s.mem (s.opAddrs p (opnd d 1) (wideWords wp64 (vecCount d))).tail).words) (wideBits wp64 / 8 * i) (wideBits wp64 / 8)))
      (wideWords wp64 (vecCount d)) := by
  have hbound : s.unbound p = [] := by simp [State.unbound, hj]
  have hfits : ¬(hSize (s.handle p (opHandle (opnd d 0))) < opOffset (opnd d 0) + wideWords wp64 (vecCount d)
      ∨ hSize (s.handle p (opHandle (opnd d 1))) < opOffset (opnd d 1) + wideWords wp64 (vecCount d)) := by omega
  unfold State.issueColl
  rw [issue_of_ready (p := p) (d := d) (by rw [hbound]; exact hr) (by simp [hop])]
  dsimp only
  rw [if_neg hf, State.pop_opAddrs, State.readSource_clean (s := s.pop p b 2) hclean]
  simp only [State.pop_mem, State.pop_opAddrs, State.pop_handle, hform, hcount, ne_eq, not_true_eq_false, if_false]
  refine (if_neg hfits).trans ?_
  rw [State.readSource_clean (by rw [State.mended0_mem]; exact hrest), State.mended0_mem]
  rfl

end Starts

/-! ## BARRIER (R350) -/

/-- An operation put in flight changes no object, no job and no time. -/
theorem State.clearTags_fabric (p id : Nat) : ∀ (hs : List Nat) (s : State),
    (s.clearTags p id hs).objects = s.objects ∧ (s.clearTags p id hs).jobs = s.jobs ∧ (s.clearTags p id hs).time = s.time
  | [], _ => ⟨rfl, rfl, rfl⟩
  | h :: t, s => by simpa [State.clearTags, State.markTag] using State.clearTags_fabric p id t (s.markTag p h false id)

theorem State.launch_fabric (s : State) (p b : Nat) (o : Op) :
    (s.launch p b o).objects = s.objects ∧ (s.launch p b o).jobs = s.jobs ∧ (s.launch p b o).time = s.time :=
  State.clearTags_fabric ..

theorem State.jobOf_same {s t : State} (ho : t.objects = s.objects) (hj : t.jobs = s.jobs) (p : Nat) : t.jobOf p = s.jobOf p := by
  simp [State.jobOf, State.objNat, State.obj, ho, hj]

/-- The state in which BARRIER d of block b is in flight, before it joins. -/
def State.startBarrier (s : State) (p b : Nat) (d : Desc) : State :=
  let o := s.newOp p b 2 d 1 (if (s.jobOf p).isSome then .barrier (s.part p).barriers else .plain)
  let t := ((s.pop p b 2).launch p b o).setPart p { s.part p with barriers := (s.part p).barriers + 1 }
  t.setBlock b { t.block b with moverFree := t.cyclesOf b + 1 }

section Barrier
variable {s : State} {p b : Nat} {d : Desc}

theorem State.startBarrier_part : ((s.startBarrier p b d).part p).barriers = (s.part p).barriers + 1 := by
  simp [State.startBarrier]

theorem State.startBarrier_mem : (s.startBarrier p b d).mem = s.mem := by
  simp [State.startBarrier]

theorem State.startBarrier_fabric : (s.startBarrier p b d).objects = s.objects ∧ (s.startBarrier p b d).jobs = s.jobs ∧ (s.startBarrier p b d).time = s.time := by
  obtain ⟨ho, hj, ht⟩ := (s.pop p b 2).launch_fabric p b (s.newOp p b 2 d 1 (if (s.jobOf p).isSome then .barrier (s.part p).barriers else .plain))
  simp only [State.startBarrier, State.setBlock_objects, State.setBlock_jobs, State.setBlock_time, State.setPart_objects, State.setPart_jobs,
    State.setPart_time]
  exact ⟨ho, hj, ht⟩

theorem State.startBarrier_town : (s.startBarrier p b d).town = s.town := by
  simp only [State.town, State.startBarrier_fabric.2.2]

theorem State.startBarrier_block (hp : s.partOf b = some p) : (s.startBarrier p b d).block b = { (s.pop p b 2).block b with
    inflight := (s.block b).inflight ++ [s.newOp p b 2 d 1 (if (s.jobOf p).isSome then .barrier (s.part p).barriers else .plain)],
    moverFree := s.cyclesOf b + 1 } := by
  generalize ho : s.newOp p b 2 d 1 (if (s.jobOf p).isSome then .barrier (s.part p).barriers else .plain) = o
  have hlaunch : ((s.pop p b 2).launch p b o).partOf b = some p := State.launch_partOf hp
  obtain ⟨tg, hpart⟩ := State.launch_part (s.pop p b 2) p b p o
  have hcycles : (((s.pop p b 2).launch p b o).setPart p { s.part p with barriers := (s.part p).barriers + 1 }).cyclesOf b = s.cyclesOf b :=
    (State.setPart_cyclesOf hlaunch (by rw [hpart]; rfl) (by rw [hpart]; rfl) (by rw [hpart]; rfl)).trans (State.launch_cyclesOf hp)
  simp only [State.startBarrier, ho, State.block_setBlock, hcycles]
  simp

theorem execBarrier_starts {b : Fin 256} (hr : Ready s b.val 2 p d []) (hop : opcode d = 0x68) :
    execBarrier b s = .next (match s.jobOf p with
      | some j => (s.startBarrier p b.val d).joinBarrier j 1 (s.part p).barriers
      | none => s.startBarrier p b.val d) := by
  obtain ⟨ho, hj, -⟩ := State.startBarrier_fabric (s := s) (p := p) (b := b.val) (d := d)
  unfold execBarrier
  rw [issue_of_ready hr (by simp [hop]), ← State.jobOf_same ho hj p]
  rfl

/-- What a BARRIER in flight shows of itself, and the barrier that it joins where its partition is bound by a job. -/
def BarrierFlies (s t : State) (p b : Nat) (d : Desc) : Prop :=
  ((t.block b).queue 2).descs = ((s.block b).queue 2).descs.tail
  ∧ (t.block b).inflight = (s.block b).inflight ++ [s.newOp p b 2 d 1 (if (s.jobOf p).isSome then .barrier (s.part p).barriers else .plain)]
  ∧ (t.block b).moverFree = s.cyclesOf b + 1 ∧ (t.part p).barriers = (s.part p).barriers + 1 ∧ (∀ a, t.readWord a = s.readWord a)

theorem State.startBarrier_flies (hp : s.partOf b = some p) : BarrierFlies s (s.startBarrier p b d) p b d := by
  have hblock := State.startBarrier_block (d := d) hp
  refine ⟨?_, ?_, ?_, State.startBarrier_part, fun a => congrArg (·.read a) State.startBarrier_mem⟩
  · rw [hblock]; simp [Block.queue, Block.setQueue]
  · rw [hblock]
  · rw [hblock]

theorem BarrierFlies.same {t u : State} (h : BarrierFlies s t p b d) (hb : u.blocks = t.blocks) (hp : u.parts = t.parts) (hm : u.mem = t.mem) :
    BarrierFlies s u p b d := by
  obtain ⟨hq, hi, hf, hn, hw⟩ := h
  have hblock : u.block b = t.block b := by simp only [State.block, hb]
  exact ⟨hblock ▸ hq, hblock ▸ hi, hblock ▸ hf, by rwa [State.part, hp], fun a => (congrArg (·.read a) hm).trans (hw a)⟩

theorem execBarrier_flies {b : Fin 256} (hr : Ready s b.val 2 p d []) (hop : opcode d = 0x68) :
    ∃ t, exec (.barrier b) s = .next t ∧ ((t.block b.val).queue 2).descs = ((s.block b.val).queue 2).descs.tail
      ∧ (t.block b.val).inflight = (s.block b.val).inflight ++ [s.newOp p b.val 2 d 1 (if (s.jobOf p).isSome then .barrier (s.part p).barriers else .plain)]
      ∧ (t.block b.val).moverFree = s.cyclesOf b.val + 1 ∧ (t.part p).barriers = (s.part p).barriers + 1 ∧ (∀ a, t.readWord a = s.readWord a)
      ∧ ∀ j, s.jobOf p = some j → ((t.job j).barrier 1 (s.part p).barriers).joined = true ∧ ((t.job j).barrier 1 (s.part p).barriers).joinedAt = s.town := by
  have hexec : exec (.barrier b) s = _ := execBarrier_starts hr hop
  have hflies := State.startBarrier_flies (d := d) (ready_partOf hr)
  cases hjob : s.jobOf p with
  | none =>
    rw [hjob] at hexec
    obtain ⟨hq, hi, hf, hn, hw⟩ := hflies
    rw [hjob] at hi
    exact ⟨_, hexec, hq, hi, hf, hn, hw, fun _ h => nomatch h⟩
  | some j =>
    rw [hjob] at hexec
    obtain ⟨hjoined, hat, hblocks, hparts, hm⟩ := (s.startBarrier p b.val d).joinBarrier_spec j 1 (s.part p).barriers
    obtain ⟨hq, hi, hf, hn, hw⟩ := hflies.same hblocks hparts hm
    rw [hjob] at hi
    rw [State.startBarrier_town] at hat
    refine ⟨_, hexec, hq, hi, hf, hn, hw, fun i hi => ?_⟩
    rw [← Option.some.inj hi]
    exact ⟨hjoined, hat⟩

end Barrier

/-- Settles O20: a collective is issued with its operand read (`issueColl_fp32`, `issueColl_wide`) and starts as `startColl_starts` says; a BARRIER joins
from the state in which it is in flight. -/
theorem collectivesStart : Obligations.CollectivesStart := by
  refine ⟨?_, ?_, ?_⟩
  · rintro r b s p j k d hrow hr ⟨hop, hf⟩ ⟨hj, ho⟩ ⟨hk, he⟩ hclean
    exact ⟨_, (exec_collRow hrow).trans (congrArg Host.Outcome.next (issueColl_fp32 hr hop hf hj hclean)),
      State.startColl_starts ((State.Mended.pop s p b.val 2).more _) (ready_partOf hr) hj ho hk he⟩
  · rintro r b s p j k d wp64 hrow hr ⟨hop, hf⟩ ⟨hj, ho⟩ ⟨hk, he⟩ hclean hform hcount ⟨h0, h1⟩ hrest
    exact ⟨_, (exec_collRow hrow).trans (congrArg Host.Outcome.next (issueColl_wide hr hop hf hj hclean hform hcount h0 h1 hrest)),
      State.startColl_starts (((State.Mended.pop s p b.val 2).more _).more _) (ready_partOf hr) hj ho hk he⟩
  · exact fun b s p d hr hop => execBarrier_flies hr hop

/-! ## DATA packets (R341, R342) -/

/-- A DATA packet that none of the drops of R341 applies to is written, its handle unready from FIRST until LAST. -/
theorem execData_writes {s t u : State} {i j p : Nat} {e : BitVec 128} {pkt : Packet} (htake : s.takeType 0x10 = some (i, pkt, t))
    (hopen : t.openSlot pkt.job = some j) (hp : p = t.jobPart j) (he : e = (if pkt.handle < 4096 then t.handle p pkt.handle else 0))
    (hinside : (decide (i < 6) && t.bollard (t.boxOf j) i) = false) (hruns : (t.part p).stepState = .running)
    (hparity : pkt.flags / 4 % 2 = (t.part p).stepCount % 2) (hkind : hKind e = 3) (hsize : pkt.woffset + pkt.len ≤ hSize e)
    (hu : u = (if pkt.flags % 2 = 1 then t.markTag p pkt.handle false 0 else t).receiveWords (hAddr e pkt.woffset) pkt.payload) :
    execData s = .next (if pkt.flags / 2 % 2 = 1 then (u.markTag p pkt.handle true 0).lateReceive p else u) := by
  subst hu hp
  have hfits : ¬(hKind e ≠ 3 ∨ hSize e < pkt.woffset + pkt.len) := not_or.2 ⟨Decidable.not_not.2 hkind, Nat.not_lt.2 hsize⟩
  subst he
  simp only [execData, htake, hopen]
  refine (if_neg (by rw [hinside]; exact Bool.false_ne_true)).trans ?_
  refine (if_neg (Decidable.not_not.2 hruns)).trans ?_
  refine (if_neg (Decidable.not_not.2 hparity)).trans ?_
  exact if_neg hfits

/-! ## Packets of the waves (R352, R353) -/

section Waves
variable {s t u : State} {pkt : Packet} {id j d f m w : Nat} {c c' : Coll} {ws : List Word} {sums got : List Nat} {h : Word}

/-- The packet pkt is the next of a wave, up or down, and fits collective c, which is in its dimension d under job slot j; t is the state once it is taken. -/
structure Meets (s t : State) (up : Bool) (pkt : Packet) (id j d : Nat) (c : Coll) (ws : List Word) : Prop where
  takes : s.takeWave up = some (pkt, t)
  runs : t.collRuns pkt = true
  coll : t.collOf up pkt = some (id, c, d)
  opened : t.openSlot pkt.job = some j
  reads : pkt.read = .ok ws
  agrees : c.agrees pkt ws = true

theorem execCollUp_header (hm : Meets s t true pkt id j d c ws) (hhead : pkt.flags / 8 % 2 = 1)
    (hh : h = withFlags c.header (headFlags c.header ||| headFlags (ws.headD 0))) :
    execCollUp s = .next (if t.pos (t.boxOf j) d + 1 = (t.boxOf j).extent d then t.setColl id { c with gotHead := some h }
      else (t.setColl id { c with gotHead := some h }).sendWave c d true true [h]) := by
  subst hh
  simp only [execCollUp, hm.takes, hm.runs, hm.coll, hm.opened, hm.reads]
  refine (if_neg (by simp [hm.agrees])).trans ?_
  exact if_pos hhead

theorem execCollUp_sends (hm : Meets s t true pkt id j d c ws) (hhead : pkt.flags / 8 % 2 = 0) (hf : f = (collFormat c.header).getD 0)
    (hn : m = min (perPacket (c.op == 0) f) (c.count - c.got.length))
    (hsums : sums = List.zipWith (collCombine c.op f) ((c.elems.drop c.got.length).take m) (unpackPacket (c.op == 0) f m ws))
    (hpos : t.pos (t.boxOf j) d + 1 ≠ (t.boxOf j).extent d) :
    execCollUp s = .next ((t.setColl id { c with got := c.got ++ sums, upDone := (c.got ++ sums).length == c.count }).sendWave
      { c with got := c.got ++ sums } d true false (packPacket (c.op == 0) f sums)) := by
  subst hsums hn hf
  simp only [execCollUp, hm.takes, hm.runs, hm.coll, hm.opened, hm.reads]
  refine (if_neg (by simp [hm.agrees])).trans ?_
  refine (if_neg (by omega)).trans ?_
  exact if_pos (by simp [hpos])

theorem execCollUp_turns (hm : Meets s t true pkt id j d c ws) (hhead : pkt.flags / 8 % 2 = 0) (hf : f = (collFormat c.header).getD 0)
    (hn : m = min (perPacket (c.op == 0) f) (c.count - c.got.length))
    (hsums : sums = List.zipWith (collCombine c.op f) ((c.elems.drop c.got.length).take m) (unpackPacket (c.op == 0) f m ws))
    (hpos : t.pos (t.boxOf j) d + 1 = (t.boxOf j).extent d) (hall : c.count ≤ (c.got ++ sums).length)
    (hover : (collResult c.op f (c.got ++ sums)).2.2 = false ∨ t.accFail c.part = false)
    (hc : c' = { c with
      header := withFlags (c.gotHead.getD c.header) (headFlags (c.gotHead.getD c.header) ||| (collResult c.op f (c.got ++ sums)).2.1)
      elems := (collResult c.op f (c.got ++ sums)).1, dims := c.dims.tail, got := [], gotHead := none, upDone := false })
    (hu : u = (t.writeWords ((addrs c.dst (resultWords c'.header c'.elems).length).zip (resultWords c'.header c'.elems))).setColl id c') :
    execCollUp s = .next (((u.sendWave c' d false true [c'.header]).sendElems c' d false c'.elems).startDim id 4) := by
  subst hu hc
  have hno : ¬(((collResult c.op f (c.got ++ sums)).2.2 && t.accFail c.part) = true) := by
    rcases hover with h | h
    · simp [h]
    · simp [h]
  subst hsums hn hf
  simp only [execCollUp, hm.takes, hm.runs, hm.coll, hm.opened, hm.reads]
  refine (if_neg (by simp [hm.agrees])).trans ?_
  refine (if_neg (by omega)).trans ?_
  refine (if_neg (by simp [hpos])).trans ?_
  refine (if_neg (Nat.not_lt.2 hall)).trans ?_
  exact if_neg hno

theorem execCollDown_header (hm : Meets s t false pkt id j d c ws) (hhead : pkt.flags / 8 % 2 = 1)
    (hu : u = (if (collFormat c.header).getD 0 = 2 then t else t.writeWords [(c.dst, withFlags (ws.headD 0) (headFlags (ws.headD 0)))]).setColl id
      { c with gotHead := some (withFlags (ws.headD 0) (headFlags (ws.headD 0))), got := [] }) :
    execCollDown s = .next (if u.pos (u.boxOf j) d = 0 then u else u.sendWave c d false true ws) := by
  subst hu
  have hup : (pkt.flags / 8 % 2 == 1) = true := by simp [hhead]
  simp only [execCollDown, hm.takes, hm.runs, hm.coll, hm.opened, hm.reads, hup]
  refine (if_neg (by simp [hm.agrees])).trans ?_
  exact if_pos hhead

theorem execCollDown_writes (hm : Meets s t false pkt id j d c ws) (hhead : pkt.flags / 8 % 2 = 0) (hf : f = (collFormat c.header).getD 0)
    (hn : m = min (perPacket false f) (c.count - c.got.length)) (hgot : got = c.got ++ unpackPacket false f m ws)
    (hw : w = c.dst + (if f = 2 then 0 else 1) + c.got.length / (256 / collBits f))
    (hu : u = t.writeWords ((addrs w (ceilDiv m (256 / collBits f))).zip ws)) :
    execCollDown s = .next (
      let v := if u.pos (u.boxOf j) d = 0 then u else u.sendWave c d false false ws
      if got.length < c.count then v.setColl id { c with got := got }
      else (v.setColl id { c with header := c.gotHead.getD c.header, elems := got, dims := c.dims.tail, got := [], gotHead := none, upDone := false }).startDim id 4) := by
  subst hu hw hgot hn hf
  have hdown : (pkt.flags / 8 % 2 == 1) = false := by simp [hhead]
  simp only [execCollDown, hm.takes, hm.runs, hm.coll, hm.opened, hm.reads, hdown]
  refine (if_neg (by simp [hm.agrees])).trans ?_
  refine (if_neg (by omega)).trans ?_
  exact (apply_ite _ _ _ _).symm

end Waves

/-- Settles O46: each packet under its conditions. -/
theorem fabricPacketsRun : Obligations.FabricPacketsRun := by
  refine ⟨?_, ?_, ?_, ?_, ?_, ?_⟩
  · rintro s t u i j p e pkt ⟨htake, hopen⟩ ⟨hp, he⟩ hinside ⟨hruns, hparity⟩ ⟨hkind, hsize⟩ hu
    exact execData_writes htake hopen hp he hinside hruns hparity hkind hsize hu
  · rintro s t pkt id j d f m c ws sums ⟨htake, hruns, hcoll, hopen⟩ ⟨hread, hagrees, hhead⟩ ⟨hf, hm⟩ hsums hpos
    exact execCollUp_sends ⟨htake, hruns, hcoll, hopen, hread, hagrees⟩ hhead hf hm hsums hpos
  · rintro s t pkt id j d c ws h ⟨htake, hruns, hcoll, hopen⟩ ⟨hread, hagrees, hhead⟩ hh
    exact execCollUp_header ⟨htake, hruns, hcoll, hopen, hread, hagrees⟩ hhead hh
  · rintro s t u pkt id j d f m c c' ws sums ⟨htake, hruns, hcoll, hopen⟩ ⟨hread, hagrees, hhead⟩ ⟨hf, hm⟩ hsums ⟨hpos, hall⟩ hover hc hu
    exact execCollUp_turns ⟨htake, hruns, hcoll, hopen, hread, hagrees⟩ hhead hf hm hsums hpos hall hover hc hu
  · rintro s t u pkt id j d c ws ⟨htake, hruns, hcoll, hopen⟩ ⟨hread, hagrees, hhead⟩ hu
    exact execCollDown_header ⟨htake, hruns, hcoll, hopen, hread, hagrees⟩ hhead hu
  · rintro s t u pkt id j d f m w c ws got ⟨htake, hruns, hcoll, hopen⟩ ⟨hread, hagrees, hhead⟩ ⟨hf, hm, hgot⟩ hw hu
    exact execCollDown_writes ⟨htake, hruns, hcoll, hopen, hread, hagrees⟩ hhead hf hm hgot hw hu

end Sys2Proof.Machine
end

section
/-! PROOFS. Notices, decisions and commits (O47), and the mirror (O48). -/
namespace Sys2Proof.Machine

/-! ## What leaves the objects as they are -/

theorem State.obj_of_objects {s t : State} (h : t.objects = s.objects) (i u : Nat) : t.obj i u = s.obj i u := by
  simp only [State.obj, h]

section Objects
variable (s : State)

@[simp] theorem State.setJob_objects (j : Nat) (x : Job) : (s.setJob j x).objects = s.objects := State.bumpWhere_objects _ _

@[simp] theorem State.sendPackets_objects (l : List Packet) (op : Option (Nat × Nat)) (tenant : Option Nat) : (s.sendPackets l op tenant).objects = s.objects :=
  List.foldlRecOn (motive := fun t : State => t.objects = s.objects) _ _ rfl fun _ h _ _ => h

@[simp] theorem State.sendService_objects (h : Heading) (payload : List Stored) (tenant : Option Nat) : (s.sendService h payload tenant).objects = s.objects :=
  State.sendPackets_objects ..

@[simp] theorem State.serviceUnits_objects (a n : Nat) : (s.serviceUnits a n).objects = s.objects := fieldIte State.objects rfl rfl

@[simp] theorem State.charge_objects (t cls bytes : Nat) : (s.charge t cls bytes).objects = s.objects :=
  fieldIte State.objects rfl (State.setTenant_objects ..)

@[simp] theorem State.serviceMove_objects (tenant : Option Nat) (a n : Nat) : (s.serviceMove tenant a n).objects = s.objects := by
  cases tenant with
  | none => exact State.serviceUnits_objects ..
  | some t => exact (State.charge_objects ..).trans (State.serviceUnits_objects ..)

@[simp] theorem State.mendedTier_objects (l : List Nat) : (s.mendedTier l).objects = s.objects := by
  cases l with
  | nil => rfl
  | cons a l => exact fieldIte State.objects (State.count_objects ..) ((State.logEvent_objects ..).trans (State.count_objects ..))

@[simp] theorem State.settle_objects (p : Nat) : (s.settle p).objects = s.objects := by
  unfold State.settle
  dsimp only
  split
  · exact fieldIte State.objects (State.setPart_objects ..) rfl
  · rfl

@[simp] theorem State.writeReserved_objects (f : FnId) (l : List Byte) : (s.writeReserved f l).objects = s.objects := by
  have hwrite : ∀ (t : State), (t.writeRecord f l).objects = t.objects := by
    intro t
    unfold State.writeRecord
    dsimp only
    split <;> rfl
  unfold State.writeReserved
  exact fieldIte State.objects rfl (fieldIte State.objects (hwrite _) (State.count_objects ..))

@[simp] theorem State.answer_objects (src : Src) (r : Record) : (s.answer src r).objects = s.objects := by
  cases src with
  | ring f => exact State.writeReserved_objects ..
  | core k => exact fieldIte State.objects rfl rfl

@[simp] theorem State.discardTicket_objects (p : Nat) (t : Ticket) : (s.discardTicket p t).objects = s.objects := by
  unfold State.discardTicket State.answerTicket
  exact fieldIte State.objects rfl (fieldIte State.objects (by split <;> simp [State.queueRecord]) (fieldIte State.objects rfl (State.answer_objects ..)))

@[simp] theorem State.freeRequest_objects (i : Nat) (n : ReqNews) : (s.freeRequest i n).objects = s.objects := by
  have htell : (s.tellRequest (s.request i) n).objects = s.objects := fieldIte State.objects rfl rfl
  unfold State.freeRequest
  dsimp only
  rw [State.bumpWhere_objects]
  exact fieldIte State.objects ((State.logEvent_objects ..).trans htell) htell

@[simp] theorem State.endWaiting_objects (i : Nat) : (s.endWaiting i).objects = s.objects := by
  have hcut : (s.cutRequest i).objects = s.objects := (State.freeRequest_objects ..).trans (State.count_objects ..)
  exact fieldIte State.objects rfl (fieldIte State.objects hcut (fieldIte State.objects (State.freeRequest_objects ..) rfl))

@[simp] theorem State.waitedCommands_objects (i : Nat) : (s.waitedCommands i).objects = s.objects := by
  have hpause : (s.pauseNow i).objects = s.objects := by
    unfold State.pauseNow
    dsimp only
    split <;> simp
  have h : ∀ t : State, t.objects = s.objects → (match (t.request i).state with
      | .kerbing => t
      | .recalling => t
      | _ => t.endWaiting i).objects = s.objects := by
    intro t ht
    split
    · exact ht
    · exact ht
    · exact (State.endWaiting_objects t i).trans ht
  exact h _ (fieldIte State.objects hpause rfl)

@[simp] theorem State.dropCalendars_objects (p : Nat) : (s.dropCalendars p).objects = s.objects :=
  List.foldlRecOn (motive := fun t : State => t.objects = s.objects) _ _ rfl fun _ h _ _ => h

end Objects

/-! ## The report of a commit stays (R396) -/

theorem State.obj_setObj_ne {s : State} {i u j w : Nat} {v : List Byte} (h : objKey i u ≠ objKey j w) : (s.setObj j w v).obj i u = s.obj i u := by
  simp only [State.obj, State.setObj_objects, Table.find?_put_ne h]

section Reports
variable (s : State) (p : Nat)

theorem State.foldl_objects {α : Type} {f : State → α → State} (hf : ∀ t a, (f t a).objects = t.objects) (l : List α) : (l.foldl f s).objects = s.objects :=
  List.foldlRecOn (motive := fun t : State => t.objects = s.objects) _ _ rfl fun t h a _ => (hf t a).trans h

@[simp] theorem State.restartPart_objects : (s.restartPart p).objects = s.objects := by
  unfold State.restartPart
  extract_lets x discarded bound released y idle waited
  have hdiscarded : discarded.objects = s.objects := State.foldl_objects _ (fun _ _ => State.discardTicket_objects ..) _
  have hreleased : released.objects = discarded.objects := State.foldl_objects _ (fun _ _ => fieldIte State.objects rfl (State.setRequest_objects ..)) _
  have hidle : idle.objects = released.objects := State.setPart_objects ..
  have hwaited : waited.objects = idle.objects := State.foldl_objects _ (fun _ _ => State.waitedCommands_objects ..) _
  have hdropped : ((waited.setPart p (waited.part p).dropUnloaded).dropCalendars p).objects = waited.objects :=
    (State.dropCalendars_objects ..).trans (State.setPart_objects ..)
  calc (State.measure _ p).objects = waited.objects := (State.setPart_objects ..).trans hdropped
    _ = s.objects := hwaited.trans (hidle.trans (hreleased.trans hdiscarded))

@[simp] theorem State.replayPart_objects : (s.replayPart p).objects = s.objects := by
  unfold State.replayPart
  extract_lets x again
  have hagain : ∀ t silent, (again t silent).objects = s.objects := fun _ _ => State.setPart_objects ..
  split
  · exact hagain ..
  · exact fieldIte State.objects (hagain ..) (State.setPart_objects ..)
  · exact State.setPart_objects ..

@[simp] theorem State.carryOut_objects : (s.carryOut p).objects = s.objects := by
  unfold State.carryOut
  refine fieldIte State.objects rfl ?_
  split
  · exact State.replayPart_objects ..
  · exact State.restartPart_objects ..
  · rfl

@[simp] theorem State.abandonBarriers_objects : (s.abandonBarriers p).objects = s.objects := by
  unfold State.abandonBarriers
  extract_lets left cleared
  have hleft : left.objects = s.objects := by
    unfold left
    split
    · exact State.setJob_objects ..
    · rfl
  exact (State.settle_objects ..).trans ((State.foldl_objects _ (fun _ _ => State.setBlock_objects ..) _).trans hleft)

/-- What service traffic reports goes to another object of a partition than the report of a commit. -/
theorem State.serviceRead_report (m a n q : Nat) : (s.serviceRead m a n).obj (0x4000 + q) 0x17 = s.obj (0x4000 + q) 0x17 := by
  have hfailed : ∀ (t : State) (x : Nat × Status × Check) (tenant : Nat),
      (t.serviceFailed (some m) tenant (32 * x.1) x.2.1 x.2.2).obj (0x4000 + q) 0x17 = t.obj (0x4000 + q) 0x17 := by
    intro t x tenant
    have hkey : objKey (0x4000 + q) 0x17 ≠ objKey (0x4000 + m) 0x11 := by unfold objKey; omega
    unfold State.serviceFailed
    dsimp only
    rw [State.obj_setObj_ne hkey]
    exact State.obj_of_objects (State.countLog_objects ..) _ _
  unfold State.serviceRead
  extract_lets t l mended failed u
  have hu : u.objects = s.objects := fieldIte State.objects (State.mended0_objects ..) ((State.serviceMove_objects ..).trans (State.mendedTier_objects ..))
  exact (List.foldlRecOn (motive := fun v : State => v.obj (0x4000 + q) 0x17 = u.obj (0x4000 + q) 0x17) _ _ rfl fun v h x _ => (hfailed v x t).trans h).trans
    (State.obj_of_objects hu _ _)

theorem State.startRestores_report (d : Word × Word) (q : Nat) : (s.startRestores d).obj (0x4000 + q) 0x17 = s.obj (0x4000 + q) 0x17 := by
  have hone : ∀ (t : State) (m a n : Nat) (l : List Packet) (h : Heading) (w : List Stored) (o o' : Option Nat),
      (((t.serviceRead m a n).sendPackets l none o).sendService h w o').obj (0x4000 + q) 0x17 = t.obj (0x4000 + q) 0x17 := fun t m a n l h w o o' =>
    (State.obj_of_objects ((State.sendService_objects ..).trans (State.sendPackets_objects ..)) _ _).trans (State.serviceRead_report ..)
  refine List.foldlRecOn (motive := fun t : State => t.obj (0x4000 + q) 0x17 = s.obj (0x4000 + q) 0x17) _ _ rfl fun t ht e _ => fieldIte (State.obj · _ _) ht ?_
  exact List.foldlRecOn (motive := fun t : State => t.obj (0x4000 + q) 0x17 = s.obj (0x4000 + q) 0x17) _ _ ht fun u hu m _ =>
    fieldIte (State.obj · _ _) ((hone ..).trans hu) hu

end Reports

/-! ## Notices and decisions (R380 to R385) -/

section Agreement
variable {s t u : State} {i j p : Nat} {pkt : Packet} {w v : Word} {d : Word × Word}

theorem execNoticeReceive_learns (htake : s.takeType 0x20 = some (i, pkt, t)) (hgood : pkt.goodWord 0 = some w)
    (hu : u = (if t.seenNotices.contains (nIdentity w) then t
      else (({ t with seenNotices := nIdentity w :: t.seenNotices } : State).flood (nJob w) 0x20 [w] i).count 0x9B00 0x02 1)) :
    execNoticeReceive s = .next (match u.openSlot (nJob w) with
      | none => u
      | some j => u.learn (u.jobPart j) j w true) := by
  have hfirst : (if (!t.seenNotices.contains (nIdentity w)) = true then
      (({ t with seenNotices := nIdentity w :: t.seenNotices } : State).flood (nJob w) 0x20 [w] i).count 0x9B00 0x02 1 else t) = u := by
    rw [hu]
    cases t.seenNotices.contains (nIdentity w) <;> rfl
  cases hopen : u.openSlot (nJob w) with
  | none => simp only [execNoticeReceive, htake, hgood, hfirst, hopen]
  | some j => simp only [execNoticeReceive, htake, hgood, hfirst, hopen]

theorem execDecideReceive_accepts (htake : s.takeType 0x21 = some (i, pkt, t)) (hw : pkt.goodWord 0 = some w) (hv : pkt.goodWord 1 = some v)
    (hu : u = (if t.seenNotices.contains (dcIdentity w) then t
      else (({ t with seenNotices := dcIdentity w :: t.seenNotices } : State).flood (dcJob w) 0x21 [w, v] i).count 0x9B00 0x02 1))
    (hopen : u.openSlot (dcJob w) = some j) (hround : ((u.part (u.jobPart j)).episode.accepted.map (fun d => dcRound d.1)).getD 0 ≤ dcRound w)
    (htrusts : (suspects (u.part (u.jobPart j)).episode.notices).contains (dcCoordinator w) = false) :
    execDecideReceive s = .next (((u.part (u.jobPart j)).episode.notices.filter (unaccounted (w, v))).foldl
      (fun (s : State) n => s.flood (s.jobTag j) 0x20 [BitVec.ofNat 256 (n.toNat - place 40 8 (field n 40 8) + place 40 8 (dcRound w))] 7)
      (u.setEpisode (u.jobPart j) { (u.part (u.jobPart j)).episode with
        accepted := some (w, v)
        acceptedAt := if (u.part (u.jobPart j)).episode.accepted.map (fun d => dcRound d.1) = some (dcRound w) then (u.part (u.jobPart j)).episode.acceptedAt else u.town
        since := some ((u.part (u.jobPart j)).episode.since.getD u.town) })) := by
  have hfirst : (if (!t.seenNotices.contains (dcIdentity w)) = true then
      (({ t with seenNotices := dcIdentity w :: t.seenNotices } : State).flood (dcJob w) 0x21 [w, v] i).count 0x9B00 0x02 1 else t) = u := by
    rw [hu]
    cases t.seenNotices.contains (dcIdentity w) <;> rfl
  simp only [execDecideReceive, htake, hw, hv, hfirst, hopen]
  cases hacc : (u.part (u.jobPart j)).episode.accepted with
  | none =>
    exact if_neg (by rw [htrusts]; exact Bool.false_ne_true)
  | some d =>
    rw [hacc] at hround
    have hnot : ¬dcRound w < dcRound d.1 := Nat.not_lt.2 hround
    have hsame : ((dcRound w == dcRound d.1) = true) ↔ some (dcRound d.1) = some (dcRound w) := by
      rw [beq_iff_eq, Option.some.injEq, eq_comm]
    refine (if_neg (by rw [htrusts]; simpa using hnot)).trans ?_
    simp only [Option.map_some, hsame]

theorem execCoordinatorDecide_decides {p : Fin 64} {t : Nat} (hlive : s.live = true) (hagrees : s.agrees p.val = some j)
    (hsince : (s.part p.val).episode.since = some t) (hdue : t + 1000 * Config.ticksPerUs ≤ s.town) (hnew : (s.part p.val).episode.decided = false)
    (hcoord : s.coordinates j (s.part p.val).episode.notices = true) :
    execCoordinatorDecide p s = .next (s.issueDecision p.val j (match (s.part p.val).episode.accepted with
      | some d => dcRound d.1 + 1
      | none => 0)) := by
  simp only [execCoordinatorDecide, hagrees, hsince]
  exact if_pos ⟨hlive, hdue, by simp [hnew], hcoord⟩

/-! ## Commits (R385, R396) -/

theorem execFaultCommit_agreed {p : Fin 64} (hlive : s.live = true) (hacc : (s.part p.val).episode.accepted = some d) (hagrees : s.agrees p.val = some j)
    (hdue : (s.part p.val).episode.acceptedAt + 500 * Config.ticksPerUs ≤ s.town) : execFaultCommit p s = .next (s.commit p.val d) := by
  simp only [execFaultCommit, hacc, hagrees]
  exact if_pos (by simp [hlive, hdue])

theorem execFaultCommit_alone {p : Fin 64} {f : Failure} (hlive : s.live = true) (hacc : (s.part p.val).episode.accepted = some d)
    (halone : s.agrees p.val = none) (hfail : (s.part p.val).failure = some f) (hclosed : f.closed = true) : execFaultCommit p s = .next (s.commit p.val d) := by
  simp only [execFaultCommit, hacc, halone, hfail]
  exact if_pos (by simp [hlive, hclosed])

theorem State.commit_report (s : State) (p : Nat) (d : Word × Word) : (s.commit p d).obj (0x4000 + p) 0x17 = natBytes 64 (faultReport s.town d) := by
  unfold State.commit
  extract_lets x report written replay st owner queued counted logged mine job unseen y decided abandoned restored
  have hlogged : logged.objects = written.objects :=
    (State.countLog_objects ..).trans ((State.count_objects ..).trans (State.count_objects ..))
  have habandoned : abandoned.objects = written.objects :=
    (State.abandonBarriers_objects ..).trans ((State.setPart_objects ..).trans hlogged)
  have hrestored : restored.obj (0x4000 + p) 0x17 = written.obj (0x4000 + p) 0x17 := by
    unfold restored
    split
    · exact (State.startRestores_report ..).trans (State.obj_of_objects habandoned _ _)
    · exact State.obj_of_objects habandoned _ _
  calc (restored.carryOut p).obj (0x4000 + p) 0x17 = restored.obj (0x4000 + p) 0x17 := State.obj_of_objects (State.carryOut_objects ..) _ _
    _ = natBytes 64 (faultReport s.town d) := hrestored.trans (State.obj_setObj ..)

end Agreement

/-! ## Spares (R393) -/

/-- A partition measured afresh is otherwise as before. -/
theorem State.measureIdle_part (s : State) (q r : Nat) : ∃ m, (s.measureIdle q).part r = { s.part r with measured := m } := by
  have hmeasure : ∃ m, (s.measure q).part r = { s.part r with measured := m } := by
    obtain rfl | hr := Decidable.em (r = q)
    · exact ⟨_, State.part_setPart ..⟩
    · exact ⟨(s.part r).measured, State.part_setPart_ne _ hr _⟩
  unfold State.measureIdle
  split
  · exact hmeasure
  · exact ⟨(s.part r).measured, rfl⟩

theorem State.measured_anew (s : State) (q r : Nat) :
    ∃ m, ((if (s.part q).stepState = .idle then (s.dropCalendars q).measureIdle q else s) : State).part r = { s.part r with measured := m } := by
  split
  · obtain ⟨m, hm⟩ := (s.dropCalendars q).measureIdle_part q r
    exact ⟨m, by rw [hm, State.part_of_parts (State.dropCalendars_parts ..)]⟩
  · exact ⟨(s.part r).measured, rfl⟩

theorem execSpareExchange_exchanges {p : Fin 64} {s : State} {sp : Nat} (hlive : s.live = true) (hex : (s.part p.val).exchange = true)
    (hfenced : (s.part p.val).stepState ≠ .fenced) (hruns : (s.part p.val).stepState ≠ .running) (hsp : sp = s.objNat (0x4000 + p.val) 0x0F) (hlt : sp < 64)
    (hne : sp ≠ p.val) :
    ∃ t, execSpareExchange p s = .next t ∧
      (t.part p.val).blockMap = (s.part sp).blockMap ∧ (t.part sp).blockMap = (s.part p.val).blockMap ∧
      (t.part p.val).plans = (s.part sp).plans ∧ (t.part sp).plans = (s.part p.val).plans ∧
      (t.part p.val).handles = (s.part sp).handles ∧ (t.part sp).handles = (s.part p.val).handles ∧
      (t.part p.val).exchange = false ∧ (t.part sp).takenOut = s.jobOf p.val := by
  subst hsp
  have hn : ¬((!s.live) = true ∨ (!(s.part p.val).exchange) = true ∨ (s.part p.val).stepState = .fenced ∨ (s.part p.val).stepState = .running
      ∨ 64 ≤ s.objNat (0x4000 + p.val) 0x0F) := by
    simp [hlive, hex, hfenced, hruns, hlt]
  unfold execSpareExchange
  extract_lets x sp y swap lone both moved channels named idle measured
  have hparts : named.parts = both.parts := by
    have hchannels : channels.parts = moved.parts :=
      List.foldlRecOn (motive := fun t : State => t.parts = moved.parts) _ _ rfl fun _ h _ _ => fieldIte State.parts h ((State.setObj_parts ..).trans h)
    exact (State.setObj_parts ..).trans ((State.setObj_parts ..).trans hchannels)
  have hmeasured : ∀ r, ∃ m, (measured.count 0x9B00 0x07 1).part r = { both.part r with measured := m } := by
    intro r
    obtain ⟨m1, h1⟩ := named.measured_anew sp r
    obtain ⟨m2, h2⟩ := (idle named sp).measured_anew p.val r
    refine ⟨m2, ((State.part_count ..).trans h2).trans ?_⟩
    change ({ (idle named sp).part r with measured := m2 } : Part) = _
    rw [show (idle named sp).part r = _ from h1, State.part_of_parts hparts]
  have hp : both.part p.val = _ := (State.part_setPart_ne _ hne.symm _).trans (State.part_setPart ..)
  have hs : both.part sp = _ := State.part_setPart ..
  have htaken : (both.part p.val).blockMap = (s.part sp).blockMap ∧ (both.part p.val).plans = (s.part sp).plans
      ∧ (both.part p.val).handles = (s.part sp).handles ∧ (both.part p.val).exchange = false := by
    rw [hp]
    exact ⟨rfl, rfl, rfl, rfl⟩
  have hgiven : (both.part sp).blockMap = (s.part p.val).blockMap ∧ (both.part sp).plans = (s.part p.val).plans
      ∧ (both.part sp).handles = (s.part p.val).handles ∧ (both.part sp).takenOut = s.jobOf p.val := by
    rw [hs]
    exact ⟨rfl, rfl, rfl, State.jobOf_same (State.setPart_objects ..) (State.setPart_jobs ..) _⟩
  obtain ⟨hb, hpl, hh, he⟩ := htaken
  obtain ⟨hb', hpl', hh', ht'⟩ := hgiven
  obtain ⟨_, hm⟩ := hmeasured p.val
  obtain ⟨_, hm'⟩ := hmeasured sp
  refine ⟨_, if_neg hn, ?_⟩
  exact ⟨(congrArg Part.blockMap hm).trans hb, (congrArg Part.blockMap hm').trans hb', (congrArg Part.plans hm).trans hpl,
    (congrArg Part.plans hm').trans hpl', (congrArg Part.handles hm).trans hh, (congrArg Part.handles hm').trans hh',
    (congrArg Part.exchange hm).trans he, (congrArg Part.takenOut hm').trans ht'⟩

/-- Settles O47: each event under its conditions; what follows the report in a commit leaves it (`commit_report`). -/
theorem faultAgreementRuns : Obligations.FaultAgreementRuns := by
  refine ⟨?_, ?_, ?_, ?_, ?_, ?_⟩
  · rintro s t u i pkt w ⟨htake, hgood⟩ hu
    exact execNoticeReceive_learns htake hgood hu
  · rintro p s j t ⟨hlive, hagrees, hsince⟩ ⟨hdue, hnew, hcoord⟩
    exact execCoordinatorDecide_decides hlive hagrees hsince hdue hnew hcoord
  · rintro s t u i j pkt w v ⟨htake, hw, hv⟩ hu hopen ⟨hround, htrusts⟩
    exact execDecideReceive_accepts htake hw hv hu hopen hround htrusts
  · rintro p s j d hlive ⟨hacc, hagrees, hdue⟩
    exact ⟨_, execFaultCommit_agreed hlive hacc hagrees hdue, rfl, State.commit_report ..⟩
  · rintro p s f d hlive ⟨hacc, halone, hfail, hclosed⟩
    exact ⟨_, execFaultCommit_alone hlive hacc halone hfail hclosed, rfl, State.commit_report ..⟩
  · rintro p s sp ⟨hlive, hex, hfenced, hruns⟩ ⟨hsp, hlt, hne⟩
    obtain ⟨t, ht, h1, h2, h3, h4, h5, h6, h7, h8⟩ := execSpareExchange_exchanges hlive hex hfenced hruns hsp hlt hne
    exact ⟨t, ht, h1, h2, h3, h4, h5, h6, h7, h8, exec_mem (c := .spareExchange p) rfl ht⟩

end Sys2Proof.Machine
end

section
/-! PROOFS. The mirror: checkpoints, seals and restores (O48). -/
namespace Sys2Proof.Machine

/-! ## Service traffic leaves the partitions as they are -/

section Parts
variable (s : State)

@[simp] theorem State.serviceMove_parts (tenant : Option Nat) (a n : Nat) : (s.serviceMove tenant a n).parts = s.parts := by
  have hunits : (s.serviceUnits a n).parts = s.parts := fieldIte State.parts rfl rfl
  cases tenant with
  | none => exact hunits
  | some t => exact fieldIte State.parts hunits ((State.setTenant_parts ..).trans hunits)

@[simp] theorem State.mendedTier_parts (l : List Nat) : (s.mendedTier l).parts = s.parts := by
  cases l with
  | nil => rfl
  | cons a l => exact fieldIte State.parts (State.count_parts ..) ((State.logEvent_parts ..).trans (State.count_parts ..))

@[simp] theorem State.serviceFailed_parts (p : Option Nat) (tenant dpa : Nat) (cause : Status) (syndrome : Check) :
    (s.serviceFailed p tenant dpa cause syndrome).parts = s.parts := by
  cases p with
  | none => exact State.countLog_parts ..
  | some p => exact (State.setObj_parts ..).trans (State.countLog_parts ..)

@[simp] theorem State.serviceRead_parts (p a n : Nat) : (s.serviceRead p a n).parts = s.parts := by
  unfold State.serviceRead
  extract_lets t l mended failed u
  have hu : u.parts = s.parts := fieldIte State.parts (State.mended0_parts ..) ((State.serviceMove_parts ..).trans (State.mendedTier_parts ..))
  exact (List.foldlRecOn (motive := fun v : State => v.parts = u.parts) _ _ rfl fun _ h _ _ => (State.serviceFailed_parts ..).trans h).trans hu

@[simp] theorem State.sendPackets_parts (l : List Packet) (op : Option (Nat × Nat)) (tenant : Option Nat) : (s.sendPackets l op tenant).parts = s.parts := by
  obtain ⟨-, -, hparts, -⟩ := State.sendPackets_jobs op tenant l s
  exact hparts

@[simp] theorem State.sendService_parts (h : Heading) (payload : List Stored) (tenant : Option Nat) : (s.sendService h payload tenant).parts = s.parts :=
  State.sendPackets_parts ..

@[simp] theorem State.putWords_parts (key a : Nat) (l : List Stored) : (s.putWords key a l).parts = s.parts :=
  List.foldlRecOn (motive := fun t : State => t.parts = s.parts) _ _ rfl fun _ h _ _ =>
    fieldIte State.parts ((State.writeWord_parts ..).trans h) ((State.writeWord_parts ..).trans h)

end Parts

/-! ## Checkpoints (R389) -/

section Sends
variable {p : Fin 64} {s v t : State} {q : Nat} {parts : List (Nat × Nat × List Stored)}

theorem execCheckpointSend_sends (hlive : s.live = true) (hdue : s.ckptDue p.val = true) (hq : q = ((s.part p.val).stepCount + 1) % 2)
    (hmoves : (s.ckptTiers p.val q).all (fun e => s.ownerMoves p.val (hAddr e 0)) = true) (hkey : s.ckptTiers p.val q = [] ∨ s.ownerKeyOk p.val = true)
    (hparts : parts = (s.ckptList p.val q).flatMap (fun h => let l := s.handleWords p.val h; (sliceWords l.length 0 l).map (fun e => (h, e))))
    (hv : v = s.setPart p.val { s.part p.val with ckptSent := true, ckptSince := s.town, ckptSealed := parts.isEmpty })
    (ht : t = (v.ckptList p.val q).foldl (fun (s : State) h => s.serviceRead p.val (hAddr (s.handle p.val h) 0) (hSize (s.handle p.val h))) v) :
    execCheckpointSend p s = .next (t.sendPackets (parts.zipIdx.map (fun ((h, off, l), i) =>
        ({ type := 0x22, dst := s.mirrorOf p.val, src := t.endpoint, hops := t.hopsTo t.wholeTorus (t.coordsOf (s.mirrorOf p.val)), handle := h, woffset := off,
           flags := 4 * q + (if i + 1 = parts.length then 2 else 0) } : Heading).packet l)) none (some (s.part p.val).owner)) := by
  subst ht hv hparts hq
  have hn : ¬((!s.live) = true ∨ (!s.ckptDue p.val) = true
      ∨ (!(s.ckptTiers p.val (((s.part p.val).stepCount + 1) % 2)).all (fun e => s.ownerMoves p.val (hAddr e 0))) = true) := by
    rw [hlive, hdue, hmoves]
    decide
  have hk : ¬((!(s.ckptTiers p.val (((s.part p.val).stepCount + 1) % 2)).isEmpty) = true ∧ (!s.ownerKeyOk p.val) = true) := by
    rintro ⟨hsome, hnone⟩
    rcases hkey with h | h
    · simp [h] at hsome
    · simp [h] at hnone
  exact (if_neg hn).trans (if_neg hk)

theorem execCheckpointSend_refuses (hlive : s.live = true) (hdue : s.ckptDue p.val = true) (hq : q = ((s.part p.val).stepCount + 1) % 2)
    (hmoves : (s.ckptTiers p.val q).all (fun e => s.ownerMoves p.val (hAddr e 0)) = true) (hsome : s.ckptTiers p.val q ≠ []) (hkey : s.ownerKeyOk p.val = false) :
    execCheckpointSend p s = .next (s.originate p.val 7 Status.rights.code 0xFF false) := by
  subst hq
  have hn : ¬((!s.live) = true ∨ (!s.ckptDue p.val) = true
      ∨ (!(s.ckptTiers p.val (((s.part p.val).stepCount + 1) % 2)).all (fun e => s.ownerMoves p.val (hAddr e 0))) = true) := by
    rw [hlive, hdue, hmoves]
    decide
  exact (if_neg hn).trans (if_pos ⟨by simp [hsome], by simp [hkey]⟩)

end Sends

/-! ## The mirror (R389, R390) -/

section Mirrors
variable {s t u : State} {i m q : Nat} {pkt : Packet} {l : List (Nat × Nat × Nat)} {x y : Part} {words : Nat}

/-- The mirror's partition as a checkpoint's packet finds it: a packet that opens a checkpoint clears the half of its parity. -/
def Part.openMirror (x : Part) (q : Nat) : Part :=
  if x.mirrorOpen then x else if q = 0 then { x with mirror0 := [], mirrorBad := false } else { x with mirror1 := [], mirrorBad := false }

/-- What a mirror has of a parity, and that list changed. -/
def Part.half (x : Part) (q : Nat) : List (Nat × Nat × Nat) := if q = 0 then x.mirror0 else x.mirror1
def Part.setHalf (x : Part) (q : Nat) (l : List (Nat × Nat × Nat)) : Part := if q = 0 then { x with mirror0 := l } else { x with mirror1 := l }

/-- The seal that answers the last packet of a checkpoint. -/
def State.seal (s : State) (pkt : Packet) (x : Part) (bad : Bool) : State :=
  s.sendService { type := 0x23, dst := pkt.src, src := 0 } (asPayload [BitVec.ofNat 256 (place 0 64 (x.stepCount + 1) ||| place 64 8 (boolBit bad))]) (some x.owner)

/-- A packet of a checkpoint, once it need not wait for slots or buckets: what fits is written, the rest marks the checkpoint bad. -/
theorem execCkptData_judges {fits : Bool} (htake : s.takeType 0x22 = some (i, pkt, t)) (hmirror : t.mirrorFor pkt.src = some m) (hq : q = pkt.flags / 4 % 2)
    (hx : x = (t.part m).openMirror q) (hl : l = x.half q) (hw : words = (l.map (fun e => e.2.2)).foldl (· + ·) 0)
    (hfits : (decide (words + pkt.payload.length ≤ (t.mirrorHalf m q).2) && !x.mirrorBad && t.ownerKeyOk m) = fits)
    (hgoes : fits = false ∨ t.ownerMoves m (t.mirrorHalf m q).1 = true)
    (hu : u = if fits then (t.putWords (t.objNat (0x4100 + x.owner) 0x05) ((t.mirrorHalf m q).1 + words) pkt.payload).serviceMove (some x.owner)
      ((t.mirrorHalf m q).1 + words) pkt.payload.length else t)
    (hy : y = ({ x with mirrorBad := !fits, mirrorOpen := !decide (pkt.flags / 2 % 2 = 1) } : Part).setHalf q
      (if fits then l ++ [(pkt.handle, pkt.woffset, pkt.payload.length)] else l)) :
    execCkptData s = .next (if pkt.flags / 2 % 2 = 1 then (u.setPart m y).seal pkt x (!fits) else u.setPart m y) := by
  have hwaits : ¬((fits && !t.ownerMoves m (t.mirrorHalf m q).1) = true) := by
    rcases hgoes with h | h
    · simp [h]
    · simp [h]
  subst hy hu hfits hw hl hx hq
  simp only [execCkptData, htake, hmirror]
  exact if_neg hwaits

/-- The mirror's partition after a packet that fits, or one that does not, in the words of the obligation. -/
theorem Part.setHalf_good (x : Part) (q : Nat) (l : List (Nat × Nat × Nat)) (o : Bool) (hgood : x.mirrorBad = false) :
    ({ x with mirrorBad := false, mirrorOpen := o } : Part).setHalf q l =
      if q = 0 then { x with mirror0 := l, mirrorOpen := o } else { x with mirror1 := l, mirrorOpen := o } := by
  rw [← hgood]
  rfl

theorem Part.setHalf_half (x : Part) (q : Nat) : x.setHalf q (x.half q) = x := by
  unfold Part.setHalf Part.half
  split
  · rfl
  · rfl

end Mirrors

/-! ## Seals and restores (R390, R393, R397) -/

section Restores
variable {s t : State} {i p a : Nat} {pkt : Packet} {w : Word}

theorem execCkptSeal_counts (htake : s.takeType 0x23 = some (i, pkt, t)) (hwaits : t.waitsOn pkt.src (fun x => x.ckptSent && !x.ckptSealed) = some p)
    (hgood : pkt.goodWord 0 = some w) (haccepts : field w 64 8 = 0) :
    execCkptSeal s = .next ((t.setPart p { t.part p with ckptSealed := true }).count (0x9100 + p) 0x13 ((t.town - (t.part p).ckptSince) / Config.ticksPerUs)) := by
  simp only [execCkptSeal, htake, hwaits, hgood]
  exact if_pos haccepts

theorem execCkptSeal_originates (htake : s.takeType 0x23 = some (i, pkt, t)) (hwaits : t.waitsOn pkt.src (fun x => x.ckptSent && !x.ckptSealed) = some p)
    (hgood : pkt.goodWord 0 = some w) (hrefuses : field w 64 8 ≠ 0) : execCkptSeal s = .next (t.originate p 7 Status.fault.code 0xFF false) := by
  simp only [execCkptSeal, htake, hwaits, hgood]
  exact if_neg hrefuses

theorem execRestoreData_writes (htake : s.takeType 0x24 = some (i, pkt, t)) (hwaits : t.waitsOn pkt.src (fun x => x.restoring && !x.exchange) = some p)
    (hkind : hKind (t.handle p pkt.handle) ≠ 0) (hsize : pkt.woffset + pkt.payload.length ≤ hSize (t.handle p pkt.handle))
    (ha : a = hAddr (t.handle p pkt.handle) pkt.woffset) (hkey : hKind (t.handle p pkt.handle) = 2 → t.ownerKeyOk p = true) (hmoves : t.ownerMoves p a = true) :
    execRestoreData s = .next (
      let u := t.putWords (t.objNat (0x4100 + (t.part p).owner) 0x05) a pkt.payload
      if hKind (t.handle p pkt.handle) = 2 then u.serviceMove (some (t.part p).owner) a pkt.payload.length else u) := by
  subst ha
  have hn : ¬(hKind (t.handle p pkt.handle) = 0 ∨ hSize (t.handle p pkt.handle) < pkt.woffset + pkt.payload.length
      ∨ (hKind (t.handle p pkt.handle) = 2 ∧ (!t.ownerKeyOk p) = true)) := by
    rintro (h | h | ⟨h, h'⟩)
    · exact hkind h
    · exact Nat.not_lt.2 hsize h
    · simp [hkey h] at h'
  simp only [execRestoreData, htake, hwaits]
  exact (if_neg hn).trans ((if_neg (by simp [hmoves])).trans (by rw [State.part_of_parts (State.putWords_parts ..)]))

theorem execRestoreDone_ends (htake : s.takeType 0x25 = some (i, pkt, t)) (hwaits : t.waitsOn pkt.src (fun x => x.restoring && !x.exchange) = some p) :
    execRestoreDone s = .next (t.setPart p { t.part p with restoring := false }) := by
  simp only [execRestoreDone, htake, hwaits]

end Restores

/-- Settles O48: each packet under its conditions; what a mirror takes is judged once (`execCkptData_judges`). -/
theorem mirrorRuns : Obligations.MirrorRuns := by
  refine ⟨?_, ?_, ?_, ?_, ?_, ?_, ?_, ?_⟩
  · rintro p s v t q parts ⟨hlive, hdue, hq⟩ ⟨hmoves, hkey⟩ hparts hv ht
    have hsame : t.parts = v.parts := ht ▸ List.foldlRecOn (motive := fun u : State => u.parts = v.parts) _ _ rfl fun _ h _ _ =>
      (State.serviceRead_parts ..).trans h
    refine ⟨_, execCheckpointSend_sends hlive hdue hq hmoves hkey hparts hv ht, ?_, ?_, ?_, rfl⟩
    all_goals rw [State.part_of_parts ((State.sendPackets_parts ..).trans hsame), hv, State.part_setPart]
  · rintro p s q ⟨hlive, hdue, hq⟩ hmoves ⟨hsome, hkey⟩
    exact execCheckpointSend_refuses hlive hdue hq hmoves hsome hkey
  · rintro s t u i m q pkt l x y words ⟨htake, hmirror, hq⟩ hx ⟨hl, hw⟩ ⟨hfit, hgood, hkey, hmoves⟩ hu hy
    have hexec := execCkptData_judges (fits := true) htake hmirror hq hx hl hw (by simp [hfit, hgood, hkey]) (.inr hmoves) hu
      (y := y) (by rw [hy]; exact ((Part.setHalf_good x q _ _ hgood).trans (by simp only [decide_not, if_true])).symm)
    refine ⟨_, hexec, ?_, rfl⟩
    split
    · exact (State.part_of_parts (State.sendService_parts ..) _).trans (State.part_setPart ..)
    · exact State.part_setPart ..
  · rintro s t i m q pkt l x ⟨htake, hmirror, hq, hlast⟩ hx hl hbad
    have hfits : (decide ((l.map (fun e => e.2.2)).foldl (· + ·) 0 + pkt.payload.length ≤ (t.mirrorHalf m q).2) && !x.mirrorBad && t.ownerKeyOk m) = false := by
      rcases hbad with h | h | h
      · simp [Nat.not_le.2 h]
      · simp [h]
      · simp [h]
    have hexec := execCkptData_judges htake hmirror hq hx hl rfl hfits (.inl rfl) rfl rfl
    refine hexec.trans ((congrArg Host.Outcome.next (if_pos hlast)).trans ?_)
    rw [hl, show (if q = 0 then x.mirror0 else x.mirror1) = ({ x with mirrorBad := true, mirrorOpen := false } : Part).half q from rfl]
    simp only [hlast, decide_true, Bool.not_true, Bool.not_false, Bool.false_eq_true, if_false, Part.setHalf_half]
    rfl
  · rintro s t i p pkt w ⟨htake, hwaits⟩ ⟨hgood, haccepts⟩
    exact execCkptSeal_counts htake hwaits hgood haccepts
  · rintro s t i p pkt w ⟨htake, hwaits⟩ ⟨hgood, hrefuses⟩
    exact execCkptSeal_originates htake hwaits hgood hrefuses
  · rintro s t i p a pkt ⟨htake, hwaits⟩ ⟨hkind, hsize, ha⟩ ⟨hkey, hmoves⟩
    exact execRestoreData_writes htake hwaits hkind hsize ha hkey hmoves
  · rintro s t i p pkt ⟨htake, hwaits⟩
    exact execRestoreDone_ends htake hwaits

end Sys2Proof.Machine
end

section
/-! PROOFS. Reads, writes and chunks of the dictionary (O50). -/
namespace Sys2Proof.Machine

/-! ## The acts of an object without a row of its own (R431, R432) -/

section Acts
variable {s : State} {a : Ask}

theorem actAny_reads (hreads : a.reads = true) (hown : ownRow 1 a.index a.sub = false) : actAny s a = actRead s a := by
  have hrows : ¬(a.index = 0xA000 ∧ a.sub = 0x04) ∧ ¬(a.index = 0x3230 ∧ a.sub = 0x01) := by
    simpa [ownRow] using hown
  simp only [actAny, hreads, if_true, if_neg hrows.1, if_neg hrows.2]

theorem actRead_ok {v : List Byte} (hv : s.readValue a = .ok v) : actRead s a = .ok { s := s, body := v } := by
  simp only [actRead, hv]

theorem actAny_writes {p : Nat} {e : ObjEntry} (hreads : a.reads = false) (hrow : rowAct a.index a.sub = none) (hopen : ¬(a.index = 0xC020 ∧ a.sub = 0x02))
    (hcause : s.writeCause a = none) (hobj : objectAt a.index a.sub = some e) (hpart : partObject a.index = some p) :
    actAny s a = .ok { s := if e.access = .rwb then s.putWait p a.index a.sub a.value else s.writeNow a } := by
  simp only [actAny, hreads, hrow, Bool.false_eq_true, if_false, actPlain, if_neg hopen, hcause, hobj, hpart]
  by_cases hwaits : e.access = .rwb
  · simp only [hwaits, beq_self_eq_true, if_true]
  · simp only [beq_eq_false_iff_ne.2 hwaits, if_neg hwaits]

theorem actThermalStatus_ok {v : List Byte} (hv : s.readValue a = .ok v) : actThermalStatus s a = .ok {
    s := if s.power.alert then ({ s with power := { s.power with alert := false } } : State).emit (.land "ALERT_N" true) else s, body := v } := by
  simp only [actThermalStatus, actRead_ok hv]

theorem actLogWindow_ok {x : Session} {from_ : Nat} {recs : List Word} (hx : s.cdp.sessions.find? a.sid = some x) (hmore : x.logSelect ≠ s.log.next % 2 ^ 32)
    (hknown : precedes 32 s.log.next x.logSelect = false)
    (hfrom : from_ = (if precedes 32 x.logSelect s.log.first then s.log.first else s.log.next - (s.log.next + 2 ^ 32 - x.logSelect) % 2 ^ 32))
    (hrecs : recs = ((List.range 14).map (fun i => from_ + i)).filterMap (fun i => s.log.records.find? i)) :
    actLogWindow s a = .ok { s := s.setSession a.sid { x with logSelect := (from_ + recs.length) % 2 ^ 32 }, body := recs.flatMap wordBytes } := by
  subst hrecs hfrom
  simp only [actLogWindow, hx, if_neg hmore, hknown, Bool.false_eq_true, if_false]

theorem actSlotChunk_ok {c : CardImage} {k : Nat} {had all : List Byte} (hk : k = a.sub - 0x10) (hcard : s.card = some c) (hactive : c.active.val ≠ k)
    (hhad : had = (if a.offset = 0 then [] else (cardSlot c k).writing)) (hall : all = had ++ a.value) (hoff : a.offset = had.length) (hlen : all.length ≤ 50331648) :
    actSlotChunk s a = .ok { s := s.writeCard (setCardSlot c k (if a.last
      then { state := .unchecked, image := some (imageOf all), writing := [], digest := (cardSlot c k).digest }
      else { state := .unchecked, image := none, writing := all, digest := (cardSlot c k).digest })) "slot" } := by
  have hactive' : (c.active.val != k) = true := bne_iff_ne.2 hactive
  have hoff' : (a.offset == had.length) = true := beq_iff_eq.2 hoff
  subst hk
  simp only [actSlotChunk, hcard, ← hhad, ← hall, needs, hoff', hactive', decide_eq_true hlen, if_true]

end Acts

/-! ## Chunks (R433) -/

section Chunks
variable {T : State} {l : List Byte} {a : Ask} {had : List Byte} {act : State → Ask → Except Nat Done}

/-- A chunk in order, not the last, is staged behind what the same object has staged. -/
theorem State.takeChunk_stages (hsame : (T.stagingOf a.src a.sid).all (fun g => g.key == objKey a.index a.sub) = true)
    (hhad : had = ((T.stagingOf a.src a.sid).map Staging.bytes).getD []) (hroom : (T.stagingOf a.src a.sid).isSome = true ∨ T.stagings < 4)
    (hcause : T.objectCause a a.value.length false = none) (hoff : a.offset = had.length) (hlen : (had ++ a.value).length ≤ 262144) (hmore : a.last = false) :
    T.takeChunk l a act = (T.setStaging a.src a.sid (some { key := objKey a.index a.sub, bytes := had ++ a.value, at_ := T.town })).replyTo a.src l cdpOk
      { (T.setStaging a.src a.sid (some { key := objKey a.index a.sub, bytes := had ++ a.value, at_ := T.town })).answerAbout a.index a.sub with offset := a.offset } true := by
  have hfree : ¬(((T.stagingOf a.src a.sid).isNone && decide (4 ≤ T.stagings)) = true) := by
    rcases hroom with h | h
    · simp [Option.isNone_iff_eq_none, Option.isSome_iff_ne_none.1 h]
    · simp [h]
  have hsame' : ∀ g, T.stagingOf a.src a.sid = some g → g.key = objKey a.index a.sub := fun g hg => by simpa [hg] using hsame
  subst hhad
  unfold State.takeChunk
  cases hg : T.stagingOf a.src a.sid with
  | none =>
    rw [hg] at hfree hoff hlen
    simp only [hg]
    rw [if_neg hfree, hcause, hmore]
    exact (if_neg (Decidable.not_not.2 hoff)).trans (if_neg (Nat.not_lt.2 hlen))
  | some g =>
    have hkey := hsame' g hg
    rw [hg] at hfree hoff hlen
    simp only [hg, hkey, if_true]
    rw [if_neg hfree, hcause, hmore]
    exact (if_neg (Decidable.not_not.2 hoff)).trans (if_neg (Nat.not_lt.2 hlen))

end Chunks

/-! ## Frames (R428, R439) -/

/-- A frame that brings a request to an empty queue is executed as the request at its head. -/
theorem execWrite_frame {s t : State} {mac : BitVec 48} {bytes : List Byte} (hruns : s.cdpRuns = true) (hqueue : s.cdp.queue = [])
    (ht : t = s.arrive (.frame mac.toNat) bytes) (harrived : t.arrived = []) (hruns' : t.cdpRuns = true) :
    execWrite (.frame mac bytes) s = execWrite .head t := by
  unfold execWrite State.cdpRow
  simp only [hruns, hruns', hqueue, harrived, ← ht, Bool.not_true, Bool.false_eq_true, if_false, List.isEmpty_nil, if_true, List.length_nil, State.pullRequests]

/-! ## Waking (R504) -/

theorem execWake_wakes {w : WakeTrigger} {s : State} (hdue : s.wakeDue w = true) : execWake w s = .next s.wakeUp := by
  cases w with
  | command via => exact absurd hdue Bool.false_ne_true
  | hostDescriptor => exact if_pos hdue
  | packet => exact if_pos hdue
  | expiry => exact if_pos hdue
  | activate => exact if_pos hdue

theorem State.wakeUp_mode {s : State} (hparked : s.mode = .parked) : s.wakeUp.mode = .running := by
  simp [State.wakeUp, hparked, State.logPower]

/-- Settles O50: each request runs its act (`Commanded.runs`, `Commanded.reads`, `Completed.runs`), which succeeds under the conditions of its rule; a chunk in
order is staged (`takeChunk_stages`). -/
theorem dictionaryRequestsRun : Obligations.DictionaryRequestsRun := by
  refine ⟨?_, ?_, ?_, ?_, ?_, ?_, ?_, ?_, ?_, ?_, ?_⟩
  · rintro s T src l rest a i u d ⟨hw, rfl, rfl⟩ hown hact
    have hmine : (cMsg l != 5 && !ownRow (cMsg l) i u) = true := by
      rcases hw.2 with hm | hm
      · simp [hm, hm ▸ hown]
      · simp [hm, hm ▸ hown]
    exact congrArg Host.Outcome.next (Commanded.runs (mine := fun m i u => m != 5 && !ownRow m i u) hw hmine hact)
  · rintro T a p e ⟨hreads, hrow, hopen⟩ ⟨hcause, hobj, hpart⟩
    exact actAny_writes hreads hrow hopen hcause hobj hpart
  · rintro s T src l rest a i u v h hown ⟨hv, hlen⟩
    obtain ⟨⟨-, -, -, -, -, hi, hu, -⟩, hmsg, -, ha⟩ := id h
    have hreads : a.reads = true := by
      have hm : a.msg = 1 := by rw [ha]; exact hmsg
      simp [Ask.reads, hm]
    have hobj : ownRow 1 a.index a.sub = false := by rw [ha, ← hown, ← hi, ← hu]; rfl
    exact congrArg Host.Outcome.next (Commanded.reads (mine := fun m i u => m != 5 && !ownRow m i u) h (by simp [hown]) ⟨hv, hlen⟩
      ((actAny_reads hreads hobj).trans (actRead_ok hv)))
  · rintro s t mac bytes ⟨hruns, hqueue, -⟩ ⟨ht, harrived, hruns'⟩
    exact execWrite_frame hruns hqueue ht harrived hruns'
  · rintro s T src l rest a had ⟨hruns, harrived, hqueue, hsession⟩ ⟨hmsg, himg, hT, ha⟩ ⟨hsame, hhad⟩ hroom hcause ⟨hoff, hlen, hmore⟩
    exact ⟨_, rfl, congrArg Host.Outcome.next ((State.cdpRow_chunk (mine := fun m i u => m == 5 && !slotImage i u) ⟨hruns, harrived, hqueue, hsession⟩
      ⟨hmsg, himg, hT, ha⟩ (by simp [himg])).trans (State.takeChunk_stages hsame hhad hroom hcause hoff hlen hmore))⟩
  · rintro s T src l rest a i u d h hact
    obtain ⟨-, -, -, -, ⟨-, -, -, himg, -⟩, -⟩ := id h
    exact congrArg Host.Outcome.next (Completed.runs (mine := fun m i u => m == 5 && !slotImage i u) h (by simp [himg]) hact)
  · rintro s T src l rest a v h ⟨hv, hlen⟩
    exact congrArg Host.Outcome.next (Commanded.reads (mine := fun m i u => (m == 1 || m == 4) && i == 0x3230 && u == 0x01) h rfl ⟨hv, hlen⟩ (actThermalStatus_ok hv))
  · rintro s T src l rest a v x from_ recs h ⟨hv, hlen⟩ ⟨hx, hmore, hknown⟩ hfrom hrecs
    exact congrArg Host.Outcome.next (Commanded.reads (mine := fun m i u => m == 1 && i == 0xA000 && u == 0x04) h rfl ⟨hv, hlen⟩
      (actLogWindow_ok hx hmore hknown hfrom hrecs))
  · rintro s T src l rest a i u k c had all h ⟨himg, hmsg, hk⟩ ⟨hcard, hactive⟩ ⟨hhad, hall, hoff, hlen⟩
    obtain ⟨hi, hu⟩ := row_object h
    obtain ⟨hw, rfl, rfl⟩ := h
    exact congrArg Host.Outcome.next (Commanded.runs (mine := fun m i u => (m == 2 || m == 5) && slotImage i u) hw (by simp [hmsg, himg])
      (actSlotChunk_ok (hu ▸ hk) hcard hactive hhad hall hoff hlen))
  · intro s T src l rest a h
    exact congrArg Host.Outcome.next (row_runs h (by decide) rfl)
  · rintro w s ⟨hdue, hparked⟩
    exact ⟨_, execWake_wakes hdue, rfl, State.wakeUp_mode hparked⟩

end Sys2Proof.Machine
end

section
/-! PROOFS. Mailboxes, NOTIFYs, timeouts, quotes and buckets (O51). -/
namespace Sys2Proof.Machine

/-! ## The mailbox (R427) -/

section Mailbox
variable {f : FnId} {value : BitVec 64} {s : State}

theorem execMbDoorbell_submits (hruns : s.cdpRuns = true) (hfree : (s.fn f).reqBusy = false) :
    execMbDoorbell f value s = .next ((s.setFn f { s.fn f with reqBusy := true }).arrive (.mailbox f)
      ((List.range (field value 0 10)).map (fun i => (s.fn f).req.get 0 i))) :=
  (if_neg (by simp [hruns])).trans (if_neg (by simp [hfree]))

theorem execMbDoorbell_overruns (hruns : s.cdpRuns = true) (hbusy : (s.fn f).reqBusy = true) :
    execMbDoorbell f value s = .next (s.setFn f { s.fn f with mbOverrun := true }) :=
  (if_neg (by simp [hruns])).trans (if_pos hbusy)

/-- What MB_ACK leaves of a function's mailbox. -/
def Fn.acked (x : Fn) (value : BitVec 64) : Fn := { x with
  reqBusy := x.reqBusy && !bitAt value 0, respReady := x.respReady && !bitAt value 0
  notes := if bitAt value 1 then x.notes.tail else x.notes
  noteLost := x.noteLost && !bitAt value 3, mbOverrun := x.mbOverrun && !bitAt value 4 }

theorem execMbAck_clears (hruns : s.cdpRuns = true) :
    execMbAck f value s = .next (if bitAt value 1 ∧ 2 ≤ (s.fn f).notes.length then (s.setFn f ((s.fn f).acked value)).emit (.msix f 1)
      else s.setFn f ((s.fn f).acked value)) := by
  refine (if_neg (by simp [hruns])).trans ?_
  generalize s.fn f = x
  cases h0 : bitAt value 0 <;> cases h1 : bitAt value 1 <;> simp [Fn.acked, h0, h1]

end Mailbox

/-! ## Timeouts (R433, R438) -/

section Timeouts
variable {sid : Fin 65536} {s : State} {x : Session}

theorem execSessionIdleTimeout_closes (hruns : s.cdpRuns = true) (hx : s.cdp.sessions.find? sid.val = some x)
    (hdue : x.lastAt + 300 * Config.ticksPerSecond ≤ s.town) : execSessionIdleTimeout sid s = .next (s.closeSession sid.val true) := by
  simp only [execSessionIdleTimeout, hx]
  rw [if_pos ⟨hruns, hdue⟩]

theorem execStagingTimeout_discards {g : Staging} (hruns : s.cdpRuns = true) (hsid : sid.val ≠ 0) (hx : s.cdp.sessions.find? sid.val = some x)
    (hg : x.staging = some g) (hold : g.at_ + 10 * Config.ticksPerSecond ≤ s.town) :
    execStagingTimeout sid s = .next (s.setSession sid.val { x with staging := none }) := by
  simp only [execStagingTimeout, hruns, hx, hg, if_neg hsid]
  rw [if_pos (show g.old s.town = true from decide_eq_true hold)]
  rfl

theorem execStagingTimeout_sources (hruns : s.cdpRuns = true) :
    execStagingTimeout 0 s = .next { s with cdp := { s.cdp with
      stage0 := s.cdp.stage0.filter (fun e => decide (s.town < e.2.at_ + 10 * Config.ticksPerSecond)) } } := by
  have hfresh : (fun e : Source × Staging => !e.2.old s.town) = fun e => decide (s.town < e.2.at_ + 10 * Config.ticksPerSecond) := by
    funext e
    simp only [Staging.old, ← decide_not, Nat.not_le]
  rw [← hfresh]
  exact (if_neg (by simp [hruns])).trans (if_pos rfl)

end Timeouts

/-! ## NOTIFYs and relays (R441, R442) -/

section Notes
variable {s t : State}

theorem execNotify_sends {e : Note} {l : List Note} {x : Session} (hruns : s.cdpRuns = true) (hnotes : s.cdp.notes = e :: l)
    (hx : s.cdp.sessions.find? e.session = some x) :
    execNotify false s = .next ((({ s with cdp := { s.cdp with notes := l } } : State).setSession e.session { x with outCount := (x.outCount + 1) % 2 ^ 32 }).deliverNote x.source
      (noteMessage e.session ((x.outCount + 1) % 2 ^ 32) e.kind e.status e.tid x.key e.body)) := by
  refine (if_neg (by simp [hruns])).trans ((if_pos rfl).trans ?_)
  simp only [State.sendNote, hnotes, hx]

theorem execNotify_drops {e : Nat × Packet} (hruns : s.cdpRuns = true) (he : s.linkPacket = some e) (hbad : s.isStamp e = false) :
    execNotify true s = .next (({ s with arrived := s.arrived.erase e } : State).count 0x9D00 0x03 1) := by
  refine (if_neg (by simp [hruns])).trans ((if_neg (by simp)).trans ?_)
  simp only [he]
  rw [hbad]
  rfl

theorem execRelayReply_ends {n : Nat} {p : Packet} {o : Outstanding} {m : List Byte} (hruns : s.cdpRuns = true)
    (htake : s.takeArrived (fun p => p.type == 0x2D) = some (n, p, t)) (ho : t.outstanding.find? p.rtag = some o) (hepoch : o.epoch = p.origEpoch)
    (hm : p.message = some m) (hform : cLengthOk m = true) (hlen : m.length ≤ 448) :
    execRelayReply s = .next { t with
      outstanding := t.outstanding.del p.rtag
      cdp := { t.cdp with notes := t.cdp.notes ++ [{ session := o.session, kind := 3, body := m, status := 0, tid := o.tid }] } } := by
  have hmatch : (t.outstanding.find? p.rtag).filter (fun o => o.epoch == p.origEpoch) = some o := by
    rw [ho, Option.filter_some, if_pos (beq_iff_eq.2 hepoch)]
  have hfits : (cLengthOk m && decide (m.length ≤ 448)) = true := by simp [hform, hlen]
  refine (if_neg (by simp [hruns])).trans ?_
  simp only [htake, hmatch, hm, Option.getD_some, hfits, if_true]

end Notes

/-! ## Quotes, buckets and jobs (R285, R289, R346) -/

theorem execQuoteFormed_forms {p : Fin 64} {s : State} {nonce : List Byte} (hruns : s.cdpRuns = true) (hnonce : (s.part p.val).nonce = some nonce) :
    execQuoteFormed p s = .next ((s.setPart p.val { s.part p.val with nonce := none, quote := s.quoteOf p.val nonce }).logEvent
      { cls := 12, code := 5, part := p.val, tenant := some (s.part p.val).owner }) := by
  simp only [execQuoteFormed, hnonce]
  exact if_neg (by simp [hruns])

theorem execBucketRefill_refills {s : State} {us n : Nat} (hruns : s.cdpRuns = true) (hus : us = s.town / Config.ticksPerUs) (hnew : s.refilled < us)
    (hn : n = us - s.refilled) :
    execBucketRefill s = .next { s.tenants.foldl (fun (s : State) (e : Nat × Tenant) => if e.2.state = 0 then s else
      (List.range 4).foldl (fun s k => s.refill n e.1 k) s) s with refilled := us } := by
  subst hn hus
  exact if_neg (not_or.2 ⟨by simp [hruns], Nat.not_le.2 hnew⟩)

theorem execCloseExpiry_closes {j : Fin 64} {s : State} (hlive : s.live = true) (hstate : (s.job j.val).state = 2)
    (hdue : (s.job j.val).closedAt + 250 * Config.ticksPerMs ≤ s.town) :
    execCloseExpiry j s = .next ((s.setJob j.val { s.job j.val with state := 0 }).jobEvent j.val 0x02) :=
  if_pos ⟨hlive, hstate, hdue⟩

/-- Settles O51: each event under its conditions. -/
theorem sessionEventsRun : Obligations.SessionEventsRun := by
  refine ⟨?_, ?_, ?_, ?_, ?_, fun _ hruns => execStagingTimeout_sources hruns, ?_, ?_, ?_, ?_, ?_, ?_⟩
  · rintro f value s ⟨hruns, hfree⟩
    exact execMbDoorbell_submits hruns hfree
  · rintro f value s ⟨hruns, hbusy⟩
    exact execMbDoorbell_overruns hruns hbusy
  · rintro f value s x hruns rfl
    exact execMbAck_clears hruns
  · rintro sid s x hruns ⟨hx, hdue⟩
    exact execSessionIdleTimeout_closes hruns hx hdue
  · rintro sid s x g ⟨hruns, hsid⟩ ⟨hx, hg, hold⟩
    exact execStagingTimeout_discards hruns hsid hx hg hold
  · rintro s e l x hruns ⟨hnotes, hx⟩
    exact execNotify_sends hruns hnotes hx
  · rintro s e hruns ⟨he, hbad⟩
    exact execNotify_drops hruns he hbad
  · rintro s t n p o m hruns ⟨htake, ho, hepoch⟩ ⟨hm, hform, hlen⟩
    exact execRelayReply_ends hruns htake ho hepoch hm hform hlen
  · intro p s nonce hruns hnonce
    exact execQuoteFormed_forms hruns hnonce
  · rintro s us n hruns ⟨hus, hnew⟩ hn
    exact execBucketRefill_refills hruns hus hnew hn
  · rintro j s hlive ⟨hstate, hdue⟩
    exact execCloseExpiry_closes hlive hstate hdue

end Sys2Proof.Machine
end

section
/-! PROOFS. The host ports (O53). -/
namespace Sys2Proof.Machine

/-! ## Resets of functions (R400) -/

section Functions
variable (s : State)

@[simp] theorem State.closeSession_fns (i : Nat) (tell : Bool) : (s.closeSession i tell).fns = s.fns := by
  unfold State.closeSession
  split
  · rfl
  · exact fieldIte State.fns (State.logEvent_fns ..) (State.logEvent_fns ..)

@[simp] theorem State.closeSessions_fns (f : Session → Bool) (tell : Bool) : (s.closeSessions f tell).fns = s.fns :=
  List.foldlRecOn (motive := fun t : State => t.fns = s.fns) _ _ rfl fun _ ht _ _ => fieldIte State.fns ((State.closeSession_fns ..).trans ht) ht

/-- A function after its reset: its intake ring is disabled, and what was not fetched is passed over. -/
theorem State.resetFn_fn (f : FnId) : (s.resetFn f).fn f = {
    intakeBase := (s.fn f).intakeBase, intakeCfg := (s.fn f).intakeCfg, tail := (s.fn f).tail, head := (s.fn f).tail, complBase := (s.fn f).complBase
    complCfg := (s.fn f).complCfg, complHead := (s.fn f).complHead, written := (s.fn f).written, current := (s.fn f).current, moved := (s.fn f).moved
    dropNext := (s.fn f).dropNext || (s.fn f).current.isSome } := by
  have hfns : ∀ t : State, (t.closeSources (Source.isFn f)).fns = t.fns := fun t => State.closeSessions_fns ..
  simp only [State.resetFn, State.fn, hfns]
  exact Table.get_put_self ..

theorem State.resetFn_queue (f : FnId) : (s.resetFn f).cdp.queue.all (fun e => !e.1.isFn f) = true :=
  List.all_eq_true.2 fun _ he => (List.mem_filter.1 he).2

end Functions

theorem execPerstN_resets {h : Fin 2} {s t : State} (hruns : s.cdpRuns = true) (ht : t = (fnsOf h).foldl State.resetFn s) :
    execPerstN h s = .next (({ t with pcie := t.pcie.put h.val {} }.failBehind 3 h.val).bumps [(0x8000 + h.val, 0x01), (0x8000 + h.val, 0x02), (0x8000 + h.val, 0x03)]) := by
  subst ht
  exact if_neg (by simp [hruns])

/-! ## Registers (R402) -/

section Registers
variable {f : FnId} {a : Access} {s : State}

/-- A misused access is judged without its value. -/
theorem State.misuse_narrow (f : FnId) (a : Access) (s : State) : s.misuse f (Access.narrow a) = s.misuse f a := by
  obtain ⟨offset, width, value⟩ := a
  cases value with
  | none => rfl
  | some v => rfl

theorem execBarMisuse_counts (hruns : s.cdpRuns = true) (harea : inArea a.offset.toNat = false) (hmsix : ¬(0x3000 ≤ a.offset.toNat ∧ a.offset.toNat < 0x4000))
    (hbad : (a.width ≠ 8 ∨ a.offset.toNat % 8 ≠ 0) ∨ (a.value = none ∧ s.readReg f a.offset.toNat = none)
      ∨ (∃ v, a.value = some v ∧ s.writeReg f a.offset.toNat v.toNat = none)) :
    execBarMisuse f a s = .next (s.misuse f a) := by
  rw [← State.misuse_narrow]
  refine (if_neg (by simp [hruns])).trans ((if_neg (by rw [show (Access.narrow a).offset = a.offset from rfl, harea]; exact Bool.false_ne_true)).trans ((if_neg hmsix).trans ?_))
  by_cases hform : a.width ≠ 8 ∨ a.offset.toNat % 8 ≠ 0
  · exact if_pos hform
  · refine (if_neg hform).trans ?_
    obtain ⟨hwidth, -⟩ := not_or.1 hform
    obtain h | ⟨hnone, hread⟩ | ⟨v, hsome, hwrite⟩ := hbad
    · exact absurd h hform
    · have hvalue : (Access.narrow a).value = none := by simp [Access.narrow, hnone]
      have hread' : s.readReg f (Access.narrow a).offset.toNat = none := hread
      simp only [hvalue, hread']
    · have hvalue : (Access.narrow a).value = some v := by
        have hv : v.toNat % 2 ^ (8 * a.width) = v.toNat := by
          rw [Decidable.not_not.1 hwidth]
          exact Nat.mod_eq_of_lt v.isLt
        simp only [Access.narrow, hsome, Option.map_some, hv, BitVec.ofNat_toNat, BitVec.setWidth_eq]
      have hwrite' : s.writeReg f (Access.narrow a).offset.toNat v.toNat = none := hwrite
      simp only [hvalue, hwrite']

theorem execBarMisuse_reads {v : Nat} (hruns : s.cdpRuns = true) (hwidth : a.width = 8) (halign : a.offset.toNat % 8 = 0) (hnone : a.value = none)
    (harea : inArea a.offset.toNat = false) (hmsix : ¬(0x3000 ≤ a.offset.toNat ∧ a.offset.toNat < 0x4000)) (hread : s.readReg f a.offset.toNat = some v) :
    execBarMisuse f a s = .next (s.emit (.readData (natBytes 8 v))) := by
  have hvalue : (Access.narrow a).value = none := by simp [Access.narrow, hnone]
  have hread' : s.readReg f (Access.narrow a).offset.toNat = some v := hread
  refine (if_neg (by simp [hruns])).trans ((if_neg (by rw [show (Access.narrow a).offset = a.offset from rfl, harea]; exact Bool.false_ne_true)).trans ((if_neg hmsix).trans ?_))
  refine (if_neg (not_or.2 ⟨Decidable.not_not.2 hwidth, Decidable.not_not.2 halign⟩)).trans ?_
  simp only [hvalue, hread']

end Registers

/-! ## The device window (R405) -/

section Windows
variable {h : Fin 2} {offset : BitVec 36} {n base x : Nat} {l : List Nat} {bytes : List Byte} {s : State}

theorem execWindowAccess_reads (hruns : s.cdpRuns = true) (hfrozen : s.mode ≠ .frozen) (hrecovery : s.mode ≠ .recovery) (hn : n ≠ 0)
    (hbase : base = (s.window h.val).base.toNat + offset.toNat) (hl : x :: l = addrs (base / 32) (ceilDiv (base + n) 32 - base / 32))
    (hwords : (x :: l).all s.windowWord = true) (hup : s.windowDown (x :: l) = none) :
    execWindowAccess h offset (.read n) s = .next ((s.noteSlow x).windowRead (x :: l) (base % 32) n) := by
  subst hbase
  refine (if_neg (by simp [hruns, hn])).trans ((if_neg ?_).trans ?_)
  · rw [← hl, hwords]
    simp [hfrozen, hrecovery]
  · simp only [← hl, hup]

theorem execWindowAccess_writes (hruns : s.cdpRuns = true) (hfrozen : s.mode ≠ .frozen) (hrecovery : s.mode ≠ .recovery) (hn : bytes ≠ [])
    (hbase : base = (s.window h.val).base.toNat + offset.toNat) (hl : x :: l = addrs (base / 32) (ceilDiv (base + bytes.length) 32 - base / 32))
    (hfirst : base % 32 = 0) (hlast : bytes.length % 32 = 0) (hwords : (x :: l).all s.windowWord = true) (hup : s.windowDown (x :: l) = none) :
    execWindowAccess h offset (.write bytes) s = .next ((s.noteSlow x).writeWords ((x :: l).zip (bytesWords (x :: l).length bytes))) := by
  subst hbase
  refine (if_neg (by simp [hruns, hn])).trans ((if_neg ?_).trans ?_)
  · rw [← hl, hwords]
    simp [hfrozen, hrecovery, hfirst, hlast]
  · simp only [← hl, hup]

/-- A write of words in part is refused (R405). -/
theorem execWindowAccess_refuses (hruns : s.cdpRuns = true) (hn : bytes ≠ []) (hbase : base = (s.window h.val).base.toNat + offset.toNat)
    (hpart : base % 32 ≠ 0 ∨ bytes.length % 32 ≠ 0) : execWindowAccess h offset (.write bytes) s = .next (s.windowRefuse h.val false) := by
  subst hbase
  exact (if_neg (by simp [hruns, hn])).trans (if_pos (.inr (.inr (.inl ⟨rfl, hpart⟩))))

end Windows

/-! ## Errors and links (R399, R411, R415) -/

section Errors
variable {h : Fin 2} {hit : PcieVictim} {s : State}

theorem execPcieError_meets {err : PcieError} (hruns : s.cdpRuns = true) :
    execPcieError h err hit s =
      let note := fun (sub : Nat) => s.countLog { cls := 8, counter := 0x9C00 + h.val, sub := sub, inst := h.val }
      match err with
      | .correctable => .next (note 0x01)
      | .nonfatal => .next (note 0x02)
      | .timeout => .next ((note 0x03).pcieFails h.val .fault hit)
      | .urOrCa => .next ((note 0x03).pcieFails h.val .fault hit)
      | .poisonedRead => .next ((note 0x04).pcieFails h.val .uncorrectable hit)
      | .poisonedWrite => .next (note 0x04) :=
  if_neg (by simp [hruns])

theorem execCxlLinkDrop_fails {n : Fin 4} (hruns : s.cdpRuns = true) (hup : s.objNat (0x8020 + n.val) 0x01 = 1) :
    execCxlLinkDrop n s = .next (((s.setObj (0x8020 + n.val) 0x01 (natBytes 1 2)).logEvent { cls := 9, code := 1, inst := n.val }).failBehind 2 n.val) :=
  if_pos ⟨hruns, hup⟩

theorem execPcieLinkUp_notes {rate width : Nat} (hok : pcieLinkOk rate width = true) (hon : s.mode ≠ .off) :
    execPcieLinkUp h rate width s = .next (({ s with pcie := s.pcie.put h.val { (s.pcie.get {} h.val : PciePort) with up := true, rate := rate, width := width } }).bumps
      [(0x8000 + h.val, 0x01), (0x8000 + h.val, 0x02), (0x8000 + h.val, 0x03)]) :=
  if_neg (not_or.2 ⟨by simp [hok], hon⟩)

end Errors

/-- Settles O53: each event under its conditions; a reset of a function leaves it as `resetFn_fn` says. -/
theorem hostPortsRun : Obligations.HostPortsRun := by
  refine ⟨?_, ?_, ?_, ?_, ?_, ?_, ?_, ?_, ?_, ?_, ?_, ?_⟩
  · intro h s t hruns ht
    exact execPerstN_resets hruns ht
  · intro f s hruns
    refine ⟨_, congrArg Host.Outcome.next (if_pos hruns), rfl, ?_, ?_, ?_, s.resetFn_queue f⟩
    all_goals rw [State.resetFn_fn]
  · rintro f a s hruns ⟨harea, hmsix⟩ hbad
    exact execBarMisuse_counts hruns harea hmsix hbad
  · rintro f a s v ⟨hruns, hwidth, halign, hnone⟩ ⟨harea, hmsix⟩ hread
    exact execBarMisuse_reads hruns hwidth halign hnone harea hmsix hread
  · rintro h offset n base x l s ⟨hruns, hfrozen, hrecovery, hn⟩ ⟨hbase, hl⟩ ⟨hwords, hup⟩
    exact execWindowAccess_reads hruns hfrozen hrecovery hn hbase hl hwords hup
  · rintro h offset bytes base x l s ⟨hruns, hfrozen, hrecovery, hn⟩ ⟨hbase, hl⟩ ⟨hfirst, hlast⟩ ⟨hwords, hup⟩
    exact execWindowAccess_writes hruns hfrozen hrecovery hn hbase hl hfirst hlast hwords hup
  · rintro h offset bytes base s ⟨hruns, hn⟩ ⟨hbase, hpart⟩
    exact execWindowAccess_refuses hruns hn hbase hpart
  · intro h hit s hruns
    exact execPcieError_meets (hit := hit) (err := .correctable) hruns
  · rintro h err hit s hruns (rfl | rfl)
    · exact execPcieError_meets (err := .timeout) hruns
    · exact execPcieError_meets (err := .urOrCa) hruns
  · intro h hit s hruns
    exact execPcieError_meets (err := .poisonedRead) hruns
  · rintro n s ⟨hruns, hup⟩
    exact execCxlLinkDrop_fails hruns hup
  · rintro h rate width s ⟨hok, hon⟩
    exact execPcieLinkUp_notes hok hon

end Sys2Proof.Machine
end

section
/-! PROOFS. Queue pairs, fetches and the Ethernet links (O54). -/
namespace Sys2Proof.Machine

/-! ## Packets of queue pairs (R416, R419) -/

section Packets
variable {e : Fin 2} {q : Nat} {s : State}

variable (hmode : s.mode = .running)
include hmode

theorem execRocePacket_bad : execRocePacket e .bad s = .next (s.countLog { cls := 10, counter := 0x9C20 + e.val, sub := 0x01, inst := e.val }) :=
  if_neg (Decidable.not_not.2 hmode)

variable (htakes : s.qpTakes e.val q = true) (hrts : s.qpState q = 1)
include htakes hrts

theorem execRocePacket_response (psn : BitVec 24) (marked : Bool) (l : List Byte) :
    execRocePacket e (.response q psn marked l) s = .next (if s.storeWaits q then s else s.readResponse q psn.toNat marked l) :=
  (if_neg (Decidable.not_not.2 hmode)).trans (congrArg Host.Outcome.next ((if_neg (by simp [htakes])).trans (if_pos hrts)))

theorem execRocePacket_ack (psn : BitVec 24) : execRocePacket e (.ack q psn) s = .next (s.sendAcked q psn.toNat) :=
  (if_neg (Decidable.not_not.2 hmode)).trans (congrArg Host.Outcome.next ((if_neg (by simp [htakes])).trans (if_pos hrts)))

theorem execRocePacket_nakSequence (psn : BitVec 24) : execRocePacket e (.nakSequence q psn) s = .next (s.qpRetries q) :=
  (if_neg (Decidable.not_not.2 hmode)).trans (congrArg Host.Outcome.next ((if_neg (by simp [htakes])).trans (if_pos hrts)))

theorem execRocePacket_nakFatal (psn : BitVec 24) : execRocePacket e (.nakFatal q psn) s = .next (s.qpFails q 2) :=
  (if_neg (Decidable.not_not.2 hmode)).trans (congrArg Host.Outcome.next ((if_neg (by simp [htakes])).trans (if_pos hrts)))

theorem execRocePacket_badResponse : execRocePacket e (.badResponse q) s = .next (s.qpFails q 3) :=
  (if_neg (Decidable.not_not.2 hmode)).trans (congrArg Host.Outcome.next ((if_neg (by simp [htakes])).trans (if_pos hrts)))

theorem execRocePacket_request : execRocePacket e (.request q) s = .next ((s.sendRoce q 0 4 []).qpFails q 4) :=
  (if_neg (Decidable.not_not.2 hmode)).trans (congrArg Host.Outcome.next ((if_neg (by simp [htakes])).trans (if_pos hrts)))

end Packets

theorem execQpAckTimeout_retries {q : Fin 1024} {s : State} (hlive : s.live = true) (hrts : s.qpState q.val = 1) (hbusy : (s.qp q.val).busy = true)
    (hdue : (s.qp q.val).lastAt + qcTimeout (s.qpConfig q.val) ≤ s.town) : execQpAckTimeout q s = .next (s.qpRetries q.val) :=
  if_pos ⟨hlive, hrts, hbusy, hdue⟩

/-! ## The end of an entry of the fetch (R422) -/

theorem execFetchEntryEnd_ends {i : Fin 256} {s t u v : State} {e : FetchEntry} {c : Nat} (hlive : s.live = true) (he : s.fetch[i.val]? = some e)
    (hend : s.fetchEnd e = some c) (ht : t = s.setFetch i.val { e with state := if c = 0 then 2 else 3, cause := c, data := [] })
    (hu : u = (if c = 0 then t else (t.clearRange (feDest e / 32) (feLength e / 32)).count (0x9C20 + qcPort (s.qpConfig (feQp e))) 0x05 1))
    (hv : v = u.setQp (feQp e) { u.qp (feQp e) with reads := (u.qp (feQp e)).reads.map (fun r => if r.entry = i.val then { r with entry := 256 } else r) }) :
    execFetchEntryEnd i s = .next (
      let w := (if feNotify e then v.notifyPeer (feQp e) (notifyBytes i.val c e) else v).pumpQp (feQp e) 16
      if w.fetchRuns then w else w.logEvent { cls := 10, code := 1, tenant := some (feTenant e), detail := i.val }) := by
  have hconfig : t.qpConfig (feQp e) = s.qpConfig (feQp e) := by rw [ht]; rfl
  rw [← hconfig] at hu
  subst hv hu ht
  simp only [execFetchEntryEnd, hlive, he, hend]

/-! ## The Ethernet links (R416) -/

theorem execEthLinkUp_notes {e : Fin 2} {s : State} (hon : s.mode ≠ .off) (hdown : s.objNat (0x8040 + e.val) 0x01 ≠ 1) :
    execEthLinkUp e s = .next (s.setObj (0x8040 + e.val) 0x01 (natBytes 1 1)) := if_neg (not_or.2 ⟨hon, hdown⟩)

theorem execEthLinkDown_notes {e : Fin 2} {s : State} (hon : s.mode ≠ .off) (hup : s.objNat (0x8040 + e.val) 0x01 ≠ 0) :
    execEthLinkDown e s = .next (s.setObj (0x8040 + e.val) 0x01 (natBytes 1 0)) := if_neg (not_or.2 ⟨hon, hup⟩)

/-- Settles O54: each packet and event under its conditions. -/
theorem storageRuns : Obligations.StorageRuns := by
  refine ⟨?_, fun _ _ hmode => execRocePacket_bad hmode, ?_, ?_, ?_, ?_⟩
  · rintro e q psn marked l s ⟨hmode, htakes, hrts⟩
    exact ⟨execRocePacket_response hmode htakes hrts psn marked l, execRocePacket_ack hmode htakes hrts psn, execRocePacket_nakSequence hmode htakes hrts psn,
      execRocePacket_nakFatal hmode htakes hrts psn, execRocePacket_badResponse hmode htakes hrts, execRocePacket_request hmode htakes hrts⟩
  · rintro q s ⟨hlive, hrts, hbusy, hdue⟩
    exact execQpAckTimeout_retries hlive hrts hbusy hdue
  · rintro i s t u v e c ⟨hlive, he, hend⟩ ht hu hv
    exact execFetchEntryEnd_ends hlive he hend ht hu hv
  · rintro e s ⟨hon, hdown⟩
    exact execEthLinkUp_notes hon hdown
  · rintro e s ⟨hon, hup⟩
    exact execEthLinkDown_notes hon hup

end Sys2Proof.Machine
end

section
/-! PROOFS. The commands over links, jobs, time, queue pairs and the fetch (O38). -/
namespace Sys2Proof.Machine

/-! ## A port that leaves UP (R313, R318 to R320) -/

@[simp] theorem State.fence_ports (s : State) (p : Nat) (f : Failure) : (s.fence p f).ports = s.ports := by
  have hfreeze : (s.endFreeze p).ports = s.ports := by
    unfold State.endFreeze
    split <;> simp
  unfold State.fence
  dsimp only
  split
  · exact (State.logEvent_ports ..).trans ((State.setPart_ports ..).trans hfreeze)
  · exact fieldIte State.ports (State.setPart_ports ..) rfl
  · rfl

@[simp] theorem State.closeSession_ports (s : State) (i : Nat) (tell : Bool) : (s.closeSession i tell).ports = s.ports := by
  unfold State.closeSession
  split
  · rfl
  · exact fieldIte State.ports (State.logEvent_ports ..) (State.logEvent_ports ..)

@[simp] theorem State.endRequest_ports (s : State) (r : Nat) : (s.endRequest r).ports = s.ports := by
  unfold State.endRequest
  split
  · rfl
  · exact State.count_ports ..

theorem State.endRequests_ports (s : State) (l : List (Nat × Outstanding)) : (l.foldl (fun s e => s.endRequest e.1) s).ports = s.ports :=
  List.foldlRecOn (motive := fun t : State => t.ports = s.ports) _ _ rfl fun _ ht _ _ => (State.endRequest_ports ..).trans ht

theorem State.closeSources_ports (s : State) (f : Source → Bool) : (s.closeSources f).ports = s.ports :=
  List.foldlRecOn (motive := fun t : State => t.ports = s.ports) _ _ rfl fun _ ht _ _ => fieldIte State.ports ((State.closeSession_ports ..).trans ht) ht

@[simp] theorem State.fencePort_ports (s : State) (n : Nat) : (s.fencePort n).ports = s.ports :=
  List.foldlRecOn (motive := fun t : State => t.ports = s.ports) _ _ rfl fun t ht e _ => by
    dsimp only
    split
    · exact ht
    · exact fieldIte State.ports ((State.fence_ports ..).trans ht) ht

theorem State.port_setPort_ne (s : State) {n m : Nat} (h : m ≠ n) (x : Port) : (s.setPort n x).port m = s.port m := by
  simp [State.port, State.setPort, Table.get_put_ne h]

/-- Port n is in the link state, with the cause, that it has in r. -/
def LinkStands (n : Nat) (r s : State) : Prop := (s.port n).link = (r.port n).link ∧ (s.port n).downCause = (r.port n).downCause

section LinkStands
variable {n : Nat} {r s : State} (h : LinkStands n r s)
include h

theorem LinkStands.of_port {t : State} (ht : t.port n = s.port n) : LinkStands n r t := by
  rw [LinkStands, ht]
  exact h

theorem LinkStands.of_ports {t : State} (ht : t.ports = s.ports) : LinkStands n r t := h.of_port (by simp only [State.port, ht])

/-- A credit owed by a port changes neither its link state nor its cause. -/
theorem LinkStands.oweCredit (i cls vc : Nat) : LinkStands n r (s.oweCredit i cls vc) := by
  unfold State.oweCredit
  split
  · obtain rfl | hn := Decidable.em (n = i)
    · rw [LinkStands, State.port_setPort]
      exact h
    · exact h.of_port (s.port_setPort_ne hn _)
  · exact h

theorem LinkStands.packetGone (k : Nat) (q : Queued) : LinkStands n r (s.packetGone k q) := by
  have howed := h.oweCredit (k / 4) (k / 2 % 2) (k % 2)
  unfold State.packetGone
  dsimp only
  split
  · exact howed.of_ports rfl
  · exact howed

theorem LinkStands.packetsGone (k : Nat) (l : List Queued) : LinkStands n r (l.foldl (fun s q => s.packetGone k q) s) :=
  List.foldlRecOn (motive := LinkStands n r) _ _ h fun _ ht q _ => ht.packetGone k q

theorem LinkStands.discardOut (m : Nat) : LinkStands n r (s.discardOut m).2 :=
  List.foldlRecOn (motive := fun a : Nat × State => LinkStands n r a.2) _ _ h fun a ha e _ =>
    LinkStands.packetsGone (s := a.2.setBuffer e.1 (e.2.filter (fun q => q.out != some m))) (ha.of_ports rfl) e.1 _

theorem LinkStands.leaveUp (m : Nat) (old : Port) : LinkStands n r (s.leaveUp m old) := by
  have hdiscarded := h.discardOut m
  unfold State.leaveUp
  generalize s.discardOut m = d at hdiscarded ⊢
  obtain ⟨waiting, discarded⟩ := d
  dsimp only
  refine LinkStands.of_ports ?_ (State.fencePort_ports ..)
  refine LinkStands.of_ports ?_ (State.closeSources_ports ..)
  refine LinkStands.of_ports ?_ (State.endRequests_ports ..)
  exact hdiscarded.of_ports ((State.count_ports ..).trans (State.countLog_ports ..))

end LinkStands

/-- A port that leaves its state is in the one that it leaves for, with the cause. -/
theorem State.port_leavePort (s : State) (n dest_ cause : Nat) :
    ((s.leavePort n dest_ cause).port n).link = dest_ ∧ ((s.leavePort n dest_ cause).port n).downCause = cause := by
  unfold State.leavePort
  extract_lets x left
  have hleft : (left.port n).link = dest_ ∧ (left.port n).downCause = cause := by
    rw [State.port_setPort]
    exact ⟨rfl, rfl⟩
  split
  · obtain ⟨hlink, hcause⟩ := LinkStands.leaveUp (r := left) (s := left) (n := n) ⟨rfl, rfl⟩ n x
    exact ⟨hlink.trans hleft.1, hcause.trans hleft.2⟩
  · exact hleft

theorem State.retrain_down {s : State} {n : Nat} (h : (s.port n).link ≠ 0) : s.retrain n = s.leavePort n 1 4 := if_neg h
theorem State.retrain_disabled {s : State} {n : Nat} (h : (s.port n).link = 0) : s.retrain n = s := if_pos h

theorem State.linkEnable_begins {s : State} {n : Nat} (h : (s.port n).link = 0) : ((s.linkEnable n true).port n).link = 2 := by
  have he : s.linkEnable n true = s.beginTraining n := by
    unfold State.linkEnable
    dsimp only
    rw [if_pos rfl, if_pos h]
  rw [he, State.beginTraining, State.port_setPort]

theorem State.linkEnable_leaves {s : State} {n : Nat} (h : (s.port n).link ≠ 0) : s.linkEnable n false = s.leavePort n 0 5 := by
  unfold State.linkEnable
  dsimp only
  rw [if_neg Bool.false_ne_true, if_neg h]

/-! ## CLOSE (R346) -/

theorem State.packetGone_time (s : State) (k : Nat) (q : Queued) : (s.packetGone k q).time = s.time := by
  have howed : (s.oweCredit (k / 4) (k / 2 % 2) (k % 2)).time = s.time := fieldIte State.time (State.bumpWhere_time ..) rfl
  unfold State.packetGone
  dsimp only
  split
  · exact howed
  · exact howed

theorem State.decideAlone_jobs (s : State) (p : Nat) : (s.decideAlone p).jobs = s.jobs := fieldIte State.jobs rfl (State.setPart_jobs ..)

theorem State.closeJob_job (s : State) (j : Nat) : (s.closeJob j).job j = { state := 2, closedAt := s.town } := by
  unfold State.closeJob
  extract_lets tag emptied left arrived freed
  have hemptied : emptied.time = s.time :=
    List.foldlRecOn (motive := fun t : State => t.time = s.time) _ _ rfl fun t ht e _ =>
      (State.count_time ..).trans (List.foldlRecOn (motive := fun u : State => u.time = s.time) _ _ ht fun _ hu _ _ => (State.packetGone_time ..).trans hu)
  have hfreed : freed.time = s.time := (State.count_time ..).trans hemptied
  rw [State.job, State.setJob, State.bumpWhere_jobs]
  refine (Table.get_put_self ..).trans ?_
  rw [State.town, hfreed]
  rfl

/-! ## The fetch (R421) -/

theorem map_setAt {α β : Type} {f : α → β} : ∀ {l : List α} {i : Nat} {v : α}, (∀ x, l[i]? = some x → f v = f x) → (setAt l i v).map f = l.map f
  | [], _, _, _ => rfl
  | x :: l, 0, v, h => by simp [setAt, h x rfl]
  | x :: l, i + 1, v, h => by simp [setAt, map_setAt (l := l) (i := i) h]

/-- The READs that a queue pair issues leave the entries the manifest gives. -/
theorem State.pumpQp_bytes (q : Nat) : ∀ (n : Nat) (s : State), (s.pumpQp q n).fetch.map FetchEntry.bytes = s.fetch.map FetchEntry.bytes
  | 0, _ => rfl
  | n + 1, s => by
    unfold State.pumpQp
    split
    · rfl
    next i _ =>
      extract_lets e x c m r u
      split
      · rfl
      · refine (State.pumpQp_bytes q n _).trans (map_setAt fun y hy => ?_)
        have he : e = y := by simp [e, State.fetchAt, List.getD, hy]
        rw [← he]

/-! ## The acts of the rows -/

section Acts
variable {s : State} {a : Ask}

theorem actRetrain_ok {n : Nat} (hi : a.index = 0x7100 + n) : actRetrain s a = .ok { s := s.retrain n } := by
  simp only [actRetrain, hi, Nat.add_sub_cancel_left]

theorem actLinkEnable_ok {n : Nat} (hi : a.index = 0x7100 + n) (hu : a.sub = 0x02) :
    actLinkEnable s a = .ok { s := (s.storeRaw (0x7100 + n) 0x02 a.value).linkEnable n (a.num == 1) } := by
  simp only [actLinkEnable, hi, hu, Nat.add_sub_cancel_left]

theorem actOpen_ok {j : Nat} (hi : a.index = 0x7200 + j) (hopen : s.openable j = true) : actOpen s a = .ok { s := (s.setJob j { state := 1 }).jobEvent j 0x01 } := by
  simp only [actOpen, hi, Nat.add_sub_cancel_left, needs, hopen, if_true]

theorem actClose_ok {j : Nat} (hi : a.index = 0x7200 + j) (hstate : (s.job j).state = 1)
    (hstep : (s.part (s.jobPart j)).stepState = .idle ∨ (s.part (s.jobPart j)).stepState = .held) :
    actClose s a = .ok { s := (s.closeJob j).decideAlone (s.jobPart j) } := by
  have hmay : ((s.job j).state == 1 && ((s.part (s.jobPart j)).stepState == .idle || (s.part (s.jobPart j)).stepState == .held)) = true := by
    rcases hstep with h | h
    · rw [hstate, h]; rfl
    · rw [hstate, h]; rfl
  simp only [actClose, hi, Nat.add_sub_cancel_left, needs, hmay, if_true]

theorem State.timeTo_mode (s : State) (m : TimeMode) (theta : Int) : (s.timeTo m theta).time.mode = m := by
  unfold State.timeTo
  split
  · assumption
  · rw [State.bump_time, State.logEvent_time]

theorem actTimeParent_ok {m : TimeMode} (hi : a.index = 0x3000) (hu : a.sub = 0x03) (hnum : a.num ≤ 6 ∨ a.num = 0xFF)
    (hm : m = (if a.num = 6 then .root else if a.num = 0xFF then .free else .acquiring)) :
    actTimeParent s a = .ok { s := ({ s.storeRaw 0x3000 0x03 a.value with time := { (s.storeRaw 0x3000 0x03 a.value).time with
      adjust := if m = TimeMode.acquiring then s.time.adjust else 0, slewLeft := 0, acqRun := 0, offRun := 0, stepDue := none, lastRecord := s.town } } : State).timeTo m 0 } := by
  have hrange : (decide (a.num ≤ 6) || a.num == 0xFF) = true := by simpa using hnum
  subst hm
  simp only [actTimeParent, needs, hrange, if_true, hi, hu]
  rfl

theorem actQpState_resets {q : Nat} (hi : a.index = 0x8400 + q) (hu : a.sub = 0x01) (hnum : a.num = 0) :
    actQpState s a = .ok { s := ((if s.qpState q = 0 then s else s.setObj (0x8400 + q) 0x03 (natBytes 1 5)).storeRaw (0x8400 + q) 0x01 a.value).setQp q {} } := by
  simp only [actQpState, needs, hnum, hi, hu, Nat.add_sub_cancel_left, if_true]
  rfl

theorem actQpState_readies {q : Nat} (hi : a.index = 0x8400 + q) (hu : a.sub = 0x01) (hnum : a.num = 1) (hreset : s.qpState q = 0)
    (hconfig : qpConfigOk (s.qpConfig q) = true) :
    actQpState s a = .ok { s := (s.storeRaw (0x8400 + q) 0x01 a.value).setQp q { psn := leAt (s.qpConfig q) 8 3, lastAt := s.town } } := by
  have hmay : (s.qpState q == 0 && qpConfigOk (s.qpConfig q)) = true := by rw [hreset, hconfig]; rfl
  simp only [actQpState, needs, hnum, hi, hu, Nat.add_sub_cancel_left, hmay, if_true]
  rfl

theorem actFetchStart_ok {u : State} (hnone : (pieces128 (s.obj 0x8100 0x01)).findSome? (s.fetchCause a) = none) (hfree : s.fetchRuns = false)
    (hu : u = ({ s with fetch := (pieces128 (s.obj 0x8100 0x01)).map (fun b => { bytes := b }) } : State).bump 0x8100 0x03) :
    actFetchStart s a = .ok { s := ((u.fetch.map feQp).eraseDups).foldl (fun s q => s.pumpQp q 16) u } := by
  subst hu
  simp only [actFetchStart, hnone, needs, hfree, Bool.not_false, if_true]

end Acts

/-- Settles O38: each request runs its act, which succeeds under the conditions of its rule; a port leaves its state as `port_leavePort` says, even from UP. -/
theorem roadCommandsRun : Obligations.RoadCommandsRun := by
  refine ⟨?_, ?_, ?_, ?_, ?_, ?_, ?_, ?_, ?_⟩
  · intro s T src l rest a n h
    refine ⟨T.retrain n.val, congrArg Host.Outcome.next (row_runs_nth h n.isLt (actRetrain_ok (row_object h).1)), rfl, fun hlink => ?_, fun hlink => ?_⟩
    · rw [State.retrain_down hlink]
      exact T.port_leavePort n.val 1 4
    · exact State.retrain_disabled hlink
  · intro s T src l rest a n h
    obtain ⟨hi, hu⟩ := row_object h
    refine ⟨_, congrArg Host.Outcome.next (row_runs_nth h n.isLt (actLinkEnable_ok hi hu)), rfl, fun hon hlink => ?_, fun hoff hlink => ?_⟩
    · rw [beq_iff_eq.2 hon]
      exact State.linkEnable_begins hlink
    · rw [beq_eq_false_iff_ne.2 hoff, State.linkEnable_leaves (s := T.storeRaw (0x7100 + n.val) 0x02 a.value) hlink]
      exact State.port_leavePort ..
  · intro s T src l rest a n h hopen
    exact congrArg Host.Outcome.next (row_runs_nth h n.isLt (actOpen_ok (row_object h).1 hopen))
  · intro s T src l rest a n h hstate hstep
    have hjob : ((T.closeJob n.val).decideAlone (T.jobPart n.val)).job n.val = { state := 2, closedAt := T.town } := by
      rw [State.job, State.decideAlone_jobs]
      exact T.closeJob_job n.val
    refine ⟨_, congrArg Host.Outcome.next (row_runs_nth h n.isLt (actClose_ok (row_object h).1 hstate hstep)), rfl, ?_, ?_⟩
    all_goals rw [hjob]
  · intro s T src l rest a m h hnum hm
    obtain ⟨hi, hu⟩ := row_object h
    exact ⟨_, congrArg Host.Outcome.next (row_runs h (by decide) (actTimeParent_ok hi hu hnum hm)), rfl, State.timeTo_mode ..⟩
  · intro s T src l rest a h
    exact congrArg Host.Outcome.next (row_runs h (by decide) rfl)
  · intro s T src l rest a n h hnum
    obtain ⟨hi, hu⟩ := row_object h
    exact congrArg Host.Outcome.next (row_runs_nth h n.isLt (actQpState_resets hi hu hnum))
  · rintro s T src l rest a n h hnum ⟨hreset, hconfig⟩
    obtain ⟨hi, hu⟩ := row_object h
    exact congrArg Host.Outcome.next (row_runs_nth h n.isLt (actQpState_readies hi hu hnum hreset hconfig))
  · intro s T src l rest a u h hnone hfree hu
    refine ⟨_, congrArg Host.Outcome.next (row_runs h (by decide) (actFetchStart_ok hnone hfree hu)), rfl, ?_⟩
    have hlist : u.fetch.map FetchEntry.bytes = pieces128 (T.obj 0x8100 0x01) := by
      rw [hu, State.bump_fetch, List.map_map]
      exact List.map_id _
    exact (List.foldlRecOn (motive := fun v : State => v.fetch.map FetchEntry.bytes = u.fetch.map FetchEntry.bytes) _ _ rfl fun v hv q _ =>
      (State.pumpQp_bytes q 16 v).trans hv).trans hlist

end Sys2Proof.Machine
end

section
/-! PROOFS. The commands of the freeze, the snapshot, the power state and the sessions (O40). -/
namespace Sys2Proof.Machine

/-! ## Freezes (R481, R482, R487, R489) -/

section Freezes
variable {s : State} {c : Nat}

@[simp] theorem State.freezeBumps_freeze (s : State) : s.freezeBumps.freeze = s.freeze := rfl
@[simp] theorem State.freezeBumps_mode (s : State) : s.freezeBumps.mode = s.mode := rfl

theorem State.trigger_freezes (hstate : s.freeze.state = 0) (hlinked : s.linked = true) :
    (s.trigger c).freeze.state = 1 ∧ (s.trigger c).freeze.cause = c ∧ (s.trigger c).mode = .frozen := by
  have he : s.trigger c = s.beginFreeze c := (if_pos hstate).trans (if_pos hlinked)
  have hfreeze : (s.beginFreeze c).freeze = _ := (State.freezeBumps_freeze _).trans (State.countLog_freeze ..)
  have hmode : (s.beginFreeze c).mode = _ := (State.freezeBumps_mode _).trans (State.countLog_mode ..)
  rw [he, hfreeze, hmode]
  exact ⟨rfl, rfl, rfl⟩

/-- A trigger of a part that is RESUMING is kept. -/
theorem State.trigger_waits (hstate : s.freeze.state = 3) : (s.trigger c).freeze.again = c := by
  have he : s.trigger c = { s with freeze := { s.freeze with again := c } } := (if_neg (by omega)).trans (if_pos hstate)
  rw [he]

theorem State.resumeFreeze_resumes (hstate : s.freeze.state = 2) : s.resumeFreeze.freeze.state = 3 := by
  have he : s.resumeFreeze = ({ s with freeze := { s.freeze with state := 3, at_ := s.town, resume := false } } : State).freezeBumps := if_pos hstate
  rw [he, State.freezeBumps_freeze]

theorem State.resumeFreeze_waits (hstate : s.freeze.state = 1) : s.resumeFreeze.freeze.resume = true := by
  have he : s.resumeFreeze = { s with freeze := { s.freeze with resume := true } } := (if_neg (by omega)).trans (if_pos hstate)
  rw [he]

end Freezes

/-! ## The acts of the rows -/

section Acts
variable {s : State} {a : Ask}

theorem actFreeze_ok (hstart : s.startRuns = false) : actFreeze s a = .ok { s := s.trigger 2 } := if_pos (by simp [hstart])

theorem actFreezeAt_ok (hahead : s.town + 10 * Config.ticksPerUs ≤ a.num ∧ a.num ≤ s.town + 10 * Config.ticksPerSecond) (hstart : s.startRuns = false) :
    actFreezeAt s a = .ok { s := { s with freeze := { s.freeze with timed := some a.num } } } :=
  (if_pos (decide_eq_true hahead)).trans (if_pos (by simp [hstart]))

theorem actUnfreeze_ok (hstart : s.startRuns = false) (hpin : s.freeze.pin = false) (hstate : s.freeze.state ≠ 0) :
    actUnfreeze s a = .ok { s := s.resumeFreeze } := if_pos (by simp [hstart, hpin, hstate])

theorem actSnapshot_ok (hahead : s.town + 10 * Config.ticksPerUs ≤ a.num ∧ a.num ≤ s.town + 10 * Config.ticksPerSecond) (hnone : s.snapshot.due = none) :
    actSnapshot s a = .ok { s := ({ s with snapshot := { s.snapshot with due := some a.num } } : State).bump 0x9F00 0x02 } :=
  (if_pos (decide_eq_true hahead)).trans (if_pos (by simp [hnone]))

theorem actPark_ok (hmode : s.mode = .running) (hstart : s.startRuns = false) (hpower : s.powerState = 1) (hfree : s.busy = false) :
    actPark s a = .ok { s := ((({ s with mode := .parked } : State).logPower 6 0 0).count 0x9E20 0x04 1).bump 0x3200 0x01 } :=
  if_pos (by simp [hmode, hstart, hpower, hfree])

theorem actSessionOpen_ok {r k np : List Byte} {i : Nat} {proof : Option (List Byte)} (hroom : s.cdp.sessions.length < 64)
    (hlimit : s.sessionsOf a.src < a.src.limit) (hreq : (s.cdp.openReqs.find? (fun e => e.1.same a.src)).map Prod.snd = some r)
    (hproof : s.proofOf a.src (leAt r 0 1) (leAt r 1 1) = some proof) (hform : openReqOk r proof.isSome = true)
    (hsig : ∀ pk, proof = some pk → s.sigHolds pk r = true) (hrole : s.mode = .recovery → leAt r 0 1 = 1)
    (hi : i = freeSession s.cdp.sessions 64 1) (hnp : np = natBytes 32 (s.draw 256).1.toNat)
    (hk : k = kmac256 (mlKemDecaps s.start.starts (slice r 36 1568)) (slice r 4 32 ++ np ++ r.take 2 ++ natBytes 2 i) 256 (ascii "CAETH-CDP-KEY")) :
    actSessionOpen s a = .ok {
      s := (((s.draw 256).2.setSession i { source := a.src, role := leAt r 0 1, tenant := leAt r 1 1, key := k, lastAt := s.town }).count 0x9D00 0x05 1).logEvent
        { cls := 12, code := 3, tenant := if leAt r 0 1 = 3 then some (leAt r 1 1) else none, detail := i },
      body := np ++ kmac256 k [] 256 (ascii "CAETH-CDP-CONFIRM"), opened := some i } := by
  have hfull : ¬(64 ≤ s.cdp.sessions.length ∨ a.src.limit ≤ s.sessionsOf a.src) := by omega
  have hrecovery : ¬(s.mode = .recovery ∧ leAt r 0 1 ≠ 1) := fun h => h.2 (hrole h.1)
  subst hk hnp hi
  simp only [actSessionOpen, if_neg hfull, hreq, hproof, hform, Bool.not_true, Bool.false_eq_true, if_false]
  refine (if_neg ?_).trans (if_neg hrecovery)
  cases proof with
  | none => exact Bool.false_ne_true
  | some pk => simp [hsig pk rfl]

theorem actRelay_ok {n r : Nat} (hzero : slice a.value 2 2 = zeros 2) (hform : cLengthOk (a.value.drop 4) = true) (hknown : s.known (leAt a.value 0 2) = true)
    (hn : n = (s.egressFrom s.wholeTorus s.here (s.coordsOf (leAt a.value 0 2))).getD 6) (hr : r = s.freeTag 65536 s.rtag) :
    actRelay s a = .ok {
      s := ({ s with
              rtag := (r + 1) % 65536
              outstanding := s.outstanding.put r { port := n, epoch := (s.port n).txEpoch, at_ := s.town, session := a.sid, tid := a.tid } } : State).sendService
             { type := 0x2C, dst := leAt a.value 0 2, src := 0, rtag := r, epoch := (s.port n).txEpoch }
             (asPayload (bytesWords ((a.value.drop 4).length / 32) (a.value.drop 4))) none } := by
  subst hr hn
  exact if_neg (by simp [hzero, hform, hknown])

end Acts

/-- Settles O40: each request runs its act, which succeeds under the conditions of its rule. -/
theorem partCommandsRun : Obligations.PartCommandsRun := by
  refine ⟨?_, ?_, ?_, ?_, ?_, ?_, ?_, ?_, ?_⟩
  · intro s T src l rest a h hstart
    exact ⟨T.trigger 2, congrArg Host.Outcome.next (row_runs h (by decide) (actFreeze_ok hstart)), rfl, State.trigger_freezes, State.trigger_waits⟩
  · intro s T src l rest a h hahead hstart
    exact congrArg Host.Outcome.next (row_runs h (by decide) (actFreezeAt_ok hahead hstart))
  · rintro s T src l rest a h ⟨hstart, hpin, hstate⟩
    exact ⟨T.resumeFreeze, congrArg Host.Outcome.next (row_runs h (by decide) (actUnfreeze_ok hstart hpin hstate)), rfl, State.resumeFreeze_resumes,
      State.resumeFreeze_waits⟩
  · intro s T src l rest a h hahead hnone
    exact congrArg Host.Outcome.next (row_runs h (by decide) (actSnapshot_ok hahead hnone))
  · rintro s T src l rest a h ⟨hmode, hstart, hpower, hfree⟩
    exact congrArg Host.Outcome.next (row_runs h (by decide) (actPark_ok hmode hstart hpower hfree))
  · rintro s T src l rest a r k np i proof h ⟨hroom, hlimit⟩ hreq ⟨hproof, hform⟩ hsig hrole ⟨hi, hnp⟩ hk
    exact congrArg Host.Outcome.next (row_runs h (by decide) (actSessionOpen_ok hroom hlimit hreq hproof hform hsig hrole hi hnp hk))
  · intro s T src l rest a h
    exact congrArg Host.Outcome.next (row_runs h (by decide) rfl)
  · rintro s T src l rest a n r h ⟨hzero, hform, hknown⟩ hn hr
    exact congrArg Host.Outcome.next (row_runs h (by decide) (actRelay_ok hzero hform hknown hn hr))
  · intro s T src l rest a h
    exact congrArg Host.Outcome.next (row_runs h (by decide) rfl)

end Sys2Proof.Machine
end
